-- ==== Sys2Proof/Word.lean ====
section
/-! DEFINITION. The word types of the WY36 model (R5, R7): a register word holds 64 bits, a byte 8. -/

namespace Sys2Proof

/-- A register word (R7): 32-bit registers keep bits [63:32] zero. -/
abbrev Word64 := BitVec 64

/-- A byte of memory. -/
abbrev Byte := BitVec 8

end Sys2Proof
end

