-- ==== Sys2Proof/Machine/Bits.lean ====
section
/-! DEFINITION. Bit fields, sign extension, byte order and list helpers used by every unit (R5, R6). -/

namespace Sys2Proof.Machine

/-- Bits [lo + n - 1 : lo] of a natural number (R5). -/
def bits (w lo n : Nat) : Nat := (w >>> lo) % 2 ^ n

/-- Bit `i` of a natural number. -/
def bit (w i : Nat) : Bool := (w >>> i) % 2 == 1

/-- 1 for true, 0 for false. -/
def b2n (b : Bool) : Nat := if b then 1 else 0

/-- `w` with bits [lo + n - 1 : lo] replaced by the low `n` bits of `v`. -/
def putBits (w lo n v : Nat) : Nat :=
  let hi := (w >>> (lo + n)) <<< (lo + n)
  hi + (v % 2 ^ n) <<< lo + w % 2 ^ lo

/-- The two's-complement value of the low `n` bits of `v`. -/
def signed (n v : Nat) : Int :=
  let u := v % 2 ^ n
  if u < 2 ^ (n - 1) then (u : Int) else (u : Int) - (2 : Int) ^ n

/-- The low `n` bits of an integer, as an unsigned number. -/
def wrap (n : Nat) (v : Int) : Nat := (v % ((2 : Int) ^ n)).toNat

/-- `v` limited to `lim` (saturating counters, R524). -/
def satAt (lim v : Nat) : Nat := if v ≤ lim then v else lim

/-- Largest 32-bit value. -/
def max32 : Nat := 0xFFFFFFFF

/-- Largest 64-bit value. -/
def max64 : Nat := 0xFFFFFFFFFFFFFFFF

/-- The little-endian value of a list of bytes (R6). -/
def leNat : List Byte → Nat
  | [] => 0
  | b :: bs => b.toNat + 256 * leNat bs

/-- The low `n` bytes of a number, little-endian (R6). -/
def leBytes : Nat → Nat → List Byte
  | 0, _ => []
  | n + 1, v => BitVec.ofNat 8 v :: leBytes n (v / 256)

/-- The big-endian value of a list of bytes (R6, wire fields). -/
def beNat (bs : List Byte) : Nat := leNat bs.reverse

/-- The low `n` bytes of a number, big-endian (R6, wire fields). -/
def beBytes (n v : Nat) : List Byte := (leBytes n v).reverse

/-- The number at byte `off`, `n` bytes long, little-endian, of a structure held as bytes. -/
def leAt (bs : List Byte) (off n : Nat) : Nat := leNat ((bs.drop off).take n)

/-- Replace element `i` of a list; no change when there is none. -/
def listSet {α : Type} : List α → Nat → α → List α
  | [], _, _ => []
  | _ :: xs, 0, y => y :: xs
  | x :: xs, i + 1, y => x :: listSet xs i y

/-- Change element `i` of a list by a function; no change when there is none. -/
def listMod {α : Type} : List α → Nat → (α → α) → List α
  | [], _, _ => []
  | x :: xs, 0, f => f x :: xs
  | x :: xs, i + 1, f => x :: listMod xs i f

/-- The list cut into pieces of `n` elements, at most `fuel` of them. -/
def piecesFuel {α : Type} : Nat → Nat → List α → List (List α)
  | 0, _, _ => []
  | fuel + 1, n, l => if l.isEmpty then [] else l.take n :: piecesFuel fuel n (l.drop n)

/-- The list cut into consecutive pieces of `n` elements; the last may be shorter. -/
def pieces {α : Type} (n : Nat) (l : List α) : List (List α) := piecesFuel l.length n l

/-- What is left of `a` when `b` is taken away; 0 when `b` is more. -/
def minus (a b : Nat) : Nat := a - b

/-- Ceiling division. -/
def cdiv (a b : Nat) : Nat := (a + b - 1) / b

/-- The index of the first element that satisfies `p`. -/
def indexWhere {α : Type} (p : α → Bool) : List α → Option Nat
  | [] => none
  | x :: xs => if p x then some 0 else (indexWhere p xs).map (· + 1)

/-- The value bound to a key in an association list. -/
def assocGet {α : Type} (k : Nat) : List (Nat × α) → Option α
  | [] => none
  | (j, v) :: r => if j = k then some v else assocGet k r

/-- Bind a key in an association list kept in rising order of keys. -/
def assocPut {α : Type} (k : Nat) (v : α) : List (Nat × α) → List (Nat × α)
  | [] => [(k, v)]
  | (j, w) :: r =>
    if k < j then (k, v) :: (j, w) :: r
    else if k = j then (k, v) :: r
    else (j, w) :: assocPut k v r

/-- Remove a key from an association list. -/
def assocDel {α : Type} (k : Nat) : List (Nat × α) → List (Nat × α)
  | [] => []
  | (j, w) :: r => if j = k then r else (j, w) :: assocDel k r

/-- The sum of a list of numbers. -/
def sumNat (l : List Nat) : Nat := l.foldl (· + ·) 0

/-- The indexes below `n` whose bit of a mask is set, lowest first. -/
def maskIdx (n m : Nat) : List Nat := (List.range n).filter (bit m)

end Sys2Proof.Machine
end

