-- ==== Sys2Proof/Machine/Num.lean ====
section
/-! DEFINITION. Number formats, conversion and rounding, products and sums, random bits and Kitty cells: R27 to R56.
Values are exact: a significand, a power of two and a sign; every rounding is one of R35 and R36. -/

namespace Sys2Proof.Machine

/-! ## Values -/

/-- A value of the formats of R28: NaN, an infinity, or (−1)^neg × m × 2^e. -/
inductive Num where
  | nan
  | inf (neg : Bool)
  | fin (neg : Bool) (m : Nat) (e : Int)
deriving DecidableEq, Repr

/-- The formats of R27 in the order of their codes. -/
inductive Fmt where
  | fp32 | bf16 | fp16 | e4m3 | e5m2 | mx8e4m3 | mx8e5m2 | mx6e3m2 | mx6e2m3 | mx4e2m1 | int8 | int32
deriving DecidableEq, Repr

/-- The format with a 4-bit code; codes 0xC to 0xF are reserved (R27). -/
def Fmt.ofCode : Nat → Option Fmt
  | 0 => some .fp32 | 1 => some .bf16 | 2 => some .fp16 | 3 => some .e4m3 | 4 => some .e5m2
  | 5 => some .mx8e4m3 | 6 => some .mx8e5m2 | 7 => some .mx6e3m2 | 8 => some .mx6e2m3
  | 9 => some .mx4e2m1 | 10 => some .int8 | 11 => some .int32 | _ => none

/-- The 4-bit code of a format (R27). -/
def Fmt.code : Fmt → Nat
  | .fp32 => 0 | .bf16 => 1 | .fp16 => 2 | .e4m3 => 3 | .e5m2 => 4 | .mx8e4m3 => 5 | .mx8e5m2 => 6
  | .mx6e3m2 => 7 | .mx6e2m3 => 8 | .mx4e2m1 => 9 | .int8 => 10 | .int32 => 11

/-- Bits of one element (R27). -/
def Fmt.ebits : Fmt → Nat
  | .fp32 => 32 | .bf16 => 16 | .fp16 => 16 | .e4m3 => 8 | .e5m2 => 8 | .mx8e4m3 => 8 | .mx8e5m2 => 8
  | .mx6e3m2 => 6 | .mx6e2m3 => 6 | .mx4e2m1 => 4 | .int8 => 8 | .int32 => 32

/-- Whether a format shares an E8M0 scale over 32 elements (R27). -/
def Fmt.isMx : Fmt → Bool
  | .mx8e4m3 | .mx8e5m2 | .mx6e3m2 | .mx6e2m3 | .mx4e2m1 => true
  | _ => false

/-- Whether a format is an integer format (R27). -/
def Fmt.isInt : Fmt → Bool
  | .int8 | .int32 => true
  | _ => false

/-- Parameters of a floating-point element format (R28): mantissa bits, bias, the magnitude code of its largest
finite value, and whether it has infinities and NaNs. -/
structure FloatPar where
  mant : Nat
  bias : Nat
  maxMag : Nat
  hasInf : Bool
  hasNan : Bool
deriving DecidableEq, Repr

/-- The parameters of R28; the integer formats have none and take FP32's, which nothing reads. -/
def Fmt.par : Fmt → FloatPar
  | .fp32 => ⟨23, 127, 0x7F7FFFFF, true, true⟩
  | .bf16 => ⟨7, 127, 0x7F7F, true, true⟩
  | .fp16 => ⟨10, 15, 0x7BFF, true, true⟩
  | .e4m3 | .mx8e4m3 => ⟨3, 7, 0x7E, false, true⟩
  | .e5m2 | .mx8e5m2 => ⟨2, 15, 0x7B, true, true⟩
  | .mx6e3m2 => ⟨2, 3, 0x1F, false, false⟩
  | .mx6e2m3 => ⟨3, 1, 0x1F, false, false⟩
  | .mx4e2m1 => ⟨1, 1, 0x7, false, false⟩
  | .int8 | .int32 => ⟨23, 127, 0x7F7FFFFF, true, true⟩

/-- The exponent of the largest normal power of two of an MX element format (R33). -/
def Fmt.emax : Fmt → Int
  | .mx8e4m3 => 8 | .mx8e5m2 => 15 | .mx6e3m2 => 4 | .mx6e2m3 => 2 | .mx4e2m1 => 2 | _ => 0

/-- The canonical quiet NaN of a format (R30). -/
def Fmt.canonNan : Fmt → Nat
  | .fp32 => 0x7FC00000 | .bf16 => 0x7FC0 | .fp16 => 0x7E00 | .e4m3 | .e5m2 | .mx8e4m3 | .mx8e5m2 => 0x7F
  | _ => 0

/-- The integer value of the two's-complement integer formats as a value. -/
def Num.ofInt (i : Int) : Num := .fin (i < 0) i.natAbs 0

/-- The value of one stored element, without a block scale (R28). -/
def Fmt.decode (f : Fmt) (w : Nat) : Num :=
  if f.isInt then Num.ofInt (signed f.ebits w)
  else
    let p := f.par
    let neg := bit w (f.ebits - 1)
    let mag := w % 2 ^ (f.ebits - 1)
    let man := mag % 2 ^ p.mant
    let ex := mag >>> p.mant
    if mag ≤ p.maxMag then
      if ex = 0 then .fin neg man (1 - p.bias - p.mant)
      else .fin neg (man + 2 ^ p.mant) ((ex : Int) - p.bias - p.mant)
    else if p.hasInf && man == 0 then .inf neg
    else .nan

/-- The sign of a value. -/
def Num.neg : Num → Bool
  | .nan => false
  | .inf n => n
  | .fin n _ _ => n

/-- The value with its sign changed. -/
def Num.negate : Num → Num
  | .nan => .nan
  | .inf n => .inf (!n)
  | .fin n m e => .fin (!n) m e

/-- The magnitude of a value. -/
def Num.abs : Num → Num
  | .nan => .nan
  | .inf _ => .inf false
  | .fin _ m e => .fin false m e

/-- Whether a value is finite. -/
def Num.isFin : Num → Bool
  | .fin _ _ _ => true
  | _ => false

/-- Whether a value is a zero of either sign. -/
def Num.isZero : Num → Bool
  | .fin _ m _ => m == 0
  | _ => false

/-- The signed significand of a finite value scaled to exponent `e0` (which is not above its own). -/
def scaleTo (neg : Bool) (m : Nat) (e e0 : Int) : Int :=
  let v : Int := ((m <<< (e - e0).toNat : Nat) : Int)
  if neg then -v else v

/-- The exact sum of two values (R49): an infinity beats finite values, opposite infinities give NaN, and an exact
zero sum is +0 unless both addends are −0, as IEEE 754 round to nearest gives it. -/
def Num.add : Num → Num → Num
  | .nan, _ => .nan
  | _, .nan => .nan
  | .inf a, .inf b => if a = b then .inf a else .nan
  | .inf a, .fin _ _ _ => .inf a
  | .fin _ _ _, .inf b => .inf b
  | .fin na ma ea, .fin nb mb eb =>
    let e0 := if ea ≤ eb then ea else eb
    let v := scaleTo na ma ea e0 + scaleTo nb mb eb e0
    if v = 0 then .fin (na && nb) 0 0 else .fin (v < 0) v.natAbs e0

/-- The exact product of two values (R42): 0 × ±Infinity gives NaN. -/
def Num.mul : Num → Num → Num
  | .nan, _ => .nan
  | _, .nan => .nan
  | .inf a, .inf b => .inf (a != b)
  | .inf a, .fin b m _ => if m = 0 then .nan else .inf (a != b)
  | .fin a m _, .inf b => if m = 0 then .nan else .inf (a != b)
  | .fin a m e, .fin b n f => .fin (a != b) (m * n) (e + f)

/-- The exact product with 2^k. -/
def Num.scale (v : Num) (k : Int) : Num :=
  match v with
  | .fin n m e => .fin n m (e + k)
  | w => w

/-- Order of two values that are not NaN: −1, 0 or 1. -/
def Num.cmp : Num → Num → Int
  | .inf a, .inf b => if a = b then 0 else if a then -1 else 1
  | .inf a, .fin _ _ _ => if a then -1 else 1
  | .fin _ _ _, .inf b => if b then 1 else -1
  | .fin na ma ea, .fin nb mb eb =>
    let e0 := if ea ≤ eb then ea else eb
    let v := scaleTo na ma ea e0 - scaleTo nb mb eb e0
    if v < 0 then -1 else if v = 0 then 0 else 1
  | _, _ => 0

/-! ## Rounding (R35, R36) -/

/-- How a conversion rounds (R31): to nearest even, or stochastically with 16 random bits (R36). -/
inductive Rnd where
  | rne
  | sr (r : Nat)
deriving DecidableEq, Repr

/-- The multiple of 2^q that `m` × 2^e rounds to, as an integer (R35, R36). -/
def roundInt (m : Nat) (e q : Int) (rnd : Rnd) : Nat :=
  if q ≤ e then m <<< (e - q).toNat
  else
    let s := (q - e).toNat
    let t := m >>> s
    match rnd with
    | .rne =>
      let rem := m % 2 ^ s
      let half := 2 ^ (s - 1)
      if rem > half then t + 1 else if rem = half then t + t % 2 else t
    | .sr r =>
      let d := if 16 ≤ s then (m >>> (s - 16)) % 65536 else (m % 2 ^ s) <<< (16 - s)
      if d + r ≥ 65536 then t + 1 else t

/-- The magnitude code of a finite value rounded to a format's precision with an unbounded exponent range (R31): the
stored exponent and mantissa read as one number, which may lie above the format's largest. -/
def Fmt.magRound (f : Fmt) (m : Nat) (e : Int) (rnd : Rnd) : Nat :=
  if m = 0 then 0
  else
    let p := f.par
    let qmin : Int := 1 - p.bias - p.mant
    let q0 : Int := e + Nat.log2 m - p.mant
    let q := if qmin ≤ q0 then q0 else qmin
    ((q - qmin).toNat <<< p.mant) + roundInt m e q rnd

/-- The result of one conversion: the stored bits, and whether a finite value lay beyond the range (R31, R50). -/
structure Conv where
  w : Nat
  ovf : Bool
deriving DecidableEq, Repr

/-- Conversion to one floating-point element under `cvt` (R31, R32). -/
def Fmt.encodeFloat (f : Fmt) (nosat : Bool) (rnd : Rnd) (v : Num) : Conv :=
  let p := f.par
  let sb := 2 ^ (f.ebits - 1)
  match v with
  | .nan => ⟨f.canonNan, false⟩
  | .inf n => if p.hasInf then ⟨(p.maxMag + 1) + (if n then sb else 0), false⟩ else ⟨f.canonNan, false⟩
  | .fin n m e =>
    let mag := f.magRound m e rnd
    let sgn := if n then sb else 0
    if mag ≤ p.maxMag then ⟨mag + sgn, false⟩
    else if nosat && !f.isMx then
      if p.hasInf then ⟨(p.maxMag + 1) + sgn, true⟩ else ⟨f.canonNan, true⟩
    else ⟨p.maxMag + sgn, true⟩

/-- Conversion to INT8 (R34). -/
def encodeInt8 (rnd : Rnd) (v : Num) : Conv :=
  match v with
  | .nan => ⟨0, false⟩
  | .inf n => ⟨if n then 0x80 else 0x7F, false⟩
  | .fin n m e =>
    let k : Int := roundInt m e 0 rnd
    let i := if n then -k else k
    if i > 127 then ⟨0x7F, true⟩ else if i < -128 then ⟨0x80, true⟩ else ⟨wrap 8 i, false⟩

/-- An FP32 word rounded to nearest even from an exact value, infinities on overflow (R35, R42). -/
def f32 (v : Num) : Nat := (Fmt.fp32.encodeFloat true .rne v).w

/-- The value of an FP32 word. -/
def f32v (w : Nat) : Num := Fmt.fp32.decode w

/-- FP32 addition, rounded to nearest even. -/
def f32Add (a b : Nat) : Nat := f32 ((f32v a).add (f32v b))

/-- FP32 multiplication, rounded to nearest even. -/
def f32Mul (a b : Nat) : Nat := f32 ((f32v a).mul (f32v b))

/-- The fused FP32 multiply-add a × b + c, rounded once to nearest even. -/
def f32Fma (a b c : Nat) : Nat := f32 (((f32v a).mul (f32v b)).add (f32v c))

/-! ## Microscaled blocks (R33) -/

/-- ⌊log2⌋ of a non-zero finite magnitude. -/
def Num.log2 : Num → Int
  | .fin _ m e => e + Nat.log2 m
  | _ => 0

/-- The larger of two finite magnitudes. -/
def Num.maxAbs (a b : Num) : Num := if a.abs.cmp b.abs < 0 then b.abs else a.abs

/-- The scale exponent X of a block of values (R33 steps 1 and 2). -/
def mxScale (f : Fmt) (vs : List Num) : Int :=
  let amax := vs.foldl Num.maxAbs (.fin false 0 0)
  if amax.isZero then -127
  else
    let x := amax.log2 - f.emax
    if x < -127 then -127 else if x > 127 then 127 else x

/-- A converted MX block: the stored scale, the element words, and which elements lay beyond the range (R33, R50). -/
structure MxBlock where
  scale : Nat
  elems : List Conv
deriving DecidableEq, Repr

/-- Conversion of up to 32 values into one MX block (R33); `rnds` gives each element's rounding. -/
def mxEncode (f : Fmt) (vs : List Num) (rnds : List Rnd) : MxBlock :=
  if vs.any (fun v => !v.isFin) then ⟨0xFF, vs.map fun _ => ⟨0, false⟩⟩
  else
    let x := mxScale f vs
    ⟨(x + 127).toNat, (vs.zip rnds).map fun vr => f.encodeFloat false vr.2 (vr.1.scale (-x))⟩

/-- The value of a microscaled element with stored scale `x` (R28): a scale of 0xFF is NaN. -/
def mxDecode (f : Fmt) (x w : Nat) : Num :=
  if x = 0xFF then .nan else (f.decode w).scale ((x : Int) - 127)

/-! ## Random bits (R37 to R39) -/

/-- One round of Philox4x32 with round key (k0, k1) (R37). -/
def philoxRound (k0 k1 c0 c1 c2 c3 : Nat) : Nat × Nat × Nat × Nat :=
  let p0 := 0xD2511F53 * c0
  let p1 := 0xCD9E8D57 * c2
  ((p1 >>> 32) ^^^ c1 ^^^ k0, p1 % 2 ^ 32, (p0 >>> 32) ^^^ c3 ^^^ k1, p0 % 2 ^ 32)

/-- `n` rounds of Philox4x32 with the key increments of R37. -/
def philoxRounds : Nat → Nat → Nat → Nat × Nat × Nat × Nat → Nat × Nat × Nat × Nat
  | 0, _, _, c => c
  | n + 1, k0, k1, (c0, c1, c2, c3) =>
    philoxRounds n ((k0 + 0x9E3779B9) % 2 ^ 32) ((k1 + 0xBB67AE85) % 2 ^ 32) (philoxRound k0 k1 c0 c1 c2 c3)

/-- Philox4x32-10 of a 64-bit key and a 128-bit counter: output word `i` (R37). -/
def philox (key ctr i : Nat) : Nat :=
  let (x0, x1, x2, x3) := philoxRounds 10 (bits key 0 32) (bits key 32 32)
    (bits ctr 0 32, bits ctr 32 32, bits ctr 64 32, bits ctr 96 32)
  if i = 0 then x0 else if i = 1 then x1 else if i = 2 then x2 else x3

/-- The users of random bits (R37, field purpose). -/
inductive Purpose where
  | drain | codec | vector
deriving DecidableEq, Repr

/-- The purpose code of R37. -/
def Purpose.code : Purpose → Nat
  | .drain => 0 | .codec => 1 | .vector => 2

/-- The Philox counter of R37 for element index `n`. -/
def philoxCtr (stream step : Nat) (p : Purpose) (n : Nat) : Nat :=
  ((stream % 2 ^ 32) <<< 96) + ((step % 2 ^ 48) <<< 48) + (p.code <<< 45) + (n >>> 3) % 2 ^ 45

/-- The 16 random bits of element `n` (R39). -/
def randBits (seed stream step : Nat) (p : Purpose) (n : Nat) : Nat :=
  let j := n % 8
  let x := philox seed (philoxCtr stream step p n) (j / 2)
  if j % 2 = 0 then bits x 0 16 else bits x 16 16

/-- The rounding that a cvt field selects for element `n` (R31, R36). -/
def cvtRnd (cvt seed stream step : Nat) (p : Purpose) (n : Nat) : Rnd :=
  if bits cvt 0 2 = 1 then .sr (randBits seed stream step p n) else .rne

/-! ## Sums inside an MMA (R41 to R46) -/

/-- The dot width d of an operand format (R41). -/
def Fmt.dot : Fmt → Nat
  | .fp32 => 1
  | .bf16 | .fp16 => 4
  | .mx4e2m1 => 16
  | _ => 8

/-- Whether A and B may have these formats in one MMA (R41). -/
def fmtPair (a b : Fmt) : Bool :=
  (a = b && a ≠ .int32)
  || (a = .e4m3 && b = .e5m2) || (a = .e5m2 && b = .e4m3)
  || (a = .mx8e4m3 && b = .mx8e5m2) || (a = .mx8e5m2 && b = .mx8e4m3)
  || (a = .mx6e3m2 && b = .mx6e2m3) || (a = .mx6e2m3 && b = .mx6e3m2)

/-- One level of the pairwise tree on FP32 words: adjacent pairs are added, an odd last value moves up (R44). -/
def treeLevel : List Nat → List Nat
  | a :: b :: r => f32Add a b :: treeLevel r
  | l => l

/-- `n` levels of the pairwise tree. -/
def treeLevels : Nat → List Nat → List Nat
  | 0, l => l
  | n + 1, l => treeLevels n (treeLevel l)

/-- The sum of FP32 words by the pairwise tree of R44, +0 for none. -/
def treeSum (l : List Nat) : Nat := (treeLevels l.length l).headD 0

/-- The first level of R43 on exact products: each pair sum is formed exactly and rounded once (R42). -/
def pairSums : List Num → List Nat
  | a :: b :: r => f32 (a.add b) :: pairSums r
  | [a] => [f32 a]
  | [] => []

/-- The chunk value of R43 from its exact products: the single rounded product for d = 1, else the dot tree. -/
def chunkValue (ps : List Num) : Nat :=
  match ps with
  | [p] => f32 p
  | _ => treeSum (pairSums ps)

/-- The chunk scaled by its two block scales (R45). -/
def chunkScale (xa xb t : Nat) : Nat :=
  if xa = 0xFF ∨ xb = 0xFF then Fmt.fp32.canonNan
  else f32 ((f32v t).scale ((xa : Int) + xb - 254))

/-- The saturating INT32 sum C + T, and whether it saturated (R46). -/
def int32Acc (c t : Int) : Int × Bool :=
  let v := c + t
  if v > 2147483647 then (2147483647, true) else if v < -2147483648 then (-2147483648, true) else (v, false)

/-! ## Kitty (R51 to R54) -/

/-- One Kitty cell (R51). -/
structure Kitty where
  sum : Int
  count : Nat
  nan : Bool
  pinf : Bool
  ninf : Bool
  inx : Bool
  lim : Bool
deriving DecidableEq, Repr

/-- A cleared cell: S, count and every flag zero (R51). -/
def Kitty.clear : Kitty := ⟨0, 0, false, false, false, false, false⟩

/-- The most addends a cell accepts (R53). -/
def kittyMax : Nat := 2 ^ 40

/-- A signed integer from a sign and a magnitude. -/
def signInt (neg : Bool) (m : Nat) : Int := if neg then -(m : Int) else m

/-- The result of one addend: the cell, and whether the addend-limit event is due (R53). -/
structure KittyAdd where
  cell : Kitty
  event : Bool
deriving DecidableEq, Repr

/-- The addend x × m × 2^e added to a cell that has room (R52). -/
def kittyPut (k : Kitty) (x : Num) (m : Nat) (e : Int) : Kitty :=
  match x with
  | .nan => { k with nan := true, count := k.count + 1 }
  | .inf n =>
    if m = 0 then { k with nan := true, count := k.count + 1 }
    else if n then { k with ninf := true, count := k.count + 1 }
    else { k with pinf := true, count := k.count + 1 }
  | .fin n mx ex =>
    let p := mx * m
    let pe := ex + e
    if p ≠ 0 ∧ pe + Nat.log2 p ≥ 128 then
      if n then { k with ninf := true, count := k.count + 1 } else { k with pinf := true, count := k.count + 1 }
    else
      let q := roundInt p pe (-149) .rne
      let exact := if -149 ≤ pe then true else p % 2 ^ ((-149) - pe).toNat == 0
      { k with sum := k.sum + signInt n q, count := k.count + 1, inx := k.inx || !exact }

/-- One addend offered to a cell (R52, R53). -/
def kittyAdd (k : Kitty) (x : Num) (m : Nat) (e : Int) : KittyAdd :=
  if k.count ≥ kittyMax then ⟨{ k with nan := true, lim := true }, !k.lim⟩
  else ⟨kittyPut k x m e, false⟩

/-- Read-out of a cell to a target format, rounded once to nearest even (R54). -/
def kittyRead (k : Kitty) (f : Fmt) : Nat :=
  if k.nan || (k.pinf && k.ninf) then f.canonNan
  else if k.pinf then (f.encodeFloat true .rne (.inf false)).w
  else if k.ninf then (f.encodeFloat true .rne (.inf true)).w
  else (f.encodeFloat true .rne (.fin (k.sum < 0) k.sum.natAbs (-149))).w

/-- The exact sum of FP32 words in Kitty, read out to FP32 (R47). -/
def kittySum (l : List Nat) : Nat :=
  kittyRead (l.foldl (fun k w => (kittyAdd k (f32v w) 1 0).cell) Kitty.clear) .fp32

end Sys2Proof.Machine
end

