-- ==== Sys2Proof/Machine/TypesMem.lean ====
section
/-! DEFINITION. State of the memory system: SRAM and HBM contents, error marks, the memory-side cache, write combining, the
pseudo-channel controllers, traffic generators, the repair window, the bridge and the coherent lines (R177 to R241), and the
contexts and translation caches (R258 to R276). -/

namespace Sys2Proof.Machine

/-- The access paths of R12 and R13, and the loader (R587). -/
inductive Path where
  | host | mgmt | dbg | loader
deriving DecidableEq, Repr

/-- What an ECC decode of a read finds in the array at that moment (R180, R222): nothing, an error that the code corrects, one that it
only detects, or one whose syndrome happens to be that of stored poison (R180, R223). -/
inductive Ecc where
  | clean | corrected | uncorrectable | asPoison
deriving DecidableEq, Repr

/-- The errors that an access meets, one for each 64-byte piece that it touches, in address order; a piece past the end is clean. -/
abbrev EccList := List Ecc

/-- What a read of memory meets on its way: the errors `ecc` of its granules in the array, and the addresses `beside` of the requests
that its bank serves first (R178, R180). -/
structure ReadMeets where
  ecc : EccList := []
  beside : List Nat := []
deriving DecidableEq, Repr

/-- A write's poison mark, the errors `ecc` that the merges of its partly written granules meet, and the addresses `beside` of the
requests that its bank serves first (R178, R180). -/
structure WriteMeets where
  poison : Bool
  ecc : EccList := []
  beside : List Nat := []
deriving DecidableEq, Repr

/-- A beat of the bridge: whether its CRC is `good`; `stall` counts the sender's bridge clocks, since its last beat, with traffic waiting
and no beat free, and `mesh` the receiver's mesh link-clocks in which a beat's output was taken by another input (R188, R211). -/
structure BeatIn where
  good : Bool
  stall : Nat := 0
  mesh : Nat := 0
deriving DecidableEq, Repr

/-- A service of an HBM controller: the errors `ecc` of the granule's chunks, and whether the request `waited` out tRC (R222, R247). -/
structure ServeMeets where
  ecc : EccList := []
  waited : Bool := false
deriving DecidableEq, Repr

/-- A DMA that completes: its `word` of the hand, and the errors `errs` that its reads of SRAM meet (R137, R180). -/
structure DmaDone where
  word : Nat
  errs : List (Nat × Ecc) := []
deriving DecidableEq, Repr

/-- What piece `i` of an access meets. -/
def EccList.at (l : EccList) (i : Nat) : Ecc := l.getD i .clean

/-- A fault that the vector engine detects (R114, R116): cause 0x1 at a cluster-SRAM offset, 0x2 in lanes or pipelines, 0x3 in
the chain table; the chain in use, whether a run or a drain uses it, whether it touches only masked lanes, and whether it
touches the rows of a K-split combination (R80). -/
structure VectorFault where
  cause : Fin 3
  offset : Fin 0x400000
  chain : Fin 8
  run : Bool
  masked : Bool
  comb : Bool
deriving DecidableEq, Repr

/-- A fault detected in a cluster while no hand runs there (R682): an uncorrectable granule met by a matrix feeder, a parity
error in an accumulator bank, a cell stack or a broadcast wire group of an engine; an uncorrectable granule met by the vector
engine, a parity error in its lanes or pipelines, or in an entry of its chain table. -/
inductive IdleFault where
  | feederRead (offset : Nat)
  | bank (engine : Fin 4) (bank : Fin 2)
  | stack (engine : Fin 4)
  | wires (engine : Fin 4)
  | operandRead (offset : Nat)
  | lanes
  | chainEntry (entry : Fin 8)
deriving DecidableEq, Repr

/-- One line of the memory-side cache (R227): granule index `g` of R215, its 256 bytes, the chunks that carry poison (bits 0
to 3), and the dirty and KEEP marks. -/
structure CLine where
  g : Nat
  data : List Byte
  poison : Nat
  dirty : Bool
  keep : Bool
deriving DecidableEq, Repr

/-- One write-combining entry (R232): granule, the bytes written (none where the mask is clear) and poisoned chunks. -/
structure WcEntry where
  g : Nat
  bytes : List (Option Byte)
  poison : Nat
deriving DecidableEq, Repr

/-- The hints of R228; none when no window contains the access. -/
inductive Hint where
  | none | keep | stream | last
deriving DecidableEq, Repr

/-- A request in a PC's queue (R216): granule, chunk mask and how often it was passed over; for a write its 256 bytes (of which
the chunks named count) and its poisoned chunks; for a read its hint, the bytes asked for and its tag. -/
structure HbmReq where
  g : Nat
  chunks : Nat
  passed : Nat
  data : List Byte
  poison : Nat
  hint : Hint
  off : Nat
  len : Nat
  tag : Nat
deriving DecidableEq, Repr

/-- One pseudo-channel's controller (R216 to R224): its queues of 32, the writes that a full write queue holds back at the port
that feeds it, the direction in use and the granules left of the batch, the open row of each bank, the corrective write-backs held (chunk
addresses PA ÷ 64), and the scrubber's next granule. -/
structure Pc where
  rq : List HbmReq
  wq : List HbmReq
  port : List HbmReq
  writing : Bool
  left : Nat
  rows : List (Nat × Nat)
  cwb : List Nat
  scrub : Nat
deriving DecidableEq, Repr

/-- A pseudo-channel after reset: empty queues, reads first, no row open. -/
def Pc.idle : Pc := ⟨[], [], [], false, 0, [], [], 0⟩

/-- A traffic-generator run (R236, R237): the latched control, count, range and seed, the PCs enabled, and the accesses that a
PC's read queue has let through so far. -/
structure TgenRun where
  ctl : Nat
  cnt : Nat
  range : Nat
  seed : Nat
  all : List Nat
  made : List (Nat × Nat)
deriving DecidableEq, Repr

/-- A repair command that runs (R240): op with the latched `rw.sel` and `rw.addr`. -/
structure RwRun where
  op : Nat
  sel : Nat
  addr : Nat
deriving DecidableEq, Repr

/-- Remote states of a coherent line (R191), in the order of their codes in R207. -/
inductive Coh where
  | I | S | M | IS | IM | SM | SI | MI
deriving DecidableEq, Repr

/-- The code of a remote state (R207). -/
def Coh.code : Coh → Nat
  | .I => 0 | .S => 1 | .M => 2 | .IS => 3 | .IM => 4 | .SM => 5 | .SI => 6 | .MI => 7

/-- The coherence messages of R191, in the order of their codes in R207. -/
inductive CohMsg where
  | RDS | RDM | UPG | EVS | EVM | SNPS | SNPI | DATS | DATM | GNTM | EVACK | RSPI | RSPS | RSPD | RSPEV
deriving DecidableEq, Repr

/-- The code of a coherence message (R207). -/
def CohMsg.code : CohMsg → Nat
  | .RDS => 0 | .RDM => 1 | .UPG => 2 | .EVS => 3 | .EVM => 4 | .SNPS => 5 | .SNPI => 6 | .DATS => 7 | .DATM => 8
  | .GNTM => 9 | .EVACK => 10 | .RSPI => 11 | .RSPS => 12 | .RSPD => 13 | .RSPEV => 14

/-- An access by an agent of a die to a coherent line (R190): the address, the length, the bytes to write (none for a read)
and the agent, by a number of the die's. -/
structure CohAccess where
  die : Nat
  pa : Nat
  len : Nat
  wdata : Option (List Byte)
  tag : Nat
deriving DecidableEq, Repr

/-- A read or a write of memory that waits, without fault, until its target serves it (R79, R188, R195, R231, R235): the die of its
agent, whether it comes from outside the hardware units, the address, the length, the bytes to write (none for a read), the poison mark,
and the errors that it meets. -/
structure MemReq where
  die : Nat
  outside : Bool
  pa : Nat
  len : Nat
  wdata : Option (List Byte)
  poison : Bool
  ecc : EccList
deriving DecidableEq, Repr

/-- A read or write of device space that waits for the bridge to be trained (R188, R196). -/
structure PathReq where
  path : Path
  pa : Nat
  width : Nat
  wdata : Option Nat
deriving DecidableEq, Repr

/-- A coherence message with its sequence number (R192); `ev` is the eviction's number that RSPEV carries. -/
structure CohPkt where
  msg : CohMsg
  seq : Nat
  ev : Nat
deriving DecidableEq, Repr

/-- A request in a home's queue for a line (R190): from the other die, or an access of the home's own agents. -/
inductive HomeReq where
  | remote (m : CohMsg)
  | here (a : CohAccess)
deriving DecidableEq, Repr

/-- What both dies hold of one coherent line (R190 to R193): line number PA ÷ 256, the non-home die's state, the directory's
state, the sequence numbers to send and to accept at each side, the messages on the way and those held because they came
early, the snoop outstanding with the crossing eviction and the RSPEV received for it, a snoop that waits for a grant, the
eviction's number, the queue at the home and the accesses that wait at the other die. -/
structure CohLn where
  line : Nat
  remote : Coh
  dir : Coh
  sendR : Nat
  recvR : Nat
  sendH : Nat
  recvH : Nat
  toHome : List CohPkt
  toRemote : List CohPkt
  earlyH : List CohPkt
  earlyR : List CohPkt
  snoop : Option CohMsg
  gotEv : Option CohPkt
  gotRsp : Option Nat
  waitSnoop : Option CohMsg
  evSeq : Nat
  homeQ : List HomeReq
  wait : List CohAccess
deriving DecidableEq, Repr

/-- A line that neither die's records name. -/
def CohLn.idle (line : Nat) : CohLn := ⟨line, .I, .I, 0, 0, 0, 0, [], [], [], [], none, none, none, none, 0, [], []⟩

/-- A change of a coherent window that runs, with the last write held behind it (R195). -/
structure CwinChange where
  n : Nat
  old : Nat
  new : Nat
  held : Option Nat
deriving DecidableEq, Repr

/-- The bridge endpoint of a die (R188): the sequence number it accepts next, the beat last refused by the other end with the
number of refusals, and, while it trains at this endpoint's wish, the failed replays before it. -/
structure Bridge where
  rxSeq : Nat
  nakSeq : Option Nat
  naks : Nat
  start : Option Nat
deriving DecidableEq, Repr

/-- A context entry cached on a die (R263): its place, the context, the quota counter in cluster-clocks and the last-use time. -/
structure CtxEntry where
  idx : Nat
  ctx : Nat
  quota : Nat
  last : Nat
deriving DecidableEq, Repr

/-- One record of a die's doorbell store (R263): the recorded tail and the halt bit of R157, per context and die-local
region. -/
structure Doorbell where
  ctx : Nat
  region : Nat
  tail : Nat
  halt : Bool
deriving DecidableEq, Repr

/-- A cached leaf translation (R275): context, first VA, leaf size in bits, and the leaf entry. -/
structure TlbEntry where
  ctx : Nat
  va : Nat
  size : Nat
  pte : Nat
deriving DecidableEq, Repr

/-- A cached table entry (R275): context, level, the VA bits that select it, and the entry. -/
structure WalkEntry where
  ctx : Nat
  level : Nat
  key : Nat
  pte : Nat
deriving DecidableEq, Repr

/-- Access types of R274. -/
inductive AccTy where
  | read | write | fetch
deriving DecidableEq, Repr

/-- An access that waits for a walk (R273, R274): agent code, die-local region, slot, type, VA. -/
structure WalkWaiter where
  agent : Nat
  region : Nat
  slot : Nat
  ty : AccTy
  va : Nat
deriving DecidableEq, Repr

/-- A walk in progress (R273): the table to read, its level, the accesses it serves, and whether it may fill the caches
(R276). -/
structure Walk where
  ctx : Nat
  va : Nat
  table : Nat
  level : Nat
  lastLevel : Nat
  fill : Bool
  waiters : List WalkWaiter
deriving DecidableEq, Repr

/-- An invalidation that runs or is held (R276): the word of `mmu.inv` and `mmu.inv_len` as latched. -/
structure InvReq where
  inv : Nat
  len : Nat
deriving DecidableEq, Repr

/-- An expanded weight block in a stack's buffer (R396): die-local stack, slot address ÷ 4,096, and the 4 KiB. -/
structure ExpBlock where
  stack : Nat
  slot : Nat
  data : List Byte
deriving DecidableEq, Repr

/-- The per-die state of the memory system beside its registers. `lines` runs from the most recent line; `wc` from the oldest
entry; `cewCount` and `cewDone` are the corrected errors of the window and the stacks that have warned in it (R225); `carve` is
the cache size in force (R182), `carveHeld` a write held behind a transition, `carveSeen` whether event 0x1051 has been raised
since `sram.carve_hit` was read (R181); `clc` the lines that the die's control-line cache holds, most recent first (R190);
`mapc` the weight-map cache by map granule and `expb` the expanded blocks, most recent first (R396). -/
structure MemDie where
  lines : List CLine
  wc : List WcEntry
  pcs : List (Nat × Pc)
  flushed : Nat
  flushOwn : List Nat
  cewDone : List Nat
  cewCount : List (Nat × Nat)
  trainTries : List (Nat × Nat)
  tgen : Option TgenRun
  rw : Option RwRun
  carve : Nat
  carveHeld : Option Nat
  carveSeen : Bool
  bridge : Bridge
  cwins : List CwinChange
  clc : List Nat
  mapc : List (Nat × List Byte)
  expb : List ExpBlock
deriving DecidableEq, Repr

/-- The memory state of a die after reset. -/
def MemDie.reset : MemDie :=
  ⟨[], [], [], 0, [], [], [], [], none, none, 0, none, false, ⟨0, none, 0, none⟩, [], [], [], []⟩

/-- The per-die state of contexts and translation. `eng` counts the cluster-clocks of contexts since the last engine-time report
(R268, R560); `qSeen` holds the contexts whose refusal event of the present quota period has been raised on the die (R268); `pbRun` is the `dlr.pbinv` word of a running program-buffer drop and `pbHeld` one held behind it (R170). -/
structure CtxDie where
  eng : List (Nat × Nat)
  qSeen : List Nat
  pbRun : Option Nat
  pbHeld : Option Nat
  cache : List CtxEntry
  fillq : List Nat
  db : List Doorbell
  badSeen : List Nat
  dtlb : List TlbEntry
  rtlb : List (Nat × List TlbEntry)
  wcache : List WalkEntry
  walks : List Walk
  walkWait : List (Nat × WalkWaiter)
  inv : Option InvReq
  invHeld : Option InvReq
deriving DecidableEq, Repr

/-- The context and translation state of a die after reset: nothing cached, no doorbell, no walk. -/
def CtxDie.reset : CtxDie := ⟨[], [], none, none, [], [], [], [], [], [], [], [], [], none, none⟩

/-- Repaired rows (R240): each names global stack, PC and bank and row, as one key; soft repairs are lost with power. -/
structure Repairs where
  soft : List Nat
  hard : List Nat
deriving DecidableEq, Repr

/-- Everything held in memory cells: the bytes in canonical form (addresses strictly rising, no entry equal to the byte that
an unlisted address reads as), the 64-byte granules that hold an uncorrectable error, those stored as poison (R180, R223),
HBM chunks that hold an error which the code corrects (R222, R224), HBM chunks whose stored check bytes are not the correct ones
(R240), the repairs, the coherent lines of which a record stands, and the accesses that wait: to memory, to coherent lines (R190, R195)
and to device space across the bridge. -/
structure MemState where
  cells : List (Nat × BitVec 8)
  ue : List Nat
  ce : List Nat
  poison : List Nat
  oddCheck : List (Nat × Nat)
  repairs : Repairs
  coh : List CohLn
  memWait : List MemReq
  cohWait : List CohAccess
  pathWait : List PathReq
deriving DecidableEq, Repr

/-- Memory after power-on: nothing listed, no mark. -/
def MemState.reset : MemState := ⟨[], [], [], [], [], ⟨[], []⟩, [], [], [], []⟩

end Sys2Proof.Machine
end

