-- ==== Sys2Proof/Machine/TypesCompute.lean ====
section
/-! DEFINITION. State of the compute units: tensor descriptors, hands, matrix engines, batching queues, vector engines
(R58 to R126, R682), and the Dealers with their slots, flags, loops and program buffers (R127 to R175), with what the digest
units, twin lockstep and replay keep beside them (R482 to R497). -/

namespace Sys2Proof.Machine

/-- A tensor descriptor that has passed the checks of R146 (R143). Lists run over dimensions 0 to 3. -/
structure Desc where
  base : Nat
  fmt : Fmt
  cluster : Bool
  rank : Nat
  mxdim : Nat
  dg : Bool
  nsplit : Nat
  stream : Nat
  pext : List Nat
  stride : List Nat
  tsz : List Nat
  rteEn : List Bool
  rteReg : List Nat
  cselEn : List Bool
  cselReg : List Nat
  gorg : List Nat
  gext : List Nat
  sbase : Nat
  sstride : Nat
deriving DecidableEq, Repr

/-- A descriptor at one use: its tile coordinates t_i and valid extents v_i as read then (R144, R147). -/
structure Tile where
  desc : Desc
  t : List Nat
  v : List Nat
deriving DecidableEq, Repr

/-- A DMA word as dealt (R137): op 0 LOAD, 1 STORE, 2 COPYIN, 3 COPYOUT; its tile or VA and length, the layout and the
cluster-SRAM offsets in bytes. -/
structure DmaJob where
  op : Nat
  dslot : Nat
  tile : Option Tile
  va : Nat
  len : Nat
  lay : Nat
  off : Nat
  soff : Nat
deriving DecidableEq, Repr

/-- Progress of one word of a hand (R155). -/
inductive WordSt where
  | waiting | started | done
deriving DecidableEq, Repr

/-- One word of a dealt hand: the 128-bit word as delivered (R152), its progress, a DMA's registers as read, the rows of its
drain or run written so far, and its counts (R115). -/
structure HandWord where
  w : Nat
  st : WordSt
  dma : Option DmaJob
  rows : Nat
  nan : Nat
  inf : Nat
  ovf : Nat
deriving DecidableEq, Repr

/-- A hand as dealt (R136, R152): who issued it, its words, its masks, its od tile, its chain set, what the Dealer latched
for it (R40, R48), its mode (R19), whether a fault has poisoned or stopped it (R155), and its hand digest (R490). -/
structure Hand where
  region : Nat
  slot : Nat
  ctx : Nat
  item : Nat
  seq : Nat
  va : Nat
  words : List HandWord
  rmask : Nat
  cmask : Nat
  odSlot : Nat
  od : Option Tile
  cset : Option Nat
  seed : Nat
  step : Nat
  lscale : Int
  dkey : Nat
  twin : Bool
  bubble : Bool
  startClk : Nat
  poison : Bool
  fault : Bool
  digest : Nat
  nblk : Nat
deriving DecidableEq, Repr

/-- How a hand ends (R155). -/
inductive HandStatus where
  | ok | poison | fault
deriving DecidableEq, Repr

/-- An accumulator bank (R58): its 1,024 words in row-major order (an empty list stands for a bank of +0), and the elements
whose INT32 saturation mark is set (R46). -/
structure Bank where
  vals : List Nat
  marks : List Nat
deriving DecidableEq, Repr

/-- A bank cleared to +0. -/
def Bank.zero : Bank := ⟨[], []⟩

/-- A thin-matrix request in a batching queue (R75): its word in the running hand and its rows of A. -/
structure BatReq where
  widx : Nat
  w : Nat
  rows : Nat
deriving DecidableEq, Repr

/-- An open or closed batch (R76): its requests in order of joining, and whether it is a request that runs on its own because
the queue is disabled (R83). -/
structure Batch where
  reqs : List BatReq
  direct : Bool
deriving DecidableEq, Repr

/-- An MMA accepted by an engine and not yet written (R65, R70): T, the marks of its bank's use, and where its rows belong. -/
structure Flight where
  widx : Nat
  w : Nat
  bank : Nat
  t : List Nat
  isInt : Bool
  rmask : Nat
  cmask : Nat
  reqs : List BatReq
  limEvent : Bool
deriving DecidableEq, Repr

/-- A bank that leaves through a drain port (R72): its next row, chain, masks, and requests of a batch. -/
structure Drain where
  widx : Nat
  bank : Nat
  row : Nat
  chain : Nat
  isInt : Bool
  rmask : Nat
  cmask : Nat
  reqs : List BatReq
deriving DecidableEq, Repr

/-- A matrix engine (R58). -/
structure Engine where
  bank0 : Bank
  bank1 : Bank
  flight : List Flight
  drain : Option Drain
deriving DecidableEq, Repr

/-- A matrix engine after reset. -/
def Engine.reset : Engine := ⟨Bank.zero, Bank.zero, [], none⟩

/-- A K-split partial (R47, R67): split, bank contents, marks, poison mark, the chain field and masks of its word, whether it
goes to Kitty, the hand that sent it with the VA of its HAND word, and what that hand latched. -/
structure Partial where
  split : Nat
  vals : List Nat
  marks : List Nat
  poisoned : Bool
  exact : Bool
  isInt : Bool
  chain : Nat
  rmask : Nat
  cmask : Nat
  region : Nat
  slot : Nat
  item : Nat
  va : Nat
  seed : Nat
  step : Nat
  lscale : Int
deriving DecidableEq, Repr

/-- The partials of one output tile (R67): context, tile and partials. -/
structure KSplit where
  ctx : Nat
  tile : Tile
  parts : List Partial
deriving DecidableEq, Repr

/-- A combination that drains through port 4 of its owning cluster (R47, R106). -/
structure Combine where
  split : KSplit
  vals : List Nat
  marks : List Nat
  isInt : Bool
  row : Nat
  left : Nat
  nan : Nat
  inf : Nat
  ovf : Nat
  poisoned : Bool
deriving DecidableEq, Repr

/-- A vector run in progress (R110, R111). -/
structure VRun where
  widx : Nat
  w : Nat
  row : Nat
deriving DecidableEq, Repr

/-- Where an admitted row came from: a drain of a word of the running hand, a batched request of it, a vector run, or the
combination. -/
inductive RowSrc where
  | drain (widx : Nat) (row : Nat)
  | batch (widx : Nat) (row : Nat)
  | run (widx : Nat) (row : Nat)
  | comb (row : Nat)
deriving DecidableEq, Repr

/-- A row admitted and not yet written (R108): its source, the bytes that its stages and conversions give for each cluster-SRAM
offset, its counts (R50), its chain, and whether it is the last row of its drain, request or run. -/
structure PipeRow where
  src : RowSrc
  outs : List (Nat × List Byte)
  nan : Nat
  inf : Nat
  ovf : Nat
  chain : Nat
  last : Bool
deriving DecidableEq, Repr

/-- A write from another source held while a hand runs (R79): its bytes within one 256-byte block, the block's poisoned chunks, and the
cluster whose hand makes it, if one does: that hand completes only once the write is acknowledged (R186). -/
structure ExtWrite where
  pa : Nat
  data : List Byte
  poison : Nat
  src : Option Nat
deriving DecidableEq, Repr

/-- A cluster (R16): its hand queue and running hand, chain table and bad entries, engines, batching queue, vector engine and
held writes. `written` records the running hand's writes by word for the order of R109. -/
structure Cluster where
  queue : List Hand
  run : Option Hand
  loaded : Bool
  chain : List Nat
  badChain : List Nat
  engines : List Engine
  bqWait : List BatReq
  bqOpen : List Batch
  bqClosed : List Batch
  combs : List Combine
  vruns : List VRun
  pipe : List PipeRow
  used : Nat
  rot : Nat
  taken : List Nat
  stop : Bool
  res : Nat
  written : List (Nat × Nat × Nat)
  held : List ExtWrite
deriving DecidableEq, Repr

/-- A cluster after reset: no hand, a chain table of zeros, engines clear, the rotation at port 0 (R107). -/
def Cluster.reset : Cluster :=
  ⟨[], none, false, [], [], List.replicate 4 Engine.reset, [], [], [], [], [], [], 0, 0, [], false, 0, [], []⟩

/-- What a slot waits on (R132, R174). -/
inductive Wait where
  | none
  | waitf (flag val : Nat)
  | sync (id mask : Nat)
  | fence
  | handFull
  | fetch (va : Nat)
  | ld (rd va : Nat)
  | ldd (dslot va : Nat)
  | trick (t : Nat)
  | bound
  | waita (t : Nat)
  | collFull
  | stopped
deriving DecidableEq, Repr

/-- The state field of R174. -/
inductive SlotSt where
  | idle | running | completing
deriving DecidableEq, Repr

/-- An open loop (R139): level, address of the begin word, index register, iteration and count. -/
structure Loop where
  lvl : Nat
  va : Nat
  ix : Nat
  i : Nat
  n : Nat
  nb : Nat
deriving DecidableEq, Repr

/-- The schedule of an item with sch = 1 (R160). -/
structure Sched where
  nent : Nat
  nvs : Nat
  ent : Nat
  fwd : List Nat
  bwd : List Nat
deriving DecidableEq, Repr

/-- A hand whose words are being collected or that waits to be dealt (R136): the HAND word, its VA, and its words. -/
structure OpenHand where
  w : Nat
  va : Nat
  words : List Nat
deriving DecidableEq, Repr

/-- A digest task of an item (R482): its descriptor slot, the descriptor, whether the slot has been used, an input digest
asked for and not done, and an output digest due at END. -/
structure DigestTask where
  dslot : Nat
  desc : Desc
  used : Bool
  input : Bool
  output : Bool
  v : List Nat
deriving DecidableEq, Repr

/-- A program slot (R130, R131, R174). `sr` holds sr1 to sr31 by number where not zero; `desc` the valid descriptor slots;
`flags` the flags that are not 0. -/
structure Slot where
  st : SlotSt
  wait : Wait
  wdSeen : Bool
  ctx : Nat
  pc : Nat
  itemVa : Nat
  entry : Nat
  prog : Nat
  step : Nat
  cpl : Nat
  iflags : Nat
  tag : Nat
  item : Nat
  sr : List (Nat × Nat)
  desc : List (Nat × Desc)
  flags : List (Nat × Nat)
  loops : List Loop
  emptyLoop : Bool
  sched : Option Sched
  hand : Option OpenHand
  handNo : Nat
  hands : Nat
  colls : Nat
  melds : Nat
  dealt : Bool
  collWork : Bool
  code : Nat
  nan : Nat
  inf : Nat
  ovf : Nat
  poisoned : Nat
  skipped : Nat
  words : Nat
  startClk : Nat
  lscale : Int
  digests : List DigestTask
  progDig : Option Nat
  traced : Bool
  replay : Bool
  endDone : Bool
  firstClk : Nat
  wdLim : Nat
deriving DecidableEq, Repr

/-- An idle slot. -/
def Slot.reset : Slot :=
  ⟨.idle, .none, false, 0, 0, 0, 0, 0, 0, 0, 0, 0, 0, [], [], [], [], false, none, none, 0, 0, 0, 0, false, false, 0, 0, 0, 0,
   0, 0, 0, 0, 0, [], none, false, false, false, 0, 0⟩

/-- A line of a program buffer (R163, R164): context, VA of its first byte, and its 4,096 bytes as read. -/
structure PbLine where
  ctx : Nat
  va : Nat
  data : List Byte
deriving DecidableEq, Repr

/-- A digest record that waits for its ring (R487). -/
structure DigestRec where
  slot : Option Nat
  bytes : List Byte
deriving DecidableEq, Repr

/-- A compare record of twin lockstep (R491). -/
structure TwinRec where
  seq : Nat
  item : Nat
  status : Nat
  cluster : Nat
  nblk : Nat
  digest : Nat
deriving DecidableEq, Repr

/-- A region: its Dealer's slots, the context last started, the program buffer with its lines most recent first, the slot
order of R132, the items started per context, the digest unit's waiting records, and the twin records: of this side, on their
way here, received, and how many hands of which item have compared equal. -/
structure Region where
  slots : List Slot
  lastCtx : Nat
  pbuf : List PbLine
  recency : List Nat
  started : List (Nat × Nat)
  digests : List DigestRec
  twOwn : List TwinRec
  twIn : List TwinRec
  twPeer : List TwinRec
  twDone : Nat
  twItem : Nat
deriving DecidableEq, Repr

/-- A region after reset: four idle slots. -/
def Region.reset : Region := ⟨List.replicate 4 Slot.reset, 4095, [], [0, 1, 2, 3], [], [], [], [], [], 0, 0⟩

end Sys2Proof.Machine
end

