-- ==== Sys2Proof/Machine/TypesFab.lean ====
section
/-! DEFINITION. State of the fabric: messages, links with their queues and replay buffers, remote requests, and collectives
(R287 to R333). -/

namespace Sys2Proof.Machine

/-- A fabric message (R289 to R291): its header fields, bits [81:0] of the header in `low`, the slots that an RD asks for, and
its data. -/
structure Msg where
  kind : Nat
  dst : Nat
  src : Nat
  fx : Bool
  low : Nat
  want : Nat
  data : List Byte
deriving DecidableEq, Repr

/-- The link-layer state of one link beside its registers (R292 to R303, R314): whether CAL was entered from UP, the next sequence
numbers, the unacknowledged flits, the flit last refused with its replays, a nak due or already sent for the failure and how far
behind the expected flit the last discarded one was, the credits held, owed and withheld by VC, the round-robin positions between VCs 2 and 3 and between the collectives of VC 3, the messages waiting or held, how
many of them leave first and in order, those that their sources keep back beyond the hold buffer, those sent with the number of
their last flit, the slots of a message not yet whole, whether RETRAIN has come to its PEER stage, and `lnk.peer` as PEER found it. -/
structure Lk where
  fromUp : Bool
  txSeq : Nat
  rxSeq : Nat
  replay : List (Nat × List Nat)
  fails : Nat × Nat
  nakDue : Bool
  nakSent : Bool
  seen : Nat
  credits : List Nat
  owed : List Nat
  kept : List Nat
  wrr : Nat
  share : Nat
  q : List Msg
  held : Nat
  back : List Msg
  sent : List (Nat × Msg)
  rx : List Nat
  atPeer : Bool
  peer : Nat
deriving DecidableEq, Repr

/-- A link that has just trained, or never has: sequence numbers 0 and whole credits. -/
def Lk.fresh : Lk where
  fromUp := false
  txSeq := 0
  rxSeq := 0
  replay := []
  fails := (0, 0)
  nakDue := false
  nakSent := false
  seen := 0
  credits := [512, 512, 512, 512]
  owed := [0, 0, 0, 0]
  kept := [0, 0, 0, 0]
  wrr := 0
  share := 0
  q := []
  held := 0
  back := []
  sent := []
  rx := []
  atPeer := false
  peer := 0

/-- The statuses of a remote request (R303), in the order of R681 for 0x8019. -/
inductive ReqStatus where
  | ok | poison | noroute | refused | notsent | unknown
deriving DecidableEq, Repr

/-- What a remote request is for: the unit's own name for it. -/
inductive ReqKind where
  /-- A twin compare record of region `r`, hand `seq` (R491), with its reissues (R534). -/
  | twin (r seq tries : Nat)
  /-- A remote read or write of Meld (R339 to R370). -/
  | meld (slot part arg : Nat)
  /-- A record of the checkpoint or recovery unit, with its reissues (R534). -/
  | record (unit code tries : Nat)
  /-- The read of a program request or of another master-held word (R506, R599). -/
  | fetch (what : Nat)
deriving DecidableEq, Repr

/-- A remote request of a die's units (R303): tag, destination, address, length in bytes, the bytes of a write, whether it is
one, idem, whether it takes fixed routes alone, the link it left by (31 the bridge), what it is for, and its status with the data
read once it has ended. -/
structure Req where
  tag : Nat
  dst : Nat
  addr : Nat
  len : Nat
  data : List Byte
  write : Bool
  idem : Bool
  fx : Bool
  link : Nat
  kind : ReqKind
  status : Option ReqStatus
  answer : List Byte
deriving DecidableEq, Repr

/-- A decoded COLL (R138, R314): who issued it, its word and address, its tiles with the extents of that moment, the kitty and
fixrt bits of its context, and a fault that lets it send faulted empty notices alone (R151). -/
structure CollReq where
  region : Nat
  slot : Nat
  ctx : Nat
  va : Nat
  w : Nat
  sd : Tile
  dd : Tile
  kitty : Bool
  fixrt : Bool
  exceeds : Bool
deriving DecidableEq, Repr

/-- Where the elements of a send or of a write come from (R307 to R309): this node's own elements, elements of a received step
as they came, the reduction of own elements with received steps, or several of these in order. `wire` converts to the format
of partials and `count` says that the additions count here. -/
inductive Src where
  | own (first n : Nat)
  | got (recv first n : Nat)
  | sum (first n : Nat) (recvs : List Nat) (wire count : Bool)
deriving DecidableEq, Repr

/-- A step that this node receives (R312): its source, the elements expected and their format, the watermark in bytes, the bytes
so far, the segments accepted since the last SACK, whether it has ended or came as an empty notice, and `col.tmo` as the step's
start found it. -/
structure CollRecv where
  step : Nat
  src : Nat
  n : Nat
  fmt : Fmt
  data : List Byte
  since : Nat
  done : Bool
  empty : Bool
  tmo : Nat
deriving DecidableEq, Repr

/-- A step that this node sends (R312, R313): its destination, the link of its neighbour word, its source, and once it has begun
its link, its bytes, how far they are sent and acknowledged, its notice flags, whether its last segment is sent, whether all is
acknowledged, and `col.tmo` as the step's start found it. -/
structure CollSend where
  step : Nat
  dst : Nat
  link : Nat
  src : List Src
  begun : Bool
  via : Nat
  data : List Byte
  sent : Nat
  mark : Nat
  flags : Nat
  ended : Bool
  acked : Bool
  tmo : Nat
deriving DecidableEq, Repr

/-- Elements that this node writes to dd from `first` on. -/
structure CollWrite where
  first : Nat
  src : List Src
  done : Bool
deriving DecidableEq, Repr

/-- A running collective (R306, R314): its request, instance, entry as latched, strict mode as latched, its own elements, its
steps and writes, the accepted pieces in order of arrival (receive, first element, count), and its counts. -/
structure Coll where
  req : CollReq
  inst : Nat
  entry : List Nat
  strict : Bool
  own : List Nat
  sends : List CollSend
  recvs : List CollRecv
  writes : List CollWrite
  arrived : List (Nat × Nat × Nat)
  nan : Nat
  inf : Nat
  ovf : Nat
deriving DecidableEq, Repr

/-- The fabric of a die beside its registers: links, remote requests with the next tag, COLLs queued and running, the instance
of each route entry, and segments for later instances (R314). -/
structure FabDie where
  links : List Lk
  reqs : List Req
  nextTag : Nat
  queue : List CollReq
  colls : List Coll
  inst : List (Nat × Nat)
  early : List Msg
deriving DecidableEq, Repr

/-- The fabric of a die after reset. -/
def FabDie.reset : FabDie := ⟨List.replicate 18 Lk.fresh, [], 0, [], [], [], []⟩

end Sys2Proof.Machine
end

