-- ==== Sys2Proof/Machine/TypesMeld.lean ====
section
/-! DEFINITION. State of Meld: fragments, job slots with their manifests, reassembly at owner and Courier, and the join handling of
the site master (R334 to R379). -/

namespace Sys2Proof.Machine

/-- The fields of a fragment header (R350, R353); where they lie in its 64 bytes is the model's choice (assumption 62). -/
structure FragHdr where
  ver : Nat
  codec : Nat
  flags : Nat
  src : Nat
  job : Nat
  weight : Nat
  trick : Nat
  seq : Nat
  first : Nat
  count : Nat
  plen : Nat
  rng : Nat
  reserved : Nat
  digest : Nat
deriving DecidableEq, Repr

/-- A fragment: the node that sent it within the site, its header and its payload. -/
structure Frag where
  node : Nat
  hdr : FragHdr
  payload : List Byte
deriving DecidableEq, Repr

/-- A section of a trick manifest as one half keeps it (R363, R364): the entry's index (none for the own site), the record's
fields, and for each age the weight recorded and the mask of blocks merged. -/
structure Sec where
  entry : Option Nat
  site : Nat
  estate : Nat
  dflags : Nat
  merged : Nat
  stale : Nat
  nonfin : Nat
  nfFirst : Nat
  missing : Nat
  dup : Nat
  w : List Nat
  masks : List Nat
deriving DecidableEq, Repr

/-- What an ENC latches of the descriptor (R372). -/
structure EncPar where
  codec : Nat
  cparm : Nat
  wown : Nat
  rng : Nat
deriving DecidableEq, Repr

/-- What an APPLY latches of the descriptor (R372): η, μ and the maximum age. -/
structure ApplyPar where
  eta : Nat
  mu : Nat
  maxage : Nat
deriving DecidableEq, Repr

/-- What a half has to say in a manifest's header (R363): the trick, T_open, T_c, whether it closed early, strict at close, blocking mode,
poison met, the sections and the maximum age. -/
structure MfHead where
  trick : Nat
  opened : Nat
  closed : Nat
  early : Bool
  strict : Bool
  blk : Bool
  poison : Bool
  nsec : Nat
  maxage : Nat
deriving DecidableEq, Repr

/-- A job slot of a half beside its registers (R344): the descriptor's address and bytes and the shard map (first, count, courier)
as checked at INIT, a disable that waits for SNAP or APPLY to end, the mode in force, the times of the trick, how it closed, what
was latched, the sections of the accumulating trick and of earlier ones, what the half has to say in the manifest's header of the last
trick it applied, the reports made once a trick (code and site), and for joins the parts received and the entries served. -/
structure MeldSlot where
  base : Nat
  desc : List Byte
  smap : List (Nat × Nat × Nat)
  offPend : Bool
  blk : Bool
  opened : Nat
  encEnd : Nat
  closed : Nat
  early : Bool
  strict : Bool
  poison : Bool
  enc : EncPar
  app : ApplyPar
  secs : List Sec
  past : List (Nat × List Sec)
  head : Option MfHead
  raised : List (Nat × Nat)
  parts : List Nat
  served : List (Nat × Nat)
deriving DecidableEq, Repr

/-- A job slot that is OFF. -/
def MeldSlot.off : MeldSlot :=
  ⟨0, [], [], false, false, 0, 0, 0, false, false, false, ⟨0, 0, 0, 0⟩, ⟨0, 0, 0⟩, [], [], none, [], [], []⟩

/-- A contribution held across APPLY (R357): its slot, header and decoded elements. -/
structure HeldBlock where
  slot : Nat
  hdr : FragHdr
  xs : List Nat
deriving DecidableEq, Repr

/-- A block in reassembly at its owner: the node that sends it, its header, and its pieces by offset, with the offset of the last
piece once it has come (R351, R354). -/
structure InPart where
  node : Nat
  hdr : FragHdr
  got : List (Nat × List Byte)
  last : Option Nat
deriving DecidableEq, Repr

/-- A Meld half: its slots, held contributions, blocks in reassembly, as Courier the fragments in reassembly, the bitmaps of
fragments had (node, trick, join-bulk, bits) and the fragments and control records that wait for the WAN port, and the partner
entries reported as reserved. -/
structure MeldDie where
  slots : List MeldSlot
  intake : List HeldBlock
  ins : List InPart
  outs : List Frag
  seen : List (Nat × Nat × Bool × Nat)
  outq : List Frag
  ctlq : List (Nat × List Byte)
  badEntries : List Nat
deriving DecidableEq, Repr

/-- A Meld half after reset. -/
def MeldDie.reset : MeldDie := ⟨List.replicate 4 MeldSlot.off, [], [], [], [], [], [], []⟩

/-- The join handling of a site master (R365 to R370): control records that have reached it with the clock of their arrival and the
node they came from, halves that have reported RUN (slot and node), answers that wait for the writes of an entry (entry index and
record), and the joins it serves as donor: entry index and TAI time of its JOIN_ACK. -/
structure MasterState where
  inbox : List (Nat × Nat × List Byte)
  ready : List (Nat × Nat)
  acks : List (Nat × List Byte)
  joins : List (Nat × Nat)
deriving DecidableEq, Repr

/-- No join in progress. -/
def MasterState.reset : MasterState := ⟨[], [], [], []⟩

end Sys2Proof.Machine
end

