-- ==== Sys2Proof/Machine/TypesIo.lean ====
section
/-! DEFINITION. State of the WAN gateways and cipher engines (R405 to R450), of Assay (R553 to R580), of start-up (R581 to R608), of the
host port, management bus, telemetry and debug port (R609 to R638), and of power (R645 to R680). -/

namespace Sys2Proof.Machine

/-! ## WAN gateway and cipher engine -/

/-- A pair secret in a slot (R414): its 32 bytes, generation, starting epoch and limit, and the number of its load. -/
structure Secret where
  key : List Byte
  gen : Nat
  e0 : Nat
  elim : Nat
  order : Nat
deriving DecidableEq, Repr

/-- A pair of a die beside its registers (R414 to R421): its secret slots, the current and the next transmit key (36 bytes each), the
generation and session being taken into use, whether a generation has ever been in use, and the control records that wait for the
pair. -/
structure Pair where
  a : Option Secret
  b : Option Secret
  cur : Option (List Byte)
  next : Option (List Byte)
  prep : Option (Nat × Nat)
  inUse : Bool
  waiting : List (List Byte)
deriving DecidableEq, Repr

/-- A pair without secrets. -/
def Pair.empty : Pair := ⟨none, none, none, none, none, false, []⟩

/-- A receive key (R420): its tags and its 36 bytes. -/
structure RxKey where
  pair : Nat
  src : Nat
  gen : Nat
  sess : Nat
  epoch : Nat
  key : List Byte
deriving DecidableEq, Repr

/-- A load of a pair secret that runs (R414): pair, gen, e0, elim, the 40 wrapped bytes, and whether two paths wrote what it loads
(R620). -/
structure SecretLoad where
  pair : Nat
  gen : Nat
  e0 : Nat
  elim : Nat
  wrapped : List Byte
  mixed : Bool
deriving DecidableEq, Repr

/-- A message in the cipher engine (R423, R425): whether it is a BULK message, whether its first block has entered, whether its blocks are
entering now, the clocks for which they still do, the clocks from its last block to its tag, and its suspensions. -/
structure CipMsg where
  bulk : Bool
  started : Bool
  running : Bool
  left : Nat
  tail : Nat
  susp : Nat
deriving DecidableEq, Repr

/-- The cipher unit of a die beside its registers: pairs, receive keys most recent first, the highest epoch of each sender (pair, src,
gen, sess; epoch), the packets in the miss buffer, a running load with the number of loads made, the seconds in which events
0x7001 (by pair) and 0x7007 were last raised, the paths that have written the words and fields of the next load (R620), and the messages
being sealed and opened, of each of which the first 8 hold a message context and the others wait for one (R425). -/
structure CipDie where
  pairs : List Pair
  rx : List RxKey
  tops : List (List Nat × Nat)
  miss : List (List Byte)
  load : Option SecretLoad
  loads : Nat
  authAt : List (Nat × Nat)
  mdropAt : Option Nat
  stagers : List Path
  seals : List CipMsg
  opens : List CipMsg
deriving DecidableEq, Repr

/-- A cipher unit after reset: 64 pairs without secrets. -/
def CipDie.reset : CipDie := ⟨List.replicate 64 Pair.empty, [], [], [], none, 0, [], none, [], [], []⟩

/-- A control message that is not acknowledged: its sequence number, its records, and how often it has been resent. -/
structure CtlMsg where
  cseq : Nat
  recs : List (List Byte)
  tries : Nat
deriving DecidableEq, Repr

/-- A connection of the control sub-channel (R428): the remote end, the sequences, what is in flight, queued or held, whether an
acknowledgement is due, and when it last carried a message. -/
structure Conn where
  pair : Nat
  src : Nat
  sess : Nat
  cseq : Nat
  cack : Nat
  flight : List CtlMsg
  queue : List (List Byte)
  early : List (Nat × List (List Byte))
  ackDue : Bool
  last : Nat
deriving DecidableEq, Repr

/-- What a Courier's port knows of a trick of a job (R432): the halves that have delivered fragments (source device, die, highest number,
whether its last fragment has come), and whether SUMMARY has been sent. -/
structure SumTrick where
  job : Nat
  trick : Nat
  halves : List (Nat × Nat × Nat × Bool)
  sent : Bool
deriving DecidableEq, Repr

/-- A SUMMARY entry that is being repaired (R433): its connection, job, trick, source device and die, count, until, and rounds made. -/
structure NackRun where
  pair : Nat
  src : Nat
  sess : Nat
  job : Nat
  trick : Nat
  dev : Nat
  die : Nat
  count : Nat
  until_ : Nat
  rounds : Nat
deriving DecidableEq, Repr

/-- The WAN gateway of a die beside its registers: whether CAL was entered from UP and has lasted 2 ms (R435, R436), the address in force
(R437), fragments held with the partner entries that they are for, connections, SUMMARY and NACK records that have arrived (pair, source,
session, record) and are waiting, SUMMARY and NACK work, and the events that are raised once (drop, hdrop, slot and trick not stored,
pair and trick not served). -/
structure WanDie where
  fromUp : Bool
  late : Bool
  ip6 : Nat
  held : List (Frag × List Nat)
  conns : List Conn
  recs : List (Nat × Nat × Nat × List Byte)
  sums : List SumTrick
  nacks : List NackRun
  dropSeen : Bool
  hdropSeen : Bool
  nostSeen : List (Nat × Nat)
  lateSeen : List (Nat × Nat)
deriving DecidableEq, Repr

/-- A WAN gateway after reset. -/
def WanDie.reset : WanDie := ⟨false, false, 0, [], [], [], [], [], false, false, [], []⟩

/-! ## Assay -/

/-- An account (R559): engine-time of the interval, cumulative allocated energy, its wrap count, and the energy of the last interval. -/
structure Account where
  eng : Nat
  cum : Nat
  wrap : Nat
  last : Nat
deriving DecidableEq, Repr

/-- A mirror frame (R574): status, energy and wrap count, the power of the last window, time and offset, a Ledger entry with its index,
Hallmarks, and the happenings that it reports. -/
structure MirrorFrame where
  st : Nat
  flags : Nat
  lcount : Nat
  energy : Nat
  wrap : Nat
  power : Nat
  time : Nat
  offset : Nat
  entry : Option (Nat × List Byte)
  halls : List (Nat × List Byte)
  news : List (Nat × Nat)
deriving DecidableEq, Repr

/-- What Assay holds for good (R568, R572, R577): the sealing state, the Ledger cells by index, the number of entries written, the chain
head, serial number, and certificate. -/
structure AssayOtp where
  st : Nat
  ledger : List (Nat × List Byte)
  lcount : Nat
  head : List Byte
  serial : Nat
  cert : List Byte
deriving DecidableEq, Repr

/-- The parameters of R569. -/
structure AssayParam where
  interval : Nat
  label : Nat
  acct : Nat
  loop : Nat
deriving DecidableEq, Repr

/-- The shipped values. -/
def AssayParam.shipped : AssayParam := ⟨60, 0, 1, 1⟩

/-- Assay while it runs (R553 to R577): its boot nonce, time and how it started, energy with the fraction in picojoules, accounts, the
interval (start, energy and acct parameter at its start, end), power windows of 1 ms and 10 µs as energy and samples, what the flags of
R567 need, the reports' sequence numbers, the offset, Hallmarks kept with their sequence numbers and those that wait for the mirror, new
Ledger entries and the place of the cycle, happenings to report, the tamper count and loop with its good measurements since a break, and
the I3C registers. -/
structure AssayRun where
  boot : Nat
  ns : Nat
  started : Bool
  notSite : Bool
  uj : Nat
  pj : Nat
  wrap : Nat
  accts : List (Nat × Account)
  t0 : Nat
  uj0 : Nat
  acct0 : Nat
  endAt : Nat
  first : Bool
  short : Bool
  winPj : Nat
  winN : Nat
  lastMw : Nat
  pmax : Nat
  expPj : Nat
  expN : Nat
  expSeq : Nat
  range : Bool
  lost : Nat
  rseq0 : Option Nat
  rseq1 : Option Nat
  offset : Option Int
  seq : Nat
  halls : List (Nat × List Byte)
  queue : List (Nat × List Byte)
  newEnt : List Nat
  cyc : Nat
  news : List (Nat × Nat)
  tamper : Nat
  broken : Bool
  okMs : Nat
  seen : Bool
  param : AssayParam
  pval : Nat
  pid : Nat
  hsel : Nat
  lsel : Nat
  done : Bool
  cause : Nat
deriving DecidableEq, Repr

/-- Assay at power-up with a boot nonce. -/
def AssayRun.start (boot : Nat) (p : AssayParam) : AssayRun :=
  ⟨boot, 0, false, false, 0, 0, 0, [], 0, 0, p.acct, 0, true, false, 0, 0, 0, 0, 0, 0, 0, false, 0, none, none, none, 0, [], [],
    [], 0, [], 0, false, 0, false, p, 0, 0, 0, 0, false, 0⟩

/-- Assay and the paths to and from it (R554): what it holds for good, its running state (none without supply), the engine-time reports
on their way (die, number, records) with the dies' next numbers, time marks on their way (second), mirror frames on their way, and what
the `asy` unit keeps: frames discarded since the last good one, and whether a drop has been reported. -/
structure AssayState where
  otp : AssayOtp
  run : Option AssayRun
  reports : List (Nat × Nat × List (Nat × Nat))
  reportSeq0 : Nat
  reportSeq1 : Nat
  marks : List Nat
  frames : List MirrorFrame
  bad : Nat
  dropSeen : Bool
deriving DecidableEq, Repr

/-- Assay as shipped, just powered up: OPEN, an empty Ledger (assumption 70). -/
def AssayState.reset : AssayState :=
  ⟨⟨0, [], 0, List.replicate 32 0, 0, List.replicate 64 0⟩, some (AssayRun.start 0 AssayParam.shipped), [], 0, 0, [], [], 0, false⟩

/-! ## Start-up -/

/-- The fuses (R596, R597): the key hash, the minimum security version with the raises made, the key-encryption key, and whether its burn
has failed. -/
structure Fuses where
  pkh : Option (List Byte)
  svnMin : Nat
  raises : Nat
  kek : Option (List Byte)
  kekBad : Bool
deriving DecidableEq, Repr

/-- The loader beside its registers (R588): the fuses; the cause of a device reset that still holds the part (R649); the clock of the
last reset release; the bytes staged, from the start of the staging area; the offset of the next record in the record area; the
partner-table copy that runs (master followed; next block) (R599); and whether event 0x9014 has been raised. -/
structure BootState where
  fuses : Fuses
  hold : Option Nat
  start : Nat
  staged : Nat
  pos : Nat
  table : Option (Nat × Nat)
  late : Bool
deriving DecidableEq, Repr

/-- The loader after reset release, with blank fuses (assumption 71). -/
def BootState.reset : BootState := ⟨⟨none, 0, 0, none, false⟩, none, 0, 0, 0, none, false⟩

/-! ## Host port, management bus, telemetry and debug port -/

/-- An entry of the MSI-X table (R610): address, data, vector control (bit 0: mask). -/
structure MsixEntry where
  addr : Nat
  data : Nat
  ctl : Nat
deriving DecidableEq, Repr

/-- An access of the host that waits in the port (R614): to device space, with its width and the value to write, or to memory through BAR2, with
its length and the bytes to write; a read has neither. -/
inductive HostReq where
  | dev (pa width : Nat) (v : Option Nat)
  | mem (pa n : Nat) (b : Option (List Byte))
deriving DecidableEq, Repr

/-- Whether an access is a posted write. -/
def HostReq.posted : HostReq → Bool
  | .dev _ _ v => v.isSome
  | .mem _ _ b => b.isSome

/-- The host port beside its registers (R609 to R619): the accesses that wait in it, in arrival order; whether MSI-X is enabled in configuration space, BAR2's size as a power of two,
the MSI-X entries other than masked zero, the pending vectors, those that hold and those raised during their hold, and whether a
loss of the event ring has been reported. -/
structure HostState where
  inbound : List HostReq
  msixEn : Bool
  bar2 : Nat
  table : List (Nat × MsixEntry)
  pba : List Nat
  holding : List Nat
  deferred : List Nat
  evSeen : Bool
deriving DecidableEq, Repr

/-- The host port after reset. -/
def HostState.reset : HostState := ⟨[], false, 40, [], [], [], [], false⟩

/-- The management bus beside its registers (R621 to R623): whether an IBI holds, an entry deferred by it (class and code), entries
selected since the last IBI, whether a bad transfer has been reported, and whether the controller has enabled in-band interrupts. -/
structure MgmtState where
  holding : Bool
  deferred : Option (Nat × Nat)
  count : Nat
  errSeen : Bool
  ibiOn : Bool
deriving DecidableEq, Repr

/-- The management bus after reset. -/
def MgmtState.reset : MgmtState := ⟨false, none, 0, false, false⟩

/-- The debug port and trace beside their registers (R626 to R628): status and data of the last access, whether a refusal has been
reported, whether the trigger has come, and the entries held, oldest first. -/
structure DbgState where
  status : Nat
  data : Nat
  refused : Bool
  armed : Bool
  trace : List (List Byte)
deriving DecidableEq, Repr

/-- The debug port after reset. -/
def DbgState.reset : DbgState := ⟨0, 0, false, false, []⟩

/-- Telemetry beside its registers (R625): records attempted since en was set, whether the last period was skipped, and whether a drop
has been reported. -/
structure TeleState where
  seq : Nat
  skipped : Bool
  dropSeen : Bool
deriving DecidableEq, Repr

/-- Telemetry after reset. -/
def TeleState.reset : TeleState := ⟨0, false, false⟩

/-! ## Power -/

/-- A change of a region's clock that runs (R659): the step asked for, and a write held behind it. -/
structure DvfsRun where
  step : Nat
  held : Option Nat
deriving DecidableEq, Repr

/-- The power controller beside its registers (R650 to R662): θ_cap and the samples for which it has been 0; φ; the samples of the last
millisecond (power in 0.1 W, θ_cap) and the milliseconds with θ_cap = 0; each region's ceiling step and θ_therm; Assay's last word
(power, valid, samples since it came); the sensors as last read, in 0.125 °C: regions 0 to 15, then hotspots 16 + 8d + h; whether the
warning of 95 °C stands; good coolant readings since the last bad one; clock changes by region; the last rail writes (rail, old target,
resends) as far as they may still be refused; and the status faults reported by rail. -/
structure PowerState where
  thetaCap : Nat
  zeroN : Nat
  phi : Nat
  samples : List (Nat × Nat)
  zeroMs : Nat
  ceil : List Nat
  therm : List Nat
  export_ : Option (Nat × Bool × Nat)
  temps : List Int
  warned : Bool
  coolGood : Nat
  dvfs : List (Nat × DvfsRun)
  retry : List (Nat × Nat × Nat)
  faults : List (Nat × Nat)
deriving DecidableEq, Repr

/-- The power controller after reset. -/
def PowerState.reset : PowerState :=
  ⟨0, 0, 0, [], 0, List.replicate 16 38, List.replicate 16 0, none, [], false, 0, [], [], []⟩

end Sys2Proof.Machine
end

