-- ==== Sys2Proof/Machine/TypesTime.lean ====
section
/-! DEFINITION. State of the site time unit (R451 to R475). -/

namespace Sys2Proof.Machine

/-- What the unit reads of a PTP Announce message (R457): port, domain, the sender's port identity, the PTP timescale flag, the
grandmaster's dataset, and currentUtcOffset, which is recorded and never applied. -/
structure Announce where
  domain : Nat
  src : Nat
  scale : Bool
  gm : Nat
  prio1 : Nat
  cls : Nat
  acc : Nat
  var : Nat
  prio2 : Nat
  steps : Nat
  utcOff : Int
deriving DecidableEq, Repr

/-- What the unit reads of a Sync, Follow_Up or Delay_Resp message: domain, sender, sequence number, the PTP timescale flag, its
time in ns and its correction in ns. -/
structure PtpMsg where
  domain : Nat
  src : Nat
  seq : Nat
  scale : Bool
  t : Nat
  corr : Int
deriving DecidableEq, Repr

/-- The PTP port of a die (R456, R457): the masters heard, the one selected, the Sync that waits for its Follow_Up (sequence number
and arrival), the last pair (origin with correction, arrival), the Delay_Req that waits (sequence number and departure), the pairs
and answers since the selection, and the last 8 delays. -/
structure PtpPort where
  heard : List Announce
  gm : Option Announce
  sync : Option (Nat × Nat)
  pair : Option (Int × Nat)
  req : Option (Nat × Nat)
  pairs : Nat
  resps : Nat
  delays : List Int
deriving DecidableEq, Repr

/-- A PTP port that has heard nothing. -/
def PtpPort.reset : PtpPort := ⟨[], none, none, none, none, 0, 0, []⟩

/-- The GNSS inputs (R455, R456): consecutive good PPS intervals, consecutive labels 1 s apart, the last label, the counter at the
last edge, and the TAI second of the last edge and of the next as labelled. -/
structure Gnss where
  ppsGood : Nat
  zdaGood : Nat
  label : Option Nat
  edge : Nat
  sec : Option Nat
  next : Option Nat
deriving DecidableEq, Repr

/-- No edge and no label. -/
def Gnss.reset : Gnss := ⟨0, 0, none, 0, none, none⟩

/-- The site time unit beside its registers: the counter (R452), 64 bits of nanoseconds and 32 of fraction, with the phase of the
time clock; whether the first step has been made (R460); the run of good measurements (R459); whether event 0x3015 stands; the values
of adj since LOCKED with the clock of each; whether the holdover limit has passed; whether the unit has been locked; the inputs; and
by global link the distance and quality last heard from the current master rank (R464). -/
structure TimeState where
  ns : Nat
  frac : Nat
  phase : Nat
  stepped : Bool
  good : Nat
  big : Bool
  hist : List (Nat × Int)
  long : Bool
  locked : Bool
  gnss : Gnss
  ptp0 : PtpPort
  ptp1 : PtpPort
  hbs : List (Nat × Nat × Nat)
deriving DecidableEq, Repr

/-- The time unit after reset. -/
def TimeState.reset : TimeState := ⟨0, 0, 0, false, 0, false, [], false, false, Gnss.reset, PtpPort.reset, PtpPort.reset, []⟩

end Sys2Proof.Machine
end

