-- ==== Sys2Proof/Syntax.lean ====
section
/-! DEFINITION. The commands of the block: one constructor for each row of the opcode table, with the row's operands. -/

namespace Sys2Proof

open Sys2Proof.Machine

/-- A command (R16 names the units that act on one; the operands say which). -/
inductive Instr where
  /-- A write from the host, management bus, debug port or loader to a CSR that has no row of its own sets its fields as
  their access types give (R7). -/
  | csrWrite (path : Path) (pa : Nat) (width : Nat) (value : Nat)
  /-- A read of an RC field returns its value and then clears the field (R7). -/
  | rcRead (path : Path) (pa : Nat) (width : Nat)
  /-- A 32-bit read of the low half of a 64-bit counter captures its high half into the path's latch (R12). -/
  | counterLowRead (path : Path) (pa : Nat)
  /-- Writing 1 to valid of a first-fault register clears the whole register so that it can capture again (R89). -/
  | firstRecordClear (path : Path) (pa : Nat)
  /-- A write of det.ctl.strict takes effect at each use point and clears det.stat.settled (R478). -/
  | detStrictWrite (path : Path) (value : Nat)
  /-- The last hand and COLL begun before a strict write completes, and settled returns to 1 (R478). -/
  | strictSettled
  /-- A matrix engine accepts an MMA word and broadcasts its chunks to all 1,024 cells (R65). -/
  | mma (c : Fin 128) (e : Fin 4)
  /-- The chunk tree and final add of an MMA complete, its result is written to the bank, and any drain or K-split send
  begins (R70). -/
  | mmaResultWrite (c : Fin 128) (e : Fin 4) (frz : Nat) (bub : Nat)
  /-- Once every partial of an output tile has arrived, the owning drain sums them in ascending split order and adds the sum
  to C (R67). -/
  | kSplitCombine (c : Fin 128)
  /-- An array stays frozen for more consecutive clocks than mxe.freeze_lim, and event 0x4021 is raised once for the MMA
  (R82). -/
  | freezeLimitExceeded (c : Fin 128) (e : Fin 4)
  /-- An MMA with bat = 1 reaches the cluster's batching queue, and joins a batch, opens one or waits (R76). -/
  | thinRequest (c : Fin 128)
  /-- A batch's wait expires mxe.bq_ctl[j].wait clocks after it opened, and the batch closes (R76). -/
  | batchWaitExpire (c : Fin 128) (n : Nat)
  /-- A closed batch is accepted by the lowest-numbered free engine and runs as one MMA with zero = 1 and out = 0b01 (R77). -/
  | batchRun (c : Fin 128)
  /-- A write from another source to a cluster's SRAM while a hand runs there is held until the hand completes (R79). -/
  | externalSramWrite (pa : Nat) (data : List Byte) (poison : Bool)
  /-- An uncorrectable or parity fault in a cluster poisons the running hand, abandons its MMAs, clears its banks and raises
  event 0x4020 (R80). -/
  | handPoison (c : Fin 128) (cause : Fin 3) (engine : Fin 4) (offset : Fin 0x400000)
  /-- A fault detected in a cluster while no hand runs there is recorded with idle = 1 and clears or marks the faulty state
  (R682). -/
  | idleClusterFault (c : Fin 128) (f : IdleFault)
  /-- A write of mxe.bq_ctl[j] changes the batch wait, or closes and runs open batches when en goes from 1 to 0 (R83). -/
  | bqCtlWrite (path : Path) (d : Fin 2) (j : Fin 64) (value : Nat)
  /-- A write of mxe.freeze_lim applies from the next clock, and a freeze already longer than the new limit raises its event
  at once (R83). -/
  | freezeLimWrite (path : Path) (d : Fin 2) (value : Nat) (frozen : List (Fin 256))
  /-- The Dealer reads a 1 KiB chain set, checks all eight entries and replaces the cluster's chain table together (R99). -/
  | chainSetLoad (c : Fin 128)
  /-- The vector engine admits a drain row from a port in rotating order, within the clock's stage-row budget and once its
  operands are buffered (R107). -/
  | drainRowAdmit (c : Fin 128)
  /-- The vector engine admits the next row of a vector run after the drain rows, within the budget (R111). -/
  | vrunRowAdmit (c : Fin 128)
  /-- An admitted row's stages finish and its output is written to cluster SRAM 6 + 2 × nstg clocks after admission (R108). -/
  | rowWrite (c : Fin 128) (n : Nat)
  /-- A VRUN word starts a vector run over rows of input streams held in cluster SRAM (R110). -/
  | vrun (c : Fin 128)
  /-- An uncorrectable or parity fault in the vector engine poisons the running hand and raises event 0x4030 (R116). -/
  | vectorPoison (c : Fin 128) (f : VectorFault)
  /-- A write of dlr.db gives a new tail for one context in one region and, with rs = 1, releases a halt (R128). -/
  | doorbell (path : Path) (d : Fin 2) (value : Nat)
  /-- A free program slot takes the oldest pending item of the chosen context and writes head (R130). -/
  | itemTake (r : Fin 16)
  /-- The CTRL operation NOP has no effect (R135). -/
  | nop (r : Fin 16) (k : Fin 4)
  /-- END ends the program, and the item waits for its outstanding work before it completes (R133). -/
  | endProgram (r : Fin 16) (k : Fin 4)
  /-- Once everything the item issued has completed, the slot closes its batches, writes the completion record, increments
  done, raises MSI-X if asked, and frees (R133). -/
  | itemComplete (r : Fin 16) (k : Fin 4)
  /-- FENCE makes the slot wait until everything it issued earlier has completed (R135). -/
  | fence (r : Fin 16) (k : Fin 4)
  /-- The last work issued before a FENCE completes, and the slot resumes decoding (R135). -/
  | fenceRelease (r : Fin 16) (k : Fin 4)
  /-- SYNC makes the slot arrive at a barrier with an id and a region mask (R159). -/
  | sync (r : Fin 16) (k : Fin 4)
  /-- Every masked region has arrived at the barrier, and the waiting slots are released after the stated clocks (R159). -/
  | syncRelease (r : Fin 16) (k : Fin 4)
  /-- WAITF makes the slot wait until a flag reaches a value (R135). -/
  | waitf (r : Fin 16) (k : Fin 4)
  /-- A flag reaches the value awaited, and the waiting slot resumes (R159). -/
  | waitfRelease (r : Fin 16) (k : Fin 4)
  /-- POSTF adds an increment to a flag, saturating (R135). -/
  | postf (r : Fin 16) (k : Fin 4)
  /-- FLUSHQ closes the open batches of the masked clusters (R135). -/
  | flushq (r : Fin 16) (k : Fin 4)
  /-- TRAP faults the item with code 0x4006 (R135). -/
  | trap (r : Fin 16) (k : Fin 4)
  /-- A HAND word opens a hand of the words that follow it (R136). -/
  | hand (r : Fin 16) (k : Fin 4)
  /-- After a hand's last word is decoded, the Dealer adjusts its words, attaches masks, checks them and deals the hand to
  its cluster's queue (R152). -/
  | handDeal (r : Fin 16) (k : Fin 4)
  /-- A dealt hand starts in its cluster once the previous hand has completed, or completes POISON at once if the cluster is
  out of service (R155). -/
  | handStart (c : Fin 128)
  /-- All words of a hand complete, the hand returns OK, POISON or FAULT, and held external writes are applied (R155). -/
  | handComplete (c : Fin 128)
  /-- DMA LOAD moves a descriptor tile into cluster SRAM, with zeros beyond the valid extents (R137). -/
  | load (c : Fin 128)
  /-- DMA STORE moves the valid part of a tile from cluster SRAM to its descriptor's destination (R137). -/
  | store (c : Fin 128)
  /-- DMA COPYIN moves rl bytes from a VA into cluster SRAM (R137). -/
  | copyin (c : Fin 128)
  /-- DMA COPYOUT moves rl bytes from cluster SRAM to a VA (R137). -/
  | copyout (c : Fin 128)
  /-- A DMA finishes its writes or faults on translation (R137). -/
  | dmaComplete (c : Fin 128) (done : DmaDone)
  /-- COLL reduce-scatter queues a collective that leaves each node holding the reduction of its chunk (R308). -/
  | reduceScatter (r : Fin 16) (k : Fin 4)
  /-- COLL all-gather queues a collective that gives every node every chunk in rank order (R308). -/
  | allGather (r : Fin 16) (k : Fin 4)
  /-- COLL all-reduce queues a reduce-scatter followed by an all-gather of its rounded result (R308). -/
  | allReduce (r : Fin 16) (k : Fin 4)
  /-- COLL broadcast queues the sending of the TREE root's data to every node (R309). -/
  | broadcast (r : Fin 16) (k : Fin 4)
  /-- COLL permute queues a PAIR exchange or a RESHARD of a tensor between partitions (R307). -/
  | permute (r : Fin 16) (k : Fin 4)
  /-- A LOOP begin fixes the loop count and runs or skips the body (R139). -/
  | loopBegin (r : Fin 16) (k : Fin 4)
  /-- A LOOP end branches back while iterations remain, or closes the loop (R139). -/
  | loopEnd (r : Fin 16) (k : Fin 4)
  /-- LI loads an immediate into a scalar register (R140). -/
  | li (r : Fin 16) (k : Fin 4)
  /-- SREG ADD writes A + B modulo 2^64 (R140). -/
  | add (r : Fin 16) (k : Fin 4)
  /-- SREG SUB writes A − B modulo 2^64 (R140). -/
  | sub (r : Fin 16) (k : Fin 4)
  /-- SREG MUL writes the low 64 bits of A × B (R140). -/
  | mul (r : Fin 16) (k : Fin 4)
  /-- SREG AND writes the bitwise AND of A and B (R140). -/
  | and (r : Fin 16) (k : Fin 4)
  /-- SREG OR writes the bitwise OR of A and B (R140). -/
  | or (r : Fin 16) (k : Fin 4)
  /-- SREG SHL shifts A left by B mod 64 (R140). -/
  | shl (r : Fin 16) (k : Fin 4)
  /-- SREG SHR shifts A right, logically, by B mod 64 (R140). -/
  | shr (r : Fin 16) (k : Fin 4)
  /-- SREG MIN writes the unsigned minimum of A and B (R140). -/
  | min (r : Fin 16) (k : Fin 4)
  /-- SREG MAX writes the unsigned maximum of A and B (R140). -/
  | max (r : Fin 16) (k : Fin 4)
  /-- LD issues a 64-bit read from VA A + B into a register, and the slot waits (R140). -/
  | ld (r : Fin 16) (k : Fin 4)
  /-- The data of an LD returns into its register, and the slot becomes ready (R140). -/
  | ldComplete (r : Fin 16) (k : Fin 4)
  /-- ST writes 64 bits of a register to VA A + B (R140). -/
  | st (r : Fin 16) (k : Fin 4)
  /-- LDD issues a read of a 128-byte tensor descriptor into a descriptor slot (R146). -/
  | ldd (r : Fin 16) (k : Fin 4)
  /-- The descriptor read returns, is checked, fills its slot and registers any digest task (R146). -/
  | lddComplete (r : Fin 16) (k : Fin 4)
  /-- RDT writes a tally, flag or clock source into a register (R140). -/
  | rdt (r : Fin 16) (k : Fin 4)
  /-- TEST compares two values and branches when the condition holds (R141). -/
  | test (r : Fin 16) (k : Fin 4)
  /-- MELD TRICK opens trick t when t equals acc, or waits, or faults (R345). -/
  | trick (r : Fin 16) (k : Fin 4)
  /-- A TRICK held while its slot was busy resumes when the slot reaches RUN or CORR (R345). -/
  | trickRelease (r : Fin 16) (k : Fin 4)
  /-- MELD BOUND marks an inner-step boundary and is released or held by the slot's state (R345). -/
  | bound (r : Fin 16) (k : Fin 4)
  /-- A held BOUND is released when the snapshot copy ends or the local update is made (R345). -/
  | boundRelease (r : Fin 16) (k : Fin 4)
  /-- MELD WAITA waits until the anchor of trick t has been applied (R345). -/
  | waita (r : Fin 16) (k : Fin 4)
  /-- applied reaches t, and the waiting WAITA is released (R345). -/
  | waitaRelease (r : Fin 16) (k : Fin 4)
  /-- A write of dlr.kill stops a running slot and completes its item with code 0x400B (R158). -/
  | kill (path : Path) (d : Fin 2) (value : Nat)
  /-- A wait lasts longer than dlr.wd clocks, and event 0x4008 is raised once while the wait continues (R159). -/
  | waitWatchdog (r : Fin 16) (k : Fin 4)
  /-- A program-buffer miss fetches a 4 KiB line from HBM, and the waiting slot resumes (R163). -/
  | programFetch (r : Fin 16) (k : Fin 4)
  /-- A write of dlr.pbinv with go = 1 starts a drop of the selected program-buffer lines, or is held behind a running drop
  (R170). -/
  | pbinv (path : Path) (d : Fin 2) (value : Nat)
  /-- A program-buffer drop completes, go clears, and any held drop starts (R164). -/
  | pbinvDone (d : Fin 2)
  /-- A write reaches its target and is acknowledged, after which every later read returns it (R186). -/
  | memoryWrite (d : Fin 2) (outside : Bool) (pa : Nat) (data : List Byte) (meets : WriteMeets)
  /-- A read of stacked or cluster SRAM is decoded through SEC-DED and returned, corrected or poisoned (R180). -/
  | memoryRead (d : Fin 2) (pa : Nat) (n : Nat) (meets : ReadMeets)
  /-- The patrol scrubber's period elapses and it reads and corrects the stacked SRAM outside the carved range (R180). -/
  | sramScrubPass (d : Fin 2) (ce : List Nat) (ue : List Nat)
  /-- A write of sram.carve.size starts a cache-size transition, or is held behind a running one (R182). -/
  | carveWrite (path : Path) (d : Fin 2) (size : Fin 8)
  /-- A carve transition completes, busy clears and event 0x1053 is raised (R182). -/
  | carveTransitionDone (d : Fin 2)
  /-- A bridge beat arrives and is accepted, or rejected with a NAK on a bad CRC (R188). -/
  | bridgeBeatReceive (d : Fin 2) (seq : Nat) (beat : BeatIn)
  /-- A NAK reaches the bridge sender, which replays from that beat, and enters retraining after 8 failed replays (R188). -/
  | bridgeNak (d : Fin 2) (seq : Nat) (beats : Nat)
  /-- A bridge training ends, bringing the bridge up or, after three failures, down (R188). -/
  | bridgeRetrainDone (ok : Bool)
  /-- A write of 1 to brg.ctl.retrain starts a new bridge training from the down state (R188). -/
  | bridgeRetrainCmd (path : Path) (d : Fin 2)
  /-- An agent's access to a coherent line is served by its die's control-line cache, which sends coherence requests if
  needed (R190). -/
  | coherentAccess (d : Fin 2) (pa : Nat) (len : Nat) (wdata : Option (List Byte)) (tag : Nat)
  /-- The home receives a request for a shared copy of a line (R191). -/
  | rds (line : Nat) (seq : Nat)
  /-- The home receives a request for the only copy of a line (R191). -/
  | rdm (line : Nat) (seq : Nat)
  /-- The home receives a request to go from S to M, handled as RDM if the sender no longer holds S (R194). -/
  | upg (line : Nat) (seq : Nat)
  /-- The home receives a clean eviction and applies it at once, or holds it for a crossing snoop (R193). -/
  | evs (line : Nat) (seq : Nat)
  /-- The home receives a dirty eviction with its data and applies it at once, or holds it for a crossing snoop (R193). -/
  | evm (line : Nat) (seq : Nat)
  /-- The remote die receives a downgrade snoop and answers it according to its state (R191). -/
  | snps (line : Nat) (seq : Nat)
  /-- The remote die receives an invalidating snoop and answers it according to its state (R191). -/
  | snpi (line : Nat) (seq : Nat)
  /-- The remote die receives a grant of S with data (R191). -/
  | dats (line : Nat) (seq : Nat)
  /-- The remote die receives a grant of M with data (R191). -/
  | datm (line : Nat) (seq : Nat)
  /-- The remote die receives a grant of M to an S holder (R191). -/
  | gntm (line : Nat) (seq : Nat)
  /-- The remote die receives the completion of its eviction, and the line goes to I (R191). -/
  | evack (line : Nat) (seq : Nat)
  /-- The home receives a response that the remote die now holds the line in I (R191). -/
  | rspi (line : Nat) (seq : Nat)
  /-- The home receives a response that the remote die now holds the line in S (R191). -/
  | rsps (line : Nat) (seq : Nat)
  /-- The home receives dirty data from a remote M holder in answer to a snoop (R191). -/
  | rspd (line : Nat) (seq : Nat)
  /-- The home receives a miss answer that names an eviction in flight, and completes once both messages have arrived (R193). -/
  | rspev (line : Nat) (seq : Nat) (ev : Nat)
  /-- A write of brg.cwin[n] sets busy and starts the flush of the window's old range, or is held behind a running change
  (R195). -/
  | cwinWrite (path : Path) (n : Fin 8) (value : Nat)
  /-- The flush of a window's old range completes, the new range takes effect and event 0x2064 is raised (R195). -/
  | cwinFlushDone (n : Fin 8)
  /-- A PC's controller serves a queued granule request by its ordering and batching rules (R216). -/
  | hbmRequest (d : Fin 2) (p : Fin 256) (meets : ServeMeets)
  /-- A PC's refresh timer opens a 175 ns slot that refreshes the PC and ends with one maintenance access (R217). -/
  | refreshSlot (d : Fin 2) (p : Fin 256) (collisions : Nat) (scrub : Bool) (ecc : EccList)
  /-- A stack reports its temperature every 1 ms and may switch between cool and hot refresh (R218). -/
  | hbmTempReport (d : Fin 2) (i : Fin 4) (t : Nat)
  /-- A corrected-error window of hbm.cew.win seconds ends and a new window begins (R225). -/
  | cewWindowEnd (d : Fin 2)
  /-- A read reaches the memory-side cache and hits or misses under its hint (R229). -/
  | hbmCacheRead (pa : Nat) (n : Nat) (tag : Nat)
  /-- A write reaches the memory-side cache and overwrites, merges, allocates or enters the write-combining buffer under its
  hint (R229). -/
  | hbmCacheWrite (pa : Nat) (data : List Byte) (poison : Bool)
  /-- A write-combining entry reaches hcache.wc.age and is written to HBM chunk by chunk (R232). -/
  | wcAgeExpire (d : Fin 2) (g : Nat)
  /-- A stack's training attempt ends, bringing the stack up, retrying, or marking it down with event 0x1001 (R234). -/
  | hbmTrainDone (d : Fin 2) (i : Fin 4) (ok : Bool)
  /-- A write of hbm.own takes stacks out of normal service and starts their flush, or returns them to service (R235). -/
  | hbmOwnWrite (path : Path) (d : Fin 2) (own : Fin 16)
  /-- An owned stack's flush and admitted requests complete, ready is set and event 0x1006 is raised (R235). -/
  | hbmOwnReady (d : Fin 2) (i : Fin 4)
  /-- A write of tgen.ctl.go latches the settings and starts every enabled PC, or is refused with event 0x1021 (R236). -/
  | tgenGo (path : Path) (d : Fin 2) (value : Nat)
  /-- A write of tgen.ctl.stop ends the run at once and marks it aborted (R237). -/
  | tgenStop (path : Path) (d : Fin 2) (value : Nat)
  /-- Every enabled PC finishes, or ownership is released, done is set and event 0x1020 is raised (R237). -/
  | tgenRunEnd (d : Fin 2) (errs : List (Nat × Ecc))
  /-- READ_ROW copies a row's data and stored check bytes into the repair window's buffers (R240). -/
  | readRow (path : Path)
  /-- WRITE_ROW writes the row buffer and check bytes to the row exactly (R240). -/
  | writeRow (path : Path)
  /-- SOFT_REPAIR maps a row to a spare until the stack loses power (R240). -/
  | softRepair (path : Path)
  /-- HARD_REPAIR fuses the row's spare map permanently, given the key (R240). -/
  | hardRepair (path : Path) (key : Fin 65536)
  /-- CLEAR_SOFT undoes every soft repair of the addressed bank (R240). -/
  | clearSoft (path : Path)
  /-- SPARE_QUERY loads the number of spare rows left for the addressed bank (R240). -/
  | spareQuery (path : Path)
  /-- A repair command ends, sets done or fail, and raises event 0x1031 or 0x1032 (R240). -/
  | repairCmdDone
  /-- A write of hcache.flush.go starts writing back and invalidating every cache line and write-combining entry (R248). -/
  | hcacheFlush (path : Path) (d : Fin 2)
  /-- The cache flush ends, go clears and event 0x1010 is raised (R248). -/
  | hcacheFlushDone (d : Fin 2)
  /-- A read of a compressed weight slot fetches its chunks, checks and expands the block, or poisons it on failure (R395). -/
  | weightSlotRead (d : Fin 2) (pa : Nat) (n : Nat) (ecc : EccList)
  /-- The die fills the context at the head of its fill queue into a free or evicted entry, checks it and restores its quota
  counter (R263). -/
  | contextFill (d : Fin 2)
  /-- A write of ctx.refresh puts a context in the fill queue of each die on which it is not cached (R278). -/
  | ctxRefresh (path : Path) (c : Fin 4096)
  /-- A write of ctx.ctl.drop evicts every idle entry of both dies (R278). -/
  | ctxDrop (path : Path) (en : Bool)
  /-- A write of ctx.base sets the table address, or is discarded with event 0x5012 while any entry is cached (R277). -/
  | ctxBaseWrite (path : Path) (value : Nat)
  /-- The package quota timer ends a period, increments the epoch and restarts every cached counter from 0 (R268). -/
  | quotaPeriodEnd
  /-- An access that misses the translation caches starts or joins a walk (R273). -/
  | translationMiss (d : Fin 2) (c : Fin 4096) (w : WalkWaiter)
  /-- A table read of a walk returns and the walk descends, completes or faults (R273). -/
  | walkReadReturn (d : Fin 2) (n : Fin 8) (ecc : Ecc)
  /-- A write of mmu.inv with go = 1 drops matching translations and program-buffer lines, or is held behind a running
  invalidation (R276). -/
  | mmuInv (path : Path) (d : Fin 2) (value : Nat)
  /-- The drops and the walks in flight complete, and busy clears (R276). -/
  | mmuInvDone (d : Fin 2)
  /-- A link receiver checks a flit's CRC and sequence and accepts it or discards it with a nak (R293). -/
  | flitReceive (d : Fin 2) (i : Fin 18) (hdr : Nat) (slots : List Nat)
  /-- A link in DOWN with auto = 1 starts training again 100 ms after a loss or failed training (R295). -/
  | linkRetryTimer (d : Fin 2) (i : Fin 18)
  /-- A link's transmit PLL locks and the link leaves CAL for EQ or UP (R295). -/
  | linkCalDone (d : Fin 2) (i : Fin 18)
  /-- CAL lasts 2 ms, and the training fails or, from UP, the link is lost (R295). -/
  | linkCalTimeout (d : Fin 2) (i : Fin 18)
  /-- Equalisation completes and the link enters ALIGN (R295). -/
  | linkEqDone (d : Fin 2) (i : Fin 18)
  /-- EQ lasts 20 ms and the link returns to DOWN as a failed training (R295). -/
  | linkEqTimeout (d : Fin 2) (i : Fin 18)
  /-- Lane deskew and codeword lock complete and the link enters PEER (R295). -/
  | linkAlignDone (d : Fin 2) (i : Fin 18)
  /-- ALIGN lasts 1 ms and the link returns to DOWN (R295). -/
  | linkAlignTimeout (d : Fin 2) (i : Fin 18)
  /-- The ends exchange node id and link number, and the link goes UP or to HOLD on a mismatch (R296). -/
  | peerExchange (d : Fin 2) (i : Fin 18) (node : Fin 32768) (link : Fin 32)
  /-- An UP link accepts no flit or loses codeword lock for 1 µs and enters RETRAIN (R295). -/
  | linkReceiveSilence (d : Fin 2) (i : Fin 18)
  /-- An UP link's transmit PLL loses lock and the link enters CAL (R295). -/
  | txPllLockLoss (d : Fin 2) (i : Fin 18)
  /-- RETRAIN reaches UP, held flits leave in order and event 0x2001 is raised (R295). -/
  | retrainDone (d : Fin 2) (i : Fin 18)
  /-- RETRAIN does not reach UP within 100 µs, the link is lost and event 0x2002 is raised (R301). -/
  | retrainTimeout (d : Fin 2) (i : Fin 18)
  /-- A write of lnk.ctl.en stops a link and settles its work, or starts its training (R320). -/
  | lnkCtlWrite (path : Path) (d : Fin 2) (value : Nat)
  /-- A remote read arrives at its destination node and is answered by RSP (R291). -/
  | rd (d : Fin 2) (via : Nat) (m : Msg)
  /-- A remote write arrives at its destination node and is made and answered, or refused (R291). -/
  | wr (d : Fin 2) (via : Nat) (m : Msg)
  /-- A response reaches the issuing unit with OK, POISON, NOROUTE or REFUSED (R303). -/
  | rsp (d : Fin 2) (via : Nat) (m : Msg)
  /-- A collective segment arrives, is accepted at the watermark or dropped, and is combined or written (R312). -/
  | seg (d : Fin 2) (via : Nat) (m : Msg)
  /-- A segment acknowledgement raises the sender's mark and frees the segments below it (R313). -/
  | sack (d : Fin 2) (via : Nat) (m : Msg)
  /-- A queued COLL starts on its route entry, latches the entry, checks it and begins its steps (R306). -/
  | collStart (d : Fin 2)
  /-- A step accepts no segment and gets no SACK for col.tmo µs and faults with code 0x2014 (R317). -/
  | stepTimeout (d : Fin 2) (rt : Fin 256) (step : Nat)
  /-- Every segment sent is acknowledged and every element written, and the COLL completes and posts its flag (R316). -/
  | collComplete (d : Fin 2) (rt : Fin 256)
  /-- A write of meld.job[j].desc with en = 1 moves the slot to INIT (R344). -/
  | meldEnable (path : Path) (j : Fin 4) (value : Nat)
  /-- INIT has cleared sum and wsum and checked the descriptor and shard map, and the slot enters RUN, JOINWAIT or FAULT
  (R344). -/
  | initDone (d : Fin 2) (j : Fin 4)
  /-- Clearing en turns the slot OFF at the end of any SNAP or APPLY, and waiting MELD words fault (R372). -/
  | meldDisable (path : Path) (j : Fin 4) (value : Nat)
  /-- The snapshot copy of local to snap ends, BOUND is released and ENC begins (R346). -/
  | snapDone (d : Fin 2) (j : Fin 4)
  /-- Every own fragment has been handed to the fabric, and the slot enters OPEN (R349). -/
  | encDone (d : Fin 2) (j : Fin 4)
  /-- The counter reaches T_dl after ENC has ended, and the half enters APPLY (R347). -/
  | trickClose (d : Fin 2) (j : Fin 4)
  /-- APPLY finishes its blocks, writes the manifest, advances applied and acc, and enters CORR (R360). -/
  | applyDone (d : Fin 2) (j : Fin 4)
  /-- A Courier die receives an OUT piece and reassembles the own fragment, dropping duplicates (R352). -/
  | frgOut (d : Fin 2) (via : Nat) (m : Msg)
  /-- An owner half receives IN pieces and, once a block is whole, decodes it and merges, holds or discards its contribution
  (R354). -/
  | frgIn (d : Fin 2) (via : Nat) (m : Msg)
  /-- A CTL piece carries one control record between a Courier and the site master (R365). -/
  | frgCtl (d : Fin 2) (via : Nat) (m : Msg)
  /-- A master decides a join request, refusing it or admitting the site as JOINING (R366). -/
  | joinReq
  /-- The joiner's master receives admission and writes the join trick and requests the other partners (R368). -/
  | joinAck
  /-- The joiner's master receives a refusal and raises event 0x600D (R368). -/
  | joinRefuse
  /-- A joining device reports RUN to its master, which sends JOIN_DONE once every device has (R370). -/
  | joinReady
  /-- A partner's master receives join completion and writes the entry ACTIVE in every device (R370). -/
  | joinDone
  /-- A donor master gets no JOIN_DONE within meld.jtmo and writes the entry CLOSED (R370). -/
  | joinTimeout (i : Fin 64)
  /-- A write of codec.ww[n] changes a weight window and invalidates the map cache and expanded-block buffers (R396). -/
  | codecWwWrite (path : Path) (d : Fin 2) (n : Fin 8) (value : Nat)
  /-- A write of codec.wm[n] is taken only while the window is disabled, and otherwise raises event 0x9002 (R398). -/
  | codecWmWrite (path : Path) (d : Fin 2) (n : Fin 8) (value : Nat)
  /-- A write of codec.ctl.inval invalidates the map cache and expanded-block buffers (R399). -/
  | codecInval (path : Path) (d : Fin 2)
  /-- A WAN port in DOWN with auto = 1 starts CAL 100 ms after a loss (R406). -/
  | wanRetryTimer (d : Fin 2)
  /-- A WAN port's transmit PLL locks, leaving CAL for TRAIN or UP and releasing held traffic (R406). -/
  | wanCalDone (d : Fin 2)
  /-- CAL lasts 20 ms and the port returns to DOWN as a loss (R406). -/
  | wanCalTimeout (d : Fin 2)
  /-- CAL entered from UP lasts 2 ms, and held traffic is rerouted to the other port or alternate Courier, or dropped (R436). -/
  | wanCalHoldTimeout (d : Fin 2)
  /-- Lane training and PCS lock complete and the port goes UP with event 0x3001 (R406). -/
  | wanTrainDone (d : Fin 2)
  /-- TRAIN lasts 50 ms and the port returns to DOWN (R406). -/
  | wanTrainTimeout (d : Fin 2)
  /-- An UP port loses PCS lock for 1 ms and goes DOWN with event 0x3002 (R406). -/
  | wanPcsLoss (d : Fin 2)
  /-- An UP port's transmit PLL loses lock, and the port enters CAL and holds its transmit traffic (R435). -/
  | wanTxPllLoss (d : Fin 2)
  /-- A write of wan.ctl with en going from 1 to 0 takes the port DOWN and treats held traffic by R436 (R437). -/
  | wanCtlWrite (path : Path) (d : Fin 2) (value : Nat)
  /-- A write of wan.ip6_lo applies the staged high half and the low half together (R437). -/
  | wanIp6LoWrite (path : Path) (d : Fin 2) (value : Nat)
  /-- A received frame is checked in order and dropped, answered, passed to the time unit or passed on as Felvar (R408). -/
  | ethernetFrame (d : Fin 2) (frame : List Byte) (fcs : Bool)
  /-- With nd = 1 the port answers an ARP request that names its own address (R407). -/
  | arpRequest (d : Fin 2) (frame : List Byte)
  /-- With nd = 1 the port answers an IPv6 neighbour solicitation that names its own address (R407). -/
  | neighborSolicitation (d : Fin 2) (frame : List Byte)
  /-- A BULK packet is checked, keyed and opened, and its fragment goes to Meld as an authenticated partner fragment (R413). -/
  | bulk (d : Fin 2) (packet : List Byte)
  /-- A CTL packet is opened and its control message delivered in sequence, acknowledged or held (R427). -/
  | ctl (d : Fin 2) (packet : List Byte)
  /-- A receive-key derivation for a missed packet completes and the waiting packet is opened (R420). -/
  | keyMissDerived (d : Fin 2)
  /-- A Courier port stores a reassembled own fragment for repair and seals one copy per eligible partner (R412). -/
  | fragmentSend (d : Fin 2)
  /-- A write of cip.ld.go latches the wrapped secret and starts its unwrap, or is refused while busy (R414). -/
  | pairSecretLoad (path : Path) (d : Fin 2) (value : Nat)
  /-- The unwrap ends, placing the secret in a slot or setting fail with event 0x7005 (R414). -/
  | pairSecretUnwrapDone (d : Fin 2)
  /-- A transmit key derivation completes and the pair moves from KEYING or NEXTWAIT to LIVE (R415). -/
  | keyDerivationDone (d : Fin 2) (n : Fin 64)
  /-- A write of cip.pair[n].ctl.roll in LIVE rolls at the next packet boundary, or is refused (R418). -/
  | pairRoll (path : Path) (d : Fin 2) (n : Fin 64) (gen : Fin 256)
  /-- A write of use takes a held generation into transmit use, drawing sess and deriving keys (R421). -/
  | pairUse (path : Path) (d : Fin 2) (n : Fin 64) (gen : Fin 256)
  /-- A write of dropold empties the slot that does not hold the transmit generation (R421). -/
  | pairDropold (path : Path) (d : Fin 2) (n : Fin 64) (gen : Fin 256)
  /-- A write of a pair's elim applies at once and can release a PAUSED pair (R437). -/
  | pairElimWrite (path : Path) (d : Fin 2) (n : Fin 64) (elim : Nat)
  /-- 100 µs after receipt with no outgoing message, a pure acknowledgement is sent (R428). -/
  | controlAckTimer (d : Fin 2) (k : Fin 256)
  /-- An unacknowledged control message is resent after wan.crto.rto, and the connection fails after cmax resends (R428). -/
  | controlRetransmit (d : Fin 2) (k : Fin 256) (cseq : Nat)
  /-- Every carried half has delivered its last fragment, or wan.repw.sum ms pass, and SUMMARY records are sent (R432). -/
  | summarySend (d : Fin 2) (job : Nat) (trick : Nat)
  /-- An ingress port compares received counts with its tracker and sends NACK records for missing fragments (R433). -/
  | summary (d : Fin 2)
  /-- A sending port resends the stored fragments that a NACK names and that pass its checks (R434). -/
  | nack (d : Fin 2)
  /-- Every wan.rep.ivl ms the port repeats NACKs for bits still clear, up to wan.rep.max rounds (R433). -/
  | nackRepeat (d : Fin 2) (k : Nat)
  /-- A PPS_IN rising edge is timestamped and measured as a GNSS phase error (R459). -/
  | ppsEdge (interval : Nat)
  /-- A ZDA sentence on TOD_RX labels a PPS edge with its TAI second, or is ignored (R455). -/
  | zdaSentence (text : List Byte) (ms : Nat)
  /-- A PTP Sync message arrives and is timestamped, and the port answers with Delay_Req (R457). -/
  | ptpSync (p : Fin 2) (m : PtpMsg)
  /-- A PTP Follow_Up gives the precise send time of its Sync, and a phase error is measured (R457). -/
  | followUp (p : Fin 2) (m : PtpMsg)
  /-- A PTP Delay_Resp gives a delay measurement that enters the average (R457). -/
  | delayResp (p : Fin 2) (m : PtpMsg)
  /-- A PTP Announce enters grandmaster selection by dataset comparison (R457). -/
  | announce (p : Fin 2) (a : Announce)
  /-- A source's edges, messages or heartbeats stop for its limit, it loses qualification and the source is selected again
  (R456). -/
  | sourceLossTimeout (src : Fin 5)
  /-- REF10M_IN stays within ±10 ppm for 1 s and becomes qualified (R456). -/
  | ref10mQualify
  /-- A write of time.step adds Δ to the counter and to every Meld open time and deadline (R460). -/
  | timeStep (path : Path) (delta : Nat)
  /-- Holdover reaches time.hold.max hours, event 0x3014 is raised and the quality drops (R461). -/
  | holdoverLimit
  /-- At each whole second of the counter the time unit sends an edge and a frame to Assay (R467). -/
  | timeMark
  /-- A write of time.ctl changes selection or slew, or with en going to 0 freezes adj and enters HOLDOVER (R468). -/
  | timeCtlWrite (path : Path) (value : Nat)
  /-- A digest unit finishes reading a tensor or program and forms its root (R488). -/
  | digestDone (r : Fin 16) (k : Fin 4) (n : Nat)
  /-- A digest record is written into the region's digest ring once it has room (R487). -/
  | digestRecordWrite (r : Fin 16)
  /-- A hand's compare record arrives, and the hand is compared once both sides' records are present (R492). -/
  | twinRecord (r : Fin 16) (seq : Nat)
  /-- Writing 1 to det.tw_mm.valid releases the halt and completes held items as kills (R493). -/
  | twinRelease (path : Path)
  /-- No record arrives from the peer for det.tw_tmo.us µs while one waits, and the part latches a peer loss and halts
  (R494). -/
  | twinPeerTimeout
  /-- Writing det.ctl.rp to 0 releases a slot stopped by a divergence as a kill (R497). -/
  | replayRelease (path : Path) (value : Nat)
  /-- A warning window of rec.win or rec.lwin ends and a new window begins (R505). -/
  | warningWindowEnd (d : Fin 2) (w : Fin 2)
  /-- Every 1 ms the part reads the descriptor's preq word and raises want on a new program request (R506). -/
  | preqPoll
  /-- A write of ckp.cut.go raises want for a site cut, or starts a local cut at the given step (R516). -/
  | ckpCut (path : Path) (d : Fin 2) (value : Nat)
  /-- No slot holds an item of the context and no Meld slot is in SNAP, ENC or APPLY, and COPY begins (R513). -/
  | cutQuiesced
  /-- ckp.lead.qtmo ms pass in ARMED and the cut fails with event 0x8003 (R513). -/
  | cutQuiesceTimeout
  /-- The regions have been copied into the image slot and the manifest write begins (R513). -/
  | cutCopyDone
  /-- The checkpoint manifest is acknowledged, the gate lifts, ckp.last updates and event 0x8002 is raised (R513). -/
  | cutManifestDone
  /-- A write of ckp.dray.go starts Drayman draining one image slot and its manifest to the host (R517). -/
  | drainStart (path : Path) (d : Fin 2) (value : Nat)
  /-- A drain writes its manifest last and ends with event 0x8005, or fails with event 0x8007 (R517). -/
  | drainDone (list : List (Nat × Nat)) (err : Option Nat)
  /-- A write of ckp.rst.go starts a restore, beginning with a digest-checking read pass (R519). -/
  | restore (path : Path) (d : Fin 2) (value : Nat)
  /-- A restore's passes end, applying corrections and raising event 0x8008, or failing with event 0x8009 (R519). -/
  | restoreDone
  /-- The error log moves one entry from its intake FIFO to the ring per rec clock (R520). -/
  | logRingWrite (d : Fin 2)
  /-- A recovery controller's self-test after reset passes or fails, taking it to WATCH or FAILED (R526). -/
  | rcSelftestDone (d : Fin 2) (ok : Bool)
  /-- A running controller's copies disagree or its check fails, and it enters FAILED (R525). -/
  | rcSelftestFail (d : Fin 2) (cause : Fin 4)
  /-- Every 10 µs each recovery controller signals its twin over the bridge and the sideband (R527). -/
  | rcTwinSignal (d : Fin 2) (paths : Fin 4)
  /-- Neither path delivers from the twin for 100 µs, the twin is LOST and the controller enters SOLO (R527). -/
  | rcTwinLost (d : Fin 2)
  /-- Neither controller's toggle changes for 100 µs and FAIL_N is asserted (R529). -/
  | failNAssert
  /-- Every 1 ms each die sends an HB on every UP link (R530). -/
  | heartbeatSend (d : Fin 2)
  /-- A heartbeat arrives from a neighbour, carrying election, time, cut and patch information (R530). -/
  | hb (d : Fin 2) (i : Fin 18) (m : Msg)
  /-- Every 1 ms each die updates its rank table, drops silent ranks and decides whether it holds the master role (R531). -/
  | electionPeriod (d : Fin 2)
  /-- An UP link carries no heartbeat for 3 ms and a failure notice is sent to the master (R535). -/
  | hbSilenceTimeout (d : Fin 2) (i : Fin 18)
  /-- A failure notice reaches the master's ring and may count a device as failed (R535). -/
  | failureNotice (failed : Fin 16384) (reporter : Fin 16384) (cause : Fin 5) (ts : Nat)
  /-- A take-over record arrives in a spare's mailbox and the spare raises event 0x8016 (R537). -/
  | takeoverRecord (f : Fin 16384)
  /-- Every 1 ms a rec or ckp write that completed UNKNOWN, NOROUTE or NOTSENT is reissued until rec.wrmax (R534). -/
  | wrReissue (d : Fin 2)
  /-- Assay powers up or leaves reset, starts counters from 0, draws a boot nonce and rebuilds its parameters (R553). -/
  | assayReset
  /-- No time mark arrives within 2 s of power-up and Assay time starts from 0 (R562). -/
  | assayTimeTimeout
  /-- Each microsecond Assay integrates the power of all 16 rails into the package energy register (R555). -/
  | energySample (rails : List Nat)
  /-- Every 1 ms each compute die sends Assay its per-context engine-time counts (R560). -/
  | engineTimeReportSend (d : Fin 2)
  /-- Assay receives an engine-time report and adds it to the accounts, or discards it (R560). -/
  | engineTimeReport (good : Bool)
  /-- Assay time crosses a multiple of the interval, energy is allocated and the Hallmarks are issued (R563). -/
  | intervalEnd
  /-- Assay timestamps a time-mark edge and, on a valid frame, updates its offset (R564). -/
  | timeMarkFrame (good : Bool) (sub : Fin 1000)
  /-- No valid time mark arrives for 2.5 s and the offset becomes invalid (R564). -/
  | offsetInvalidTimeout
  /-- SEAL writes Ledger entry 0 and enters SEALED, or is refused (R570). -/
  | seal (key : Nat)
  /-- SETPARAM changes a parameter, writing a PARAM entry in SEALED, or is refused (R570). -/
  | setparam (pid : Fin 256) (value : Nat)
  /-- Every 1 ms Assay measures the tamper loop and records breaks and restores (R571). -/
  | tamperCheck (ok : Bool)
  /-- Every 1 ms Assay sends a mirror frame of its status, readings, a Ledger entry and Hallmark bytes (R574). -/
  | mirrorFrame
  /-- The asy unit applies a good frame in one clock, or discards and counts a bad one (R574). -/
  | mirrorFrameReceive (good : Bool)
  /-- No good frame arrives for 10 ms, mlive clears and event 0xA007 is raised (R574). -/
  | mirrorLost
  /-- Every 10 µs Assay sends the power controller a package power word (R576). -/
  | powerExport (range : Bool)
  /-- A power-on, SYS_RST_N, undervoltage or reload resets both compute dies and starts the loader at FUSE (R649). -/
  | deviceReset (cause : Fin 4) (rail : Fin 16)
  /-- The loader has read the fuses, and both dies leave reset and start HBM training and controller self-test (R588). -/
  | fuseDone
  /-- The loader reads SFDP and chooses the NOR read mode, or fails with cause 1 (R581). -/
  | probeDone (mode : Fin 4) (size : Nat)
  /-- A copy's header and record area have been read and hashed into the staging area (R589). -/
  | stageDone (nor : List Byte)
  /-- The staged copy passes the checks and LOAD begins, or it fails with its cause (R584). -/
  | verifyDone
  /-- The record writes 32-bit words to an allowed address (R586). -/
  | write32
  /-- The record writes 64-bit words to an allowed address (R586). -/
  | write64
  /-- The record writes an 8-byte pattern repeatedly over a range (R586). -/
  | fill
  /-- The record polls an address every 1 µs until a masked value matches (R586). -/
  | waitBit
  /-- A WAIT_BIT times out and fails the copy with cause 9, or with soft = 1 is counted and skipped (R591). -/
  | waitBitTimeout
  /-- The record writes its data into HBM once the target die's stacks are settled (R586). -/
  | copyToHbm
  /-- The END record ends the record area and the loader enters CLEAR (R586). -/
  | recordEnd
  /-- Both compute dies are reset after a failed copy A, and copy B is staged (R588). -/
  | redoDone
  /-- CLEAR has zeroed the staged bytes, the held units start and event 0x9011 is raised (R588). -/
  | runRelease
  /-- A write of boot.ctl with rload and the key verifies and runs an image from the staging area, or is refused (R595). -/
  | recoveryLoad (path : Path) (key : Fin 65536)
  /-- A write of boot.ctl with reload and the key applies device reset and reloads (R603). -/
  | reload (path : Path) (key : Fin 65536)
  /-- A write of boot.svnup with the key raises the fused minimum svn, or is refused (R596). -/
  | svnRaise (path : Path) (key : Fin 65536)
  /-- A write of boot.kekctl with burn and the key fuses the key-encryption key, or is refused (R597). -/
  | kekBurn (path : Path) (key : Fin 65536)
  /-- boot.cfg.tmo seconds pass after run release without ready, and event 0x9014 is raised (R598). -/
  | readyTimeout
  /-- Update-DR of PKHPROG fuses the image-key hash when the key is correct, none is fused and SYS_RST_N is low (R673). -/
  | pkhprog (dr : BitVec 400) (low : Bool)
  /-- A host TLP to BAR2 reaches memory, or is discarded with event 0xC003 (R611). -/
  | bar2Access (off : Nat) (n : Nat) (data : Option (List Byte))
  /-- A host configuration request is answered with Request Retry Status until FUSE ends, then normally (R612). -/
  | configRequest (op : Fin 6)
  /-- The host link trains into L0 and event 0xC001 is raised (R612). -/
  | hostLinkL0 (gen : Fin 8) (width : Fin 17) (flit : Bool)
  /-- PCIE_PERST_N is asserted or the link drops to DETECT, resetting the link and configuration space (R613). -/
  | pciePerst
  /-- A Function Level Reset returns the host-port registers to reset and masks every vector (R613). -/
  | flr
  /-- Resizable BAR changes the BAR2 size, and a newly misaligned pcie.win base is cleared with event 0x9002 (R629). -/
  | resizableBarWrite (size : Fin 64)
  /-- A device-issued read gets no completion within 50 ms, and event 0xC004 is raised (R616). -/
  | deviceRequestTimeout (kind : Fin 4) (entry : Nat)
  /-- A vector's hold ends, and raises made during it are sent as one message (R617). -/
  | msixHoldExpire (v : Fin 256)
  /-- A masked vector with its PBA bit set is unmasked and its message is sent (R617). -/
  | msixUnmask (v : Fin 256) (addr : Nat) (data : Nat)
  /-- The management bus reads 32 bits at a physical address (R622). -/
  | mgmtRead32 (pa : Fin (2 ^ 56)) (err : Option (Fin 4 × Fin 256))
  /-- The management bus writes 32 bits at a physical address (R622). -/
  | mgmtWrite32 (pa : Fin (2 ^ 56)) (value : Nat) (err : Option (Fin 4 × Fin 256))
  /-- The management bus reads 64 bits at a physical address (R622). -/
  | mgmtRead64 (pa : Fin (2 ^ 56)) (err : Option (Fin 4 × Fin 256))
  /-- The management bus writes 64 bits at a physical address (R622). -/
  | mgmtWrite64 (pa : Fin (2 ^ 56)) (value : Nat) (err : Option (Fin 4 × Fin 256))
  /-- SETDASA or ENTDAA assigns a dynamic address and the target enters I3C mode (R621). -/
  | dynamicAddressAssign (addr : Fin 128) (ibi : Bool)
  /-- RSTDAA returns the target to SMBus-compatible mode (R621). -/
  | rstdaa
  /-- The IBI hold ends, and the first deferred entry is signalled in a new IBI (R623). -/
  | ibiHoldExpire
  /-- Every 1 ms the telemetry unit refreshes its sensor registers (R624). -/
  | sensorRefresh (rails : List (Nat × Nat))
  /-- Each period the telemetry unit reads its list of registers and writes one record into its ring (R625). -/
  | telemetryPeriod (running : Bool)
  /-- DBGACC command 1 reads 32 bits at a physical address (R626). -/
  | dbgRead32 (pa : Fin (2 ^ 52))
  /-- DBGACC command 2 writes 32 bits at a physical address (R626). -/
  | dbgWrite32 (pa : Fin (2 ^ 52)) (value : Nat)
  /-- DBGACC command 3 reads 64 bits at a physical address (R626). -/
  | dbgRead64 (pa : Fin (2 ^ 52))
  /-- DBGACC command 4 writes 64 bits at a physical address (R626). -/
  | dbgWrite64 (pa : Fin (2 ^ 52)) (value : Nat)
  /-- Writing 1 to dbg.ctl.dis closes DBGACC until device reset (R627). -/
  | dbgDisable (path : Path)
  /-- A write of dbg.tctl.go starts a trace capture of events or Dealer words (R628). -/
  | traceGo (path : Path) (value : Nat)
  /-- A write of dbg.tctl.stop ends the capture (R628). -/
  | traceStop (path : Path) (value : Nat)
  /-- Every 10 µs the power controller takes a package power sample and adjusts θ_cap and the filler duty (R650). -/
  | powerSample (est : Nat)
  /-- Every 1 ms the cap loop lowers or raises each region's ceiling step (R652). -/
  | capSlowStep
  /-- PWR_BRAKE_N held low for 1 µs sets θ_brake and stops the filler (R653). -/
  | brakeAssert
  /-- PWR_BRAKE_N is released and θ_brake returns to 0 (R653). -/
  | brakeRelease
  /-- A rail stays below its window for 2 µs, applying device reset with cause 2 (R648). -/
  | undervoltage (rail : Fin 16)
  /-- A write of pwr.rclk[r].req starts a voltage and clock change, or is held while busy (R659). -/
  | dvfsRequest (path : Path) (r : Fin 16) (req : Fin 64)
  /-- The region's PLL relocks at the new step and busy clears (R659). -/
  | dvfsDone (r : Fin 16)
  /-- A write of pwr.ctl changes the floor, ramp, coolant or avs settings, taking the rails to 0.800 V when avs goes to 0
  (R675). -/
  | pwrCtlWrite (path : Path) (value : Nat)
  /-- Every 1 ms, or on PMB_ALERT_N, the controller reads STATUS_WORD from both VDDC regulators (R660). -/
  | pmbusStatusPoll (st0 : Fin 65536) (st1 : Fin 65536)
  /-- An unacknowledged PMBus write is retried after 1 ms, and after 3 failures the old target is kept (R660). -/
  | pmbusWriteRetry (d : Fin 2) (ack : Bool)
  /-- Every 1 ms sensors are read and θ_therm and the warning are updated (R662). -/
  | thermalStep (temps : List Int)
  /-- A trip comparator fires, THERM_N is asserted and the device latches in its trip state (R663). -/
  | thermalTrip (sensor : Fin 256) (deg : Fin 256)
  /-- Every 100 ms inlet temperature and flow are read and checked against the coolant limits (R665). -/
  | coolantRead (t : Int) (pulses : Nat)
  /-- Once the reset cause has ended, every rail is in its window, the references have run for 1 ms and the PLLs have
  locked, reset release occurs and the loader begins at FUSE (R649). -/
  | resetRelease
  /-- ASY_VDD leaves its window or ASY_RST_N is asserted, Assay stops and its volatile state is lost, and a Ledger entry
  being written ends either complete or absent (R573). -/
  | assayPowerLoss (torn : Bool)
  /-- REF10M_IN, measured against the 25 MHz reference, lies outside ±10 ppm; it loses qualification and the time clock
  changes reference (R456). -/
  | ref10mOutOfRange
  /-- A host read TLP to BAR0 reaches CSR space or the repair window once earlier BAR2 writes are acknowledged, and an
  unoccupied or ill-formed access returns zero and raises event 0x9001 (R610). -/
  | bar0Read (off : Nat) (len : Nat)
deriving DecidableEq, Repr

end Sys2Proof
end

