-- ==== Sys2Proof/Decode.lean ====
section
/-! DEFINITION. The commands that a word of the opcode table spells: the table gives no row bits, so a word spells none. -/

namespace Sys2Proof

/-- The command that the low `nbits` bits of `w` spell: no row of `spec/opcode_table.json` gives bits, so there is none. -/
def decodeTableWord (_nbits _w : Nat) : Option Instr := none

end Sys2Proof
end

