-- ==== Sys2Proof/Config.lean ====
section
/-! DEFINITION. What the spec leaves open: opaque constants without a body. A statement about one holds for every value. -/

namespace Sys2Proof.Config

/-- A free value of a transcendental function of a vector stage where R105 bounds its error and fixes no bits: function code,
mode and operand. -/
opaque transcendental : Nat → Nat → Nat

/-- The 8 check bytes of an HBM chunk (R222): chunk address PA ÷ 64, which names the die and o[38:6], and the 64 data bytes.
The spec gives the code's strength and not its generator. -/
opaque rsCheck : Nat → List Byte → List Byte

/-- What decoding stored data and check bytes of a chunk gives (R222): the corrected data, or none when it is uncorrectable. -/
opaque rsDecode : Nat → List Byte → List Byte → Option (List Byte)

/-- The directory entry that a conflict evicts (R190 names no choice): set and number of candidates. -/
opaque directoryVictim : Nat → Nat → Nat

/-- Free numbers: the value drawn for number `n` of the model's counter of free values. -/
opaque freeNat : Nat → Nat

/-- The write data and expected read data of the traffic generators (R236): a function of seed, PC, chunk address and data
pattern that the spec does not write out, but for all zeros and all ones. -/
opaque tgenData : Nat → Nat → Nat → Nat → List Byte

/-- The random address of the traffic generators (R236): LFSR seed and access number. -/
opaque tgenRandom : Nat → Nat → Nat

/-- Where in a group of 8 accesses the reads of a traffic generator start (R236): seed, PC and group. -/
opaque tgenOrder : Nat → Nat → Nat → Nat

/-- The spare rows of a bank before any repair (R240): global stack, channel and PC, bank. -/
opaque spareRows : Nat → Nat → Nat → Nat

/-- The payload audit digest of a fragment (R350, R353): a function of the job's key and the payload whose formula the spec does
not state. -/
opaque payloadDigest : Nat → List Byte → Nat

/-- The rate correction that the discipline chooses for a phase error (R459 steers adj by e and gives no formula): the number of
the model's free value and the error in units of 0.25 ns. -/
opaque steer : Nat → Int → Int

/-- Assay's private signing key (R567): a number that no path gives. -/
opaque assayKey : Nat

end Sys2Proof.Config
end

