-- ==== Sys2Proof/Machine/Regs.lean ====
section
/-! DEFINITION. The registers of CSR space, of the repair window and of Assay: one constant per register and per field,
with the offsets, widths, access types, reset values and reserved encodings of the chapters' register tables (R2, R7, R10,
R22, R641). Where a table gives several registers at a regular spacing, one constant stands for the array. -/

namespace Sys2Proof.Machine

/-- Where a register lives (R14, R22, R641): a package register exists in the die 0 half alone, a mirrored one exists once
and reads the same in the die 1 half, a die register exists in both halves. -/
inductive RegKind where
  | die | pkg | mirror
deriving DecidableEq, Repr

/-- A register or a regular array of registers: unit slot code (R641; 0x20 is the repair window and 0x21 Assay's own
registers), offset, width in bits, number, spacing in bytes, reset value and place. -/
structure Reg where
  unit : Nat
  off : Nat
  w : Nat
  count : Nat
  stride : Nat
  reset : Nat
  kind : RegKind
deriving DecidableEq, Repr

/-- A field of a register: its lowest bit and its width. -/
structure Fld where
  reg : Reg
  lo : Nat
  n : Nat
deriving DecidableEq, Repr

/-- The access types of R7. -/
inductive Access where
  | rw | ro | wo | w1c | w1s | rc
deriving DecidableEq, Repr

/-- A field with its access type and the ranges of its reserved encodings (R7, R10). -/
structure FieldSpec where
  fld : Fld
  acc : Access
  bad : List (Nat × Nat)
deriving DecidableEq, Repr

/-- A register with its name, whether it is a 64-bit counter of R12, and its fields; bits of no field are reserved (R9). -/
structure RegSpec where
  name : String
  reg : Reg
  counter : Bool
  flds : List FieldSpec
deriving DecidableEq, Repr

/-! ## Unit `top`, slot 0x00 -/

/-- `top.id` (R2). -/
def R.top_id : Reg := ⟨0x0, 0x0, 32, 1, 0, 0x36A010, .die⟩
/-- Field `part` of `top.id` (R2). -/
def F.top_id_part : Fld := ⟨R.top_id, 16, 16⟩
/-- Field `rev` of `top.id` (R2). -/
def F.top_id_rev : Fld := ⟨R.top_id, 8, 8⟩
/-- Field `lid` of `top.id` (R2). -/
def F.top_id_lid : Fld := ⟨R.top_id, 4, 4⟩
/-- Field `die` of `top.id` (R2). -/
def F.top_id_die : Fld := ⟨R.top_id, 0, 1⟩

/-! ## Unit `boot`, slot 0x01 -/

/-- `boot.stat` (R604). -/
def R.boot_stat : Reg := ⟨0x1, 0x0, 32, 1, 0, 0x10000000, .pkg⟩
/-- Field `phase` of `boot.stat` (R604). -/
def F.boot_stat_phase : Fld := ⟨R.boot_stat, 28, 4⟩
/-- Field `copy` of `boot.stat` (R604). -/
def F.boot_stat_copy : Fld := ⟨R.boot_stat, 26, 2⟩
/-- Field `causea` of `boot.stat` (R604). -/
def F.boot_stat_causea : Fld := ⟨R.boot_stat, 20, 4⟩
/-- Field `causeb` of `boot.stat` (R604). -/
def F.boot_stat_causeb : Fld := ⟨R.boot_stat, 16, 4⟩
/-- Field `soft` of `boot.stat` (R604). -/
def F.boot_stat_soft : Fld := ⟨R.boot_stat, 8, 8⟩
/-- Field `ready` of `boot.stat` (R604). -/
def F.boot_stat_ready : Fld := ⟨R.boot_stat, 7, 1⟩
/-- Field `wan1` of `boot.stat` (R604). -/
def F.boot_stat_wan1 : Fld := ⟨R.boot_stat, 6, 1⟩
/-- Field `wan0` of `boot.stat` (R604). -/
def F.boot_stat_wan0 : Fld := ⟨R.boot_stat, 5, 1⟩
/-- Field `time` of `boot.stat` (R604). -/
def F.boot_stat_time : Fld := ⟨R.boot_stat, 4, 1⟩
/-- Field `tables` of `boot.stat` (R604). -/
def F.boot_stat_tables : Fld := ⟨R.boot_stat, 3, 1⟩
/-- Field `master` of `boot.stat` (R604). -/
def F.boot_stat_master : Fld := ⟨R.boot_stat, 2, 1⟩
/-- Field `linkup` of `boot.stat` (R604). -/
def F.boot_stat_linkup : Fld := ⟨R.boot_stat, 1, 1⟩
/-- Field `loaded` of `boot.stat` (R604). -/
def F.boot_stat_loaded : Fld := ⟨R.boot_stat, 0, 1⟩
/-- `boot.devid` (R604). -/
def R.boot_devid : Reg := ⟨0x1, 0x4, 32, 1, 0, 0x0, .pkg⟩
/-- Field `site` of `boot.devid` (R604). -/
def F.boot_devid_site : Fld := ⟨R.boot_devid, 14, 6⟩
/-- Field `local` of `boot.devid` (R604). -/
def F.boot_devid_local : Fld := ⟨R.boot_devid, 0, 14⟩
/-- `boot.cfg` (R604). -/
def R.boot_cfg : Reg := ⟨0x1, 0x8, 32, 1, 0, 0x0, .pkg⟩
/-- Field `tmo` of `boot.cfg` (R604). -/
def F.boot_cfg_tmo : Fld := ⟨R.boot_cfg, 8, 8⟩
/-- Field `ptsync` of `boot.cfg` (R604). -/
def F.boot_cfg_ptsync : Fld := ⟨R.boot_cfg, 0, 1⟩
/-- `boot.img` (R605). -/
def R.boot_img : Reg := ⟨0x1, 0x10, 64, 1, 0, 0x0, .pkg⟩
/-- Field `build` of `boot.img` (R605). -/
def F.boot_img_build : Fld := ⟨R.boot_img, 0, 64⟩
/-- `boot.svn` (R605). -/
def R.boot_svn : Reg := ⟨0x1, 0x18, 64, 1, 0, 0x0, .pkg⟩
/-- Field `img` of `boot.svn` (R605). -/
def F.boot_svn_img : Fld := ⟨R.boot_svn, 32, 32⟩
/-- Field `min` of `boot.svn` (R605). -/
def F.boot_svn_min : Fld := ⟨R.boot_svn, 0, 32⟩
/-- `boot.svnup` (R605). -/
def R.boot_svnup : Reg := ⟨0x1, 0x20, 32, 1, 0, 0x0, .pkg⟩
/-- Field `key` of `boot.svnup` (R605). -/
def F.boot_svnup_key : Fld := ⟨R.boot_svnup, 16, 16⟩
/-- `boot.ff` (R605). -/
def R.boot_ff : Reg := ⟨0x1, 0x28, 64, 1, 0, 0x0, .pkg⟩
/-- Field `valid` of `boot.ff` (R605). -/
def F.boot_ff_valid : Fld := ⟨R.boot_ff, 63, 1⟩
/-- Field `copy` of `boot.ff` (R605). -/
def F.boot_ff_copy : Fld := ⟨R.boot_ff, 56, 2⟩
/-- Field `cause` of `boot.ff` (R605). -/
def F.boot_ff_cause : Fld := ⟨R.boot_ff, 52, 4⟩
/-- Field `roff` of `boot.ff` (R605). -/
def F.boot_ff_roff : Fld := ⟨R.boot_ff, 0, 32⟩
/-- `boot.ctl` (R606). -/
def R.boot_ctl : Reg := ⟨0x1, 0x30, 32, 1, 0, 0x0, .pkg⟩
/-- Field `key` of `boot.ctl` (R606). -/
def F.boot_ctl_key : Fld := ⟨R.boot_ctl, 16, 16⟩
/-- Field `rload` of `boot.ctl` (R606). -/
def F.boot_ctl_rload : Fld := ⟨R.boot_ctl, 1, 1⟩
/-- Field `reload` of `boot.ctl` (R606). -/
def F.boot_ctl_reload : Fld := ⟨R.boot_ctl, 0, 1⟩
/-- `boot.nor` (R606). -/
def R.boot_nor : Reg := ⟨0x1, 0x34, 32, 1, 0, 0x0, .pkg⟩
/-- Field `size` of `boot.nor` (R606). -/
def F.boot_nor_size : Fld := ⟨R.boot_nor, 16, 16⟩
/-- Field `clk` of `boot.nor` (R606). -/
def F.boot_nor_clk : Fld := ⟨R.boot_nor, 8, 8⟩
/-- Field `mode` of `boot.nor` (R606). -/
def F.boot_nor_mode : Fld := ⟨R.boot_nor, 0, 4⟩
/-- `boot.tload` (R606). -/
def R.boot_tload : Reg := ⟨0x1, 0x38, 32, 1, 0, 0x0, .pkg⟩
/-- Field `us` of `boot.tload` (R606). -/
def F.boot_tload_us : Fld := ⟨R.boot_tload, 0, 32⟩
/-- `boot.fuse` (R606). -/
def R.boot_fuse : Reg := ⟨0x1, 0x3C, 32, 1, 0, 0x0, .pkg⟩
/-- Field `pkh` of `boot.fuse` (R606). -/
def F.boot_fuse_pkh : Fld := ⟨R.boot_fuse, 31, 1⟩
/-- Field `kek` of `boot.fuse` (R606). -/
def F.boot_fuse_kek : Fld := ⟨R.boot_fuse, 29, 2⟩
/-- Field `raises` of `boot.fuse` (R606). -/
def F.boot_fuse_raises : Fld := ⟨R.boot_fuse, 0, 7⟩
/-- `boot.pkh` (R607). -/
def R.boot_pkh : Reg := ⟨0x1, 0x40, 64, 6, 8, 0x0, .pkg⟩
/-- Field `hash` of `boot.pkh` (R607). -/
def F.boot_pkh_hash : Fld := ⟨R.boot_pkh, 0, 64⟩
/-- `boot.kek` (R607). -/
def R.boot_kek : Reg := ⟨0x1, 0x80, 64, 4, 8, 0x0, .pkg⟩
/-- Field `key` of `boot.kek` (R607). -/
def F.boot_kek_key : Fld := ⟨R.boot_kek, 0, 64⟩
/-- `boot.kekctl` (R607). -/
def R.boot_kekctl : Reg := ⟨0x1, 0xA0, 32, 1, 0, 0x0, .pkg⟩
/-- Field `key` of `boot.kekctl` (R607). -/
def F.boot_kekctl_key : Fld := ⟨R.boot_kekctl, 16, 16⟩
/-- Field `burn` of `boot.kekctl` (R607). -/
def F.boot_kekctl_burn : Fld := ⟨R.boot_kekctl, 0, 1⟩
/-- `boot.kcv` (R607). -/
def R.boot_kcv : Reg := ⟨0x1, 0xA4, 32, 1, 0, 0x0, .pkg⟩
/-- Field `kcv` of `boot.kcv` (R607). -/
def F.boot_kcv_kcv : Fld := ⟨R.boot_kcv, 0, 32⟩

/-! ## Unit `ctx`, slot 0x02 -/

/-- `ctx.base` (R277). -/
def R.ctx_base : Reg := ⟨0x2, 0x0, 64, 1, 0, 0x0, .pkg⟩
/-- Field `base` of `ctx.base` (R277). -/
def F.ctx_base_base : Fld := ⟨R.ctx_base, 20, 32⟩
/-- `ctx.ctl` (R278). -/
def R.ctx_ctl : Reg := ⟨0x2, 0x8, 32, 1, 0, 0x0, .pkg⟩
/-- Field `drop` of `ctx.ctl` (R278). -/
def F.ctx_ctl_drop : Fld := ⟨R.ctx_ctl, 1, 1⟩
/-- Field `en` of `ctx.ctl` (R278). -/
def F.ctx_ctl_en : Fld := ⟨R.ctx_ctl, 0, 1⟩
/-- `ctx.qper` (R278). -/
def R.ctx_qper : Reg := ⟨0x2, 0xC, 32, 1, 0, 0x3E8, .pkg⟩
/-- Field `ms` of `ctx.qper` (R278). -/
def F.ctx_qper_ms : Fld := ⟨R.ctx_qper, 0, 16⟩
/-- `ctx.stat` (R278). -/
def R.ctx_stat : Reg := ⟨0x2, 0x10, 32, 1, 0, 0x0, .pkg⟩
/-- Field `busy1` of `ctx.stat` (R278). -/
def F.ctx_stat_busy1 : Fld := ⟨R.ctx_stat, 24, 8⟩
/-- Field `cached1` of `ctx.stat` (R278). -/
def F.ctx_stat_cached1 : Fld := ⟨R.ctx_stat, 16, 8⟩
/-- Field `busy0` of `ctx.stat` (R278). -/
def F.ctx_stat_busy0 : Fld := ⟨R.ctx_stat, 8, 8⟩
/-- Field `cached0` of `ctx.stat` (R278). -/
def F.ctx_stat_cached0 : Fld := ⟨R.ctx_stat, 0, 8⟩
/-- `ctx.refresh` (R278). -/
def R.ctx_refresh : Reg := ⟨0x2, 0x14, 32, 1, 0, 0x0, .pkg⟩
/-- Field `context` of `ctx.refresh` (R278). -/
def F.ctx_refresh_context : Fld := ⟨R.ctx_refresh, 0, 12⟩
/-- `ctx.bad_first` (R279). -/
def R.ctx_bad_first : Reg := ⟨0x2, 0x18, 64, 1, 0, 0x0, .pkg⟩
/-- Field `valid` of `ctx.bad_first` (R279). -/
def F.ctx_bad_first_valid : Fld := ⟨R.ctx_bad_first, 63, 1⟩
/-- Field `reason` of `ctx.bad_first` (R279). -/
def F.ctx_bad_first_reason : Fld := ⟨R.ctx_bad_first, 48, 4⟩
/-- Field `die` of `ctx.bad_first` (R279). -/
def F.ctx_bad_first_die : Fld := ⟨R.ctx_bad_first, 16, 1⟩
/-- Field `context` of `ctx.bad_first` (R279). -/
def F.ctx_bad_first_context : Fld := ⟨R.ctx_bad_first, 0, 12⟩
/-- `ctx.csel` (R280). -/
def R.ctx_csel : Reg := ⟨0x2, 0x20, 32, 1, 0, 0x0, .pkg⟩
/-- Field `die` of `ctx.csel` (R280). -/
def F.ctx_csel_die : Fld := ⟨R.ctx_csel, 7, 1⟩
/-- Field `entry` of `ctx.csel` (R280). -/
def F.ctx_csel_entry : Fld := ⟨R.ctx_csel, 0, 7⟩
/-- `ctx.cdata` (R280). -/
def R.ctx_cdata : Reg := ⟨0x2, 0x28, 64, 1, 0, 0x0, .pkg⟩
/-- Field `valid` of `ctx.cdata` (R280). -/
def F.ctx_cdata_valid : Fld := ⟨R.ctx_cdata, 63, 1⟩
/-- Field `busy` of `ctx.cdata` (R280). -/
def F.ctx_cdata_busy : Fld := ⟨R.ctx_cdata, 62, 1⟩
/-- Field `pend` of `ctx.cdata` (R280). -/
def F.ctx_cdata_pend : Fld := ⟨R.ctx_cdata, 61, 1⟩
/-- Field `used` of `ctx.cdata` (R280). -/
def F.ctx_cdata_used : Fld := ⟨R.ctx_cdata, 12, 32⟩
/-- Field `context` of `ctx.cdata` (R280). -/
def F.ctx_cdata_context : Fld := ⟨R.ctx_cdata, 0, 12⟩
/-- `ctx.fillq` (R280). -/
def R.ctx_fillq : Reg := ⟨0x2, 0x38, 32, 1, 0, 0x0, .pkg⟩
/-- Field `len1` of `ctx.fillq` (R280). -/
def F.ctx_fillq_len1 : Fld := ⟨R.ctx_fillq, 16, 13⟩
/-- Field `len0` of `ctx.fillq` (R280). -/
def F.ctx_fillq_len0 : Fld := ⟨R.ctx_fillq, 0, 13⟩
/-- `ctx.tally_ovf` (R281). -/
def R.ctx_tally_ovf : Reg := ⟨0x2, 0x30, 32, 1, 0, 0x0, .pkg⟩
/-- Field `ovf` of `ctx.tally_ovf` (R281). -/
def F.ctx_tally_ovf_ovf : Fld := ⟨R.ctx_tally_ovf, 0, 8⟩
/-- `ctx.t_fill` (R281). -/
def R.ctx_t_fill : Reg := ⟨0x2, 0x100, 64, 2, 32, 0x0, .pkg⟩
/-- Field `count` of `ctx.t_fill` (R281). -/
def F.ctx_t_fill_count : Fld := ⟨R.ctx_t_fill, 0, 64⟩
/-- `ctx.t_evict` (R281). -/
def R.ctx_t_evict : Reg := ⟨0x2, 0x108, 64, 2, 32, 0x0, .pkg⟩
/-- Field `count` of `ctx.t_evict` (R281). -/
def F.ctx_t_evict_count : Fld := ⟨R.ctx_t_evict, 0, 64⟩
/-- `ctx.t_wait` (R281). -/
def R.ctx_t_wait : Reg := ⟨0x2, 0x110, 64, 2, 32, 0x0, .pkg⟩
/-- Field `count` of `ctx.t_wait` (R281). -/
def F.ctx_t_wait_count : Fld := ⟨R.ctx_t_wait, 0, 64⟩
/-- `ctx.t_qstall` (R281). -/
def R.ctx_t_qstall : Reg := ⟨0x2, 0x118, 64, 2, 32, 0x0, .pkg⟩
/-- Field `count` of `ctx.t_qstall` (R281). -/
def F.ctx_t_qstall_count : Fld := ⟨R.ctx_t_qstall, 0, 64⟩

/-! ## Unit `mmu`, slot 0x03 -/

/-- `mmu.inv` (R282). -/
def R.mmu_inv : Reg := ⟨0x3, 0x0, 64, 1, 0, 0x0, .die⟩
/-- Field `go` of `mmu.inv` (R282). -/
def F.mmu_inv_go : Fld := ⟨R.mmu_inv, 63, 1⟩
/-- Field `busy` of `mmu.inv` (R282). -/
def F.mmu_inv_busy : Fld := ⟨R.mmu_inv, 62, 1⟩
/-- Field `scope` of `mmu.inv` (R282). -/
def F.mmu_inv_scope : Fld := ⟨R.mmu_inv, 60, 2⟩
/-- Field `context` of `mmu.inv` (R282). -/
def F.mmu_inv_context : Fld := ⟨R.mmu_inv, 48, 12⟩
/-- Field `va` of `mmu.inv` (R282). -/
def F.mmu_inv_va : Fld := ⟨R.mmu_inv, 21, 27⟩
/-- `mmu.inv_len` (R282). -/
def R.mmu_inv_len : Reg := ⟨0x3, 0x8, 32, 1, 0, 0x0, .die⟩
/-- Field `pages` of `mmu.inv_len` (R282). -/
def F.mmu_inv_len_pages : Fld := ⟨R.mmu_inv_len, 0, 27⟩
/-- `mmu.ff` (R283). -/
def R.mmu_ff : Reg := ⟨0x3, 0x10, 64, 1, 0, 0x0, .die⟩
/-- Field `valid` of `mmu.ff` (R283). -/
def F.mmu_ff_valid : Fld := ⟨R.mmu_ff, 63, 1⟩
/-- Field `code` of `mmu.ff` (R283). -/
def F.mmu_ff_code : Fld := ⟨R.mmu_ff, 32, 16⟩
/-- Field `context` of `mmu.ff` (R283). -/
def F.mmu_ff_context : Fld := ⟨R.mmu_ff, 0, 12⟩
/-- `mmu.ff_det` (R283). -/
def R.mmu_ff_det : Reg := ⟨0x3, 0x18, 64, 1, 0, 0x0, .die⟩
/-- Field `detail` of `mmu.ff_det` (R283). -/
def F.mmu_ff_det_detail : Fld := ⟨R.mmu_ff_det, 0, 64⟩
/-- `mmu.fcnt` (R283). -/
def R.mmu_fcnt : Reg := ⟨0x3, 0x20, 32, 1, 0, 0x0, .die⟩
/-- Field `count` of `mmu.fcnt` (R283). -/
def F.mmu_fcnt_count : Fld := ⟨R.mmu_fcnt, 0, 32⟩
/-- `mmu.tally_ovf` (R283). -/
def R.mmu_tally_ovf : Reg := ⟨0x3, 0x28, 32, 1, 0, 0x0, .die⟩
/-- Field `ovf` of `mmu.tally_ovf` (R283). -/
def F.mmu_tally_ovf_ovf : Fld := ⟨R.mmu_tally_ovf, 0, 4⟩
/-- `mmu.t_dhit` (R284). -/
def R.mmu_t_dhit : Reg := ⟨0x3, 0x100, 64, 1, 0, 0x0, .die⟩
/-- Field `count` of `mmu.t_dhit` (R284). -/
def F.mmu_t_dhit_count : Fld := ⟨R.mmu_t_dhit, 0, 64⟩
/-- `mmu.t_dmiss` (R284). -/
def R.mmu_t_dmiss : Reg := ⟨0x3, 0x108, 64, 1, 0, 0x0, .die⟩
/-- Field `count` of `mmu.t_dmiss` (R284). -/
def F.mmu_t_dmiss_count : Fld := ⟨R.mmu_t_dmiss, 0, 64⟩
/-- `mmu.t_walk` (R284). -/
def R.mmu_t_walk : Reg := ⟨0x3, 0x110, 64, 1, 0, 0x0, .die⟩
/-- Field `count` of `mmu.t_walk` (R284). -/
def F.mmu_t_walk_count : Fld := ⟨R.mmu_t_walk, 0, 64⟩
/-- `mmu.t_inv` (R284). -/
def R.mmu_t_inv : Reg := ⟨0x3, 0x118, 64, 1, 0, 0x0, .die⟩
/-- Field `count` of `mmu.t_inv` (R284). -/
def F.mmu_t_inv_count : Fld := ⟨R.mmu_t_inv, 0, 64⟩

/-! ## Unit `dlr`, slot 0x04 -/

/-- `dlr.ctl` (R166). -/
def R.dlr_ctl : Reg := ⟨0x4, 0x0, 32, 1, 0, 0x0, .die⟩
/-- Field `en` of `dlr.ctl` (R166). -/
def F.dlr_ctl_en : Fld := ⟨R.dlr_ctl, 0, 8⟩
/-- `dlr.db` (R167). -/
def R.dlr_db : Reg := ⟨0x4, 0x8, 32, 1, 0, 0x0, .die⟩
/-- Field `rs` of `dlr.db` (R167). -/
def F.dlr_db_rs : Fld := ⟨R.dlr_db, 31, 1⟩
/-- Field `region` of `dlr.db` (R167). -/
def F.dlr_db_region : Fld := ⟨R.dlr_db, 28, 3⟩
/-- Field `context` of `dlr.db` (R167). -/
def F.dlr_db_context : Fld := ⟨R.dlr_db, 16, 12⟩
/-- Field `tail` of `dlr.db` (R167). -/
def F.dlr_db_tail : Fld := ⟨R.dlr_db, 0, 16⟩
/-- `dlr.wd` (R168). -/
def R.dlr_wd : Reg := ⟨0x4, 0x10, 32, 1, 0, 0x1000000, .die⟩
/-- Field `lim` of `dlr.wd` (R168). -/
def F.dlr_wd_lim : Fld := ⟨R.dlr_wd, 0, 32⟩
/-- `dlr.kill` (R168). -/
def R.dlr_kill : Reg := ⟨0x4, 0x14, 32, 1, 0, 0x0, .die⟩
/-- Field `region` of `dlr.kill` (R168). -/
def F.dlr_kill_region : Fld := ⟨R.dlr_kill, 2, 3⟩
/-- Field `slot` of `dlr.kill` (R168). -/
def F.dlr_kill_slot : Fld := ⟨R.dlr_kill, 0, 2⟩
/-- `dlr.fault` (R169). -/
def R.dlr_fault : Reg := ⟨0x4, 0x18, 32, 1, 0, 0x0, .die⟩
/-- Field `hit` of `dlr.fault` (R169). -/
def F.dlr_fault_hit : Fld := ⟨R.dlr_fault, 0, 8⟩
/-- `dlr.pbinv` (R170). -/
def R.dlr_pbinv : Reg := ⟨0x4, 0x1C, 32, 1, 0, 0x0, .die⟩
/-- Field `go` of `dlr.pbinv` (R170). -/
def F.dlr_pbinv_go : Fld := ⟨R.dlr_pbinv, 31, 1⟩
/-- Field `all` of `dlr.pbinv` (R170). -/
def F.dlr_pbinv_all : Fld := ⟨R.dlr_pbinv, 30, 1⟩
/-- Field `context` of `dlr.pbinv` (R170). -/
def F.dlr_pbinv_context : Fld := ⟨R.dlr_pbinv, 8, 12⟩
/-- Field `mask` of `dlr.pbinv` (R170). -/
def F.dlr_pbinv_mask : Fld := ⟨R.dlr_pbinv, 0, 8⟩
/-- `dlr.ff_id` (R171). -/
def R.dlr_ff_id : Reg := ⟨0x4, 0x20, 64, 1, 0, 0x0, .die⟩
/-- Field `valid` of `dlr.ff_id` (R171). -/
def F.dlr_ff_id_valid : Fld := ⟨R.dlr_ff_id, 63, 1⟩
/-- Field `region` of `dlr.ff_id` (R171). -/
def F.dlr_ff_id_region : Fld := ⟨R.dlr_ff_id, 32, 3⟩
/-- Field `slot` of `dlr.ff_id` (R171). -/
def F.dlr_ff_id_slot : Fld := ⟨R.dlr_ff_id, 30, 2⟩
/-- Field `context` of `dlr.ff_id` (R171). -/
def F.dlr_ff_id_context : Fld := ⟨R.dlr_ff_id, 16, 12⟩
/-- Field `code` of `dlr.ff_id` (R171). -/
def F.dlr_ff_id_code : Fld := ⟨R.dlr_ff_id, 0, 16⟩
/-- `dlr.ff_pc` (R171). -/
def R.dlr_ff_pc : Reg := ⟨0x4, 0x28, 64, 1, 0, 0x0, .die⟩
/-- Field `va` of `dlr.ff_pc` (R171). -/
def F.dlr_ff_pc_va : Fld := ⟨R.dlr_ff_pc, 0, 48⟩
/-- `dlr.ff_det` (R171). -/
def R.dlr_ff_det : Reg := ⟨0x4, 0x30, 64, 1, 0, 0x0, .die⟩
/-- Field `detail` of `dlr.ff_det` (R171). -/
def F.dlr_ff_det_detail : Fld := ⟨R.dlr_ff_det, 0, 64⟩
/-- `dlr.tally_ovf` (R172). -/
def R.dlr_tally_ovf : Reg := ⟨0x4, 0x38, 32, 1, 0, 0x0, .die⟩
/-- Field `ovf` of `dlr.tally_ovf` (R172). -/
def F.dlr_tally_ovf_ovf : Fld := ⟨R.dlr_tally_ovf, 0, 8⟩
/-- `dlr.dsel` (R173). -/
def R.dlr_dsel : Reg := ⟨0x4, 0x40, 32, 1, 0, 0x0, .die⟩
/-- Field `region` of `dlr.dsel` (R173). -/
def F.dlr_dsel_region : Fld := ⟨R.dlr_dsel, 10, 3⟩
/-- Field `slot` of `dlr.dsel` (R173). -/
def F.dlr_dsel_slot : Fld := ⟨R.dlr_dsel, 8, 2⟩
/-- Field `kind` of `dlr.dsel` (R173). -/
def F.dlr_dsel_kind : Fld := ⟨R.dlr_dsel, 7, 1⟩
/-- Field `index` of `dlr.dsel` (R173). -/
def F.dlr_dsel_index : Fld := ⟨R.dlr_dsel, 0, 6⟩
/-- `dlr.ddata` (R173). -/
def R.dlr_ddata : Reg := ⟨0x4, 0x48, 64, 1, 0, 0x0, .die⟩
/-- Field `data` of `dlr.ddata` (R173). -/
def F.dlr_ddata_data : Fld := ⟨R.dlr_ddata, 0, 64⟩
/-- `dlr.t_word` (R175). -/
def R.dlr_t_word : Reg := ⟨0x4, 0x1000, 64, 8, 64, 0x0, .die⟩
/-- Field `count` of `dlr.t_word` (R175). -/
def F.dlr_t_word_count : Fld := ⟨R.dlr_t_word, 0, 64⟩
/-- `dlr.t_hand` (R175). -/
def R.dlr_t_hand : Reg := ⟨0x4, 0x1008, 64, 8, 64, 0x0, .die⟩
/-- Field `count` of `dlr.t_hand` (R175). -/
def F.dlr_t_hand_count : Fld := ⟨R.dlr_t_hand, 0, 64⟩
/-- `dlr.t_skip` (R175). -/
def R.dlr_t_skip : Reg := ⟨0x4, 0x1010, 64, 8, 64, 0x0, .die⟩
/-- Field `count` of `dlr.t_skip` (R175). -/
def F.dlr_t_skip_count : Fld := ⟨R.dlr_t_skip, 0, 64⟩
/-- `dlr.t_stall` (R175). -/
def R.dlr_t_stall : Reg := ⟨0x4, 0x1018, 64, 8, 64, 0x0, .die⟩
/-- Field `count` of `dlr.t_stall` (R175). -/
def F.dlr_t_stall_count : Fld := ⟨R.dlr_t_stall, 0, 64⟩
/-- `dlr.t_item` (R175). -/
def R.dlr_t_item : Reg := ⟨0x4, 0x1020, 64, 8, 64, 0x0, .die⟩
/-- Field `count` of `dlr.t_item` (R175). -/
def F.dlr_t_item_count : Fld := ⟨R.dlr_t_item, 0, 64⟩
/-- `dlr.t_sync` (R175). -/
def R.dlr_t_sync : Reg := ⟨0x4, 0x1028, 64, 8, 64, 0x0, .die⟩
/-- Field `count` of `dlr.t_sync` (R175). -/
def F.dlr_t_sync_count : Fld := ⟨R.dlr_t_sync, 0, 64⟩
/-- `dlr.t_rsv` (R175). -/
def R.dlr_t_rsv : Reg := ⟨0x4, 0x1030, 64, 8, 64, 0x0, .die⟩
/-- Field `count` of `dlr.t_rsv` (R175). -/
def F.dlr_t_rsv_count : Fld := ⟨R.dlr_t_rsv, 0, 64⟩
/-- `dlr.t_rsv2` (R175). -/
def R.dlr_t_rsv2 : Reg := ⟨0x4, 0x1038, 64, 8, 64, 0x0, .die⟩
/-- Field `count` of `dlr.t_rsv2` (R175). -/
def F.dlr_t_rsv2_count : Fld := ⟨R.dlr_t_rsv2, 0, 64⟩
/-- `dlr.slot` (R174). -/
def R.dlr_slot : Reg := ⟨0x4, 0x800, 64, 32, 32, 0x0, .die⟩
/-- Field `context` of `dlr.slot` (R174). -/
def F.dlr_slot_context : Fld := ⟨R.dlr_slot, 20, 12⟩
/-- Field `depth` of `dlr.slot` (R174). -/
def F.dlr_slot_depth : Fld := ⟨R.dlr_slot, 17, 3⟩
/-- Field `wait` of `dlr.slot` (R174). -/
def F.dlr_slot_wait : Fld := ⟨R.dlr_slot, 4, 4⟩
/-- Field `state` of `dlr.slot` (R174). -/
def F.dlr_slot_state : Fld := ⟨R.dlr_slot, 0, 2⟩
/-- `dlr.slot_pc` (R174). -/
def R.dlr_slot_pc : Reg := ⟨0x4, 0x808, 64, 32, 32, 0x0, .die⟩
/-- Field `pc` of `dlr.slot_pc` (R174). -/
def F.dlr_slot_pc_pc : Fld := ⟨R.dlr_slot_pc, 0, 48⟩
/-- `dlr.slot_item` (R174). -/
def R.dlr_slot_item : Reg := ⟨0x4, 0x810, 64, 32, 32, 0x0, .die⟩
/-- Field `item` of `dlr.slot_item` (R174). -/
def F.dlr_slot_item_item : Fld := ⟨R.dlr_slot_item, 0, 64⟩
/-- `dlr.slot_entry` (R174). -/
def R.dlr_slot_entry : Reg := ⟨0x4, 0x818, 64, 32, 32, 0x0, .die⟩
/-- Field `entry` of `dlr.slot_entry` (R174). -/
def F.dlr_slot_entry_entry : Fld := ⟨R.dlr_slot_entry, 0, 12⟩

/-! ## Unit `mxe`, slot 0x05 -/

/-- `mxe.ctl` (R84). -/
def R.mxe_ctl : Reg := ⟨0x5, 0x0, 32, 1, 0, 0x0, .die⟩
/-- Field `bubble` of `mxe.ctl` (R84). -/
def F.mxe_ctl_bubble : Fld := ⟨R.mxe_ctl, 0, 8⟩
/-- `mxe.mode` (R85). -/
def R.mxe_mode : Reg := ⟨0x5, 0x4, 32, 1, 0, 0x0, .die⟩
/-- Field `strict` of `mxe.mode` (R85). -/
def F.mxe_mode_strict : Fld := ⟨R.mxe_mode, 8, 1⟩
/-- Field `bubble_eff` of `mxe.mode` (R85). -/
def F.mxe_mode_bubble_eff : Fld := ⟨R.mxe_mode, 0, 8⟩
/-- `mxe.freeze_lim` (R86). -/
def R.mxe_freeze_lim : Reg := ⟨0x5, 0x8, 32, 1, 0, 0x10000, .die⟩
/-- Field `lim` of `mxe.freeze_lim` (R86). -/
def F.mxe_freeze_lim_lim : Fld := ⟨R.mxe_freeze_lim, 0, 32⟩
/-- `mxe.cl_svc` (R87). -/
def R.mxe_cl_svc : Reg := ⟨0x5, 0x10, 64, 1, 0, 0x0, .die⟩
/-- Field `off` of `mxe.cl_svc` (R87). -/
def F.mxe_cl_svc_off : Fld := ⟨R.mxe_cl_svc, 0, 64⟩
/-- `mxe.poison` (R88). -/
def R.mxe_poison : Reg := ⟨0x5, 0x18, 64, 1, 0, 0x0, .die⟩
/-- Field `hit` of `mxe.poison` (R88). -/
def F.mxe_poison_hit : Fld := ⟨R.mxe_poison, 0, 64⟩
/-- `mxe.poison_first` (R89). -/
def R.mxe_poison_first : Reg := ⟨0x5, 0x20, 64, 1, 0, 0x0, .die⟩
/-- Field `valid` of `mxe.poison_first` (R89). -/
def F.mxe_poison_first_valid : Fld := ⟨R.mxe_poison_first, 63, 1⟩
/-- Field `idle` of `mxe.poison_first` (R89). -/
def F.mxe_poison_first_idle : Fld := ⟨R.mxe_poison_first, 62, 1⟩
/-- Field `offset` of `mxe.poison_first` (R89). -/
def F.mxe_poison_first_offset : Fld := ⟨R.mxe_poison_first, 32, 22⟩
/-- Field `engine` of `mxe.poison_first` (R89). -/
def F.mxe_poison_first_engine : Fld := ⟨R.mxe_poison_first, 30, 2⟩
/-- Field `context` of `mxe.poison_first` (R89). -/
def F.mxe_poison_first_context : Fld := ⟨R.mxe_poison_first, 16, 12⟩
/-- Field `cause` of `mxe.poison_first` (R89). -/
def F.mxe_poison_first_cause : Fld := ⟨R.mxe_poison_first, 8, 4⟩
/-- Field `cluster` of `mxe.poison_first` (R89). -/
def F.mxe_poison_first_cluster : Fld := ⟨R.mxe_poison_first, 0, 6⟩
/-- `mxe.masked_err` (R90). -/
def R.mxe_masked_err : Reg := ⟨0x5, 0x28, 32, 1, 0, 0x0, .die⟩
/-- Field `count` of `mxe.masked_err` (R90). -/
def F.mxe_masked_err_count : Fld := ⟨R.mxe_masked_err, 0, 32⟩
/-- `mxe.tally_ovf` (R91). -/
def R.mxe_tally_ovf : Reg := ⟨0x5, 0x30, 64, 1, 0, 0x0, .die⟩
/-- Field `ovf` of `mxe.tally_ovf` (R91). -/
def F.mxe_tally_ovf_ovf : Fld := ⟨R.mxe_tally_ovf, 0, 64⟩
/-- `mxe.bq_ctl` (R92). -/
def R.mxe_bq_ctl : Reg := ⟨0x5, 0x100, 32, 64, 4, 0x400, .die⟩
/-- Field `en` of `mxe.bq_ctl` (R92). -/
def F.mxe_bq_ctl_en : Fld := ⟨R.mxe_bq_ctl, 16, 1⟩
/-- Field `wait` of `mxe.bq_ctl` (R92). -/
def F.mxe_bq_ctl_wait : Fld := ⟨R.mxe_bq_ctl, 0, 16⟩
/-- `mxe.t_busy` (R93). -/
def R.mxe_t_busy : Reg := ⟨0x5, 0x1000, 64, 256, 32, 0x0, .die⟩
/-- Field `count` of `mxe.t_busy` (R93). -/
def F.mxe_t_busy_count : Fld := ⟨R.mxe_t_busy, 0, 64⟩
/-- `mxe.t_frz` (R93). -/
def R.mxe_t_frz : Reg := ⟨0x5, 0x1008, 64, 256, 32, 0x0, .die⟩
/-- Field `count` of `mxe.t_frz` (R93). -/
def F.mxe_t_frz_count : Fld := ⟨R.mxe_t_frz, 0, 64⟩
/-- `mxe.t_bub` (R93). -/
def R.mxe_t_bub : Reg := ⟨0x5, 0x1010, 64, 256, 32, 0x0, .die⟩
/-- Field `count` of `mxe.t_bub` (R93). -/
def F.mxe_t_bub_count : Fld := ⟨R.mxe_t_bub, 0, 64⟩
/-- `mxe.t_mma` (R93). -/
def R.mxe_t_mma : Reg := ⟨0x5, 0x1018, 64, 256, 32, 0x0, .die⟩
/-- Field `count` of `mxe.t_mma` (R93). -/
def F.mxe_t_mma_count : Fld := ⟨R.mxe_t_mma, 0, 64⟩
/-- `mxe.t_bat` (R94). -/
def R.mxe_t_bat : Reg := ⟨0x5, 0x3000, 64, 64, 16, 0x0, .die⟩
/-- Field `count` of `mxe.t_bat` (R94). -/
def F.mxe_t_bat_count : Fld := ⟨R.mxe_t_bat, 0, 64⟩
/-- `mxe.t_row` (R94). -/
def R.mxe_t_row : Reg := ⟨0x5, 0x3008, 64, 64, 16, 0x0, .die⟩
/-- Field `count` of `mxe.t_row` (R94). -/
def F.mxe_t_row_count : Fld := ⟨R.mxe_t_row, 0, 64⟩

/-! ## Unit `vxe`, slot 0x06 -/

/-- `vxe.ctl` (R118). -/
def R.vxe_ctl : Reg := ⟨0x6, 0x0, 32, 64, 4, 0x0, .die⟩
/-- Field `res` of `vxe.ctl` (R118). -/
def F.vxe_ctl_res : Fld := ⟨R.vxe_ctl, 0, 3⟩
/-- `vxe.masked_err` (R119). -/
def R.vxe_masked_err : Reg := ⟨0x6, 0x100, 32, 1, 0, 0x0, .die⟩
/-- Field `count` of `vxe.masked_err` (R119). -/
def F.vxe_masked_err_count : Fld := ⟨R.vxe_masked_err, 0, 32⟩
/-- `vxe.poison` (R120). -/
def R.vxe_poison : Reg := ⟨0x6, 0x108, 64, 1, 0, 0x0, .die⟩
/-- Field `hit` of `vxe.poison` (R120). -/
def F.vxe_poison_hit : Fld := ⟨R.vxe_poison, 0, 64⟩
/-- `vxe.poison_first` (R121). -/
def R.vxe_poison_first : Reg := ⟨0x6, 0x110, 64, 1, 0, 0x0, .die⟩
/-- Field `valid` of `vxe.poison_first` (R121). -/
def F.vxe_poison_first_valid : Fld := ⟨R.vxe_poison_first, 63, 1⟩
/-- Field `idle` of `vxe.poison_first` (R121). -/
def F.vxe_poison_first_idle : Fld := ⟨R.vxe_poison_first, 62, 1⟩
/-- Field `offset` of `vxe.poison_first` (R121). -/
def F.vxe_poison_first_offset : Fld := ⟨R.vxe_poison_first, 32, 22⟩
/-- Field `chain` of `vxe.poison_first` (R121). -/
def F.vxe_poison_first_chain : Fld := ⟨R.vxe_poison_first, 29, 3⟩
/-- Field `run` of `vxe.poison_first` (R121). -/
def F.vxe_poison_first_run : Fld := ⟨R.vxe_poison_first, 28, 1⟩
/-- Field `context` of `vxe.poison_first` (R121). -/
def F.vxe_poison_first_context : Fld := ⟨R.vxe_poison_first, 16, 12⟩
/-- Field `cause` of `vxe.poison_first` (R121). -/
def F.vxe_poison_first_cause : Fld := ⟨R.vxe_poison_first, 8, 4⟩
/-- Field `cluster` of `vxe.poison_first` (R121). -/
def F.vxe_poison_first_cluster : Fld := ⟨R.vxe_poison_first, 0, 6⟩
/-- `vxe.tally_ovf` (R122). -/
def R.vxe_tally_ovf : Reg := ⟨0x6, 0x118, 64, 1, 0, 0x0, .die⟩
/-- Field `ovf` of `vxe.tally_ovf` (R122). -/
def F.vxe_tally_ovf_ovf : Fld := ⟨R.vxe_tally_ovf, 0, 64⟩
/-- `vxe.ch_sel` (R123). -/
def R.vxe_ch_sel : Reg := ⟨0x6, 0x120, 32, 1, 0, 0x0, .die⟩
/-- Field `cluster` of `vxe.ch_sel` (R123). -/
def F.vxe_ch_sel_cluster : Fld := ⟨R.vxe_ch_sel, 7, 6⟩
/-- Field `chain` of `vxe.ch_sel` (R123). -/
def F.vxe_ch_sel_chain : Fld := ⟨R.vxe_ch_sel, 4, 3⟩
/-- Field `word` of `vxe.ch_sel` (R123). -/
def F.vxe_ch_sel_word : Fld := ⟨R.vxe_ch_sel, 0, 4⟩
/-- `vxe.ch_data` (R123). -/
def R.vxe_ch_data : Reg := ⟨0x6, 0x128, 64, 1, 0, 0x0, .die⟩
/-- Field `data` of `vxe.ch_data` (R123). -/
def F.vxe_ch_data_data : Fld := ⟨R.vxe_ch_data, 0, 64⟩
/-- `vxe.t_row` (R124). -/
def R.vxe_t_row : Reg := ⟨0x6, 0x1000, 64, 64, 64, 0x0, .die⟩
/-- Field `count` of `vxe.t_row` (R124). -/
def F.vxe_t_row_count : Fld := ⟨R.vxe_t_row, 0, 64⟩
/-- `vxe.t_vrow` (R124). -/
def R.vxe_t_vrow : Reg := ⟨0x6, 0x1008, 64, 64, 64, 0x0, .die⟩
/-- Field `count` of `vxe.t_vrow` (R124). -/
def F.vxe_t_vrow_count : Fld := ⟨R.vxe_t_vrow, 0, 64⟩
/-- `vxe.t_hold` (R124). -/
def R.vxe_t_hold : Reg := ⟨0x6, 0x1010, 64, 64, 64, 0x0, .die⟩
/-- Field `count` of `vxe.t_hold` (R124). -/
def F.vxe_t_hold_count : Fld := ⟨R.vxe_t_hold, 0, 64⟩
/-- `vxe.t_nan` (R124). -/
def R.vxe_t_nan : Reg := ⟨0x6, 0x1018, 64, 64, 64, 0x0, .die⟩
/-- Field `count` of `vxe.t_nan` (R124). -/
def F.vxe_t_nan_count : Fld := ⟨R.vxe_t_nan, 0, 64⟩
/-- `vxe.t_inf` (R124). -/
def R.vxe_t_inf : Reg := ⟨0x6, 0x1020, 64, 64, 64, 0x0, .die⟩
/-- Field `count` of `vxe.t_inf` (R124). -/
def F.vxe_t_inf_count : Fld := ⟨R.vxe_t_inf, 0, 64⟩
/-- `vxe.t_ovf` (R124). -/
def R.vxe_t_ovf : Reg := ⟨0x6, 0x1028, 64, 64, 64, 0x0, .die⟩
/-- Field `count` of `vxe.t_ovf` (R124). -/
def F.vxe_t_ovf_count : Fld := ⟨R.vxe_t_ovf, 0, 64⟩
/-- `vxe.t_rsv` (R124). -/
def R.vxe_t_rsv : Reg := ⟨0x6, 0x1030, 64, 64, 64, 0x0, .die⟩
/-- Field `count` of `vxe.t_rsv` (R124). -/
def F.vxe_t_rsv_count : Fld := ⟨R.vxe_t_rsv, 0, 64⟩
/-- `vxe.t_rsv2` (R124). -/
def R.vxe_t_rsv2 : Reg := ⟨0x6, 0x1038, 64, 64, 64, 0x0, .die⟩
/-- Field `count` of `vxe.t_rsv2` (R124). -/
def F.vxe_t_rsv2_count : Fld := ⟨R.vxe_t_rsv2, 0, 64⟩

/-! ## Unit `sram`, slot 0x07 -/

/-- `sram.carve` (R197). -/
def R.sram_carve : Reg := ⟨0x7, 0x0, 32, 1, 0, 0x0, .die⟩
/-- Field `busy` of `sram.carve` (R197). -/
def F.sram_carve_busy : Fld := ⟨R.sram_carve, 31, 1⟩
/-- Field `size` of `sram.carve` (R197). -/
def F.sram_carve_size : Fld := ⟨R.sram_carve, 0, 3⟩
/-- `sram.scrub` (R198). -/
def R.sram_scrub : Reg := ⟨0x7, 0x4, 32, 1, 0, 0x8000003C, .die⟩
/-- Field `en` of `sram.scrub` (R198). -/
def F.sram_scrub_en : Fld := ⟨R.sram_scrub, 31, 1⟩
/-- Field `period` of `sram.scrub` (R198). -/
def F.sram_scrub_period : Fld := ⟨R.sram_scrub, 0, 16⟩
/-- `sram.ue_first` (R200). -/
def R.sram_ue_first : Reg := ⟨0x7, 0x18, 64, 1, 0, 0x0, .die⟩
/-- Field `valid` of `sram.ue_first` (R200). -/
def F.sram_ue_first_valid : Fld := ⟨R.sram_ue_first, 63, 1⟩
/-- Field `src` of `sram.ue_first` (R200). -/
def F.sram_ue_first_src : Fld := ⟨R.sram_ue_first, 62, 1⟩
/-- Field `offset` of `sram.ue_first` (R200). -/
def F.sram_ue_first_offset : Fld := ⟨R.sram_ue_first, 0, 30⟩
/-- `sram.tally_ovf` (R201). -/
def R.sram_tally_ovf : Reg := ⟨0x7, 0x28, 32, 1, 0, 0x0, .die⟩
/-- Field `ovf` of `sram.tally_ovf` (R201). -/
def F.sram_tally_ovf_ovf : Fld := ⟨R.sram_tally_ovf, 0, 4⟩
/-- `sram.t_rd` (R202). -/
def R.sram_t_rd : Reg := ⟨0x7, 0x100, 64, 1, 0, 0x0, .die⟩
/-- Field `count` of `sram.t_rd` (R202). -/
def F.sram_t_rd_count : Fld := ⟨R.sram_t_rd, 0, 64⟩
/-- `sram.t_wr` (R202). -/
def R.sram_t_wr : Reg := ⟨0x7, 0x108, 64, 1, 0, 0x0, .die⟩
/-- Field `count` of `sram.t_wr` (R202). -/
def F.sram_t_wr_count : Fld := ⟨R.sram_t_wr, 0, 64⟩
/-- `sram.t_bconf` (R202). -/
def R.sram_t_bconf : Reg := ⟨0x7, 0x110, 64, 1, 0, 0x0, .die⟩
/-- Field `count` of `sram.t_bconf` (R202). -/
def F.sram_t_bconf_count : Fld := ⟨R.sram_t_bconf, 0, 64⟩
/-- `sram.t_scrub` (R202). -/
def R.sram_t_scrub : Reg := ⟨0x7, 0x118, 64, 1, 0, 0x0, .die⟩
/-- Field `count` of `sram.t_scrub` (R202). -/
def F.sram_t_scrub_count : Fld := ⟨R.sram_t_scrub, 0, 64⟩
/-- `sram.ce` (R199). -/
def R.sram_ce : Reg := ⟨0x7, 0x8, 32, 1, 0, 0x0, .die⟩
/-- Field `count` of `sram.ce` (R199). -/
def F.sram_ce_count : Fld := ⟨R.sram_ce, 0, 32⟩
/-- `sram.ue` (R199). -/
def R.sram_ue : Reg := ⟨0x7, 0xC, 32, 1, 0, 0x0, .die⟩
/-- Field `count` of `sram.ue` (R199). -/
def F.sram_ue_count : Fld := ⟨R.sram_ue, 0, 32⟩
/-- `sram.cl_ce` (R199). -/
def R.sram_cl_ce : Reg := ⟨0x7, 0x10, 32, 1, 0, 0x0, .die⟩
/-- Field `count` of `sram.cl_ce` (R199). -/
def F.sram_cl_ce_count : Fld := ⟨R.sram_cl_ce, 0, 32⟩
/-- `sram.cl_ue` (R199). -/
def R.sram_cl_ue : Reg := ⟨0x7, 0x14, 32, 1, 0, 0x0, .die⟩
/-- Field `count` of `sram.cl_ue` (R199). -/
def F.sram_cl_ue_count : Fld := ⟨R.sram_cl_ue, 0, 32⟩
/-- `sram.carve_hit` (R199). -/
def R.sram_carve_hit : Reg := ⟨0x7, 0x20, 32, 1, 0, 0x0, .die⟩
/-- Field `count` of `sram.carve_hit` (R199). -/
def F.sram_carve_hit_count : Fld := ⟨R.sram_carve_hit, 0, 32⟩
/-- `sram.rsv_wr` (R199). -/
def R.sram_rsv_wr : Reg := ⟨0x7, 0x24, 32, 1, 0, 0x0, .die⟩
/-- Field `count` of `sram.rsv_wr` (R199). -/
def F.sram_rsv_wr_count : Fld := ⟨R.sram_rsv_wr, 0, 32⟩

/-! ## Unit `hbm`, slot 0x08 -/

/-- `hbm.stat` (R242). -/
def R.hbm_stat : Reg := ⟨0x8, 0x0, 32, 1, 0, 0x0, .die⟩
/-- Field `down` of `hbm.stat` (R242). -/
def F.hbm_stat_down : Fld := ⟨R.hbm_stat, 12, 4⟩
/-- Field `hot` of `hbm.stat` (R242). -/
def F.hbm_stat_hot : Fld := ⟨R.hbm_stat, 8, 4⟩
/-- Field `train` of `hbm.stat` (R242). -/
def F.hbm_stat_train : Fld := ⟨R.hbm_stat, 4, 4⟩
/-- Field `up` of `hbm.stat` (R242). -/
def F.hbm_stat_up : Fld := ⟨R.hbm_stat, 0, 4⟩
/-- `hbm.sched` (R243). -/
def R.hbm_sched : Reg := ⟨0x8, 0x4, 32, 1, 0, 0x8, .die⟩
/-- Field `batch` of `hbm.sched` (R243). -/
def F.hbm_sched_batch : Fld := ⟨R.hbm_sched, 0, 7⟩
/-- `hbm.temp` (R243). -/
def R.hbm_temp : Reg := ⟨0x8, 0x8, 32, 1, 0, 0x0, .die⟩
/-- Field `t0` of `hbm.temp` (R243). -/
def F.hbm_temp_t0 : Fld := ⟨R.hbm_temp, 0, 8⟩
/-- Field `t1` of `hbm.temp` (R243). -/
def F.hbm_temp_t1 : Fld := ⟨R.hbm_temp, 8, 8⟩
/-- Field `t2` of `hbm.temp` (R243). -/
def F.hbm_temp_t2 : Fld := ⟨R.hbm_temp, 16, 8⟩
/-- Field `t3` of `hbm.temp` (R243). -/
def F.hbm_temp_t3 : Fld := ⟨R.hbm_temp, 24, 8⟩
/-- `hbm.scrub` (R243). -/
def R.hbm_scrub : Reg := ⟨0x8, 0xC, 32, 1, 0, 0x80000018, .die⟩
/-- Field `en` of `hbm.scrub` (R243). -/
def F.hbm_scrub_en : Fld := ⟨R.hbm_scrub, 31, 1⟩
/-- Field `period` of `hbm.scrub` (R243). -/
def F.hbm_scrub_period : Fld := ⟨R.hbm_scrub, 0, 16⟩
/-- `hbm.cew` (R243). -/
def R.hbm_cew : Reg := ⟨0x8, 0x10, 32, 1, 0, 0x100003C, .die⟩
/-- Field `thr` of `hbm.cew` (R243). -/
def F.hbm_cew_thr : Fld := ⟨R.hbm_cew, 16, 16⟩
/-- Field `win` of `hbm.cew` (R243). -/
def F.hbm_cew_win : Fld := ⟨R.hbm_cew, 0, 16⟩
/-- `hbm.own` (R243). -/
def R.hbm_own : Reg := ⟨0x8, 0x14, 32, 1, 0, 0x0, .die⟩
/-- Field `ready` of `hbm.own` (R243). -/
def F.hbm_own_ready : Fld := ⟨R.hbm_own, 8, 4⟩
/-- Field `own` of `hbm.own` (R243). -/
def F.hbm_own_own : Fld := ⟨R.hbm_own, 0, 4⟩
/-- `hbm.ue_first` (R245). -/
def R.hbm_ue_first : Reg := ⟨0x8, 0x58, 64, 1, 0, 0x0, .die⟩
/-- Field `valid` of `hbm.ue_first` (R245). -/
def F.hbm_ue_first_valid : Fld := ⟨R.hbm_ue_first, 63, 1⟩
/-- Field `pc` of `hbm.ue_first` (R245). -/
def F.hbm_ue_first_pc : Fld := ⟨R.hbm_ue_first, 48, 8⟩
/-- Field `offset` of `hbm.ue_first` (R245). -/
def F.hbm_ue_first_offset : Fld := ⟨R.hbm_ue_first, 0, 39⟩
/-- `hbm.tally_ovf` (R246). -/
def R.hbm_tally_ovf : Reg := ⟨0x8, 0x60, 32, 1, 0, 0x0, .die⟩
/-- Field `ovf` of `hbm.tally_ovf` (R246). -/
def F.hbm_tally_ovf_ovf : Fld := ⟨R.hbm_tally_ovf, 0, 32⟩
/-- `hbm.ce` (R244). -/
def R.hbm_ce : Reg := ⟨0x8, 0x20, 32, 4, 4, 0x0, .die⟩
/-- Field `count` of `hbm.ce` (R244). -/
def F.hbm_ce_count : Fld := ⟨R.hbm_ce, 0, 32⟩
/-- `hbm.ue` (R244). -/
def R.hbm_ue : Reg := ⟨0x8, 0x30, 32, 4, 4, 0x0, .die⟩
/-- Field `count` of `hbm.ue` (R244). -/
def F.hbm_ue_count : Fld := ⟨R.hbm_ue, 0, 32⟩
/-- `hbm.prd` (R244). -/
def R.hbm_prd : Reg := ⟨0x8, 0x40, 32, 4, 4, 0x0, .die⟩
/-- Field `count` of `hbm.prd` (R244). -/
def F.hbm_prd_count : Fld := ⟨R.hbm_prd, 0, 32⟩
/-- `hbm.down_wr` (R244). -/
def R.hbm_down_wr : Reg := ⟨0x8, 0x50, 32, 1, 0, 0x0, .die⟩
/-- Field `count` of `hbm.down_wr` (R244). -/
def F.hbm_down_wr_count : Fld := ⟨R.hbm_down_wr, 0, 32⟩
/-- `hbm.cwb_drop` (R244). -/
def R.hbm_cwb_drop : Reg := ⟨0x8, 0x54, 32, 1, 0, 0x0, .die⟩
/-- Field `count` of `hbm.cwb_drop` (R244). -/
def F.hbm_cwb_drop_count : Fld := ⟨R.hbm_cwb_drop, 0, 32⟩
/-- `hbm.t_rd` (R247). -/
def R.hbm_t_rd : Reg := ⟨0x8, 0x1000, 64, 4, 64, 0x0, .die⟩
/-- Field `count` of `hbm.t_rd` (R247). -/
def F.hbm_t_rd_count : Fld := ⟨R.hbm_t_rd, 0, 64⟩
/-- `hbm.t_wr` (R247). -/
def R.hbm_t_wr : Reg := ⟨0x8, 0x1008, 64, 4, 64, 0x0, .die⟩
/-- Field `count` of `hbm.t_wr` (R247). -/
def F.hbm_t_wr_count : Fld := ⟨R.hbm_t_wr, 0, 64⟩
/-- `hbm.t_act` (R247). -/
def R.hbm_t_act : Reg := ⟨0x8, 0x1010, 64, 4, 64, 0x0, .die⟩
/-- Field `count` of `hbm.t_act` (R247). -/
def F.hbm_t_act_count : Fld := ⟨R.hbm_t_act, 0, 64⟩
/-- `hbm.t_ref` (R247). -/
def R.hbm_t_ref : Reg := ⟨0x8, 0x1018, 64, 4, 64, 0x0, .die⟩
/-- Field `count` of `hbm.t_ref` (R247). -/
def F.hbm_t_ref_count : Fld := ⟨R.hbm_t_ref, 0, 64⟩
/-- `hbm.t_refcol` (R247). -/
def R.hbm_t_refcol : Reg := ⟨0x8, 0x1020, 64, 4, 64, 0x0, .die⟩
/-- Field `count` of `hbm.t_refcol` (R247). -/
def F.hbm_t_refcol_count : Fld := ⟨R.hbm_t_refcol, 0, 64⟩
/-- `hbm.t_turn` (R247). -/
def R.hbm_t_turn : Reg := ⟨0x8, 0x1028, 64, 4, 64, 0x0, .die⟩
/-- Field `count` of `hbm.t_turn` (R247). -/
def F.hbm_t_turn_count : Fld := ⟨R.hbm_t_turn, 0, 64⟩
/-- `hbm.t_bconf` (R247). -/
def R.hbm_t_bconf : Reg := ⟨0x8, 0x1030, 64, 4, 64, 0x0, .die⟩
/-- Field `count` of `hbm.t_bconf` (R247). -/
def F.hbm_t_bconf_count : Fld := ⟨R.hbm_t_bconf, 0, 64⟩
/-- `hbm.t_rmw` (R247). -/
def R.hbm_t_rmw : Reg := ⟨0x8, 0x1038, 64, 4, 64, 0x0, .die⟩
/-- Field `count` of `hbm.t_rmw` (R247). -/
def F.hbm_t_rmw_count : Fld := ⟨R.hbm_t_rmw, 0, 64⟩

/-! ## Unit `hcache`, slot 0x09 -/

/-- `hcache.ctl` (R248). -/
def R.hcache_ctl : Reg := ⟨0x9, 0x0, 32, 1, 0, 0xC, .die⟩
/-- Field `keep_max` of `hcache.ctl` (R248). -/
def F.hcache_ctl_keep_max : Fld := ⟨R.hcache_ctl, 0, 5⟩
/-- `hcache.wc` (R248). -/
def R.hcache_wc : Reg := ⟨0x9, 0x4, 32, 1, 0, 0x3E8, .die⟩
/-- Field `age` of `hcache.wc` (R248). -/
def F.hcache_wc_age : Fld := ⟨R.hcache_wc, 0, 16⟩
/-- `hcache.flush` (R248). -/
def R.hcache_flush : Reg := ⟨0x9, 0x8, 32, 1, 0, 0x0, .die⟩
/-- Field `busy` of `hcache.flush` (R248). -/
def F.hcache_flush_busy : Fld := ⟨R.hcache_flush, 31, 1⟩
/-- Field `go` of `hcache.flush` (R248). -/
def F.hcache_flush_go : Fld := ⟨R.hcache_flush, 0, 1⟩
/-- `hcache.tally_ovf` (R248). -/
def R.hcache_tally_ovf : Reg := ⟨0x9, 0xC, 32, 1, 0, 0x0, .die⟩
/-- Field `ovf` of `hcache.tally_ovf` (R248). -/
def F.hcache_tally_ovf_ovf : Fld := ⟨R.hcache_tally_ovf, 0, 8⟩
/-- `hcache.hw` (R249). -/
def R.hcache_hw : Reg := ⟨0x9, 0x100, 64, 16, 8, 0x0, .die⟩
/-- Field `en` of `hcache.hw` (R249). -/
def F.hcache_hw_en : Fld := ⟨R.hcache_hw, 63, 1⟩
/-- Field `hint` of `hcache.hw` (R249). -/
def F.hcache_hw_hint : Fld := ⟨R.hcache_hw, 61, 2⟩
/-- Field `size` of `hcache.hw` (R249). -/
def F.hcache_hw_size : Fld := ⟨R.hcache_hw, 44, 17⟩
/-- Field `base` of `hcache.hw` (R249). -/
def F.hcache_hw_base : Fld := ⟨R.hcache_hw, 26, 18⟩
/-- `hcache.t_rhit` (R250). -/
def R.hcache_t_rhit : Reg := ⟨0x9, 0x1000, 64, 1, 0, 0x0, .die⟩
/-- Field `count` of `hcache.t_rhit` (R250). -/
def F.hcache_t_rhit_count : Fld := ⟨R.hcache_t_rhit, 0, 64⟩
/-- `hcache.t_rmiss` (R250). -/
def R.hcache_t_rmiss : Reg := ⟨0x9, 0x1008, 64, 1, 0, 0x0, .die⟩
/-- Field `count` of `hcache.t_rmiss` (R250). -/
def F.hcache_t_rmiss_count : Fld := ⟨R.hcache_t_rmiss, 0, 64⟩
/-- `hcache.t_whit` (R250). -/
def R.hcache_t_whit : Reg := ⟨0x9, 0x1010, 64, 1, 0, 0x0, .die⟩
/-- Field `count` of `hcache.t_whit` (R250). -/
def F.hcache_t_whit_count : Fld := ⟨R.hcache_t_whit, 0, 64⟩
/-- `hcache.t_wmiss` (R250). -/
def R.hcache_t_wmiss : Reg := ⟨0x9, 0x1018, 64, 1, 0, 0x0, .die⟩
/-- Field `count` of `hcache.t_wmiss` (R250). -/
def F.hcache_t_wmiss_count : Fld := ⟨R.hcache_t_wmiss, 0, 64⟩
/-- `hcache.t_wb` (R250). -/
def R.hcache_t_wb : Reg := ⟨0x9, 0x1020, 64, 1, 0, 0x0, .die⟩
/-- Field `count` of `hcache.t_wb` (R250). -/
def F.hcache_t_wb_count : Fld := ⟨R.hcache_t_wb, 0, 64⟩
/-- `hcache.t_ldrop` (R250). -/
def R.hcache_t_ldrop : Reg := ⟨0x9, 0x1028, 64, 1, 0, 0x0, .die⟩
/-- Field `count` of `hcache.t_ldrop` (R250). -/
def F.hcache_t_ldrop_count : Fld := ⟨R.hcache_t_ldrop, 0, 64⟩
/-- `hcache.t_wcm` (R250). -/
def R.hcache_t_wcm : Reg := ⟨0x9, 0x1030, 64, 1, 0, 0x0, .die⟩
/-- Field `count` of `hcache.t_wcm` (R250). -/
def F.hcache_t_wcm_count : Fld := ⟨R.hcache_t_wcm, 0, 64⟩
/-- `hcache.t_wcf` (R250). -/
def R.hcache_t_wcf : Reg := ⟨0x9, 0x1038, 64, 1, 0, 0x0, .die⟩
/-- Field `count` of `hcache.t_wcf` (R250). -/
def F.hcache_t_wcf_count : Fld := ⟨R.hcache_t_wcf, 0, 64⟩

/-! ## Unit `tgen`, slot 0x0A -/

/-- `tgen.ctl` (R251). -/
def R.tgen_ctl : Reg := ⟨0xA, 0x0, 32, 1, 0, 0x800, .die⟩
/-- Field `go` of `tgen.ctl` (R251). -/
def F.tgen_ctl_go : Fld := ⟨R.tgen_ctl, 31, 1⟩
/-- Field `stop` of `tgen.ctl` (R251). -/
def F.tgen_ctl_stop : Fld := ⟨R.tgen_ctl, 30, 1⟩
/-- Field `busy` of `tgen.ctl` (R251). -/
def F.tgen_ctl_busy : Fld := ⟨R.tgen_ctl, 29, 1⟩
/-- Field `chk` of `tgen.ctl` (R251). -/
def F.tgen_ctl_chk : Fld := ⟨R.tgen_ctl, 13, 1⟩
/-- Field `size` of `tgen.ctl` (R251). -/
def F.tgen_ctl_size : Fld := ⟨R.tgen_ctl, 12, 1⟩
/-- Field `rmix` of `tgen.ctl` (R251). -/
def F.tgen_ctl_rmix : Fld := ⟨R.tgen_ctl, 8, 4⟩
/-- Field `dpat` of `tgen.ctl` (R251). -/
def F.tgen_ctl_dpat : Fld := ⟨R.tgen_ctl, 4, 4⟩
/-- Field `apat` of `tgen.ctl` (R251). -/
def F.tgen_ctl_apat : Fld := ⟨R.tgen_ctl, 0, 2⟩
/-- `tgen.cnt` (R251). -/
def R.tgen_cnt : Reg := ⟨0xA, 0x4, 32, 1, 0, 0x10000, .die⟩
/-- Field `count` of `tgen.cnt` (R251). -/
def F.tgen_cnt_count : Fld := ⟨R.tgen_cnt, 0, 32⟩
/-- `tgen.done` (R251). -/
def R.tgen_done : Reg := ⟨0xA, 0x18, 32, 1, 0, 0x0, .die⟩
/-- Field `aborted` of `tgen.done` (R251). -/
def F.tgen_done_aborted : Fld := ⟨R.tgen_done, 1, 1⟩
/-- Field `done` of `tgen.done` (R251). -/
def F.tgen_done_done : Fld := ⟨R.tgen_done, 0, 1⟩
/-- `tgen.range` (R252). -/
def R.tgen_range : Reg := ⟨0xA, 0x8, 64, 1, 0, 0x2FFF00000000, .die⟩
/-- Field `row_hi` of `tgen.range` (R252). -/
def F.tgen_range_row_hi : Fld := ⟨R.tgen_range, 32, 14⟩
/-- Field `row_lo` of `tgen.range` (R252). -/
def F.tgen_range_row_lo : Fld := ⟨R.tgen_range, 0, 14⟩
/-- `tgen.seed` (R252). -/
def R.tgen_seed : Reg := ⟨0xA, 0x10, 64, 1, 0, 0x1, .die⟩
/-- Field `seed` of `tgen.seed` (R252). -/
def F.tgen_seed_seed : Fld := ⟨R.tgen_seed, 0, 64⟩
/-- `tgen.en` (R253). -/
def R.tgen_en : Reg := ⟨0xA, 0x20, 64, 4, 8, 0x0, .die⟩
/-- Field `en` of `tgen.en` (R253). -/
def F.tgen_en_en : Fld := ⟨R.tgen_en, 0, 64⟩
/-- `tgen.err` (R254). -/
def R.tgen_err : Reg := ⟨0xA, 0x1000, 32, 256, 4, 0x0, .die⟩
/-- Field `count` of `tgen.err` (R254). -/
def F.tgen_err_count : Fld := ⟨R.tgen_err, 0, 32⟩
/-- `tgen.ffail` (R255). -/
def R.tgen_ffail : Reg := ⟨0xA, 0x2000, 64, 256, 8, 0x0, .die⟩
/-- Field `valid` of `tgen.ffail` (R255). -/
def F.tgen_ffail_valid : Fld := ⟨R.tgen_ffail, 63, 1⟩
/-- Field `ue` of `tgen.ffail` (R255). -/
def F.tgen_ffail_ue : Fld := ⟨R.tgen_ffail, 57, 1⟩
/-- Field `bit` of `tgen.ffail` (R255). -/
def F.tgen_ffail_bit : Fld := ⟨R.tgen_ffail, 48, 9⟩
/-- Field `sid` of `tgen.ffail` (R255). -/
def F.tgen_ffail_sid : Fld := ⟨R.tgen_ffail, 22, 2⟩
/-- Field `bg` of `tgen.ffail` (R255). -/
def F.tgen_ffail_bg : Fld := ⟨R.tgen_ffail, 20, 2⟩
/-- Field `bank` of `tgen.ffail` (R255). -/
def F.tgen_ffail_bank : Fld := ⟨R.tgen_ffail, 18, 2⟩
/-- Field `row` of `tgen.ffail` (R255). -/
def F.tgen_ffail_row : Fld := ⟨R.tgen_ffail, 4, 14⟩
/-- Field `chunk` of `tgen.ffail` (R255). -/
def F.tgen_ffail_chunk : Fld := ⟨R.tgen_ffail, 0, 4⟩

/-! ## Unit `lnk`, slot 0x0B -/

/-- `lnk.ctl` (R321). -/
def R.lnk_ctl : Reg := ⟨0xB, 0x0, 32, 1, 0, 0xBFFFF, .die⟩
/-- Field `auto` of `lnk.ctl` (R321). -/
def F.lnk_ctl_auto : Fld := ⟨R.lnk_ctl, 19, 1⟩
/-- Field `adapt` of `lnk.ctl` (R321). -/
def F.lnk_ctl_adapt : Fld := ⟨R.lnk_ctl, 18, 1⟩
/-- Field `en` of `lnk.ctl` (R321). -/
def F.lnk_ctl_en : Fld := ⟨R.lnk_ctl, 0, 18⟩
/-- `lnk.retry` (R321). -/
def R.lnk_retry : Reg := ⟨0xB, 0x4, 32, 1, 0, 0x8, .die⟩
/-- Field `max` of `lnk.retry` (R321). -/
def F.lnk_retry_max : Fld := ⟨R.lnk_retry, 0, 4⟩
/-- `lnk.arb` (R321). -/
def R.lnk_arb : Reg := ⟨0xB, 0x8, 32, 1, 0, 0x401, .die⟩
/-- Field `w_seg` of `lnk.arb` (R321). -/
def F.lnk_arb_w_seg : Fld := ⟨R.lnk_arb, 8, 8⟩
/-- Field `w_req` of `lnk.arb` (R321). -/
def F.lnk_arb_w_req : Fld := ⟨R.lnk_arb, 0, 8⟩
/-- `lnk.drop` (R321). -/
def R.lnk_drop : Reg := ⟨0xB, 0xC, 32, 1, 0, 0x0, .die⟩
/-- Field `count` of `lnk.drop` (R321). -/
def F.lnk_drop_count : Fld := ⟨R.lnk_drop, 0, 32⟩
/-- `lnk.tally_ovf` (R321). -/
def R.lnk_tally_ovf : Reg := ⟨0xB, 0x10, 32, 1, 0, 0x0, .die⟩
/-- Field `ovf` of `lnk.tally_ovf` (R321). -/
def F.lnk_tally_ovf_ovf : Fld := ⟨R.lnk_tally_ovf, 0, 18⟩
/-- `lnk.ff` (R322). -/
def R.lnk_ff : Reg := ⟨0xB, 0x18, 64, 1, 0, 0x0, .die⟩
/-- Field `valid` of `lnk.ff` (R322). -/
def F.lnk_ff_valid : Fld := ⟨R.lnk_ff, 63, 1⟩
/-- Field `cause` of `lnk.ff` (R322). -/
def F.lnk_ff_cause : Fld := ⟨R.lnk_ff, 8, 2⟩
/-- Field `link` of `lnk.ff` (R322). -/
def F.lnk_ff_link : Fld := ⟨R.lnk_ff, 0, 5⟩
/-- `lnk.stat` (R323). -/
def R.lnk_stat : Reg := ⟨0xB, 0x100, 32, 18, 4, 0x0, .die⟩
/-- Field `state` of `lnk.stat` (R323). -/
def F.lnk_stat_state : Fld := ⟨R.lnk_stat, 28, 4⟩
/-- Field `q` of `lnk.stat` (R323). -/
def F.lnk_stat_q : Fld := ⟨R.lnk_stat, 12, 12⟩
/-- Field `lanes` of `lnk.stat` (R323). -/
def F.lnk_stat_lanes : Fld := ⟨R.lnk_stat, 0, 12⟩
/-- `lnk.peer` (R324). -/
def R.lnk_peer : Reg := ⟨0xB, 0x200, 64, 18, 8, 0x0, .die⟩
/-- Field `chk` of `lnk.peer` (R324). -/
def F.lnk_peer_chk : Fld := ⟨R.lnk_peer, 63, 1⟩
/-- Field `exp_node` of `lnk.peer` (R324). -/
def F.lnk_peer_exp_node : Fld := ⟨R.lnk_peer, 43, 15⟩
/-- Field `exp_link` of `lnk.peer` (R324). -/
def F.lnk_peer_exp_link : Fld := ⟨R.lnk_peer, 38, 5⟩
/-- Field `obs_node` of `lnk.peer` (R324). -/
def F.lnk_peer_obs_node : Fld := ⟨R.lnk_peer, 17, 15⟩
/-- Field `obs_link` of `lnk.peer` (R324). -/
def F.lnk_peer_obs_link : Fld := ⟨R.lnk_peer, 12, 5⟩
/-- `lnk.t_tx` (R325). -/
def R.lnk_t_tx : Reg := ⟨0xB, 0x2000, 64, 18, 64, 0x0, .die⟩
/-- Field `count` of `lnk.t_tx` (R325). -/
def F.lnk_t_tx_count : Fld := ⟨R.lnk_t_tx, 0, 64⟩
/-- `lnk.t_rx` (R325). -/
def R.lnk_t_rx : Reg := ⟨0xB, 0x2008, 64, 18, 64, 0x0, .die⟩
/-- Field `count` of `lnk.t_rx` (R325). -/
def F.lnk_t_rx_count : Fld := ⟨R.lnk_t_rx, 0, 64⟩
/-- `lnk.t_replay` (R325). -/
def R.lnk_t_replay : Reg := ⟨0xB, 0x2010, 64, 18, 64, 0x0, .die⟩
/-- Field `count` of `lnk.t_replay` (R325). -/
def F.lnk_t_replay_count : Fld := ⟨R.lnk_t_replay, 0, 64⟩
/-- `lnk.t_rtr` (R325). -/
def R.lnk_t_rtr : Reg := ⟨0xB, 0x2018, 64, 18, 64, 0x0, .die⟩
/-- Field `count` of `lnk.t_rtr` (R325). -/
def F.lnk_t_rtr_count : Fld := ⟨R.lnk_t_rtr, 0, 64⟩
/-- `lnk.t_hold` (R325). -/
def R.lnk_t_hold : Reg := ⟨0xB, 0x2020, 64, 18, 64, 0x0, .die⟩
/-- Field `count` of `lnk.t_hold` (R325). -/
def F.lnk_t_hold_count : Fld := ⟨R.lnk_t_hold, 0, 64⟩
/-- `lnk.t_adapt` (R325). -/
def R.lnk_t_adapt : Reg := ⟨0xB, 0x2028, 64, 18, 64, 0x0, .die⟩
/-- Field `count` of `lnk.t_adapt` (R325). -/
def F.lnk_t_adapt_count : Fld := ⟨R.lnk_t_adapt, 0, 64⟩
/-- `lnk.fwd` (R326). -/
def R.lnk_fwd : Reg := ⟨0xB, 0x10000, 32, 16384, 4, 0xFBE0FBE0, .die⟩
/-- Field `pri` of the even entry of `lnk.fwd` (R297, R326). -/
def F.lnk_fwd_pri0 : Fld := ⟨R.lnk_fwd, 10, 6⟩
/-- Field `alt` of the even entry of `lnk.fwd` (R297, R326). -/
def F.lnk_fwd_alt0 : Fld := ⟨R.lnk_fwd, 4, 6⟩
/-- Field `pri` of the odd entry of `lnk.fwd` (R297, R326). -/
def F.lnk_fwd_pri1 : Fld := ⟨R.lnk_fwd, 26, 6⟩
/-- Field `alt` of the odd entry of `lnk.fwd` (R297, R326). -/
def F.lnk_fwd_alt1 : Fld := ⟨R.lnk_fwd, 20, 6⟩

/-! ## Unit `col`, slot 0x0C -/

/-- `col.ctl` (R327). -/
def R.col_ctl : Reg := ⟨0xC, 0x0, 32, 1, 0, 0x0, .die⟩
/-- Field `en` of `col.ctl` (R327). -/
def F.col_ctl_en : Fld := ⟨R.col_ctl, 0, 1⟩
/-- `col.tmo` (R327). -/
def R.col_tmo : Reg := ⟨0xC, 0x4, 32, 1, 0, 0x2710, .die⟩
/-- Field `us` of `col.tmo` (R327). -/
def F.col_tmo_us : Fld := ⟨R.col_tmo, 0, 32⟩
/-- `col.stat` (R327). -/
def R.col_stat : Reg := ⟨0xC, 0x8, 32, 1, 0, 0x0, .die⟩
/-- Field `active` of `col.stat` (R327). -/
def F.col_stat_active : Fld := ⟨R.col_stat, 24, 4⟩
/-- Field `q` of `col.stat` (R327). -/
def F.col_stat_q : Fld := ⟨R.col_stat, 15, 9⟩
/-- Field `store` of `col.stat` (R327). -/
def F.col_stat_store : Fld := ⟨R.col_stat, 0, 15⟩
/-- `col.tally_ovf` (R327). -/
def R.col_tally_ovf : Reg := ⟨0xC, 0xC, 32, 1, 0, 0x0, .die⟩
/-- Field `ovf` of `col.tally_ovf` (R327). -/
def F.col_tally_ovf_ovf : Fld := ⟨R.col_tally_ovf, 0, 8⟩
/-- `col.ff` (R328). -/
def R.col_ff : Reg := ⟨0xC, 0x10, 64, 1, 0, 0x0, .die⟩
/-- Field `valid` of `col.ff` (R328). -/
def F.col_ff_valid : Fld := ⟨R.col_ff, 63, 1⟩
/-- Field `peer` of `col.ff` (R328). -/
def F.col_ff_peer : Fld := ⟨R.col_ff, 48, 15⟩
/-- Field `code` of `col.ff` (R328). -/
def F.col_ff_code : Fld := ⟨R.col_ff, 32, 16⟩
/-- Field `rt` of `col.ff` (R328). -/
def F.col_ff_rt : Fld := ⟨R.col_ff, 24, 8⟩
/-- Field `context` of `col.ff` (R328). -/
def F.col_ff_context : Fld := ⟨R.col_ff, 12, 12⟩
/-- Field `inst` of `col.ff` (R328). -/
def F.col_ff_inst : Fld := ⟨R.col_ff, 0, 12⟩
/-- `col.t_segtx` (R330). -/
def R.col_t_segtx : Reg := ⟨0xC, 0x100, 64, 1, 0, 0x0, .die⟩
/-- Field `count` of `col.t_segtx` (R330). -/
def F.col_t_segtx_count : Fld := ⟨R.col_t_segtx, 0, 64⟩
/-- `col.t_segrx` (R330). -/
def R.col_t_segrx : Reg := ⟨0xC, 0x108, 64, 1, 0, 0x0, .die⟩
/-- Field `count` of `col.t_segrx` (R330). -/
def F.col_t_segrx_count : Fld := ⟨R.col_t_segrx, 0, 64⟩
/-- `col.t_dup` (R330). -/
def R.col_t_dup : Reg := ⟨0xC, 0x110, 64, 1, 0, 0x0, .die⟩
/-- Field `count` of `col.t_dup` (R330). -/
def F.col_t_dup_count : Fld := ⟨R.col_t_dup, 0, 64⟩
/-- `col.t_oos` (R330). -/
def R.col_t_oos : Reg := ⟨0xC, 0x118, 64, 1, 0, 0x0, .die⟩
/-- Field `count` of `col.t_oos` (R330). -/
def F.col_t_oos_count : Fld := ⟨R.col_t_oos, 0, 64⟩
/-- `col.t_reiss` (R330). -/
def R.col_t_reiss : Reg := ⟨0xC, 0x120, 64, 1, 0, 0x0, .die⟩
/-- Field `count` of `col.t_reiss` (R330). -/
def F.col_t_reiss_count : Fld := ⟨R.col_t_reiss, 0, 64⟩
/-- `col.t_fadd` (R330). -/
def R.col_t_fadd : Reg := ⟨0xC, 0x128, 64, 1, 0, 0x0, .die⟩
/-- Field `count` of `col.t_fadd` (R330). -/
def F.col_t_fadd_count : Fld := ⟨R.col_t_fadd, 0, 64⟩
/-- `col.t_done` (R330). -/
def R.col_t_done : Reg := ⟨0xC, 0x130, 64, 1, 0, 0x0, .die⟩
/-- Field `count` of `col.t_done` (R330). -/
def F.col_t_done_count : Fld := ⟨R.col_t_done, 0, 64⟩
/-- `col.t_fault` (R330). -/
def R.col_t_fault : Reg := ⟨0xC, 0x138, 64, 1, 0, 0x0, .die⟩
/-- Field `count` of `col.t_fault` (R330). -/
def F.col_t_fault_count : Fld := ⟨R.col_t_fault, 0, 64⟩
/-- `col.rt` (R329). -/
def R.col_rt : Reg := ⟨0xC, 0x8000, 64, 4096, 8, 0x0, .die⟩
/-- Field `w` of `col.rt` (R329). -/
def F.col_rt_w : Fld := ⟨R.col_rt, 0, 64⟩

/-! ## Unit `kit`, slot 0x0D -/

/-- `kit.stat` (R331). -/
def R.kit_stat : Reg := ⟨0xD, 0x0, 32, 1, 0, 0x0, .die⟩
/-- Field `used` of `kit.stat` (R331). -/
def F.kit_stat_used : Fld := ⟨R.kit_stat, 0, 15⟩
/-- `kit.refused` (R331). -/
def R.kit_refused : Reg := ⟨0xD, 0x4, 32, 1, 0, 0x0, .die⟩
/-- Field `count` of `kit.refused` (R331). -/
def F.kit_refused_count : Fld := ⟨R.kit_refused, 0, 32⟩
/-- `kit.tally_ovf` (R331). -/
def R.kit_tally_ovf : Reg := ⟨0xD, 0x8, 32, 1, 0, 0x0, .die⟩
/-- Field `ovf` of `kit.tally_ovf` (R331). -/
def F.kit_tally_ovf_ovf : Fld := ⟨R.kit_tally_ovf, 0, 3⟩
/-- `kit.t_add` (R331). -/
def R.kit_t_add : Reg := ⟨0xD, 0x100, 64, 1, 0, 0x0, .die⟩
/-- Field `count` of `kit.t_add` (R331). -/
def F.kit_t_add_count : Fld := ⟨R.kit_t_add, 0, 64⟩
/-- `kit.t_rd` (R331). -/
def R.kit_t_rd : Reg := ⟨0xD, 0x108, 64, 1, 0, 0x0, .die⟩
/-- Field `count` of `kit.t_rd` (R331). -/
def F.kit_t_rd_count : Fld := ⟨R.kit_t_rd, 0, 64⟩
/-- `kit.t_inx` (R331). -/
def R.kit_t_inx : Reg := ⟨0xD, 0x110, 64, 1, 0, 0x0, .die⟩
/-- Field `count` of `kit.t_inx` (R331). -/
def F.kit_t_inx_count : Fld := ⟨R.kit_t_inx, 0, 64⟩

/-! ## Unit `meld`, slot 0x0E -/

/-- `meld.ctl` (R373). -/
def R.meld_ctl : Reg := ⟨0xE, 0x0, 32, 1, 0, 0x0, .die⟩
/-- Field `early` of `meld.ctl` (R373). -/
def F.meld_ctl_early : Fld := ⟨R.meld_ctl, 0, 1⟩
/-- `meld.cfg` (R373). -/
def R.meld_cfg : Reg := ⟨0xE, 0x4, 32, 1, 0, 0x0, .mirror⟩
/-- Field `site` of `meld.cfg` (R373). -/
def F.meld_cfg_site : Fld := ⟨R.meld_cfg, 0, 6⟩
/-- `meld.jtmo` (R373). -/
def R.meld_jtmo : Reg := ⟨0xE, 0x8, 32, 1, 0, 0x258, .mirror⟩
/-- Field `s` of `meld.jtmo` (R373). -/
def F.meld_jtmo_s : Fld := ⟨R.meld_jtmo, 0, 32⟩
/-- `meld.mstr` (R373). -/
def R.meld_mstr : Reg := ⟨0xE, 0xC, 32, 1, 0, 0x0, .die⟩
/-- Field `master` of `meld.mstr` (R373). -/
def F.meld_mstr_master : Fld := ⟨R.meld_mstr, 0, 1⟩
/-- `meld.pt_base` (R374). -/
def R.meld_pt_base : Reg := ⟨0xE, 0x10, 64, 1, 0, 0x0, .mirror⟩
/-- Field `base` of `meld.pt_base` (R374). -/
def F.meld_pt_base_base : Fld := ⟨R.meld_pt_base, 14, 38⟩
/-- `meld.ff` (R375). -/
def R.meld_ff : Reg := ⟨0xE, 0x18, 64, 1, 0, 0x0, .die⟩
/-- Field `valid` of `meld.ff` (R375). -/
def F.meld_ff_valid : Fld := ⟨R.meld_ff, 63, 1⟩
/-- Field `slot` of `meld.ff` (R375). -/
def F.meld_ff_slot : Fld := ⟨R.meld_ff, 48, 2⟩
/-- Field `code` of `meld.ff` (R375). -/
def F.meld_ff_code : Fld := ⟨R.meld_ff, 32, 16⟩
/-- Field `trick` of `meld.ff` (R375). -/
def F.meld_ff_trick : Fld := ⟨R.meld_ff, 0, 32⟩
/-- `meld.kstat` (R376). -/
def R.meld_kstat : Reg := ⟨0xE, 0x20, 32, 1, 0, 0x0, .die⟩
/-- Field `intake` of `meld.kstat` (R376). -/
def F.meld_kstat_intake : Fld := ⟨R.meld_kstat, 16, 10⟩
/-- Field `cells` of `meld.kstat` (R376). -/
def F.meld_kstat_cells : Fld := ⟨R.meld_kstat, 0, 14⟩
/-- `meld.tally_ovf` (R376). -/
def R.meld_tally_ovf : Reg := ⟨0xE, 0x24, 32, 1, 0, 0x0, .die⟩
/-- Field `ovf` of `meld.tally_ovf` (R376). -/
def F.meld_tally_ovf_ovf : Fld := ⟨R.meld_tally_ovf, 0, 16⟩
/-- `meld.t_rx` (R378). -/
def R.meld_t_rx : Reg := ⟨0xE, 0x1000, 64, 1, 0, 0x0, .die⟩
/-- Field `count` of `meld.t_rx` (R378). -/
def F.meld_t_rx_count : Fld := ⟨R.meld_t_rx, 0, 64⟩
/-- `meld.t_merge` (R378). -/
def R.meld_t_merge : Reg := ⟨0xE, 0x1008, 64, 1, 0, 0x0, .die⟩
/-- Field `count` of `meld.t_merge` (R378). -/
def F.meld_t_merge_count : Fld := ⟨R.meld_t_merge, 0, 64⟩
/-- `meld.t_stale` (R378). -/
def R.meld_t_stale : Reg := ⟨0xE, 0x1010, 64, 1, 0, 0x0, .die⟩
/-- Field `count` of `meld.t_stale` (R378). -/
def F.meld_t_stale_count : Fld := ⟨R.meld_t_stale, 0, 64⟩
/-- `meld.t_early` (R378). -/
def R.meld_t_early : Reg := ⟨0xE, 0x1018, 64, 1, 0, 0x0, .die⟩
/-- Field `count` of `meld.t_early` (R378). -/
def F.meld_t_early_count : Fld := ⟨R.meld_t_early, 0, 64⟩
/-- `meld.t_dup` (R378). -/
def R.meld_t_dup : Reg := ⟨0xE, 0x1020, 64, 1, 0, 0x0, .die⟩
/-- Field `count` of `meld.t_dup` (R378). -/
def F.meld_t_dup_count : Fld := ⟨R.meld_t_dup, 0, 64⟩
/-- `meld.t_bad` (R378). -/
def R.meld_t_bad : Reg := ⟨0xE, 0x1028, 64, 1, 0, 0x0, .die⟩
/-- Field `count` of `meld.t_bad` (R378). -/
def F.meld_t_bad_count : Fld := ⟨R.meld_t_bad, 0, 64⟩
/-- `meld.t_wmis` (R378). -/
def R.meld_t_wmis : Reg := ⟨0xE, 0x1030, 64, 1, 0, 0x0, .die⟩
/-- Field `count` of `meld.t_wmis` (R378). -/
def F.meld_t_wmis_count : Fld := ⟨R.meld_t_wmis, 0, 64⟩
/-- `meld.t_miss` (R378). -/
def R.meld_t_miss : Reg := ⟨0xE, 0x1038, 64, 1, 0, 0x0, .die⟩
/-- Field `count` of `meld.t_miss` (R378). -/
def F.meld_t_miss_count : Fld := ⟨R.meld_t_miss, 0, 64⟩
/-- `meld.t_close` (R378). -/
def R.meld_t_close : Reg := ⟨0xE, 0x1040, 64, 1, 0, 0x0, .die⟩
/-- Field `count` of `meld.t_close` (R378). -/
def F.meld_t_close_count : Fld := ⟨R.meld_t_close, 0, 64⟩
/-- `meld.t_eclose` (R378). -/
def R.meld_t_eclose : Reg := ⟨0xE, 0x1048, 64, 1, 0, 0x0, .die⟩
/-- Field `count` of `meld.t_eclose` (R378). -/
def F.meld_t_eclose_count : Fld := ⟨R.meld_t_eclose, 0, 64⟩
/-- `meld.t_out` (R378). -/
def R.meld_t_out : Reg := ⟨0xE, 0x1050, 64, 1, 0, 0x0, .die⟩
/-- Field `count` of `meld.t_out` (R378). -/
def F.meld_t_out_count : Fld := ⟨R.meld_t_out, 0, 64⟩
/-- `meld.t_outlost` (R378). -/
def R.meld_t_outlost : Reg := ⟨0xE, 0x1058, 64, 1, 0, 0x0, .die⟩
/-- Field `count` of `meld.t_outlost` (R378). -/
def F.meld_t_outlost_count : Fld := ⟨R.meld_t_outlost, 0, 64⟩
/-- `meld.t_relay` (R378). -/
def R.meld_t_relay : Reg := ⟨0xE, 0x1060, 64, 1, 0, 0x0, .die⟩
/-- Field `count` of `meld.t_relay` (R378). -/
def F.meld_t_relay_count : Fld := ⟨R.meld_t_relay, 0, 64⟩
/-- `meld.t_bulk` (R378). -/
def R.meld_t_bulk : Reg := ⟨0xE, 0x1068, 64, 1, 0, 0x0, .die⟩
/-- Field `count` of `meld.t_bulk` (R378). -/
def F.meld_t_bulk_count : Fld := ⟨R.meld_t_bulk, 0, 64⟩
/-- `meld.t_nonfin` (R378). -/
def R.meld_t_nonfin : Reg := ⟨0xE, 0x1070, 64, 1, 0, 0x0, .die⟩
/-- Field `count` of `meld.t_nonfin` (R378). -/
def F.meld_t_nonfin_count : Fld := ⟨R.meld_t_nonfin, 0, 64⟩
/-- `meld.t_held` (R378). -/
def R.meld_t_held : Reg := ⟨0xE, 0x1078, 64, 1, 0, 0x0, .die⟩
/-- Field `count` of `meld.t_held` (R378). -/
def F.meld_t_held_count : Fld := ⟨R.meld_t_held, 0, 64⟩
/-- `meld.job_desc` (R377). -/
def R.meld_job_desc : Reg := ⟨0xE, 0x100, 64, 4, 64, 0x0, .mirror⟩
/-- Field `en` of `meld.job_desc` (R377). -/
def F.meld_job_desc_en : Fld := ⟨R.meld_job_desc, 63, 1⟩
/-- Field `base` of `meld.job_desc` (R377). -/
def F.meld_job_desc_base : Fld := ⟨R.meld_job_desc, 8, 44⟩
/-- `meld.job_st` (R377). -/
def R.meld_job_st : Reg := ⟨0xE, 0x108, 32, 4, 64, 0x0, .die⟩
/-- Field `state` of `meld.job_st` (R377). -/
def F.meld_job_st_state : Fld := ⟨R.meld_job_st, 28, 4⟩
/-- Field `held` of `meld.job_st` (R377). -/
def F.meld_job_st_held : Fld := ⟨R.meld_job_st, 24, 1⟩
/-- `meld.job_acc` (R377). -/
def R.meld_job_acc : Reg := ⟨0xE, 0x110, 64, 4, 64, 0x0, .die⟩
/-- Field `trick` of `meld.job_acc` (R377). -/
def F.meld_job_acc_trick : Fld := ⟨R.meld_job_acc, 0, 64⟩
/-- `meld.job_applied` (R377). -/
def R.meld_job_applied : Reg := ⟨0xE, 0x118, 64, 4, 64, 0x0, .die⟩
/-- Field `trick` of `meld.job_applied` (R377). -/
def F.meld_job_applied_trick : Fld := ⟨R.meld_job_applied, 0, 64⟩
/-- `meld.job_tdl` (R377). -/
def R.meld_job_tdl : Reg := ⟨0xE, 0x120, 64, 4, 64, 0x0, .die⟩
/-- Field `tai` of `meld.job_tdl` (R377). -/
def F.meld_job_tdl_tai : Fld := ⟨R.meld_job_tdl, 0, 64⟩
/-- `meld.job_mf` (R377). -/
def R.meld_job_mf : Reg := ⟨0xE, 0x128, 64, 4, 64, 0x0, .die⟩
/-- Field `pa` of `meld.job_mf` (R377). -/
def F.meld_job_mf_pa : Fld := ⟨R.meld_job_mf, 0, 52⟩
/-- `meld.job_r6` (R377). -/
def R.meld_job_r6 : Reg := ⟨0xE, 0x130, 64, 4, 64, 0x0, .die⟩
/-- `meld.job_r7` (R377). -/
def R.meld_job_r7 : Reg := ⟨0xE, 0x138, 64, 4, 64, 0x0, .die⟩

/-! ## Unit `codec`, slot 0x0F -/

/-- `codec.ctl` (R399). -/
def R.codec_ctl : Reg := ⟨0xF, 0x0, 32, 1, 0, 0x0, .die⟩
/-- Field `inval` of `codec.ctl` (R399). -/
def F.codec_ctl_inval : Fld := ⟨R.codec_ctl, 0, 1⟩
/-- `codec.werr` (R399). -/
def R.codec_werr : Reg := ⟨0xF, 0x4, 32, 1, 0, 0x0, .die⟩
/-- Field `count` of `codec.werr` (R399). -/
def F.codec_werr_count : Fld := ⟨R.codec_werr, 0, 32⟩
/-- `codec.derr` (R399). -/
def R.codec_derr : Reg := ⟨0xF, 0x8, 32, 1, 0, 0x0, .die⟩
/-- Field `count` of `codec.derr` (R399). -/
def F.codec_derr_count : Fld := ⟨R.codec_derr, 0, 32⟩
/-- `codec.tally_ovf` (R399). -/
def R.codec_tally_ovf : Reg := ⟨0xF, 0xC, 32, 1, 0, 0x0, .die⟩
/-- Field `ovf` of `codec.tally_ovf` (R399). -/
def F.codec_tally_ovf_ovf : Fld := ⟨R.codec_tally_ovf, 0, 9⟩
/-- `codec.werr_first` (R400). -/
def R.codec_werr_first : Reg := ⟨0xF, 0x10, 64, 1, 0, 0x0, .die⟩
/-- Field `valid` of `codec.werr_first` (R400). -/
def F.codec_werr_first_valid : Fld := ⟨R.codec_werr_first, 63, 1⟩
/-- Field `cause` of `codec.werr_first` (R400). -/
def F.codec_werr_first_cause : Fld := ⟨R.codec_werr_first, 56, 3⟩
/-- Field `window` of `codec.werr_first` (R400). -/
def F.codec_werr_first_window : Fld := ⟨R.codec_werr_first, 48, 4⟩
/-- Field `slot` of `codec.werr_first` (R400). -/
def F.codec_werr_first_slot : Fld := ⟨R.codec_werr_first, 12, 27⟩
/-- `codec.ww` (R401). -/
def R.codec_ww : Reg := ⟨0xF, 0x100, 64, 8, 16, 0x0, .die⟩
/-- Field `en` of `codec.ww` (R401). -/
def F.codec_ww_en : Fld := ⟨R.codec_ww, 63, 1⟩
/-- Field `size` of `codec.ww` (R401). -/
def F.codec_ww_size : Fld := ⟨R.codec_ww, 44, 17⟩
/-- Field `base` of `codec.ww` (R401). -/
def F.codec_ww_base : Fld := ⟨R.codec_ww, 26, 18⟩
/-- `codec.wm` (R401). -/
def R.codec_wm : Reg := ⟨0xF, 0x108, 64, 8, 16, 0x0, .die⟩
/-- Field `base` of `codec.wm` (R401). -/
def F.codec_wm_base : Fld := ⟨R.codec_wm, 8, 44⟩
/-- `codec.t_enc` (R402). -/
def R.codec_t_enc : Reg := ⟨0xF, 0x1000, 64, 1, 0, 0x0, .die⟩
/-- Field `count` of `codec.t_enc` (R402). -/
def F.codec_t_enc_count : Fld := ⟨R.codec_t_enc, 0, 64⟩
/-- `codec.t_dec` (R402). -/
def R.codec_t_dec : Reg := ⟨0xF, 0x1008, 64, 1, 0, 0x0, .die⟩
/-- Field `count` of `codec.t_dec` (R402). -/
def F.codec_t_dec_count : Fld := ⟨R.codec_t_dec, 0, 64⟩
/-- `codec.t_sat` (R402). -/
def R.codec_t_sat : Reg := ⟨0xF, 0x1010, 64, 1, 0, 0x0, .die⟩
/-- Field `count` of `codec.t_sat` (R402). -/
def F.codec_t_sat_count : Fld := ⟨R.codec_t_sat, 0, 64⟩
/-- `codec.t_nonfin` (R402). -/
def R.codec_t_nonfin : Reg := ⟨0xF, 0x1018, 64, 1, 0, 0x0, .die⟩
/-- Field `count` of `codec.t_nonfin` (R402). -/
def F.codec_t_nonfin_count : Fld := ⟨R.codec_t_nonfin, 0, 64⟩
/-- `codec.t_wexp` (R402). -/
def R.codec_t_wexp : Reg := ⟨0xF, 0x1020, 64, 1, 0, 0x0, .die⟩
/-- Field `count` of `codec.t_wexp` (R402). -/
def F.codec_t_wexp_count : Fld := ⟨R.codec_t_wexp, 0, 64⟩
/-- `codec.t_wbuf` (R402). -/
def R.codec_t_wbuf : Reg := ⟨0xF, 0x1028, 64, 1, 0, 0x0, .die⟩
/-- Field `count` of `codec.t_wbuf` (R402). -/
def F.codec_t_wbuf_count : Fld := ⟨R.codec_t_wbuf, 0, 64⟩
/-- `codec.t_wrd` (R402). -/
def R.codec_t_wrd : Reg := ⟨0xF, 0x1030, 64, 1, 0, 0x0, .die⟩
/-- Field `count` of `codec.t_wrd` (R402). -/
def F.codec_t_wrd_count : Fld := ⟨R.codec_t_wrd, 0, 64⟩
/-- `codec.t_wout` (R402). -/
def R.codec_t_wout : Reg := ⟨0xF, 0x1038, 64, 1, 0, 0x0, .die⟩
/-- Field `count` of `codec.t_wout` (R402). -/
def F.codec_t_wout_count : Fld := ⟨R.codec_t_wout, 0, 64⟩
/-- `codec.t_mmiss` (R402). -/
def R.codec_t_mmiss : Reg := ⟨0xF, 0x1040, 64, 1, 0, 0x0, .die⟩
/-- Field `count` of `codec.t_mmiss` (R402). -/
def F.codec_t_mmiss_count : Fld := ⟨R.codec_t_mmiss, 0, 64⟩

/-! ## Unit `wan`, slot 0x10 -/

/-- `wan.ctl` (R438). -/
def R.wan_ctl : Reg := ⟨0x10, 0x0, 32, 1, 0, 0x12, .die⟩
/-- Field `nd` of `wan.ctl` (R438). -/
def F.wan_ctl_nd : Fld := ⟨R.wan_ctl, 4, 1⟩
/-- Field `v4` of `wan.ctl` (R438). -/
def F.wan_ctl_v4 : Fld := ⟨R.wan_ctl, 3, 1⟩
/-- Field `vlan` of `wan.ctl` (R438). -/
def F.wan_ctl_vlan : Fld := ⟨R.wan_ctl, 2, 1⟩
/-- Field `auto` of `wan.ctl` (R438). -/
def F.wan_ctl_auto : Fld := ⟨R.wan_ctl, 1, 1⟩
/-- Field `en` of `wan.ctl` (R438). -/
def F.wan_ctl_en : Fld := ⟨R.wan_ctl, 0, 1⟩
/-- `wan.stat` (R438). -/
def R.wan_stat : Reg := ⟨0x10, 0x4, 32, 1, 0, 0x0, .die⟩
/-- Field `state` of `wan.stat` (R438). -/
def F.wan_stat_state : Fld := ⟨R.wan_stat, 28, 4⟩
/-- Field `lanes` of `wan.stat` (R438). -/
def F.wan_stat_lanes : Fld := ⟨R.wan_stat, 20, 8⟩
/-- `wan.mac` (R439). -/
def R.wan_mac : Reg := ⟨0x10, 0x8, 64, 1, 0, 0x0, .die⟩
/-- Field `mac` of `wan.mac` (R439). -/
def F.wan_mac_mac : Fld := ⟨R.wan_mac, 0, 48⟩
/-- `wan.nh` (R439). -/
def R.wan_nh : Reg := ⟨0x10, 0x10, 64, 1, 0, 0x0, .die⟩
/-- Field `mac` of `wan.nh` (R439). -/
def F.wan_nh_mac : Fld := ⟨R.wan_nh, 0, 48⟩
/-- `wan.ip6_hi` (R439). -/
def R.wan_ip6_hi : Reg := ⟨0x10, 0x18, 64, 1, 0, 0x0, .die⟩
/-- Field `hi` of `wan.ip6_hi` (R439). -/
def F.wan_ip6_hi_hi : Fld := ⟨R.wan_ip6_hi, 0, 64⟩
/-- `wan.ip6_lo` (R439). -/
def R.wan_ip6_lo : Reg := ⟨0x10, 0x20, 64, 1, 0, 0x0, .die⟩
/-- Field `lo` of `wan.ip6_lo` (R439). -/
def F.wan_ip6_lo_lo : Fld := ⟨R.wan_ip6_lo, 0, 64⟩
/-- `wan.ip4` (R439). -/
def R.wan_ip4 : Reg := ⟨0x10, 0x28, 32, 1, 0, 0x0, .die⟩
/-- Field `addr` of `wan.ip4` (R439). -/
def F.wan_ip4_addr : Fld := ⟨R.wan_ip4, 0, 32⟩
/-- `wan.udp` (R439). -/
def R.wan_udp : Reg := ⟨0x10, 0x2C, 32, 1, 0, 0xB7F8B7F8, .die⟩
/-- Field `dport` of `wan.udp` (R439). -/
def F.wan_udp_dport : Fld := ⟨R.wan_udp, 16, 16⟩
/-- Field `sport` of `wan.udp` (R439). -/
def F.wan_udp_sport : Fld := ⟨R.wan_udp, 0, 16⟩
/-- `wan.ipo` (R440). -/
def R.wan_ipo : Reg := ⟨0x10, 0x30, 32, 1, 0, 0x40BAE280, .die⟩
/-- Field `hop` of `wan.ipo` (R440). -/
def F.wan_ipo_hop : Fld := ⟨R.wan_ipo, 24, 8⟩
/-- Field `dscp_ptp` of `wan.ipo` (R440). -/
def F.wan_ipo_dscp_ptp : Fld := ⟨R.wan_ipo, 18, 6⟩
/-- Field `dscp_ctl` of `wan.ipo` (R440). -/
def F.wan_ipo_dscp_ctl : Fld := ⟨R.wan_ipo, 12, 6⟩
/-- Field `dscp_bulk` of `wan.ipo` (R440). -/
def F.wan_ipo_dscp_bulk : Fld := ⟨R.wan_ipo, 6, 6⟩
/-- `wan.vlan` (R440). -/
def R.wan_vlan : Reg := ⟨0x10, 0x34, 32, 1, 0, 0x1F1001, .die⟩
/-- Field `pcp_ptp` of `wan.vlan` (R440). -/
def F.wan_vlan_pcp_ptp : Fld := ⟨R.wan_vlan, 18, 3⟩
/-- Field `pcp_ctl` of `wan.vlan` (R440). -/
def F.wan_vlan_pcp_ctl : Fld := ⟨R.wan_vlan, 15, 3⟩
/-- Field `pcp_bulk` of `wan.vlan` (R440). -/
def F.wan_vlan_pcp_bulk : Fld := ⟨R.wan_vlan, 12, 3⟩
/-- Field `vid` of `wan.vlan` (R440). -/
def F.wan_vlan_vid : Fld := ⟨R.wan_vlan, 0, 12⟩
/-- `wan.alt` (R440). -/
def R.wan_alt : Reg := ⟨0x10, 0x38, 32, 1, 0, 0x0, .die⟩
/-- Field `en` of `wan.alt` (R440). -/
def F.wan_alt_en : Fld := ⟨R.wan_alt, 31, 1⟩
/-- Field `alt` of `wan.alt` (R440). -/
def F.wan_alt_alt : Fld := ⟨R.wan_alt, 0, 14⟩
/-- `wan.rep` (R441). -/
def R.wan_rep : Reg := ⟨0x10, 0x40, 32, 1, 0, 0x30141F4, .die⟩
/-- Field `max` of `wan.rep` (R441). -/
def F.wan_rep_max : Fld := ⟨R.wan_rep, 24, 8⟩
/-- Field `ivl` of `wan.rep` (R441). -/
def F.wan_rep_ivl : Fld := ⟨R.wan_rep, 12, 12⟩
/-- Field `margin` of `wan.rep` (R441). -/
def F.wan_rep_margin : Fld := ⟨R.wan_rep, 0, 12⟩
/-- `wan.repw` (R441). -/
def R.wan_repw : Reg := ⟨0x10, 0x44, 32, 1, 0, 0x13880064, .die⟩
/-- Field `win` of `wan.repw` (R441). -/
def F.wan_repw_win : Fld := ⟨R.wan_repw, 16, 16⟩
/-- Field `sum` of `wan.repw` (R441). -/
def F.wan_repw_sum : Fld := ⟨R.wan_repw, 0, 16⟩
/-- `wan.crto` (R441). -/
def R.wan_crto : Reg := ⟨0x10, 0x48, 32, 1, 0, 0xA8007D0, .die⟩
/-- Field `cage` of `wan.crto` (R441). -/
def F.wan_crto_cage : Fld := ⟨R.wan_crto, 24, 8⟩
/-- Field `cmax` of `wan.crto` (R441). -/
def F.wan_crto_cmax : Fld := ⟨R.wan_crto, 20, 4⟩
/-- Field `rto` of `wan.crto` (R441). -/
def F.wan_crto_rto : Fld := ⟨R.wan_crto, 0, 20⟩
/-- `wan.drop` (R442). -/
def R.wan_drop : Reg := ⟨0x10, 0x50, 32, 1, 0, 0x0, .die⟩
/-- Field `count` of `wan.drop` (R442). -/
def F.wan_drop_count : Fld := ⟨R.wan_drop, 0, 32⟩
/-- `wan.tally_ovf` (R442). -/
def R.wan_tally_ovf : Reg := ⟨0x10, 0x54, 32, 1, 0, 0x0, .die⟩
/-- Field `ovf` of `wan.tally_ovf` (R442). -/
def F.wan_tally_ovf_ovf : Fld := ⟨R.wan_tally_ovf, 0, 16⟩
/-- `wan.ff` (R442). -/
def R.wan_ff : Reg := ⟨0x10, 0x58, 64, 1, 0, 0x0, .die⟩
/-- Field `valid` of `wan.ff` (R442). -/
def F.wan_ff_valid : Fld := ⟨R.wan_ff, 63, 1⟩
/-- Field `cause` of `wan.ff` (R442). -/
def F.wan_ff_cause : Fld := ⟨R.wan_ff, 4, 2⟩
/-- Field `state` of `wan.ff` (R442). -/
def F.wan_ff_state : Fld := ⟨R.wan_ff, 0, 4⟩
/-- `wan.rst_base` (R443). -/
def R.wan_rst_base : Reg := ⟨0x10, 0x80, 64, 4, 16, 0x0, .die⟩
/-- Field `en` of `wan.rst_base` (R443). -/
def F.wan_rst_base_en : Fld := ⟨R.wan_rst_base, 63, 1⟩
/-- Field `base` of `wan.rst_base` (R443). -/
def F.wan_rst_base_base : Fld := ⟨R.wan_rst_base, 8, 44⟩
/-- `wan.rst_geo` (R443). -/
def R.wan_rst_geo : Reg := ⟨0x10, 0x88, 64, 4, 16, 0x0, .die⟩
/-- Field `size` of `wan.rst_geo` (R443). -/
def F.wan_rst_geo_size : Fld := ⟨R.wan_rst_geo, 32, 32⟩
/-- Field `fmax` of `wan.rst_geo` (R443). -/
def F.wan_rst_geo_fmax : Fld := ⟨R.wan_rst_geo, 0, 16⟩
/-- `wan.t_tx` (R444). -/
def R.wan_t_tx : Reg := ⟨0x10, 0x1000, 64, 1, 0, 0x0, .die⟩
/-- Field `count` of `wan.t_tx` (R444). -/
def F.wan_t_tx_count : Fld := ⟨R.wan_t_tx, 0, 64⟩
/-- `wan.t_rx` (R444). -/
def R.wan_t_rx : Reg := ⟨0x10, 0x1008, 64, 1, 0, 0x0, .die⟩
/-- Field `count` of `wan.t_rx` (R444). -/
def F.wan_t_rx_count : Fld := ⟨R.wan_t_rx, 0, 64⟩
/-- `wan.t_txb` (R444). -/
def R.wan_t_txb : Reg := ⟨0x10, 0x1010, 64, 1, 0, 0x0, .die⟩
/-- Field `count` of `wan.t_txb` (R444). -/
def F.wan_t_txb_count : Fld := ⟨R.wan_t_txb, 0, 64⟩
/-- `wan.t_rxb` (R444). -/
def R.wan_t_rxb : Reg := ⟨0x10, 0x1018, 64, 1, 0, 0x0, .die⟩
/-- Field `count` of `wan.t_rxb` (R444). -/
def F.wan_t_rxb_count : Fld := ⟨R.wan_t_rxb, 0, 64⟩
/-- `wan.t_dext` (R444). -/
def R.wan_t_dext : Reg := ⟨0x10, 0x1020, 64, 1, 0, 0x0, .die⟩
/-- Field `count` of `wan.t_dext` (R444). -/
def F.wan_t_dext_count : Fld := ⟨R.wan_t_dext, 0, 64⟩
/-- `wan.t_dfmt` (R444). -/
def R.wan_t_dfmt : Reg := ⟨0x10, 0x1028, 64, 1, 0, 0x0, .die⟩
/-- Field `count` of `wan.t_dfmt` (R444). -/
def F.wan_t_dfmt_count : Fld := ⟨R.wan_t_dfmt, 0, 64⟩
/-- `wan.t_pskip` (R444). -/
def R.wan_t_pskip : Reg := ⟨0x10, 0x1030, 64, 1, 0, 0x0, .die⟩
/-- Field `count` of `wan.t_pskip` (R444). -/
def F.wan_t_pskip_count : Fld := ⟨R.wan_t_pskip, 0, 64⟩
/-- `wan.t_hold` (R444). -/
def R.wan_t_hold : Reg := ⟨0x10, 0x1038, 64, 1, 0, 0x0, .die⟩
/-- Field `count` of `wan.t_hold` (R444). -/
def F.wan_t_hold_count : Fld := ⟨R.wan_t_hold, 0, 64⟩
/-- `wan.t_rrt` (R444). -/
def R.wan_t_rrt : Reg := ⟨0x10, 0x1040, 64, 1, 0, 0x0, .die⟩
/-- Field `count` of `wan.t_rrt` (R444). -/
def F.wan_t_rrt_count : Fld := ⟨R.wan_t_rrt, 0, 64⟩
/-- `wan.t_hdrop` (R444). -/
def R.wan_t_hdrop : Reg := ⟨0x10, 0x1048, 64, 1, 0, 0x0, .die⟩
/-- Field `count` of `wan.t_hdrop` (R444). -/
def F.wan_t_hdrop_count : Fld := ⟨R.wan_t_hdrop, 0, 64⟩
/-- `wan.t_nack` (R444). -/
def R.wan_t_nack : Reg := ⟨0x10, 0x1050, 64, 1, 0, 0x0, .die⟩
/-- Field `count` of `wan.t_nack` (R444). -/
def F.wan_t_nack_count : Fld := ⟨R.wan_t_nack, 0, 64⟩
/-- `wan.t_rep` (R444). -/
def R.wan_t_rep : Reg := ⟨0x10, 0x1058, 64, 1, 0, 0x0, .die⟩
/-- Field `count` of `wan.t_rep` (R444). -/
def F.wan_t_rep_count : Fld := ⟨R.wan_t_rep, 0, 64⟩
/-- `wan.t_replate` (R444). -/
def R.wan_t_replate : Reg := ⟨0x10, 0x1060, 64, 1, 0, 0x0, .die⟩
/-- Field `count` of `wan.t_replate` (R444). -/
def F.wan_t_replate_count : Fld := ⟨R.wan_t_replate, 0, 64⟩
/-- `wan.t_nost` (R444). -/
def R.wan_t_nost : Reg := ⟨0x10, 0x1068, 64, 1, 0, 0x0, .die⟩
/-- Field `count` of `wan.t_nost` (R444). -/
def F.wan_t_nost_count : Fld := ⟨R.wan_t_nost, 0, 64⟩
/-- `wan.t_crtx` (R444). -/
def R.wan_t_crtx : Reg := ⟨0x10, 0x1070, 64, 1, 0, 0x0, .die⟩
/-- Field `count` of `wan.t_crtx` (R444). -/
def F.wan_t_crtx_count : Fld := ⟨R.wan_t_crtx, 0, 64⟩
/-- `wan.t_cdrop` (R444). -/
def R.wan_t_cdrop : Reg := ⟨0x10, 0x1078, 64, 1, 0, 0x0, .die⟩
/-- Field `count` of `wan.t_cdrop` (R444). -/
def F.wan_t_cdrop_count : Fld := ⟨R.wan_t_cdrop, 0, 64⟩

/-! ## Unit `cip`, slot 0x11 -/

/-- `cip.ctl` (R445). -/
def R.cip_ctl : Reg := ⟨0x11, 0x0, 32, 1, 0, 0x0, .die⟩
/-- Field `en` of `cip.ctl` (R445). -/
def F.cip_ctl_en : Fld := ⟨R.cip_ctl, 0, 1⟩
/-- `cip.ld` (R445). -/
def R.cip_ld : Reg := ⟨0x11, 0x8, 64, 1, 0, 0x0, .die⟩
/-- Field `go` of `cip.ld` (R445). -/
def F.cip_ld_go : Fld := ⟨R.cip_ld, 63, 1⟩
/-- Field `busy` of `cip.ld` (R445). -/
def F.cip_ld_busy : Fld := ⟨R.cip_ld, 62, 1⟩
/-- Field `fail` of `cip.ld` (R445). -/
def F.cip_ld_fail : Fld := ⟨R.cip_ld, 61, 1⟩
/-- Field `pair` of `cip.ld` (R445). -/
def F.cip_ld_pair : Fld := ⟨R.cip_ld, 40, 6⟩
/-- Field `gen` of `cip.ld` (R445). -/
def F.cip_ld_gen : Fld := ⟨R.cip_ld, 32, 8⟩
/-- Field `e0` of `cip.ld` (R445). -/
def F.cip_ld_e0 : Fld := ⟨R.cip_ld, 0, 32⟩
/-- `cip.ld_elim` (R445). -/
def R.cip_ld_elim : Reg := ⟨0x11, 0x10, 32, 1, 0, 0xFFFFFFFF, .die⟩
/-- Field `elim` of `cip.ld_elim` (R445). -/
def F.cip_ld_elim_elim : Fld := ⟨R.cip_ld_elim, 0, 32⟩
/-- `cip.tally_ovf` (R445). -/
def R.cip_tally_ovf : Reg := ⟨0x11, 0x14, 32, 1, 0, 0x0, .die⟩
/-- Field `ovf` of `cip.tally_ovf` (R445). -/
def F.cip_tally_ovf_ovf : Fld := ⟨R.cip_tally_ovf, 0, 9⟩
/-- `cip.t_seal` (R448). -/
def R.cip_t_seal : Reg := ⟨0x11, 0x2000, 64, 1, 0, 0x0, .die⟩
/-- Field `count` of `cip.t_seal` (R448). -/
def F.cip_t_seal_count : Fld := ⟨R.cip_t_seal, 0, 64⟩
/-- `cip.t_open` (R448). -/
def R.cip_t_open : Reg := ⟨0x11, 0x2008, 64, 1, 0, 0x0, .die⟩
/-- Field `count` of `cip.t_open` (R448). -/
def F.cip_t_open_count : Fld := ⟨R.cip_t_open, 0, 64⟩
/-- `cip.t_authfail` (R448). -/
def R.cip_t_authfail : Reg := ⟨0x11, 0x2010, 64, 1, 0, 0x0, .die⟩
/-- Field `count` of `cip.t_authfail` (R448). -/
def F.cip_t_authfail_count : Fld := ⟨R.cip_t_authfail, 0, 64⟩
/-- `cip.t_roll` (R448). -/
def R.cip_t_roll : Reg := ⟨0x11, 0x2018, 64, 1, 0, 0x0, .die⟩
/-- Field `count` of `cip.t_roll` (R448). -/
def F.cip_t_roll_count : Fld := ⟨R.cip_t_roll, 0, 64⟩
/-- `cip.t_derive` (R448). -/
def R.cip_t_derive : Reg := ⟨0x11, 0x2020, 64, 1, 0, 0x0, .die⟩
/-- Field `count` of `cip.t_derive` (R448). -/
def F.cip_t_derive_count : Fld := ⟨R.cip_t_derive, 0, 64⟩
/-- `cip.t_miss` (R448). -/
def R.cip_t_miss : Reg := ⟨0x11, 0x2028, 64, 1, 0, 0x0, .die⟩
/-- Field `count` of `cip.t_miss` (R448). -/
def F.cip_t_miss_count : Fld := ⟨R.cip_t_miss, 0, 64⟩
/-- `cip.t_mdrop` (R448). -/
def R.cip_t_mdrop : Reg := ⟨0x11, 0x2030, 64, 1, 0, 0x0, .die⟩
/-- Field `count` of `cip.t_mdrop` (R448). -/
def F.cip_t_mdrop_count : Fld := ⟨R.cip_t_mdrop, 0, 64⟩
/-- `cip.t_susp` (R448). -/
def R.cip_t_susp : Reg := ⟨0x11, 0x2038, 64, 1, 0, 0x0, .die⟩
/-- Field `count` of `cip.t_susp` (R448). -/
def F.cip_t_susp_count : Fld := ⟨R.cip_t_susp, 0, 64⟩
/-- `cip.t_ewin` (R448). -/
def R.cip_t_ewin : Reg := ⟨0x11, 0x2040, 64, 1, 0, 0x0, .die⟩
/-- Field `count` of `cip.t_ewin` (R448). -/
def F.cip_t_ewin_count : Fld := ⟨R.cip_t_ewin, 0, 64⟩
/-- `cip.wrap` (R446). -/
def R.cip_wrap : Reg := ⟨0x11, 0x20, 64, 5, 8, 0x0, .die⟩
/-- Field `w` of `cip.wrap` (R446). -/
def F.cip_wrap_w : Fld := ⟨R.cip_wrap, 0, 64⟩
/-- `cip.pair_ctl` (R447). -/
def R.cip_pair_ctl : Reg := ⟨0x11, 0x1000, 32, 64, 32, 0x0, .die⟩
/-- Field `roll` of `cip.pair_ctl` (R447). -/
def F.cip_pair_ctl_roll : Fld := ⟨R.cip_pair_ctl, 31, 1⟩
/-- Field `use` of `cip.pair_ctl` (R447). -/
def F.cip_pair_ctl_use : Fld := ⟨R.cip_pair_ctl, 30, 1⟩
/-- Field `dropold` of `cip.pair_ctl` (R447). -/
def F.cip_pair_ctl_dropold : Fld := ⟨R.cip_pair_ctl, 29, 1⟩
/-- Field `ugen` of `cip.pair_ctl` (R447). -/
def F.cip_pair_ctl_ugen : Fld := ⟨R.cip_pair_ctl, 8, 8⟩
/-- `cip.pair_stat` (R447). -/
def R.cip_pair_stat : Reg := ⟨0x11, 0x1004, 32, 64, 32, 0x0, .die⟩
/-- Field `state` of `cip.pair_stat` (R447). -/
def F.cip_pair_stat_state : Fld := ⟨R.cip_pair_stat, 28, 4⟩
/-- Field `va` of `cip.pair_stat` (R447). -/
def F.cip_pair_stat_va : Fld := ⟨R.cip_pair_stat, 27, 1⟩
/-- Field `vb` of `cip.pair_stat` (R447). -/
def F.cip_pair_stat_vb : Fld := ⟨R.cip_pair_stat, 26, 1⟩
/-- Field `txgen` of `cip.pair_stat` (R447). -/
def F.cip_pair_stat_txgen : Fld := ⟨R.cip_pair_stat, 16, 8⟩
/-- Field `gena` of `cip.pair_stat` (R447). -/
def F.cip_pair_stat_gena : Fld := ⟨R.cip_pair_stat, 8, 8⟩
/-- Field `genb` of `cip.pair_stat` (R447). -/
def F.cip_pair_stat_genb : Fld := ⟨R.cip_pair_stat, 0, 8⟩
/-- `cip.pair_epoch` (R447). -/
def R.cip_pair_epoch : Reg := ⟨0x11, 0x1008, 32, 64, 32, 0x0, .die⟩
/-- Field `epoch` of `cip.pair_epoch` (R447). -/
def F.cip_pair_epoch_epoch : Fld := ⟨R.cip_pair_epoch, 0, 32⟩
/-- `cip.pair_count` (R447). -/
def R.cip_pair_count : Reg := ⟨0x11, 0x100C, 32, 64, 32, 0x0, .die⟩
/-- Field `count` of `cip.pair_count` (R447). -/
def F.cip_pair_count_count : Fld := ⟨R.cip_pair_count, 0, 29⟩
/-- `cip.pair_pn` (R447). -/
def R.cip_pair_pn : Reg := ⟨0x11, 0x1010, 64, 64, 32, 0x0, .die⟩
/-- Field `pn` of `cip.pair_pn` (R447). -/
def F.cip_pair_pn_pn : Fld := ⟨R.cip_pair_pn, 0, 64⟩
/-- `cip.pair_sess` (R447). -/
def R.cip_pair_sess : Reg := ⟨0x11, 0x1018, 64, 64, 32, 0xFFFFFFFF, .die⟩
/-- Field `sess` of `cip.pair_sess` (R447). -/
def F.cip_pair_sess_sess : Fld := ⟨R.cip_pair_sess, 32, 32⟩
/-- Field `elim` of `cip.pair_sess` (R447). -/
def F.cip_pair_sess_elim : Fld := ⟨R.cip_pair_sess, 0, 32⟩

/-! ## Unit `time`, slot 0x12 -/

/-- `time.ctl` (R469). -/
def R.time_ctl : Reg := ⟨0x12, 0x0, 32, 1, 0, 0x80141400, .pkg⟩
/-- Field `en` of `time.ctl` (R469). -/
def F.time_ctl_en : Fld := ⟨R.time_ctl, 31, 1⟩
/-- Field `slew` of `time.ctl` (R469). -/
def F.time_ctl_slew : Fld := ⟨R.time_ctl, 16, 8⟩
/-- Field `sel` of `time.ctl` (R469). -/
def F.time_ctl_sel : Fld := ⟨R.time_ctl, 0, 16⟩
/-- `time.stat` (R469). -/
def R.time_stat : Reg := ⟨0x12, 0x4, 32, 1, 0, 0xC00000, .pkg⟩
/-- Field `state` of `time.stat` (R469). -/
def F.time_stat_state : Fld := ⟨R.time_stat, 28, 4⟩
/-- Field `src` of `time.stat` (R469). -/
def F.time_stat_src : Fld := ⟨R.time_stat, 24, 4⟩
/-- Field `quality` of `time.stat` (R469). -/
def F.time_stat_quality : Fld := ⟨R.time_stat, 22, 2⟩
/-- Field `dist` of `time.stat` (R469). -/
def F.time_stat_dist : Fld := ⟨R.time_stat, 16, 6⟩
/-- Field `ref10` of `time.stat` (R469). -/
def F.time_stat_ref10 : Fld := ⟨R.time_stat, 5, 1⟩
/-- Field `qual` of `time.stat` (R469). -/
def F.time_stat_qual : Fld := ⟨R.time_stat, 1, 4⟩
/-- Field `master` of `time.stat` (R469). -/
def F.time_stat_master : Fld := ⟨R.time_stat, 0, 1⟩
/-- `time.now` (R470). -/
def R.time_now : Reg := ⟨0x12, 0x8, 64, 1, 0, 0x0, .pkg⟩
/-- Field `tai` of `time.now` (R470). -/
def F.time_now_tai : Fld := ⟨R.time_now, 0, 64⟩
/-- `time.adj` (R470). -/
def R.time_adj : Reg := ⟨0x12, 0x10, 32, 1, 0, 0x0, .pkg⟩
/-- Field `adj` of `time.adj` (R470). -/
def F.time_adj_adj : Fld := ⟨R.time_adj, 0, 32⟩
/-- `time.offs` (R470). -/
def R.time_offs : Reg := ⟨0x12, 0x14, 32, 1, 0, 0x0, .pkg⟩
/-- Field `e` of `time.offs` (R470). -/
def F.time_offs_e : Fld := ⟨R.time_offs, 0, 32⟩
/-- `time.step` (R470). -/
def R.time_step : Reg := ⟨0x12, 0x18, 64, 1, 0, 0x0, .pkg⟩
/-- Field `delta` of `time.step` (R470). -/
def F.time_step_delta : Fld := ⟨R.time_step, 0, 64⟩
/-- `time.utc` (R471). -/
def R.time_utc : Reg := ⟨0x12, 0x20, 32, 1, 0, 0x1025, .pkg⟩
/-- Field `zda_next` of `time.utc` (R471). -/
def F.time_utc_zda_next : Fld := ⟨R.time_utc, 15, 1⟩
/-- Field `baud` of `time.utc` (R471). -/
def F.time_utc_baud : Fld := ⟨R.time_utc, 12, 3⟩
/-- Field `off` of `time.utc` (R471). -/
def F.time_utc_off : Fld := ⟨R.time_utc, 0, 8⟩
/-- `time.lock` (R471). -/
def R.time_lock : Reg := ⟨0x12, 0x24, 32, 1, 0, 0x640010, .pkg⟩
/-- Field `th` of `time.lock` (R471). -/
def F.time_lock_th : Fld := ⟨R.time_lock, 16, 16⟩
/-- Field `n` of `time.lock` (R471). -/
def F.time_lock_n : Fld := ⟨R.time_lock, 0, 8⟩
/-- `time.hold` (R471). -/
def R.time_hold : Reg := ⟨0x12, 0x28, 32, 1, 0, 0x18, .pkg⟩
/-- Field `max` of `time.hold` (R471). -/
def F.time_hold_max : Fld := ⟨R.time_hold, 0, 16⟩
/-- `time.ptp` (R471). -/
def R.time_ptp : Reg := ⟨0x12, 0x30, 32, 1, 0, 0x0, .pkg⟩
/-- Field `domain` of `time.ptp` (R471). -/
def F.time_ptp_domain : Fld := ⟨R.time_ptp, 8, 8⟩
/-- Field `en` of `time.ptp` (R471). -/
def F.time_ptp_en : Fld := ⟨R.time_ptp, 0, 2⟩
/-- `time.ptp_gm` (R472). -/
def R.time_ptp_gm : Reg := ⟨0x12, 0x38, 64, 1, 0, 0x0, .pkg⟩
/-- Field `id` of `time.ptp_gm` (R472). -/
def F.time_ptp_gm_id : Fld := ⟨R.time_ptp_gm, 0, 64⟩
/-- `time.ff` (R472). -/
def R.time_ff : Reg := ⟨0x12, 0x40, 64, 1, 0, 0x0, .pkg⟩
/-- Field `valid` of `time.ff` (R472). -/
def F.time_ff_valid : Fld := ⟨R.time_ff, 63, 1⟩
/-- Field `src` of `time.ff` (R472). -/
def F.time_ff_src : Fld := ⟨R.time_ff, 8, 4⟩
/-- Field `cause` of `time.ff` (R472). -/
def F.time_ff_cause : Fld := ⟨R.time_ff, 0, 4⟩
/-- `time.tally_ovf` (R472). -/
def R.time_tally_ovf : Reg := ⟨0x12, 0x48, 32, 1, 0, 0x0, .pkg⟩
/-- Field `ovf` of `time.tally_ovf` (R472). -/
def F.time_tally_ovf_ovf : Fld := ⟨R.time_tally_ovf, 0, 6⟩
/-- `time.ldly` (R473). -/
def R.time_ldly : Reg := ⟨0x12, 0x100, 32, 36, 4, 0x0, .pkg⟩
/-- Field `valid` of `time.ldly` (R473). -/
def F.time_ldly_valid : Fld := ⟨R.time_ldly, 31, 1⟩
/-- Field `dly` of `time.ldly` (R473). -/
def F.time_ldly_dly : Fld := ⟨R.time_ldly, 0, 16⟩
/-- `time.t_pps` (R474). -/
def R.time_t_pps : Reg := ⟨0x12, 0x1000, 64, 1, 0, 0x0, .pkg⟩
/-- Field `count` of `time.t_pps` (R474). -/
def F.time_t_pps_count : Fld := ⟨R.time_t_pps, 0, 64⟩
/-- `time.t_zda` (R474). -/
def R.time_t_zda : Reg := ⟨0x12, 0x1008, 64, 1, 0, 0x0, .pkg⟩
/-- Field `count` of `time.t_zda` (R474). -/
def F.time_t_zda_count : Fld := ⟨R.time_t_zda, 0, 64⟩
/-- `time.t_zbad` (R474). -/
def R.time_t_zbad : Reg := ⟨0x12, 0x1010, 64, 1, 0, 0x0, .pkg⟩
/-- Field `count` of `time.t_zbad` (R474). -/
def F.time_t_zbad_count : Fld := ⟨R.time_t_zbad, 0, 64⟩
/-- `time.t_sync` (R474). -/
def R.time_t_sync : Reg := ⟨0x12, 0x1018, 64, 1, 0, 0x0, .pkg⟩
/-- Field `count` of `time.t_sync` (R474). -/
def F.time_t_sync_count : Fld := ⟨R.time_t_sync, 0, 64⟩
/-- `time.t_hb` (R474). -/
def R.time_t_hb : Reg := ⟨0x12, 0x1020, 64, 1, 0, 0x0, .pkg⟩
/-- Field `count` of `time.t_hb` (R474). -/
def F.time_t_hb_count : Fld := ⟨R.time_t_hb, 0, 64⟩
/-- `time.t_slew` (R474). -/
def R.time_t_slew : Reg := ⟨0x12, 0x1028, 64, 1, 0, 0x0, .pkg⟩
/-- Field `count` of `time.t_slew` (R474). -/
def F.time_t_slew_count : Fld := ⟨R.time_t_slew, 0, 64⟩

/-! ## Unit `det`, slot 0x13 -/

/-- `det.ctl` (R499). -/
def R.det_ctl : Reg := ⟨0x13, 0x0, 32, 1, 0, 0x0, .pkg⟩
/-- Field `rp` of `det.ctl` (R499). -/
def F.det_ctl_rp : Fld := ⟨R.det_ctl, 2, 1⟩
/-- Field `dg` of `det.ctl` (R499). -/
def F.det_ctl_dg : Fld := ⟨R.det_ctl, 1, 1⟩
/-- Field `strict` of `det.ctl` (R499). -/
def F.det_ctl_strict : Fld := ⟨R.det_ctl, 0, 1⟩
/-- `det.stat` (R499). -/
def R.det_stat : Reg := ⟨0x13, 0x4, 32, 1, 0, 0x1, .pkg⟩
/-- Field `tw` of `det.stat` (R499). -/
def F.det_stat_tw : Fld := ⟨R.det_stat, 1, 2⟩
/-- Field `settled` of `det.stat` (R499). -/
def F.det_stat_settled : Fld := ⟨R.det_stat, 0, 1⟩
/-- `det.tw` (R500). -/
def R.det_tw : Reg := ⟨0x13, 0x8, 64, 1, 0, 0x10, .pkg⟩
/-- Field `mode` of `det.tw` (R500). -/
def F.det_tw_mode : Fld := ⟨R.det_tw, 62, 2⟩
/-- Field `peer` of `det.tw` (R500). -/
def F.det_tw_peer : Fld := ⟨R.det_tw, 46, 14⟩
/-- Field `ctx_b` of `det.tw` (R500). -/
def F.det_tw_ctx_b : Fld := ⟨R.det_tw, 34, 12⟩
/-- Field `ctx_a` of `det.tw` (R500). -/
def F.det_tw_ctx_a : Fld := ⟨R.det_tw, 22, 12⟩
/-- Field `rmask` of `det.tw` (R500). -/
def F.det_tw_rmask : Fld := ⟨R.det_tw, 6, 16⟩
/-- Field `lag` of `det.tw` (R500). -/
def F.det_tw_lag : Fld := ⟨R.det_tw, 0, 6⟩
/-- `det.tw_tmo` (R500). -/
def R.det_tw_tmo : Reg := ⟨0x13, 0x10, 32, 1, 0, 0x3E8, .pkg⟩
/-- Field `us` of `det.tw_tmo` (R500). -/
def F.det_tw_tmo_us : Fld := ⟨R.det_tw_tmo, 0, 32⟩
/-- `det.tw_buf` (R500). -/
def R.det_tw_buf : Reg := ⟨0x13, 0x18, 64, 1, 0, 0x0, .pkg⟩
/-- Field `pa` of `det.tw_buf` (R500). -/
def F.det_tw_buf_pa : Fld := ⟨R.det_tw_buf, 8, 44⟩
/-- `det.tw_pbuf` (R500). -/
def R.det_tw_pbuf : Reg := ⟨0x13, 0x20, 64, 1, 0, 0x0, .pkg⟩
/-- Field `pa` of `det.tw_pbuf` (R500). -/
def F.det_tw_pbuf_pa : Fld := ⟨R.det_tw_pbuf, 8, 44⟩
/-- `det.tw_mm` (R500). -/
def R.det_tw_mm : Reg := ⟨0x13, 0x28, 64, 1, 0, 0x0, .pkg⟩
/-- Field `valid` of `det.tw_mm` (R500). -/
def F.det_tw_mm_valid : Fld := ⟨R.det_tw_mm, 63, 1⟩
/-- Field `cause` of `det.tw_mm` (R500). -/
def F.det_tw_mm_cause : Fld := ⟨R.det_tw_mm, 61, 2⟩
/-- Field `region` of `det.tw_mm` (R500). -/
def F.det_tw_mm_region : Fld := ⟨R.det_tw_mm, 52, 4⟩
/-- Field `item` of `det.tw_mm` (R500). -/
def F.det_tw_mm_item : Fld := ⟨R.det_tw_mm, 32, 20⟩
/-- Field `seq` of `det.tw_mm` (R500). -/
def F.det_tw_mm_seq : Fld := ⟨R.det_tw_mm, 0, 32⟩
/-- `det.lost` (R501). -/
def R.det_lost : Reg := ⟨0x13, 0x14, 32, 1, 0, 0x0, .pkg⟩
/-- Field `count` of `det.lost` (R501). -/
def F.det_lost_count : Fld := ⟨R.det_lost, 0, 32⟩
/-- `det.tally_ovf` (R501). -/
def R.det_tally_ovf : Reg := ⟨0x13, 0x30, 32, 1, 0, 0x0, .pkg⟩
/-- Field `ovf` of `det.tally_ovf` (R501). -/
def F.det_tally_ovf_ovf : Fld := ⟨R.det_tally_ovf, 0, 5⟩
/-- `det.dr` (R502). -/
def R.det_dr : Reg := ⟨0x13, 0x100, 64, 16, 16, 0x0, .pkg⟩
/-- Field `en` of `det.dr` (R502). -/
def F.det_dr_en : Fld := ⟨R.det_dr, 63, 1⟩
/-- Field `size` of `det.dr` (R502). -/
def F.det_dr_size : Fld := ⟨R.det_dr, 48, 15⟩
/-- Field `base` of `det.dr` (R502). -/
def F.det_dr_base : Fld := ⟨R.det_dr, 4, 40⟩
/-- `det.tr` (R502). -/
def R.det_tr : Reg := ⟨0x13, 0x200, 64, 16, 16, 0x0, .pkg⟩
/-- Field `en` of `det.tr` (R502). -/
def F.det_tr_en : Fld := ⟨R.det_tr, 63, 1⟩
/-- Field `size` of `det.tr` (R502). -/
def F.det_tr_size : Fld := ⟨R.det_tr, 48, 15⟩
/-- Field `base` of `det.tr` (R502). -/
def F.det_tr_base : Fld := ⟨R.det_tr, 4, 40⟩
/-- `det.dr_ptr` (R502). -/
def R.det_dr_ptr : Reg := ⟨0x13, 0x108, 64, 16, 16, 0x0, .pkg⟩
/-- Field `head` of `det.dr_ptr` (R502). -/
def F.det_dr_ptr_head : Fld := ⟨R.det_dr_ptr, 32, 32⟩
/-- Field `tail` of `det.dr_ptr` (R502). -/
def F.det_dr_ptr_tail : Fld := ⟨R.det_dr_ptr, 0, 32⟩
/-- `det.tr_ptr` (R502). -/
def R.det_tr_ptr : Reg := ⟨0x13, 0x208, 64, 16, 16, 0x0, .pkg⟩
/-- Field `head` of `det.tr_ptr` (R502). -/
def F.det_tr_ptr_head : Fld := ⟨R.det_tr_ptr, 32, 32⟩
/-- Field `tail` of `det.tr_ptr` (R502). -/
def F.det_tr_ptr_tail : Fld := ⟨R.det_tr_ptr, 0, 32⟩
/-- `det.t_dig` (R503). -/
def R.det_t_dig : Reg := ⟨0x13, 0x1000, 64, 1, 0, 0x0, .pkg⟩
/-- Field `count` of `det.t_dig` (R503). -/
def F.det_t_dig_count : Fld := ⟨R.det_t_dig, 0, 64⟩
/-- `det.t_dbyte` (R503). -/
def R.det_t_dbyte : Reg := ⟨0x13, 0x1008, 64, 1, 0, 0x0, .pkg⟩
/-- Field `count` of `det.t_dbyte` (R503). -/
def F.det_t_dbyte_count : Fld := ⟨R.det_t_dbyte, 0, 64⟩
/-- `det.t_hcmp` (R503). -/
def R.det_t_hcmp : Reg := ⟨0x13, 0x1010, 64, 1, 0, 0x0, .pkg⟩
/-- Field `count` of `det.t_hcmp` (R503). -/
def F.det_t_hcmp_count : Fld := ⟨R.det_t_hcmp, 0, 64⟩
/-- `det.t_trc` (R503). -/
def R.det_t_trc : Reg := ⟨0x13, 0x1018, 64, 1, 0, 0x0, .pkg⟩
/-- Field `count` of `det.t_trc` (R503). -/
def F.det_t_trc_count : Fld := ⟨R.det_t_trc, 0, 64⟩
/-- `det.t_dwait` (R503). -/
def R.det_t_dwait : Reg := ⟨0x13, 0x1020, 64, 1, 0, 0x0, .pkg⟩
/-- Field `count` of `det.t_dwait` (R503). -/
def F.det_t_dwait_count : Fld := ⟨R.det_t_dwait, 0, 64⟩

/-! ## Unit `ckp`, slot 0x14 -/

/-- `ckp.ctl` (R542). -/
def R.ckp_ctl : Reg := ⟨0x14, 0x0, 32, 1, 0, 0x2, .die⟩
/-- Field `preempt` of `ckp.ctl` (R542). -/
def F.ckp_ctl_preempt : Fld := ⟨R.ckp_ctl, 2, 1⟩
/-- Field `auto_dray` of `ckp.ctl` (R542). -/
def F.ckp_ctl_auto_dray : Fld := ⟨R.ckp_ctl, 1, 1⟩
/-- Field `en` of `ckp.ctl` (R542). -/
def F.ckp_ctl_en : Fld := ⟨R.ckp_ctl, 0, 1⟩
/-- `ckp.stat` (R542). -/
def R.ckp_stat : Reg := ⟨0x14, 0x4, 32, 1, 0, 0x0, .die⟩
/-- Field `state` of `ckp.stat` (R542). -/
def F.ckp_stat_state : Fld := ⟨R.ckp_stat, 28, 4⟩
/-- Field `valid` of `ckp.stat` (R542). -/
def F.ckp_stat_valid : Fld := ⟨R.ckp_stat, 26, 2⟩
/-- Field `last` of `ckp.stat` (R542). -/
def F.ckp_stat_last : Fld := ⟨R.ckp_stat, 24, 2⟩
/-- Field `cutid` of `ckp.stat` (R542). -/
def F.ckp_stat_cutid : Fld := ⟨R.ckp_stat, 0, 16⟩
/-- `ckp.lead` (R542). -/
def R.ckp_lead : Reg := ⟨0x14, 0x10, 32, 1, 0, 0x75300002, .die⟩
/-- Field `qtmo` of `ckp.lead` (R542). -/
def F.ckp_lead_qtmo : Fld := ⟨R.ckp_lead, 16, 16⟩
/-- Field `steps` of `ckp.lead` (R542). -/
def F.ckp_lead_steps : Fld := ⟨R.ckp_lead, 0, 16⟩
/-- `ckp.tally_ovf` (R542). -/
def R.ckp_tally_ovf : Reg := ⟨0x14, 0x14, 32, 1, 0, 0x0, .die⟩
/-- Field `ovf` of `ckp.tally_ovf` (R542). -/
def F.ckp_tally_ovf_ovf : Fld := ⟨R.ckp_tally_ovf, 0, 6⟩
/-- `ckp.desc` (R543). -/
def R.ckp_desc : Reg := ⟨0x14, 0x8, 64, 1, 0, 0x0, .mirror⟩
/-- Field `base` of `ckp.desc` (R543). -/
def F.ckp_desc_base : Fld := ⟨R.ckp_desc, 8, 44⟩
/-- `ckp.cut` (R543). -/
def R.ckp_cut : Reg := ⟨0x14, 0x18, 64, 1, 0, 0x4000000000000000, .die⟩
/-- Field `go` of `ckp.cut` (R543). -/
def F.ckp_cut_go : Fld := ⟨R.ckp_cut, 63, 1⟩
/-- Field `site` of `ckp.cut` (R543). -/
def F.ckp_cut_site : Fld := ⟨R.ckp_cut, 62, 1⟩
/-- Field `step` of `ckp.cut` (R543). -/
def F.ckp_cut_step : Fld := ⟨R.ckp_cut, 0, 48⟩
/-- `ckp.last` (R543). -/
def R.ckp_last : Reg := ⟨0x14, 0x20, 64, 1, 0, 0x0, .die⟩
/-- Field `cutid` of `ckp.last` (R543). -/
def F.ckp_last_cutid : Fld := ⟨R.ckp_last, 48, 16⟩
/-- Field `step` of `ckp.last` (R543). -/
def F.ckp_last_step : Fld := ⟨R.ckp_last, 0, 48⟩
/-- `ckp.dlist` (R543). -/
def R.ckp_dlist : Reg := ⟨0x14, 0x28, 64, 1, 0, 0x0, .die⟩
/-- Field `addr` of `ckp.dlist` (R543). -/
def F.ckp_dlist_addr : Fld := ⟨R.ckp_dlist, 4, 60⟩
/-- `ckp.dray` (R544). -/
def R.ckp_dray : Reg := ⟨0x14, 0x30, 32, 1, 0, 0x0, .die⟩
/-- Field `go` of `ckp.dray` (R544). -/
def F.ckp_dray_go : Fld := ⟨R.ckp_dray, 31, 1⟩
/-- Field `busy` of `ckp.dray` (R544). -/
def F.ckp_dray_busy : Fld := ⟨R.ckp_dray, 30, 1⟩
/-- Field `slot` of `ckp.dray` (R544). -/
def F.ckp_dray_slot : Fld := ⟨R.ckp_dray, 29, 1⟩
/-- Field `nent` of `ckp.dray` (R544). -/
def F.ckp_dray_nent : Fld := ⟨R.ckp_dray, 0, 16⟩
/-- `ckp.drate` (R544). -/
def R.ckp_drate : Reg := ⟨0x14, 0x34, 32, 1, 0, 0x20, .die⟩
/-- Field `rate` of `ckp.drate` (R544). -/
def F.ckp_drate_rate : Fld := ⟨R.ckp_drate, 0, 8⟩
/-- `ckp.rst` (R544). -/
def R.ckp_rst : Reg := ⟨0x14, 0x38, 32, 1, 0, 0x0, .die⟩
/-- Field `go` of `ckp.rst` (R544). -/
def F.ckp_rst_go : Fld := ⟨R.ckp_rst, 31, 1⟩
/-- Field `busy` of `ckp.rst` (R544). -/
def F.ckp_rst_busy : Fld := ⟨R.ckp_rst, 30, 1⟩
/-- Field `fail` of `ckp.rst` (R544). -/
def F.ckp_rst_fail : Fld := ⟨R.ckp_rst, 29, 1⟩
/-- Field `slot` of `ckp.rst` (R544). -/
def F.ckp_rst_slot : Fld := ⟨R.ckp_rst, 28, 1⟩
/-- `ckp.ff` (R544). -/
def R.ckp_ff : Reg := ⟨0x14, 0x40, 64, 1, 0, 0x0, .die⟩
/-- Field `valid` of `ckp.ff` (R544). -/
def F.ckp_ff_valid : Fld := ⟨R.ckp_ff, 63, 1⟩
/-- Field `code` of `ckp.ff` (R544). -/
def F.ckp_ff_code : Fld := ⟨R.ckp_ff, 32, 16⟩
/-- Field `reason` of `ckp.ff` (R544). -/
def F.ckp_ff_reason : Fld := ⟨R.ckp_ff, 16, 16⟩
/-- Field `cutid` of `ckp.ff` (R544). -/
def F.ckp_ff_cutid : Fld := ⟨R.ckp_ff, 0, 16⟩
/-- `ckp.t_cut` (R545). -/
def R.ckp_t_cut : Reg := ⟨0x14, 0x1000, 64, 1, 0, 0x0, .die⟩
/-- Field `count` of `ckp.t_cut` (R545). -/
def F.ckp_t_cut_count : Fld := ⟨R.ckp_t_cut, 0, 64⟩
/-- `ckp.t_cfail` (R545). -/
def R.ckp_t_cfail : Reg := ⟨0x14, 0x1008, 64, 1, 0, 0x0, .die⟩
/-- Field `count` of `ckp.t_cfail` (R545). -/
def F.ckp_t_cfail_count : Fld := ⟨R.ckp_t_cfail, 0, 64⟩
/-- `ckp.t_cbyte` (R545). -/
def R.ckp_t_cbyte : Reg := ⟨0x14, 0x1010, 64, 1, 0, 0x0, .die⟩
/-- Field `count` of `ckp.t_cbyte` (R545). -/
def F.ckp_t_cbyte_count : Fld := ⟨R.ckp_t_cbyte, 0, 64⟩
/-- `ckp.t_dbyte` (R545). -/
def R.ckp_t_dbyte : Reg := ⟨0x14, 0x1018, 64, 1, 0, 0x0, .die⟩
/-- Field `count` of `ckp.t_dbyte` (R545). -/
def F.ckp_t_dbyte_count : Fld := ⟨R.ckp_t_dbyte, 0, 64⟩
/-- `ckp.t_restart` (R545). -/
def R.ckp_t_restart : Reg := ⟨0x14, 0x1020, 64, 1, 0, 0x0, .die⟩
/-- Field `count` of `ckp.t_restart` (R545). -/
def F.ckp_t_restart_count : Fld := ⟨R.ckp_t_restart, 0, 64⟩
/-- `ckp.t_gate` (R545). -/
def R.ckp_t_gate : Reg := ⟨0x14, 0x1028, 64, 1, 0, 0x0, .die⟩
/-- Field `count` of `ckp.t_gate` (R545). -/
def F.ckp_t_gate_count : Fld := ⟨R.ckp_t_gate, 0, 64⟩

/-! ## Unit `rec`, slot 0x15 -/

/-- `rec.ctl` (R546). -/
def R.rec_ctl : Reg := ⟨0x15, 0x0, 32, 1, 0, 0x3, .die⟩
/-- Field `auto_spare` of `rec.ctl` (R546). -/
def F.rec_ctl_auto_spare : Fld := ⟨R.rec_ctl, 2, 1⟩
/-- Field `auto_ckp` of `rec.ctl` (R546). -/
def F.rec_ctl_auto_ckp : Fld := ⟨R.rec_ctl, 1, 1⟩
/-- Field `en` of `rec.ctl` (R546). -/
def F.rec_ctl_en : Fld := ⟨R.rec_ctl, 0, 1⟩
/-- `rec.rank` (R546). -/
def R.rec_rank : Reg := ⟨0x15, 0x4, 32, 1, 0, 0x2800000, .die⟩
/-- Field `elig` of `rec.rank` (R546). -/
def F.rec_rank_elig : Fld := ⟨R.rec_rank, 31, 1⟩
/-- Field `elhold` of `rec.rank` (R546). -/
def F.rec_rank_elhold : Fld := ⟨R.rec_rank, 22, 9⟩
/-- Field `rank` of `rec.rank` (R546). -/
def F.rec_rank_rank : Fld := ⟨R.rec_rank, 0, 14⟩
/-- `rec.stat` (R546). -/
def R.rec_stat : Reg := ⟨0x15, 0x8, 32, 1, 0, 0x0, .die⟩
/-- Field `rc` of `rec.stat` (R546). -/
def F.rec_stat_rc : Fld := ⟨R.rec_stat, 28, 4⟩
/-- Field `twin` of `rec.stat` (R546). -/
def F.rec_stat_twin : Fld := ⟨R.rec_stat, 26, 2⟩
/-- Field `master` of `rec.stat` (R546). -/
def F.rec_stat_master : Fld := ⟨R.rec_stat, 25, 1⟩
/-- Field `fail` of `rec.stat` (R546). -/
def F.rec_stat_fail : Fld := ⟨R.rec_stat, 24, 1⟩
/-- Field `crank` of `rec.stat` (R546). -/
def F.rec_stat_crank : Fld := ⟨R.rec_stat, 0, 14⟩
/-- `rec.win` (R546). -/
def R.rec_win : Reg := ⟨0x15, 0xC, 32, 1, 0, 0x100003C, .die⟩
/-- Field `thr` of `rec.win` (R546). -/
def F.rec_win_thr : Fld := ⟨R.rec_win, 16, 16⟩
/-- Field `win` of `rec.win` (R546). -/
def F.rec_win_win : Fld := ⟨R.rec_win, 0, 16⟩
/-- `rec.lwin` (R546). -/
def R.rec_lwin : Reg := ⟨0x15, 0x10, 32, 1, 0, 0x100003C, .die⟩
/-- Field `thr` of `rec.lwin` (R546). -/
def F.rec_lwin_thr : Fld := ⟨R.rec_lwin, 16, 16⟩
/-- Field `win` of `rec.lwin` (R546). -/
def F.rec_lwin_win : Fld := ⟨R.rec_lwin, 0, 16⟩
/-- `rec.therm` (R546). -/
def R.rec_therm : Reg := ⟨0x15, 0x14, 32, 1, 0, 0x5, .die⟩
/-- Field `margin` of `rec.therm` (R546). -/
def F.rec_therm_margin : Fld := ⟨R.rec_therm, 0, 8⟩
/-- `rec.hold` (R546). -/
def R.rec_hold : Reg := ⟨0x15, 0x18, 32, 1, 0, 0x12C, .die⟩
/-- Field `s` of `rec.hold` (R546). -/
def F.rec_hold_s : Fld := ⟨R.rec_hold, 0, 16⟩
/-- `rec.alias` (R546). -/
def R.rec_alias : Reg := ⟨0x15, 0x1C, 32, 1, 0, 0x0, .die⟩
/-- Field `en` of `rec.alias` (R546). -/
def F.rec_alias_en : Fld := ⟨R.rec_alias, 31, 1⟩
/-- Field `id` of `rec.alias` (R546). -/
def F.rec_alias_id : Fld := ⟨R.rec_alias, 0, 14⟩
/-- `rec.wrmax` (R546). -/
def R.rec_wrmax : Reg := ⟨0x15, 0x20, 32, 1, 0, 0x64, .die⟩
/-- Field `n` of `rec.wrmax` (R546). -/
def F.rec_wrmax_n : Fld := ⟨R.rec_wrmax, 0, 8⟩
/-- `rec.tally_ovf` (R546). -/
def R.rec_tally_ovf : Reg := ⟨0x15, 0x24, 32, 1, 0, 0x0, .die⟩
/-- Field `ovf` of `rec.tally_ovf` (R546). -/
def F.rec_tally_ovf_ovf : Fld := ⟨R.rec_tally_ovf, 0, 4⟩
/-- `rec.t_hbtx` (R549). -/
def R.rec_t_hbtx : Reg := ⟨0x15, 0x1000, 64, 1, 0, 0x0, .die⟩
/-- Field `count` of `rec.t_hbtx` (R549). -/
def F.rec_t_hbtx_count : Fld := ⟨R.rec_t_hbtx, 0, 64⟩
/-- `rec.t_hbrx` (R549). -/
def R.rec_t_hbrx : Reg := ⟨0x15, 0x1008, 64, 1, 0, 0x0, .die⟩
/-- Field `count` of `rec.t_hbrx` (R549). -/
def F.rec_t_hbrx_count : Fld := ⟨R.rec_t_hbrx, 0, 64⟩
/-- `rec.t_warn` (R549). -/
def R.rec_t_warn : Reg := ⟨0x15, 0x1010, 64, 1, 0, 0x0, .die⟩
/-- Field `count` of `rec.t_warn` (R549). -/
def F.rec_t_warn_count : Fld := ⟨R.rec_t_warn, 0, 64⟩
/-- `rec.t_mchg` (R549). -/
def R.rec_t_mchg : Reg := ⟨0x15, 0x1018, 64, 1, 0, 0x0, .die⟩
/-- Field `count` of `rec.t_mchg` (R549). -/
def F.rec_t_mchg_count : Fld := ⟨R.rec_t_mchg, 0, 64⟩
/-- `rec.rtab` (R547). -/
def R.rec_rtab : Reg := ⟨0x15, 0x28, 64, 1, 0, 0x0, .die⟩
/-- Field `base` of `rec.rtab` (R547). -/
def F.rec_rtab_base : Fld := ⟨R.rec_rtab, 8, 44⟩
/-- `rec.fring` (R547). -/
def R.rec_fring : Reg := ⟨0x15, 0x30, 64, 1, 0, 0x0, .die⟩
/-- Field `base` of `rec.fring` (R547). -/
def F.rec_fring_base : Fld := ⟨R.rec_fring, 8, 44⟩
/-- Field `size` of `rec.fring` (R547). -/
def F.rec_fring_size : Fld := ⟨R.rec_fring, 56, 8⟩
/-- `rec.stab` (R547). -/
def R.rec_stab : Reg := ⟨0x15, 0x38, 64, 1, 0, 0x0, .die⟩
/-- Field `base` of `rec.stab` (R547). -/
def F.rec_stab_base : Fld := ⟨R.rec_stab, 8, 44⟩
/-- `rec.mbox` (R547). -/
def R.rec_mbox : Reg := ⟨0x15, 0x40, 64, 1, 0, 0x0, .die⟩
/-- Field `base` of `rec.mbox` (R547). -/
def F.rec_mbox_base : Fld := ⟨R.rec_mbox, 8, 44⟩
/-- `rec.fptr` (R548). -/
def R.rec_fptr : Reg := ⟨0x15, 0x48, 64, 1, 0, 0x0, .die⟩
/-- Field `head` of `rec.fptr` (R548). -/
def F.rec_fptr_head : Fld := ⟨R.rec_fptr, 32, 32⟩
/-- Field `tail` of `rec.fptr` (R548). -/
def F.rec_fptr_tail : Fld := ⟨R.rec_fptr, 0, 32⟩
/-- `rec.spare` (R548). -/
def R.rec_spare : Reg := ⟨0x15, 0x50, 32, 1, 0, 0x0, .die⟩
/-- Field `spare` of `rec.spare` (R548). -/
def F.rec_spare_spare : Fld := ⟨R.rec_spare, 31, 1⟩

/-! ## Unit `err`, slot 0x16 -/

/-- `err.ctl` (R550). -/
def R.err_ctl : Reg := ⟨0x16, 0x0, 32, 1, 0, 0x1, .die⟩
/-- Field `stop` of `err.ctl` (R550). -/
def F.err_ctl_stop : Fld := ⟨R.err_ctl, 1, 1⟩
/-- Field `en` of `err.ctl` (R550). -/
def F.err_ctl_en : Fld := ⟨R.err_ctl, 0, 1⟩
/-- `err.stat` (R550). -/
def R.err_stat : Reg := ⟨0x16, 0x4, 32, 1, 0, 0x0, .die⟩
/-- Field `lost` of `err.stat` (R550). -/
def F.err_stat_lost : Fld := ⟨R.err_stat, 31, 1⟩
/-- Field `full` of `err.stat` (R550). -/
def F.err_stat_full : Fld := ⟨R.err_stat, 30, 1⟩
/-- Field `level` of `err.stat` (R550). -/
def F.err_stat_level : Fld := ⟨R.err_stat, 0, 7⟩
/-- `err.ptr` (R550). -/
def R.err_ptr : Reg := ⟨0x16, 0x8, 64, 1, 0, 0x0, .die⟩
/-- Field `head` of `err.ptr` (R550). -/
def F.err_ptr_head : Fld := ⟨R.err_ptr, 32, 32⟩
/-- Field `tail` of `err.ptr` (R550). -/
def F.err_ptr_tail : Fld := ⟨R.err_ptr, 0, 32⟩
/-- `err.lost` (R550). -/
def R.err_lost : Reg := ⟨0x16, 0x10, 32, 1, 0, 0x0, .die⟩
/-- Field `count` of `err.lost` (R550). -/
def F.err_lost_count : Fld := ⟨R.err_lost, 0, 32⟩
/-- `err.first` (R550). -/
def R.err_first : Reg := ⟨0x16, 0x18, 64, 1, 0, 0x0, .die⟩
/-- Field `valid` of `err.first` (R550). -/
def F.err_first_valid : Fld := ⟨R.err_first, 63, 1⟩
/-- Field `context` of `err.first` (R550). -/
def F.err_first_context : Fld := ⟨R.err_first, 48, 12⟩
/-- Field `flags` of `err.first` (R550). -/
def F.err_first_flags : Fld := ⟨R.err_first, 32, 16⟩
/-- Field `source` of `err.first` (R550). -/
def F.err_first_source : Fld := ⟨R.err_first, 16, 16⟩
/-- Field `code` of `err.first` (R550). -/
def F.err_first_code : Fld := ⟨R.err_first, 0, 16⟩
/-- `err.first_ts` (R550). -/
def R.err_first_ts : Reg := ⟨0x16, 0x20, 64, 1, 0, 0x0, .die⟩
/-- Field `ts` of `err.first_ts` (R550). -/
def F.err_first_ts_ts : Fld := ⟨R.err_first_ts, 0, 64⟩
/-- `err.first_det` (R550). -/
def R.err_first_det : Reg := ⟨0x16, 0x28, 64, 1, 0, 0x0, .die⟩
/-- Field `detail` of `err.first_det` (R550). -/
def F.err_first_det_detail : Fld := ⟨R.err_first_det, 0, 64⟩

/-! ## Unit `asy`, slot 0x17 -/

/-- `asy.stat` (R578). -/
def R.asy_stat : Reg := ⟨0x17, 0x0, 32, 1, 0, 0x0, .pkg⟩
/-- Field `mlive` of `asy.stat` (R578). -/
def F.asy_stat_mlive : Fld := ⟨R.asy_stat, 31, 1⟩
/-- Field `state` of `asy.stat` (R578). -/
def F.asy_stat_state : Fld := ⟨R.asy_stat, 26, 2⟩
/-- Field `flags` of `asy.stat` (R578). -/
def F.asy_stat_flags : Fld := ⟨R.asy_stat, 16, 10⟩
/-- Field `lcount` of `asy.stat` (R578). -/
def F.asy_stat_lcount : Fld := ⟨R.asy_stat, 0, 16⟩
/-- `asy.ctl` (R578). -/
def R.asy_ctl : Reg := ⟨0x17, 0x4, 32, 1, 0, 0x0, .pkg⟩
/-- Field `en` of `asy.ctl` (R578). -/
def F.asy_ctl_en : Fld := ⟨R.asy_ctl, 0, 1⟩
/-- `asy.energy` (R578). -/
def R.asy_energy : Reg := ⟨0x17, 0x8, 64, 1, 0, 0x0, .pkg⟩
/-- Field `uj` of `asy.energy` (R578). -/
def F.asy_energy_uj : Fld := ⟨R.asy_energy, 0, 64⟩
/-- `asy.power` (R578). -/
def R.asy_power : Reg := ⟨0x17, 0x10, 32, 1, 0, 0x0, .pkg⟩
/-- Field `mw` of `asy.power` (R578). -/
def F.asy_power_mw : Fld := ⟨R.asy_power, 0, 32⟩
/-- `asy.wrap` (R578). -/
def R.asy_wrap : Reg := ⟨0x17, 0x14, 32, 1, 0, 0x0, .pkg⟩
/-- Field `wrap` of `asy.wrap` (R578). -/
def F.asy_wrap_wrap : Fld := ⟨R.asy_wrap, 0, 16⟩
/-- `asy.time` (R578). -/
def R.asy_time : Reg := ⟨0x17, 0x18, 64, 1, 0, 0x0, .pkg⟩
/-- Field `ns` of `asy.time` (R578). -/
def F.asy_time_ns : Fld := ⟨R.asy_time, 0, 64⟩
/-- `asy.offs` (R578). -/
def R.asy_offs : Reg := ⟨0x17, 0x20, 64, 1, 0, 0x0, .pkg⟩
/-- Field `ns` of `asy.offs` (R578). -/
def F.asy_offs_ns : Fld := ⟨R.asy_offs, 0, 64⟩
/-- `asy.seq` (R578). -/
def R.asy_seq : Reg := ⟨0x17, 0x28, 64, 1, 0, 0x0, .pkg⟩
/-- Field `seq` of `asy.seq` (R578). -/
def F.asy_seq_seq : Fld := ⟨R.asy_seq, 0, 64⟩
/-- `asy.hring` (R578). -/
def R.asy_hring : Reg := ⟨0x17, 0x30, 64, 1, 0, 0x0, .pkg⟩
/-- Field `size` of `asy.hring` (R578). -/
def F.asy_hring_size : Fld := ⟨R.asy_hring, 52, 12⟩
/-- Field `base` of `asy.hring` (R578). -/
def F.asy_hring_base : Fld := ⟨R.asy_hring, 12, 40⟩
/-- `asy.hptr` (R578). -/
def R.asy_hptr : Reg := ⟨0x17, 0x38, 64, 1, 0, 0x0, .pkg⟩
/-- Field `head` of `asy.hptr` (R578). -/
def F.asy_hptr_head : Fld := ⟨R.asy_hptr, 32, 32⟩
/-- Field `tail` of `asy.hptr` (R578). -/
def F.asy_hptr_tail : Fld := ⟨R.asy_hptr, 0, 32⟩
/-- `asy.drop` (R578). -/
def R.asy_drop : Reg := ⟨0x17, 0x40, 32, 1, 0, 0x0, .pkg⟩
/-- Field `count` of `asy.drop` (R578). -/
def F.asy_drop_count : Fld := ⟨R.asy_drop, 0, 32⟩
/-- `asy.badf` (R578). -/
def R.asy_badf : Reg := ⟨0x17, 0x44, 32, 1, 0, 0x0, .pkg⟩
/-- Field `count` of `asy.badf` (R578). -/
def F.asy_badf_count : Fld := ⟨R.asy_badf, 0, 32⟩
/-- `asy.tally_ovf` (R578). -/
def R.asy_tally_ovf : Reg := ⟨0x17, 0x48, 32, 1, 0, 0x0, .pkg⟩
/-- Field `ovf` of `asy.tally_ovf` (R578). -/
def F.asy_tally_ovf_ovf : Fld := ⟨R.asy_tally_ovf, 0, 2⟩
/-- `asy.serial` (R578). -/
def R.asy_serial : Reg := ⟨0x17, 0x50, 64, 1, 0, 0x0, .pkg⟩
/-- Field `serial` of `asy.serial` (R578). -/
def F.asy_serial_serial : Fld := ⟨R.asy_serial, 0, 64⟩
/-- `asy.pub` (R578). -/
def R.asy_pub : Reg := ⟨0x17, 0x80, 64, 8, 8, 0x0, .pkg⟩
/-- Field `key` of `asy.pub` (R578). -/
def F.asy_pub_key : Fld := ⟨R.asy_pub, 0, 64⟩
/-- `asy.cert` (R578). -/
def R.asy_cert : Reg := ⟨0x17, 0xC0, 64, 8, 8, 0x0, .pkg⟩
/-- Field `cert` of `asy.cert` (R578). -/
def F.asy_cert_cert : Fld := ⟨R.asy_cert, 0, 64⟩
/-- `asy.t_frame` (R578). -/
def R.asy_t_frame : Reg := ⟨0x17, 0x100, 64, 1, 0, 0x0, .pkg⟩
/-- Field `count` of `asy.t_frame` (R578). -/
def F.asy_t_frame_count : Fld := ⟨R.asy_t_frame, 0, 64⟩
/-- `asy.t_hm` (R578). -/
def R.asy_t_hm : Reg := ⟨0x17, 0x108, 64, 1, 0, 0x0, .pkg⟩
/-- Field `count` of `asy.t_hm` (R578). -/
def F.asy_t_hm_count : Fld := ⟨R.asy_t_hm, 0, 64⟩
/-- `asy.ledger` (R575). -/
def R.asy_ledger : Reg := ⟨0x17, 0x10000, 64, 8192, 8, 0x0, .pkg⟩
/-- Field `w` of `asy.ledger` (R575). -/
def F.asy_ledger_w : Fld := ⟨R.asy_ledger, 0, 64⟩

/-! ## Unit `pwr`, slot 0x18 -/

/-- `pwr.ctl` (R676). -/
def R.pwr_ctl : Reg := ⟨0x18, 0x0, 32, 1, 0, 0x1, .pkg⟩
/-- Field `avs` of `pwr.ctl` (R676). -/
def F.pwr_ctl_avs : Fld := ⟨R.pwr_ctl, 3, 1⟩
/-- Field `floor` of `pwr.ctl` (R676). -/
def F.pwr_ctl_floor : Fld := ⟨R.pwr_ctl, 2, 1⟩
/-- Field `ramp` of `pwr.ctl` (R676). -/
def F.pwr_ctl_ramp : Fld := ⟨R.pwr_ctl, 1, 1⟩
/-- Field `cool` of `pwr.ctl` (R676). -/
def F.pwr_ctl_cool : Fld := ⟨R.pwr_ctl, 0, 1⟩
/-- `pwr.stat` (R676). -/
def R.pwr_stat : Reg := ⟨0x18, 0x4, 32, 1, 0, 0x0, .pkg⟩
/-- Field `brake` of `pwr.stat` (R676). -/
def F.pwr_stat_brake : Fld := ⟨R.pwr_stat, 31, 1⟩
/-- Field `cool_bad` of `pwr.stat` (R676). -/
def F.pwr_stat_cool_bad : Fld := ⟨R.pwr_stat, 30, 1⟩
/-- Field `src` of `pwr.stat` (R676). -/
def F.pwr_stat_src : Fld := ⟨R.pwr_stat, 29, 1⟩
/-- Field `trip` of `pwr.stat` (R676). -/
def F.pwr_stat_trip : Fld := ⟨R.pwr_stat, 28, 1⟩
/-- Field `theta` of `pwr.stat` (R676). -/
def F.pwr_stat_theta : Fld := ⟨R.pwr_stat, 24, 4⟩
/-- Field `p` of `pwr.stat` (R676). -/
def F.pwr_stat_p : Fld := ⟨R.pwr_stat, 0, 20⟩
/-- `pwr.cap` (R676). -/
def R.pwr_cap : Reg := ⟨0x18, 0x8, 32, 1, 0, 0x320BB8, .pkg⟩
/-- Field `hyst` of `pwr.cap` (R676). -/
def F.pwr_cap_hyst : Fld := ⟨R.pwr_cap, 16, 12⟩
/-- Field `cap` of `pwr.cap` (R676). -/
def F.pwr_cap_cap : Fld := ⟨R.pwr_cap, 0, 12⟩
/-- `pwr.ramp` (R676). -/
def R.pwr_ramp : Reg := ⟨0x18, 0xC, 32, 1, 0, 0x1F403E8, .pkg⟩
/-- Field `dn` of `pwr.ramp` (R676). -/
def F.pwr_ramp_dn : Fld := ⟨R.pwr_ramp, 16, 16⟩
/-- Field `up` of `pwr.ramp` (R676). -/
def F.pwr_ramp_up : Fld := ⟨R.pwr_ramp, 0, 16⟩
/-- `pwr.floor` (R676). -/
def R.pwr_floor : Reg := ⟨0x18, 0x10, 32, 1, 0, 0x0, .pkg⟩
/-- Field `w` of `pwr.floor` (R676). -/
def F.pwr_floor_w : Fld := ⟨R.pwr_floor, 0, 12⟩
/-- `pwr.brake` (R676). -/
def R.pwr_brake : Reg := ⟨0x18, 0x14, 32, 1, 0, 0xC, .pkg⟩
/-- Field `th` of `pwr.brake` (R676). -/
def F.pwr_brake_th : Fld := ⟨R.pwr_brake, 0, 4⟩
/-- `pwr.therm` (R676). -/
def R.pwr_therm : Reg := ⟨0x18, 0x18, 32, 1, 0, 0x5C, .pkg⟩
/-- Field `thr` of `pwr.therm` (R676). -/
def F.pwr_therm_thr : Fld := ⟨R.pwr_therm, 0, 8⟩
/-- `pwr.cool` (R676). -/
def R.pwr_cool : Reg := ⟨0x18, 0x1C, 32, 1, 0, 0x5DC01C2, .pkg⟩
/-- Field `cap` of `pwr.cool` (R676). -/
def F.pwr_cool_cap : Fld := ⟨R.pwr_cool, 16, 16⟩
/-- Field `kfac` of `pwr.cool` (R676). -/
def F.pwr_cool_kfac : Fld := ⟨R.pwr_cool, 0, 16⟩
/-- `pwr.coolst` (R676). -/
def R.pwr_coolst : Reg := ⟨0x18, 0x20, 32, 1, 0, 0x0, .pkg⟩
/-- Field `t` of `pwr.coolst` (R676). -/
def F.pwr_coolst_t : Fld := ⟨R.pwr_coolst, 16, 16⟩
/-- Field `flow` of `pwr.coolst` (R676). -/
def F.pwr_coolst_flow : Fld := ⟨R.pwr_coolst, 0, 16⟩
/-- `pwr.pmb` (R676). -/
def R.pwr_pmb : Reg := ⟨0x18, 0x24, 32, 1, 0, 0x4140, .pkg⟩
/-- Field `addr1` of `pwr.pmb` (R676). -/
def F.pwr_pmb_addr1 : Fld := ⟨R.pwr_pmb, 8, 7⟩
/-- Field `addr0` of `pwr.pmb` (R676). -/
def F.pwr_pmb_addr0 : Fld := ⟨R.pwr_pmb, 0, 7⟩
/-- `pwr.avs` (R676). -/
def R.pwr_avs : Reg := ⟨0x18, 0x28, 32, 1, 0, 0x3200320, .pkg⟩
/-- Field `v1` of `pwr.avs` (R676). -/
def F.pwr_avs_v1 : Fld := ⟨R.pwr_avs, 16, 16⟩
/-- Field `v0` of `pwr.avs` (R676). -/
def F.pwr_avs_v0 : Fld := ⟨R.pwr_avs, 0, 16⟩
/-- `pwr.rcause` (R676). -/
def R.pwr_rcause : Reg := ⟨0x18, 0x2C, 32, 1, 0, 0x0, .pkg⟩
/-- Field `rail` of `pwr.rcause` (R676). -/
def F.pwr_rcause_rail : Fld := ⟨R.pwr_rcause, 4, 4⟩
/-- Field `cause` of `pwr.rcause` (R676). -/
def F.pwr_rcause_cause : Fld := ⟨R.pwr_rcause, 0, 4⟩
/-- `pwr.tally_ovf` (R676). -/
def R.pwr_tally_ovf : Reg := ⟨0x18, 0x38, 32, 1, 0, 0x0, .pkg⟩
/-- Field `ovf` of `pwr.tally_ovf` (R676). -/
def F.pwr_tally_ovf_ovf : Fld := ⟨R.pwr_tally_ovf, 0, 6⟩
/-- `pwr.ff` (R677). -/
def R.pwr_ff : Reg := ⟨0x18, 0x30, 64, 1, 0, 0x0, .pkg⟩
/-- Field `valid` of `pwr.ff` (R677). -/
def F.pwr_ff_valid : Fld := ⟨R.pwr_ff, 63, 1⟩
/-- Field `code` of `pwr.ff` (R677). -/
def F.pwr_ff_code : Fld := ⟨R.pwr_ff, 32, 16⟩
/-- Field `detail` of `pwr.ff` (R677). -/
def F.pwr_ff_detail : Fld := ⟨R.pwr_ff, 0, 32⟩
/-- `pwr.rclk` (R678). -/
def R.pwr_rclk : Reg := ⟨0x18, 0x100, 32, 16, 4, 0x260026, .pkg⟩
/-- Field `busy` of `pwr.rclk` (R678). -/
def F.pwr_rclk_busy : Fld := ⟨R.pwr_rclk, 31, 1⟩
/-- Field `theta` of `pwr.rclk` (R678). -/
def F.pwr_rclk_theta : Fld := ⟨R.pwr_rclk, 24, 4⟩
/-- Field `eff` of `pwr.rclk` (R678). -/
def F.pwr_rclk_eff : Fld := ⟨R.pwr_rclk, 16, 6⟩
/-- Field `vofs` of `pwr.rclk` (R678). -/
def F.pwr_rclk_vofs : Fld := ⟨R.pwr_rclk, 8, 6⟩
/-- Field `req` of `pwr.rclk` (R678). -/
def F.pwr_rclk_req : Fld := ⟨R.pwr_rclk, 0, 6⟩
/-- `pwr.t_cap` (R679). -/
def R.pwr_t_cap : Reg := ⟨0x18, 0x1000, 64, 1, 0, 0x0, .pkg⟩
/-- Field `count` of `pwr.t_cap` (R679). -/
def F.pwr_t_cap_count : Fld := ⟨R.pwr_t_cap, 0, 64⟩
/-- `pwr.t_brake` (R679). -/
def R.pwr_t_brake : Reg := ⟨0x18, 0x1008, 64, 1, 0, 0x0, .pkg⟩
/-- Field `count` of `pwr.t_brake` (R679). -/
def F.pwr_t_brake_count : Fld := ⟨R.pwr_t_brake, 0, 64⟩
/-- `pwr.t_fill` (R679). -/
def R.pwr_t_fill : Reg := ⟨0x18, 0x1010, 64, 1, 0, 0x0, .pkg⟩
/-- Field `count` of `pwr.t_fill` (R679). -/
def F.pwr_t_fill_count : Fld := ⟨R.pwr_t_fill, 0, 64⟩
/-- `pwr.t_therm` (R679). -/
def R.pwr_t_therm : Reg := ⟨0x18, 0x1018, 64, 1, 0, 0x0, .pkg⟩
/-- Field `count` of `pwr.t_therm` (R679). -/
def F.pwr_t_therm_count : Fld := ⟨R.pwr_t_therm, 0, 64⟩
/-- `pwr.t_est` (R679). -/
def R.pwr_t_est : Reg := ⟨0x18, 0x1020, 64, 1, 0, 0x0, .pkg⟩
/-- Field `count` of `pwr.t_est` (R679). -/
def F.pwr_t_est_count : Fld := ⟨R.pwr_t_est, 0, 64⟩
/-- `pwr.t_dvfs` (R679). -/
def R.pwr_t_dvfs : Reg := ⟨0x18, 0x1028, 64, 1, 0, 0x0, .pkg⟩
/-- Field `count` of `pwr.t_dvfs` (R679). -/
def F.pwr_t_dvfs_count : Fld := ⟨R.pwr_t_dvfs, 0, 64⟩

/-! ## Unit `tele`, slot 0x19 -/

/-- `tele.ctl` (R633). -/
def R.tele_ctl : Reg := ⟨0x19, 0x0, 32, 1, 0, 0x3E8, .pkg⟩
/-- Field `en` of `tele.ctl` (R633). -/
def F.tele_ctl_en : Fld := ⟨R.tele_ctl, 31, 1⟩
/-- Field `dst` of `tele.ctl` (R633). -/
def F.tele_ctl_dst : Fld := ⟨R.tele_ctl, 30, 1⟩
/-- Field `n` of `tele.ctl` (R633). -/
def F.tele_ctl_n : Fld := ⟨R.tele_ctl, 24, 6⟩
/-- Field `per` of `tele.ctl` (R633). -/
def F.tele_ctl_per : Fld := ⟨R.tele_ctl, 0, 16⟩
/-- `tele.rsz` (R633). -/
def R.tele_rsz : Reg := ⟨0x19, 0x4, 32, 1, 0, 0x0, .pkg⟩
/-- Field `size` of `tele.rsz` (R633). -/
def F.tele_rsz_size : Fld := ⟨R.tele_rsz, 0, 4⟩
/-- `tele.ring` (R633). -/
def R.tele_ring : Reg := ⟨0x19, 0x8, 64, 1, 0, 0x0, .pkg⟩
/-- Field `addr` of `tele.ring` (R633). -/
def F.tele_ring_addr : Fld := ⟨R.tele_ring, 12, 52⟩
/-- `tele.ptr` (R633). -/
def R.tele_ptr : Reg := ⟨0x19, 0x10, 64, 1, 0, 0x0, .pkg⟩
/-- Field `head` of `tele.ptr` (R633). -/
def F.tele_ptr_head : Fld := ⟨R.tele_ptr, 32, 32⟩
/-- Field `tail` of `tele.ptr` (R633). -/
def F.tele_ptr_tail : Fld := ⟨R.tele_ptr, 0, 32⟩
/-- `tele.drop` (R633). -/
def R.tele_drop : Reg := ⟨0x19, 0x18, 32, 1, 0, 0x0, .pkg⟩
/-- Field `count` of `tele.drop` (R633). -/
def F.tele_drop_count : Fld := ⟨R.tele_drop, 0, 32⟩
/-- `tele.tally_ovf` (R633). -/
def R.tele_tally_ovf : Reg := ⟨0x19, 0x1C, 32, 1, 0, 0x0, .pkg⟩
/-- Field `ovf` of `tele.tally_ovf` (R633). -/
def F.tele_tally_ovf_ovf : Fld := ⟨R.tele_tally_ovf, 0, 2⟩
/-- `tele.list` (R633). -/
def R.tele_list : Reg := ⟨0x19, 0x100, 64, 64, 8, 0x0, .pkg⟩
/-- Field `w64` of `tele.list` (R633). -/
def F.tele_list_w64 : Fld := ⟨R.tele_list, 63, 1⟩
/-- Field `pa` of `tele.list` (R633). -/
def F.tele_list_pa : Fld := ⟨R.tele_list, 0, 52⟩
/-- `tele.tj` (R634). -/
def R.tele_tj : Reg := ⟨0x19, 0x400, 32, 16, 4, 0x0, .pkg⟩
/-- Field `valid` of `tele.tj` (R634). -/
def F.tele_tj_valid : Fld := ⟨R.tele_tj, 31, 1⟩
/-- Field `t` of `tele.tj` (R634). -/
def F.tele_tj_t : Fld := ⟨R.tele_tj, 0, 16⟩
/-- `tele.tdie` (R634). -/
def R.tele_tdie : Reg := ⟨0x19, 0x440, 32, 2, 4, 0x0, .pkg⟩
/-- Field `w` of `tele.tdie` (R634). -/
def F.tele_tdie_w : Fld := ⟨R.tele_tdie, 0, 32⟩
/-- `tele.ppkg` (R634). -/
def R.tele_ppkg : Reg := ⟨0x19, 0x450, 32, 1, 0, 0x0, .pkg⟩
/-- Field `src` of `tele.ppkg` (R634). -/
def F.tele_ppkg_src : Fld := ⟨R.tele_ppkg, 31, 1⟩
/-- Field `p` of `tele.ppkg` (R634). -/
def F.tele_ppkg_p : Fld := ⟨R.tele_ppkg, 0, 20⟩
/-- `tele.rail` (R634). -/
def R.tele_rail : Reg := ⟨0x19, 0x500, 64, 16, 8, 0x0, .pkg⟩
/-- Field `i` of `tele.rail` (R634). -/
def F.tele_rail_i : Fld := ⟨R.tele_rail, 32, 32⟩
/-- Field `v` of `tele.rail` (R634). -/
def F.tele_rail_v : Fld := ⟨R.tele_rail, 0, 16⟩
/-- `tele.t_rec` (R635). -/
def R.tele_t_rec : Reg := ⟨0x19, 0x1000, 64, 1, 0, 0x0, .pkg⟩
/-- Field `count` of `tele.t_rec` (R635). -/
def F.tele_t_rec_count : Fld := ⟨R.tele_t_rec, 0, 64⟩
/-- `tele.t_skip` (R635). -/
def R.tele_t_skip : Reg := ⟨0x19, 0x1008, 64, 1, 0, 0x0, .pkg⟩
/-- Field `count` of `tele.t_skip` (R635). -/
def F.tele_t_skip_count : Fld := ⟨R.tele_t_skip, 0, 64⟩

/-! ## Unit `pcie`, slot 0x1A -/

/-- `pcie.stat` (R630). -/
def R.pcie_stat : Reg := ⟨0x1A, 0x0, 32, 1, 0, 0x0, .pkg⟩
/-- Field `ltssm` of `pcie.stat` (R630). -/
def F.pcie_stat_ltssm : Fld := ⟨R.pcie_stat, 28, 4⟩
/-- Field `gen` of `pcie.stat` (R630). -/
def F.pcie_stat_gen : Fld := ⟨R.pcie_stat, 24, 4⟩
/-- Field `width` of `pcie.stat` (R630). -/
def F.pcie_stat_width : Fld := ⟨R.pcie_stat, 19, 5⟩
/-- Field `flit` of `pcie.stat` (R630). -/
def F.pcie_stat_flit : Fld := ⟨R.pcie_stat, 18, 1⟩
/-- Field `bme` of `pcie.stat` (R630). -/
def F.pcie_stat_bme : Fld := ⟨R.pcie_stat, 17, 1⟩
/-- `pcie.ctl` (R630). -/
def R.pcie_ctl : Reg := ⟨0x1A, 0x4, 32, 1, 0, 0x0, .pkg⟩
/-- Field `ro` of `pcie.ctl` (R630). -/
def F.pcie_ctl_ro : Fld := ⟨R.pcie_ctl, 0, 1⟩
/-- `pcie.win` (R630). -/
def R.pcie_win : Reg := ⟨0x1A, 0x8, 64, 1, 0, 0x0, .pkg⟩
/-- Field `base` of `pcie.win` (R630). -/
def F.pcie_win_base : Fld := ⟨R.pcie_win, 34, 18⟩
/-- `pcie.evq_base` (R630). -/
def R.pcie_evq_base : Reg := ⟨0x1A, 0x10, 64, 1, 0, 0x0, .pkg⟩
/-- Field `addr` of `pcie.evq_base` (R630). -/
def F.pcie_evq_base_addr : Fld := ⟨R.pcie_evq_base, 12, 52⟩
/-- `pcie.evq_ctl` (R630). -/
def R.pcie_evq_ctl : Reg := ⟨0x1A, 0x18, 32, 1, 0, 0x1FFE, .pkg⟩
/-- Field `en` of `pcie.evq_ctl` (R630). -/
def F.pcie_evq_ctl_en : Fld := ⟨R.pcie_evq_ctl, 31, 1⟩
/-- Field `size` of `pcie.evq_ctl` (R630). -/
def F.pcie_evq_ctl_size : Fld := ⟨R.pcie_evq_ctl, 24, 4⟩
/-- Field `vec` of `pcie.evq_ctl` (R630). -/
def F.pcie_evq_ctl_vec : Fld := ⟨R.pcie_evq_ctl, 16, 8⟩
/-- Field `cmask` of `pcie.evq_ctl` (R630). -/
def F.pcie_evq_ctl_cmask : Fld := ⟨R.pcie_evq_ctl, 0, 16⟩
/-- `pcie.evq_ptr` (R630). -/
def R.pcie_evq_ptr : Reg := ⟨0x1A, 0x20, 64, 1, 0, 0x0, .pkg⟩
/-- Field `head` of `pcie.evq_ptr` (R630). -/
def F.pcie_evq_ptr_head : Fld := ⟨R.pcie_evq_ptr, 32, 32⟩
/-- Field `tail` of `pcie.evq_ptr` (R630). -/
def F.pcie_evq_ptr_tail : Fld := ⟨R.pcie_evq_ptr, 0, 32⟩
/-- `pcie.evlost` (R630). -/
def R.pcie_evlost : Reg := ⟨0x1A, 0x28, 32, 1, 0, 0x0, .pkg⟩
/-- Field `count` of `pcie.evlost` (R630). -/
def F.pcie_evlost_count : Fld := ⟨R.pcie_evlost, 0, 32⟩
/-- `pcie.msix` (R630). -/
def R.pcie_msix : Reg := ⟨0x1A, 0x2C, 32, 1, 0, 0x0, .pkg⟩
/-- Field `hold` of `pcie.msix` (R630). -/
def F.pcie_msix_hold : Fld := ⟨R.pcie_msix, 0, 16⟩
/-- `pcie.ff` (R630). -/
def R.pcie_ff : Reg := ⟨0x1A, 0x30, 64, 1, 0, 0x0, .pkg⟩
/-- Field `valid` of `pcie.ff` (R630). -/
def F.pcie_ff_valid : Fld := ⟨R.pcie_ff, 63, 1⟩
/-- Field `kind` of `pcie.ff` (R630). -/
def F.pcie_ff_kind : Fld := ⟨R.pcie_ff, 60, 3⟩
/-- Field `source` of `pcie.ff` (R630). -/
def F.pcie_ff_source : Fld := ⟨R.pcie_ff, 56, 4⟩
/-- Field `addr` of `pcie.ff` (R630). -/
def F.pcie_ff_addr : Fld := ⟨R.pcie_ff, 0, 48⟩
/-- `pcie.tally_ovf` (R630). -/
def R.pcie_tally_ovf : Reg := ⟨0x1A, 0x38, 32, 1, 0, 0x0, .pkg⟩
/-- Field `ovf` of `pcie.tally_ovf` (R630). -/
def F.pcie_tally_ovf_ovf : Fld := ⟨R.pcie_tally_ovf, 0, 6⟩
/-- `pcie.t_inrd` (R631). -/
def R.pcie_t_inrd : Reg := ⟨0x1A, 0x1000, 64, 1, 0, 0x0, .pkg⟩
/-- Field `count` of `pcie.t_inrd` (R631). -/
def F.pcie_t_inrd_count : Fld := ⟨R.pcie_t_inrd, 0, 64⟩
/-- `pcie.t_inwr` (R631). -/
def R.pcie_t_inwr : Reg := ⟨0x1A, 0x1008, 64, 1, 0, 0x0, .pkg⟩
/-- Field `count` of `pcie.t_inwr` (R631). -/
def F.pcie_t_inwr_count : Fld := ⟨R.pcie_t_inwr, 0, 64⟩
/-- `pcie.t_outwr` (R631). -/
def R.pcie_t_outwr : Reg := ⟨0x1A, 0x1010, 64, 1, 0, 0x0, .pkg⟩
/-- Field `count` of `pcie.t_outwr` (R631). -/
def F.pcie_t_outwr_count : Fld := ⟨R.pcie_t_outwr, 0, 64⟩
/-- `pcie.t_outrd` (R631). -/
def R.pcie_t_outrd : Reg := ⟨0x1A, 0x1018, 64, 1, 0, 0x0, .pkg⟩
/-- Field `count` of `pcie.t_outrd` (R631). -/
def F.pcie_t_outrd_count : Fld := ⟨R.pcie_t_outrd, 0, 64⟩
/-- `pcie.t_msi` (R631). -/
def R.pcie_t_msi : Reg := ⟨0x1A, 0x1020, 64, 1, 0, 0x0, .pkg⟩
/-- Field `count` of `pcie.t_msi` (R631). -/
def F.pcie_t_msi_count : Fld := ⟨R.pcie_t_msi, 0, 64⟩
/-- `pcie.t_rcv` (R631). -/
def R.pcie_t_rcv : Reg := ⟨0x1A, 0x1028, 64, 1, 0, 0x0, .pkg⟩
/-- Field `count` of `pcie.t_rcv` (R631). -/
def F.pcie_t_rcv_count : Fld := ⟨R.pcie_t_rcv, 0, 64⟩

/-! ## Unit `mgmt`, slot 0x1B -/

/-- `mgmt.ctl` (R632). -/
def R.mgmt_ctl : Reg := ⟨0x1B, 0x0, 32, 1, 0, 0x0, .pkg⟩
/-- Field `pec` of `mgmt.ctl` (R632). -/
def F.mgmt_ctl_pec : Fld := ⟨R.mgmt_ctl, 0, 1⟩
/-- `mgmt.stat` (R632). -/
def R.mgmt_stat : Reg := ⟨0x1B, 0x4, 32, 1, 0, 0x0, .pkg⟩
/-- Field `i3c` of `mgmt.stat` (R632). -/
def F.mgmt_stat_i3c : Fld := ⟨R.mgmt_stat, 31, 1⟩
/-- Field `daddr` of `mgmt.stat` (R632). -/
def F.mgmt_stat_daddr : Fld := ⟨R.mgmt_stat, 24, 7⟩
/-- `mgmt.ibi` (R632). -/
def R.mgmt_ibi : Reg := ⟨0x1B, 0x8, 32, 1, 0, 0x10B00, .pkg⟩
/-- Field `en` of `mgmt.ibi` (R632). -/
def F.mgmt_ibi_en : Fld := ⟨R.mgmt_ibi, 31, 1⟩
/-- Field `hold` of `mgmt.ibi` (R632). -/
def F.mgmt_ibi_hold : Fld := ⟨R.mgmt_ibi, 16, 8⟩
/-- Field `cmask` of `mgmt.ibi` (R632). -/
def F.mgmt_ibi_cmask : Fld := ⟨R.mgmt_ibi, 0, 16⟩
/-- `mgmt.pend` (R632). -/
def R.mgmt_pend : Reg := ⟨0x1B, 0xC, 32, 1, 0, 0x0, .pkg⟩
/-- Field `count` of `mgmt.pend` (R632). -/
def F.mgmt_pend_count : Fld := ⟨R.mgmt_pend, 16, 16⟩
/-- Field `code` of `mgmt.pend` (R632). -/
def F.mgmt_pend_code : Fld := ⟨R.mgmt_pend, 0, 16⟩
/-- `mgmt.err` (R632). -/
def R.mgmt_err : Reg := ⟨0x1B, 0x10, 32, 1, 0, 0x0, .pkg⟩
/-- Field `count` of `mgmt.err` (R632). -/
def F.mgmt_err_count : Fld := ⟨R.mgmt_err, 0, 32⟩

/-! ## Unit `dbg`, slot 0x1C -/

/-- `dbg.ctl` (R636). -/
def R.dbg_ctl : Reg := ⟨0x1C, 0x0, 32, 1, 0, 0x0, .pkg⟩
/-- Field `dis` of `dbg.ctl` (R636). -/
def F.dbg_ctl_dis : Fld := ⟨R.dbg_ctl, 0, 1⟩
/-- `dbg.tctl` (R636). -/
def R.dbg_tctl : Reg := ⟨0x1C, 0x4, 32, 1, 0, 0x0, .pkg⟩
/-- Field `go` of `dbg.tctl` (R636). -/
def F.dbg_tctl_go : Fld := ⟨R.dbg_tctl, 31, 1⟩
/-- Field `stop` of `dbg.tctl` (R636). -/
def F.dbg_tctl_stop : Fld := ⟨R.dbg_tctl, 30, 1⟩
/-- Field `busy` of `dbg.tctl` (R636). -/
def F.dbg_tctl_busy : Fld := ⟨R.dbg_tctl, 29, 1⟩
/-- Field `full` of `dbg.tctl` (R636). -/
def F.dbg_tctl_full : Fld := ⟨R.dbg_tctl, 28, 1⟩
/-- Field `wrap` of `dbg.tctl` (R636). -/
def F.dbg_tctl_wrap : Fld := ⟨R.dbg_tctl, 27, 1⟩
/-- Field `src` of `dbg.tctl` (R636). -/
def F.dbg_tctl_src : Fld := ⟨R.dbg_tctl, 26, 1⟩
/-- Field `region` of `dbg.tctl` (R636). -/
def F.dbg_tctl_region : Fld := ⟨R.dbg_tctl, 22, 4⟩
/-- Field `trig` of `dbg.tctl` (R636). -/
def F.dbg_tctl_trig : Fld := ⟨R.dbg_tctl, 0, 16⟩
/-- `dbg.tmask` (R636). -/
def R.dbg_tmask : Reg := ⟨0x1C, 0x8, 32, 1, 0, 0x0, .pkg⟩
/-- Field `cmask` of `dbg.tmask` (R636). -/
def F.dbg_tmask_cmask : Fld := ⟨R.dbg_tmask, 0, 16⟩
/-- `dbg.tptr` (R636). -/
def R.dbg_tptr : Reg := ⟨0x1C, 0xC, 32, 1, 0, 0x0, .pkg⟩
/-- Field `first` of `dbg.tptr` (R636). -/
def F.dbg_tptr_first : Fld := ⟨R.dbg_tptr, 16, 12⟩
/-- Field `count` of `dbg.tptr` (R636). -/
def F.dbg_tptr_count : Fld := ⟨R.dbg_tptr, 0, 12⟩
/-- `dbg.tsel` (R636). -/
def R.dbg_tsel : Reg := ⟨0x1C, 0x10, 32, 1, 0, 0x0, .pkg⟩
/-- Field `entry` of `dbg.tsel` (R636). -/
def F.dbg_tsel_entry : Fld := ⟨R.dbg_tsel, 2, 11⟩
/-- Field `word` of `dbg.tsel` (R636). -/
def F.dbg_tsel_word : Fld := ⟨R.dbg_tsel, 0, 2⟩
/-- `dbg.tdata` (R636). -/
def R.dbg_tdata : Reg := ⟨0x1C, 0x18, 64, 1, 0, 0x0, .pkg⟩
/-- Field `data` of `dbg.tdata` (R636). -/
def F.dbg_tdata_data : Fld := ⟨R.dbg_tdata, 0, 64⟩

/-! ## Unit `brg`, slot 0x1D -/

/-- `brg.stat` (R203). -/
def R.brg_stat : Reg := ⟨0x1D, 0x0, 32, 1, 0, 0x0, .die⟩
/-- Field `up` of `brg.stat` (R203). -/
def F.brg_stat_up : Fld := ⟨R.brg_stat, 31, 1⟩
/-- Field `train` of `brg.stat` (R203). -/
def F.brg_stat_train : Fld := ⟨R.brg_stat, 30, 1⟩
/-- Field `tries` of `brg.stat` (R203). -/
def F.brg_stat_tries : Fld := ⟨R.brg_stat, 0, 2⟩
/-- `brg.ctl` (R203). -/
def R.brg_ctl : Reg := ⟨0x1D, 0x4, 32, 1, 0, 0x0, .die⟩
/-- Field `retrain` of `brg.ctl` (R203). -/
def F.brg_ctl_retrain : Fld := ⟨R.brg_ctl, 0, 1⟩
/-- `brg.arb` (R204). -/
def R.brg_arb : Reg := ⟨0x1D, 0x8, 32, 1, 0, 0x40101, .die⟩
/-- Field `cmax` of `brg.arb` (R204). -/
def F.brg_arb_cmax : Fld := ⟨R.brg_arb, 16, 4⟩
/-- Field `w_dma` of `brg.arb` (R204). -/
def F.brg_arb_w_dma : Fld := ⟨R.brg_arb, 8, 8⟩
/-- Field `w_coll` of `brg.arb` (R204). -/
def F.brg_arb_w_coll : Fld := ⟨R.brg_arb, 0, 8⟩
/-- `brg.trk` (R206). -/
def R.brg_trk : Reg := ⟨0x1D, 0x18, 32, 1, 0, 0x0, .die⟩
/-- Field `home` of `brg.trk` (R206). -/
def F.brg_trk_home : Fld := ⟨R.brg_trk, 16, 7⟩
/-- Field `req` of `brg.trk` (R206). -/
def F.brg_trk_req : Fld := ⟨R.brg_trk, 0, 7⟩
/-- `brg.err_first` (R207). -/
def R.brg_err_first : Reg := ⟨0x1D, 0x20, 64, 1, 0, 0x0, .die⟩
/-- Field `valid` of `brg.err_first` (R207). -/
def F.brg_err_first_valid : Fld := ⟨R.brg_err_first, 63, 1⟩
/-- Field `msg` of `brg.err_first` (R207). -/
def F.brg_err_first_msg : Fld := ⟨R.brg_err_first, 59, 4⟩
/-- Field `seq` of `brg.err_first` (R207). -/
def F.brg_err_first_seq : Fld := ⟨R.brg_err_first, 55, 4⟩
/-- Field `state` of `brg.err_first` (R207). -/
def F.brg_err_first_state : Fld := ⟨R.brg_err_first, 52, 3⟩
/-- Field `addr` of `brg.err_first` (R207). -/
def F.brg_err_first_addr : Fld := ⟨R.brg_err_first, 0, 52⟩
/-- `brg.tally_ovf` (R208). -/
def R.brg_tally_ovf : Reg := ⟨0x1D, 0x30, 32, 1, 0, 0x0, .die⟩
/-- Field `ovf` of `brg.tally_ovf` (R208). -/
def F.brg_tally_ovf_ovf : Fld := ⟨R.brg_tally_ovf, 0, 8⟩
/-- `brg.cwin` (R209). -/
def R.brg_cwin : Reg := ⟨0x1D, 0x100, 64, 8, 8, 0x0, .mirror⟩
/-- Field `en` of `brg.cwin` (R209). -/
def F.brg_cwin_en : Fld := ⟨R.brg_cwin, 63, 1⟩
/-- Field `size` of `brg.cwin` (R209). -/
def F.brg_cwin_size : Fld := ⟨R.brg_cwin, 47, 16⟩
/-- Field `base` of `brg.cwin` (R209). -/
def F.brg_cwin_base : Fld := ⟨R.brg_cwin, 16, 31⟩
/-- `brg.cwin_busy` (R210). -/
def R.brg_cwin_busy : Reg := ⟨0x1D, 0x140, 32, 1, 0, 0x0, .die⟩
/-- Field `busy` of `brg.cwin_busy` (R210). -/
def F.brg_cwin_busy_busy : Fld := ⟨R.brg_cwin_busy, 0, 8⟩
/-- `brg.replay` (R205). -/
def R.brg_replay : Reg := ⟨0x1D, 0x10, 32, 1, 0, 0x0, .die⟩
/-- Field `count` of `brg.replay` (R205). -/
def F.brg_replay_count : Fld := ⟨R.brg_replay, 0, 32⟩
/-- `brg.crc` (R205). -/
def R.brg_crc : Reg := ⟨0x1D, 0x14, 32, 1, 0, 0x0, .die⟩
/-- Field `count` of `brg.crc` (R205). -/
def F.brg_crc_count : Fld := ⟨R.brg_crc, 0, 32⟩
/-- `brg.t_tx0` (R211). -/
def R.brg_t_tx0 : Reg := ⟨0x1D, 0x200, 64, 1, 0, 0x0, .die⟩
/-- Field `count` of `brg.t_tx0` (R211). -/
def F.brg_t_tx0_count : Fld := ⟨R.brg_t_tx0, 0, 64⟩
/-- `brg.t_tx1` (R211). -/
def R.brg_t_tx1 : Reg := ⟨0x1D, 0x208, 64, 1, 0, 0x0, .die⟩
/-- Field `count` of `brg.t_tx1` (R211). -/
def F.brg_t_tx1_count : Fld := ⟨R.brg_t_tx1, 0, 64⟩
/-- `brg.t_tx2` (R211). -/
def R.brg_t_tx2 : Reg := ⟨0x1D, 0x210, 64, 1, 0, 0x0, .die⟩
/-- Field `count` of `brg.t_tx2` (R211). -/
def F.brg_t_tx2_count : Fld := ⟨R.brg_t_tx2, 0, 64⟩
/-- `brg.t_tx3` (R211). -/
def R.brg_t_tx3 : Reg := ⟨0x1D, 0x218, 64, 1, 0, 0x0, .die⟩
/-- Field `count` of `brg.t_tx3` (R211). -/
def F.brg_t_tx3_count : Fld := ⟨R.brg_t_tx3, 0, 64⟩
/-- `brg.t_xing` (R211). -/
def R.brg_t_xing : Reg := ⟨0x1D, 0x220, 64, 1, 0, 0x0, .die⟩
/-- Field `count` of `brg.t_xing` (R211). -/
def F.brg_t_xing_count : Fld := ⟨R.brg_t_xing, 0, 64⟩
/-- `brg.t_binv` (R211). -/
def R.brg_t_binv : Reg := ⟨0x1D, 0x228, 64, 1, 0, 0x0, .die⟩
/-- Field `count` of `brg.t_binv` (R211). -/
def F.brg_t_binv_count : Fld := ⟨R.brg_t_binv, 0, 64⟩
/-- `brg.t_stall` (R211). -/
def R.brg_t_stall : Reg := ⟨0x1D, 0x230, 64, 1, 0, 0x0, .die⟩
/-- Field `count` of `brg.t_stall` (R211). -/
def F.brg_t_stall_count : Fld := ⟨R.brg_t_stall, 0, 64⟩
/-- `brg.t_mesh` (R211). -/
def R.brg_t_mesh : Reg := ⟨0x1D, 0x238, 64, 1, 0, 0x0, .die⟩
/-- Field `count` of `brg.t_mesh` (R211). -/
def F.brg_t_mesh_count : Fld := ⟨R.brg_t_mesh, 0, 64⟩

/-! ## Unit `rw`, slot 0x20 -/

/-- `rw.id` (R239). -/
def R.rw_id : Reg := ⟨0x20, 0x0, 32, 1, 0, 0x360008, .pkg⟩
/-- Field `part` of `rw.id` (R239). -/
def F.rw_id_part : Fld := ⟨R.rw_id, 16, 16⟩
/-- Field `ver` of `rw.id` (R239). -/
def F.rw_id_ver : Fld := ⟨R.rw_id, 0, 16⟩
/-- `rw.sel` (R239). -/
def R.rw_sel : Reg := ⟨0x20, 0x4, 32, 1, 0, 0x0, .pkg⟩
/-- Field `pc` of `rw.sel` (R239). -/
def F.rw_sel_pc : Fld := ⟨R.rw_sel, 8, 1⟩
/-- Field `chan` of `rw.sel` (R239). -/
def F.rw_sel_chan : Fld := ⟨R.rw_sel, 3, 5⟩
/-- Field `stack` of `rw.sel` (R239). -/
def F.rw_sel_stack : Fld := ⟨R.rw_sel, 0, 3⟩
/-- `rw.addr` (R239). -/
def R.rw_addr : Reg := ⟨0x20, 0x8, 32, 1, 0, 0x0, .pkg⟩
/-- Field `sid` of `rw.addr` (R239). -/
def F.rw_addr_sid : Fld := ⟨R.rw_addr, 20, 2⟩
/-- Field `bg` of `rw.addr` (R239). -/
def F.rw_addr_bg : Fld := ⟨R.rw_addr, 18, 2⟩
/-- Field `bank` of `rw.addr` (R239). -/
def F.rw_addr_bank : Fld := ⟨R.rw_addr, 16, 2⟩
/-- Field `row` of `rw.addr` (R239). -/
def F.rw_addr_row : Fld := ⟨R.rw_addr, 0, 16⟩
/-- `rw.cmd` (R239). -/
def R.rw_cmd : Reg := ⟨0x20, 0xC, 32, 1, 0, 0x0, .pkg⟩
/-- Field `key` of `rw.cmd` (R239). -/
def F.rw_cmd_key : Fld := ⟨R.rw_cmd, 16, 16⟩
/-- Field `op` of `rw.cmd` (R239). -/
def F.rw_cmd_op : Fld := ⟨R.rw_cmd, 0, 4⟩
/-- `rw.stat` (R239). -/
def R.rw_stat : Reg := ⟨0x20, 0x10, 32, 1, 0, 0x0, .pkg⟩
/-- Field `spare` of `rw.stat` (R239). -/
def F.rw_stat_spare : Fld := ⟨R.rw_stat, 8, 8⟩
/-- Field `fail` of `rw.stat` (R239). -/
def F.rw_stat_fail : Fld := ⟨R.rw_stat, 2, 1⟩
/-- Field `done` of `rw.stat` (R239). -/
def F.rw_stat_done : Fld := ⟨R.rw_stat, 1, 1⟩
/-- Field `busy` of `rw.stat` (R239). -/
def F.rw_stat_busy : Fld := ⟨R.rw_stat, 0, 1⟩
/-- `rw.row` (R239). -/
def R.rw_row : Reg := ⟨0x20, 0x1000, 32, 256, 4, 0x0, .pkg⟩
/-- Field `data` of `rw.row` (R239). -/
def F.rw_row_data : Fld := ⟨R.rw_row, 0, 32⟩
/-- `rw.chk` (R239). -/
def R.rw_chk : Reg := ⟨0x20, 0x1400, 32, 32, 4, 0x0, .pkg⟩
/-- Field `check` of `rw.chk` (R239). -/
def F.rw_chk_check : Fld := ⟨R.rw_chk, 0, 32⟩

/-! ## Unit `asyd`, slot 0x21 -/

/-- `asyd.id` (R577). -/
def R.asyd_id : Reg := ⟨0x21, 0x0, 32, 1, 0, 0x36A05A, .pkg⟩
/-- Field `part` of `asyd.id` (R577). -/
def F.asyd_id_part : Fld := ⟨R.asyd_id, 16, 16⟩
/-- Field `rev` of `asyd.id` (R577). -/
def F.asyd_id_rev : Fld := ⟨R.asyd_id, 8, 8⟩
/-- Field `die` of `asyd.id` (R577). -/
def F.asyd_id_die : Fld := ⟨R.asyd_id, 0, 8⟩
/-- `asyd.state` (R577). -/
def R.asyd_state : Reg := ⟨0x21, 0x4, 32, 1, 0, 0x0, .pkg⟩
/-- Field `flags` of `asyd.state` (R577). -/
def F.asyd_state_flags : Fld := ⟨R.asyd_state, 2, 10⟩
/-- Field `state` of `asyd.state` (R577). -/
def F.asyd_state_state : Fld := ⟨R.asyd_state, 0, 2⟩
/-- `asyd.cmd` (R577). -/
def R.asyd_cmd : Reg := ⟨0x21, 0x8, 32, 1, 0, 0x0, .pkg⟩
/-- Field `key` of `asyd.cmd` (R577). -/
def F.asyd_cmd_key : Fld := ⟨R.asyd_cmd, 16, 16⟩
/-- Field `op` of `asyd.cmd` (R577). -/
def F.asyd_cmd_op : Fld := ⟨R.asyd_cmd, 0, 4⟩
/-- `asyd.cres` (R577). -/
def R.asyd_cres : Reg := ⟨0x21, 0xC, 32, 1, 0, 0x0, .pkg⟩
/-- Field `busy` of `asyd.cres` (R577). -/
def F.asyd_cres_busy : Fld := ⟨R.asyd_cres, 31, 1⟩
/-- Field `done` of `asyd.cres` (R577). -/
def F.asyd_cres_done : Fld := ⟨R.asyd_cres, 30, 1⟩
/-- Field `cause` of `asyd.cres` (R577). -/
def F.asyd_cres_cause : Fld := ⟨R.asyd_cres, 16, 8⟩
/-- Field `lcount` of `asyd.cres` (R577). -/
def F.asyd_cres_lcount : Fld := ⟨R.asyd_cres, 0, 16⟩
/-- `asyd.pval` (R577). -/
def R.asyd_pval : Reg := ⟨0x21, 0x10, 64, 1, 0, 0x0, .pkg⟩
/-- Field `value` of `asyd.pval` (R577). -/
def F.asyd_pval_value : Fld := ⟨R.asyd_pval, 0, 64⟩
/-- `asyd.pid` (R577). -/
def R.asyd_pid : Reg := ⟨0x21, 0x18, 32, 1, 0, 0x0, .pkg⟩
/-- Field `pid` of `asyd.pid` (R577). -/
def F.asyd_pid_pid : Fld := ⟨R.asyd_pid, 0, 8⟩
/-- `asyd.energy` (R577). -/
def R.asyd_energy : Reg := ⟨0x21, 0x20, 64, 1, 0, 0x0, .pkg⟩
/-- Field `uj` of `asyd.energy` (R577). -/
def F.asyd_energy_uj : Fld := ⟨R.asyd_energy, 0, 64⟩
/-- `asyd.time` (R577). -/
def R.asyd_time : Reg := ⟨0x21, 0x28, 64, 1, 0, 0x0, .pkg⟩
/-- Field `ns` of `asyd.time` (R577). -/
def F.asyd_time_ns : Fld := ⟨R.asyd_time, 0, 64⟩
/-- `asyd.offs` (R577). -/
def R.asyd_offs : Reg := ⟨0x21, 0x30, 64, 1, 0, 0x0, .pkg⟩
/-- Field `ns` of `asyd.offs` (R577). -/
def F.asyd_offs_ns : Fld := ⟨R.asyd_offs, 0, 64⟩
/-- `asyd.param` (R577). -/
def R.asyd_param : Reg := ⟨0x21, 0x38, 64, 1, 0, 0x3003C, .pkg⟩
/-- Field `loop` of `asyd.param` (R577). -/
def F.asyd_param_loop : Fld := ⟨R.asyd_param, 17, 1⟩
/-- Field `acct` of `asyd.param` (R577). -/
def F.asyd_param_acct : Fld := ⟨R.asyd_param, 16, 1⟩
/-- Field `interval` of `asyd.param` (R577). -/
def F.asyd_param_interval : Fld := ⟨R.asyd_param, 0, 16⟩
/-- `asyd.label` (R577). -/
def R.asyd_label : Reg := ⟨0x21, 0x40, 64, 1, 0, 0x0, .pkg⟩
/-- Field `label` of `asyd.label` (R577). -/
def F.asyd_label_label : Fld := ⟨R.asyd_label, 0, 64⟩
/-- `asyd.hsel` (R577). -/
def R.asyd_hsel : Reg := ⟨0x21, 0x48, 64, 1, 0, 0x0, .pkg⟩
/-- Field `seq` of `asyd.hsel` (R577). -/
def F.asyd_hsel_seq : Fld := ⟨R.asyd_hsel, 0, 64⟩
/-- `asyd.lsel` (R577). -/
def R.asyd_lsel : Reg := ⟨0x21, 0x50, 32, 1, 0, 0x0, .pkg⟩
/-- Field `index` of `asyd.lsel` (R577). -/
def F.asyd_lsel_index : Fld := ⟨R.asyd_lsel, 0, 10⟩
/-- `asyd.serial` (R577). -/
def R.asyd_serial : Reg := ⟨0x21, 0x58, 64, 1, 0, 0x0, .pkg⟩
/-- Field `serial` of `asyd.serial` (R577). -/
def F.asyd_serial_serial : Fld := ⟨R.asyd_serial, 0, 64⟩
/-- `asyd.pub` (R577). -/
def R.asyd_pub : Reg := ⟨0x21, 0x80, 64, 8, 8, 0x0, .pkg⟩
/-- Field `key` of `asyd.pub` (R577). -/
def F.asyd_pub_key : Fld := ⟨R.asyd_pub, 0, 64⟩
/-- `asyd.cert` (R577). -/
def R.asyd_cert : Reg := ⟨0x21, 0xC0, 64, 8, 8, 0x0, .pkg⟩
/-- Field `cert` of `asyd.cert` (R577). -/
def F.asyd_cert_cert : Fld := ⟨R.asyd_cert, 0, 64⟩
/-- `asyd.hbuf` (R577). -/
def R.asyd_hbuf : Reg := ⟨0x21, 0x100, 64, 81, 8, 0x0, .pkg⟩
/-- Field `hm` of `asyd.hbuf` (R577). -/
def F.asyd_hbuf_hm : Fld := ⟨R.asyd_hbuf, 0, 64⟩
/-- `asyd.lbuf` (R577). -/
def R.asyd_lbuf : Reg := ⟨0x21, 0x400, 64, 8, 8, 0x0, .pkg⟩
/-- Field `entry` of `asyd.lbuf` (R577). -/
def F.asyd_lbuf_entry : Fld := ⟨R.asyd_lbuf, 0, 64⟩

/-- Registers of unit `top` with their fields, part 0. -/
def regs_top_0 : List RegSpec :=
  [⟨"top.id", R.top_id, false, [⟨F.top_id_part, .ro, []⟩, ⟨F.top_id_rev, .ro, []⟩, ⟨F.top_id_lid, .ro, []⟩,
      ⟨F.top_id_die, .ro, []⟩]⟩]

/-- All registers of unit `top`. -/
def regs_top : List RegSpec := regs_top_0

/-- Registers of unit `boot` with their fields, part 0. -/
def regs_boot_0 : List RegSpec :=
  [⟨"boot.stat", R.boot_stat, false, [⟨F.boot_stat_phase, .ro, []⟩, ⟨F.boot_stat_copy, .ro, []⟩, ⟨F.boot_stat_causea, .ro, []⟩,
      ⟨F.boot_stat_causeb, .ro, []⟩, ⟨F.boot_stat_soft, .ro, []⟩, ⟨F.boot_stat_ready, .ro, []⟩,
      ⟨F.boot_stat_wan1, .ro, []⟩, ⟨F.boot_stat_wan0, .ro, []⟩, ⟨F.boot_stat_time, .ro, []⟩,
      ⟨F.boot_stat_tables, .ro, []⟩, ⟨F.boot_stat_master, .ro, []⟩, ⟨F.boot_stat_linkup, .ro, []⟩,
      ⟨F.boot_stat_loaded, .ro, []⟩]⟩,
   ⟨"boot.devid", R.boot_devid, false, [⟨F.boot_devid_site, .ro, []⟩, ⟨F.boot_devid_local, .ro, []⟩]⟩,
   ⟨"boot.cfg", R.boot_cfg, false, [⟨F.boot_cfg_tmo, .ro, []⟩, ⟨F.boot_cfg_ptsync, .ro, []⟩]⟩,
   ⟨"boot.img", R.boot_img, false, [⟨F.boot_img_build, .ro, []⟩]⟩,
   ⟨"boot.svn", R.boot_svn, false, [⟨F.boot_svn_img, .ro, []⟩, ⟨F.boot_svn_min, .ro, []⟩]⟩,
   ⟨"boot.svnup", R.boot_svnup, false, [⟨F.boot_svnup_key, .wo, []⟩]⟩,
   ⟨"boot.ff", R.boot_ff, false, [⟨F.boot_ff_valid, .w1c, []⟩, ⟨F.boot_ff_copy, .ro, []⟩, ⟨F.boot_ff_cause, .ro, []⟩,
      ⟨F.boot_ff_roff, .ro, []⟩]⟩,
   ⟨"boot.ctl", R.boot_ctl, false, [⟨F.boot_ctl_key, .wo, []⟩, ⟨F.boot_ctl_rload, .w1s, []⟩, ⟨F.boot_ctl_reload, .w1s, []⟩]⟩,
   ⟨"boot.nor", R.boot_nor, false, [⟨F.boot_nor_size, .ro, []⟩, ⟨F.boot_nor_clk, .ro, []⟩, ⟨F.boot_nor_mode, .ro, []⟩]⟩,
   ⟨"boot.tload", R.boot_tload, false, [⟨F.boot_tload_us, .ro, []⟩]⟩,
   ⟨"boot.fuse", R.boot_fuse, false, [⟨F.boot_fuse_pkh, .ro, []⟩, ⟨F.boot_fuse_kek, .ro, []⟩, ⟨F.boot_fuse_raises, .ro, []⟩]⟩,
   ⟨"boot.pkh", R.boot_pkh, false, [⟨F.boot_pkh_hash, .ro, []⟩]⟩]

/-- Registers of unit `boot` with their fields, part 1. -/
def regs_boot_1 : List RegSpec :=
  [⟨"boot.kek", R.boot_kek, false, [⟨F.boot_kek_key, .wo, []⟩]⟩,
   ⟨"boot.kekctl", R.boot_kekctl, false, [⟨F.boot_kekctl_key, .wo, []⟩, ⟨F.boot_kekctl_burn, .w1s, []⟩]⟩,
   ⟨"boot.kcv", R.boot_kcv, false, [⟨F.boot_kcv_kcv, .ro, []⟩]⟩]

/-- All registers of unit `boot`. -/
def regs_boot : List RegSpec := regs_boot_0 ++ regs_boot_1

/-- Registers of unit `ctx` with their fields, part 0. -/
def regs_ctx_0 : List RegSpec :=
  [⟨"ctx.base", R.ctx_base, false, [⟨F.ctx_base_base, .rw, []⟩]⟩,
   ⟨"ctx.ctl", R.ctx_ctl, false, [⟨F.ctx_ctl_drop, .w1s, []⟩, ⟨F.ctx_ctl_en, .rw, []⟩]⟩,
   ⟨"ctx.qper", R.ctx_qper, false, [⟨F.ctx_qper_ms, .rw, [(0, 0)]⟩]⟩,
   ⟨"ctx.stat", R.ctx_stat, false, [⟨F.ctx_stat_busy1, .ro, []⟩, ⟨F.ctx_stat_cached1, .ro, []⟩, ⟨F.ctx_stat_busy0, .ro, []⟩,
      ⟨F.ctx_stat_cached0, .ro, []⟩]⟩,
   ⟨"ctx.refresh", R.ctx_refresh, false, [⟨F.ctx_refresh_context, .wo, []⟩]⟩,
   ⟨"ctx.bad_first", R.ctx_bad_first, false, [⟨F.ctx_bad_first_valid, .w1c, []⟩, ⟨F.ctx_bad_first_reason, .ro, []⟩, ⟨F.ctx_bad_first_die, .ro, []⟩,
      ⟨F.ctx_bad_first_context, .ro, []⟩]⟩,
   ⟨"ctx.csel", R.ctx_csel, false, [⟨F.ctx_csel_die, .rw, []⟩, ⟨F.ctx_csel_entry, .rw, []⟩]⟩,
   ⟨"ctx.cdata", R.ctx_cdata, false, [⟨F.ctx_cdata_valid, .ro, []⟩, ⟨F.ctx_cdata_busy, .ro, []⟩, ⟨F.ctx_cdata_pend, .ro, []⟩,
      ⟨F.ctx_cdata_used, .ro, []⟩, ⟨F.ctx_cdata_context, .ro, []⟩]⟩,
   ⟨"ctx.fillq", R.ctx_fillq, false, [⟨F.ctx_fillq_len1, .ro, []⟩, ⟨F.ctx_fillq_len0, .ro, []⟩]⟩,
   ⟨"ctx.tally_ovf", R.ctx_tally_ovf, false, [⟨F.ctx_tally_ovf_ovf, .w1c, []⟩]⟩,
   ⟨"ctx.t_fill", R.ctx_t_fill, true, [⟨F.ctx_t_fill_count, .ro, []⟩]⟩,
   ⟨"ctx.t_evict", R.ctx_t_evict, true, [⟨F.ctx_t_evict_count, .ro, []⟩]⟩]

/-- Registers of unit `ctx` with their fields, part 1. -/
def regs_ctx_1 : List RegSpec :=
  [⟨"ctx.t_wait", R.ctx_t_wait, true, [⟨F.ctx_t_wait_count, .ro, []⟩]⟩,
   ⟨"ctx.t_qstall", R.ctx_t_qstall, true, [⟨F.ctx_t_qstall_count, .ro, []⟩]⟩]

/-- All registers of unit `ctx`. -/
def regs_ctx : List RegSpec := regs_ctx_0 ++ regs_ctx_1

/-- Registers of unit `mmu` with their fields, part 0. -/
def regs_mmu_0 : List RegSpec :=
  [⟨"mmu.inv", R.mmu_inv, false, [⟨F.mmu_inv_go, .w1s, []⟩, ⟨F.mmu_inv_busy, .ro, []⟩, ⟨F.mmu_inv_scope, .rw, [(3, 3)]⟩,
      ⟨F.mmu_inv_context, .rw, []⟩, ⟨F.mmu_inv_va, .rw, []⟩]⟩,
   ⟨"mmu.inv_len", R.mmu_inv_len, false, [⟨F.mmu_inv_len_pages, .rw, []⟩]⟩,
   ⟨"mmu.ff", R.mmu_ff, false, [⟨F.mmu_ff_valid, .w1c, []⟩, ⟨F.mmu_ff_code, .ro, []⟩, ⟨F.mmu_ff_context, .ro, []⟩]⟩,
   ⟨"mmu.ff_det", R.mmu_ff_det, false, [⟨F.mmu_ff_det_detail, .ro, []⟩]⟩,
   ⟨"mmu.fcnt", R.mmu_fcnt, false, [⟨F.mmu_fcnt_count, .rc, []⟩]⟩,
   ⟨"mmu.tally_ovf", R.mmu_tally_ovf, false, [⟨F.mmu_tally_ovf_ovf, .w1c, []⟩]⟩,
   ⟨"mmu.t_dhit", R.mmu_t_dhit, true, [⟨F.mmu_t_dhit_count, .ro, []⟩]⟩,
   ⟨"mmu.t_dmiss", R.mmu_t_dmiss, true, [⟨F.mmu_t_dmiss_count, .ro, []⟩]⟩,
   ⟨"mmu.t_walk", R.mmu_t_walk, true, [⟨F.mmu_t_walk_count, .ro, []⟩]⟩,
   ⟨"mmu.t_inv", R.mmu_t_inv, true, [⟨F.mmu_t_inv_count, .ro, []⟩]⟩]

/-- All registers of unit `mmu`. -/
def regs_mmu : List RegSpec := regs_mmu_0

/-- Registers of unit `dlr` with their fields, part 0. -/
def regs_dlr_0 : List RegSpec :=
  [⟨"dlr.ctl", R.dlr_ctl, false, [⟨F.dlr_ctl_en, .rw, []⟩]⟩,
   ⟨"dlr.db", R.dlr_db, false, [⟨F.dlr_db_rs, .wo, []⟩, ⟨F.dlr_db_region, .wo, []⟩, ⟨F.dlr_db_context, .wo, []⟩,
      ⟨F.dlr_db_tail, .wo, []⟩]⟩,
   ⟨"dlr.wd", R.dlr_wd, false, [⟨F.dlr_wd_lim, .rw, []⟩]⟩,
   ⟨"dlr.kill", R.dlr_kill, false, [⟨F.dlr_kill_region, .wo, []⟩, ⟨F.dlr_kill_slot, .wo, []⟩]⟩,
   ⟨"dlr.fault", R.dlr_fault, false, [⟨F.dlr_fault_hit, .w1c, []⟩]⟩,
   ⟨"dlr.pbinv", R.dlr_pbinv, false, [⟨F.dlr_pbinv_go, .w1s, []⟩, ⟨F.dlr_pbinv_all, .rw, []⟩, ⟨F.dlr_pbinv_context, .rw, []⟩,
      ⟨F.dlr_pbinv_mask, .rw, []⟩]⟩,
   ⟨"dlr.ff_id", R.dlr_ff_id, false, [⟨F.dlr_ff_id_valid, .w1c, []⟩, ⟨F.dlr_ff_id_region, .ro, []⟩, ⟨F.dlr_ff_id_slot, .ro, []⟩,
      ⟨F.dlr_ff_id_context, .ro, []⟩, ⟨F.dlr_ff_id_code, .ro, []⟩]⟩,
   ⟨"dlr.ff_pc", R.dlr_ff_pc, false, [⟨F.dlr_ff_pc_va, .ro, []⟩]⟩,
   ⟨"dlr.ff_det", R.dlr_ff_det, false, [⟨F.dlr_ff_det_detail, .ro, []⟩]⟩,
   ⟨"dlr.tally_ovf", R.dlr_tally_ovf, false, [⟨F.dlr_tally_ovf_ovf, .w1c, []⟩]⟩,
   ⟨"dlr.dsel", R.dlr_dsel, false, [⟨F.dlr_dsel_region, .rw, []⟩, ⟨F.dlr_dsel_slot, .rw, []⟩, ⟨F.dlr_dsel_kind, .rw, []⟩,
      ⟨F.dlr_dsel_index, .rw, []⟩]⟩,
   ⟨"dlr.ddata", R.dlr_ddata, false, [⟨F.dlr_ddata_data, .ro, []⟩]⟩]

/-- Registers of unit `dlr` with their fields, part 1. -/
def regs_dlr_1 : List RegSpec :=
  [⟨"dlr.t_word", R.dlr_t_word, true, [⟨F.dlr_t_word_count, .ro, []⟩]⟩,
   ⟨"dlr.t_hand", R.dlr_t_hand, true, [⟨F.dlr_t_hand_count, .ro, []⟩]⟩,
   ⟨"dlr.t_skip", R.dlr_t_skip, true, [⟨F.dlr_t_skip_count, .ro, []⟩]⟩,
   ⟨"dlr.t_stall", R.dlr_t_stall, true, [⟨F.dlr_t_stall_count, .ro, []⟩]⟩,
   ⟨"dlr.t_item", R.dlr_t_item, true, [⟨F.dlr_t_item_count, .ro, []⟩]⟩,
   ⟨"dlr.t_sync", R.dlr_t_sync, true, [⟨F.dlr_t_sync_count, .ro, []⟩]⟩,
   ⟨"dlr.t_rsv", R.dlr_t_rsv, true, [⟨F.dlr_t_rsv_count, .ro, []⟩]⟩,
   ⟨"dlr.t_rsv2", R.dlr_t_rsv2, true, [⟨F.dlr_t_rsv2_count, .ro, []⟩]⟩,
   ⟨"dlr.slot", R.dlr_slot, false, [⟨F.dlr_slot_context, .ro, []⟩, ⟨F.dlr_slot_depth, .ro, []⟩, ⟨F.dlr_slot_wait, .ro, []⟩,
      ⟨F.dlr_slot_state, .ro, []⟩]⟩,
   ⟨"dlr.slot_pc", R.dlr_slot_pc, false, [⟨F.dlr_slot_pc_pc, .ro, []⟩]⟩,
   ⟨"dlr.slot_item", R.dlr_slot_item, false, [⟨F.dlr_slot_item_item, .ro, []⟩]⟩,
   ⟨"dlr.slot_entry", R.dlr_slot_entry, false, [⟨F.dlr_slot_entry_entry, .ro, []⟩]⟩]

/-- All registers of unit `dlr`. -/
def regs_dlr : List RegSpec := regs_dlr_0 ++ regs_dlr_1

/-- Registers of unit `mxe` with their fields, part 0. -/
def regs_mxe_0 : List RegSpec :=
  [⟨"mxe.ctl", R.mxe_ctl, false, [⟨F.mxe_ctl_bubble, .rw, []⟩]⟩,
   ⟨"mxe.mode", R.mxe_mode, false, [⟨F.mxe_mode_strict, .ro, []⟩, ⟨F.mxe_mode_bubble_eff, .ro, []⟩]⟩,
   ⟨"mxe.freeze_lim", R.mxe_freeze_lim, false, [⟨F.mxe_freeze_lim_lim, .rw, []⟩]⟩,
   ⟨"mxe.cl_svc", R.mxe_cl_svc, false, [⟨F.mxe_cl_svc_off, .rw, []⟩]⟩,
   ⟨"mxe.poison", R.mxe_poison, false, [⟨F.mxe_poison_hit, .w1c, []⟩]⟩,
   ⟨"mxe.poison_first", R.mxe_poison_first, false, [⟨F.mxe_poison_first_valid, .w1c, []⟩, ⟨F.mxe_poison_first_idle, .ro, []⟩, ⟨F.mxe_poison_first_offset, .ro, []⟩,
      ⟨F.mxe_poison_first_engine, .ro, []⟩, ⟨F.mxe_poison_first_context, .ro, []⟩, ⟨F.mxe_poison_first_cause, .ro, []⟩,
      ⟨F.mxe_poison_first_cluster, .ro, []⟩]⟩,
   ⟨"mxe.masked_err", R.mxe_masked_err, false, [⟨F.mxe_masked_err_count, .rc, []⟩]⟩,
   ⟨"mxe.tally_ovf", R.mxe_tally_ovf, false, [⟨F.mxe_tally_ovf_ovf, .w1c, []⟩]⟩,
   ⟨"mxe.bq_ctl", R.mxe_bq_ctl, false, [⟨F.mxe_bq_ctl_en, .rw, []⟩, ⟨F.mxe_bq_ctl_wait, .rw, []⟩]⟩,
   ⟨"mxe.t_busy", R.mxe_t_busy, true, [⟨F.mxe_t_busy_count, .ro, []⟩]⟩,
   ⟨"mxe.t_frz", R.mxe_t_frz, true, [⟨F.mxe_t_frz_count, .ro, []⟩]⟩,
   ⟨"mxe.t_bub", R.mxe_t_bub, true, [⟨F.mxe_t_bub_count, .ro, []⟩]⟩]

/-- Registers of unit `mxe` with their fields, part 1. -/
def regs_mxe_1 : List RegSpec :=
  [⟨"mxe.t_mma", R.mxe_t_mma, true, [⟨F.mxe_t_mma_count, .ro, []⟩]⟩,
   ⟨"mxe.t_bat", R.mxe_t_bat, true, [⟨F.mxe_t_bat_count, .ro, []⟩]⟩,
   ⟨"mxe.t_row", R.mxe_t_row, true, [⟨F.mxe_t_row_count, .ro, []⟩]⟩]

/-- All registers of unit `mxe`. -/
def regs_mxe : List RegSpec := regs_mxe_0 ++ regs_mxe_1

/-- Registers of unit `vxe` with their fields, part 0. -/
def regs_vxe_0 : List RegSpec :=
  [⟨"vxe.ctl", R.vxe_ctl, false, [⟨F.vxe_ctl_res, .rw, []⟩]⟩,
   ⟨"vxe.masked_err", R.vxe_masked_err, false, [⟨F.vxe_masked_err_count, .rc, []⟩]⟩,
   ⟨"vxe.poison", R.vxe_poison, false, [⟨F.vxe_poison_hit, .w1c, []⟩]⟩,
   ⟨"vxe.poison_first", R.vxe_poison_first, false, [⟨F.vxe_poison_first_valid, .w1c, []⟩, ⟨F.vxe_poison_first_idle, .ro, []⟩, ⟨F.vxe_poison_first_offset, .ro, []⟩,
      ⟨F.vxe_poison_first_chain, .ro, []⟩, ⟨F.vxe_poison_first_run, .ro, []⟩, ⟨F.vxe_poison_first_context, .ro, []⟩,
      ⟨F.vxe_poison_first_cause, .ro, []⟩, ⟨F.vxe_poison_first_cluster, .ro, []⟩]⟩,
   ⟨"vxe.tally_ovf", R.vxe_tally_ovf, false, [⟨F.vxe_tally_ovf_ovf, .w1c, []⟩]⟩,
   ⟨"vxe.ch_sel", R.vxe_ch_sel, false, [⟨F.vxe_ch_sel_cluster, .rw, []⟩, ⟨F.vxe_ch_sel_chain, .rw, []⟩, ⟨F.vxe_ch_sel_word, .rw, []⟩]⟩,
   ⟨"vxe.ch_data", R.vxe_ch_data, false, [⟨F.vxe_ch_data_data, .ro, []⟩]⟩,
   ⟨"vxe.t_row", R.vxe_t_row, true, [⟨F.vxe_t_row_count, .ro, []⟩]⟩,
   ⟨"vxe.t_vrow", R.vxe_t_vrow, true, [⟨F.vxe_t_vrow_count, .ro, []⟩]⟩,
   ⟨"vxe.t_hold", R.vxe_t_hold, true, [⟨F.vxe_t_hold_count, .ro, []⟩]⟩,
   ⟨"vxe.t_nan", R.vxe_t_nan, true, [⟨F.vxe_t_nan_count, .ro, []⟩]⟩,
   ⟨"vxe.t_inf", R.vxe_t_inf, true, [⟨F.vxe_t_inf_count, .ro, []⟩]⟩]

/-- Registers of unit `vxe` with their fields, part 1. -/
def regs_vxe_1 : List RegSpec :=
  [⟨"vxe.t_ovf", R.vxe_t_ovf, true, [⟨F.vxe_t_ovf_count, .ro, []⟩]⟩,
   ⟨"vxe.t_rsv", R.vxe_t_rsv, true, [⟨F.vxe_t_rsv_count, .ro, []⟩]⟩,
   ⟨"vxe.t_rsv2", R.vxe_t_rsv2, true, [⟨F.vxe_t_rsv2_count, .ro, []⟩]⟩]

/-- All registers of unit `vxe`. -/
def regs_vxe : List RegSpec := regs_vxe_0 ++ regs_vxe_1

/-- Registers of unit `sram` with their fields, part 0. -/
def regs_sram_0 : List RegSpec :=
  [⟨"sram.carve", R.sram_carve, false, [⟨F.sram_carve_busy, .ro, []⟩, ⟨F.sram_carve_size, .rw, [(5, 7)]⟩]⟩,
   ⟨"sram.scrub", R.sram_scrub, false, [⟨F.sram_scrub_en, .rw, []⟩, ⟨F.sram_scrub_period, .rw, [(0, 0)]⟩]⟩,
   ⟨"sram.ue_first", R.sram_ue_first, false, [⟨F.sram_ue_first_valid, .w1c, []⟩, ⟨F.sram_ue_first_src, .ro, []⟩, ⟨F.sram_ue_first_offset, .ro, []⟩]⟩,
   ⟨"sram.tally_ovf", R.sram_tally_ovf, false, [⟨F.sram_tally_ovf_ovf, .w1c, []⟩]⟩,
   ⟨"sram.t_rd", R.sram_t_rd, true, [⟨F.sram_t_rd_count, .ro, []⟩]⟩,
   ⟨"sram.t_wr", R.sram_t_wr, true, [⟨F.sram_t_wr_count, .ro, []⟩]⟩,
   ⟨"sram.t_bconf", R.sram_t_bconf, true, [⟨F.sram_t_bconf_count, .ro, []⟩]⟩,
   ⟨"sram.t_scrub", R.sram_t_scrub, true, [⟨F.sram_t_scrub_count, .ro, []⟩]⟩,
   ⟨"sram.ce", R.sram_ce, false, [⟨F.sram_ce_count, .rc, []⟩]⟩,
   ⟨"sram.ue", R.sram_ue, false, [⟨F.sram_ue_count, .rc, []⟩]⟩,
   ⟨"sram.cl_ce", R.sram_cl_ce, false, [⟨F.sram_cl_ce_count, .rc, []⟩]⟩,
   ⟨"sram.cl_ue", R.sram_cl_ue, false, [⟨F.sram_cl_ue_count, .rc, []⟩]⟩]

/-- Registers of unit `sram` with their fields, part 1. -/
def regs_sram_1 : List RegSpec :=
  [⟨"sram.carve_hit", R.sram_carve_hit, false, [⟨F.sram_carve_hit_count, .rc, []⟩]⟩,
   ⟨"sram.rsv_wr", R.sram_rsv_wr, false, [⟨F.sram_rsv_wr_count, .rc, []⟩]⟩]

/-- All registers of unit `sram`. -/
def regs_sram : List RegSpec := regs_sram_0 ++ regs_sram_1

/-- Registers of unit `hbm` with their fields, part 0. -/
def regs_hbm_0 : List RegSpec :=
  [⟨"hbm.stat", R.hbm_stat, false, [⟨F.hbm_stat_down, .ro, []⟩, ⟨F.hbm_stat_hot, .ro, []⟩, ⟨F.hbm_stat_train, .ro, []⟩,
      ⟨F.hbm_stat_up, .ro, []⟩]⟩,
   ⟨"hbm.sched", R.hbm_sched, false, [⟨F.hbm_sched_batch, .rw, [(0, 0), (65, 127)]⟩]⟩,
   ⟨"hbm.temp", R.hbm_temp, false, [⟨F.hbm_temp_t0, .ro, []⟩, ⟨F.hbm_temp_t1, .ro, []⟩, ⟨F.hbm_temp_t2, .ro, []⟩,
      ⟨F.hbm_temp_t3, .ro, []⟩]⟩,
   ⟨"hbm.scrub", R.hbm_scrub, false, [⟨F.hbm_scrub_en, .rw, []⟩, ⟨F.hbm_scrub_period, .rw, [(0, 3)]⟩]⟩,
   ⟨"hbm.cew", R.hbm_cew, false, [⟨F.hbm_cew_thr, .rw, []⟩, ⟨F.hbm_cew_win, .rw, [(0, 0)]⟩]⟩,
   ⟨"hbm.own", R.hbm_own, false, [⟨F.hbm_own_ready, .ro, []⟩, ⟨F.hbm_own_own, .rw, []⟩]⟩,
   ⟨"hbm.ue_first", R.hbm_ue_first, false, [⟨F.hbm_ue_first_valid, .w1c, []⟩, ⟨F.hbm_ue_first_pc, .ro, []⟩, ⟨F.hbm_ue_first_offset, .ro, []⟩]⟩,
   ⟨"hbm.tally_ovf", R.hbm_tally_ovf, false, [⟨F.hbm_tally_ovf_ovf, .w1c, []⟩]⟩,
   ⟨"hbm.ce", R.hbm_ce, false, [⟨F.hbm_ce_count, .rc, []⟩]⟩,
   ⟨"hbm.ue", R.hbm_ue, false, [⟨F.hbm_ue_count, .rc, []⟩]⟩,
   ⟨"hbm.prd", R.hbm_prd, false, [⟨F.hbm_prd_count, .rc, []⟩]⟩,
   ⟨"hbm.down_wr", R.hbm_down_wr, false, [⟨F.hbm_down_wr_count, .rc, []⟩]⟩]

/-- Registers of unit `hbm` with their fields, part 1. -/
def regs_hbm_1 : List RegSpec :=
  [⟨"hbm.cwb_drop", R.hbm_cwb_drop, false, [⟨F.hbm_cwb_drop_count, .rc, []⟩]⟩,
   ⟨"hbm.t_rd", R.hbm_t_rd, true, [⟨F.hbm_t_rd_count, .ro, []⟩]⟩,
   ⟨"hbm.t_wr", R.hbm_t_wr, true, [⟨F.hbm_t_wr_count, .ro, []⟩]⟩,
   ⟨"hbm.t_act", R.hbm_t_act, true, [⟨F.hbm_t_act_count, .ro, []⟩]⟩,
   ⟨"hbm.t_ref", R.hbm_t_ref, true, [⟨F.hbm_t_ref_count, .ro, []⟩]⟩,
   ⟨"hbm.t_refcol", R.hbm_t_refcol, true, [⟨F.hbm_t_refcol_count, .ro, []⟩]⟩,
   ⟨"hbm.t_turn", R.hbm_t_turn, true, [⟨F.hbm_t_turn_count, .ro, []⟩]⟩,
   ⟨"hbm.t_bconf", R.hbm_t_bconf, true, [⟨F.hbm_t_bconf_count, .ro, []⟩]⟩,
   ⟨"hbm.t_rmw", R.hbm_t_rmw, true, [⟨F.hbm_t_rmw_count, .ro, []⟩]⟩]

/-- All registers of unit `hbm`. -/
def regs_hbm : List RegSpec := regs_hbm_0 ++ regs_hbm_1

/-- Registers of unit `hcache` with their fields, part 0. -/
def regs_hcache_0 : List RegSpec :=
  [⟨"hcache.ctl", R.hcache_ctl, false, [⟨F.hcache_ctl_keep_max, .rw, [(17, 31)]⟩]⟩,
   ⟨"hcache.wc", R.hcache_wc, false, [⟨F.hcache_wc_age, .rw, []⟩]⟩,
   ⟨"hcache.flush", R.hcache_flush, false, [⟨F.hcache_flush_busy, .ro, []⟩, ⟨F.hcache_flush_go, .w1s, []⟩]⟩,
   ⟨"hcache.tally_ovf", R.hcache_tally_ovf, false, [⟨F.hcache_tally_ovf_ovf, .w1c, []⟩]⟩,
   ⟨"hcache.hw", R.hcache_hw, false, [⟨F.hcache_hw_en, .rw, []⟩, ⟨F.hcache_hw_hint, .rw, [(3, 3)]⟩, ⟨F.hcache_hw_size, .rw, []⟩,
      ⟨F.hcache_hw_base, .rw, []⟩]⟩,
   ⟨"hcache.t_rhit", R.hcache_t_rhit, true, [⟨F.hcache_t_rhit_count, .ro, []⟩]⟩,
   ⟨"hcache.t_rmiss", R.hcache_t_rmiss, true, [⟨F.hcache_t_rmiss_count, .ro, []⟩]⟩,
   ⟨"hcache.t_whit", R.hcache_t_whit, true, [⟨F.hcache_t_whit_count, .ro, []⟩]⟩,
   ⟨"hcache.t_wmiss", R.hcache_t_wmiss, true, [⟨F.hcache_t_wmiss_count, .ro, []⟩]⟩,
   ⟨"hcache.t_wb", R.hcache_t_wb, true, [⟨F.hcache_t_wb_count, .ro, []⟩]⟩,
   ⟨"hcache.t_ldrop", R.hcache_t_ldrop, true, [⟨F.hcache_t_ldrop_count, .ro, []⟩]⟩,
   ⟨"hcache.t_wcm", R.hcache_t_wcm, true, [⟨F.hcache_t_wcm_count, .ro, []⟩]⟩]

/-- Registers of unit `hcache` with their fields, part 1. -/
def regs_hcache_1 : List RegSpec :=
  [⟨"hcache.t_wcf", R.hcache_t_wcf, true, [⟨F.hcache_t_wcf_count, .ro, []⟩]⟩]

/-- All registers of unit `hcache`. -/
def regs_hcache : List RegSpec := regs_hcache_0 ++ regs_hcache_1

/-- Registers of unit `tgen` with their fields, part 0. -/
def regs_tgen_0 : List RegSpec :=
  [⟨"tgen.ctl", R.tgen_ctl, false, [⟨F.tgen_ctl_go, .w1s, []⟩, ⟨F.tgen_ctl_stop, .w1s, []⟩, ⟨F.tgen_ctl_busy, .ro, []⟩,
      ⟨F.tgen_ctl_chk, .rw, []⟩, ⟨F.tgen_ctl_size, .rw, []⟩, ⟨F.tgen_ctl_rmix, .rw, [(9, 15)]⟩,
      ⟨F.tgen_ctl_dpat, .rw, [(6, 15)]⟩, ⟨F.tgen_ctl_apat, .rw, [(3, 3)]⟩]⟩,
   ⟨"tgen.cnt", R.tgen_cnt, false, [⟨F.tgen_cnt_count, .rw, [(0, 0)]⟩]⟩,
   ⟨"tgen.done", R.tgen_done, false, [⟨F.tgen_done_aborted, .w1c, []⟩, ⟨F.tgen_done_done, .w1c, []⟩]⟩,
   ⟨"tgen.range", R.tgen_range, false, [⟨F.tgen_range_row_hi, .rw, [(12288, 16383)]⟩, ⟨F.tgen_range_row_lo, .rw, [(12288, 16383)]⟩]⟩,
   ⟨"tgen.seed", R.tgen_seed, false, [⟨F.tgen_seed_seed, .rw, []⟩]⟩,
   ⟨"tgen.en", R.tgen_en, false, [⟨F.tgen_en_en, .rw, []⟩]⟩,
   ⟨"tgen.err", R.tgen_err, false, [⟨F.tgen_err_count, .rc, []⟩]⟩,
   ⟨"tgen.ffail", R.tgen_ffail, false, [⟨F.tgen_ffail_valid, .w1c, []⟩, ⟨F.tgen_ffail_ue, .ro, []⟩, ⟨F.tgen_ffail_bit, .ro, []⟩,
      ⟨F.tgen_ffail_sid, .ro, []⟩, ⟨F.tgen_ffail_bg, .ro, []⟩, ⟨F.tgen_ffail_bank, .ro, []⟩,
      ⟨F.tgen_ffail_row, .ro, []⟩, ⟨F.tgen_ffail_chunk, .ro, []⟩]⟩]

/-- All registers of unit `tgen`. -/
def regs_tgen : List RegSpec := regs_tgen_0

/-- Registers of unit `lnk` with their fields, part 0. -/
def regs_lnk_0 : List RegSpec :=
  [⟨"lnk.ctl", R.lnk_ctl, false, [⟨F.lnk_ctl_auto, .rw, []⟩, ⟨F.lnk_ctl_adapt, .rw, []⟩, ⟨F.lnk_ctl_en, .rw, []⟩]⟩,
   ⟨"lnk.retry", R.lnk_retry, false, [⟨F.lnk_retry_max, .rw, [(0, 0)]⟩]⟩,
   ⟨"lnk.arb", R.lnk_arb, false, [⟨F.lnk_arb_w_seg, .rw, [(0, 0)]⟩, ⟨F.lnk_arb_w_req, .rw, [(0, 0)]⟩]⟩,
   ⟨"lnk.drop", R.lnk_drop, false, [⟨F.lnk_drop_count, .rc, []⟩]⟩,
   ⟨"lnk.tally_ovf", R.lnk_tally_ovf, false, [⟨F.lnk_tally_ovf_ovf, .w1c, []⟩]⟩,
   ⟨"lnk.ff", R.lnk_ff, false, [⟨F.lnk_ff_valid, .w1c, []⟩, ⟨F.lnk_ff_cause, .ro, []⟩, ⟨F.lnk_ff_link, .ro, []⟩]⟩,
   ⟨"lnk.stat", R.lnk_stat, false, [⟨F.lnk_stat_state, .ro, []⟩, ⟨F.lnk_stat_q, .ro, []⟩, ⟨F.lnk_stat_lanes, .ro, []⟩]⟩,
   ⟨"lnk.peer", R.lnk_peer, false, [⟨F.lnk_peer_chk, .rw, []⟩, ⟨F.lnk_peer_exp_node, .rw, []⟩, ⟨F.lnk_peer_exp_link, .rw, []⟩,
      ⟨F.lnk_peer_obs_node, .ro, []⟩, ⟨F.lnk_peer_obs_link, .ro, []⟩]⟩,
   ⟨"lnk.t_tx", R.lnk_t_tx, true, [⟨F.lnk_t_tx_count, .ro, []⟩]⟩,
   ⟨"lnk.t_rx", R.lnk_t_rx, true, [⟨F.lnk_t_rx_count, .ro, []⟩]⟩,
   ⟨"lnk.t_replay", R.lnk_t_replay, true, [⟨F.lnk_t_replay_count, .ro, []⟩]⟩,
   ⟨"lnk.t_rtr", R.lnk_t_rtr, true, [⟨F.lnk_t_rtr_count, .ro, []⟩]⟩]

/-- Registers of unit `lnk` with their fields, part 1. -/
def regs_lnk_1 : List RegSpec :=
  [⟨"lnk.t_hold", R.lnk_t_hold, true, [⟨F.lnk_t_hold_count, .ro, []⟩]⟩,
   ⟨"lnk.t_adapt", R.lnk_t_adapt, true, [⟨F.lnk_t_adapt_count, .ro, []⟩]⟩,
   ⟨"lnk.fwd", R.lnk_fwd, false, [⟨F.lnk_fwd_pri0, .rw, [(18, 61)]⟩, ⟨F.lnk_fwd_alt0, .rw, [(18, 61)]⟩,
     ⟨F.lnk_fwd_pri1, .rw, [(18, 61)]⟩, ⟨F.lnk_fwd_alt1, .rw, [(18, 61)]⟩]⟩]

/-- All registers of unit `lnk`. -/
def regs_lnk : List RegSpec := regs_lnk_0 ++ regs_lnk_1

/-- Registers of unit `col` with their fields, part 0. -/
def regs_col_0 : List RegSpec :=
  [⟨"col.ctl", R.col_ctl, false, [⟨F.col_ctl_en, .rw, []⟩]⟩,
   ⟨"col.tmo", R.col_tmo, false, [⟨F.col_tmo_us, .rw, []⟩]⟩,
   ⟨"col.stat", R.col_stat, false, [⟨F.col_stat_active, .ro, []⟩, ⟨F.col_stat_q, .ro, []⟩, ⟨F.col_stat_store, .ro, []⟩]⟩,
   ⟨"col.tally_ovf", R.col_tally_ovf, false, [⟨F.col_tally_ovf_ovf, .w1c, []⟩]⟩,
   ⟨"col.ff", R.col_ff, false, [⟨F.col_ff_valid, .w1c, []⟩, ⟨F.col_ff_peer, .ro, []⟩, ⟨F.col_ff_code, .ro, []⟩,
      ⟨F.col_ff_rt, .ro, []⟩, ⟨F.col_ff_context, .ro, []⟩, ⟨F.col_ff_inst, .ro, []⟩]⟩,
   ⟨"col.t_segtx", R.col_t_segtx, true, [⟨F.col_t_segtx_count, .ro, []⟩]⟩,
   ⟨"col.t_segrx", R.col_t_segrx, true, [⟨F.col_t_segrx_count, .ro, []⟩]⟩,
   ⟨"col.t_dup", R.col_t_dup, true, [⟨F.col_t_dup_count, .ro, []⟩]⟩,
   ⟨"col.t_oos", R.col_t_oos, true, [⟨F.col_t_oos_count, .ro, []⟩]⟩,
   ⟨"col.t_reiss", R.col_t_reiss, true, [⟨F.col_t_reiss_count, .ro, []⟩]⟩,
   ⟨"col.t_fadd", R.col_t_fadd, true, [⟨F.col_t_fadd_count, .ro, []⟩]⟩,
   ⟨"col.t_done", R.col_t_done, true, [⟨F.col_t_done_count, .ro, []⟩]⟩]

/-- Registers of unit `col` with their fields, part 1. -/
def regs_col_1 : List RegSpec :=
  [⟨"col.t_fault", R.col_t_fault, true, [⟨F.col_t_fault_count, .ro, []⟩]⟩,
   ⟨"col.rt", R.col_rt, false, [⟨F.col_rt_w, .rw, []⟩]⟩]

/-- All registers of unit `col`. -/
def regs_col : List RegSpec := regs_col_0 ++ regs_col_1

/-- Registers of unit `kit` with their fields, part 0. -/
def regs_kit_0 : List RegSpec :=
  [⟨"kit.stat", R.kit_stat, false, [⟨F.kit_stat_used, .ro, []⟩]⟩,
   ⟨"kit.refused", R.kit_refused, false, [⟨F.kit_refused_count, .rc, []⟩]⟩,
   ⟨"kit.tally_ovf", R.kit_tally_ovf, false, [⟨F.kit_tally_ovf_ovf, .w1c, []⟩]⟩,
   ⟨"kit.t_add", R.kit_t_add, true, [⟨F.kit_t_add_count, .ro, []⟩]⟩,
   ⟨"kit.t_rd", R.kit_t_rd, true, [⟨F.kit_t_rd_count, .ro, []⟩]⟩,
   ⟨"kit.t_inx", R.kit_t_inx, true, [⟨F.kit_t_inx_count, .ro, []⟩]⟩]

/-- All registers of unit `kit`. -/
def regs_kit : List RegSpec := regs_kit_0

/-- Registers of unit `meld` with their fields, part 0. -/
def regs_meld_0 : List RegSpec :=
  [⟨"meld.ctl", R.meld_ctl, false, [⟨F.meld_ctl_early, .rw, []⟩]⟩,
   ⟨"meld.cfg", R.meld_cfg, false, [⟨F.meld_cfg_site, .rw, []⟩]⟩,
   ⟨"meld.jtmo", R.meld_jtmo, false, [⟨F.meld_jtmo_s, .rw, [(0, 0)]⟩]⟩,
   ⟨"meld.mstr", R.meld_mstr, false, [⟨F.meld_mstr_master, .ro, []⟩]⟩,
   ⟨"meld.pt_base", R.meld_pt_base, false, [⟨F.meld_pt_base_base, .rw, []⟩]⟩,
   ⟨"meld.ff", R.meld_ff, false, [⟨F.meld_ff_valid, .w1c, []⟩, ⟨F.meld_ff_slot, .ro, []⟩, ⟨F.meld_ff_code, .ro, []⟩,
      ⟨F.meld_ff_trick, .ro, []⟩]⟩,
   ⟨"meld.kstat", R.meld_kstat, false, [⟨F.meld_kstat_intake, .ro, []⟩, ⟨F.meld_kstat_cells, .ro, []⟩]⟩,
   ⟨"meld.tally_ovf", R.meld_tally_ovf, false, [⟨F.meld_tally_ovf_ovf, .w1c, []⟩]⟩,
   ⟨"meld.t_rx", R.meld_t_rx, true, [⟨F.meld_t_rx_count, .ro, []⟩]⟩,
   ⟨"meld.t_merge", R.meld_t_merge, true, [⟨F.meld_t_merge_count, .ro, []⟩]⟩,
   ⟨"meld.t_stale", R.meld_t_stale, true, [⟨F.meld_t_stale_count, .ro, []⟩]⟩,
   ⟨"meld.t_early", R.meld_t_early, true, [⟨F.meld_t_early_count, .ro, []⟩]⟩]

/-- Registers of unit `meld` with their fields, part 1. -/
def regs_meld_1 : List RegSpec :=
  [⟨"meld.t_dup", R.meld_t_dup, true, [⟨F.meld_t_dup_count, .ro, []⟩]⟩,
   ⟨"meld.t_bad", R.meld_t_bad, true, [⟨F.meld_t_bad_count, .ro, []⟩]⟩,
   ⟨"meld.t_wmis", R.meld_t_wmis, true, [⟨F.meld_t_wmis_count, .ro, []⟩]⟩,
   ⟨"meld.t_miss", R.meld_t_miss, true, [⟨F.meld_t_miss_count, .ro, []⟩]⟩,
   ⟨"meld.t_close", R.meld_t_close, true, [⟨F.meld_t_close_count, .ro, []⟩]⟩,
   ⟨"meld.t_eclose", R.meld_t_eclose, true, [⟨F.meld_t_eclose_count, .ro, []⟩]⟩,
   ⟨"meld.t_out", R.meld_t_out, true, [⟨F.meld_t_out_count, .ro, []⟩]⟩,
   ⟨"meld.t_outlost", R.meld_t_outlost, true, [⟨F.meld_t_outlost_count, .ro, []⟩]⟩,
   ⟨"meld.t_relay", R.meld_t_relay, true, [⟨F.meld_t_relay_count, .ro, []⟩]⟩,
   ⟨"meld.t_bulk", R.meld_t_bulk, true, [⟨F.meld_t_bulk_count, .ro, []⟩]⟩,
   ⟨"meld.t_nonfin", R.meld_t_nonfin, true, [⟨F.meld_t_nonfin_count, .ro, []⟩]⟩,
   ⟨"meld.t_held", R.meld_t_held, true, [⟨F.meld_t_held_count, .ro, []⟩]⟩]

/-- Registers of unit `meld` with their fields, part 2. -/
def regs_meld_2 : List RegSpec :=
  [⟨"meld.job_desc", R.meld_job_desc, false, [⟨F.meld_job_desc_en, .rw, []⟩, ⟨F.meld_job_desc_base, .rw, []⟩]⟩,
   ⟨"meld.job_st", R.meld_job_st, false, [⟨F.meld_job_st_state, .ro, []⟩, ⟨F.meld_job_st_held, .ro, []⟩]⟩,
   ⟨"meld.job_acc", R.meld_job_acc, true, [⟨F.meld_job_acc_trick, .ro, []⟩]⟩,
   ⟨"meld.job_applied", R.meld_job_applied, true, [⟨F.meld_job_applied_trick, .ro, []⟩]⟩,
   ⟨"meld.job_tdl", R.meld_job_tdl, false, [⟨F.meld_job_tdl_tai, .ro, []⟩]⟩,
   ⟨"meld.job_mf", R.meld_job_mf, false, [⟨F.meld_job_mf_pa, .ro, []⟩]⟩,
   ⟨"meld.job_r6", R.meld_job_r6, false, []⟩,
   ⟨"meld.job_r7", R.meld_job_r7, false, []⟩]

/-- All registers of unit `meld`. -/
def regs_meld : List RegSpec := regs_meld_0 ++ regs_meld_1 ++ regs_meld_2

/-- Registers of unit `codec` with their fields, part 0. -/
def regs_codec_0 : List RegSpec :=
  [⟨"codec.ctl", R.codec_ctl, false, [⟨F.codec_ctl_inval, .w1s, []⟩]⟩,
   ⟨"codec.werr", R.codec_werr, false, [⟨F.codec_werr_count, .rc, []⟩]⟩,
   ⟨"codec.derr", R.codec_derr, false, [⟨F.codec_derr_count, .rc, []⟩]⟩,
   ⟨"codec.tally_ovf", R.codec_tally_ovf, false, [⟨F.codec_tally_ovf_ovf, .w1c, []⟩]⟩,
   ⟨"codec.werr_first", R.codec_werr_first, false, [⟨F.codec_werr_first_valid, .w1c, []⟩, ⟨F.codec_werr_first_cause, .ro, []⟩, ⟨F.codec_werr_first_window, .ro, []⟩,
      ⟨F.codec_werr_first_slot, .ro, []⟩]⟩,
   ⟨"codec.ww", R.codec_ww, false, [⟨F.codec_ww_en, .rw, []⟩, ⟨F.codec_ww_size, .rw, []⟩, ⟨F.codec_ww_base, .rw, []⟩]⟩,
   ⟨"codec.wm", R.codec_wm, false, [⟨F.codec_wm_base, .rw, []⟩]⟩,
   ⟨"codec.t_enc", R.codec_t_enc, true, [⟨F.codec_t_enc_count, .ro, []⟩]⟩,
   ⟨"codec.t_dec", R.codec_t_dec, true, [⟨F.codec_t_dec_count, .ro, []⟩]⟩,
   ⟨"codec.t_sat", R.codec_t_sat, true, [⟨F.codec_t_sat_count, .ro, []⟩]⟩,
   ⟨"codec.t_nonfin", R.codec_t_nonfin, true, [⟨F.codec_t_nonfin_count, .ro, []⟩]⟩,
   ⟨"codec.t_wexp", R.codec_t_wexp, true, [⟨F.codec_t_wexp_count, .ro, []⟩]⟩]

/-- Registers of unit `codec` with their fields, part 1. -/
def regs_codec_1 : List RegSpec :=
  [⟨"codec.t_wbuf", R.codec_t_wbuf, true, [⟨F.codec_t_wbuf_count, .ro, []⟩]⟩,
   ⟨"codec.t_wrd", R.codec_t_wrd, true, [⟨F.codec_t_wrd_count, .ro, []⟩]⟩,
   ⟨"codec.t_wout", R.codec_t_wout, true, [⟨F.codec_t_wout_count, .ro, []⟩]⟩,
   ⟨"codec.t_mmiss", R.codec_t_mmiss, true, [⟨F.codec_t_mmiss_count, .ro, []⟩]⟩]

/-- All registers of unit `codec`. -/
def regs_codec : List RegSpec := regs_codec_0 ++ regs_codec_1

/-- Registers of unit `wan` with their fields, part 0. -/
def regs_wan_0 : List RegSpec :=
  [⟨"wan.ctl", R.wan_ctl, false, [⟨F.wan_ctl_nd, .rw, []⟩, ⟨F.wan_ctl_v4, .rw, []⟩, ⟨F.wan_ctl_vlan, .rw, []⟩,
      ⟨F.wan_ctl_auto, .rw, []⟩, ⟨F.wan_ctl_en, .rw, []⟩]⟩,
   ⟨"wan.stat", R.wan_stat, false, [⟨F.wan_stat_state, .ro, []⟩, ⟨F.wan_stat_lanes, .ro, []⟩]⟩,
   ⟨"wan.mac", R.wan_mac, false, [⟨F.wan_mac_mac, .rw, []⟩]⟩,
   ⟨"wan.nh", R.wan_nh, false, [⟨F.wan_nh_mac, .rw, []⟩]⟩,
   ⟨"wan.ip6_hi", R.wan_ip6_hi, false, [⟨F.wan_ip6_hi_hi, .rw, []⟩]⟩,
   ⟨"wan.ip6_lo", R.wan_ip6_lo, false, [⟨F.wan_ip6_lo_lo, .rw, []⟩]⟩,
   ⟨"wan.ip4", R.wan_ip4, false, [⟨F.wan_ip4_addr, .rw, []⟩]⟩,
   ⟨"wan.udp", R.wan_udp, false, [⟨F.wan_udp_dport, .rw, []⟩, ⟨F.wan_udp_sport, .rw, []⟩]⟩,
   ⟨"wan.ipo", R.wan_ipo, false, [⟨F.wan_ipo_hop, .rw, [(0, 0)]⟩, ⟨F.wan_ipo_dscp_ptp, .rw, []⟩, ⟨F.wan_ipo_dscp_ctl, .rw, []⟩,
      ⟨F.wan_ipo_dscp_bulk, .rw, []⟩]⟩,
   ⟨"wan.vlan", R.wan_vlan, false, [⟨F.wan_vlan_pcp_ptp, .rw, []⟩, ⟨F.wan_vlan_pcp_ctl, .rw, []⟩, ⟨F.wan_vlan_pcp_bulk, .rw, []⟩,
      ⟨F.wan_vlan_vid, .rw, [(0, 0), (4095, 4095)]⟩]⟩,
   ⟨"wan.alt", R.wan_alt, false, [⟨F.wan_alt_en, .rw, []⟩, ⟨F.wan_alt_alt, .rw, []⟩]⟩,
   ⟨"wan.rep", R.wan_rep, false, [⟨F.wan_rep_max, .rw, []⟩, ⟨F.wan_rep_ivl, .rw, [(0, 0)]⟩, ⟨F.wan_rep_margin, .rw, []⟩]⟩]

/-- Registers of unit `wan` with their fields, part 1. -/
def regs_wan_1 : List RegSpec :=
  [⟨"wan.repw", R.wan_repw, false, [⟨F.wan_repw_win, .rw, []⟩, ⟨F.wan_repw_sum, .rw, [(0, 0)]⟩]⟩,
   ⟨"wan.crto", R.wan_crto, false, [⟨F.wan_crto_cage, .rw, [(0, 0)]⟩, ⟨F.wan_crto_cmax, .rw, [(0, 0)]⟩, ⟨F.wan_crto_rto, .rw, [(0, 0)]⟩]⟩,
   ⟨"wan.drop", R.wan_drop, false, [⟨F.wan_drop_count, .rc, []⟩]⟩,
   ⟨"wan.tally_ovf", R.wan_tally_ovf, false, [⟨F.wan_tally_ovf_ovf, .w1c, []⟩]⟩,
   ⟨"wan.ff", R.wan_ff, false, [⟨F.wan_ff_valid, .w1c, []⟩, ⟨F.wan_ff_cause, .ro, []⟩, ⟨F.wan_ff_state, .ro, []⟩]⟩,
   ⟨"wan.rst_base", R.wan_rst_base, false, [⟨F.wan_rst_base_en, .rw, []⟩, ⟨F.wan_rst_base_base, .rw, []⟩]⟩,
   ⟨"wan.rst_geo", R.wan_rst_geo, false, [⟨F.wan_rst_geo_size, .rw, []⟩, ⟨F.wan_rst_geo_fmax, .rw, [(8193, 65535)]⟩]⟩,
   ⟨"wan.t_tx", R.wan_t_tx, true, [⟨F.wan_t_tx_count, .ro, []⟩]⟩,
   ⟨"wan.t_rx", R.wan_t_rx, true, [⟨F.wan_t_rx_count, .ro, []⟩]⟩,
   ⟨"wan.t_txb", R.wan_t_txb, true, [⟨F.wan_t_txb_count, .ro, []⟩]⟩,
   ⟨"wan.t_rxb", R.wan_t_rxb, true, [⟨F.wan_t_rxb_count, .ro, []⟩]⟩,
   ⟨"wan.t_dext", R.wan_t_dext, true, [⟨F.wan_t_dext_count, .ro, []⟩]⟩]

/-- Registers of unit `wan` with their fields, part 2. -/
def regs_wan_2 : List RegSpec :=
  [⟨"wan.t_dfmt", R.wan_t_dfmt, true, [⟨F.wan_t_dfmt_count, .ro, []⟩]⟩,
   ⟨"wan.t_pskip", R.wan_t_pskip, true, [⟨F.wan_t_pskip_count, .ro, []⟩]⟩,
   ⟨"wan.t_hold", R.wan_t_hold, true, [⟨F.wan_t_hold_count, .ro, []⟩]⟩,
   ⟨"wan.t_rrt", R.wan_t_rrt, true, [⟨F.wan_t_rrt_count, .ro, []⟩]⟩,
   ⟨"wan.t_hdrop", R.wan_t_hdrop, true, [⟨F.wan_t_hdrop_count, .ro, []⟩]⟩,
   ⟨"wan.t_nack", R.wan_t_nack, true, [⟨F.wan_t_nack_count, .ro, []⟩]⟩,
   ⟨"wan.t_rep", R.wan_t_rep, true, [⟨F.wan_t_rep_count, .ro, []⟩]⟩,
   ⟨"wan.t_replate", R.wan_t_replate, true, [⟨F.wan_t_replate_count, .ro, []⟩]⟩,
   ⟨"wan.t_nost", R.wan_t_nost, true, [⟨F.wan_t_nost_count, .ro, []⟩]⟩,
   ⟨"wan.t_crtx", R.wan_t_crtx, true, [⟨F.wan_t_crtx_count, .ro, []⟩]⟩,
   ⟨"wan.t_cdrop", R.wan_t_cdrop, true, [⟨F.wan_t_cdrop_count, .ro, []⟩]⟩]

/-- All registers of unit `wan`. -/
def regs_wan : List RegSpec := regs_wan_0 ++ regs_wan_1 ++ regs_wan_2

/-- Registers of unit `cip` with their fields, part 0. -/
def regs_cip_0 : List RegSpec :=
  [⟨"cip.ctl", R.cip_ctl, false, [⟨F.cip_ctl_en, .rw, []⟩]⟩,
   ⟨"cip.ld", R.cip_ld, false, [⟨F.cip_ld_go, .w1s, []⟩, ⟨F.cip_ld_busy, .ro, []⟩, ⟨F.cip_ld_fail, .w1c, []⟩,
      ⟨F.cip_ld_pair, .rw, []⟩, ⟨F.cip_ld_gen, .rw, []⟩, ⟨F.cip_ld_e0, .rw, [(4294967295, 4294967295)]⟩]⟩,
   ⟨"cip.ld_elim", R.cip_ld_elim, false, [⟨F.cip_ld_elim_elim, .rw, []⟩]⟩,
   ⟨"cip.tally_ovf", R.cip_tally_ovf, false, [⟨F.cip_tally_ovf_ovf, .w1c, []⟩]⟩,
   ⟨"cip.t_seal", R.cip_t_seal, true, [⟨F.cip_t_seal_count, .ro, []⟩]⟩,
   ⟨"cip.t_open", R.cip_t_open, true, [⟨F.cip_t_open_count, .ro, []⟩]⟩,
   ⟨"cip.t_authfail", R.cip_t_authfail, true, [⟨F.cip_t_authfail_count, .ro, []⟩]⟩,
   ⟨"cip.t_roll", R.cip_t_roll, true, [⟨F.cip_t_roll_count, .ro, []⟩]⟩,
   ⟨"cip.t_derive", R.cip_t_derive, true, [⟨F.cip_t_derive_count, .ro, []⟩]⟩,
   ⟨"cip.t_miss", R.cip_t_miss, true, [⟨F.cip_t_miss_count, .ro, []⟩]⟩,
   ⟨"cip.t_mdrop", R.cip_t_mdrop, true, [⟨F.cip_t_mdrop_count, .ro, []⟩]⟩,
   ⟨"cip.t_susp", R.cip_t_susp, true, [⟨F.cip_t_susp_count, .ro, []⟩]⟩]

/-- Registers of unit `cip` with their fields, part 1. -/
def regs_cip_1 : List RegSpec :=
  [⟨"cip.t_ewin", R.cip_t_ewin, true, [⟨F.cip_t_ewin_count, .ro, []⟩]⟩,
   ⟨"cip.wrap", R.cip_wrap, false, [⟨F.cip_wrap_w, .wo, []⟩]⟩,
   ⟨"cip.pair_ctl", R.cip_pair_ctl, false, [⟨F.cip_pair_ctl_roll, .w1s, []⟩, ⟨F.cip_pair_ctl_use, .w1s, []⟩, ⟨F.cip_pair_ctl_dropold, .w1s, []⟩,
      ⟨F.cip_pair_ctl_ugen, .rw, []⟩]⟩,
   ⟨"cip.pair_stat", R.cip_pair_stat, false, [⟨F.cip_pair_stat_state, .ro, []⟩, ⟨F.cip_pair_stat_va, .ro, []⟩, ⟨F.cip_pair_stat_vb, .ro, []⟩,
      ⟨F.cip_pair_stat_txgen, .ro, []⟩, ⟨F.cip_pair_stat_gena, .ro, []⟩, ⟨F.cip_pair_stat_genb, .ro, []⟩]⟩,
   ⟨"cip.pair_epoch", R.cip_pair_epoch, false, [⟨F.cip_pair_epoch_epoch, .ro, []⟩]⟩,
   ⟨"cip.pair_count", R.cip_pair_count, false, [⟨F.cip_pair_count_count, .ro, []⟩]⟩,
   ⟨"cip.pair_pn", R.cip_pair_pn, true, [⟨F.cip_pair_pn_pn, .ro, []⟩]⟩,
   ⟨"cip.pair_sess", R.cip_pair_sess, false, [⟨F.cip_pair_sess_sess, .ro, []⟩, ⟨F.cip_pair_sess_elim, .rw, []⟩]⟩]

/-- All registers of unit `cip`. -/
def regs_cip : List RegSpec := regs_cip_0 ++ regs_cip_1

/-- Registers of unit `time` with their fields, part 0. -/
def regs_time_0 : List RegSpec :=
  [⟨"time.ctl", R.time_ctl, false, [⟨F.time_ctl_en, .rw, []⟩, ⟨F.time_ctl_slew, .rw, [(0, 0), (51, 255)]⟩, ⟨F.time_ctl_sel, .rw, []⟩]⟩,
   ⟨"time.stat", R.time_stat, false, [⟨F.time_stat_state, .ro, []⟩, ⟨F.time_stat_src, .ro, []⟩, ⟨F.time_stat_quality, .ro, []⟩,
      ⟨F.time_stat_dist, .ro, []⟩, ⟨F.time_stat_ref10, .ro, []⟩, ⟨F.time_stat_qual, .ro, []⟩,
      ⟨F.time_stat_master, .ro, []⟩]⟩,
   ⟨"time.now", R.time_now, true, [⟨F.time_now_tai, .ro, []⟩]⟩,
   ⟨"time.adj", R.time_adj, false, [⟨F.time_adj_adj, .ro, []⟩]⟩,
   ⟨"time.offs", R.time_offs, false, [⟨F.time_offs_e, .ro, []⟩]⟩,
   ⟨"time.step", R.time_step, false, [⟨F.time_step_delta, .wo, []⟩]⟩,
   ⟨"time.utc", R.time_utc, false, [⟨F.time_utc_zda_next, .rw, []⟩, ⟨F.time_utc_baud, .rw, [(5, 7)]⟩, ⟨F.time_utc_off, .rw, []⟩]⟩,
   ⟨"time.lock", R.time_lock, false, [⟨F.time_lock_th, .rw, [(0, 0)]⟩, ⟨F.time_lock_n, .rw, [(0, 0)]⟩]⟩,
   ⟨"time.hold", R.time_hold, false, [⟨F.time_hold_max, .rw, [(0, 0)]⟩]⟩,
   ⟨"time.ptp", R.time_ptp, false, [⟨F.time_ptp_domain, .rw, []⟩, ⟨F.time_ptp_en, .rw, []⟩]⟩,
   ⟨"time.ptp_gm", R.time_ptp_gm, false, [⟨F.time_ptp_gm_id, .ro, []⟩]⟩,
   ⟨"time.ff", R.time_ff, false, [⟨F.time_ff_valid, .w1c, []⟩, ⟨F.time_ff_src, .ro, []⟩, ⟨F.time_ff_cause, .ro, []⟩]⟩]

/-- Registers of unit `time` with their fields, part 1. -/
def regs_time_1 : List RegSpec :=
  [⟨"time.tally_ovf", R.time_tally_ovf, false, [⟨F.time_tally_ovf_ovf, .w1c, []⟩]⟩,
   ⟨"time.ldly", R.time_ldly, false, [⟨F.time_ldly_valid, .ro, []⟩, ⟨F.time_ldly_dly, .ro, []⟩]⟩,
   ⟨"time.t_pps", R.time_t_pps, true, [⟨F.time_t_pps_count, .ro, []⟩]⟩,
   ⟨"time.t_zda", R.time_t_zda, true, [⟨F.time_t_zda_count, .ro, []⟩]⟩,
   ⟨"time.t_zbad", R.time_t_zbad, true, [⟨F.time_t_zbad_count, .ro, []⟩]⟩,
   ⟨"time.t_sync", R.time_t_sync, true, [⟨F.time_t_sync_count, .ro, []⟩]⟩,
   ⟨"time.t_hb", R.time_t_hb, true, [⟨F.time_t_hb_count, .ro, []⟩]⟩,
   ⟨"time.t_slew", R.time_t_slew, true, [⟨F.time_t_slew_count, .ro, []⟩]⟩]

/-- All registers of unit `time`. -/
def regs_time : List RegSpec := regs_time_0 ++ regs_time_1

/-- Registers of unit `det` with their fields, part 0. -/
def regs_det_0 : List RegSpec :=
  [⟨"det.ctl", R.det_ctl, false, [⟨F.det_ctl_rp, .rw, []⟩, ⟨F.det_ctl_dg, .rw, []⟩, ⟨F.det_ctl_strict, .rw, []⟩]⟩,
   ⟨"det.stat", R.det_stat, false, [⟨F.det_stat_tw, .ro, []⟩, ⟨F.det_stat_settled, .ro, []⟩]⟩,
   ⟨"det.tw", R.det_tw, false, [⟨F.det_tw_mode, .rw, [(3, 3)]⟩, ⟨F.det_tw_peer, .rw, []⟩, ⟨F.det_tw_ctx_b, .rw, []⟩,
      ⟨F.det_tw_ctx_a, .rw, []⟩, ⟨F.det_tw_rmask, .rw, []⟩, ⟨F.det_tw_lag, .rw, [(0, 0), (33, 63)]⟩]⟩,
   ⟨"det.tw_tmo", R.det_tw_tmo, false, [⟨F.det_tw_tmo_us, .rw, [(0, 0)]⟩]⟩,
   ⟨"det.tw_buf", R.det_tw_buf, false, [⟨F.det_tw_buf_pa, .rw, []⟩]⟩,
   ⟨"det.tw_pbuf", R.det_tw_pbuf, false, [⟨F.det_tw_pbuf_pa, .rw, []⟩]⟩,
   ⟨"det.tw_mm", R.det_tw_mm, false, [⟨F.det_tw_mm_valid, .w1c, []⟩, ⟨F.det_tw_mm_cause, .ro, []⟩, ⟨F.det_tw_mm_region, .ro, []⟩,
      ⟨F.det_tw_mm_item, .ro, []⟩, ⟨F.det_tw_mm_seq, .ro, []⟩]⟩,
   ⟨"det.lost", R.det_lost, false, [⟨F.det_lost_count, .rc, []⟩]⟩,
   ⟨"det.tally_ovf", R.det_tally_ovf, false, [⟨F.det_tally_ovf_ovf, .w1c, []⟩]⟩,
   ⟨"det.dr", R.det_dr, false, [⟨F.det_dr_en, .rw, []⟩, ⟨F.det_dr_size, .rw, []⟩, ⟨F.det_dr_base, .rw, []⟩]⟩,
   ⟨"det.tr", R.det_tr, false, [⟨F.det_tr_en, .rw, []⟩, ⟨F.det_tr_size, .rw, []⟩, ⟨F.det_tr_base, .rw, []⟩]⟩,
   ⟨"det.dr_ptr", R.det_dr_ptr, false, [⟨F.det_dr_ptr_head, .ro, []⟩, ⟨F.det_dr_ptr_tail, .rw, []⟩]⟩]

/-- Registers of unit `det` with their fields, part 1. -/
def regs_det_1 : List RegSpec :=
  [⟨"det.tr_ptr", R.det_tr_ptr, false, [⟨F.det_tr_ptr_head, .ro, []⟩, ⟨F.det_tr_ptr_tail, .rw, []⟩]⟩,
   ⟨"det.t_dig", R.det_t_dig, true, [⟨F.det_t_dig_count, .ro, []⟩]⟩,
   ⟨"det.t_dbyte", R.det_t_dbyte, true, [⟨F.det_t_dbyte_count, .ro, []⟩]⟩,
   ⟨"det.t_hcmp", R.det_t_hcmp, true, [⟨F.det_t_hcmp_count, .ro, []⟩]⟩,
   ⟨"det.t_trc", R.det_t_trc, true, [⟨F.det_t_trc_count, .ro, []⟩]⟩,
   ⟨"det.t_dwait", R.det_t_dwait, true, [⟨F.det_t_dwait_count, .ro, []⟩]⟩]

/-- All registers of unit `det`. -/
def regs_det : List RegSpec := regs_det_0 ++ regs_det_1

/-- Registers of unit `ckp` with their fields, part 0. -/
def regs_ckp_0 : List RegSpec :=
  [⟨"ckp.ctl", R.ckp_ctl, false, [⟨F.ckp_ctl_preempt, .rw, []⟩, ⟨F.ckp_ctl_auto_dray, .rw, []⟩, ⟨F.ckp_ctl_en, .rw, []⟩]⟩,
   ⟨"ckp.stat", R.ckp_stat, false, [⟨F.ckp_stat_state, .ro, []⟩, ⟨F.ckp_stat_valid, .ro, []⟩, ⟨F.ckp_stat_last, .ro, []⟩,
      ⟨F.ckp_stat_cutid, .ro, []⟩]⟩,
   ⟨"ckp.lead", R.ckp_lead, false, [⟨F.ckp_lead_qtmo, .rw, [(0, 0)]⟩, ⟨F.ckp_lead_steps, .rw, []⟩]⟩,
   ⟨"ckp.tally_ovf", R.ckp_tally_ovf, false, [⟨F.ckp_tally_ovf_ovf, .w1c, []⟩]⟩,
   ⟨"ckp.desc", R.ckp_desc, false, [⟨F.ckp_desc_base, .rw, []⟩]⟩,
   ⟨"ckp.cut", R.ckp_cut, false, [⟨F.ckp_cut_go, .w1s, []⟩, ⟨F.ckp_cut_site, .rw, []⟩, ⟨F.ckp_cut_step, .rw, []⟩]⟩,
   ⟨"ckp.last", R.ckp_last, false, [⟨F.ckp_last_cutid, .ro, []⟩, ⟨F.ckp_last_step, .ro, []⟩]⟩,
   ⟨"ckp.dlist", R.ckp_dlist, false, [⟨F.ckp_dlist_addr, .rw, []⟩]⟩,
   ⟨"ckp.dray", R.ckp_dray, false, [⟨F.ckp_dray_go, .w1s, []⟩, ⟨F.ckp_dray_busy, .ro, []⟩, ⟨F.ckp_dray_slot, .rw, []⟩,
      ⟨F.ckp_dray_nent, .rw, []⟩]⟩,
   ⟨"ckp.drate", R.ckp_drate, false, [⟨F.ckp_drate_rate, .rw, [(0, 0)]⟩]⟩,
   ⟨"ckp.rst", R.ckp_rst, false, [⟨F.ckp_rst_go, .w1s, []⟩, ⟨F.ckp_rst_busy, .ro, []⟩, ⟨F.ckp_rst_fail, .w1c, []⟩,
      ⟨F.ckp_rst_slot, .rw, []⟩]⟩,
   ⟨"ckp.ff", R.ckp_ff, false, [⟨F.ckp_ff_valid, .w1c, []⟩, ⟨F.ckp_ff_code, .ro, []⟩, ⟨F.ckp_ff_reason, .ro, []⟩,
      ⟨F.ckp_ff_cutid, .ro, []⟩]⟩]

/-- Registers of unit `ckp` with their fields, part 1. -/
def regs_ckp_1 : List RegSpec :=
  [⟨"ckp.t_cut", R.ckp_t_cut, true, [⟨F.ckp_t_cut_count, .ro, []⟩]⟩,
   ⟨"ckp.t_cfail", R.ckp_t_cfail, true, [⟨F.ckp_t_cfail_count, .ro, []⟩]⟩,
   ⟨"ckp.t_cbyte", R.ckp_t_cbyte, true, [⟨F.ckp_t_cbyte_count, .ro, []⟩]⟩,
   ⟨"ckp.t_dbyte", R.ckp_t_dbyte, true, [⟨F.ckp_t_dbyte_count, .ro, []⟩]⟩,
   ⟨"ckp.t_restart", R.ckp_t_restart, true, [⟨F.ckp_t_restart_count, .ro, []⟩]⟩,
   ⟨"ckp.t_gate", R.ckp_t_gate, true, [⟨F.ckp_t_gate_count, .ro, []⟩]⟩]

/-- All registers of unit `ckp`. -/
def regs_ckp : List RegSpec := regs_ckp_0 ++ regs_ckp_1

/-- Registers of unit `rec` with their fields, part 0. -/
def regs_rec_0 : List RegSpec :=
  [⟨"rec.ctl", R.rec_ctl, false, [⟨F.rec_ctl_auto_spare, .rw, []⟩, ⟨F.rec_ctl_auto_ckp, .rw, []⟩, ⟨F.rec_ctl_en, .rw, []⟩]⟩,
   ⟨"rec.rank", R.rec_rank, false, [⟨F.rec_rank_elig, .rw, []⟩, ⟨F.rec_rank_elhold, .rw, []⟩, ⟨F.rec_rank_rank, .rw, []⟩]⟩,
   ⟨"rec.stat", R.rec_stat, false, [⟨F.rec_stat_rc, .ro, []⟩, ⟨F.rec_stat_twin, .ro, []⟩, ⟨F.rec_stat_master, .ro, []⟩,
      ⟨F.rec_stat_fail, .ro, []⟩, ⟨F.rec_stat_crank, .ro, []⟩]⟩,
   ⟨"rec.win", R.rec_win, false, [⟨F.rec_win_thr, .rw, []⟩, ⟨F.rec_win_win, .rw, [(0, 0)]⟩]⟩,
   ⟨"rec.lwin", R.rec_lwin, false, [⟨F.rec_lwin_thr, .rw, []⟩, ⟨F.rec_lwin_win, .rw, [(0, 0)]⟩]⟩,
   ⟨"rec.therm", R.rec_therm, false, [⟨F.rec_therm_margin, .rw, []⟩]⟩,
   ⟨"rec.hold", R.rec_hold, false, [⟨F.rec_hold_s, .rw, []⟩]⟩,
   ⟨"rec.alias", R.rec_alias, false, [⟨F.rec_alias_en, .rw, []⟩, ⟨F.rec_alias_id, .rw, []⟩]⟩,
   ⟨"rec.wrmax", R.rec_wrmax, false, [⟨F.rec_wrmax_n, .rw, [(0, 0)]⟩]⟩,
   ⟨"rec.tally_ovf", R.rec_tally_ovf, false, [⟨F.rec_tally_ovf_ovf, .w1c, []⟩]⟩,
   ⟨"rec.t_hbtx", R.rec_t_hbtx, true, [⟨F.rec_t_hbtx_count, .ro, []⟩]⟩,
   ⟨"rec.t_hbrx", R.rec_t_hbrx, true, [⟨F.rec_t_hbrx_count, .ro, []⟩]⟩]

/-- Registers of unit `rec` with their fields, part 1. -/
def regs_rec_1 : List RegSpec :=
  [⟨"rec.t_warn", R.rec_t_warn, true, [⟨F.rec_t_warn_count, .ro, []⟩]⟩,
   ⟨"rec.t_mchg", R.rec_t_mchg, true, [⟨F.rec_t_mchg_count, .ro, []⟩]⟩,
   ⟨"rec.rtab", R.rec_rtab, false, [⟨F.rec_rtab_base, .rw, []⟩]⟩,
   ⟨"rec.fring", R.rec_fring, false, [⟨F.rec_fring_base, .rw, []⟩, ⟨F.rec_fring_size, .rw, []⟩]⟩,
   ⟨"rec.stab", R.rec_stab, false, [⟨F.rec_stab_base, .rw, []⟩]⟩,
   ⟨"rec.mbox", R.rec_mbox, false, [⟨F.rec_mbox_base, .rw, []⟩]⟩,
   ⟨"rec.fptr", R.rec_fptr, false, [⟨F.rec_fptr_head, .ro, []⟩, ⟨F.rec_fptr_tail, .rw, []⟩]⟩,
   ⟨"rec.spare", R.rec_spare, false, [⟨F.rec_spare_spare, .rw, []⟩]⟩]

/-- All registers of unit `rec`. -/
def regs_rec : List RegSpec := regs_rec_0 ++ regs_rec_1

/-- Registers of unit `err` with their fields, part 0. -/
def regs_err_0 : List RegSpec :=
  [⟨"err.ctl", R.err_ctl, false, [⟨F.err_ctl_stop, .rw, []⟩, ⟨F.err_ctl_en, .rw, []⟩]⟩,
   ⟨"err.stat", R.err_stat, false, [⟨F.err_stat_lost, .w1c, []⟩, ⟨F.err_stat_full, .w1c, []⟩, ⟨F.err_stat_level, .ro, []⟩]⟩,
   ⟨"err.ptr", R.err_ptr, false, [⟨F.err_ptr_head, .ro, []⟩, ⟨F.err_ptr_tail, .rw, []⟩]⟩,
   ⟨"err.lost", R.err_lost, false, [⟨F.err_lost_count, .rc, []⟩]⟩,
   ⟨"err.first", R.err_first, false, [⟨F.err_first_valid, .w1c, []⟩, ⟨F.err_first_context, .ro, []⟩, ⟨F.err_first_flags, .ro, []⟩,
      ⟨F.err_first_source, .ro, []⟩, ⟨F.err_first_code, .ro, []⟩]⟩,
   ⟨"err.first_ts", R.err_first_ts, false, [⟨F.err_first_ts_ts, .ro, []⟩]⟩,
   ⟨"err.first_det", R.err_first_det, false, [⟨F.err_first_det_detail, .ro, []⟩]⟩]

/-- All registers of unit `err`. -/
def regs_err : List RegSpec := regs_err_0

/-- Registers of unit `asy` with their fields, part 0. -/
def regs_asy_0 : List RegSpec :=
  [⟨"asy.stat", R.asy_stat, false, [⟨F.asy_stat_mlive, .ro, []⟩, ⟨F.asy_stat_state, .ro, []⟩, ⟨F.asy_stat_flags, .ro, []⟩,
      ⟨F.asy_stat_lcount, .ro, []⟩]⟩,
   ⟨"asy.ctl", R.asy_ctl, false, [⟨F.asy_ctl_en, .rw, []⟩]⟩,
   ⟨"asy.energy", R.asy_energy, true, [⟨F.asy_energy_uj, .ro, []⟩]⟩,
   ⟨"asy.power", R.asy_power, false, [⟨F.asy_power_mw, .ro, []⟩]⟩,
   ⟨"asy.wrap", R.asy_wrap, false, [⟨F.asy_wrap_wrap, .ro, []⟩]⟩,
   ⟨"asy.time", R.asy_time, false, [⟨F.asy_time_ns, .ro, []⟩]⟩,
   ⟨"asy.offs", R.asy_offs, false, [⟨F.asy_offs_ns, .ro, []⟩]⟩,
   ⟨"asy.seq", R.asy_seq, false, [⟨F.asy_seq_seq, .ro, []⟩]⟩,
   ⟨"asy.hring", R.asy_hring, false, [⟨F.asy_hring_size, .rw, []⟩, ⟨F.asy_hring_base, .rw, []⟩]⟩,
   ⟨"asy.hptr", R.asy_hptr, false, [⟨F.asy_hptr_head, .ro, []⟩, ⟨F.asy_hptr_tail, .rw, []⟩]⟩,
   ⟨"asy.drop", R.asy_drop, false, [⟨F.asy_drop_count, .rc, []⟩]⟩,
   ⟨"asy.badf", R.asy_badf, false, [⟨F.asy_badf_count, .rc, []⟩]⟩]

/-- Registers of unit `asy` with their fields, part 1. -/
def regs_asy_1 : List RegSpec :=
  [⟨"asy.tally_ovf", R.asy_tally_ovf, false, [⟨F.asy_tally_ovf_ovf, .w1c, []⟩]⟩,
   ⟨"asy.serial", R.asy_serial, false, [⟨F.asy_serial_serial, .ro, []⟩]⟩,
   ⟨"asy.pub", R.asy_pub, false, [⟨F.asy_pub_key, .ro, []⟩]⟩,
   ⟨"asy.cert", R.asy_cert, false, [⟨F.asy_cert_cert, .ro, []⟩]⟩,
   ⟨"asy.t_frame", R.asy_t_frame, true, [⟨F.asy_t_frame_count, .ro, []⟩]⟩,
   ⟨"asy.t_hm", R.asy_t_hm, true, [⟨F.asy_t_hm_count, .ro, []⟩]⟩,
   ⟨"asy.ledger", R.asy_ledger, false, [⟨F.asy_ledger_w, .ro, []⟩]⟩]

/-- All registers of unit `asy`. -/
def regs_asy : List RegSpec := regs_asy_0 ++ regs_asy_1

/-- Registers of unit `pwr` with their fields, part 0. -/
def regs_pwr_0 : List RegSpec :=
  [⟨"pwr.ctl", R.pwr_ctl, false, [⟨F.pwr_ctl_avs, .rw, []⟩, ⟨F.pwr_ctl_floor, .rw, []⟩, ⟨F.pwr_ctl_ramp, .rw, []⟩,
      ⟨F.pwr_ctl_cool, .rw, []⟩]⟩,
   ⟨"pwr.stat", R.pwr_stat, false, [⟨F.pwr_stat_brake, .ro, []⟩, ⟨F.pwr_stat_cool_bad, .ro, []⟩, ⟨F.pwr_stat_src, .ro, []⟩,
      ⟨F.pwr_stat_trip, .ro, []⟩, ⟨F.pwr_stat_theta, .ro, []⟩, ⟨F.pwr_stat_p, .ro, []⟩]⟩,
   ⟨"pwr.cap", R.pwr_cap, false, [⟨F.pwr_cap_hyst, .rw, [(0, 0)]⟩, ⟨F.pwr_cap_cap, .rw, [(0, 1499), (3001, 4095)]⟩]⟩,
   ⟨"pwr.ramp", R.pwr_ramp, false, [⟨F.pwr_ramp_dn, .rw, [(0, 0)]⟩, ⟨F.pwr_ramp_up, .rw, [(0, 0)]⟩]⟩,
   ⟨"pwr.floor", R.pwr_floor, false, [⟨F.pwr_floor_w, .rw, [(2001, 4095)]⟩]⟩,
   ⟨"pwr.brake", R.pwr_brake, false, [⟨F.pwr_brake_th, .rw, [(13, 15)]⟩]⟩,
   ⟨"pwr.therm", R.pwr_therm, false, [⟨F.pwr_therm_thr, .rw, [(0, 59), (95, 255)]⟩]⟩,
   ⟨"pwr.cool", R.pwr_cool, false, [⟨F.pwr_cool_cap, .rw, [(0, 1499), (3001, 65535)]⟩, ⟨F.pwr_cool_kfac, .rw, [(0, 0)]⟩]⟩,
   ⟨"pwr.coolst", R.pwr_coolst, false, [⟨F.pwr_coolst_t, .ro, []⟩, ⟨F.pwr_coolst_flow, .ro, []⟩]⟩,
   ⟨"pwr.pmb", R.pwr_pmb, false, [⟨F.pwr_pmb_addr1, .rw, [(0, 7), (120, 127)]⟩, ⟨F.pwr_pmb_addr0, .rw, [(0, 7), (120, 127)]⟩]⟩,
   ⟨"pwr.avs", R.pwr_avs, false, [⟨F.pwr_avs_v1, .ro, []⟩, ⟨F.pwr_avs_v0, .ro, []⟩]⟩,
   ⟨"pwr.rcause", R.pwr_rcause, false, [⟨F.pwr_rcause_rail, .ro, []⟩, ⟨F.pwr_rcause_cause, .ro, []⟩]⟩]

/-- Registers of unit `pwr` with their fields, part 1. -/
def regs_pwr_1 : List RegSpec :=
  [⟨"pwr.tally_ovf", R.pwr_tally_ovf, false, [⟨F.pwr_tally_ovf_ovf, .w1c, []⟩]⟩,
   ⟨"pwr.ff", R.pwr_ff, false, [⟨F.pwr_ff_valid, .w1c, []⟩, ⟨F.pwr_ff_code, .ro, []⟩, ⟨F.pwr_ff_detail, .ro, []⟩]⟩,
   ⟨"pwr.rclk", R.pwr_rclk, false, [⟨F.pwr_rclk_busy, .ro, []⟩, ⟨F.pwr_rclk_theta, .ro, []⟩, ⟨F.pwr_rclk_eff, .ro, []⟩,
      ⟨F.pwr_rclk_vofs, .ro, []⟩, ⟨F.pwr_rclk_req, .rw, [(0, 9), (39, 63)]⟩]⟩,
   ⟨"pwr.t_cap", R.pwr_t_cap, true, [⟨F.pwr_t_cap_count, .ro, []⟩]⟩,
   ⟨"pwr.t_brake", R.pwr_t_brake, true, [⟨F.pwr_t_brake_count, .ro, []⟩]⟩,
   ⟨"pwr.t_fill", R.pwr_t_fill, true, [⟨F.pwr_t_fill_count, .ro, []⟩]⟩,
   ⟨"pwr.t_therm", R.pwr_t_therm, true, [⟨F.pwr_t_therm_count, .ro, []⟩]⟩,
   ⟨"pwr.t_est", R.pwr_t_est, true, [⟨F.pwr_t_est_count, .ro, []⟩]⟩,
   ⟨"pwr.t_dvfs", R.pwr_t_dvfs, true, [⟨F.pwr_t_dvfs_count, .ro, []⟩]⟩]

/-- All registers of unit `pwr`. -/
def regs_pwr : List RegSpec := regs_pwr_0 ++ regs_pwr_1

/-- Registers of unit `tele` with their fields, part 0. -/
def regs_tele_0 : List RegSpec :=
  [⟨"tele.ctl", R.tele_ctl, false, [⟨F.tele_ctl_en, .rw, []⟩, ⟨F.tele_ctl_dst, .rw, []⟩, ⟨F.tele_ctl_n, .rw, []⟩,
      ⟨F.tele_ctl_per, .rw, [(0, 0)]⟩]⟩,
   ⟨"tele.rsz", R.tele_rsz, false, [⟨F.tele_rsz_size, .rw, [(10, 15)]⟩]⟩,
   ⟨"tele.ring", R.tele_ring, false, [⟨F.tele_ring_addr, .rw, []⟩]⟩,
   ⟨"tele.ptr", R.tele_ptr, false, [⟨F.tele_ptr_head, .ro, []⟩, ⟨F.tele_ptr_tail, .rw, []⟩]⟩,
   ⟨"tele.drop", R.tele_drop, false, [⟨F.tele_drop_count, .rc, []⟩]⟩,
   ⟨"tele.tally_ovf", R.tele_tally_ovf, false, [⟨F.tele_tally_ovf_ovf, .w1c, []⟩]⟩,
   ⟨"tele.list", R.tele_list, false, [⟨F.tele_list_w64, .rw, []⟩, ⟨F.tele_list_pa, .rw, []⟩]⟩,
   ⟨"tele.tj", R.tele_tj, false, [⟨F.tele_tj_valid, .ro, []⟩, ⟨F.tele_tj_t, .ro, []⟩]⟩,
   ⟨"tele.tdie", R.tele_tdie, false, [⟨F.tele_tdie_w, .ro, []⟩]⟩,
   ⟨"tele.ppkg", R.tele_ppkg, false, [⟨F.tele_ppkg_src, .ro, []⟩, ⟨F.tele_ppkg_p, .ro, []⟩]⟩,
   ⟨"tele.rail", R.tele_rail, false, [⟨F.tele_rail_i, .ro, []⟩, ⟨F.tele_rail_v, .ro, []⟩]⟩,
   ⟨"tele.t_rec", R.tele_t_rec, true, [⟨F.tele_t_rec_count, .ro, []⟩]⟩]

/-- Registers of unit `tele` with their fields, part 1. -/
def regs_tele_1 : List RegSpec :=
  [⟨"tele.t_skip", R.tele_t_skip, true, [⟨F.tele_t_skip_count, .ro, []⟩]⟩]

/-- All registers of unit `tele`. -/
def regs_tele : List RegSpec := regs_tele_0 ++ regs_tele_1

/-- Registers of unit `pcie` with their fields, part 0. -/
def regs_pcie_0 : List RegSpec :=
  [⟨"pcie.stat", R.pcie_stat, false, [⟨F.pcie_stat_ltssm, .ro, []⟩, ⟨F.pcie_stat_gen, .ro, []⟩, ⟨F.pcie_stat_width, .ro, []⟩,
      ⟨F.pcie_stat_flit, .ro, []⟩, ⟨F.pcie_stat_bme, .ro, []⟩]⟩,
   ⟨"pcie.ctl", R.pcie_ctl, false, [⟨F.pcie_ctl_ro, .rw, []⟩]⟩,
   ⟨"pcie.win", R.pcie_win, false, [⟨F.pcie_win_base, .rw, []⟩]⟩,
   ⟨"pcie.evq_base", R.pcie_evq_base, false, [⟨F.pcie_evq_base_addr, .rw, []⟩]⟩,
   ⟨"pcie.evq_ctl", R.pcie_evq_ctl, false, [⟨F.pcie_evq_ctl_en, .rw, []⟩, ⟨F.pcie_evq_ctl_size, .rw, [(10, 15)]⟩, ⟨F.pcie_evq_ctl_vec, .rw, []⟩,
      ⟨F.pcie_evq_ctl_cmask, .rw, []⟩]⟩,
   ⟨"pcie.evq_ptr", R.pcie_evq_ptr, false, [⟨F.pcie_evq_ptr_head, .ro, []⟩, ⟨F.pcie_evq_ptr_tail, .rw, []⟩]⟩,
   ⟨"pcie.evlost", R.pcie_evlost, false, [⟨F.pcie_evlost_count, .rc, []⟩]⟩,
   ⟨"pcie.msix", R.pcie_msix, false, [⟨F.pcie_msix_hold, .rw, []⟩]⟩,
   ⟨"pcie.ff", R.pcie_ff, false, [⟨F.pcie_ff_valid, .w1c, []⟩, ⟨F.pcie_ff_kind, .ro, []⟩, ⟨F.pcie_ff_source, .ro, []⟩,
      ⟨F.pcie_ff_addr, .ro, []⟩]⟩,
   ⟨"pcie.tally_ovf", R.pcie_tally_ovf, false, [⟨F.pcie_tally_ovf_ovf, .w1c, []⟩]⟩,
   ⟨"pcie.t_inrd", R.pcie_t_inrd, true, [⟨F.pcie_t_inrd_count, .ro, []⟩]⟩,
   ⟨"pcie.t_inwr", R.pcie_t_inwr, true, [⟨F.pcie_t_inwr_count, .ro, []⟩]⟩]

/-- Registers of unit `pcie` with their fields, part 1. -/
def regs_pcie_1 : List RegSpec :=
  [⟨"pcie.t_outwr", R.pcie_t_outwr, true, [⟨F.pcie_t_outwr_count, .ro, []⟩]⟩,
   ⟨"pcie.t_outrd", R.pcie_t_outrd, true, [⟨F.pcie_t_outrd_count, .ro, []⟩]⟩,
   ⟨"pcie.t_msi", R.pcie_t_msi, true, [⟨F.pcie_t_msi_count, .ro, []⟩]⟩,
   ⟨"pcie.t_rcv", R.pcie_t_rcv, true, [⟨F.pcie_t_rcv_count, .ro, []⟩]⟩]

/-- All registers of unit `pcie`. -/
def regs_pcie : List RegSpec := regs_pcie_0 ++ regs_pcie_1

/-- Registers of unit `mgmt` with their fields, part 0. -/
def regs_mgmt_0 : List RegSpec :=
  [⟨"mgmt.ctl", R.mgmt_ctl, false, [⟨F.mgmt_ctl_pec, .rw, []⟩]⟩,
   ⟨"mgmt.stat", R.mgmt_stat, false, [⟨F.mgmt_stat_i3c, .ro, []⟩, ⟨F.mgmt_stat_daddr, .ro, []⟩]⟩,
   ⟨"mgmt.ibi", R.mgmt_ibi, false, [⟨F.mgmt_ibi_en, .rw, []⟩, ⟨F.mgmt_ibi_hold, .rw, [(0, 0)]⟩, ⟨F.mgmt_ibi_cmask, .rw, []⟩]⟩,
   ⟨"mgmt.pend", R.mgmt_pend, false, [⟨F.mgmt_pend_count, .rc, []⟩, ⟨F.mgmt_pend_code, .rc, []⟩]⟩,
   ⟨"mgmt.err", R.mgmt_err, false, [⟨F.mgmt_err_count, .rc, []⟩]⟩]

/-- All registers of unit `mgmt`. -/
def regs_mgmt : List RegSpec := regs_mgmt_0

/-- Registers of unit `dbg` with their fields, part 0. -/
def regs_dbg_0 : List RegSpec :=
  [⟨"dbg.ctl", R.dbg_ctl, false, [⟨F.dbg_ctl_dis, .w1s, []⟩]⟩,
   ⟨"dbg.tctl", R.dbg_tctl, false, [⟨F.dbg_tctl_go, .w1s, []⟩, ⟨F.dbg_tctl_stop, .w1s, []⟩, ⟨F.dbg_tctl_busy, .ro, []⟩,
      ⟨F.dbg_tctl_full, .ro, []⟩, ⟨F.dbg_tctl_wrap, .rw, []⟩, ⟨F.dbg_tctl_src, .rw, []⟩,
      ⟨F.dbg_tctl_region, .rw, []⟩, ⟨F.dbg_tctl_trig, .rw, []⟩]⟩,
   ⟨"dbg.tmask", R.dbg_tmask, false, [⟨F.dbg_tmask_cmask, .rw, []⟩]⟩,
   ⟨"dbg.tptr", R.dbg_tptr, false, [⟨F.dbg_tptr_first, .ro, []⟩, ⟨F.dbg_tptr_count, .ro, []⟩]⟩,
   ⟨"dbg.tsel", R.dbg_tsel, false, [⟨F.dbg_tsel_entry, .rw, []⟩, ⟨F.dbg_tsel_word, .rw, []⟩]⟩,
   ⟨"dbg.tdata", R.dbg_tdata, false, [⟨F.dbg_tdata_data, .ro, []⟩]⟩]

/-- All registers of unit `dbg`. -/
def regs_dbg : List RegSpec := regs_dbg_0

/-- Registers of unit `brg` with their fields, part 0. -/
def regs_brg_0 : List RegSpec :=
  [⟨"brg.stat", R.brg_stat, false, [⟨F.brg_stat_up, .ro, []⟩, ⟨F.brg_stat_train, .ro, []⟩, ⟨F.brg_stat_tries, .ro, []⟩]⟩,
   ⟨"brg.ctl", R.brg_ctl, false, [⟨F.brg_ctl_retrain, .w1s, []⟩]⟩,
   ⟨"brg.arb", R.brg_arb, false, [⟨F.brg_arb_cmax, .rw, [(0, 0)]⟩, ⟨F.brg_arb_w_dma, .rw, [(0, 0)]⟩, ⟨F.brg_arb_w_coll, .rw, [(0, 0)]⟩]⟩,
   ⟨"brg.trk", R.brg_trk, false, [⟨F.brg_trk_home, .ro, []⟩, ⟨F.brg_trk_req, .ro, []⟩]⟩,
   ⟨"brg.err_first", R.brg_err_first, false, [⟨F.brg_err_first_valid, .w1c, []⟩, ⟨F.brg_err_first_msg, .ro, []⟩, ⟨F.brg_err_first_seq, .ro, []⟩,
      ⟨F.brg_err_first_state, .ro, []⟩, ⟨F.brg_err_first_addr, .ro, []⟩]⟩,
   ⟨"brg.tally_ovf", R.brg_tally_ovf, false, [⟨F.brg_tally_ovf_ovf, .w1c, []⟩]⟩,
   ⟨"brg.cwin", R.brg_cwin, false, [⟨F.brg_cwin_en, .rw, []⟩, ⟨F.brg_cwin_size, .rw, []⟩, ⟨F.brg_cwin_base, .rw, []⟩]⟩,
   ⟨"brg.cwin_busy", R.brg_cwin_busy, false, [⟨F.brg_cwin_busy_busy, .ro, []⟩]⟩,
   ⟨"brg.replay", R.brg_replay, false, [⟨F.brg_replay_count, .rc, []⟩]⟩,
   ⟨"brg.crc", R.brg_crc, false, [⟨F.brg_crc_count, .rc, []⟩]⟩,
   ⟨"brg.t_tx0", R.brg_t_tx0, true, [⟨F.brg_t_tx0_count, .ro, []⟩]⟩,
   ⟨"brg.t_tx1", R.brg_t_tx1, true, [⟨F.brg_t_tx1_count, .ro, []⟩]⟩]

/-- Registers of unit `brg` with their fields, part 1. -/
def regs_brg_1 : List RegSpec :=
  [⟨"brg.t_tx2", R.brg_t_tx2, true, [⟨F.brg_t_tx2_count, .ro, []⟩]⟩,
   ⟨"brg.t_tx3", R.brg_t_tx3, true, [⟨F.brg_t_tx3_count, .ro, []⟩]⟩,
   ⟨"brg.t_xing", R.brg_t_xing, true, [⟨F.brg_t_xing_count, .ro, []⟩]⟩,
   ⟨"brg.t_binv", R.brg_t_binv, true, [⟨F.brg_t_binv_count, .ro, []⟩]⟩,
   ⟨"brg.t_stall", R.brg_t_stall, true, [⟨F.brg_t_stall_count, .ro, []⟩]⟩,
   ⟨"brg.t_mesh", R.brg_t_mesh, true, [⟨F.brg_t_mesh_count, .ro, []⟩]⟩]

/-- All registers of unit `brg`. -/
def regs_brg : List RegSpec := regs_brg_0 ++ regs_brg_1

/-- Registers of unit `rw` with their fields, part 0. -/
def regs_rw_0 : List RegSpec :=
  [⟨"rw.id", R.rw_id, false, [⟨F.rw_id_part, .ro, []⟩, ⟨F.rw_id_ver, .ro, []⟩]⟩,
   ⟨"rw.sel", R.rw_sel, false, [⟨F.rw_sel_pc, .rw, []⟩, ⟨F.rw_sel_chan, .rw, []⟩, ⟨F.rw_sel_stack, .rw, []⟩]⟩,
   ⟨"rw.addr", R.rw_addr, false, [⟨F.rw_addr_sid, .rw, []⟩, ⟨F.rw_addr_bg, .rw, []⟩, ⟨F.rw_addr_bank, .rw, []⟩,
      ⟨F.rw_addr_row, .rw, [(12288, 65535)]⟩]⟩,
   ⟨"rw.cmd", R.rw_cmd, false, [⟨F.rw_cmd_key, .wo, []⟩, ⟨F.rw_cmd_op, .wo, [(0, 0), (7, 15)]⟩]⟩,
   ⟨"rw.stat", R.rw_stat, false, [⟨F.rw_stat_spare, .ro, []⟩, ⟨F.rw_stat_fail, .w1c, []⟩, ⟨F.rw_stat_done, .w1c, []⟩,
      ⟨F.rw_stat_busy, .ro, []⟩]⟩,
   ⟨"rw.row", R.rw_row, false, [⟨F.rw_row_data, .rw, []⟩]⟩,
   ⟨"rw.chk", R.rw_chk, false, [⟨F.rw_chk_check, .rw, []⟩]⟩]

/-- All registers of unit `rw`. -/
def regs_rw : List RegSpec := regs_rw_0

/-- Registers of unit `asyd` with their fields, part 0. -/
def regs_asyd_0 : List RegSpec :=
  [⟨"asyd.id", R.asyd_id, false, [⟨F.asyd_id_part, .ro, []⟩, ⟨F.asyd_id_rev, .ro, []⟩, ⟨F.asyd_id_die, .ro, []⟩]⟩,
   ⟨"asyd.state", R.asyd_state, false, [⟨F.asyd_state_flags, .ro, []⟩, ⟨F.asyd_state_state, .ro, []⟩]⟩,
   ⟨"asyd.cmd", R.asyd_cmd, false, [⟨F.asyd_cmd_key, .wo, []⟩, ⟨F.asyd_cmd_op, .wo, []⟩]⟩,
   ⟨"asyd.cres", R.asyd_cres, false, [⟨F.asyd_cres_busy, .ro, []⟩, ⟨F.asyd_cres_done, .rc, []⟩, ⟨F.asyd_cres_cause, .ro, []⟩,
      ⟨F.asyd_cres_lcount, .ro, []⟩]⟩,
   ⟨"asyd.pval", R.asyd_pval, false, [⟨F.asyd_pval_value, .rw, []⟩]⟩,
   ⟨"asyd.pid", R.asyd_pid, false, [⟨F.asyd_pid_pid, .rw, []⟩]⟩,
   ⟨"asyd.energy", R.asyd_energy, false, [⟨F.asyd_energy_uj, .ro, []⟩]⟩,
   ⟨"asyd.time", R.asyd_time, false, [⟨F.asyd_time_ns, .ro, []⟩]⟩,
   ⟨"asyd.offs", R.asyd_offs, false, [⟨F.asyd_offs_ns, .ro, []⟩]⟩,
   ⟨"asyd.param", R.asyd_param, false, [⟨F.asyd_param_loop, .ro, []⟩, ⟨F.asyd_param_acct, .ro, []⟩, ⟨F.asyd_param_interval, .ro, []⟩]⟩,
   ⟨"asyd.label", R.asyd_label, false, [⟨F.asyd_label_label, .ro, []⟩]⟩,
   ⟨"asyd.hsel", R.asyd_hsel, false, [⟨F.asyd_hsel_seq, .rw, []⟩]⟩]

/-- Registers of unit `asyd` with their fields, part 1. -/
def regs_asyd_1 : List RegSpec :=
  [⟨"asyd.lsel", R.asyd_lsel, false, [⟨F.asyd_lsel_index, .rw, []⟩]⟩,
   ⟨"asyd.serial", R.asyd_serial, false, [⟨F.asyd_serial_serial, .ro, []⟩]⟩,
   ⟨"asyd.pub", R.asyd_pub, false, [⟨F.asyd_pub_key, .ro, []⟩]⟩,
   ⟨"asyd.cert", R.asyd_cert, false, [⟨F.asyd_cert_cert, .ro, []⟩]⟩,
   ⟨"asyd.hbuf", R.asyd_hbuf, false, [⟨F.asyd_hbuf_hm, .ro, []⟩]⟩,
   ⟨"asyd.lbuf", R.asyd_lbuf, false, [⟨F.asyd_lbuf_entry, .ro, []⟩]⟩]

/-- All registers of unit `asyd`. -/
def regs_asyd : List RegSpec := regs_asyd_0 ++ regs_asyd_1

/-- The registers of a unit by its slot code (R641); slots 0x1E and 0x1F hold none. -/
def unitRegs : Nat → List RegSpec
  | 0x0 => regs_top
  | 0x1 => regs_boot
  | 0x2 => regs_ctx
  | 0x3 => regs_mmu
  | 0x4 => regs_dlr
  | 0x5 => regs_mxe
  | 0x6 => regs_vxe
  | 0x7 => regs_sram
  | 0x8 => regs_hbm
  | 0x9 => regs_hcache
  | 0xA => regs_tgen
  | 0xB => regs_lnk
  | 0xC => regs_col
  | 0xD => regs_kit
  | 0xE => regs_meld
  | 0xF => regs_codec
  | 0x10 => regs_wan
  | 0x11 => regs_cip
  | 0x12 => regs_time
  | 0x13 => regs_det
  | 0x14 => regs_ckp
  | 0x15 => regs_rec
  | 0x16 => regs_err
  | 0x17 => regs_asy
  | 0x18 => regs_pwr
  | 0x19 => regs_tele
  | 0x1A => regs_pcie
  | 0x1B => regs_mgmt
  | 0x1C => regs_dbg
  | 0x1D => regs_brg
  | 0x20 => regs_rw
  | 0x21 => regs_asyd
  | _ => []

end Sys2Proof.Machine
end

