-- ==== Sys2Proof/Machine/TypesCore.lean ====
section
/-! DEFINITION. State shared by every unit: what both dies hold alike, the latches of the access paths (R12), the error log
(R520 to R523) and what leaves the block. -/

namespace Sys2Proof.Machine

/-- One value for each compute die. -/
structure PerDie (α : Type) where
  d0 : α
  d1 : α
deriving DecidableEq, Repr

/-- The value of die `d`. -/
def PerDie.get {α : Type} (p : PerDie α) (d : Nat) : α := if d = 0 then p.d0 else p.d1

/-- `p` with the value of die `d` changed by `f`. -/
def PerDie.upd {α : Type} (p : PerDie α) (d : Nat) (f : α → α) : PerDie α :=
  if d = 0 then { p with d0 := f p.d0 } else { p with d1 := f p.d1 }

/-- The same value on both dies. -/
def PerDie.both {α : Type} (a : α) : PerDie α := ⟨a, a⟩

/-- The read latch of each access path (R12): the address of a counter's low half and the high half captured. -/
structure Latches where
  host : Option (Nat × Nat)
  mgmt : Option (Nat × Nat)
  dbg : Option (Nat × Nat)
deriving DecidableEq, Repr

/-- An error-log entry (R520). -/
structure EvEntry where
  ts : Nat
  code : Nat
  source : Nat
  rep : Nat
  flags : Nat
  ctx : Nat
  detail : Nat
deriving DecidableEq, Repr

/-- Where the report of the first lost event stands (R521): none lost since the last read of `err.lost`, one lost and event
0x8018 still to be raised, or raised. -/
inductive LossReport where
  | idle | due | raised
deriving DecidableEq, Repr

/-- The error log of a die beside its registers: the intake FIFO, oldest first, whether the next entry written carries flag
[1], and the report of R521. -/
structure ErrDie where
  fifo : List EvEntry
  lossFlag : Bool
  report : LossReport
deriving DecidableEq, Repr

/-- The error log after reset. -/
def ErrDie.reset : ErrDie := ⟨[], false, .idle⟩

/-- What leaves the block: answers to reads, requests to the host, messages on links, WAN ports and management buses, and
changes of pins. -/
inductive Output where
  | readData (path : Path) (pa width value : Nat)
  | memData (pa : Nat) (data : List Byte) (poison : Bool)
  | hostWrite (addr : Nat) (data : List Byte)
  | config (retry : Bool) (value : Nat)
  | msix (vector addr data : Nat)
  | link (die link : Nat) (words : List Nat)
  | peer (die link node : Nat)
  | frame (die : Nat) (data : List Byte)
  | ibi (data : List Byte)
  | i3c (status : Nat) (data : List Byte)
  | asyI3c (status : Nat) (data : List Byte)
  | jtag (value : Nat)
  | pmbus (rail word : Nat)
  | pin (name : String) (level : Bool)
  | delayReq (port seq : Nat)
deriving DecidableEq, Repr

end Sys2Proof.Machine
end

