-- ==== Sys2Proof/Machine/TypesRec.lean ====
section
/-! DEFINITION. State of checkpointing and recovery beside their registers (R505 to R552). -/

namespace Sys2Proof.Machine

/-- What a heartbeat carries (R530). -/
structure Beat where
  crank : Nat
  cseq : Nat
  dist : Nat
  qual : Nat
  xrank : Nat
  ok : Bool
  deg : Bool
  fail : Bool
  spare : Bool
  tsend : Nat
  want : Nat
  cfail : Nat
  cutid : Nat
  ctx : Nat
  step : Nat
  pfrom : Nat
  pto : Nat
  pseq : Nat
deriving DecidableEq, Repr

/-- A row of the rank table (R531): rank, latest sequence, and when it last advanced. -/
structure RankRow where
  rank : Nat
  seq : Nat
  adv : Nat
deriving DecidableEq, Repr

/-- What a die's recovery controller and heartbeat block keep: corrected SRAM errors and link replays of the window, the device time
of its last automatic request, whether a sensor has reached the thermal margin (R505); the election periods run, the heartbeats of the period, the rank table,
the ranks dropped with the time, the sequences known, the own sequence while a candidate, the withdrawn rank sent with the time of its
withdrawal, the time of the first link UP (R531); how many periods in a row the followed rank has advanced (R598); and the links whose
neighbour has been reported failed, by cause (R535). -/
structure RecDie where
  sramCount : Nat
  linkCount : Nat
  lastAuto : Option Nat
  hot : Bool
  now : Nat
  heard : List Beat
  table : List RankRow
  dropped : List (Nat × Nat)
  seqs : List (Nat × Nat)
  own : Option Nat
  xout : Option (Nat × Nat)
  firstUp : Option Nat
  runs : Nat
  told : List (Nat × Nat)
deriving DecidableEq, Repr

/-- A recovery controller after reset. -/
def RecDie.reset : RecDie := ⟨0, 0, none, false, 0, [], [], [], [], none, none, none, 0, []⟩

/-- What ran when `det.ctl.strict` was last written (R478): hands as region, slot, item and number, and collectives as die, route
entry and instance. -/
structure DetState where
  hands : List (Nat × Nat × Nat × Nat)
  colls : List (Nat × Nat × Nat)
deriving DecidableEq, Repr

/-- Nothing begun before a write. -/
def DetState.reset : DetState := ⟨[], []⟩

/-- A cut as it arrives (R513, R516): its id, context and step, whether it is a site cut, and whether a warning asked for it. -/
structure CutReq where
  id : Nat
  ctx : Nat
  step : Nat
  site : Bool
  warned : Bool
deriving DecidableEq, Repr

/-- A cut in progress (R513): its request, the descriptor as read at ARMED, the image slot once one is taken, whether the copy has
restarted, and the manifest once the copy is done. -/
structure CutRun where
  req : CutReq
  desc : List Byte
  slot : Option Nat
  restarted : Bool
  manifest : List Byte
deriving DecidableEq, Repr

/-- A drain in progress (R517): its slot and the length of the list that it uses. -/
structure DrainRun where
  slot : Nat
  nent : Nat
deriving DecidableEq, Repr

/-- The device's part in site cuts and spares: its want value with whether a warning raised it, the last cut id seen with its context
and step, the highest failed cut id known, the last cut that it issued as master, the highest step taken since `ckp.desc` was loaded
and the program request last read (R506, R516); the gate of an armed cut, the cut in progress and one that waits (R513); the drain, a
drain that waits and the image slots with their cut ids (R517, R518); notices of failure (failed, reporter, time), the failed devices
counted, the patches to flood (spare-table entry, F, S), the patch held with the time it began, and the device that the spare's
mailbox names (R535 to R537). -/
structure CkpDev where
  want : Nat
  warned : Bool
  seen : Nat
  cutCtx : Nat
  cutStep : Nat
  cfail : Nat
  issued : Nat
  issuedStep : Nat
  top : Option Nat
  preq : Nat
  gate : Option (Nat × Nat)
  run : Option CutRun
  next : Option CutReq
  drain : Option DrainRun
  drainNext : Option DrainRun
  notices : List (Nat × Nat × Nat)
  counted : List Nat
  patches : List (Nat × Nat × Nat)
  patch : Nat × Nat × Nat
  patchAt : Nat
  mail : Option Nat
deriving DecidableEq, Repr

/-- No cut wanted or seen, no spare in use. -/
def CkpDev.reset : CkpDev :=
  ⟨0, false, 0, 0, 0, 0, 0, 0, none, 0, none, none, none, none, none, [], [], [], (0, 0, 0), 0, none⟩

end Sys2Proof.Machine
end

