-- ==== Sys2Proof/Machine/State.lean ====
section
/-! DEFINITION. The state of the WY36: plain data. Registers of CSR space stand in `csr`, one home for each; what the spec
gives a unit beside its registers stands in the unit's own record. -/

namespace Sys2Proof.Machine

/-- Why a step stops with a fault. -/
inductive Fault where
  /-- Raised by a memory command without a path (MEMORY_READ, MEMORY_WRITE, EXTERNAL_SRAM_WRITE, HBM_CACHE_READ,
  HBM_CACHE_WRITE, WEIGHT_SLOT_READ) whose address lies in no memory row of R639 that the command can reach: the spec gives no
  access there. Safe. -/
  | noSuchAddress (pa : Nat)
deriving DecidableEq, Repr

/-- Why a command has no meaning. -/
inductive Refusal where
  /-- Raised by the dispatch for a command without a meaning yet. Safe. -/
  | notModelled (mnemonic : String)
deriving DecidableEq, Repr

/-- The state of the part. `pending` is the queue of commands, first in, first out. `clk` counts the model's clocks and
`fresh` the free values drawn; both are the model's own. `relClk` is the clock of the last run release. `transit` holds messages on
their way inside the device: the die that each goes to, or 2 + d for one that has arrived at die `d` over a link. `out` is what has
left the block, newest first. `epoch` is the quota epoch (R268), a random value at reset: 0 stands for it (assumption 3). -/
structure State where
  pending : List Instr
  clk : Nat
  fresh : Nat
  relClk : Nat
  csr : List (Nat × Word64)
  latch : Latches
  err : PerDie ErrDie
  mem : MemState
  memd : PerDie MemDie
  ctxd : PerDie CtxDie
  epoch : Nat
  clusters : List Cluster
  regions : List Region
  ksplits : List KSplit
  fab : PerDie FabDie
  transit : List (Nat × Msg)
  meld : PerDie MeldDie
  master : MasterState
  recd : PerDie RecDie
  ckp : CkpDev
  det : DetState
  time : TimeState
  wan : PerDie WanDie
  cip : PerDie CipDie
  asy : AssayState
  boot : BootState
  host : HostState
  mgmt : MgmtState
  dbg : DbgState
  tele : TeleState
  pwr : PowerState
  out : List Output
deriving DecidableEq, Repr

/-- The machine right after reset: every register at its reset value (`csr` lists those that differ from it), memory with
nothing listed, every queue empty. -/
def State.reset : State where
  pending := []
  clk := 0
  fresh := 0
  relClk := 0
  csr := []
  latch := ⟨none, none, none⟩
  err := PerDie.both ErrDie.reset
  mem := MemState.reset
  memd := PerDie.both MemDie.reset
  ctxd := PerDie.both CtxDie.reset
  epoch := 0
  clusters := List.replicate 128 Cluster.reset
  regions := List.replicate 16 Region.reset
  ksplits := []
  fab := PerDie.both FabDie.reset
  transit := []
  meld := PerDie.both MeldDie.reset
  master := MasterState.reset
  recd := PerDie.both RecDie.reset
  ckp := CkpDev.reset
  det := DetState.reset
  time := TimeState.reset
  wan := PerDie.both WanDie.reset
  cip := PerDie.both CipDie.reset
  asy := AssayState.reset
  boot := BootState.reset
  host := HostState.reset
  mgmt := MgmtState.reset
  dbg := DbgState.reset
  tele := TeleState.reset
  pwr := PowerState.reset
  out := []

end Sys2Proof.Machine
end

