-- ==== Sys2Proof/Machine/Ops.lean ====
section
/-! DEFINITION. The named operations every command uses: registers, tallies, first-fault records, events and the error log's
intake, memory bytes, and the parts of the state. -/

namespace Sys2Proof.Machine

/-! ## Parts of the state -/

/-- Cluster `c`. -/
def State.cl (s : State) (c : Nat) : Cluster := s.clusters.getD c Cluster.reset

/-- Change cluster `c`. -/
def State.updCl (s : State) (c : Nat) (f : Cluster → Cluster) : State :=
  { s with clusters := listMod s.clusters c f }

/-- Region `r`. -/
def State.rg (s : State) (r : Nat) : Region := s.regions.getD r Region.reset

/-- Change region `r`. -/
def State.updRg (s : State) (r : Nat) (f : Region → Region) : State :=
  { s with regions := listMod s.regions r f }

/-- Slot `k` of region `r`. -/
def State.slot (s : State) (r k : Nat) : Slot := (s.rg r).slots.getD k Slot.reset

/-- Change slot `k` of region `r`. -/
def State.updSlot (s : State) (r k : Nat) (f : Slot → Slot) : State :=
  s.updRg r fun g => { g with slots := listMod g.slots k f }

/-- Change the memory system of die `d`. -/
def State.updMem (s : State) (d : Nat) (f : MemDie → MemDie) : State := { s with memd := s.memd.upd d f }

/-- Change the contexts and translation of die `d`. -/
def State.updCtx (s : State) (d : Nat) (f : CtxDie → CtxDie) : State := { s with ctxd := s.ctxd.upd d f }

/-- The compute die of region `r` (R16: eight regions a die). -/
def dieOfRegion (r : Nat) : Nat := r / 8

/-- The compute die of cluster `c` (R16). -/
def dieOfCluster (c : Nat) : Nat := c / 64

/-- The region of cluster `c` (R16). -/
def regionOf (c : Nat) : Nat := c / 8

/-- Something leaves the block. -/
def State.emit (s : State) (o : Output) : State := { s with out := o :: s.out }

/-- The next free value of the model (assumption 2). -/
def State.free (s : State) : Nat := Config.freeNat s.fresh

/-- Count `n` free values as drawn. -/
def State.drew (s : State) (n : Nat := 1) : State := { s with fresh := s.fresh + n }

/-- The `n` next free values as bytes. -/
def State.freeBytes (s : State) (n : Nat) : List Byte :=
  (List.range n).map fun i => BitVec.ofNat 8 (Config.freeNat (s.fresh + i))

/-- Device time: TAI nanoseconds (R4, R452). -/
def State.tai (s : State) : Nat := s.time.ns

/-! ## Registers -/

/-- The key of register `r`, element `i`, in the store: a die register has one for each half, package and mirrored registers
one in all (R14, R641). -/
def Reg.key (r : Reg) (d i : Nat) : Nat :=
  (if r.kind = .die then d * 0x4000000 else 0) + r.unit * 0x100000 + r.off + r.stride * i

/-- Bind key `k` to `v` in a store that lists only values other than the reset value `rst`. -/
def csrPut (k v rst : Nat) (l : List (Nat × Word64)) : List (Nat × Word64) :=
  l.filter (fun e => e.1 < k) ++ ((if v = rst then [] else [(k, BitVec.ofNat 64 v)]) ++ l.filter (fun e => k < e.1))

/-- The value of register `r`, element `i`, of die `d`. -/
def State.reg (s : State) (d : Nat) (r : Reg) (i : Nat := 0) : Nat :=
  match assocGet (r.key d i) s.csr with
  | some v => v.toNat
  | none => r.reset

/-- Set register `r`, element `i`, of die `d` to the low bits of `v` that it holds. -/
def State.setReg (s : State) (d : Nat) (r : Reg) (v : Nat) (i : Nat := 0) : State :=
  { s with csr := csrPut (r.key d i) (v % 2 ^ r.w) r.reset s.csr }

/-- The value of a field. -/
def State.fld (s : State) (d : Nat) (f : Fld) (i : Nat := 0) : Nat := bits (s.reg d f.reg i) f.lo f.n

/-- Whether a one-bit field is set. -/
def State.flag (s : State) (d : Nat) (f : Fld) (i : Nat := 0) : Bool := s.fld d f i != 0

/-- Set a field. -/
def State.setFld (s : State) (d : Nat) (f : Fld) (v : Nat) (i : Nat := 0) : State :=
  s.setReg d f.reg (putBits (s.reg d f.reg i) f.lo f.n v) i

/-- Set the bits `m` of a field that collects marks (W1C registers). -/
def State.orFld (s : State) (d : Nat) (f : Fld) (m : Nat) (i : Nat := 0) : State := s.setFld d f (s.fld d f i ||| m) i

/-- Add to a 32-bit error or drop counter, which saturates (R524). -/
def State.count32 (s : State) (d : Nat) (f : Fld) (n : Nat := 1) (i : Nat := 0) : State :=
  s.setFld d f (satAt (2 ^ f.n - 1) (s.fld d f i + n)) i

/-- Write a first-fault record whose valid bit is `valid`, unless it already holds one (R89). -/
def State.recordFirst (s : State) (d : Nat) (valid : Fld) (v : Nat) (i : Nat := 0) : State :=
  if s.flag d valid i then s else s.setReg d valid.reg (putBits v valid.lo 1 1) i

/-- The local id that die `d` acts under: its own (R26), or that of the device it stands in for (R538). -/
def State.actId (s : State) (d : Nat) : Nat :=
  if s.flag d F.rec_alias_en then s.fld d F.rec_alias_id else s.fld 0 F.boot_devid_local

/-! ## Events and the intake of the error log -/

/-- The source field of R520. -/
def eventSource (d unit region cluster : Nat) : Nat :=
  d % 2 * 0x8000 + region % 8 * 0x1000 + cluster % 8 * 0x200 + unit % 32 * 16

/-- An event is lost (R521): counted, marked, and reported once after each read of `err.lost`. -/
def State.loseEvent (s : State) (d : Nat) : State :=
  let s := (s.count32 d F.err_lost_count).setFld d F.err_stat_lost 1
  { s with err := s.err.upd d fun e =>
      { e with lossFlag := true, report := if e.report = .idle then .due else e.report } }

/-- The newest entry with the same code and source takes another occurrence (R521); none if there is no such entry or it is
full. The list runs from the newest. -/
def coalesce (code source : Nat) : List EvEntry → Option (List EvEntry)
  | [] => none
  | e :: r =>
    if e.code = code ∧ e.source = source then
      if e.rep < 0xFFFF then some ({ e with rep := e.rep + 1, flags := e.flags ||| 1 } :: r) else none
    else (coalesce code source r).map (e :: ·)

/-- The first-error registers capture an entry taken into the FIFO while valid is 0 (R523). -/
def State.captureFirst (s : State) (d : Nat) (e : EvEntry) : State :=
  if s.flag d F.err_first_valid then s
  else
    let v := 2 ^ 63 + e.ctx % 4096 * 2 ^ 48 + e.flags % 65536 * 2 ^ 32 + e.source % 65536 * 2 ^ 16 + e.code % 65536
    ((s.setReg d R.err_first v).setReg d R.err_first_ts e.ts).setReg d R.err_first_det e.detail

/-- An entry arrives at the intake FIFO of die `d` (R520, R521, R523). -/
def State.intake (s : State) (d : Nat) (e : EvEntry) : State :=
  let fifo := (s.err.get d).fifo
  if ¬ s.flag d F.err_ctl_en then s.loseEvent d
  else if fifo.length < 64 then
    let s := { s with err := s.err.upd d fun x => { x with fifo := fifo ++ [e] } }
    (s.setFld d F.err_stat_level (fifo.length + 1)).captureFirst d e
  else
    match coalesce e.code e.source fifo.reverse with
    | some l => { s with err := s.err.upd d fun x => { x with fifo := l.reverse } }
    | none => s.loseEvent d

/-- What an event names beside its code and detail (R520). -/
structure EvInfo where
  ctx : Nat := 0
  region : Nat := 0
  cluster : Nat := 0
  fault : Bool := false
  other : Bool := false
deriving DecidableEq, Repr

/-- The 32 bytes of an error-log entry (R520). -/
def EvEntry.toBytes (e : EvEntry) : List Byte :=
  leBytes 8 e.ts ++ leBytes 2 e.code ++ leBytes 2 e.source ++ leBytes 2 e.rep ++ leBytes 2 e.flags ++ leBytes 4 (e.ctx % 4096) ++
    leBytes 4 0 ++ leBytes 8 e.detail

/-- A trace capture takes an entry while it records (R628): at 2,048 entries it ends full, with event 0xC00B, or overwrites the
oldest. -/
def State.traceTake (s : State) (b : List Byte) : State :=
  let l := s.dbg.trace
  if l.length < 2047 then { s with dbg := { s.dbg with trace := l ++ [b] } }
  else if s.flag 0 F.dbg_tctl_wrap then { s with dbg := { s.dbg with trace := (l ++ [b]).drop (l.length + 1 - 2048) } }
  else
    let s := { s with dbg := { s.dbg with trace := l ++ [b] } }
    let s := (s.setFld 0 F.dbg_tctl_full 1).setFld 0 F.dbg_tctl_busy 0
    s.intake 0 ⟨s.tai, 0xC00B, eventSource 0 0x1C 0 0, 1, 0, 0, s.fld 0 F.dbg_tctl_src⟩

/-- Source 0 of a capture sees an event as it is raised; the trigger starts the recording (R628). -/
def State.traceEvent (s : State) (e : EvEntry) : State :=
  if ¬ s.flag 0 F.dbg_tctl_busy then s
  else
    let hit := s.fld 0 F.dbg_tctl_trig = e.code
    let on := s.dbg.armed || hit
    let first := hit && !s.dbg.armed
    let s := { s with dbg := { s.dbg with armed := on } }
    if s.fld 0 F.dbg_tctl_src = 0 ∧ on ∧ (first ∨ bit (s.fld 0 F.dbg_tmask_cmask) (e.code / 4096)) then s.traceTake e.toBytes else s

/-- The package units (R22): their events are logged on die 0 (R644). -/
def isPackageUnit (u : Nat) : Bool := u = 0x01 ∨ u = 0x02 ∨ u = 0x12 ∨ u = 0x13 ∨ (0x17 ≤ u ∧ u ≤ 0x1C)

/-- Unit `u` of die `d` raises an event or fault code (R520, R644). -/
def State.raise (s : State) (d u code detail : Nat) (i : EvInfo := {}) : State :=
  let d := if isPackageUnit u then 0 else d
  let e : EvEntry :=
    ⟨s.tai, code, eventSource d u i.region i.cluster, 1, b2n i.fault * 4 + b2n i.other * 8, i.ctx, detail % 2 ^ 64⟩
  (s.traceEvent e).intake d e

/-- Event 0x8018 is raised once the FIFO has room and the log is enabled (R521). -/
def State.reportLoss (s : State) (d : Nat) : State :=
  if (s.err.get d).report = .due ∧ (s.err.get d).fifo.length < 64 ∧ s.flag d F.err_ctl_en then
    { s with err := s.err.upd d fun x => { x with report := .raised } }.raise d 0x16 0x8018 (s.reg d R.err_lost)
  else s

/-- Whether a thermal trip is latched: no region clock runs, and HBM is only refreshed (R663). -/
def State.tripped (s : State) : Bool := s.flag 0 F.pwr_stat_trip

/-! ## Tallies -/

/-- The `tally_ovf` field of a unit and the event of its saturation (R524). -/
def tallyUnit : Nat → Option (Fld × Nat)
  | 0x02 => some (F.ctx_tally_ovf_ovf, 0x5013)
  | 0x03 => some (F.mmu_tally_ovf_ovf, 0x5008)
  | 0x04 => some (F.dlr_tally_ovf_ovf, 0x4010)
  | 0x05 => some (F.mxe_tally_ovf_ovf, 0x4022)
  | 0x06 => some (F.vxe_tally_ovf_ovf, 0x4031)
  | 0x07 => some (F.sram_tally_ovf_ovf, 0x1054)
  | 0x08 => some (F.hbm_tally_ovf_ovf, 0x1007)
  | 0x09 => some (F.hcache_tally_ovf_ovf, 0x1011)
  | 0x0B => some (F.lnk_tally_ovf_ovf, 0x2023)
  | 0x0C => some (F.col_tally_ovf_ovf, 0x2022)
  | 0x0D => some (F.kit_tally_ovf_ovf, 0x2024)
  | 0x0E => some (F.meld_tally_ovf_ovf, 0x6020)
  | 0x0F => some (F.codec_tally_ovf_ovf, 0x1041)
  | 0x10 => some (F.wan_tally_ovf_ovf, 0x3009)
  | 0x11 => some (F.cip_tally_ovf_ovf, 0x7008)
  | 0x12 => some (F.time_tally_ovf_ovf, 0x3017)
  | 0x13 => some (F.det_tally_ovf_ovf, 0x4044)
  | 0x14 => some (F.ckp_tally_ovf_ovf, 0x8020)
  | 0x15 => some (F.rec_tally_ovf_ovf, 0x8021)
  | 0x17 => some (F.asy_tally_ovf_ovf, 0xA00B)
  | 0x18 => some (F.pwr_tally_ovf_ovf, 0xB007)
  | 0x19 => some (F.tele_tally_ovf_ovf, 0xC00A)
  | 0x1A => some (F.pcie_tally_ovf_ovf, 0xC009)
  | 0x1D => some (F.brg_tally_ovf_ovf, 0x2063)
  | _ => none

/-- The bit of `tally_ovf` that stands for a tally: the cluster (R91, R122), the region (R172), the tally of a stack (R246) or
of a die (R281), the link (R321), or the tally's own number. -/
def tallyBit (r : Reg) (i : Nat) : Nat :=
  if r.unit = 0x05 then (if r.off < 0x3000 then i / 4 else i)
  else if r.unit = 0x06 ∨ r.unit = 0x04 ∨ r.unit = 0x0B then i
  else if r.unit = 0x08 then 8 * i + (r.off - 0x1000) / 8
  else if r.unit = 0x02 then 4 * i + (r.off - 0x100) / 8
  else r.off / 8 % 16

/-- Add `n` to tally `r`, element `i`: it stops at its top, and an increment that finds it there sets its unit's bit and
raises the unit's event, once until the bit is cleared (R95, R524). -/
def State.tally (s : State) (d : Nat) (r : Reg) (i : Nat := 0) (n : Nat := 1) : State :=
  let v := s.reg d r i
  let t := s.setReg d r (satAt max64 (v + n)) i
  if v + n ≤ max64 then t
  else
    match tallyUnit r.unit with
    | none => t
    | some (f, code) =>
      if bit (t.fld d f) (tallyBit r i) then t
      else (t.orFld d f (2 ^ tallyBit r i)).raise d r.unit code (r.off + r.stride * i)

/-! ## Memory bytes -/

/-- The entries that `bs` at address `a` list: a byte that equals what an unlisted address reads as has none. -/
def listedCells : Nat → List Byte → List Host.Cell
  | _, [] => []
  | a, b :: bs => if b = 0 then listedCells (a + 1) bs else (a, b) :: listedCells (a + 1) bs

/-- Write `bs` at address `a`. -/
def cellsPut (a : Nat) (bs : List Byte) (l : List Host.Cell) : List Host.Cell :=
  l.filter (fun e => e.1 < a) ++ (listedCells a bs ++ l.filter (fun e => a + bs.length ≤ e.1))

/-- The byte at an address; an unlisted address reads as 0 (assumption 4). -/
def cellAt (a : Nat) (l : List Host.Cell) : Byte := (assocGet a l).getD 0

/-- The `n` bytes at address `a`. -/
def cellsGet (a n : Nat) (l : List Host.Cell) : List Byte :=
  let near := l.filter (fun e => a ≤ e.1 ∧ e.1 < a + n)
  (List.range n).map fun i => cellAt (a + i) near

/-- The canonical form of memory: addresses strictly rising and no entry equal to what an unlisted address reads as. -/
abbrev Memory.wf (l : List Host.Cell) : Prop := l.Pairwise (fun x y => x.1 < y.1) ∧ ∀ x ∈ l, x.2 ≠ 0

/-- One byte of memory. -/
def State.byte (s : State) (a : Nat) : Byte := cellAt a s.mem.cells

/-- The `n` bytes of memory at `a`, as held. -/
def State.peek (s : State) (a n : Nat) : List Byte := cellsGet a n s.mem.cells

/-- The little-endian number in the `n` bytes at `a` (R6). -/
def State.peekNat (s : State) (a n : Nat) : Nat := leNat (s.peek a n)

/-- Put bytes into memory, whatever marks its granules carry. -/
def State.poke (s : State) (a : Nat) (bs : List Byte) : State :=
  { s with mem := { s.mem with cells := cellsPut a bs s.mem.cells } }

/-! ## The device physical map (R639) -/

/-- The size of one die's half of HBM. -/
def hbmHalf : Nat := 0x3000000000

/-- Whether an address lies in HBM. -/
def isHbm (a : Nat) : Bool := a < 2 * hbmHalf

/-- Whether an address lies in stacked SRAM. -/
def isSram (a : Nat) : Bool := 0x8000000000 ≤ a ∧ a < 0x8080000000

/-- Whether an address lies in cluster SRAM. -/
def isClusterSram (a : Nat) : Bool := 0x8100000000 ≤ a ∧ a < 0x8120000000

/-- Whether an address is memory (class column of R639). -/
def isMemory (a : Nat) : Bool := isHbm a || isSram a || isClusterSram a

/-- The base of CSR space. -/
def csrBase : Nat := 0xF000000000

/-- Whether an address lies in CSR space. -/
def isCsr (a : Nat) : Bool := csrBase ≤ a ∧ a < csrBase + 0x4000000

/-- The base of the repair window. -/
def rwBase : Nat := 0xF800000000

/-- Whether an address lies in the repair window (R238). -/
def isRepair (a : Nat) : Bool := rwBase ≤ a ∧ a < rwBase + 0x1000000

/-- Whether an address is device space. -/
def isDevice (a : Nat) : Bool := isCsr a || isRepair a

/-- The die that owns a memory address (R639). -/
def ownerDie (a : Nat) : Nat :=
  if isHbm a then a / hbmHalf else if isSram a then (a - 0x8000000000) / 0x40000000 else (a - 0x8100000000) / 0x10000000

/-- The first address of cluster `c`'s SRAM. -/
def clusterBase (c : Nat) : Nat := 0x8100000000 + c * 0x400000

/-- The first address of a die's stacked SRAM. -/
def sramBase (d : Nat) : Nat := 0x8000000000 + d * 0x40000000

end Sys2Proof.Machine
end

