-- ==== Sys2Proof/Machine/Memory.lean ====
section
/-! DEFINITION. Memory below the requesters: ECC and poison marks (R180, R222, R223), the HBM interleave (R215), the memory-side
cache and write combining (R227 to R233), carved and reserved ranges (R179, R181), the bridge between the dies (R188), and the
failure warnings that memory errors give (R505). -/

namespace Sys2Proof.Machine

/-! ## Failure warnings (R505) -/

/-- Add `n` to the corrected-SRAM-error count (`sram`) or to the link-replay count of a die's window. -/
def State.updRec (s : State) (d : Nat) (f : RecDie → RecDie) : State := { s with recd := s.recd.upd d f }

/-- Whether a controller evaluates the warnings of die `d` (R526): its own, or its twin's in SOLO. -/
def State.warns (s : State) (d : Nat) : Bool :=
  s.flag d F.rec_ctl_en && (s.fld d F.rec_stat_rc = 1 || s.fld d F.rec_stat_rc = 2 || s.fld (1 - d) F.rec_stat_rc = 2)

/-- A request for a site cut sets want to the highest of the last cut id seen + 1 and its own value (R506). -/
def State.requestCut (s : State) : State :=
  { s with ckp := { s.ckp with want := max s.ckp.want (s.ckp.seen + 1) } }

/-- Warning source `code` of die `d` becomes true: event 0x8001, and with `rec.ctl.auto_ckp` a request for a site cut unless
the die made one within `rec.hold.s` seconds (R505). -/
def State.warn (s : State) (d code : Nat) : State :=
  if ¬ s.warns d then s
  else
    let at_ := if s.fld d F.rec_stat_rc = 1 || s.fld d F.rec_stat_rc = 2 then d else 1 - d
    let s := (s.tally d R.rec_t_warn).raise at_ 0x15 0x8001 (code + 256 * d)
    let held := match (s.recd.get d).lastAuto with
      | none => false
      | some t => decide (s.tai < t + s.fld d F.rec_hold_s * 1000000000)
    if s.flag d F.rec_ctl_auto_ckp && !held then
      let s := (s.updRec d fun x => { x with lastAuto := some s.tai }).requestCut
      { s with ckp := { s.ckp with warned := true } }
    else s

/-- Count `n` towards warning source 2 (corrected SRAM errors); the warning is given when the count reaches the threshold. -/
def State.warnSram (s : State) (d n : Nat) : State :=
  let c := (s.recd.get d).sramCount
  let thr := s.fld d F.rec_win_thr
  let s := s.updRec d fun x => { x with sramCount := c + n }
  if thr ≠ 0 ∧ c < thr ∧ thr ≤ c + n then s.warn d 2 else s

/-- Count `n` towards warning source 3 (link replays). -/
def State.warnReplay (s : State) (d n : Nat) : State :=
  let c := (s.recd.get d).linkCount
  let thr := s.fld d F.rec_lwin_thr
  let s := s.updRec d fun x => { x with linkCount := c + n }
  if thr ≠ 0 ∧ c < thr ∧ thr ≤ c + n then s.warn d 3 else s

/-- A Meld slot of a context enters APPLY: a copy of that context in progress restarts (R514). -/
def State.copyRestart (s : State) (ctx : Nat) : State :=
  match s.ckp.run with
  | some r =>
    if s.fld 0 F.ckp_stat_state = 3 ∧ r.req.ctx = ctx then
      { s.tally 0 R.ckp_t_restart with ckp := { s.ckp with run := some { r with restarted := true } } }
    else s
  | none => s

/-! ## Marks of 64-byte granules -/

/-- Set or clear a mark in a rising list. -/
def markSet (b : Bool) (k : Nat) (l : List Nat) : List Nat :=
  l.filter (fun x => x < k) ++ ((if b then [k] else []) ++ l.filter (fun x => k < x))

/-- Whether 64-byte granule `k` is stored as poison. -/
def State.poisoned (s : State) (k : Nat) : Bool := s.mem.poison.contains k

/-- Whether 64-byte granule `k` holds an uncorrectable error. -/
def State.bad (s : State) (k : Nat) : Bool := s.mem.ue.contains k

/-- Store granule `k` with or without the poison mark; new check bytes replace any error. -/
def State.mark (s : State) (k : Nat) (poison : Bool) : State :=
  { s with mem := { s.mem with
      poison := markSet poison k s.mem.poison
      ue := markSet false k s.mem.ue
      ce := markSet false k s.mem.ce
      oddCheck := assocDel k s.mem.oddCheck } }

/-- The pieces of the range `[a, a + n)` within aligned blocks of `b` bytes: address and length of each. -/
def blocksFuel : Nat → Nat → Nat → Nat → List (Nat × Nat)
  | 0, _, _, _ => []
  | fuel + 1, b, a, n =>
    if n = 0 then []
    else
      let k := min n (b - a % b)
      (a, k) :: blocksFuel fuel b (a + k) (n - k)

/-- The pieces of a range by aligned blocks of `b` bytes. -/
def blocks (b a n : Nat) : List (Nat × Nat) := blocksFuel (n / b + 2) b a n

/-! ## Stacked SRAM and cluster SRAM (R177 to R181) -/

/-- The slice of an address of stacked SRAM: o[29:24] (R177). -/
def sramSlice (a : Nat) : Nat := (a - 0x8000000000) / 0x1000000 % 64

/-- The bank of an address within its slice: o[9:8] ⊕ o[11:10] ⊕ o[13:12] (R177). -/
def sramBank (a : Nat) : Nat := bits a 8 2 ^^^ bits a 10 2 ^^^ bits a 12 2

/-- Whether two accesses meet in one bank of one slice, so that they are served one after the other (R178). -/
def bankMeets (a b : Nat) : Bool :=
  isSram a && isSram b && ownerDie a = ownerDie b && sramSlice a = sramSlice b && sramBank a = sramBank b

/-- Bank-clocks that an access at `a` loses to those `beside` it that its slice serves first (R178, R202). -/
def State.bankWait (s : State) (a : Nat) (beside : List Nat) : State :=
  let n := (beside.filter (bankMeets a)).length
  if n = 0 then s else s.tally (ownerDie a) R.sram_t_bconf 0 n

/-- Offset of `sram.ue_first` (R200): o of R177, or the offset in the die's cluster SRAM. -/
def ueOffset (a : Nat) : Nat :=
  if isSram a then (a - 0x8000000000) % 0x40000000 else (a - 0x8100000000) % 0x10000000

/-- A fresh uncorrectable SRAM error at address `a` (R180, R199, R200). -/
def State.sramUe (s : State) (a : Nat) : State :=
  let d := ownerDie a
  let o := ueOffset a
  if isSram a then
    ((s.count32 d F.sram_ue_count).recordFirst d F.sram_ue_first_valid o).raise d 0x07 0x1050 o
  else (s.count32 d F.sram_cl_ue_count).recordFirst d F.sram_ue_first_valid (o + 2 ^ 62)

/-- A corrected SRAM error at address `a` (R180, R199, R505). -/
def State.sramCe (s : State) (a : Nat) : State :=
  let d := ownerDie a
  (s.count32 d (if isSram a then F.sram_ce_count else F.sram_cl_ce_count)).warnSram d 1

/-- What an ECC decode of an SRAM granule gives: the error that it finds is counted, and the answer is whether the granule
is returned poisoned (R180). `ecc` is the error newly in the array. -/
def State.sramDecode (s : State) (a : Nat) (ecc : Ecc) : State × Bool :=
  let k := a / 64
  if s.poisoned k then (s, true)
  else if s.bad k then (s.sramUe (64 * k), true)
  else
    match ecc with
    | .clean => (s, false)
    | .corrected => (s.sramCe (64 * k), false)
    | .uncorrectable =>
      (({ s with mem := { s.mem with ue := markSet true k s.mem.ue } }).sramUe (64 * k), true)
    | .asPoison => ({ s with mem := { s.mem with poison := markSet true k s.mem.poison } }, true)

/-- The number of 64 MiB steps whose slices behave as carved (R182): the cache size in force and, during a transition, the
one it goes to. -/
def State.carved (s : State) (d : Nat) : Nat :=
  let n := (s.memd.get d).carve
  if s.flag d F.sram_carve_busy then max n (s.fld d F.sram_carve_size) else n

/-- Whether an address lies in the carved range of its die (R181). -/
def State.isCarved (s : State) (a : Nat) : Bool :=
  isSram a && 64 - 4 * s.carved (ownerDie a) ≤ sramSlice a

/-- Whether an address lies in a reserved area (R179). -/
def isReserved (a : Nat) : Bool := isSram a && (a - 0x8000000000) % 0x40000000 < 0x100000

/-- An access into the carved range is counted, and reported once after each read of the count (R181). -/
def State.carveHit (s : State) (a : Nat) : State :=
  let d := ownerDie a
  let seen := (s.memd.get d).carveSeen
  let s := s.count32 d F.sram_carve_hit_count
  if seen then s else (s.updMem d fun m => { m with carveSeen := true }).raise d 0x07 0x1051 a

/-- Store bytes that lie within one 64-byte granule of SRAM: a whole granule takes the new mark; a part is merged with what an ECC
decode of the granule finds, and leaves one that is poisoned or uncorrectable poisoned (R180). `ecc` is the error newly in the array. -/
def State.sramStore (s : State) (a : Nat) (bs : List Byte) (poison : Bool) (ecc : Ecc := .clean) : State :=
  if bs.length = 64 then (s.poke a bs).mark (a / 64) poison
  else
    let x := s.sramDecode a ecc
    (x.1.poke a bs).mark (a / 64) (poison || x.2)

/-- Which of the four 64-byte chunks of its 256-byte block an address lies in. -/
def chunkOf (a : Nat) : Nat := a / 64 % 4

/-- Store bytes of one 256-byte block in SRAM, granule by granule; `poison` marks chunks of the block. -/
def State.sramWrite (s : State) (a : Nat) (bs : List Byte) (poison : Nat) (ecc : EccList := []) : State :=
  (blocks 64 a bs.length).zipIdx.foldl
    (fun s b => s.sramStore b.1.1 ((bs.drop (b.1.1 - a)).take b.1.2) (bit poison (chunkOf b.1.1)) (ecc.at b.2)) s

/-! ## The HBM interleave (R215) -/

/-- Where a granule of a die's HBM half lies: stack, pseudo-channel, row, bank of the PC (SID, BG, bank) and granule in row. -/
structure HbmLoc where
  stack : Nat
  pc : Nat
  row : Nat
  bank : Nat
  gir : Nat
deriving DecidableEq, Repr

/-- The hash of R215 over `q`. -/
def hashQ (q : Nat) : Nat := (q % 256) ^^^ (q / 256 % 256) ^^^ (q / 65536 % 64)

/-- Granule index `g` to its place (R215). -/
def hbmLoc (g : Nat) : HbmLoc :=
  let q := g / 256
  let p := g % 256 ^^^ hashQ q
  let row := q / 256
  let sid := q / 64 % 4
  let bg := (q / 4 % 4) ^^^ (row / 4 % 4)
  let bank := (q / 16 % 4) ^^^ (row % 4)
  ⟨p / 64, p, row, sid * 16 + bg * 4 + bank, q % 4⟩

/-- The granule index of a place (the inverse of `hbmLoc`). -/
def hbmGranule (l : HbmLoc) : Nat :=
  let bg := l.bank / 4 % 4 ^^^ (l.row / 4 % 4)
  let bank := l.bank % 4 ^^^ (l.row % 4)
  let q := l.row * 256 + l.bank / 16 * 64 + bank * 16 + bg * 4 + l.gir
  q * 256 + (l.pc ^^^ hashQ q)

/-- The granule index of an address of HBM. -/
def granuleOf (a : Nat) : Nat := a % hbmHalf / 256

/-- The address of granule `g` of die `d`. -/
def granuleAddr (d g : Nat) : Nat := d * hbmHalf + g * 256

/-- Pseudo-channel `p` of die `d`. -/
def State.pc (s : State) (d p : Nat) : Pc := (assocGet p (s.memd.get d).pcs).getD Pc.idle

/-- Change pseudo-channel `p` of die `d`. -/
def State.updPc (s : State) (d p : Nat) (f : Pc → Pc) : State :=
  s.updMem d fun m => { m with pcs := assocPut p (f ((assocGet p m.pcs).getD Pc.idle)) m.pcs }

/-- Whether stack `i` of die `d` is down (R234). -/
def State.stackDown (s : State) (d i : Nat) : Bool := bit (s.fld d F.hbm_stat_down) i

/-- The row of a granule is opened in its bank if it is not open (R216); an activation is counted. -/
def State.openRow (s : State) (d g : Nat) : State :=
  let l := hbmLoc g
  if assocGet l.bank (s.pc d l.pc).rows = some l.row then s
  else (s.updPc d l.pc fun p => { p with rows := assocPut l.bank l.row p.rows }).tally d R.hbm_t_act l.stack

/-! ## The array: chunks of 64 bytes (R222, R223) -/

/-- A corrected error of stack `i`: counted, and reported once a window when the count reaches the threshold (R222, R225). -/
def State.hbmCe (s : State) (d i : Nat) : State :=
  let s := s.count32 d F.hbm_ce_count 1 i
  let c := (assocGet i (s.memd.get d).cewCount).getD 0 + 1
  let s := s.updMem d fun m => { m with cewCount := assocPut i c m.cewCount }
  let thr := s.fld d F.hbm_cew_thr
  if thr ≠ 0 ∧ thr ≤ c ∧ ¬ (s.memd.get d).cewDone.contains i then
    ((s.updMem d fun m => { m with cewDone := i :: m.cewDone }).raise d 0x08 0x1002 ((4 * d + i) + c % 2 ^ 32 * 2 ^ 32)).warn d 1
  else s

/-- A corrective write-back of chunk `k` is queued unless it already is; a full queue drops it (R222, R224). -/
def State.queueCwb (s : State) (d p k : Nat) : State :=
  let q := (s.pc d p).cwb
  if q.contains k then s
  else if q.length < 8 then s.updPc d p fun x => { x with cwb := q ++ [k] }
  else s.count32 d F.hbm_cwb_drop_count

/-- An uncorrectable read of chunk `k` of die `d` (R222, R245). -/
def State.hbmUe (s : State) (d k : Nat) : State :=
  let o := k * 64 % hbmHalf
  let l := hbmLoc (o / 256)
  let v := l.pc * 2 ^ 48 + o
  ((s.count32 d F.hbm_ue_count 1 l.stack).recordFirst d F.hbm_ue_first_valid v).raise d 0x08 0x1003 v

/-- What the array returns for one chunk. -/
structure Chunk where
  data : List Byte
  poison : Bool
deriving DecidableEq, Repr

/-- A read of chunk `k` corrects an error, which stays in the array until it is written back (R222, R224). -/
def State.chunkFixed (s : State) (d k : Nat) (l : HbmLoc) : State :=
  ({ s with mem := { s.mem with ce := markSet true k s.mem.ce } }.hbmCe d l.stack).queueCwb d l.pc k

/-- Read chunk `k` (PA ÷ 64) of the array with the error `ecc` newly in it (R222, R223, R234). -/
def State.chunkRead (s : State) (k : Nat) (ecc : Ecc) : State × Chunk :=
  let a := 64 * k
  let d := ownerDie a
  let l := hbmLoc (granuleOf a)
  let data := s.peek a 64
  if s.stackDown d l.stack then (s, ⟨data, true⟩)
  else
    let s := (s.openRow d (granuleOf a)).tally d R.hbm_t_rd l.stack 64
    if s.poisoned k then (s.count32 d F.hbm_prd_count 1 l.stack, ⟨data, true⟩)
    else if s.bad k then (s.hbmUe d k, ⟨data, true⟩)
    else
      match assocGet k s.mem.oddCheck with
      | some c =>
        match Config.rsDecode k data (leBytes 8 c) with
        | some fixed => ((s.hbmCe d l.stack).queueCwb d l.pc k, ⟨fixed.take 64, false⟩)
        | none => (s.hbmUe d k, ⟨data, true⟩)
      | none =>
        match ecc with
        | .clean => (if s.mem.ce.contains k then s.chunkFixed d k l else s, ⟨data, false⟩)
        | .corrected => (s.chunkFixed d k l, ⟨data, false⟩)
        | .uncorrectable =>
          (({ s with mem := { s.mem with ue := markSet true k s.mem.ue } }).hbmUe d k, ⟨data, true⟩)
        | .asPoison =>
          (({ s with mem := { s.mem with poison := markSet true k s.mem.poison } }).count32 d F.hbm_prd_count 1 l.stack, ⟨data, true⟩)

/-- Write a whole chunk of the array (R223, R234). -/
def State.chunkWrite (s : State) (k : Nat) (data : List Byte) (poison : Bool) : State :=
  let a := 64 * k
  let d := ownerDie a
  let l := hbmLoc (granuleOf a)
  if s.stackDown d l.stack then s.count32 d F.hbm_down_wr_count
  else (((s.openRow d (granuleOf a)).tally d R.hbm_t_wr l.stack 64).poke a data).mark k poison

/-! ## The write queue of a PC (R216) -/

/-- Serve a write request: its chunks go to the array. -/
def State.serveWrite (s : State) (d : Nat) (q : HbmReq) : State :=
  (maskIdx 4 q.chunks).foldl
    (fun s c => s.chunkWrite (granuleAddr d q.g / 64 + c) ((q.data.drop (64 * c)).take 64) (bit q.poison c)) s

/-- Corrective write-backs of a granule are dropped: a write to it has reached the controller (R224). -/
def Pc.dropCwb (x : Pc) (d g : Nat) : Pc := { x with cwb := x.cwb.filter fun c => c / 4 ≠ granuleAddr d g / 256 }

/-- A write request enters the write queue, or waits at the port that feeds it while the queue of 32 is full (R216). -/
def Pc.queueWrite (x : Pc) (d : Nat) (q : HbmReq) : Pc :=
  if x.wq.length < 32 ∧ x.port.isEmpty then { x with wq := x.wq ++ [q] }.dropCwb d q.g else { x with port := x.port ++ [q] }

/-- The write queue has room for the oldest write that waits at its port. -/
def Pc.refill (x : Pc) (d : Nat) : Pc :=
  match x.port with
  | [] => x
  | q :: r => if x.wq.length < 32 then { x with wq := x.wq ++ [q], port := r }.dropCwb d q.g else x

/-- A write reaches its PC. -/
def State.pushWrite (s : State) (d g chunks : Nat) (data : List Byte) (poison : Nat) : State :=
  s.updPc d (hbmLoc g).pc fun x => x.queueWrite d ⟨g, chunks, 0, data, poison, .none, 0, 0, 0⟩

/-- The newest write that waits for chunk `c` of granule `g`. -/
def pendingWrite (g c : Nat) (q : List HbmReq) : Option HbmReq :=
  q.foldl (fun r x => if x.g = g ∧ bit x.chunks c then some x else r) none

/-- The writes that wait at a PC, oldest first. -/
def Pc.writes (x : Pc) : List HbmReq := x.wq ++ x.port

/-- Read chunk `c` of granule `g` at the controller: a waiting write answers before the array. -/
def State.ctlChunk (s : State) (d g c : Nat) (ecc : Ecc) : State × Chunk :=
  match pendingWrite g c (s.pc d (hbmLoc g).pc).writes with
  | some q => (s, ⟨(q.data.drop (64 * c)).take 64, bit q.poison c⟩)
  | none => s.chunkRead (granuleAddr d g / 64 + c) ecc

/-- The chunks of a granule with their poison bits, as a list of 256 bytes; chunks outside the mask are not read and stand as
zeros. `ecc` runs from the granule's chunk 0. -/
def State.ctlGranule (s : State) (d g chunks : Nat) (ecc : EccList) : State × List Byte × Nat :=
  (List.range 4).foldl
    (fun (r : State × List Byte × Nat) c =>
      if bit chunks c then
        let x := r.1.ctlChunk d g c (ecc.at c)
        (x.1, r.2.1 ++ x.2.data, r.2.2 + b2n x.2.poison * 2 ^ c)
      else (r.1, r.2.1 ++ List.replicate 64 0, r.2.2))
    (s, [], 0)

/-- PC `p` serves one request in a direction (`w`: writes); a switch from the other is counted and begins a batch (R216). -/
def State.serveTurn (s : State) (d p : Nat) (w : Bool) : State :=
  let c := s.pc d p
  let left := if w ≠ c.writing then s.fld d F.hbm_sched_batch else c.left
  (if w ≠ c.writing then s.tally d R.hbm_t_turn (p / 64) else s).updPc d p fun x => { x with writing := w, left := left - 1 }

/-- The chunk mask of `n` bytes at offset `o` of a granule. -/
def chunkMask (o n : Nat) : Nat :=
  (List.range 4).foldl (fun m c => if o < 64 * (c + 1) ∧ 64 * c < o + n then m + 2 ^ c else m) 0

/-- The chunk mask of the chunks that `n` bytes at offset `o` cover whole. -/
def fullMask (o n : Nat) : Nat :=
  (List.range 4).foldl (fun m c => if o ≤ 64 * c ∧ 64 * (c + 1) ≤ o + n then m + 2 ^ c else m) 0

/-! ## Write combining (R232, R233) -/

/-- The bytes of an entry over those of the granule beneath it. -/
def overlay (under : List Byte) (top : List (Option Byte)) : List Byte :=
  List.zipWith (fun o u => o.getD u) top under

/-- A write-combining entry goes to HBM chunk by chunk (R233). -/
def State.wcOut (s : State) (d : Nat) (e : WcEntry) : State :=
  let s := s.tally d R.hcache_t_wcf
  (List.range 4).foldl
    (fun s c =>
      let part := (e.bytes.drop (64 * c)).take 64
      if part.all Option.isNone then s
      else if part.all Option.isSome then
        s.pushWrite d e.g (2 ^ c) (overlay (List.replicate 256 0) e.bytes) (if bit e.poison c then 2 ^ c else 0)
      else
        let x := s.ctlChunk d e.g c .clean
        let base := List.replicate (64 * c) 0 ++ x.2.data ++ List.replicate (256 - 64 * (c + 1)) 0
        let p := x.2.poison || bit e.poison c
        (x.1.tally d R.hbm_t_rmw (hbmLoc e.g).stack).pushWrite d e.g (2 ^ c) (overlay base e.bytes) (if p then 2 ^ c else 0))
    s

/-- The write-combining entry of a granule. -/
def State.wcOf (s : State) (d g : Nat) : Option WcEntry := (s.memd.get d).wc.find? fun e => e.g = g

/-- Free the write-combining entry of a granule. -/
def State.wcFree (s : State) (d g : Nat) : State :=
  s.updMem d fun m => { m with wc := m.wc.filter fun e => e.g ≠ g }

/-- A write merges into its granule's entry, allocating it if there is none; a full mask, an age limit of 0, and a full buffer
write an entry out; the age limit is that in force when the entry is allocated (R232, R241). -/
def State.wcWrite (s : State) (d g o : Nat) (bs : List Byte) (poison : Nat) : State :=
  let i := (hbmLoc g).stack
  let mine := (s.memd.get d).wc.filter fun e => (hbmLoc e.g).stack = i
  let new := List.replicate o none ++ bs.map some ++ List.replicate (256 - o - bs.length) none
  let full := fullMask o bs.length
  let p := poison &&& chunkMask o bs.length
  let s := match s.wcOf d g, mine with
    | some _, _ => s
    | none, e :: _ => if mine.length < 64 then s else (s.wcOut d e).wcFree d e.g
    | none, [] => s
  let (s, e) := match s.wcOf d g with
    | some e =>
      (s.tally d R.hcache_t_wcm,
        (⟨g, List.zipWith (fun (n u : Option Byte) => if n.isSome then n else u) new e.bytes, (e.poison &&& (15 - full)) ||| p⟩ : WcEntry))
    | none => (s, ⟨g, new, p⟩)
  let whole := e.bytes.all Option.isSome
  if whole then (s.wcFree d g).wcOut d e
  else if (s.wcOf d g).isSome then
    s.updMem d fun m => { m with wc := m.wc.map fun x => if x.g = g then e else x }
  else if s.fld d F.hcache_wc_age = 0 then s.wcOut d e
  else s.updMem d fun m => { m with wc := m.wc ++ [e] }

/-! ## The memory-side cache (R227 to R231) -/

/-- Whether an address is coherent: in a window in force that is not changing (R195). -/
def State.coherent (s : State) (a : Nat) : Bool :=
  (List.range 8).any fun n =>
    let v := match (s.memd.get 0).cwins.find? fun c => c.n = n with
      | some c => c.old
      | none => s.reg 0 R.brg_cwin n
    bit v 63 && bits v 16 31 * 0x200000 ≤ a && a < (bits v 16 31 + bits v 47 16 + 1) * 0x200000

/-- The hint of an access (R228): the lowest-numbered enabled window that contains it. -/
def State.hintOf (s : State) (d a : Nat) : Hint :=
  match (List.range 16).find? fun n =>
      s.flag d F.hcache_hw_en n && s.fld d F.hcache_hw_base n * 0x200000 ≤ a % 2 ^ 39 &&
        a % 2 ^ 39 < (s.fld d F.hcache_hw_base n + s.fld d F.hcache_hw_size n + 1) * 0x200000 with
  | none => .none
  | some n =>
    match s.fld d F.hcache_hw_hint n with
    | 0 => .keep
    | 1 => .stream
    | _ => if s.coherent a then .stream else .last

/-- The sets of the cache of die `d` (R227). -/
def State.sets (s : State) (d : Nat) : Nat := 16384 * (s.memd.get d).carve

/-- The cached line of a granule. -/
def State.lineOf (s : State) (d g : Nat) : Option CLine := (s.memd.get d).lines.find? fun l => l.g = g

/-- Drop a line from the cache. -/
def State.lineDrop (s : State) (d g : Nat) : State :=
  s.updMem d fun m => { m with lines := m.lines.filter fun l => l.g ≠ g }

/-- A dirty line is written back (R227). -/
def State.writeBack (s : State) (d : Nat) (l : CLine) : State :=
  if l.dirty then (s.tally d R.hcache_t_wb).pushWrite d l.g 15 l.data l.poison else s

/-- The line that an allocation replaces in its set, most recent first (R229); none while a way is free. -/
def victim (keep : Bool) (keepMax : Nat) (set : List CLine) : Option CLine :=
  let kept := set.filter (·.keep)
  let lru := set.reverse
  if keep ∧ keepMax ≤ kept.length ∧ kept ≠ [] then lru.find? (·.keep)
  else if set.length < 16 then none
  else (lru.find? fun l => !l.keep).orElse fun _ => lru.head?

/-- A line enters the cache as the most recent of its set, replacing another by R229. -/
def State.lineAlloc (s : State) (d : Nat) (l : CLine) : State :=
  let n := s.sets d
  let set := (s.memd.get d).lines.filter fun x => x.g % n = l.g % n
  let s := match victim l.keep (s.fld d F.hcache_ctl_keep_max) set with
    | some v => (s.writeBack d v).lineDrop d v.g
    | none => s
  s.updMem d fun m => { m with lines := l :: m.lines }

/-- A line takes new contents or marks; with `recent` it becomes the most recent. -/
def State.linePut (s : State) (d : Nat) (l : CLine) (recent : Bool) : State :=
  s.updMem d fun m =>
    { m with lines := if recent then l :: m.lines.filter (fun x => x.g ≠ l.g)
                      else m.lines.map fun x => if x.g = l.g then l else x }

/-- The bytes `o … o + n - 1` of a granule and the poisoned chunks among them. -/
def sliceOf (data : List Byte) (poison o n : Nat) : List Byte × Nat := ((data.drop o).take n, poison &&& chunkMask o n)

/-- A read under LAST discards its granule (R230). -/
def State.discard (s : State) (d g : Nat) : State :=
  let s := match s.lineOf d g with
    | some l => (if l.dirty then s.tally d R.hcache_t_ldrop else s).lineDrop d g
    | none => s
  s.wcFree d g

/-- What a read that finds line `l` does to it, by its hint (R229, R230). -/
def State.readTouch (s : State) (d : Nat) (l : CLine) (h : Hint) : State :=
  match h with
  | .none => s.linePut d { l with keep := false } true
  | .keep => s.linePut d { l with keep := true } true
  | .stream => s.linePut d { l with keep := false } false
  | .last => s.discard d l.g

/-- The read hit of R229 on line `l`. -/
def State.readHit (s : State) (d : Nat) (l : CLine) (h : Hint) : State := (s.tally d R.hcache_t_rhit).readTouch d l h

/-- The data of a read miss has come: it is merged with the granule's write-combining entry, and allocated or discarded as the
hint gives (R229 to R232). `data` holds the chunks of `mask`. -/
def State.readFill (s : State) (d g : Nat) (h : Hint) (mask : Nat) (data : List Byte) (poison : Nat) :
    State × List Byte × Nat :=
  let (data, poison, dirty) := match s.wcOf d g with
    | some e =>
      let full := (List.range 4).foldl
        (fun m c => if ((e.bytes.drop (64 * c)).take 64).all Option.isSome then m + 2 ^ c else m) 0
      (overlay data e.bytes, (poison &&& (15 - full)) ||| e.poison, true)
    | none => (data, poison, false)
  let alloc := (h = .none ∨ h = .keep) ∧ s.sets d ≠ 0 ∧ mask = 15
  let s := if alloc then (s.wcFree d g).lineAlloc d ⟨g, data, poison, dirty, h = .keep⟩ else s
  let s := if h = .last then s.discard d g else s
  (s, data, poison)

/-- The chunks that a read miss fetches: the whole granule if it allocates (R229). -/
def State.missMask (s : State) (d : Nat) (h : Hint) (o n : Nat) : Nat :=
  if (h = .none ∨ h = .keep) ∧ s.sets d ≠ 0 then 15 else chunkMask o n

/-- A read of `n` bytes at address `a`, within one granule of HBM, at the die's cache (R229). A miss is the PC's next read (R216). -/
def State.hbmRead (s : State) (a n : Nat) (ecc : EccList) : State × List Byte × Nat :=
  let d := ownerDie a
  let g := granuleOf a
  let o := a % 256
  let h := s.hintOf d a
  match s.lineOf d g with
  | some l =>
    let r := sliceOf l.data l.poison o n
    (s.readHit d l h, r.1, r.2)
  | none =>
    let s := (s.tally d R.hcache_t_rmiss).serveTurn d (hbmLoc g).pc false
    let mask := s.missMask d h o n
    let x := s.ctlGranule d g mask (List.replicate (o / 64) .clean ++ ecc)
    let y := x.1.readFill d g h mask x.2.1 x.2.2
    let r := sliceOf y.2.1 y.2.2 o n
    (y.1, r.1, r.2)

/-- A write of bytes at address `a`, within one granule of HBM, at the die's cache (R229, R232, R233); a buffered expansion of
its weight slot is dropped (R396). `poison` marks chunks of the granule. A write to a down stack is discarded and counted (R234). -/
def State.hbmWrite (s : State) (a : Nat) (bs : List Byte) (poison : Nat) : State :=
  let d := ownerDie a
  let g := granuleOf a
  let o := a % 256
  let h := s.hintOf d a
  let s := s.updMem d fun m => { m with expb := m.expb.filter fun x => x.slot ≠ a / 4096 }
  if s.stackDown d (hbmLoc g).stack then s.count32 d F.hbm_down_wr_count
  else match s.lineOf d g with
  | some l =>
    let touched := chunkMask o bs.length
    let full := fullMask o bs.length
    let l := { l with
      data := l.data.take o ++ bs ++ l.data.drop (o + bs.length)
      poison := (l.poison &&& (15 - full)) ||| (poison &&& touched)
      dirty := true
      keep := h = .keep }
    (s.tally d R.hcache_t_whit).linePut d l (h ≠ .stream ∨ bs.length ≠ 256)
  | none =>
    let s := s.tally d R.hcache_t_wmiss
    if bs.length = 256 ∧ h ≠ .stream ∧ s.sets d ≠ 0 then
      (s.wcFree d g).lineAlloc d ⟨g, bs, poison % 16, true, h = .keep⟩
    else s.wcWrite d g o bs poison

/-! ## Accesses over the whole map -/

/-- Whether the bridge is down: three retrainings failed and none has succeeded since (R188), or the part has tripped (R663). -/
def State.bridgeDown (s : State) : Bool := !s.flag 0 F.brg_stat_up && (s.fld 0 F.brg_stat_tries = 3 || s.tripped)

/-- The parity of bits [19:8] of an address: the home of its coherent line (R190). -/
def homeDie (a : Nat) : Nat := ((List.range 12).filter fun i => bit a (8 + i)).length % 2

/-- Whether an access by die `d` to memory at `a` crosses the bridge (R21, R190). -/
def State.crosses (s : State) (d a : Nat) : Bool :=
  ownerDie a ≠ d || (s.coherent a && homeDie a ≠ d)

/-- Bytes of an access to memory at `a` cross the bridge from die `d` to the other: with the coherence messages where the line is
coherent, else with the non-coherent traffic (R187). -/
def State.crossed (s : State) (d a n : Nat) : State :=
  if s.coherent a then s.tally d R.brg_t_tx1 0 n else s.tally d R.brg_t_tx3 0 n

/-- Whether an access of die `d` reaches its target: not across a bridge that is down (R188). -/
def State.reaches (s : State) (d a : Nat) : Bool := !(s.crosses d a && s.bridgeDown)

/-- What a read returns: the state after it, its bytes, and a mask of what is poisoned, which for a read within one 256-byte block of the
map names the block's 64-byte chunks. -/
structure Rd where
  st : State
  data : List Byte
  mask : Nat

/-- Whether a read returns poison. -/
def Rd.poison (r : Rd) : Bool := r.mask ≠ 0

/-- Read a piece that lies within one 256-byte block of the map. `paid` tells that the agent's die holds
the line already: a coherent access crosses the bridge by its messages. -/
def State.readPiece (s : State) (d a n : Nat) (ecc : EccList) (paid : Bool := false) : Rd :=
  if ¬ isMemory a then ⟨s, List.replicate n 0, 0⟩
  else if ¬ paid ∧ ¬ s.reaches d a then ⟨s, List.replicate n 0, 15⟩
  else
    let s := if s.crosses d a ∧ ¬ paid then (s.crossed d a 32).crossed (1 - d) a 288 else s
    if isHbm a then
      let r := s.hbmRead a n ecc
      ⟨r.1, r.2.1, r.2.2⟩
    else if s.isCarved a then ⟨s, List.replicate n 0, 0⟩
    else
      let s := if isSram a then s.tally (ownerDie a) R.sram_t_rd 0 n else s
      (blocks 64 a n).zipIdx.foldl
        (fun r b =>
          let x := r.st.sramDecode b.1.1 (ecc.at b.2)
          ⟨x.1, r.data ++ x.1.peek b.1.1 b.1.2, r.mask ||| b2n x.2 * 2 ^ chunkOf b.1.1⟩)
        ⟨s, [], 0⟩

/-- The 64-byte granules of an access to pieces of the map, each an address and a length. -/
def granules (l : List (Nat × Nat)) : List (Nat × Nat) := l.flatMap fun p => blocks 64 p.1 p.2

/-- An access to the pieces `l` of the map is counted once for touching the carved range of a die that it reaches (R181). -/
def State.carveNote (s : State) (d : Nat) (l : List (Nat × Nat)) : State :=
  match (granules l).find? fun b => s.isCarved b.1 && s.reaches d b.1 with
  | some b => s.carveHit b.1
  | none => s

/-- A read of `n` bytes at `a` by an agent of die `d`, as memory holds them (R180, R181, R188, R222, R229). -/
def State.readRaw (s : State) (d a n : Nat) (ecc : EccList := []) (paid : Bool := false) : Rd :=
  (blocks 256 a n).foldl
    (fun r b =>
      let x := r.st.readPiece d b.1 b.2 (ecc.drop (b.1 / 64 - a / 64)) paid
      ⟨x.st, r.data ++ x.data, r.mask ||| x.mask⟩)
    ⟨s.carveNote d [(a, n)], [], 0⟩

/-- The cluster whose SRAM holds an address. -/
def clusterOf (a : Nat) : Nat := (a - 0x8100000000) / 0x400000

/-- Whether a write to `a` from another source than cluster `own`'s running hand is held (R79). -/
def State.holdsWrite (s : State) (own : Option Nat) (a : Nat) : Bool :=
  isClusterSram a && (s.cl (clusterOf a)).run.isSome && own ≠ some (clusterOf a)

/-- Write a piece that lies within one 256-byte block of the map; `poison` marks the block's chunks, and `own` is the cluster whose
running hand writes. -/
def State.writePiece (s : State) (d a : Nat) (bs : List Byte) (poison : Nat) (own : Option Nat) (ecc : EccList := [])
    (paid : Bool := false) : State :=
  if ¬ isMemory a then s
  else if ¬ paid ∧ ¬ s.reaches d a then s.count32 d F.brg_crc_count
  else
    let s := if s.crosses d a ∧ ¬ paid then s.crossed d a 288 else s
    if isHbm a then s.hbmWrite a bs poison
    else if s.isCarved a then s
    else if s.holdsWrite own a then
      s.updCl (clusterOf a) fun c => { c with held := c.held ++ [⟨a, bs, poison, own⟩] }
    else
      let s := if isSram a then s.tally (ownerDie a) R.sram_t_wr 0 bs.length else s
      s.sramWrite a bs poison ecc

/-- A write that comes from a context, the host, the management bus or the debug port (`outside`), or from a hardware unit. -/
inductive Origin where
  | outside | unit
deriving DecidableEq, Repr

/-- What a write to the pieces `l` of the map is counted for as a whole: a touch of the carved range, and bytes of a reserved area that
do not come from a hardware unit (R179, R181). -/
def State.writeNote (s : State) (d : Nat) (l : List (Nat × Nat)) (org : Origin) : State :=
  let s := s.carveNote d l
  match (granules l).find? fun b => org = .outside ∧ isReserved b.1 ∧ s.reaches d b.1 with
  | some b => (s.count32 (ownerDie b.1) F.sram_rsv_wr_count).raise (ownerDie b.1) 0x07 0x1052 b.1
  | none => s

/-- The bytes of a write go to their places: those of a reserved area that do not come from a hardware unit are discarded, those of a
carved range too (R179, R181, R186). `poison` gives the poisoned chunks of the 256-byte block at an address. -/
def State.writeBody (s : State) (d a : Nat) (bs : List Byte) (poison : Nat → Nat) (org : Origin) (own : Option Nat) (ecc : EccList := [])
    (paid : Bool := false) : State :=
  (blocks 256 a bs.length).foldl
    (fun s b =>
      if org = .outside ∧ isReserved b.1 then s
      else s.writePiece d b.1 ((bs.drop (b.1 - a)).take b.2) (poison b.1) own (ecc.drop (b.1 / 64 - a / 64)) paid)
    s

/-- A write of bytes at `a` by an agent of die `d`. -/
def State.writeRaw (s : State) (d a : Nat) (bs : List Byte) (poison : Bool := false) (org : Origin := .unit)
    (own : Option Nat := none) (ecc : EccList := []) (paid : Bool := false) : State :=
  (s.writeNote d [(a, bs.length)] org).writeBody d a bs (fun _ => if poison then 15 else 0) org own ecc paid

/-! ## Accesses that wait -/

/-- Whether the bridge trains, so that traffic across it is held (R188, R196). -/
def State.bridgeTrains (s : State) : Bool :=
  !s.flag 0 F.brg_stat_up && s.flag 0 F.brg_stat_train && !s.bridgeDown

/-- Whether an address lies in the old range of a window that changes, so that accesses wait (R195). -/
def State.windowChanging (s : State) (a : Nat) : Bool :=
  (s.memd.get 0).cwins.any fun c =>
    bit c.old 63 && bits c.old 16 31 * 0x200000 ≤ a && a < (bits c.old 16 31 + bits c.old 47 16 + 1) * 0x200000

/-- Whether stack `i` is out of normal service: taken, or given back before its flush has finished (R235). -/
def State.owned (s : State) (d i : Nat) : Bool := bit (s.fld d F.hbm_own_own) i || (s.memd.get d).flushOwn.contains i

/-- Whether the slice that holds the set of granule `g` is changing (R182, R231): sets are numbered slice by slice, 16,384 to a step of
the cache's size (assumption 121). -/
def State.sliceChanges (s : State) (d g : Nat) : Bool :=
  let n := (s.memd.get d).carve
  let m := s.fld d F.sram_carve_size
  s.flag d F.sram_carve_busy && n ≠ m && min n m ≤ g % (16384 * max n m) / 16384

/-- Whether requests for granule `g` wait at the cache: its stack is out of service, a read of it waits in its PC's queue, or its slice
is changing (R231, R235). -/
def State.granuleWaits (s : State) (d g : Nat) : Bool :=
  s.owned d (hbmLoc g).stack || (s.pc d (hbmLoc g).pc).rq.any (fun q => q.g = g) || s.sliceChanges d g

/-- Whether a write to a cluster's SRAM finds the 64 places of held writes taken (R79). -/
def State.heldFull (s : State) (own : Option Nat) (a : Nat) : Bool := s.holdsWrite own a && 64 ≤ (s.cl (clusterOf a)).held.length

/-- Whether an access of die `d` to `n` bytes at `a` must wait: for the bridge, for a coherent window, for HBM, or, as a write (`w`),
for room at a cluster (R79, R188, R195, R196, R231, R235). -/
def State.stalls (s : State) (d a n : Nat) (w : Bool) (own : Option Nat := none) : Bool :=
  (blocks 256 a n).any fun b =>
    isMemory b.1 &&
      ((s.crosses d b.1 && s.bridgeTrains) || s.windowChanging b.1 ||
        (isHbm b.1 && s.granuleWaits (ownerDie b.1) (granuleOf b.1)) || (w && s.heldFull own b.1))

/-! ## What memory holds, seen without an access -/

/-- The 256 bytes of a granule as a read would find them: the cached line, or the array with waiting writes and the
write-combining entry over it. -/
def State.viewGranule (s : State) (d g : Nat) : List Byte :=
  match s.lineOf d g with
  | some l => l.data
  | none =>
    let wq := (s.pc d (hbmLoc g).pc).writes
    let base := (List.range 4).foldl
      (fun r c => r ++ match pendingWrite g c wq with
        | some q => (q.data.drop (64 * c)).take 64
        | none => s.peek (granuleAddr d g + 64 * c) 64) []
    match s.wcOf d g with
    | some e => overlay base e.bytes
    | none => base

/-- The `n` bytes at `a` as the next read would return them: what a unit that keeps the line at hand sees (R263). -/
def State.view (s : State) (a n : Nat) : List Byte :=
  (blocks 256 a n).foldl
    (fun r b =>
      r ++ (if isHbm b.1 then ((s.viewGranule (ownerDie b.1) (granuleOf b.1)).drop (b.1 % 256)).take b.2
        else if ¬ isMemory b.1 ∨ s.isCarved b.1 then List.replicate b.2 0
        else s.peek b.1 b.2)) []

/-- The little-endian number in the `n` bytes at `a`. -/
def State.viewNat (s : State) (a n : Nat) : Nat := leNat (s.view a n)

end Sys2Proof.Machine
end

