-- ==== Sys2Proof/Machine/HostPort.lean ====
section
/-! DEFINITION. What the host port sends: device-issued requests, MSI-X, the event ring, and what the management bus sends of the error
log; and the error log's ring (R520 to R522, R616 to R619, R623). -/

namespace Sys2Proof.Machine

/-! ## Device-issued requests (R616) -/

/-- Whether device-issued requests are sent: the link is in L0 and Bus Master Enable is 1 (R616). -/
def State.hostReady (s : State) : Bool := s.fld 0 F.pcie_stat_ltssm = 3 && s.flag 0 F.pcie_stat_bme

/-- Bytes go to host memory. -/
def State.hostPut (s : State) (addr : Nat) (data : List Byte) : State :=
  (s.emit (.hostWrite (addr % 2 ^ 64) data)).tally 0 R.pcie_t_outwr 0 data.length

/-! ## MSI-X (R617) -/

/-- The MSI-X table entry of a vector; every vector is masked until its entry is written (R613). -/
def State.msixEntry (s : State) (v : Nat) : MsixEntry := (assocGet v s.host.table).getD ⟨0, 0, 1⟩

/-- A vector's message is sent and the vector holds; while no request may be sent the raise is discarded (R616, R617). -/
def State.msixSend (s : State) (v : Nat) : State :=
  if ¬ s.hostReady then s
  else
    let s := (s.emit (.msix v (s.msixEntry v).addr (s.msixEntry v).data)).tally 0 R.pcie_t_msi
    if s.fld 0 F.pcie_msix_hold = 0 then s else { s with host := { s.host with holding := markSet true v s.host.holding } }

/-- A vector is raised (R617): discarded while MSI-X is disabled, pending while it is masked, deferred while it holds. -/
def State.msixRaise (s : State) (v : Nat) : State :=
  if ¬ s.host.msixEn then s
  else if bit (s.msixEntry v).ctl 0 then { s with host := { s.host with pba := markSet true v s.host.pba } }
  else if s.host.holding.contains v then { s with host := { s.host with deferred := markSet true v s.host.deferred } }
  else s.msixSend v

/-! ## The event ring in host memory (R618, R619) -/

/-- The capacity of the event ring in entries. -/
def State.evqCap (s : State) : Nat := 2 ^ s.fld 0 F.pcie_evq_ctl_size * 128

/-- An entry is not copied (R619): counted, and the first loss after each read of `pcie.evlost` reported. -/
def State.evLost (s : State) : State :=
  let s := s.count32 0 F.pcie_evlost_count
  if s.host.evSeen then s
  else { s with host := { s.host with evSeen := true } }.raise 0 0x1A 0xC005 (s.reg 0 R.pcie_evlost)

/-- An error-log entry as it is written to its die's log is copied to the event ring (R618). -/
def State.evCopy (s : State) (code : Nat) (bytes : List Byte) : State :=
  if ¬ s.flag 0 F.pcie_evq_ctl_en ∨ ¬ bit (s.fld 0 F.pcie_evq_ctl_cmask &&& 0x1FFE) (code / 4096) then s
  else
    let head := s.fld 0 F.pcie_evq_ptr_head
    if ¬ s.hostReady ∨ (head + 2 ^ 32 - s.fld 0 F.pcie_evq_ptr_tail) % 2 ^ 32 = s.evqCap then s.evLost
    else
      let s := s.hostPut (s.fld 0 F.pcie_evq_base_addr * 4096 + 32 * (head % s.evqCap)) bytes
      (s.setFld 0 F.pcie_evq_ptr_head (head + 1)).msixRaise (s.fld 0 F.pcie_evq_ctl_vec)

/-! ## In-band interrupts (R623) -/

/-- An in-band interrupt with a class and code; none is raised while the last one holds. -/
def State.ibiSend (s : State) (code : Nat) : State :=
  let n := min 255 s.mgmt.count
  let s := s.emit (.ibi ([BitVec.ofNat 8 (code / 4096)] ++ leBytes 2 code ++ leBytes 1 n))
  { s with mgmt := { s.mgmt with holding := true, deferred := none, count := 0 } }

/-- An error-log entry reaches the management bus (R623): `mgmt.pend`, and an in-band interrupt while the controller has enabled
them. -/
def State.ibiEntry (s : State) (code : Nat) : State :=
  if ¬ s.flag 0 F.mgmt_ibi_en ∨ ¬ bit (s.fld 0 F.mgmt_ibi_cmask &&& 0x1FFE) (code / 4096) then s
  else
    let s := if s.fld 0 F.mgmt_pend_count = 0 then s.setFld 0 F.mgmt_pend_code code else s
    let s := s.count32 0 F.mgmt_pend_count
    if ¬ s.mgmt.ibiOn then s
    else
      let s := { s with mgmt := { s.mgmt with count := s.mgmt.count + 1 } }
      if s.mgmt.holding then
        { s with mgmt := { s.mgmt with deferred := s.mgmt.deferred.orElse fun _ => some (code / 4096, code) } }
      else s.ibiSend code

/-- IBI_HOLD_EXPIRE (R623): the hold ends, and the first entry that it deferred is sent. -/
def execIbiHoldExpire (s : State) : Host.Outcome State Fault Refusal :=
  if ¬ s.mgmt.holding then .next s
  else
    let d := s.mgmt.deferred
    let s := { s with mgmt := { s.mgmt with holding := false, deferred := none } }
    .next (match d with
      | some (_, c) => if s.flag 0 F.mgmt_ibi_en ∧ s.mgmt.ibiOn then s.ibiSend c else s
      | none => s)

/-- MSIX_HOLD_EXPIRE (R617): a vector's hold ends, and the raises during it make one message. -/
def execMsixHoldExpire (v : Fin 256) (s : State) : Host.Outcome State Fault Refusal :=
  if ¬ s.host.holding.contains v then .next s
  else
    let again := s.host.deferred.contains v.val
    let s := { s with host := { s.host with
      holding := markSet false v s.host.holding, deferred := markSet false v s.host.deferred } }
    .next (if again then s.msixRaise v else s)

/-- MSIX_UNMASK (R610, R617): the host writes a vector's table entry with its mask clear, and a pending message is sent. -/
def execMsixUnmask (v : Fin 256) (addr data : Nat) (s : State) : Host.Outcome State Fault Refusal :=
  let pending := s.host.pba.contains v.val
  let s := { s with host := { s.host with
    table := assocPut v ⟨addr, data, 0⟩ s.host.table, pba := markSet false v s.host.pba } }
  .next (if pending then s.msixRaise v else s)

/-! ## The ring of a die's error log (R520 to R522) -/

/-- Whether the log ring of die `d` holds 1024 entries (R521). -/
def State.ringFull (s : State) (d : Nat) : Bool := (s.fld d F.err_ptr_head + 2 ^ 32 - s.fld d F.err_ptr_tail) % 2 ^ 32 = 1024

/-- The entry `e`, the oldest of the intake FIFO of die `d` with `rest` behind it, goes to the ring, the event ring and the management
bus (R520 to R523). -/
def State.ringWrite (s : State) (d : Nat) (e : EvEntry) (rest : List EvEntry) : State :=
  let full := s.ringFull d
  let head := s.fld d F.err_ptr_head
  let tail := s.fld d F.err_ptr_tail
  let bytes := EvEntry.toBytes { e with flags := e.flags ||| (b2n (s.err.get d).lossFlag * 2) }
  let s := { s with err := s.err.upd d fun x => { x with fifo := rest, lossFlag := false } }
  let s := s.setFld d F.err_stat_level rest.length
  let s := s.sramStore (sramBase d + 32 * (head % 1024)) bytes false
  let s := s.setFld d F.err_ptr_head (head + 1)
  let s := if full then s.setFld d F.err_ptr_tail (tail + 1) else s
  ((s.evCopy e.code bytes).ibiEntry e.code).reportLoss d

/-- LOG_RING_WRITE (R520 to R523): the oldest entry of the intake FIFO is written to the ring. In stop mode a full ring waits; else it
overwrites its oldest entry. The entry reaches the event ring and the management bus as it is written. -/
def execLogRingWrite (d : Fin 2) (s : State) : Host.Outcome State Fault Refusal :=
  match (s.err.get d).fifo with
  | [] => .next s
  | e :: rest => .next (if s.ringFull d ∧ s.flag d F.err_ctl_stop then s.setFld d F.err_stat_full 1 else s.ringWrite d e rest)

end Sys2Proof.Machine
end

