-- ==== Sys2Proof/Machine/Digest.lean ====
section
/-! DEFINITION. The arithmetic of audit digests: leaves and trees in GF(2^128), and the secure hashes (R484 to R486, R490). -/

namespace Sys2Proof.Machine

/-! ## GF(2^128) with x^128 + x^7 + x^2 + x + 1 (R484) -/

/-- The product with x. -/
def gfDouble (a : Nat) : Nat := (2 * a) % 2 ^ 128 ^^^ (if bit a 127 then 0x87 else 0)

/-- The product of `a` with the low `n` bits of `b` from bit `i` up, added to `acc`. -/
def gfMulFrom : Nat → Nat → Nat → Nat → Nat
  | 0, _, _, acc => acc
  | n + 1, a, b, acc => gfMulFrom n (gfDouble a) (b / 2) (if b % 2 = 1 then acc ^^^ a else acc)

/-- The product in GF(2^128). -/
def gfMul (a b : Nat) : Nat := gfMulFrom 128 a b 0

/-- The 16-byte blocks of a stream as numbers; the last block is padded with zero bytes (R483). -/
def digestBlocks (bs : List Byte) : List Nat := (pieces 16 bs).map leNat

/-- A leaf: Σ m_i · K^(B − i) over its blocks (R484). -/
def digestLeaf (k : Nat) (l : List Nat) : Nat := l.foldl (fun acc m => gfMul (acc ^^^ m) k) 0

/-- One level of the pairwise tree (R485). -/
def digestLevel (k : Nat) : List Nat → List Nat
  | a :: b :: r => (gfMul a (gfMul k k) ^^^ gfMul b k) :: digestLevel k r
  | l => l

/-- `n` levels of the tree. -/
def digestLevels (k : Nat) : Nat → List Nat → List Nat
  | 0, l => l
  | n + 1, l => digestLevels k n (digestLevel k l)

/-- The tree value of a stream: leaves of 4,096 blocks, combined pairwise; 0 for an empty stream (R485). -/
def digestTree (k : Nat) (bs : List Byte) : Nat :=
  let leaves := (pieces 4096 (digestBlocks bs)).map (digestLeaf k)
  (digestLevels k leaves.length leaves).headD 0

/-- One word decoded into a program digest (R486). -/
def digestWord (k p w : Nat) : Nat := gfMul (p ^^^ w) k

/-- The terms of a hand digest for bytes written at `x` of a space whose block numbers start at `hi`: their sum and the number
of blocks (R490). Bytes of a block that the write does not touch are zero. -/
def handTerms (k hi x : Nat) (bs : List Byte) : Nat × Nat :=
  let padded := List.replicate (x % 16) (0 : Byte) ++ bs
  let ms := digestBlocks padded
  (ms.zipIdx.foldl (fun acc p => acc ^^^ gfMul p.1 k ^^^ gfMul ((hi + x / 16 + p.2) % 2 ^ 128) (gfMul k k)) 0, ms.length)

/-! ## The secure hashes of FIPS 180-4

SHA-256 and SHA-384 are one algorithm over words of 32 and of 64 bits: a shape gives the rotations, the number of rounds, and where the
constants come from. -/

/-- The greatest r with r^k ≤ x that has at most `n` bits beyond those set in `r`, found from the highest bit down. -/
def rootFrom (k x : Nat) : Nat → Nat → Nat
  | 0, r => r
  | n + 1, r => rootFrom k x n (if (r + 2 ^ n) ^ k ≤ x then r + 2 ^ n else r)

/-- The first 64 fraction bits of the `k`-th root of a number below 512. -/
def rootFraction (k p : Nat) : Nat := rootFrom k (p <<< (64 * k)) 69 0 % 2 ^ 64

/-- The primes below 410, of which there are 80. -/
def smallPrimes : List Nat :=
  (List.range 410).foldl (fun ps m => if 1 < m && ps.all fun p => m % p != 0 then ps ++ [m] else ps) []

/-- The shape of a hash: bytes of a word, rounds, the primes whose square roots it starts from, and its four mixing functions, each of
three amounts: two that rotate e and a, and the two of the schedule, whose last amount shifts. -/
structure ShaShape where
  bytes : Nat
  rounds : Nat
  first : Nat
  mixE : Nat × Nat × Nat
  mixA : Nat × Nat × Nat
  late : Nat × Nat × Nat
  early : Nat × Nat × Nat
deriving DecidableEq, Repr

/-- SHA-256. -/
def sha256Shape : ShaShape := ⟨4, 64, 0, (6, 11, 25), (2, 13, 22), (17, 19, 10), (7, 18, 3)⟩

/-- SHA-384. -/
def sha384Shape : ShaShape := ⟨8, 80, 8, (14, 18, 41), (28, 34, 39), (19, 61, 6), (1, 8, 7)⟩

/-- Bits of a word. -/
def ShaShape.w (z : ShaShape) : Nat := 8 * z.bytes

/-- A word modulo the word size. -/
def ShaShape.cut (z : ShaShape) (x : Nat) : Nat := x % 2 ^ z.w

/-- The leading word of a constant's 64 fraction bits. -/
def ShaShape.lead (z : ShaShape) (x : Nat) : Nat := x >>> (64 - z.w)

/-- The round constants: cube roots of the first primes. -/
def ShaShape.consts (z : ShaShape) : List Nat := (smallPrimes.take z.rounds).map fun p => z.lead (rootFraction 3 p)

/-- The starting value: square roots of eight primes. -/
def ShaShape.start (z : ShaShape) : List Nat := ((smallPrimes.drop z.first).take 8).map fun p => z.lead (rootFraction 2 p)

/-- A word turned right by `n`. -/
def ShaShape.turn (z : ShaShape) (x n : Nat) : Nat := z.cut ((x + x <<< z.w) >>> n)

/-- Three turned copies of a word, added bit by bit; a mixing function of the schedule shifts the last copy. -/
def ShaShape.mix (z : ShaShape) (m : Nat × Nat × Nat) (shifts : Bool) (x : Nat) : Nat :=
  z.turn x m.1 ^^^ (z.turn x m.2.1 ^^^ (if shifts then x >>> m.2.2 else z.turn x m.2.2))

/-- The word that joins a window of 16 words of the message schedule, oldest first. -/
def ShaShape.joins (z : ShaShape) (win : List Nat) : Nat :=
  let at_ (i : Nat) : Nat := win.getD i 0
  z.cut (z.mix z.late true (at_ 14) + (at_ 9 + (z.mix z.early true (at_ 1) + at_ 0)))

/-- One round with constant `k` on the window and the eight working words. -/
def ShaShape.round (z : ShaShape) (q : List Nat × List Nat) (k : Nat) : List Nat × List Nat :=
  let v (i : Nat) : Nat := q.2.getD i 0
  let chosen := v 6 ^^^ (v 4 &&& (v 5 ^^^ v 6))
  let most := (v 0 &&& (v 1 ||| v 2)) ||| (v 1 &&& v 2)
  let t := k + q.1.headD 0 + chosen + z.mix z.mixE false (v 4) + v 7
  let top := z.cut (t + most + z.mix z.mixA false (v 0))
  (q.1.drop 1 ++ [z.joins q.1], (top :: q.2.take 7).set 4 (z.cut (v 3 + t)))

/-- A block of 16 words is taken into the hash value `h`. -/
def ShaShape.block (z : ShaShape) (ks h : List Nat) (b : List Byte) : List Nat :=
  List.zipWith (fun x y => z.cut (x + y)) h (ks.foldl z.round ((pieces z.bytes b).map beNat, h)).2

/-- The message with its end mark, zeros, and its length in bits in the last two words. -/
def ShaShape.padded (z : ShaShape) (m : List Byte) : List Byte :=
  let used := (m.length + 1 + 2 * z.bytes) % (16 * z.bytes)
  (m ++ [0x80]) ++ (List.replicate ((16 * z.bytes - used) % (16 * z.bytes)) 0 ++ beBytes (2 * z.bytes) (m.length * 8))

/-- The eight words of the hash of a byte string, in bytes. -/
def ShaShape.hash (z : ShaShape) (m : List Byte) : List Byte :=
  ((pieces (16 * z.bytes) (z.padded m)).foldl (z.block z.consts) z.start).flatMap (beBytes z.bytes)

/-- SHA-256 of a byte string, byte 0 first. -/
def sha256 (m : List Byte) : List Byte := sha256Shape.hash m

/-- SHA-384 of a byte string: the first six words of the hash. -/
def sha384 (m : List Byte) : List Byte := (sha384Shape.hash m).take 48

/-- HMAC-SHA-256 (RFC 2104). -/
def hmac256 (key m : List Byte) : List Byte :=
  let k := if 64 < key.length then sha256 key else key
  let k := k ++ List.replicate (64 - k.length) 0
  sha256 (k.map (· ^^^ 0x5C) ++ sha256 (k.map (· ^^^ 0x36) ++ m))

/-- The root of a digest: SHA-256 over the block of R485. -/
def digestRoot (kind fmt rank : Nat) (v gorg : List Nat) (count tree : Nat) : List Byte :=
  sha256 (([0x57, 0x59, 0x44, 0x47] : List Byte) ++ [BitVec.ofNat 8 kind, BitVec.ofNat 8 fmt, BitVec.ofNat 8 rank, 0] ++
    (v.map (leBytes 4)).flatten ++ (gorg.map (leBytes 4)).flatten ++ leBytes 8 count ++ leBytes 16 tree)

end Sys2Proof.Machine
end

