-- ==== Sys2Proof/Machine/Weights.lean ====
section
/-! DEFINITION. Compressed weight windows (R393 to R400), reads as requesters make them, through the windows, and requests that wait. -/

namespace Sys2Proof.Machine

/-! ## CRC-32C (R3) -/

/-- One bit of the reflected CRC-32C. -/
def crcBit (c : Nat) : Nat := if c % 2 = 1 then (c / 2) ^^^ 0x82F63B78 else c / 2

/-- One byte of the CRC. -/
def crcByte (c : Nat) (b : Byte) : Nat := (List.range 8).foldl (fun c _ => crcBit c) (c ^^^ b.toNat)

/-- CRC-32C: polynomial 0x1EDC6F41, reflected, initial value and final XOR of all ones. -/
def crc32c (bs : List Byte) : Nat := bs.foldl crcByte 0xFFFFFFFF ^^^ 0xFFFFFFFF

/-! ## The stored form (R394) -/

/-- The header of a stored form. -/
structure WtHead where
  W : Nat
  rot : Nat
  nch : Nat
deriving DecidableEq, Repr

/-- The header fields of the first 8 bytes; none for a reserved value (R394, cause 1). -/
def wtHead (h : Nat) : Option WtHead :=
  let w := 2 ^ bits h 58 2
  if bits h 60 4 ≠ 1 ∨ bits h 58 2 = 3 ∨ bits h 0 47 ≠ 0 ∨ 8 * w ≤ bits h 53 5 then none
  else some ⟨w, bits h 53 5, bits h 47 6⟩

/-- The bit width and base of the 64 group descriptors; none for a reserved value. -/
def wtDescs (st : List Byte) : Option (List (Nat × Nat)) :=
  let ds := (List.range 64).map fun g => leAt st (8 + 2 * g) 2
  if ds.any fun d => 9 ≤ d / 4096 ∨ bits d 8 4 ≠ 0 then none else some (ds.map fun d => (d / 4096, d % 256))

/-- The 64 bytes of each group, from the data that follows byte 136. -/
def wtGroups : List (Nat × Nat) → List Byte → List (List Nat)
  | [], _ => []
  | (w, b) :: r, data =>
    let v := leNat (data.take (8 * w))
    ((List.range 64).map fun j => (bits v (j * w) w + b) % 256) :: wtGroups r (data.drop (8 * w))

/-- An element of `8W` bits rotated right. -/
def rotr (w r v : Nat) : Nat := (v >>> r + (v <<< (w - r))) % 2 ^ w

/-- The 4,096 bytes of a block from its groups (R394). -/
def wtElements (h : WtHead) (gs : List (List Nat)) : List Byte :=
  (List.range (4096 / h.W)).foldl
    (fun out m =>
      let byteAt (p : Nat) : Nat := ((gs.getD (p * (64 / h.W) + m / 64) []).getD (m % 64) 0)
      let r := sumNat ((List.range h.W).map fun p => byteAt p <<< (8 * p))
      out ++ leBytes h.W (rotr (8 * h.W) h.rot r)) []

/-- A stored form expanded (R395 steps 3 to 5): the block, or the cause of its failure. -/
def wtExpand (entry : Nat) (st : List Byte) : Except Nat (List Byte) :=
  match wtHead (leAt st 0 8) with
  | none => .error 1
  | some h =>
    if h.nch ≠ entry then .error 2
    else
      match wtDescs st with
      | none => .error 1
      | some ds =>
        let used := 136 + 8 * sumNat (ds.map Prod.fst)
        let len := 64 * h.nch
        if len < used + 4 then .error 1
        else if crc32c (st.take (len - 4)) ≠ leAt st (len - 4) 4 then .error 0
        else if ((st.take (len - 4)).drop used).any fun b => b ≠ 0 then .error 4
        else .ok (wtElements h (wtGroups ds (st.drop 136)))

/-! ## Windows, map cache and buffers (R393, R395, R396) -/

/-- The weight window of a die that contains an address, by its number (R393). -/
def State.wwOf (s : State) (d a : Nat) : Option Nat :=
  (List.range 8).find? fun n =>
    s.flag d F.codec_ww_en n && s.fld d F.codec_ww_base n * 0x200000 ≤ a % 2 ^ 39 &&
      a % 2 ^ 39 < (s.fld d F.codec_ww_base n + s.fld d F.codec_ww_size n + 1) * 0x200000

/-- The map byte of a slot, through the map cache (R396); of a granule that reads poisoned it is the byte stored (assumption 144). -/
def State.wtMap (s : State) (d n a : Nat) : State × Nat :=
  let slot := (a % 2 ^ 39 - s.fld d F.codec_ww_base n * 0x200000) / 4096
  let m := s.fld d F.codec_wm_base n * 256 + slot
  let g := m / 256
  match assocGet g ((s.memd.get d).mapc) with
  | some l =>
    (s.updMem d fun x => { x with mapc := (g, l) :: x.mapc.filter fun y => y.1 ≠ g }, leAt l (m % 256) 1)
  | none =>
    let r := s.readPiece d (256 * g) 256 []
    let s := r.st.tally d R.codec_t_mmiss
    (s.updMem d fun x => { x with mapc := ((g, r.data) :: x.mapc).take 512 }, leAt r.data (m % 256) 1)

/-- A weight read fails (R395, R400): counted, recorded, and reported unless the HBM event already stands. -/
def State.wtFail (s : State) (d n a cause : Nat) : State :=
  let v := cause * 2 ^ 56 + n * 2 ^ 48 + a % 2 ^ 39 / 4096 * 4096
  let s := (s.count32 d F.codec_werr_count).recordFirst d F.codec_werr_first_valid v
  if cause = 3 then s else s.raise d 0x0F 0x1040 v

/-- The stack of a slot: every granule of 4 KiB lies in one (R215). -/
def slotStack (slot : Nat) : Nat := (hbmLoc (granuleOf (4096 * slot))).stack

/-- A block enters its stack's buffer of 16 (R396). -/
def State.expInsert (s : State) (d : Nat) (b : ExpBlock) : State :=
  s.updMem d fun m =>
    let mine := (b :: m.expb.filter fun x => x.stack = b.stack ∧ x.slot ≠ b.slot).take 16
    { m with expb := mine ++ m.expb.filter fun x => x.stack ≠ b.stack }

/-- The block of a compressed slot of window `n` (R395), or none when the read fails; `ecc` are the errors of its stored chunks. -/
def State.wtBlock (s : State) (d n a entry : Nat) (ecc : EccList) : State × Option (List Byte) :=
  let slot := a / 4096
  if 0x40 ≤ entry then (s.wtFail d n a 2, none)
  else
    match (s.memd.get d).expb.find? fun x => x.slot = slot with
    | some b => (s.tally d R.codec_t_wbuf, some b.data)
    | none =>
      let r := (blocks 256 (4096 * slot) (64 * entry)).foldl
        (fun (r : Rd) b =>
          let x := r.st.readPiece d b.1 b.2 (ecc.drop ((b.1 - 4096 * slot) / 64))
          ⟨x.st, r.data ++ x.data, r.mask ||| x.mask⟩) ⟨s, [], 0⟩
      let s := r.st.tally d R.codec_t_wrd 0 (64 * entry)
      if r.poison then (s.wtFail d n a 3, none)
      else
        match wtExpand entry r.data with
        | .error c => (s.wtFail d n a c, none)
        | .ok bs => ((s.tally d R.codec_t_wexp).expInsert d ⟨slotStack slot, slot, bs⟩, some bs)

/-- A read piece within one 256-byte block: a compressed slot of an enabled window is expanded, everything else is ordinary
(R393, R395). -/
def State.readWeight (s : State) (d a n : Nat) (ecc : EccList) : Rd :=
  let od := ownerDie a
  if ¬ isHbm a then s.readPiece d a n ecc
  else
    match s.wwOf od a with
    | none => s.readPiece d a n ecc
    | some k =>
      if ¬ s.reaches d a then s.readPiece d a n ecc
      else
        let m := s.wtMap od k a
        if m.2 = 0 then m.1.readPiece d a n ecc
        else
          let x := m.1.wtBlock od k a m.2 ecc
          match x.2 with
          | none => ⟨x.1, List.replicate n 0, 15⟩
          | some bs => ⟨x.1.tally od R.codec_t_wout 0 n, (bs.drop (a % 4096)).take n, 0⟩

/-- A read of `n` bytes at `a` by an agent of die `d`, through the weight windows (R180, R181, R222, R229, R395). -/
def State.read (s : State) (d a n : Nat) (ecc : EccList := []) : Rd :=
  (blocks 256 a n).foldl
    (fun r b =>
      let x := r.st.readWeight d b.1 b.2 (ecc.drop (b.1 / 64 - a / 64))
      ⟨x.st, r.data ++ x.data, r.mask ||| x.mask⟩)
    ⟨s.carveNote d [(a, n)], [], 0⟩

/-! ## Requests for memory from outside -/

/-- A read or write of memory is made. -/
def State.memServe (s : State) (q : MemReq) : State :=
  match q.wdata with
  | some bs => s.writeRaw q.die q.pa bs q.poison (if q.outside then .outside else .unit) none q.ecc
  | none =>
    let r := s.read q.die q.pa q.len q.ecc
    r.st.emit (.memData q.pa r.data r.poison)

/-- Whether a request must wait: for its target, or behind one of its bytes' earlier requests that waits (R186). -/
def State.memBlocked (s : State) (q : MemReq) : Bool :=
  s.stalls q.die q.pa q.len q.wdata.isSome || s.mem.memWait.any fun x => x.pa < q.pa + q.len && q.pa < x.pa + x.len

/-- A request comes: it is served, or waits. -/
def State.memRequest (s : State) (q : MemReq) : State :=
  if s.memBlocked q then { s with mem := { s.mem with memWait := s.mem.memWait ++ [q] } } else s.memServe q

/-- Requests that wait are tried again, in their order. -/
def State.memResume (s : State) : State :=
  s.mem.memWait.foldl State.memRequest { s with mem := { s.mem with memWait := [] } }

/-! ## Commands and settings (R393, R395, R396, R398) -/

/-- WEIGHT_SLOT_READ (R395): a read of `n` bytes of a weight slot is answered expanded, or poisoned on failure; `ecc` are the
errors that its chunks meet. -/
def execWeightSlotRead (d : Fin 2) (pa n : Nat) (ecc : EccList) (s : State) : Host.Outcome State Fault Refusal :=
  if s.tripped then .next s else
  if isHbm pa ∧ isHbm (pa + n - 1) then
    let r := s.read d pa n ecc
    .next (r.st.emit (.memData pa r.data r.poison))
  else .fault (.noSuchAddress pa)

/-- The map cache and the expanded-block buffers of a die are invalidated (R396). -/
def State.onInval (s : State) (d : Nat) : State := s.updMem d fun m => { m with mapc := [], expb := [] }

/-- A write of `codec.ww[n]` (R396, R398). -/
def State.onWw (s : State) (d n v : Nat) : State := (s.setReg d R.codec_ww v n).onInval d

/-- A write of `codec.wm[n]` (R396, R398), taken while the window is disabled. -/
def State.onWm (s : State) (d n v : Nat) : State := (s.setReg d R.codec_wm v n).onInval d

/-- Whether two address ranges meet. -/
def rangesMeet (a n b m : Nat) : Bool := a < b + m && b < a + n

/-- Whether a value may be written to `codec.ww[n]` (R393). -/
def State.wwLegal (s : State) (d n v : Nat) : Bool :=
  let lo := bits v 26 18 * 0x200000
  let len := (bits v 44 17 + 1) * 0x200000
  let map := s.fld d F.codec_wm_base n * 256
  let mlen := (bits v 44 17 + 1) * 512
  let inHalf (a n : Nat) : Bool := d * hbmHalf ≤ a && a + n ≤ (d + 1) * hbmHalf
  let others := (List.range 8).filter fun k => k ≠ n && s.flag d F.codec_ww_en k
  let span (k : Nat) : Nat × Nat :=
    (s.fld d F.codec_ww_base k * 0x200000, (s.fld d F.codec_ww_size k + 1) * 0x200000)
  let cw := (List.range 8).filter fun k => s.flag 0 F.brg_cwin_en k
  !bit v 63 ||
    (inHalf lo len && inHalf map mlen && !rangesMeet map mlen lo len &&
      others.all (fun k => !rangesMeet lo len (span k).1 (span k).2 && !rangesMeet map mlen (span k).1 (span k).2) &&
      cw.all fun k => !rangesMeet lo len (s.fld 0 F.brg_cwin_base k * 0x200000) ((s.fld 0 F.brg_cwin_size k + 1) * 0x200000))

end Sys2Proof.Machine
end

