-- ==== Sys2Proof/Machine/Sram.lean ====
section
/-! DEFINITION. Commands of stacked SRAM, cluster SRAM and the bridge's link (R177 to R188, R196 to R213). -/

namespace Sys2Proof.Machine

/-! ## Reads and writes -/

/-- Whether every byte of a range lies in memory (R639). -/
def inMemory (a n : Nat) : Bool := (blocks 64 a n).all fun b => isMemory b.1

/-- MEMORY_WRITE (R186, R178 to R181, R79): the bytes reach their target and are acknowledged, or wait. -/
def execMemoryWrite (d : Fin 2) (outside : Bool) (pa : Nat) (data : List Byte) (m : WriteMeets) (s : State) :
    Host.Outcome State Fault Refusal :=
  if inMemory pa data.length then
    .next ((s.bankWait pa m.beside).memRequest ⟨d, outside, pa, data.length, some data, m.poison, m.ecc⟩)
  else .fault (.noSuchAddress pa)

/-- MEMORY_READ (R178, R180, R181): the bytes leave corrected, or poisoned, or the read waits. -/
def execMemoryRead (d : Fin 2) (pa n : Nat) (m : ReadMeets) (s : State) : Host.Outcome State Fault Refusal :=
  if inMemory pa n then .next ((s.bankWait pa m.beside).memRequest ⟨d, false, pa, n, none, false, m.ecc⟩)
  else .fault (.noSuchAddress pa)

/-- EXTERNAL_SRAM_WRITE (R79): a write to a cluster's SRAM from another source; while a hand runs there it is held, up to 64
writes, and the writer waits beyond that. -/
def execExternalSramWrite (pa : Nat) (data : List Byte) (poison : Bool) (s : State) :
    Host.Outcome State Fault Refusal :=
  if isClusterSram pa ∧ isClusterSram (pa + data.length - 1) then
    .next (s.memRequest ⟨ownerDie pa, true, pa, data.length, some data, poison, []⟩)
  else .fault (.noSuchAddress pa)

/-! ## The patrol scrubber (R180) -/

/-- A scrub pass of die `d`: the granules `ce` are met with a single-bit error, those known bad and `ue` with an uncorrectable one, and the
bytes read are counted (R180, R181). -/
def State.scrubPass (s : State) (d : Nat) (ce ue : List Nat) : State :=
  let base := sramBase d
  let known := s.mem.ue.filter fun k => isSram (64 * k) && ownerDie (64 * k) = d
  let visit (e : Ecc) (s : State) (k : Nat) : State :=
    let a := 64 * k
    if isSram a ∧ ownerDie a = d ∧ ¬ s.isCarved a then (s.sramDecode a e).1 else s
  let s := (ce.map fun o => base / 64 + o).foldl (visit .corrected) s
  let s := known.foldl (visit .clean) s
  let s := ((ue.map fun o => base / 64 + o).filter fun k => !known.contains k).foldl (visit .uncorrectable) s
  s.tally d R.sram_t_scrub 0 ((64 - 4 * s.carved d) * 0x40000)

/-- SRAM_SCRUB_PASS (R180): the whole stacked SRAM outside the carved range is read and corrected. `ce` and `ue` are the
granules (by offset ÷ 64) in which the pass finds a single-bit and a new uncorrectable error. -/
def execSramScrubPass (d : Fin 2) (ce ue : List Nat) (s : State) : Host.Outcome State Fault Refusal :=
  .next (if ¬ s.flag d F.sram_scrub_en then s else s.scrubPass d ce ue)

/-! ## The carve (R181, R182) -/

/-- A transition to `n` steps starts. -/
def State.carveStart (s : State) (d n : Nat) : State := (s.setFld d F.sram_carve_size n).setFld d F.sram_carve_busy 1

/-- A write of `sram.carve.size` (R182): it starts a transition, or is held behind the running one. -/
def State.onCarve (s : State) (d n : Nat) : State :=
  if s.flag d F.sram_carve_busy then s.updMem d fun m => { m with carveHeld := some n }
  else s.carveStart d n

/-- Lines whose set changes, or that lie in slices given back, are written back and leave the cache. -/
def State.rehash (s : State) (d n : Nat) : State :=
  let old := s.sets d
  let moved := (s.memd.get d).lines.filter fun l => n = 0 ∨ l.g % old ≠ l.g % (16384 * n)
  moved.foldl (fun s l => (s.writeBack d l).lineDrop d l.g) s

/-- The bytes and marks of stacked SRAM between two offsets of die `d` become zero. -/
def State.clearSram (s : State) (d lo hi : Nat) : State :=
  let inside (a : Nat) : Bool := sramBase d + lo ≤ a && a < sramBase d + hi
  { s with mem := { s.mem with
      cells := s.mem.cells.filter fun e => !inside e.1
      ue := s.mem.ue.filter fun k => !inside (64 * k)
      poison := s.mem.poison.filter fun k => !inside (64 * k) } }

/-- The cache of die `d` takes its new size: slices given back are cleared, event 0x1053 is raised and a held write starts (R182). -/
def State.carveEnds (s : State) (d : Nat) : State :=
  let old := (s.memd.get d).carve
  let n := s.fld d F.sram_carve_size
  let s := s.rehash d n
  let s := s.clearSram d ((64 - 4 * max old n) * 0x1000000) ((64 - 4 * min old n) * 0x1000000)
  let held := (s.memd.get d).carveHeld
  let s := s.updMem d fun m => { m with carve := n, carveHeld := none }
  let s := (s.setFld d F.sram_carve_busy 0).raise d 0x07 0x1053 n
  (match held with
  | none => s
  | some k => s.carveStart d k).memResume

/-- CARVE_TRANSITION_DONE (R182): the cache has its new size, slices given back are cleared, event 0x1053 is raised and a held
write starts the next transition. -/
def execCarveTransitionDone (d : Fin 2) (s : State) : Host.Outcome State Fault Refusal :=
  .next (if ¬ s.flag d F.sram_carve_busy then s else s.carveEnds d)

/-! ## The bridge's link (R188) -/

/-- Change the bridge endpoint of a die. -/
def State.updBridge (s : State) (d : Nat) (f : Bridge → Bridge) : State :=
  s.updMem d fun m => { m with bridge := f m.bridge }

/-- The bridge's endpoints begin to train; `start` notes the failed replays at endpoint `d` before it. -/
def State.bridgeTrain (s : State) (d fails : Nat) : State :=
  let s := ((s.setFld 0 F.brg_stat_up 0).setFld 1 F.brg_stat_up 0).setFld 0 F.brg_stat_train 1
  (s.setFld 1 F.brg_stat_train 1).updBridge d fun b => { b with start := some fails, nakSeq := none, naks := 0 }

/-- BRIDGE_BEAT_RECEIVE (R188, R211): a beat with a good CRC and the expected number is accepted; a bad CRC is counted and answered
with a NAK; a beat that follows a refused one waits for its replay. -/
def execBridgeBeatReceive (d : Fin 2) (seq : Nat) (b : BeatIn) (s : State) : Host.Outcome State Fault Refusal :=
  let s := (s.tally (1 - d) R.brg_t_stall 0 b.stall).tally d R.brg_t_mesh 0 b.mesh
  if ¬ s.flag d F.brg_stat_up then .next s
  else if ¬ b.good then
    .next ((s.count32 d F.brg_crc_count).emit (.link d 18 [2, seq]))
  else if seq = (s.memd.get d).bridge.rxSeq then
    .next (s.updBridge d fun b => { b with rxSeq := seq + 1 })
  else .next s

/-- BRIDGE_NAK (R188): the sender replays `beats` beats from the refused one; after 8 failed replays of one beat it retrains. -/
def execBridgeNak (d : Fin 2) (seq beats : Nat) (s : State) : Host.Outcome State Fault Refusal :=
  if ¬ s.flag d F.brg_stat_up then .next s
  else
    let b := (s.memd.get d).bridge
    let failed := if b.nakSeq = some seq then b.naks else 0
    if 8 ≤ failed then .next (s.bridgeTrain d failed)
    else
      let s := s.count32 d F.brg_replay_count (min beats 512)
      .next (s.updBridge d fun x => { x with nakSeq := some seq, naks := failed + 1 })

/-- A write of 1 to `brg.ctl.retrain` (R188, R196): a training starts at once; before run release the bridge stays in DOWN
(R590), and after a trip until device reset (R663). -/
def State.onRetrain (s : State) (d : Nat) (released : Bool) : State :=
  let s := s.setFld d F.brg_ctl_retrain 1
  if ¬ released ∨ s.tripped ∨ s.flag d F.brg_stat_train then s else s.bridgeTrain d 0

end Sys2Proof.Machine
end

