-- ==== Sys2Proof/Machine/Coherence.lean ====
section
/-! DEFINITION. Coherent control lines: the home's directory, the other die's line states, the messages between them and the
windows (R189 to R195, R206, R207). Data stands in the one memory image; what moves here are the rights to it. -/

namespace Sys2Proof.Machine

/-- The record of a line. -/
def State.coh (s : State) (line : Nat) : CohLn := (s.mem.coh.find? fun l => l.line = line).getD (CohLn.idle line)

/-- Whether nothing of the line is under way at either die. -/
def CohLn.quiet (l : CohLn) : Bool :=
  l.toHome.isEmpty && l.toRemote.isEmpty && l.earlyH.isEmpty && l.earlyR.isEmpty && l.snoop.isNone && l.homeQ.isEmpty &&
    l.wait.isEmpty && l.waitSnoop.isNone && (l.remote = .I || l.remote = .S || l.remote = .M)

/-! ## The control-line cache (R190): 256 sets of 16 lines -/

/-- A line becomes the most recent of a die's control-line cache. -/
def State.clcTouch (s : State) (d line : Nat) : State :=
  s.updMem d fun m => { m with clc := line :: m.clc.filter fun x => x ≠ line }

/-- A line leaves a die's control-line cache. -/
def State.clcDrop (s : State) (d line : Nat) : State :=
  s.updMem d fun m => { m with clc := m.clc.filter fun x => x ≠ line }

/-- Whether a line holds the entry of a context that die `d` keeps cached, which stays in the cache (R190, R263). -/
def State.clcPinned (s : State) (d line : Nat) : Bool :=
  (s.ctxd.get d).cache.any fun e => (0x100000 * s.fld 0 F.ctx_base_base + 256 * e.ctx) / 256 = line

/-- Store the record of a line: sequence numbers start from 0 again when nothing is under way (R192), and a line of which
nothing is known has no record. -/
def State.setCoh (s : State) (l : CohLn) : State :=
  let l := if l.quiet then { l with sendR := 0, recvR := 0, sendH := 0, recvH := 0, evSeq := 0, gotEv := none, gotRsp := none }
    else l
  let s := if l.remote = .I then s.clcDrop (1 - homeDie (256 * l.line)) l.line else s
  let rest := s.mem.coh.filter fun x => x.line ≠ l.line
  { s with mem := { s.mem with coh := if l.quiet ∧ l.remote = .I ∧ l.dir = .I then rest else l :: rest } }

/-- The home die of a line (R190). -/
def lineHome (line : Nat) : Nat := homeDie (256 * line)

/-- Whether a message carries the line's 256 bytes (R191). -/
def CohMsg.hasData : CohMsg → Bool
  | .EVM | .DATS | .DATM | .RSPD => true
  | _ => false

/-- The bytes of a message on the bridge (R187). -/
def CohMsg.bytes (m : CohMsg) : Nat := if m.hasData then 288 else 32

/-- The home sends a message to the other die. -/
def State.sendRemote (s : State) (l : CohLn) (m : CohMsg) : State × CohLn :=
  (s.tally (lineHome l.line) R.brg_t_tx1 0 m.bytes,
    { l with sendH := (l.sendH + 1) % 16, toRemote := l.toRemote ++ [⟨m, l.sendH, 0⟩] })

/-- The other die sends a message to the home. -/
def State.sendHome (s : State) (l : CohLn) (m : CohMsg) (ev : Nat := 0) : State × CohLn :=
  (s.tally (1 - lineHome l.line) R.brg_t_tx1 0 m.bytes,
    { l with sendR := (l.sendR + 1) % 16, toHome := l.toHome ++ [⟨m, l.sendR, ev⟩] })

/-- A message that matches no state is discarded, recorded and reported (R207). -/
def State.unexpected (s : State) (d : Nat) (m : CohMsg) (seq : Nat) (st : Coh) (line : Nat) : State :=
  let v := m.code * 2 ^ 59 + seq % 16 * 2 ^ 55 + st.code * 2 ^ 52 + line * 256 % 2 ^ 52
  (s.recordFirst d F.brg_err_first_valid v).raise d 0x1D 0x2062 v

/-- An access across a bridge that is down (R188): a read returns poison, a write is discarded and counted. -/
def State.serveFar (s : State) (a : CohAccess) : State :=
  match a.wdata with
  | some _ => s.count32 a.die F.brg_crc_count
  | none => s.emit (.memData a.pa (List.replicate a.len 0) true)

/-- An access is made by a die that may make it: its bytes are written, or read and answered. -/
def State.serve (s : State) (a : CohAccess) : State :=
  if s.bridgeDown ∧ lineHome (a.pa / 256) = a.die ∧ ownerDie a.pa ≠ a.die then s.serveFar a
  else
    match a.wdata with
    | some bs => s.writeRaw a.die a.pa bs (paid := true)
    | none =>
      let r := s.readRaw a.die a.pa a.len (paid := true)
      r.st.emit (.memData a.pa r.data r.poison)

/-- An access at the home of a line that the other die may hold dirty, with the bridge down: a read is answered with poison (R188). -/
def State.serveLost (s : State) (a : CohAccess) : State :=
  match a.wdata with
  | some _ => s.serve a
  | none => s.serveFar a

/-! ## The home -/

/-- The lines of a directory set that the other die holds; the set of a line is its number modulo 512 (8,192 entries, 16
ways). -/
def State.dirSet (s : State) (line : Nat) : List CohLn :=
  s.mem.coh.filter fun x => x.line % 512 = line % 512 ∧ lineHome x.line = lineHome line ∧ x.dir ≠ .I ∧ x.line ≠ line

/-- A request for `line` waits for a directory entry: unless one of the set is on its way out already, a victim is evicted by an
SNPI (R190). -/
def State.dirEvict (s : State) (line : Nat) : State :=
  let set := s.dirSet line
  let free := set.filter fun x => x.snoop.isNone && x.homeQ.isEmpty
  if set.any fun x => x.snoop = some .SNPI then s
  else
    match free[Config.directoryVictim (line % 512) free.length % free.length]? with
    | none => s
    | some v =>
      let s := s.tally (lineHome line) R.brg_t_binv
      let x := s.sendRemote v .SNPI
      x.1.setCoh { x.2 with snoop := some .SNPI }

/-- The home grants a request of the other die; with M its own cache gives the line up. -/
def State.grant (s : State) (l : CohLn) (m : CohMsg) (dir : Coh) : State × CohLn :=
  let s := if dir = .M then s.clcDrop (lineHome l.line) l.line else s
  let x := s.sendRemote l m
  (x.1, { x.2 with dir := dir })

/-- The home serves its queue in order until a snoop is outstanding (R190, R191, R194). -/
def State.homeServe : Nat → State → CohLn → State × CohLn
  | 0, s, l => (s, l)
  | fuel + 1, s, l =>
    if l.snoop.isSome then (s, l)
    else
      match l.homeQ with
      | [] => (s, l)
      | q :: rest =>
        let l := { l with homeQ := rest }
        match q with
        | .remote m =>
          if l.dir = .I ∧ 16 ≤ (s.dirSet l.line).length then (s.dirEvict l.line, { l with homeQ := q :: rest })
          else
          let x :=
            if m = .RDS then s.grant l .DATS .S
            else if m = .UPG ∧ l.dir = .S then s.grant l .GNTM .M
            else s.grant l .DATM .M
          State.homeServe fuel x.1 x.2
        | .here a =>
          let snoop := if a.wdata.isSome then (if l.dir = .I then none else some CohMsg.SNPI)
            else (if l.dir = .M then some CohMsg.SNPS else none)
          match snoop with
          | none => State.homeServe fuel (s.serve a) l
          | some m =>
            if s.bridgeDown then State.homeServe fuel (if l.dir = .M then s.serveLost a else s.serve a) l
            else
              let x := s.sendRemote l m
              (x.1, { x.2 with snoop := some m, homeQ := .here a :: rest })

/-- The home's snoop is complete with the directory at `dir`; the queue goes on. -/
def State.snoopDone (s : State) (l : CohLn) (dir : Coh) : State × CohLn :=
  State.homeServe (l.homeQ.length + 1) s { l with snoop := none, gotEv := none, gotRsp := none, dir := dir }

/-- With RSPEV and the eviction it names both at the home, the crossing is complete (R193). -/
def State.crossing (s : State) (l : CohLn) : State × CohLn :=
  match l.gotEv, l.gotRsp with
  | some e, some n =>
    if e.seq = n then
      let s := s.tally (lineHome l.line) R.brg_t_xing
      let x := s.sendRemote l .EVACK
      x.1.snoopDone x.2 .I
    else (s, l)
  | _, _ => (s, l)

/-- The home applies a message (R191, R193, R194). -/
def State.homeApply (s : State) (l : CohLn) (p : CohPkt) : State × CohLn :=
  let bad := (s.unexpected (lineHome l.line) p.msg p.seq l.dir l.line, l)
  match p.msg with
  | .RDS | .RDM =>
    if l.dir = .I ∨ l.snoop.isSome then
      State.homeServe (l.homeQ.length + 2) s { l with homeQ := l.homeQ ++ [.remote p.msg] }
    else bad
  | .UPG => State.homeServe (l.homeQ.length + 2) s { l with homeQ := l.homeQ ++ [.remote .UPG] }
  | .EVS | .EVM =>
    if l.snoop.isSome then s.crossing { l with gotEv := some p }
    else if l.dir = .M ∨ (l.dir = .S ∧ p.msg = .EVS) then
      let x := s.sendRemote l .EVACK
      (x.1, { x.2 with dir := .I })
    else bad
  | .RSPI => if l.snoop.isSome then s.snoopDone l .I else bad
  | .RSPS => if l.snoop = some .SNPS then s.snoopDone l .S else bad
  | .RSPD =>
    match l.snoop with
    | some .SNPS => if l.dir = .M then s.snoopDone l .S else bad
    | some _ => if l.dir = .M then s.snoopDone l .I else bad
    | none => bad
  | .RSPEV => if l.snoop.isSome then s.crossing { l with gotRsp := some p.ev } else bad
  | _ => bad

/-! ## The other die -/

/-- The other die gives up a line that it holds (R191): EVS from S, EVM from M. -/
def State.evictLine (s : State) (l : CohLn) : State × CohLn :=
  let x := s.sendHome l (if l.remote = .M then .EVM else .EVS)
  (x.1, { x.2 with remote := if l.remote = .M then .MI else .SI, evSeq := l.sendR })

/-- The lines of a die's control-line cache in the set of `line`. -/
def State.clcSet (s : State) (d line : Nat) : List Nat := (s.memd.get d).clc.filter fun x => x % 256 = line % 256 ∧ x ≠ line

/-- The line that gives way to `line` in a full set: the least recently used one that holds no cached context's entry and, where the
other die is its home, is not on its way in or out (R190). -/
def State.clcVictim (s : State) (d line : Nat) : Option Nat :=
  (s.clcSet d line).reverse.find? fun x =>
    !s.clcPinned d x && (lineHome x = d || (let l := s.coh x; (l.remote = .S || l.remote = .M) && l.wait.isEmpty))

/-- Whether `line` can stand in a die's control-line cache. -/
def State.clcFits (s : State) (d line : Nat) : Bool := (s.clcSet d line).length < 16 || (s.clcVictim d line).isSome

/-- `line` enters a die's control-line cache as its most recent line; with 16 others in its set one is evicted (R190). -/
def State.clcRoom (s : State) (d line : Nat) : State :=
  let s := if (s.clcSet d line).length < 16 then s
    else
      match s.clcVictim d line with
      | none => s
      | some v =>
        let s := s.clcDrop d v
        if lineHome v = d then s
        else
          let x := s.evictLine (s.coh v)
          x.1.setCoh x.2
  s.clcTouch d line

/-- A cached context's entry is held in the control-line cache (R190, R263): a line of the other die's home comes in shared. -/
def State.clcHold (s : State) (d line : Nat) : State :=
  if ¬ s.coherent (256 * line) then s
  else
    let s := s.clcRoom d line
    let l := s.coh line
    if lineHome line = d ∨ l.remote ≠ .I ∨ l.dir ≠ .I ∨ ¬ l.quiet ∨ s.bridgeDown then s
    else ((s.tally d R.brg_t_tx1 0 CohMsg.RDS.bytes).tally (1 - d) R.brg_t_tx1 0 CohMsg.DATS.bytes).setCoh { l with remote := .S, dir := .S }

/-- Accesses that wait at the other die are served in order as far as its state allows; the first that needs more sends its
request (R190, R191). -/
def State.remoteServe : Nat → State → CohLn → State × CohLn
  | 0, s, l => (s, l)
  | fuel + 1, s, l =>
    match l.wait with
    | [] => (s, l)
    | a :: rest =>
      let w := a.wdata.isSome
      match l.remote with
      | .I =>
        let x := s.sendHome l (if w then .RDM else .RDS)
        (x.1, { x.2 with remote := if w then .IM else .IS })
      | .S =>
        if w then
          let x := s.sendHome l .UPG
          (x.1, { x.2 with remote := .SM })
        else State.remoteServe fuel (s.serve a) { l with wait := rest }
      | .M => State.remoteServe fuel (s.serve a) { l with wait := rest }
      | .SM => if w then (s, l) else State.remoteServe fuel (s.serve a) { l with wait := rest }
      | _ => (s, l)

/-- The other die answers a snoop according to its state (R191); in IS and IM it waits for the grant. -/
def State.answerSnoop (s : State) (l : CohLn) (m : CohMsg) : State × CohLn :=
  let inval := m = .SNPI
  match l.remote with
  | .I => s.sendHome l .RSPI
  | .S =>
    if inval then
      let x := s.sendHome l .RSPI
      (x.1, { x.2 with remote := .I })
    else s.sendHome l .RSPS
  | .M =>
    let x := s.sendHome l .RSPD
    (x.1, { x.2 with remote := if inval then .I else .S })
  | .SM =>
    if inval then
      let x := s.sendHome l .RSPI
      (x.1, { x.2 with remote := .IM })
    else s.sendHome l .RSPS
  | .SI | .MI => s.sendHome l .RSPEV l.evSeq
  | .IS | .IM => (s, { l with waitSnoop := some m })

/-- A grant is applied: waiting accesses are served, then a snoop that waited for it is answered (R191, R192). -/
def State.granted (s : State) (l : CohLn) (st : Coh) : State × CohLn :=
  let x := State.remoteServe (l.wait.length + 1) s { l with remote := st }
  match x.2.waitSnoop with
  | none => x
  | some m => x.1.answerSnoop { x.2 with waitSnoop := none } m

/-- The other die applies a message (R191, R193). -/
def State.remoteApply (s : State) (l : CohLn) (p : CohPkt) : State × CohLn :=
  let bad := (s.unexpected (1 - lineHome l.line) p.msg p.seq l.remote l.line, l)
  match p.msg with
  | .SNPS => s.answerSnoop l .SNPS
  | .SNPI => s.answerSnoop l .SNPI
  | .DATS => if l.remote = .IS then s.granted l .S else bad
  | .DATM => if l.remote = .IM then s.granted l .M else bad
  | .GNTM => if l.remote = .SM then s.granted l .M else bad
  | .EVACK =>
    if l.remote = .SI ∨ l.remote = .MI then State.remoteServe (l.wait.length + 1) s { l with remote := .I } else bad
  | _ => bad

/-! ## Arrival of messages -/

/-- Messages for one line from one direction are applied in sequence order; an early one is held (R192). -/
def State.homeArrive : Nat → State → CohLn → CohPkt → State × CohLn
  | 0, s, l, _ => (s, l)
  | fuel + 1, s, l, p =>
    if p.seq = l.recvH then
      let x := s.homeApply { l with recvH := (l.recvH + 1) % 16 } p
      match x.2.earlyH.find? fun e => e.seq = x.2.recvH with
      | none => x
      | some e => State.homeArrive fuel x.1 { x.2 with earlyH := x.2.earlyH.filter fun y => y ≠ e } e
    else if (p.seq + 16 - l.recvH) % 16 < 8 then (s, { l with earlyH := l.earlyH ++ [p] })
    else (s.unexpected (lineHome l.line) p.msg p.seq l.dir l.line, l)

/-- The same at the other die. -/
def State.remoteArrive : Nat → State → CohLn → CohPkt → State × CohLn
  | 0, s, l, _ => (s, l)
  | fuel + 1, s, l, p =>
    if p.seq = l.recvR then
      let x := s.remoteApply { l with recvR := (l.recvR + 1) % 16 } p
      match x.2.earlyR.find? fun e => e.seq = x.2.recvR with
      | none => x
      | some e => State.remoteArrive fuel x.1 { x.2 with earlyR := x.2.earlyR.filter fun y => y ≠ e } e
    else if (p.seq + 16 - l.recvR) % 16 < 8 then (s, { l with earlyR := l.earlyR ++ [p] })
    else (s.unexpected (1 - lineHome l.line) p.msg p.seq l.remote l.line, l)

/-- Home trackers in use at a die (R206). -/
def State.homeTrackers (s : State) (d : Nat) : Nat :=
  (s.mem.coh.filter fun l => lineHome l.line = d ∧ (l.snoop.isSome ∨ l.homeQ ≠ [])).length

/-- Requester trackers in use at a die (R206). -/
def State.reqTrackers (s : State) (d : Nat) : Nat :=
  (s.mem.coh.filter fun l => lineHome l.line ≠ d ∧ ¬ (l.remote = .I ∨ l.remote = .S ∨ l.remote = .M)).length

/-! ## Accesses (R190) -/

/-- Two accesses of one agent, which complete in the order it issued them. -/
def CohAccess.sameAgent (a b : CohAccess) : Bool := a.die = b.die && a.tag = b.tag

/-- Whether an earlier access of an access's agent has not completed. -/
def State.agentBusy (s : State) (a : CohAccess) : Bool :=
  s.mem.coh.any fun l => l.wait.any a.sameAgent || l.homeQ.any fun q => match q with
    | .here b => a.sameAgent b
    | .remote _ => false

/-- An access starts: it is served at once, or its request or snoop is sent and it waits for its line. With the bridge down an access
to the other die's home returns poison unless its die holds the line (R188). -/
def State.cohStart (s : State) (a : CohAccess) : State :=
  let line := a.pa / 256
  let h := lineHome line
  let l := s.coh line
  if h = a.die then
    let x := State.homeServe (l.homeQ.length + 2) (s.clcRoom h line) { l with homeQ := l.homeQ ++ [.here a] }
    x.1.setCoh x.2
  else if s.bridgeDown then if l.remote = .M ∨ (l.remote = .S ∧ a.wdata.isNone) then s.serve a else s.serveFar a
  else
    let x := State.remoteServe (l.wait.length + 2) (s.clcRoom a.die line) { l with wait := l.wait ++ [a] }
    x.1.setCoh x.2

/-- Whether an access must wait before it starts: for its window to change (R195), for its agent's earlier accesses, for a tracker, or
for room in the control-line cache (R190). -/
def State.cohBlocked (s : State) (a : CohAccess) : Bool :=
  s.windowChanging a.pa || s.agentBusy a || s.mem.cohWait.any a.sameAgent ||
    (s.coherent a.pa &&
      (!s.clcFits a.die (a.pa / 256) ||
        64 ≤ (if lineHome (a.pa / 256) = a.die then s.homeTrackers a.die else s.reqTrackers a.die)))

/-- An access comes: it waits, starts, or, outside every window in force, is an ordinary access (R189, R195). -/
def State.cohAdmit (s : State) (a : CohAccess) : State :=
  if s.cohBlocked a then { s with mem := { s.mem with cohWait := s.mem.cohWait ++ [a] } }
  else if s.coherent a.pa then s.cohStart a
  else s.memRequest ⟨a.die, false, a.pa, (a.wdata.getD (List.replicate a.len 0)).length, a.wdata, false, []⟩

/-- Accesses that wait are tried again, in their order. -/
def State.cohResume (s : State) : State :=
  s.mem.cohWait.foldl State.cohAdmit { s with mem := { s.mem with cohWait := [] } }

/-- COHERENT_ACCESS (R190, R188): an access of `len` bytes at `pa` (a write when `wdata` is given) by agent `tag` of die `d`. -/
def execCoherentAccess (d : Fin 2) (pa len : Nat) (wdata : Option (List Byte)) (tag : Nat) (s : State) :
    Host.Outcome State Fault Refusal :=
  .next (s.cohAdmit ⟨d, pa, len, wdata, tag⟩)

/-! ## Messages reach their ends -/

/-- Requests that waited for a directory entry in the set of `line` are served as far as there is room (R190). -/
def State.dirRetry (s : State) (line : Nat) : State :=
  (s.mem.coh.filter fun x =>
      x.line % 512 = line % 512 && lineHome x.line = lineHome line && !x.homeQ.isEmpty && x.snoop.isNone).foldl
    (fun s x =>
      let l := s.coh x.line
      let y := State.homeServe (l.homeQ.length + 1) s l
      y.1.setCoh y.2) s

/-- Whether a new request of the other die must wait for a home tracker (R190). -/
def State.homeFull (s : State) (m : CohMsg) (l : CohLn) : Bool :=
  (m = .RDS || m = .RDM || m = .UPG) && l.snoop.isNone && l.homeQ.isEmpty && 64 ≤ s.homeTrackers (lineHome l.line)

/-- A coherence message reaches the home of its line; the bridge must be up (R188), and a request waits for a tracker. -/
def State.atHome (s : State) (m : CohMsg) (line seq ev : Nat) : State :=
  let l := s.coh line
  if ¬ s.flag 0 F.brg_stat_up ∨ s.homeFull m l then s
  else
    let p : CohPkt := ⟨m, seq % 16, ev % 16⟩
    let x := State.homeArrive (l.earlyH.length + 2) s
      { l with toHome := l.toHome.filter fun y => ¬ (y.msg = m ∧ y.seq = seq % 16) } p
    ((x.1.setCoh x.2).dirRetry line).cohResume

/-- A coherence message reaches the other die of its line. -/
def State.atRemote (s : State) (m : CohMsg) (line seq : Nat) : State :=
  if ¬ s.flag 0 F.brg_stat_up then s
  else
    let l := s.coh line
    let p : CohPkt := ⟨m, seq % 16, 0⟩
    let x := State.remoteArrive (l.earlyR.length + 2) s
      { l with toRemote := l.toRemote.filter fun y => ¬ (y.msg = m ∧ y.seq = seq % 16) } p
    (x.1.setCoh x.2).cohResume

/-- RDS: the home receives a request for a shared copy (R191). -/
def execRds (line seq : Nat) (s : State) : Host.Outcome State Fault Refusal := .next (s.atHome .RDS line seq 0)

/-- RDM: the home receives a request for the only copy (R191). -/
def execRdm (line seq : Nat) (s : State) : Host.Outcome State Fault Refusal := .next (s.atHome .RDM line seq 0)

/-- UPG: the home receives a request to go from S to M (R191, R194). -/
def execUpg (line seq : Nat) (s : State) : Host.Outcome State Fault Refusal := .next (s.atHome .UPG line seq 0)

/-- EVS: the home receives a clean eviction (R191, R193). -/
def execEvs (line seq : Nat) (s : State) : Host.Outcome State Fault Refusal := .next (s.atHome .EVS line seq 0)

/-- EVM: the home receives a dirty eviction (R191, R193). -/
def execEvm (line seq : Nat) (s : State) : Host.Outcome State Fault Refusal := .next (s.atHome .EVM line seq 0)

/-- RSPI: the home learns that the other die now holds the line in I (R191). -/
def execRspi (line seq : Nat) (s : State) : Host.Outcome State Fault Refusal := .next (s.atHome .RSPI line seq 0)

/-- RSPS: the home learns that the other die now holds the line in S (R191). -/
def execRsps (line seq : Nat) (s : State) : Host.Outcome State Fault Refusal := .next (s.atHome .RSPS line seq 0)

/-- RSPD: the home receives dirty data in answer to a snoop (R191). -/
def execRspd (line seq : Nat) (s : State) : Host.Outcome State Fault Refusal := .next (s.atHome .RSPD line seq 0)

/-- RSPEV: the home receives a miss answer that names the eviction `ev` in flight (R193). -/
def execRspev (line seq ev : Nat) (s : State) : Host.Outcome State Fault Refusal :=
  .next (s.atHome .RSPEV line seq ev)

/-- SNPS: the other die receives a downgrade snoop (R191). -/
def execSnps (line seq : Nat) (s : State) : Host.Outcome State Fault Refusal := .next (s.atRemote .SNPS line seq)

/-- SNPI: the other die receives an invalidating snoop (R191). -/
def execSnpi (line seq : Nat) (s : State) : Host.Outcome State Fault Refusal := .next (s.atRemote .SNPI line seq)

/-- DATS: the other die receives a grant of S with data (R191). -/
def execDats (line seq : Nat) (s : State) : Host.Outcome State Fault Refusal := .next (s.atRemote .DATS line seq)

/-- DATM: the other die receives a grant of M with data (R191). -/
def execDatm (line seq : Nat) (s : State) : Host.Outcome State Fault Refusal := .next (s.atRemote .DATM line seq)

/-- GNTM: an S holder receives a grant of M (R191). -/
def execGntm (line seq : Nat) (s : State) : Host.Outcome State Fault Refusal := .next (s.atRemote .GNTM line seq)

/-- EVACK: the other die's eviction is complete and the line goes to I (R191). -/
def execEvack (line seq : Nat) (s : State) : Host.Outcome State Fault Refusal := .next (s.atRemote .EVACK line seq)

/-- With the bridge down, what is under way across it completes at once (R188): accesses that wait are served with what they
then meet, and no message is left. -/
def State.cohBridgeDown (s : State) : State :=
  s.mem.coh.foldl
    (fun s l =>
      let s := l.wait.foldl State.serveFar s
      let s := l.homeQ.foldl (fun s q => match q with
        | .here a => if l.dir = .M then s.serveLost a else s.serve a
        | .remote _ => s) s
      let st := if l.remote = .SM then .S else if l.remote = .M ∨ l.remote = .S then l.remote else .I
      s.setCoh { CohLn.idle l.line with remote := st, dir := l.dir }) s |>.cohResume

/-! ## Windows (R189, R195) -/

/-- A write of `brg.cwin[n]` (R195): the window is busy while its old range is flushed; a write behind a change is held. -/
def State.onCwin (s : State) (n v : Nat) : State :=
  let old := s.reg 0 R.brg_cwin n
  match (s.memd.get 0).cwins.find? fun c => c.n = n with
  | some _ =>
    s.updMem 0 fun m => { m with cwins := m.cwins.map fun c => if c.n = n then { c with held := some v } else c }
  | none =>
    let s := (s.setReg 0 R.brg_cwin v n).orFld 0 F.brg_cwin_busy_busy (2 ^ n)
    s.updMem 0 fun m => { m with cwins := m.cwins ++ [⟨n, old, v, none⟩] }

/-- The accesses of a line that have not completed. -/
def CohLn.accesses (l : CohLn) : List CohAccess :=
  l.wait ++ l.homeQ.filterMap fun q => match q with
    | .here a => some a
    | .remote _ => none

/-- The range of a window changes: no line of the old one stays cached, event 0x2064 is raised, and a held write starts; accesses that
waited go on (R195). -/
def State.windowChanges (s : State) (n : Nat) (c : CwinChange) : State :=
  let inOld (line : Nat) : Bool :=
    bit c.old 63 && bits c.old 16 31 * 0x2000 ≤ line && line < (bits c.old 16 31 + bits c.old 47 16 + 1) * 0x2000
  let waited := (s.mem.coh.filter fun l => inOld l.line).flatMap CohLn.accesses
  let s := { s with mem := { s.mem with coh := s.mem.coh.filter (fun l => !inOld l.line), cohWait := waited ++ s.mem.cohWait } }
  let s := (s.updMem 0 fun m => { m with clc := m.clc.filter fun x => !inOld x }).updMem 1 fun m =>
    { m with clc := m.clc.filter fun x => !inOld x }
  let s := s.updMem 0 fun m => { m with cwins := m.cwins.filter fun x => x.n ≠ n }
  let s := s.setFld 0 F.brg_cwin_busy_busy (s.fld 0 F.brg_cwin_busy_busy &&& (255 - 2 ^ n))
  let s := s.raise 0 0x1D 0x2064 n
  (match c.held with
  | none => s
  | some v => s.onCwin n v).cohResume.memResume

/-- CWIN_FLUSH_DONE (R195): no line of the old range is cached, the new range takes effect, event 0x2064 is raised, and a held
write starts the next change. -/
def execCwinFlushDone (n : Fin 8) (s : State) : Host.Outcome State Fault Refusal :=
  match (s.memd.get 0).cwins.find? fun c => c.n = n.val with
  | none => .next s
  | some c => .next (s.windowChanges n c)

end Sys2Proof.Machine
end

