-- ==== Sys2Proof/Machine/Contexts.lean ====
section
/-! DEFINITION. The context table, cached entries, doorbells and quotas (R258 to R269, R277 to R281). -/

namespace Sys2Proof.Machine

/-! ## Entries (R258 to R260) -/

/-- The address of entry `c` of the context table. -/
def State.ctxAddr (s : State) (c : Nat) : Nat := 0x100000 * s.fld 0 F.ctx_base_base + 256 * c

/-- A context entry's 256 bytes as the control-line caches hold them. -/
def State.ctxBytes (s : State) (c : Nat) : List Byte := s.view (s.ctxAddr c) 256

/-- A field of context entry `c`: `n` bytes at `off` (R259). -/
def State.ctxField (s : State) (c off n : Nat) : Nat := leNat (s.view (s.ctxAddr c + off) n)

/-- The first check of R260 that an entry fails, as the reason of R279: 0 reserved field, 1 state, 2 acct, 3 wq_n, 4 lscale,
5 alignment. -/
def entryFault (c : Nat) (e : List Byte) : Option Nat :=
  let f (off n : Nat) := leAt e off n
  if f 0x01 1 ≥ 8 ∨ f 0x02 2 ≥ 8 ∨ f 0x08 2 ≥ 4096 ∨ f 0x0D 3 ≠ 0 ∨ f 0x3A 2 ≠ 0 ∨ leNat (e.drop 0x50) ≠ 0 then some 0
  else if f 0 1 > 2 then some 1
  else if f 0x08 2 ≠ c then some 2
  else if f 0x0C 1 < 4 ∨ 16 < f 0x0C 1 then some 3
  else if f 0x0B 1 = 0x80 then some 4
  else if f 0x10 8 % 64 ≠ 0 ∨ f 0x10 8 ≥ 2 ^ 52 ∨ f 0x18 8 % 4096 ≠ 0 ∨ f 0x18 8 ≥ 2 ^ 52 then some 5
  else none

/-- A check of entry `c` on die `d` (R260): a failure raises event 0x5010 once until a check has passed. -/
def State.checkEntry (s : State) (d c : Nat) : State × Bool :=
  match entryFault c (s.ctxBytes c) with
  | none => (s.updCtx d fun x => { x with badSeen := x.badSeen.filter fun y => y ≠ c }, true)
  | some reason =>
    let v := c + d * 2 ^ 16 + reason * 2 ^ 48
    if (s.ctxd.get d).badSeen.contains c then (s, false)
    else
      let s := s.updCtx d fun x => { x with badSeen := c :: x.badSeen }
      ((s.recordFirst 0 F.ctx_bad_first_valid v).raise d 0x02 0x5010 v { ctx := c }, false)

/-- The cached entry of context `c` on die `d`. -/
def State.cached (s : State) (d c : Nat) : Option CtxEntry := (s.ctxd.get d).cache.find? fun e => e.ctx = c

/-- Change the cached entry of a context. -/
def State.updCached (s : State) (d c : Nat) (f : CtxEntry → CtxEntry) : State :=
  s.updCtx d fun x => { x with cache := x.cache.map fun e => if e.ctx = c then f e else e }

/-- Whether a slot of die `d` holds an item of context `c` (R264). -/
def State.ctxBusy (s : State) (d c : Nat) : Bool :=
  (List.range 8).any fun i => (s.rg (8 * d + i)).slots.any fun k => k.st ≠ .idle && k.ctx = c

/-! ## Queues and doorbells (R127, R128, R263) -/

/-- The address of the work queue of context `c` in global region `r` (R127). -/
def State.queueAddr (s : State) (c r : Nat) : Nat :=
  s.ctxField c 0x10 8 % 2 ^ 52 + r * 64 * (2 ^ s.ctxField c 0x0C 1 + 1)

/-- The recorded tail and halt bit of a context in die-local region `i` (R263). -/
def State.doorbell (s : State) (d c i : Nat) : Doorbell :=
  ((s.ctxd.get d).db.find? fun x => x.ctx = c ∧ x.region = i).getD ⟨c, i, 0, false⟩

/-- Set the record of a context in a region; a record of zeros is not kept. -/
def State.setDoorbell (s : State) (d : Nat) (x : Doorbell) : State :=
  s.updCtx d fun c =>
    let rest := c.db.filter fun y => ¬ (y.ctx = x.ctx ∧ y.region = x.region)
    { c with db := if x.tail = 0 ∧ ¬ x.halt then rest else x :: rest }

/-- The head of a context's queue in global region `r`. -/
def State.queueHead (s : State) (c r : Nat) : Nat := s.viewNat (s.queueAddr c r) 4

/-- Whether a context has a pending item in die-local region `i`, halted or not: recorded tail and head differ (R128). -/
def State.hasItem (s : State) (d c i : Nat) : Bool :=
  let n := s.ctxField c 0x0C 1
  4 ≤ n && n ≤ 16 && (s.doorbell d c i).tail % 2 ^ n ≠ s.queueHead c (8 * d + i) % 2 ^ n

/-- Whether a context has a pending item in some region of the die. -/
def State.pending? (s : State) (d c : Nat) : Bool := (List.range 8).any fun i => s.hasItem d c i

/-- A context joins the die's fill queue if it is not cached there and not in the queue (R263). -/
def State.joinFill (s : State) (d c : Nat) : State :=
  if (s.cached d c).isSome ∨ (s.ctxd.get d).fillq.contains c then s
  else s.updCtx d fun x => { x with fillq := x.fillq ++ [c] }

/-! ## Fill and eviction (R263 to R265) -/

/-- Quota units are 2^20 cluster-clocks (R259). -/
def quotaUnit : Nat := 2 ^ 20

/-- An idle entry leaves: its quota epoch and counter are written back by one coherent write (R265). -/
def State.evictCtx (s : State) (d : Nat) (e : CtxEntry) : State :=
  let a := s.ctxAddr e.ctx + 0x40 + 8 * d
  let s := s.writeRaw d a (leBytes 4 s.epoch ++ leBytes 4 (e.quota / quotaUnit))
  (s.updCtx d fun x => { x with cache := x.cache.filter fun y => y.ctx ≠ e.ctx }).tally 0 R.ctx_t_evict d

/-- The first of the least recently used of some entries; equal times are ordered by context (R264). -/
def lruEntry (l : List CtxEntry) : Option CtxEntry :=
  l.foldl (fun r e => match r with
    | none => some e
    | some x => if e.last < x.last ∨ (e.last = x.last ∧ e.ctx < x.ctx) then some e else r) none

/-- The idle entry to evict (R264). -/
def State.ctxVictim (s : State) (d : Nat) : Option CtxEntry :=
  let idle := (s.ctxd.get d).cache.filter fun e => !s.ctxBusy d e.ctx
  match lruEntry (idle.filter fun e => !s.pending? d e.ctx) with
  | some e => some e
  | none => lruEntry idle

/-- The lowest free place of a die's cache. -/
def State.freeEntry (s : State) (d : Nat) : Option Nat :=
  (List.range 128).find? fun i => (s.ctxd.get d).cache.all fun e => e.idx ≠ i

/-- Fill context `c` into place `i` (R263, R265): its line is held in the die's control-line cache from then on; a refused entry only
leaves the queue. -/
def State.fillAt (s : State) (d c i : Nat) : State :=
  let x := s.checkEntry d c
  let s := x.1
  if ¬ x.2 then s
  else
    let used := if s.ctxField c (0x40 + 8 * d) 4 = s.epoch then s.ctxField c (0x44 + 8 * d) 4 * quotaUnit else 0
    (s.updCtx d fun y => { y with cache := y.cache ++ [⟨i, c, used, s.clk⟩] }).tally 0 R.ctx_t_fill d |>.clcHold d (s.ctxAddr c / 256)

/-- CONTEXT_FILL (R263 to R265): the context at the head of the die's fill queue takes a free entry, or that of an evicted idle
one; with every entry busy it waits. -/
def execContextFill (d : Fin 2) (s : State) : Host.Outcome State Fault Refusal :=
  match (s.ctxd.get d).fillq with
  | [] => .next s
  | c :: rest =>
    if ¬ s.flag 0 F.ctx_ctl_en then .next s
    else
      let pop (s : State) : State := s.updCtx d fun x => { x with fillq := rest }
      if (s.cached d c).isSome then .next (pop s)
      else
        match s.freeEntry d with
        | some i => .next ((pop s).fillAt d c i)
        | none =>
          match s.ctxVictim d with
          | none => .next s
          | some e =>
            let again := s.pending? d e.ctx
            let s := (pop s).evictCtx d e
            let s := if again then s.joinFill d e.ctx else s
            .next (s.fillAt d c e.idx)

/-- A clock of a die in which the head of its fill queue waits with every entry busy (R264, R281). -/
def State.fillWaitClock (s : State) (d : Nat) : State :=
  match (s.ctxd.get d).fillq with
  | [] => s
  | c :: _ =>
    if s.flag 0 F.ctx_ctl_en ∧ (s.cached d c).isNone ∧ (s.freeEntry d).isNone ∧ (s.ctxVictim d).isNone then s.tally 0 R.ctx_t_wait d
    else s

/-- A write of `ctx.refresh` (R263, R278). -/
def State.onRefresh (s : State) (c : Nat) : State := (s.joinFill 0 c).joinFill 1 c

/-- Every idle entry of a die is evicted; a context with pending items joins the fill queue (R263, R278). -/
def State.dropIdle (s : State) (d : Nat) : State :=
  ((s.ctxd.get d).cache.filter fun e => !s.ctxBusy d e.ctx).foldl
    (fun s e =>
      let again := s.pending? d e.ctx
      let s := s.evictCtx d e
      if again then s.joinFill d e.ctx else s) s

/-- A write of 1 to `ctx.ctl.drop` (R278). -/
def State.onCtxDrop (s : State) : State := (s.dropIdle 0).dropIdle 1

/-- A write of `ctx.base` (R277): discarded with event 0x5012 while an entry is cached. -/
def State.onCtxBase (s : State) (v : Nat) : State :=
  let n0 := (s.ctxd.get 0).cache.length
  let n1 := (s.ctxd.get 1).cache.length
  if n0 + n1 ≠ 0 then s.raise 0 0x02 0x5012 (n0 + n1 * 256) else s.setReg 0 R.ctx_base v

/-- QUOTA_PERIOD_END (R268): the epoch increments, every cached counter restarts from 0, and a first refusal is reported again. -/
def execQuotaPeriodEnd (s : State) : Host.Outcome State Fault Refusal :=
  let restart (s : State) (d : Nat) : State :=
    s.updCtx d fun x => { x with cache := x.cache.map (fun e => { e with quota := 0 }), qSeen := [] }
  .next (restart (restart { s with epoch := (s.epoch + 1) % 2 ^ 32 } 0) 1)

end Sys2Proof.Machine
end

