-- ==== Sys2Proof/Machine/Translate.lean ====
section
/-! DEFINITION. Address translation: the walk and its checks, the translation caches, faults and invalidation (R270 to R276,
R282 to R284). -/

namespace Sys2Proof.Machine

/-! ## Page tables (R270, R271, R273) -/

/-- The bits of a leaf's offset at a level (R270). -/
def leafBits (level : Nat) : Nat := if level = 0 then 39 else if level = 1 then 30 else 21

/-- The level of a leaf by its offset bits. -/
def leafLevel (size : Nat) : Nat := if size = 39 then 0 else if size = 30 then 1 else 2

/-- The index of a VA at a level (R270). -/
def vaIndex (level va : Nat) : Nat := bits va (leafBits level) 9

/-- A translation fault: code, level and subcause (R273). -/
structure XFault where
  code : Nat
  level : Nat
  sub : Nat
deriving DecidableEq, Repr

/-- One step of a walk on the entry read at a level: a fault, the next table, or a leaf (R273 steps 4 to 6). -/
inductive WalkStep where
  | fault (f : XFault)
  | table (t : Nat)
  | leaf
deriving DecidableEq, Repr

/-- The entry `pte` read at `level` (R271, R273). -/
def walkStep (level pte : Nat) : WalkStep :=
  let addr := bits pte 12 40 * 4096
  if ¬ bit pte 0 then .fault ⟨0x5001, level, 0⟩
  else if bits pte 60 4 ≠ 0 ∨ bits pte 4 8 ≠ 0 then .fault ⟨0x5001, level, 1⟩
  else if ¬ bit pte 1 then (if level = 2 then .fault ⟨0x5001, level, 2⟩ else .table addr)
  else if addr % 2 ^ leafBits level ≠ 0 then .fault ⟨0x5001, level, 3⟩
  else .leaf

/-- The address of a table is in memory (R273 step 2); `level` is that of the entry last read. -/
def tableFault (t level : Nat) : Option XFault :=
  if isDevice t then some ⟨0x5004, level, 0⟩ else if isMemory t then none else some ⟨0x5003, level, 0⟩

/-- Steps 7 and 8 of R273 on a leaf: the physical address, or a fault. -/
def leafAccess (size pte va : Nat) (ty : AccTy) : Except XFault Nat :=
  let level := leafLevel size
  let pa := bits pte 12 40 * 4096 / 2 ^ size * 2 ^ size + va % 2 ^ size
  if isDevice pa then .error ⟨0x5004, level, 1⟩
  else if ¬ isMemory pa then .error ⟨0x5003, level, 1⟩
  else if ty = .write ∧ ¬ bit pte 2 then .error ⟨0x5005, level, 0⟩
  else if ty = .fetch ∧ ¬ bit pte 3 then .error ⟨0x5005, level, 1⟩
  else .ok pa

/-! ## Translation caches (R275) -/

/-- Whether a cached leaf covers a VA of a context. -/
def TlbEntry.covers (e : TlbEntry) (c va : Nat) : Bool := e.ctx = c && e.va / 2 ^ e.size = va / 2 ^ e.size

/-- The set of the die TLB that a leaf of a size selects (R275). -/
def dieSet (size c va : Nat) : Nat := bits va size 8 ^^^ (c % 256)

/-- A leaf enters the die TLB: the least recently used of 8 ways leaves. -/
def dieInsert (e : TlbEntry) (l : List TlbEntry) : List TlbEntry :=
  let l := l.filter fun x => x ≠ e
  let same (x : TlbEntry) : Bool := dieSet x.size x.ctx x.va = dieSet e.size e.ctx e.va
  let set := l.filter same
  let l := if set.length < 8 then l else
    match set.getLast? with
    | some v => l.filter fun x => x ≠ v
    | none => l
  e :: l

/-- A leaf enters a region's Dealer TLB of 64 entries. -/
def State.rtlbInsert (s : State) (d i : Nat) (e : TlbEntry) : State :=
  s.updCtx d fun x =>
    let l := ((assocGet i x.rtlb).getD []).filter fun y => y ≠ e
    { x with rtlb := assocPut i ((e :: l).take 64) x.rtlb }

/-- A table entry enters the die's walk cache of 256 entries. -/
def State.wcacheInsert (s : State) (d : Nat) (e : WalkEntry) : State :=
  s.updCtx d fun x => { x with wcache := (e :: x.wcache.filter fun y => y ≠ e).take 256 }

/-- The VA bits that select the entry of a level in a walk. -/
def walkKey (level va : Nat) : Nat := va / 2 ^ leafBits level

/-- Where a walk begins: at the table that the deepest cached table entry names, or at the root. -/
def State.walkStart (s : State) (d c va : Nat) : Nat × Nat :=
  let hit (l : Nat) := (s.ctxd.get d).wcache.find? fun e => e.ctx = c ∧ e.level = l ∧ e.key = walkKey l va
  match hit 1 with
  | some e => (bits e.pte 12 40 * 4096, 2)
  | none =>
    match hit 0 with
    | some e => (bits e.pte 12 40 * 4096, 1)
    | none => (s.ctxField c 0x18 8, 0)

/-- One table read of a walk (R273 step 3): a poisoned one faults, by subcause 0 when the array holds a fresh error. -/
def State.tableRead (s : State) (d t level va : Nat) (ecc : Ecc) : State × Except XFault Nat :=
  let a := t + 8 * vaIndex level va
  let stored := s.poisoned (a / 64)
  let r := s.read d a 8 [ecc]
  let s := r.st.tally d R.mmu_t_walk
  if r.poison then (s, .error ⟨0x5002, level, if s.bad (a / 64) ∧ ¬ stored then 0 else 1⟩) else (s, .ok (leNat r.data))

/-- A walk from table `t` at `level` (R273): the leaf with its size, or a fault. -/
def State.walkFrom : Nat → State → Nat → Nat → Nat → Nat → Nat → Nat → State × Except XFault TlbEntry
  | 0, s, _, _, _, _, level, _ => (s, .error ⟨0x5001, level, 2⟩)
  | fuel + 1, s, d, c, va, t, level, last =>
    match tableFault t last with
    | some f => (s, .error f)
    | none =>
      let r := s.tableRead d t level va .clean
      match r.2 with
      | .error f => (r.1, .error f)
      | .ok pte =>
        match walkStep level pte with
        | .fault f => (r.1, .error f)
        | .leaf => (r.1, .ok ⟨c, va / 2 ^ leafBits level * 2 ^ leafBits level, leafBits level, pte⟩)
        | .table u =>
          State.walkFrom fuel (r.1.wcacheInsert d ⟨c, level, walkKey level va, pte⟩) d c va u (level + 1) level

/-- A full walk for a VA of context `c` on die `d` (R273, R275). -/
def State.walk (s : State) (d c va : Nat) : State × Except XFault TlbEntry :=
  let root := s.ctxField c 0x18 8
  let st := s.walkStart d c va
  if st.2 = 0 ∧ (root % 4096 ≠ 0 ∨ root ≥ 2 ^ 52) then (s, .error ⟨0x5001, 0, 4⟩)
  else s.walkFrom 3 d c va st.1 st.2 (st.2 - 1)

/-- The leaf of region `i`'s Dealer TLB that covers a VA (R275). -/
def State.nearLeaf (s : State) (d : Nat) (i : Option Nat) (c va : Nat) : Option TlbEntry :=
  i.bind fun i => ((assocGet i (s.ctxd.get d).rtlb).getD []).find? fun e => e.covers c va

/-- The leaf for a VA: from region `i`'s Dealer TLB when a Dealer asks, from the die TLB, or by a walk (R275). -/
def State.lookup (s : State) (d : Nat) (i : Option Nat) (c va : Nat) : State × Except XFault TlbEntry :=
  match s.nearLeaf d i c va with
  | some e => (s, .ok e)
  | none =>
    match (s.ctxd.get d).dtlb.find? fun (e : TlbEntry) => e.covers c va with
    | some e => (s.tally d R.mmu_t_dhit, .ok e)
    | none => (s.tally d R.mmu_t_dmiss).walk d c va

/-- A leaf that has served an access is the most recent of the caches that the access asked: the Dealer TLB, and the die TLB unless the
Dealer TLB had it (R275). -/
def State.keepLeaf (s : State) (d : Nat) (i : Option Nat) (c va : Nat) (e : TlbEntry) : State :=
  let s := if (s.nearLeaf d i c va).isSome then s else s.updCtx d fun x => { x with dtlb := dieInsert e x.dtlb }
  match i with
  | some i => s.rtlbInsert d i e
  | none => s

/-- The code of an access type in a fault's detail (R274). -/
def AccTy.code : AccTy → Nat
  | .read => 0 | .write => 1 | .fetch => 2

/-- The detail of a translation fault (R274). -/
def xfaultDetail (va : Nat) (ty : AccTy) (agent i : Nat) (f : XFault) : Nat :=
  ty.code * 2 ^ 62 + f.level * 2 ^ 60 + f.sub * 2 ^ 56 + agent * 2 ^ 52 + i * 2 ^ 48 + va % 2 ^ 48

/-- A translation fault is counted, recorded and reported with its detail (R274); region `i` is die-local. -/
def State.xfault (s : State) (d c va : Nat) (ty : AccTy) (agent i : Nat) (f : XFault) : State :=
  let det := xfaultDetail va ty agent i f
  let s := s.count32 d F.mmu_fcnt_count
  let s := if s.flag d F.mmu_ff_valid then s
    else (s.setReg d R.mmu_ff (2 ^ 63 + f.code * 2 ^ 32 + c)).setReg d R.mmu_ff_det det
  s.raise d 0x03 f.code det { ctx := c, region := i, fault := true }

/-- A fault of an item: its code and detail. -/
structure FaultInfo where
  code : Nat
  det : Nat
deriving DecidableEq, Repr

/-- What a translation gives: the physical address, or the fault, already reported; a faulting access fills no cache (R275). -/
def State.translate (s : State) (d : Nat) (i : Option Nat) (c va : Nat) (ty : AccTy) (agent : Nat) :
    State × Except FaultInfo Nat :=
  let r := s.lookup d i c va
  let res : Except XFault (Nat × TlbEntry) := match r.2 with
    | .error f => .error f
    | .ok e => (leafAccess e.size e.pte va ty).map fun pa => (pa, e)
  match res with
  | .ok x => (r.1.keepLeaf d i c va x.2, .ok x.1)
  | .error f => (r.1.xfault d c va ty agent (i.getD 0) f, .error ⟨f.code, xfaultDetail va ty agent (i.getD 0) f⟩)

/-- The pieces of a VA range within 2 MiB pages, translated one by one; the first fault ends it. -/
def State.translateRange (s : State) (d : Nat) (i : Option Nat) (c va n : Nat) (ty : AccTy) (agent : Nat) :
    State × Except FaultInfo (List (Nat × Nat)) :=
  (blocks 0x200000 va n).foldl
    (fun r b => match r.2 with
      | .error e => (r.1, .error e)
      | .ok l =>
        let x := r.1.translate d i c (b.1 % 2 ^ 48) ty agent
        match x.2 with
        | .error e => (x.1, .error e)
        | .ok pa => (x.1, .ok (l ++ [(pa, b.2)])))
    (s, .ok [])

/-! ## Walks that accesses wait for (R273, R275) -/

/-- A walk starts for an access that missed: the root is checked, and the table to read is known (R273 steps 1, 2). -/
def State.newWalk (s : State) (d c : Nat) (w : WalkWaiter) : Walk :=
  let st := s.walkStart d c w.va
  ⟨c, w.va, st.1, st.2, st.2 - 1, true, [w]⟩

/-- TRANSLATION_MISS (R273, R275): an access that no translation cache serves joins the walk of its page, starts one, or waits
while 8 walks run. -/
def execTranslationMiss (d : Fin 2) (c : Fin 4096) (w : WalkWaiter) (s : State) : Host.Outcome State Fault Refusal :=
  let x := s.ctxd.get d
  if x.dtlb.any fun e => e.covers c w.va then .next s
  else
    let s := s.tally d R.mmu_t_dmiss
    match indexWhere (fun k => k.ctx = c.val ∧ k.va / 0x200000 = w.va / 0x200000) x.walks with
    | some n =>
      .next (s.updCtx d fun y => { y with walks := listMod y.walks n fun k => { k with waiters := k.waiters ++ [w] } })
    | none =>
      if 8 ≤ x.walks.length then .next (s.updCtx d fun y => { y with walkWait := y.walkWait ++ [(c.val, w)] })
      else .next (s.updCtx d fun y => { y with walks := y.walks ++ [s.newWalk d c w] })

/-- What the next table read of a walk gives. -/
inductive WalkOut where
  | more (w : Walk)
  | fault (f : XFault)
  | leaf (e : TlbEntry)
deriving DecidableEq, Repr

/-- The next table read of a walk returns (R273); table entries enter the walk cache, and the leaf the caches of the accesses that it
allows, unless an invalidation forbids it (R275, R276). -/
def State.walkReturn (s : State) (d : Nat) (w : Walk) (ecc : Ecc) : State × WalkOut :=
  let root := s.ctxField w.ctx 0x18 8
  if w.level = 0 ∧ (root % 4096 ≠ 0 ∨ root ≥ 2 ^ 52) then (s, .fault ⟨0x5001, 0, 4⟩)
  else
    match tableFault w.table w.lastLevel with
    | some f => (s, .fault f)
    | none =>
      let r := s.tableRead d w.table w.level w.va ecc
      match r.2 with
      | .error f => (r.1, .fault f)
      | .ok pte =>
        match walkStep w.level pte with
        | .fault f => (r.1, .fault f)
        | .table u =>
          let s := if w.fill then r.1.wcacheInsert d ⟨w.ctx, w.level, walkKey w.level w.va, pte⟩ else r.1
          (s, .more { w with table := u, level := w.level + 1, lastLevel := w.level })
        | .leaf =>
          let e : TlbEntry := ⟨w.ctx, w.va / 2 ^ leafBits w.level * 2 ^ leafBits w.level, leafBits w.level, pte⟩
          let served := if w.fill then w.waiters.filter fun k => (leafAccess e.size e.pte k.va k.ty).toOption.isSome else []
          let s := if served.isEmpty then r.1 else r.1.updCtx d fun x => { x with dtlb := dieInsert e x.dtlb }
          let s := served.foldl (fun s k => if k.agent = 4 then s else s.rtlbInsert d k.region e) s
          (s, .leaf e)

/-- A finished walk leaves its place, which the oldest waiting miss takes (R275). -/
def State.walkEnd (s : State) (d n : Nat) : State :=
  let s := s.updCtx d fun x => { x with walks := x.walks.eraseIdx n }
  match (s.ctxd.get d).walkWait with
  | [] => s
  | (c, w) :: r => s.updCtx d fun x => { x with walkWait := r, walks := x.walks ++ [s.newWalk d c w] }

/-! ## Invalidation (R276) -/

/-- Whether an invalidation's scope covers a leaf. -/
def InvReq.covers (q : InvReq) (e : TlbEntry) : Bool :=
  let lo := bits q.inv 21 27 * 0x200000
  let hi := lo + (q.len % 2 ^ 27 + 1) * 0x200000
  match bits q.inv 60 2 with
  | 0 => true
  | 1 => e.ctx = bits q.inv 48 12
  | _ => e.ctx = bits q.inv 48 12 && e.va < hi && lo < e.va + 2 ^ e.size

/-- Whether an invalidation concerns a context. -/
def InvReq.ofCtx (q : InvReq) (c : Nat) : Bool := bits q.inv 60 2 = 0 || c = bits q.inv 48 12

/-- An invalidation starts: matching entries and program-buffer lines are dropped, and walks in flight fill no cache. -/
def State.invStart (s : State) (d : Nat) (q : InvReq) : State :=
  let s := s.updCtx d fun x =>
    { x with
      dtlb := x.dtlb.filter fun e => !q.covers e
      rtlb := x.rtlb.map fun t => (t.1, t.2.filter fun e => !q.covers e)
      wcache := x.wcache.filter fun e => !q.ofCtx e.ctx
      walks := x.walks.map fun w => { w with fill := false }
      inv := some q }
  let s := (List.range 8).foldl
    (fun s i => s.updRg (8 * d + i) fun g => { g with pbuf := g.pbuf.filter fun l => !q.ofCtx l.ctx }) s
  s.setFld d F.mmu_inv_busy 1

/-- A write of `mmu.inv` with go = 1 (R276, R282), its fields already stored: it starts, or is held behind a running one. -/
def State.onInv (s : State) (d : Nat) : State :=
  let q : InvReq := ⟨s.reg d R.mmu_inv, s.reg d R.mmu_inv_len⟩
  if (s.ctxd.get d).inv.isSome then s.updCtx d fun x => { x with invHeld := some q } else s.invStart d q

/-- MMU_INV_DONE (R276): the drops are done and the walks that were in flight have completed; busy clears, and a held
invalidation starts. -/
def execMmuInvDone (d : Fin 2) (s : State) : Host.Outcome State Fault Refusal :=
  let x := s.ctxd.get d
  if x.inv.isNone ∨ x.walks.any fun w => !w.fill then .next s
  else
    let s := (s.updCtx d fun y => { y with inv := none, invHeld := none }).setFld d F.mmu_inv_busy 0
    let s := s.tally d R.mmu_t_inv
    .next (match x.invHeld with
      | none => s
      | some q => s.invStart d q)

end Sys2Proof.Machine
end

