-- ==== Sys2Proof/Machine/Tiles.lean ====
section
/-! DEFINITION. Tensor descriptors and tiles: fields, legality, extents, element places, masks and dealing (R143 to R150, R153,
R154), the fault of an item (R157), and marked bytes as DMAs and engines move them (R180). -/

namespace Sys2Proof.Machine

/-! ## Scalar registers and the fault of an item -/

/-- Scalar register `n` of a slot; sr0 reads zero (R131). -/
def Slot.sreg (k : Slot) (n : Nat) : Nat := if n = 0 then 0 else (assocGet n k.sr).getD 0

/-- Write scalar register `n`, modulo 2^64; writes to sr0 are discarded (R131). -/
def Slot.setSreg (k : Slot) (n v : Nat) : Slot :=
  if n = 0 then k
  else { k with sr := if v % 2 ^ 64 = 0 then assocDel n k.sr else assocPut n (v % 2 ^ 64) k.sr }

/-- The first-fault registers of a die's Dealers take a fault while they hold none (R171). -/
def State.dealerFirst (s : State) (r k code va det : Nat) : State :=
  let d := dieOfRegion r
  if s.flag d F.dlr_ff_id_valid then s
  else
    let id := 2 ^ 63 + r % 8 * 2 ^ 32 + k * 2 ^ 30 + (s.slot r k).ctx * 2 ^ 16 + code
    ((s.setReg d R.dlr_ff_id id).setReg d R.dlr_ff_pc (va % 2 ^ 48)).setReg d R.dlr_ff_det det

/-- The item of slot `k` of region `r` faults (R157): it stops decoding, its first code is kept, the event is raised unless
the translation unit or the collective engine has raised it, the first fault is recorded, and the context is halted in the region. -/
def State.itemFault (s : State) (r k va : Nat) (f : FaultInfo) : State :=
  let d := dieOfRegion r
  let x := s.slot r k
  if x.st = .idle then s
  else
    let s := s.updSlot r k fun y =>
      { y with
        st := .completing
        wait := .none
        hand := none
        code := if y.code = 0 then f.code else y.code }
    let s := if f.code / 4096 ≠ 4 then s
      else s.raise d 0x04 f.code f.det { ctx := x.ctx, region := r % 8, fault := true }
    let s := s.dealerFirst r k f.code va f.det
    let s := s.orFld d F.dlr_fault_hit (2 ^ (r % 8))
    s.setDoorbell d { s.doorbell d x.ctx (r % 8) with halt := true }

/-! ## Descriptors (R143 to R146) -/

/-- Bits of an element as an address unit: a byte for elements of 6 and 4 bits (R146). -/
def Fmt.unitBytes (f : Fmt) : Nat := (f.ebits + 7) / 8

/-- The descriptor that 128 bytes hold, whatever their legality; none for a reserved format. -/
def Desc.ofBytes (b : List Byte) : Option Desc :=
  let ctl := leAt b 0x08 4
  let four (off n : Nat) : List Nat := (List.range 4).map fun i => leAt b (off + n * i) n
  let rte := four 0x48 1
  let csel := four 0x4C 1
  match Fmt.ofCode (bits ctl 28 4) with
  | none => none
  | some f => some {
      base := leAt b 0 8
      fmt := f
      cluster := bits ctl 26 2 = 1
      rank := bits ctl 24 2
      mxdim := bits ctl 22 2
      dg := bit ctl 21
      nsplit := bits ctl 8 8
      stream := leAt b 0x0C 4
      pext := four 0x10 4
      stride := 0 :: (List.range 3).map fun i => leAt b (0x28 + 8 * i) 8
      tsz := four 0x40 2
      rteEn := rte.map fun x => bit x 7
      rteReg := rte.map fun x => x % 32
      cselEn := csel.map fun x => bit x 7
      cselReg := csel.map fun x => x % 32
      gorg := four 0x50 4
      gext := four 0x60 4
      sbase := leAt b 0x70 8
      sstride := leAt b 0x78 4 }

/-- A number of a dimension list. -/
def dim (l : List Nat) (i : Nat) : Nat := l.getD i 0

/-- A flag of a dimension list. -/
def dimB (l : List Bool) (i : Nat) : Bool := l.getD i false

/-- Whether the reserved fields of a descriptor are zero and its encodings not reserved (R143, R146). -/
def descClean (b : List Byte) : Bool :=
  let ctl := leAt b 0x08 4
  bits (leAt b 0 8) 48 16 = 0 && bits ctl 26 2 < 2 && bits ctl 16 5 = 0 && bits ctl 0 8 = 0 && leAt b 0x20 8 = 0 &&
    (List.range 3).all (fun i => bits (leAt b (0x28 + 8 * i) 8) 48 16 = 0) &&
    (List.range 4).all (fun i => bits (leAt b (0x48 + i) 1) 5 2 = 0 && bits (leAt b (0x4C + i) 1) 5 2 = 0) &&
    leAt b 0x7C 4 = 0

/-- The checks of R146 on the fields of a descriptor. -/
def Desc.legal (x : Desc) : Bool :=
  let dims := List.range 4
  !(x.fmt = .int32 && !x.cluster) &&
    dims.all (fun i => dim x.tsz i ≠ 0 && dim x.tsz i ≤ dim x.pext i && dim x.gorg i + dim x.pext i ≤ dim x.gext i) &&
    (!x.fmt.isMx || dim x.tsz x.mxdim % 32 = 0) &&
    dim x.tsz 0 * x.fmt.ebits % 8 = 0 &&
    dims.all (fun i => i ≤ x.rank || (dim x.pext i = 1 && dim x.tsz i = 1 && !dimB x.rteEn i && !dimB x.cselEn i &&
      dim x.gorg i = 0 && dim x.gext i = 1)) &&
    x.base % (if x.cluster then 64 else x.fmt.unitBytes) = 0

/-- The check of LDD (R146): the descriptor, or none when it is illegal. -/
def checkDesc (b : List Byte) : Option Desc :=
  match Desc.ofBytes b with
  | some x => if descClean b && x.legal then some x else none
  | none => none

/-! ## Extents and tiles (R147, R148, R150, R153, R154) -/

/-- The valid extent of dimension `i` at a use (R147). -/
def Desc.extent (x : Desc) (k : Slot) (i : Nat) : Nat :=
  if dimB x.rteEn i then k.sreg (dim x.rteReg i) % 2 ^ 32 else dim x.pext i

/-- The tile coordinate of dimension `i` at a use (R143). -/
def Desc.coord (x : Desc) (k : Slot) (i : Nat) : Nat :=
  if dimB x.cselEn i then k.sreg (dim x.cselReg i) % 2 ^ 32 else 0

/-- The tile that a descriptor names at a use. -/
def Desc.tile (x : Desc) (k : Slot) : Tile :=
  ⟨x, (List.range 4).map (x.coord k), (List.range 4).map (x.extent k)⟩

/-- First element of the tile in dimension `i`. -/
def Tile.start (x : Tile) (i : Nat) : Nat := dim x.t i * dim x.desc.tsz i

/-- A tile that lies wholly beyond a valid extent is skipped (R148). -/
def Tile.beyond (x : Tile) : Bool := (List.range 4).any fun i => dim x.v i ≤ x.start i

/-- The check of R150 on the tile of descriptor slot `ds`: the fault when a run-time extent exceeds the planned buffer. -/
def Tile.overflow (x : Tile) (ds : Nat) : Option FaultInfo :=
  match (List.range 4).find? fun i =>
      dimB x.desc.rteEn i && dim x.desc.pext i < min (x.start i + dim x.desc.tsz i) (dim x.v i) with
  | some i => some ⟨0x4007, dim x.t i * 2 ^ 32 + i * 64 + ds⟩
  | none => none

/-- The number of planned tiles in dimension `i`. -/
def Desc.planned (x : Desc) (i : Nat) : Nat := cdiv (dim x.pext i) (dim x.tsz i)

/-- The number L of a tile by which it is dealt (R153). -/
def Tile.dealNo (x : Tile) : Nat :=
  let p := x.desc.planned
  dim x.t 0 + p 0 * (dim x.t 1 + p 1 * (dim x.t 2 + p 2 * dim x.t 3))

/-- The mask over dimension `i` under a predicate (R154). -/
def Tile.mask (x : Tile) (i pred : Nat) : Nat :=
  sumNat ((List.range 32).map fun a =>
    if a < dim x.desc.tsz i ∧ x.start i + a < dim x.v i ∧ bit pred a then 2 ^ a else 0)

/-- The number of elements in the tile's valid part along dimension `i`. -/
def Tile.valid (x : Tile) (i : Nat) : Nat := min (dim x.desc.tsz i) (dim x.v i - x.start i)

/-! ## Places of elements and scales (R144) -/

/-- The place of element (c0, c1, c2, c3) of a tile, in bits from address 0 of its space. -/
def Tile.elemBit (x : Tile) (c : List Nat) : Nat :=
  let p (i : Nat) : Nat := if x.desc.cluster then dim c i else x.start i + dim c i
  8 * (x.desc.base + p 1 * dim x.desc.stride 1 + p 2 * dim x.desc.stride 2 + p 3 * dim x.desc.stride 3)
    + p 0 * x.desc.fmt.ebits

/-- The byte address of the scale of the block that holds an element. -/
def Tile.scaleAddr (x : Tile) (c : List Nat) : Nat :=
  let p (i : Nat) : Nat := if x.desc.cluster then dim c i else x.start i + dim c i
  let y (i : Nat) : Nat := if i = x.desc.mxdim then p i / 32 else p i
  let ext (i : Nat) : Nat := if x.desc.cluster then dim x.desc.tsz i else dim x.desc.pext i
  let n (i : Nat) : Nat := if i = x.desc.mxdim then cdiv (ext i) 32 else ext i
  x.desc.sbase + y 0 + x.desc.sstride * (y 1 + n 1 * (y 2 + n 2 * y 3))

/-- The global index of an element, for random bits (R144, R38). -/
def Tile.index (x : Tile) (c : List Nat) : Nat :=
  let q (i : Nat) : Nat := dim x.desc.gorg i + x.start i + dim c i
  let e := dim x.desc.gext
  q 0 + e 0 * (q 1 + e 1 * (q 2 + e 2 * q 3))

/-! ## Packed elements (R6, R61) -/

/-- The `n` elements of `w` bits that bytes hold, the first at bit `o` of the first byte. -/
def elemsAt (w o : Nat) (bs : List Byte) (n : Nat) : List Nat :=
  if o = 0 ∧ w % 8 = 0 then ((pieces (w / 8) bs).take n).map leNat
  else (List.range n).map fun i => bits (leAt bs ((o + w * i) / 8) 5) ((o + w * i) % 8) w

/-- Elements of `w` bits packed least significant first; the last byte is filled with zero bits. -/
def packElems (w : Nat) (l : List Nat) : List Byte :=
  if w % 8 = 0 then (l.map (leBytes (w / 8))).flatten
  else
    ((pieces 8 l).map fun p =>
      leBytes ((p.length * w + 7) / 8) ((p.zipIdx.map fun x => (x.1 % 2 ^ w) <<< (w * x.2)).foldl (· + ·) 0)).flatten

/-! ## Bytes with their poison marks -/

/-- A byte as a unit moves it, with the poison mark of its granule (R180). -/
abbrev PByte := Byte × Bool

/-- The bytes and marks of a range, read by an agent of die `d`; `ecc` are the errors that its granules meet. -/
def State.readMarked (s : State) (d a n : Nat) (ecc : EccList := []) : State × List PByte :=
  (blocks 256 a n).foldl
    (fun r b =>
      let x := r.1.readWeight d b.1 b.2 (ecc.drop (b.1 / 64 - a / 64))
      (x.st, r.2 ++ x.data.zipIdx.map fun y => (y.1, bit x.mask (chunkOf (b.1 + y.2))))) (s, [])

/-- The chunks of the 256-byte block at `b` that hold a poisoned byte of a write `l` at `a`. -/
def poisonedChunks (a : Nat) (l : List PByte) (b : Nat) : Nat :=
  (blocks 64 b (min (256 - b % 256) (a + l.length - b))).foldl
    (fun m x => if ((l.drop (x.1 - a)).take x.2).any (·.2) then m ||| 2 ^ chunkOf x.1 else m) 0

/-- Write bytes, each 64-byte granule with the mark of its bytes. -/
def State.writeMarked (s : State) (d a : Nat) (l : List PByte) (org : Origin) (own : Option Nat) : State :=
  s.writeBody d a (l.map (·.1)) (poisonedChunks a l) org own

/-- The bytes and marks of pieces of the physical map, in order. -/
def State.readPieces (s : State) (d : Nat) (l : List (Nat × Nat)) (ecc : EccList := []) : State × List PByte :=
  (l.foldl (fun (r : (State × List PByte) × EccList) p =>
    let x := r.1.1.readMarked d p.1 p.2 r.2
    ((x.1, r.1.2 ++ x.2), r.2.drop ((p.1 + p.2 + 63) / 64 - p.1 / 64))) ((s.carveNote d l, []), ecc)).1

/-- Whether an access to pieces of the physical map must wait. -/
def State.piecesStall (s : State) (d : Nat) (l : List (Nat × Nat)) (w : Bool) (own : Option Nat := none) : Bool :=
  l.any fun p => s.stalls d p.1 p.2 w own

/-- Whether an access of region `r` to `n` bytes at a VA of context `c` must wait for its target; one whose translation faults does
not. -/
def State.vaStalls (s : State) (r c va n : Nat) (ty : AccTy) (agent : Nat) : Bool :=
  match (s.translateRange (dieOfRegion r) (some (r % 8)) c va n ty agent).2 with
  | .error _ => false
  | .ok l => s.piecesStall (dieOfRegion r) l (ty = .write)

/-- Write bytes over pieces of the physical map, in order. -/
def State.writePieces (s : State) (d : Nat) (l : List (Nat × Nat)) (data : List PByte) (org : Origin)
    (own : Option Nat) : State :=
  (l.foldl (fun r p => (r.1.writeMarked d p.1 (r.2.take p.2) org own, r.2.drop p.2)) (s.writeNote d l org, data)).1

/-! ## The words of hands -/

/-- The bytes of cluster SRAM, 4 MiB (R62). -/
def clusterBytes : Nat := 0x400000

/-- Class of a Spemir word (R134). -/
def wordClass (w : Nat) : Nat := bits w 124 4

/-- Whether a word of a hand is an MMA of the given `out` without bat (R65). -/
def isMmaOut (w out : Nat) : Bool := wordClass w = 2 && !bit w 107 && bits w 110 2 = out

/-- Whether a word of a hand is a thin-matrix request (R65). -/
def isThin (w : Nat) : Bool := wordClass w = 2 && bit w 107

end Sys2Proof.Machine
end

