-- ==== Sys2Proof/Machine/Hands.lean ====
section
/-! DEFINITION. What a running hand shares with its cluster's engines: its words, its writes in issue order (R109), its digest
(R490), the K-split partials it sends (R67), and how a fault stops it (R80, R116, R155, R682). -/

namespace Sys2Proof.Machine

/-! ## The running hand -/

/-- Change the hand that runs in cluster `c`. -/
def State.updHand (s : State) (c : Nat) (f : Hand → Hand) : State :=
  s.updCl c fun x => { x with run := x.run.map f }

/-- Change word `i` of the running hand of cluster `c`. -/
def State.updWord (s : State) (c i : Nat) (f : HandWord → HandWord) : State :=
  s.updHand c fun h => { h with words := listMod h.words i f }

/-- Word `i` of the running hand has made progress `p`. -/
def State.setWord (s : State) (c i : Nat) (p : WordSt) : State := s.updWord c i fun w => { w with st := p }

/-- A hand that a fault has stopped starts and writes nothing more (R80, R155). -/
def Hand.stopped (h : Hand) : Bool := h.poison || h.fault

/-- The next word of the running hand in order (R155); none before the chain set is loaded (R99, R163) or after a stop. -/
def Cluster.nextWord (x : Cluster) : Option (Hand × Nat × HandWord) :=
  match x.run with
  | none => none
  | some h =>
    if !x.loaded || h.stopped then none
    else
      match indexWhere (fun w => w.st = .waiting) h.words with
      | none => none
      | some i => (h.words[i]?).map fun w => (h, i, w)

/-- Whether every word before `i` that satisfies `p` has completed. -/
def Hand.doneBefore (h : Hand) (i : Nat) (p : HandWord → Bool) : Bool :=
  (h.words.take i).all fun w => w.st = .done || !p w

/-- Whether a word moves data into cluster SRAM: LOAD or COPYIN (R155). -/
def isLoadWord (w : Nat) : Bool := wordClass w = 4 && bits w 122 2 % 2 = 0

/-- The row mask that a word uses (R63, R113, R154). -/
def Hand.rowMask (h : Hand) (w : Nat) : Nat := if bit w 109 ∧ ¬ isThin w then h.rmask else max32

/-- The column mask that an MMA uses. -/
def Hand.colMask (h : Hand) (w : Nat) : Nat := if bit w 109 then h.cmask else max32

/-! ## Writes of a hand -/

/-- A twin hand's digest takes a write of bytes at `x` of a space whose 16-byte blocks are numbered from `hi` (R490). -/
def State.hashWrite (s : State) (c hi x : Nat) (bs : List Byte) : State :=
  s.updHand c fun h =>
    if h.twin then
      let t := handTerms h.dkey hi x bs
      { h with digest := h.digest ^^^ t.1, nblk := h.nblk + t.2 }
    else h

/-- The bytes of `bs` at `o` that no later-issued word has written, as single runs (R109). -/
def keepRuns (later : List (Nat × Nat)) (o : Nat) (bs : List Byte) : List (Nat × List Byte) :=
  let hit (x : Nat) : Bool := later.any fun p => p.1 ≤ x && x < p.1 + p.2
  if later.isEmpty then [(o, bs)]
  else (bs.zipIdx.filter fun b => !hit (o + b.2)).map fun b => (o + b.2, [b.1])

/-- Word `i` of the running hand writes bytes at offset `o` of its cluster's SRAM; bytes that a later-issued word has already
written keep that word's value (R109). -/
def State.handWrite (s : State) (c i o : Nat) (bs : List Byte) : State :=
  let x := s.cl c
  let later := (x.written.filter fun w => i < w.1).map fun w => (w.2.1, w.2.2)
  let s := (keepRuns later o bs).foldl (fun s p => s.writeRaw (dieOfCluster c) (clusterBase c + p.1) p.2 false .unit (some c)) s
  let s := s.updCl c fun x => { x with written := (i, o, bs.length) :: x.written }
  s.hashWrite c (2 ^ 127) (c % 8 * clusterBytes + o) bs

/-! ## K-split partials (R47, R67) -/

/-- Whether a group of partials belongs to an output tile of a context. -/
def KSplit.ofTile (k : KSplit) (ctx : Nat) (x : Tile) : Bool :=
  k.ctx = ctx && k.tile.desc = x.desc && k.tile.t = x.t

/-- A partial arrives at the group of its output tile that still lacks its split, or opens one (assumption 31). -/
def ksplitAdd (ctx : Nat) (tile : Tile) (p : Partial) : List KSplit → List KSplit
  | [] => [⟨ctx, tile, [p]⟩]
  | k :: r =>
    if k.ofTile ctx tile && k.parts.all fun q => q.split ≠ p.split then { k with parts := k.parts ++ [p] } :: r
    else k :: ksplitAdd ctx tile p r

/-- The hand's word `w` sends its K-split partial (R67), with the chain field and masks of its word, which the combination takes from
the lowest split (DESIGN CHOICE, assumption 122). -/
def State.sendPartial (s : State) (h : Hand) (w : Nat) (b : Bank) (isInt poisoned : Bool) : State :=
  match h.od with
  | none => s
  | some x =>
    let p : Partial :=
      { split := bits w 84 8, vals := b.vals, marks := b.marks, poisoned, exact := bit w 108, isInt, chain := bits w 81 3,
        rmask := h.rowMask w, cmask := h.colMask w, region := h.region, slot := h.slot, item := h.item, va := h.va,
        seed := h.seed, step := h.step, lscale := h.lscale }
    { s with ksplits := ksplitAdd h.ctx x p s.ksplits }

/-- The partials that a stopped hand would still have sent are sent marked poisoned (R80). -/
def State.sendPoisoned (s : State) (h : Hand) : State :=
  (h.words.filter fun w => w.st ≠ .done && isMmaOut w.w 2).foldl
    (fun s w => s.sendPartial h w.w Bank.zero false true) s

/-- Whether partials or a combination of slot `k` of region `r` are on the way (R133 step 1). -/
def State.splitWork (s : State) (r k : Nat) : Bool :=
  let mine (p : Partial) : Bool := p.region = r && p.slot = k
  s.ksplits.any (fun x => x.parts.any mine) || s.clusters.any fun x => x.combs.any fun y => y.split.parts.any mine

/-! ## How a fault stops a hand -/

/-- The work of the running hand that has not reached memory is abandoned: MMAs in flight, drains, batches, runs and admitted
rows; a K-split combination for other hands goes on (R80). -/
def Cluster.abandon (x : Cluster) : Cluster :=
  { x with
    engines := x.engines.map fun e => { e with flight := [], drain := none }
    bqWait := [], bqOpen := [], bqClosed := [], vruns := []
    pipe := x.pipe.filter fun p => match p.src with
      | .comb _ => true
      | _ => false }

/-- Both banks of every engine are cleared to +0 (R80). -/
def Cluster.clearBanks (x : Cluster) : Cluster :=
  { x with engines := x.engines.map fun e => { e with bank0 := Bank.zero, bank1 := Bank.zero } }

/-- The clocks of an MMA that is abandoned join the tallies of engine `e` (R73, R74, R93): how many it had broadcast, frozen or
bubbled is a free value. -/
def State.abandonOne (s : State) (c e chunks : Nat) (bubble : Bool) : State :=
  let d := dieOfCluster c
  let n := c % 64 * 4 + e
  let s := s.drew.tally d R.mxe_t_busy n (s.free % (chunks + 1))
  s.drew.tally d (if bubble then R.mxe_t_bub else R.mxe_t_frz) n s.free

/-- The work of the running hand is abandoned, and the clocks that its MMAs have used are counted. -/
def State.abandonWork (s : State) (c : Nat) : State :=
  let x := s.cl c
  let bubble := x.run.any (·.bubble)
  let s := (List.range 4).foldl
    (fun s e => (x.engines.getD e Engine.reset).flight.foldl (fun s f => s.abandonOne c e (bits f.w 92 12 + 1) bubble) s) s
  s.updCl c Cluster.abandon

/-- The running hand of cluster `c` is poisoned: it stops, and completes POISON (R80, R116). -/
def State.poisonHand (s : State) (c : Nat) : State :=
  ((s.updHand c fun h => { h with poison := true }).abandonWork c).updCl c Cluster.clearBanks

/-- A fault of one of its words stops the running hand of cluster `c`: its item faults, and it completes FAULT (R155). -/
def State.faultHand (s : State) (c : Nat) (h : Hand) (va : Nat) (f : FaultInfo) : State :=
  ((s.itemFault h.region h.slot va f).updHand c fun h => { h with fault := true }).abandonWork c

/-- A matrix-engine fault of cluster `c` is recorded: the cluster's bit, the first-fault register and event 0x4020 (R80, R88,
R89, R96, R682). -/
def State.recordMatrix (s : State) (c cause engine offset : Nat) : State :=
  let d := dieOfCluster c
  let j := c % 64
  let ctx := match (s.cl c).run with
    | some h => h.ctx
    | none => 0
  let idle := (s.cl c).run.isNone
  let v := b2n idle * 2 ^ 62 + offset % 2 ^ 22 * 2 ^ 32 + engine % 4 * 2 ^ 30 + ctx * 2 ^ 16 + cause * 256 + j
  let s := s.orFld d F.mxe_poison_hit (2 ^ j)
  let s := s.recordFirst d F.mxe_poison_first_valid v
  s.raise d 0x05 0x4020 v { ctx, region := regionOf c % 8, cluster := c % 8 }

/-- A vector-engine fault of cluster `c` is recorded (R116, R120, R121, R126, R682); `comb` is the context of a K-split
combination whose rows the fault touches (R80). -/
def State.recordVector (s : State) (c cause offset chain : Nat) (run : Bool) (comb : Option Nat := none) : State :=
  let d := dieOfCluster c
  let j := c % 64
  let own := (s.cl c).run.map fun h => h.ctx
  let ctx := (comb.orElse fun _ => own).getD 0
  let idle := comb.isNone && own.isNone
  let v := b2n idle * 2 ^ 62 + offset % 2 ^ 22 * 2 ^ 32 + chain % 8 * 2 ^ 29 + b2n run * 2 ^ 28 + ctx * 2 ^ 16 +
    cause * 256 + j
  let s := s.orFld d F.vxe_poison_hit (2 ^ j)
  let s := s.recordFirst d F.vxe_poison_first_valid v
  s.raise d 0x06 0x4030 v { ctx, region := regionOf c % 8, cluster := c % 8 }

/-! ## Operand bytes -/

/-- What an engine finds in the granules of its cluster's SRAM that its operand bytes touch: the errors that the code cannot
correct are counted when they are no stored poison (R180), and the offsets of bad granules are given. -/
def State.badGranules (s : State) (c o n : Nat) : State × List Nat :=
  let a := clusterBase c
  let inside (k : Nat) : Bool := a + o < 64 * k + 64 && 64 * k < a + o + n
  let bad := (s.mem.poison ++ (s.mem.ue.filter fun k => !s.mem.poison.contains k)).filter inside
  (bad.foldl (fun s k => if s.poisoned k then s else s.sramUe (64 * k)) s, bad.map fun k => 64 * k - a)

/-- A line of cluster `c`'s SRAM is met with an uncorrectable error: it is counted, and stays so until it is rewritten (R80, R180,
R682). -/
def State.lineFails (s : State) (c o : Nat) : State := (s.sramDecode (clusterBase c + o) .uncorrectable).1

/-- The bytes of a cluster's SRAM at an offset. -/
def State.clusterPeek (s : State) (c o n : Nat) : List Byte := s.peek (clusterBase c + o) n

end Sys2Proof.Machine
end

