-- ==== Sys2Proof/Machine/Matrix.lean ====
section
/-! DEFINITION. Matrix engines: operand layout, MMA, result writes, K-split combination, thin-matrix batching and error containment
(R58 to R96, R682). -/

namespace Sys2Proof.Machine

/-! ## The MMA word (R65, R66) -/

/-- The element format of A. -/
def mmaA (w : Nat) : Fmt := (Fmt.ofCode (bits w 120 4)).getD .int32

/-- The element format of B. -/
def mmaB (w : Nat) : Fmt := (Fmt.ofCode (bits w 116 4)).getD .int32

/-- The number of chunks K ÷ d. -/
def mmaChunks (w : Nat) : Nat := bits w 92 12 + 1

/-- K of an MMA. -/
def mmaK (w : Nat) : Nat := mmaChunks w * (mmaA w).dot

/-- The rows of A that the word lays out: 32, or those of a thin-matrix request (R75). -/
def mmaRows (w : Nat) : Nat := if bit w 107 then bits w 76 5 + 1 else 32

/-- Bytes of an operand of `r` rows or columns (R66). -/
def operandBytes (f : Fmt) (r k : Nat) : Nat := r * k * f.ebits / 8

/-- Whether an extent that begins at a 64-byte unit fits the cluster SRAM. -/
def fitsCluster (base n : Nat) : Bool := 64 * base + n ≤ clusterBytes

/-- The legality of an MMA word with its bases at full width: A, B, A-scale, B-scale (R65, R66). -/
def mmaLegal (w a b sa sb : Nat) : Bool :=
  let out := bits w 110 2
  let bat := bit w 107
  let fa := mmaA w
  let fb := mmaB w
  let k := mmaK w
  bits w 120 4 < 11 && bits w 116 4 < 11 && fmtPair fa fb && out ≠ 3 && bits w 104 3 = 0 && bits w 72 4 = 0 &&
    (!bit w 108 || (out = 2 && !fa.isInt)) && (out = 2 || bits w 84 8 = 0) && (bat || bits w 76 5 = 0) &&
    (!bat || (bits w 114 2 = 0 && !bit w 113 && bit w 112 && out = 1)) &&
    k ≤ 4096 && (!fa.isMx || k % 32 = 0) &&
    fitsCluster a (operandBytes fa (mmaRows w) k) && fitsCluster b (operandBytes fb 32 k) &&
    (!fa.isMx || fitsCluster sa k) && (!fb.isMx || fitsCluster sb k)

/-! ## Operand feed (R60 to R63) -/

/-- The chunks of an operand laid out by R61 with `r` rows or columns: `[k][i][t]` element words. -/
def operandChunks (f : Fmt) (r chunks : Nat) (bs : List Byte) : List (List (List Nat)) :=
  pieces r (pieces f.dot (elemsAt f.ebits 0 bs (chunks * r * f.dot)))

/-- The stored scales of one row or column by K block: byte b × r + i. -/
def scalesOf (r i : Nat) (bs : List Byte) : List Nat := (pieces r bs).map fun p => (p.getD i 0).toNat

/-- The feed of row or column `i`: its chunks and its scales; a masked one is driven as +0 with scale 0x00 (R63). -/
structure Feed where
  chunks : List (List Nat)
  scales : List Nat
deriving DecidableEq, Repr

/-- The feed of row or column `i`. -/
def feed (cs : List (List (List Nat))) (r i : Nat) (sc : List Byte) (masked : Bool) : Feed :=
  let own := cs.map fun c => c.getD i []
  if masked then ⟨own.map fun c => c.map fun _ => 0, (scalesOf r i sc).map fun _ => 0⟩ else ⟨own, scalesOf r i sc⟩

/-- The chunk value t_k of a cell (R43, R45). -/
def cellChunk (fa fb : Fmt) (a b : Feed) (k : Nat) : Nat :=
  let ps := ((a.chunks.getD k []).zip (b.chunks.getD k [])).map fun p => (fa.decode p.1).mul (fb.decode p.2)
  let t := chunkValue ps
  if fa.isMx then
    let blk := k * fa.dot / 32
    chunkScale (a.scales.getD blk 0) (b.scales.getD blk 0) t
  else t

/-- T of a floating-point cell (R44). -/
def cellFloat (fa fb : Fmt) (n : Nat) (a b : Feed) : Nat := treeSum ((List.range n).map (cellChunk fa fb a b))

/-- T of an INT8 cell, exact (R46). -/
def cellInt (a b : Feed) : Int :=
  ((a.chunks.flatten.zip b.chunks.flatten).map fun p => signed 8 p.1 * signed 8 p.2).foldl (· + ·) 0

/-- T of the 1,024 cells in row-major order, each as a 32-bit word. -/
def mmaCells (fa fb : Fmt) (n : Nat) (rows cols : List Feed) : List Nat :=
  (rows.map fun a => cols.map fun b => if fa.isInt then wrap 32 (cellInt a b) else cellFloat fa fb n a b).flatten

/-- The rows or columns that a granule of an operand at byte offset `o` of it holds. -/
def granuleRows (f : Fmt) (r o : Nat) : List Nat :=
  let g := f.dot * f.ebits
  let lo := o * 8 / g
  let hi := (o * 8 + 511) / g
  ((List.range (hi - lo + 1)).map fun q => (lo + q) % r)

/-- The errors met by a feeder (R64, R80): granules with only masked rows are counted, the first other one poisons. -/
def State.feedErrors (s : State) (c base n : Nat) (rowsOf : Nat → List Nat) (mask : Nat) : State × Option Nat :=
  let x := s.badGranules c base n
  let live (o : Nat) : Bool := (rowsOf (if base ≤ o then o - base else 0)).any (bit mask)
  let s := x.1.count32 (dieOfCluster c) F.mxe_masked_err_count (x.2.filter fun o => !live o).length
  (s, x.2.find? live)

/-- What the feeders bring for an MMA: T, or the offset of the error that poisons the hand. -/
structure MmaFeed where
  t : List Nat
  err : Option Nat
deriving DecidableEq, Repr

/-- The operands of a request: the word, and where its rows of A stand in the array (from row `at_`). -/
structure RowSource where
  w : Nat
  at_ : Nat
deriving DecidableEq, Repr

/-- The feeds of the rows of A that one word lays out, under the row mask by array row. -/
def State.rowFeeds (s : State) (c : Nat) (q : RowSource) (rmask : Nat) : List Feed :=
  let fa := mmaA q.w
  let r := mmaRows q.w
  let k := mmaK q.w
  let cs := operandChunks fa r (mmaChunks q.w) (s.clusterPeek c (64 * bits q.w 48 16) (operandBytes fa r k))
  let sc := if fa.isMx then s.clusterPeek c (64 * bits q.w 16 16) (r * (k / 32)) else []
  (List.range r).map fun i => feed cs r i sc (!bit rmask (q.at_ + i))

/-- The feeds of the columns of B. -/
def State.colFeeds (s : State) (c w cmask : Nat) : List Feed :=
  let fb := mmaB w
  let k := mmaK w
  let cs := operandChunks fb 32 (mmaChunks w) (s.clusterPeek c (64 * bits w 32 16) (operandBytes fb 32 k))
  let sc := if fb.isMx then s.clusterPeek c (64 * bits w 0 16) k else []
  (List.range 32).map fun j => feed cs 32 j sc (!bit cmask j)

/-- A masked row of the array: +0 in every chunk with scale 0x00. -/
def blankFeed (w : Nat) : Feed :=
  ⟨List.replicate (mmaChunks w) (List.replicate (mmaA w).dot 0), List.replicate (mmaK w / 32) 0⟩

/-- The errors of the operands of one word's rows of A. -/
def State.rowErrors (s : State) (c : Nat) (q : RowSource) (rmask : Nat) : State × Option Nat :=
  let fa := mmaA q.w
  let r := mmaRows q.w
  let k := mmaK q.w
  let m := rmask >>> q.at_
  let x := s.feedErrors c (64 * bits q.w 48 16) (operandBytes fa r k) (granuleRows fa r) m
  let y := if fa.isMx then x.1.feedErrors c (64 * bits q.w 16 16) (r * (k / 32))
      (fun o => (List.range 64).map fun b => (o + b) % r) m
    else (x.1, none)
  (y.1, x.2.orElse fun _ => y.2)

/-- The errors of the operands of B. -/
def State.colErrors (s : State) (c w cmask : Nat) : State × Option Nat :=
  let fb := mmaB w
  let k := mmaK w
  let x := s.feedErrors c (64 * bits w 32 16) (operandBytes fb 32 k) (granuleRows fb 32) cmask
  let y := if fb.isMx then x.1.feedErrors c (64 * bits w 0 16) k (fun o => (List.range 64).map fun b => (o + b) % 32) cmask
    else (x.1, none)
  (y.1, x.2.orElse fun _ => y.2)

/-- An MMA's operands reach the cells (R60 to R64): the rows of several words, filled up to 32 with masked rows, against the
columns of the first. -/
def State.mmaFeed (s : State) (c : Nat) (qs : List RowSource) (rmask cmask : Nat) : State × MmaFeed :=
  match qs with
  | [] => (s, ⟨[], none⟩)
  | q :: _ =>
    let x := qs.foldl (fun r p =>
      let y := r.1.rowErrors c p rmask
      (y.1, r.2.orElse fun _ => y.2)) (s, (none : Option Nat))
    let y := x.1.colErrors c q.w cmask
    match x.2.orElse fun _ => y.2 with
    | some o => (y.1, ⟨[], some o⟩)
    | none =>
      let rows := (qs.map fun p => s.rowFeeds c p rmask).flatten
      let rows := rows ++ List.replicate (32 - rows.length) (blankFeed q.w)
      (y.1, ⟨mmaCells (mmaA q.w) (mmaB q.w) (mmaChunks q.w) rows (s.colFeeds c q.w cmask), none⟩)

/-! ## Issue and result (R67, R70 to R74) -/

/-- Change engine `e` of cluster `c`. -/
def State.updEng (s : State) (c e : Nat) (f : Engine → Engine) : State :=
  s.updCl c fun x => { x with engines := listMod x.engines e f }

/-- Engine `e` of cluster `c`. -/
def State.eng (s : State) (c e : Nat) : Engine := (s.cl c).engines.getD e Engine.reset

/-- A matrix feeder's error poisons the running hand (R80, cause 0x1). -/
def State.poisonFeed (s : State) (c o : Nat) : State := (s.recordMatrix c 1 0 o).poisonHand c

/-- Engine `e` accepts rows of the running hand's requests as one MMA, or its operands poison the hand. -/
def State.accept (s : State) (c e widx w bank : Nat) (rs : List RowSource) (rmask cmask : Nat)
    (reqs : List BatReq) : State :=
  let x := s.mmaFeed c rs rmask cmask
  match x.2.err with
  | some o => x.1.poisonFeed c o
  | none =>
    let f : Flight := ⟨widx, w, bank, x.2.t, (mmaA w).isInt, rmask, cmask, reqs, false⟩
    x.1.updEng c e fun g => { g with flight := g.flight ++ [f] }

/-- Whether the vector extents of a chain entry that a drain of the od tile could use fit the cluster SRAM (R102): none, or the
header word that fails. -/
def drainExtents (chain : List Nat) (od : Option Tile) (rows : Nat) : Option Nat :=
  let h0 := chain.getD 0 0
  let h1 := chain.getD 1 0
  let n := min (bits h0 60 4) 8
  let stages := (chain.drop 8).take n
  let uses (b : Nat) : Bool := stages.any fun x => bits x 48 2 = b
  let fmt := (Fmt.ofCode (bits h1 4 4)).getD .fp32
  let side := (Fmt.ofCode (bits h0 32 4)).getD .fp32
  let stride := match od with
    | some t => dim t.desc.stride 1
    | none => 0
  let last := (rows - 1) * stride
  if uses 2 ∧ ¬ fitsCluster (bits h0 16 16) 128 then some 0
  else if uses 3 ∧ ¬ fitsCluster (bits h0 0 16) 128 then some 0
  else if bit h0 53 ∧ clusterBytes < 64 * bits h1 48 16 + last + 4 * side.ebits then some 1
  else
    match od with
    | some t =>
      if clusterBytes < t.desc.base + last + 4 * fmt.ebits then some 1
      else if fmt.isMx ∧ (List.range rows).any (fun i => clusterBytes ≤ t.scaleAddr [0, i]) then some 1
      else none
    | none => none

/-- The 16 words of chain entry `n` of a chain table (R99, R100). -/
def chainEntry (table : List Nat) (n : Nat) : List Nat := (List.range 16).map fun i => table.getD (16 * n + i) 0

/-- Whether a drain that a word issues breaks R102 for its chain entry: the fault (0x4002). -/
def Cluster.drainFault (x : Cluster) (h : Hand) (w : Nat) : Option FaultInfo :=
  if bits w 110 2 = 1 then
    match drainExtents (chainEntry x.chain (bits w 81 3)) h.od (mmaRows w) with
    | some i => some ⟨0x4002, bits w 81 3 + i * 16⟩
    | none => none
  else none

/-- A direct MMA starts on engine `e` (R65, R69); its operands are read as it starts. -/
def State.startMma (s : State) (c e : Nat) (h : Hand) (i w : Nat) : State :=
  match (s.cl c).drainFault h w with
  | some f => s.faultHand c h h.va f
  | none =>
    let s := s.setWord c i .started
    s.accept c e i w (b2n (bit w 113)) [⟨w, 0⟩] (h.rowMask w) (h.colMask w) []

/-- MMA (R65, R70, R155): engine `e` of cluster `c` accepts the running hand's next word, when that is a direct MMA for it and
every earlier LOAD and COPYIN has completed. -/
def execMma (c : Fin 128) (e : Fin 4) (s : State) : Host.Outcome State Fault Refusal :=
  if s.tripped then .next s else
  match (s.cl c).nextWord with
  | some (h, i, w) =>
    if wordClass w.w = 2 ∧ ¬ bit w.w 107 ∧ bits w.w 114 2 = e.val ∧ h.doneBefore i (fun x => isLoadWord x.w) then
      .next (s.startMma c e h i w.w)
    else .next s
  | none => .next s

/-- The elements of a bank. -/
def Bank.full (b : Bank) : List Nat := if b.vals.isEmpty then List.replicate 1024 0 else b.vals

/-- C ← C + T over a bank (R44, R46). -/
def bankAdd (isInt zero : Bool) (b : Bank) (t : List Nat) : Bank :=
  let c := if zero then List.replicate 1024 0 else b.full
  let marks := if zero then [] else b.marks
  if isInt then
    let r := (c.zip t).map fun p => int32Acc (signed 32 p.1) (signed 32 p.2)
    ⟨r.map fun p => wrap 32 p.1, marks ++ (r.zipIdx.filter fun p => p.1.2 && !marks.contains p.2).map (·.2)⟩
  else ⟨(c.zip t).map fun p => f32Add p.1 p.2, marks⟩

/-- A bank of an engine. -/
def Engine.bank (g : Engine) (b : Nat) : Bank := if b = 0 then g.bank0 else g.bank1

/-- Set a bank of an engine. -/
def Engine.setBank (g : Engine) (b : Nat) (v : Bank) : Engine := if b = 0 then { g with bank0 := v } else { g with bank1 := v }

/-- Whether a final add waits: its bank is being drained, or its own drain finds the port in use (R71, R73). -/
def Engine.blocked (g : Engine) (f : Flight) : Bool :=
  match g.drain with
  | none => false
  | some d => d.bank = f.bank || bits f.w 110 2 = 1

/-- The result of flight `f` goes on: kept, drained, or sent as a partial (R65). -/
def State.routeResult (s : State) (c e : Nat) (h : Hand) (f : Flight) (b : Bank) : State :=
  match bits f.w 110 2 with
  | 1 => s.updEng c e fun g => { g with drain := some ⟨f.widx, f.bank, 0, bits f.w 81 3, f.isInt, f.rmask, f.cmask, f.reqs⟩ }
  | 2 => (s.sendPartial h f.w b f.isInt false).setWord c f.widx .done
  | _ => s.setWord c f.widx .done

/-- The oldest MMA `f` of engine `e` ends with `rest` still in flight: the row sums are added to the bank, the engine's clocks are
counted, and a drain or K-split send of the running hand `h` begins (R46, R70, R93). -/
def State.resultWritten (s : State) (c e frz bub : Nat) (h : Hand) (f : Flight) (rest : List Flight) : State :=
  let d := dieOfCluster c
  let n := c % 64 * 4 + e
  let b := bankAdd f.isInt (bit f.w 112) ((s.eng c e).bank f.bank) f.t
  let s := s.updEng c e fun g => { g.setBank f.bank b with flight := rest }
  let s := s.tally d R.mxe_t_busy n (mmaChunks f.w)
  let s := if frz = 0 ∨ h.bubble then s else s.tally d R.mxe_t_frz n frz
  let s := if bub = 0 ∨ ¬ h.bubble then s else s.tally d R.mxe_t_bub n bub
  (s.tally d R.mxe_t_mma n).routeResult c e h f b

/-- MMA_RESULT_WRITE (R44, R46, R70, R93): the oldest MMA of engine `e` ends. It held `frz` freeze clocks and `bub` bubble
clocks (R73, R74); the row sums are added to the bank, and a drain or K-split send begins. -/
def execMmaResultWrite (c : Fin 128) (e : Fin 4) (frz bub : Nat) (s : State) : Host.Outcome State Fault Refusal :=
  if s.tripped then .next s else
  match (s.eng c e).flight, (s.cl c).run with
  | f :: rest, some h => .next (if (s.eng c e).blocked f then s else s.resultWritten c e frz bub h f rest)
  | _, _ => .next s

/-- Event 0x4021, once for the MMA in the array of engine `e` of cluster `c` (R82, R96). -/
def State.freezeEvent (s : State) (c e : Nat) : State :=
  match (s.eng c e).flight with
  | f :: _ =>
    let d := dieOfCluster c
    if f.limEvent ∨ s.fld d F.mxe_freeze_lim_lim = 0 then s
    else
      let s := s.updEng c e fun g =>
        { g with flight := listMod g.flight 0 fun x => { x with limEvent := true } }
      s.raise d 0x05 0x4021 (c % 64 * 4 + e + bits f.w 64 8 * 256)
        { ctx := match (s.cl c).run with
            | some h => h.ctx
            | none => 0
          region := regionOf c % 8, cluster := c % 8 }
  | [] => s

/-- FREEZE_LIMIT_EXCEEDED (R82): an array has been frozen for more clocks than `mxe.freeze_lim`. -/
def execFreezeLimitExceeded (c : Fin 128) (e : Fin 4) (s : State) : Host.Outcome State Fault Refusal :=
  if s.tripped then .next s else
  .next (s.freezeEvent c e)

/-! ## K-split combination (R47, R67) -/

/-- The cluster that owns a tile's combination: L mod 8 of the region that deals split 0. -/
def KSplit.owner (k : KSplit) : Option Nat :=
  (k.parts.find? fun p => p.split = 0).map fun p => 8 * p.region + k.tile.dealNo % 8

/-- Whether every split of a tile has arrived. -/
def KSplit.complete (k : KSplit) : Bool := k.parts.length = k.tile.desc.nsplit + 1

/-- A partial goes before those of higher splits. -/
def splitInsert (p : Partial) : List Partial → List Partial
  | [] => [p]
  | q :: r => if p.split < q.split then p :: q :: r else q :: splitInsert p r

/-- The partials in ascending split order. -/
def KSplit.sorted (k : KSplit) : List Partial := k.parts.foldl (fun l p => splitInsert p l) []

/-- The combined element `x` of partials and whether it counts as saturated (R47). The C that T is added to is +0: a combination has no
bank of its own (DESIGN CHOICE, assumption 123). -/
def combineElem (isInt exact : Bool) (ps : List Partial) (x : Nat) : Nat × Bool :=
  let vs := ps.map fun p => p.vals.getD x 0
  if isInt then
    let v := vs.foldl (fun (a : Int) w => a + signed 32 w) 0
    let r := int32Acc 0 v
    (wrap 32 r.1, r.2 || ps.any fun p => p.marks.contains x)
  else if exact then (f32Add 0 (kittySum vs), false)
  else (f32Add 0 (treeSum vs), false)

/-- Counts of a completed drain or hand are added to an item's sums, saturating (R115, R133). -/
def Slot.addCounts (k : Slot) (nan inf ovf : Nat) : Slot :=
  { k with nan := k.nan + nan, inf := k.inf + inf, ovf := k.ovf + ovf }

/-- Combination `n`, whose partials are all present, is formed by cluster `c`, `p` the first of its partials `ps` in split order; a
poisoned partial makes it complete POISON (R47, R67, R80). Its drain is checked as it is issued: one whose extents R102 forbids faults the
item that deals split 0, and writes nothing. -/
def State.combineSplit (s : State) (c n : Nat) (k : KSplit) (p : Partial) (ps : List Partial) : State :=
  let s := { s with ksplits := s.ksplits.eraseIdx n }
  if ps.any (·.poisoned) then s.updSlot p.region p.slot fun y => { y with poisoned := y.poisoned + 1 }
  else match drainExtents (chainEntry (s.cl c).chain p.chain) (some k.tile) 32 with
  | some i => s.itemFault p.region p.slot p.va ⟨0x4002, p.chain + i * 16⟩
  | none =>
    let es := (List.range 1024).map (combineElem p.isInt p.exact ps)
    let marks := (es.zipIdx.filter fun e => e.1.2).map (·.2)
    let y : Combine := ⟨{ k with parts := ps }, es.map (·.1), marks, p.isInt, 0, 32, 0, 0, 0, false⟩
    s.updCl c fun x => { x with combs := x.combs ++ [y] }

/-- K_SPLIT_COMBINE (R47, R67): the tile whose partials have all arrived is combined in ascending split order by its owner; a
poisoned partial makes the combination complete POISON and write nothing (R80). -/
def execKSplitCombine (c : Fin 128) (s : State) : Host.Outcome State Fault Refusal :=
  if s.tripped then .next s else
  match indexWhere (fun k => k.complete && k.owner = some c.val) s.ksplits with
  | none => .next s
  | some n =>
    match s.ksplits[n]? with
    | none => .next s
    | some k =>
      match k.sorted with
      | [] => .next s
      | p :: _ => .next (s.combineSplit c n k p k.sorted)

/-! ## The thin-matrix batching queue (R75 to R78, R83) -/

/-- Rows of A in a batch. -/
def Batch.rows (b : Batch) : Nat := sumNat (b.reqs.map (·.rows))

/-- Whether two requests of a hand batch together (R75): formats, K, B, B scales, chain and msk equal; context and column mask
are those of the hand. -/
def sameKey (v w : Nat) : Bool :=
  bits v 116 8 = bits w 116 8 && bits v 92 12 = bits w 92 12 && bits v 32 16 = bits w 32 16 &&
    bits v 0 16 = bits w 0 16 && bits v 81 3 = bits w 81 3 && bit v 109 = bit w 109

/-- Whether a request belongs to a batch's key. -/
def Batch.takes (b : Batch) (w : Nat) : Bool := match b.reqs with
  | [] => false
  | r :: _ => sameKey r.w w

/-- Batch `n` closes (R76). -/
def Cluster.closeBatch (x : Cluster) (n : Nat) : Cluster :=
  match x.bqOpen[n]? with
  | some b => { x with bqOpen := x.bqOpen.eraseIdx n, bqClosed := x.bqClosed ++ [b] }
  | none => x

/-- Every open batch closes, in the order they opened. -/
def Cluster.closeAll (x : Cluster) : Cluster := { x with bqOpen := [], bqClosed := x.bqClosed ++ x.bqOpen }

/-- A batch that its opening or last request fills, or whose wait is 0, closes at once. -/
def Cluster.settleBatch (x : Cluster) (n : Nat) (now : Bool) : Cluster :=
  match x.bqOpen[n]? with
  | some b => if now || 32 ≤ b.rows then x.closeBatch n else x
  | none => x

/-- A request joins or opens a batch (R76 steps 1 to 3); none if it must wait. A wait of 0 (`now`) closes the batch that it opens; an
open batch keeps the expiry that it opened with (R83). -/
def Cluster.joinBatch (x : Cluster) (q : BatReq) (now : Bool) : Option Cluster :=
  let opened (y : Cluster) : Cluster := ({ y with bqOpen := y.bqOpen ++ [⟨[q], false⟩] } : Cluster).settleBatch y.bqOpen.length now
  match indexWhere (fun b => b.takes q.w) x.bqOpen with
  | some n =>
    match x.bqOpen[n]? with
    | some b =>
      if b.rows + q.rows ≤ 32 then
        some (({ x with bqOpen := listSet x.bqOpen n ⟨b.reqs ++ [q], false⟩ }).settleBatch n false)
      else some (opened (x.closeBatch n))
    | none => none
  | none => if x.bqOpen.length < 8 then some (opened x) else none

/-- Every waiting request is tried once, in their order (R76). -/
def Cluster.retryWait (now : Bool) (x : Cluster) : Cluster :=
  x.bqWait.foldl
    (fun y q => match y.joinBatch q now with
      | some z => z
      | none => { y with bqWait := y.bqWait ++ [q] }) { x with bqWait := [] }

/-- Requests that waited for a batch join as batches close (R76 step 4), until none can. -/
def Cluster.drainWait : Nat → Bool → Cluster → Cluster
  | 0, _, x => x
  | n + 1, now, x =>
    let y := x.retryWait now
    if y.bqWait.length = x.bqWait.length then y else y.drainWait n now

/-- Whether batches close as they open: wait = 0, or the queue is disabled (R76, R83). -/
def State.batchNow (s : State) (c : Nat) : Bool :=
  s.fld (dieOfCluster c) F.mxe_bq_ctl_wait (c % 64) = 0

/-- Change the batches of a cluster; requests that wait then join where they can. -/
def State.updBatches (s : State) (c : Nat) (f : Cluster → Cluster) : State :=
  let now := s.batchNow c
  s.updCl c fun x => (f x).drainWait 64 now

/-- A request that runs on its own as a direct MMA with its unfilled rows masked (R83). Its word names no engine and bank of its own: it
takes those of a batch, behind the batches that have closed (DESIGN CHOICE, assumption 126). -/
def State.thinDirect (s : State) (c : Nat) (q : BatReq) : State :=
  s.updCl c fun x => { x with bqClosed := x.bqClosed ++ [⟨[q], true⟩] }

/-- Requests of a cluster that count towards the 64 of its queue (R76): those that wait and those in open batches (DESIGN CHOICE,
assumption 125). -/
def Cluster.queued (x : Cluster) : Nat := x.bqWait.length + sumNat (x.bqOpen.map fun b => b.reqs.length)

/-- THIN_REQUEST (R76, R83): the running hand's next word, a request with bat = 1, reaches the batching queue. -/
def execThinRequest (c : Fin 128) (s : State) : Host.Outcome State Fault Refusal :=
  if s.tripped then .next s else
  match (s.cl c).nextWord with
  | some (h, i, w) =>
    let x := s.cl c
    if ¬ isThin w.w ∨ ¬ h.doneBefore i (fun x => isLoadWord x.w) ∨ 64 ≤ x.queued
    then .next s
    else
      match x.drainFault h w.w with
      | some f => .next (s.faultHand c h h.va f)
      | none =>
        let q : BatReq := ⟨i, w.w, mmaRows w.w⟩
        let s := s.setWord c i .started
        if s.flag (dieOfCluster c) F.mxe_bq_ctl_en (c % 64) then
          .next (s.updBatches c fun x => { x with bqWait := x.bqWait ++ [q] })
        else .next (s.thinDirect c q)
  | none => .next s

/-- BATCH_WAIT_EXPIRE (R76): the wait of open batch `n` ends, and it closes. -/
def execBatchWaitExpire (c : Fin 128) (n : Nat) (s : State) : Host.Outcome State Fault Refusal :=
  if s.tripped then .next s else
  if n < (s.cl c).bqOpen.length then .next (s.updBatches c fun x => x.closeBatch n) else .next s

/-- The bank of an engine that a batch takes: 0 if free, else 1 (R77). A bank is free when no MMA in flight and no drain uses it; a result
that out = 0b00 left in it does not keep it (DESIGN CHOICE, assumption 125). -/
def Engine.batchBank (g : Engine) : Option Nat :=
  let busy (b : Nat) : Bool := g.flight.any (fun f => f.bank = b) || g.drain.any fun d => d.bank = b
  if !busy 0 then some 0 else if !busy 1 then some 1 else none

/-- The rows of requests in the array, each from the row after the request before. -/
def placeRows : Nat → List BatReq → List RowSource
  | _, [] => []
  | n, q :: r => ⟨q.w, n⟩ :: placeRows (n + q.rows) r

/-- Batch `b`, the first of those closed with `rest` behind it, begins on engine `e` as one MMA for the running hand `h`; `q` is its
first request (R75, R77). -/
def State.runBatch (s : State) (c e : Nat) (h : Hand) (b : Batch) (q : BatReq) (rest : List Batch) : State :=
  let s := s.updCl c fun y => { y with bqClosed := rest }
  let d := dieOfCluster c
  let s := if b.direct then s else (s.tally d R.mxe_t_bat (c % 64)).tally d R.mxe_t_row (c % 64) b.rows
  s.accept c e q.widx q.w ((s.eng c e).batchBank.getD 0) (placeRows 0 b.reqs) (2 ^ b.rows - 1) (h.colMask q.w) b.reqs

/-- BATCH_RUN (R77): the first closed batch runs as one MMA with zero = 1 and out = 0b01 on the lowest free engine; rows beyond
its filled rows are masked, and only the column mask applies (R75). -/
def execBatchRun (c : Fin 128) (s : State) : Host.Outcome State Fault Refusal :=
  if s.tripped then .next s else
  let x := s.cl c
  match x.bqClosed, x.run with
  | b :: rest, some h =>
    match (List.range 4).find? fun e => (s.eng c e).batchBank.isSome with
    | none => .next s
    | some e =>
      match b.reqs with
      | [] => .next (s.updCl c fun y => { y with bqClosed := rest })
      | q :: _ => .next (s.runBatch c e h b q rest)
  | _, _ => .next s

/-! ## Faults of a cluster (R80, R682) -/

/-- HAND_POISON (R80): a fault of cause 0x1 to 0x3 in the matrix engines or their operands poisons the running hand. -/
def execHandPoison (c : Fin 128) (cause : Fin 3) (engine : Fin 4) (offset : Fin 0x400000) (s : State) :
    Host.Outcome State Fault Refusal :=
  match (s.cl c).run with
  | none => .next s
  | some _ =>
    let s := if cause = 0 then (s.lineFails c offset).recordMatrix c 1 0 offset else s.recordMatrix c (cause.val + 1) engine 0
    .next (s.poisonHand c)

/-- A fault of an idle cluster is recorded, and what it damaged put right (R682); the cells' stacks, lane registers and stage pipelines
hold nothing then (assumption 124). -/
def State.idleFault (s : State) (c : Nat) (f : IdleFault) : State :=
  match f with
  | .feederRead o => (s.lineFails c o).recordMatrix c 1 0 o
  | .bank e b => (s.recordMatrix c 2 e 0).updEng c e fun g => g.setBank b Bank.zero
  | .stack e => s.recordMatrix c 2 e 0
  | .wires e => s.recordMatrix c 3 e 0
  | .operandRead o => (s.lineFails c o).recordVector c 1 o 0 false
  | .lanes => s.recordVector c 2 0 0 false
  | .chainEntry n =>
    (s.recordVector c 3 0 n false).updCl c fun x =>
      { x with badChain := if x.badChain.contains n.val then x.badChain else n.val :: x.badChain }

/-- IDLE_CLUSTER_FAULT (R682): a fault detected while no hand runs is recorded with idle = 1; a bank with a parity error is
cleared to +0, and a chain-table entry is marked bad. -/
def execIdleClusterFault (c : Fin 128) (f : IdleFault) (s : State) : Host.Outcome State Fault Refusal :=
  if s.tripped then .next s else
  match (s.cl c).run with
  | some _ => .next s
  | none => .next (s.idleFault c f)

/-! ## Settings (R83) -/

/-- A write of `mxe.bq_ctl[j]` (R83, R92): with en going to 0 the open batches close in the order they opened, and waiting
requests run on their own. -/
def State.onBqCtl (s : State) (d j v : Nat) : State :=
  let was := s.flag d F.mxe_bq_ctl_en j
  let s := s.setReg d R.mxe_bq_ctl v j
  let c := 64 * d + j
  if was ∧ ¬ s.flag d F.mxe_bq_ctl_en j then
    s.updCl c fun x =>
      let y := x.closeAll
      { y with bqWait := [], bqClosed := y.bqClosed ++ x.bqWait.map fun q => (⟨[q], true⟩ : Batch) }
  else s

end Sys2Proof.Machine
end

