-- ==== Sys2Proof/Machine/Transcend.lean ====
section
/-! DEFINITION. The transcendental stages of R105: special results, and elsewhere a free value within 2 units in the last place of
the rounded value of the formula; where R105 states none, a free value that R29 and R30 allow. -/

namespace Sys2Proof.Machine

/-! ## Reference values

Fixed-point numbers with 256 fraction bits, which exceed FP32's precision by so much that the rounding of the reference is that
of the exact value. -/

/-- Fraction bits of the reference arithmetic. -/
def fxBits : Nat := 256

/-- 1 in fixed point. -/
def fxOne : Nat := 2 ^ fxBits

/-- The product of two fixed-point numbers. -/
def fxMul (a b : Nat) : Nat := (a * b) >>> fxBits

/-- The quotient of two fixed-point numbers; 0 for a divisor of 0. -/
def fxDiv (a b : Nat) : Nat := (a <<< fxBits) / b

/-- The magnitude of a value in fixed point. -/
def fxOf (m : Nat) (e : Int) : Nat :=
  let s := e + fxBits
  if 0 ≤ s then m <<< s.toNat else m >>> (-s).toNat

/-- `n` terms of the exponential series from term `k` on, `t` being the term before. -/
def fxSeries : Nat → Nat → Nat → Nat → Nat
  | 0, _, _, _ => 0
  | n + 1, k, y, t => let u := fxMul t y / k; u + fxSeries n (k + 1) y u

/-- `n` squarings. -/
def fxSquare : Nat → Nat → Nat
  | 0, a => a
  | n + 1, a => fxSquare n (fxMul a a)

/-- e^x for a fixed-point x ≥ 0 below 2^8. -/
def fxExp (x : Nat) : Nat := fxSquare 8 (fxOne + fxSeries 48 1 (x >>> 8) fxOne)

/-- e^v for a signed fixed-point exponent of magnitude at most 128. -/
def fxExpSigned (neg : Bool) (x : Nat) : Nat :=
  let y := fxExp (min x (128 * fxOne))
  if neg then fxDiv fxOne y else y

/-- 1 ÷ (1 + e^−v). -/
def fxSigm (neg : Bool) (x : Nat) : Nat := fxDiv fxOne (fxOne + fxExpSigned (!neg) x)

/-- The value of a quotient of fixed-point numbers. -/
def fxNum (neg : Bool) (a : Nat) : Num := .fin neg a (-(fxBits : Int))

/-- √a of a fixed-point number. -/
def fxSqrt (a : Nat) : Nat := Nat.sqrt (a <<< fxBits)

/-- The square root of m × 2^e, with 300 bits of fraction beyond an even exponent. -/
def rootOf (m : Nat) (e : Int) : Nat × Int :=
  let k : Nat := if e % 2 = 0 then 300 else 301
  (Nat.sqrt (m <<< (2 * k - (if e % 2 = 0 then 0 else 1))), (e + (if e % 2 = 0 then 0 else 1)) / 2 - k)

/-- The quotient 1 ÷ (m × 2^e) for m ≠ 0. -/
def recipOf (m : Nat) (e : Int) : Nat × Int := (2 ^ 900 / m, -e - 900)

/-- tanh of a signed fixed-point number, as a magnitude. -/
def fxTanh (x : Nat) : Nat :=
  let y := fxExp (min (2 * x) (128 * fxOne))
  fxDiv (y - fxOne) (y + fxOne)

/-- The argument of GELU's tanh, 0.79788456 × (A + 0.044715 × A³), as a magnitude. -/
def geluArg (a : Nat) : Nat :=
  let cube := fxMul (fxMul a a) a
  (a + cube * 44715 / 1000000) * 79788456 / 100000000

/-! ## Results -/

/-- The functions of R105. -/
inductive TransOp where
  | exp | tanh | sigm | gelu | silu | recip | rsqrt | rden
deriving DecidableEq, Repr

/-- The function's number for its free value. -/
def TransOp.code : TransOp → Nat
  | .exp => 0 | .tanh => 1 | .sigm => 2 | .gelu => 3 | .silu => 4 | .recip => 5 | .rsqrt => 6 | .rden => 7

/-- The exact value of the formula at a finite operand, to the precision of the reference; `c` is the constant of RDEN. -/
def TransOp.value (op : TransOp) (neg : Bool) (m : Nat) (e : Int) (c : Num) : Num :=
  let x := fxOf m e
  match op with
  | .exp => fxNum false (fxExpSigned neg x)
  | .tanh => fxNum neg (fxTanh x)
  | .sigm => fxNum false (fxSigm neg x)
  | .gelu => .fin neg (m * fxSigm neg (2 * geluArg (min x (64 * fxOne)))) (e - fxBits)
  | .silu => .fin neg (m * fxSigm neg x) (e - fxBits)
  | .recip => let r := recipOf m e; .fin neg r.1 r.2
  | .rsqrt =>
    let q := rootOf m e
    let r := recipOf q.1 q.2
    .fin false r.1 r.2
  | .rden =>
    let q := rootOf m e
    match (Num.fin false q.1 q.2).add c with
    | .fin n k f => if k = 0 then .inf n else let r := recipOf k f; .fin n r.1 r.2
    | _ => .nan

/-- A free FP32 result where R105 states none, since the exact value, `r` when rounded, is not finite and normal: a subnormal one is
not flushed to zero and keeps its sign (R29), and a NaN is the canonical one (R30). -/
def transFree (op : TransOp) (a r : Nat) : Nat :=
  let w := Config.transcendental op.code a
  if bits r 23 8 = 0 ∧ bits r 0 23 ≠ 0 then r / 2 ^ 31 * 2 ^ 31 + w % 0x7F7FFFFF + 1
  else if bits w 23 8 = 255 ∧ bits w 0 23 ≠ 0 then Fmt.fp32.canonNan
  else w % 2 ^ 32

/-- A result within 2 units in the last place of the rounded value `r`, which is finite and normal (R105). -/
def transNear (op : TransOp) (a r : Nat) : Nat :=
  let k := Config.transcendental op.code a % 5
  let mag := min (r % 2 ^ 31 + k - 2) 0x7F7FFFFF
  r / 2 ^ 31 * 2 ^ 31 + mag

/-- The result at a finite, non-special operand (R105); a quotient by a sum of exactly 0 is infinite, as IEEE 754 has it. -/
def transFinite (op : TransOp) (a : Nat) (c : Num) (key : Nat) : Nat :=
  match f32v a with
  | .fin n m e =>
    match op.value n m e c with
    | .inf i => if i then 0xFF800000 else 0x7F800000
    | v =>
      let r := f32 v
      let ex := bits r 23 8
      if 0 < ex ∧ ex < 255 then transNear op key r else transFree op key r
  | _ => Fmt.fp32.canonNan

/-- An FP32 infinity. -/
def f32Inf (neg : Bool) : Nat := if neg then 0xFF800000 else 0x7F800000

/-- An FP32 zero. -/
def f32Zero (neg : Bool) : Nat := if neg then 0x80000000 else 0

/-- 1.0 in FP32 with a sign. -/
def f32One (neg : Bool) : Nat := if neg then 0xBF800000 else 0x3F800000

/-- 1 ÷ x as IEEE 754 gives it for a value x. -/
def ieeeRecip : Num → Nat
  | .nan => Fmt.fp32.canonNan
  | .inf n => f32Zero n
  | .fin n m e => if m = 0 then f32Inf n else let r := recipOf m e; f32 (.fin n r.1 r.2)

/-- A transcendental stage on FP32 operand `a`; `c` is the constant of RDEN (R105). -/
def transcend (op : TransOp) (a c : Nat) : Nat :=
  let v := f32v a
  let key := a + (if op = .rden then c * 2 ^ 32 else 0)
  match v with
  | .nan => Fmt.fp32.canonNan
  | .inf n =>
    match op with
    | .exp => if n then f32Zero false else f32Inf false
    | .tanh => f32One n
    | .sigm => if n then f32Zero false else f32One false
    | .gelu | .silu => if n then f32Zero true else f32Inf false
    | .recip => f32Zero n
    | .rsqrt => if n then Fmt.fp32.canonNan else f32Zero false
    | .rden => if n then Fmt.fp32.canonNan else ieeeRecip ((Num.inf false).add (f32v c))
  | .fin n m _ =>
    match op with
    | .recip => if m = 0 then f32Inf n else transFinite op a .nan key
    | .rsqrt =>
      if m = 0 then f32Inf n else if n then Fmt.fp32.canonNan else transFinite op a .nan key
    | .rden =>
      if m = 0 then ieeeRecip (v.add (f32v c))
      else if n then Fmt.fp32.canonNan
      else match f32v c with
        | .fin _ _ _ => transFinite op a (f32v c) key
        | w => ieeeRecip w
    | _ => transFinite op a .nan key

end Sys2Proof.Machine
end

