-- ==== Sys2Proof/Machine/Vector.lean ====
section
/-! DEFINITION. Vector engines: the chain table, stages and conversions, drains, vector runs, masks and faults (R97 to R126). -/

namespace Sys2Proof.Machine

/-! ## Chain entries (R99 to R102) -/

/-- The number of stages of an entry. -/
def nstg (e : List Nat) : Nat := bits (e.getD 0 0) 60 4

/-- Whether an entry is packed BF16 work. -/
def packed (e : List Nat) : Bool := bit (e.getD 0 0) 59

/-- The number of input streams of a run. -/
def nin (e : List Nat) : Nat := bits (e.getD 0 0) 57 2 + 1

/-- The number of output streams of a run. -/
def nout (e : List Nat) : Nat := bits (e.getD 0 0) 55 2 + 1

/-- Output descriptor `o` of an entry. -/
def outDesc (e : List Nat) (o : Nat) : Nat := bits (e.getD 1 0) (12 * o) 12

/-- The format of output `o`. -/
def outFmt (e : List Nat) (o : Nat) : Fmt := (Fmt.ofCode (bits (outDesc e o) 4 4)).getD .fp32

/-- The stage words in use. -/
def stagesOf (e : List Nat) : List Nat := (e.drop 8).take (nstg e)

/-- Whether a conversion control holds no reserved value where stochastic rounding is accepted (R31). -/
def cvtLegal (c : Nat) : Bool := !bit c 3 && bits c 0 2 < 2

/-- Whether output descriptor `o` is legal (R100, R102). -/
def outLegal (e : List Nat) (o : Nat) : Bool :=
  let x := outDesc e o
  !bit x 11 && bits x 4 4 < 12 && cvtLegal (bits x 0 4) && (outFmt e o ≠ .int32 || nstg e = 0) &&
    !(packed e && (outFmt e o).isMx)

/-- Whether a stage word is legal (R101, R102). -/
def stageLegal (pk : Bool) (x : Nat) : Bool :=
  let op := bits x 59 5
  let aux := bits x 32 16
  let bsel := bits x 48 2
  op < 0x16 && (bsel = 0 || bits x 50 3 = 0) && (op = 0x13 || op = 0x14 || aux = 0) &&
    (op ≠ 0x12 || bits x 1 31 = 0) &&
    (op ≠ 0x13 || (bits aux 8 8 = 0 && bits aux 0 4 < 5 && cvtLegal (bits aux 4 4))) &&
    (!pk || ((op < 5 || (6 ≤ op && op < 10)) && bsel < 2))

/-- The first word of an entry that breaks R100 to R102: 0 to 7 for H0 to H7, 8 to 15 for S0 to S7. -/
def entryError (e : List Nat) : Option Nat :=
  let h (i : Nat) : Nat := e.getD i 0
  let sf := bits (h 0) 32 4
  if 8 < nstg e ∨ bits (h 0) 55 2 = 3 ∨ bits (h 0) 36 17 ≠ 0 ∨ (bit (h 0) 53 ∧ (11 ≤ sf ∨ (5 ≤ sf ∧ sf < 10))) then some 0
  else if bits (h 1) 36 12 ≠ 0 ∨ ¬ ((List.range (nout e)).all (outLegal e)) then some 1
  else if bits (h 3) 48 16 ≠ 0 then some 3
  else if bits (h 4) 16 16 ≠ 0 then some 4
  else
    match (List.range 3).find? fun i => h (5 + i) ≠ 0 with
    | some i => some (5 + i)
    | none => (indexWhere (fun x => !stageLegal (packed e) x) (stagesOf e)).map (8 + ·)

/-- The 128 words of a chain set of 1,024 bytes. -/
def chainWords (b : List Byte) : List Nat := (pieces 8 b).map leNat

/-- The fault of the first illegal entry of a chain set (R99, 0x4002). -/
def chainSetFault (t : List Nat) : Option FaultInfo :=
  match (List.range 8).find? fun n => (entryError (chainEntry t n)).isSome with
  | some n => some ⟨0x4002, n + (entryError (chainEntry t n)).getD 0 * 16⟩
  | none => none

/-! ## Stages (R101, R103, R105, R112) -/

/-- What the stages of one lane read beside its registers. -/
structure LaneEnv where
  pk : Bool
  col : Nat
  row : Nat
  lscale : Int
  seed : Nat
  step : Nat
  vstream : Nat
  index : Nat
deriving DecidableEq, Repr

/-- An FP32 word, or a BF16 word in packed work, as a value. -/
def laneValue (pk : Bool) (w : Nat) : Num := if pk then Fmt.bf16.decode w else f32v w

/-- A stage result as a word, rounded once (R103, R112). -/
def laneWord (pk : Bool) (v : Num) : Nat := if pk then (Fmt.bf16.encodeFloat true .rne v).w else f32 v

/-- IEEE 754 maximum (or minimum): NaN if either is NaN, +0 above −0 (R101). -/
def numMax (min : Bool) (a b : Num) : Num :=
  match a, b with
  | .nan, _ => .nan
  | _, .nan => .nan
  | _, _ =>
    let c := a.cmp b
    if c = 0 then (if a.neg = min then a else b) else if (c < 0) = min then a else b

/-- The function of a transcendental stage. -/
def transOf : Nat → Option TransOp
  | 0x0A => some .exp | 0x0B => some .tanh | 0x0C => some .sigm | 0x0D => some .gelu | 0x0E => some .silu
  | 0x0F => some .recip | 0x10 => some .rsqrt | 0x11 => some .rden | _ => none

/-- The exponent that LSCALE applies (R48, R101). -/
def lscaleOf (x : Nat) (env : LaneEnv) : Int := if bit x 0 then -env.lscale else env.lscale

/-- The result of one stage word on a lane's registers (R101). -/
def stageResult (env : LaneEnv) (x : Nat) (regs : List Nat) : Nat :=
  let op := bits x 59 5
  let aw := regs.getD (bits x 53 3) 0
  let imm := bits x 0 32
  let cw := if env.pk then laneWord true (f32v imm) else imm
  let bw := match bits x 48 2 with
    | 0 => regs.getD (bits x 50 3) 0
    | 1 => cw
    | 2 => env.col
    | _ => env.row
  let a := laneValue env.pk aw
  let b := laneValue env.pk bw
  let c := laneValue env.pk cw
  let out (v : Num) : Nat := laneWord env.pk v
  let rnd := randBits env.seed imm env.step .vector env.index
  match op with
  | 0x00 => aw
  | 0x01 => out (a.add b)
  | 0x02 => out (a.add b.negate)
  | 0x03 => out (a.mul b)
  | 0x04 => out ((a.mul c).add b)
  | 0x05 => out ((c.mul (f32v (f32 (b.add a.negate)))).add a)
  | 0x06 => out (numMax false a b)
  | 0x07 => out (numMax true a b)
  | 0x08 => out a.abs
  | 0x09 => out a.negate
  | 0x12 => out (a.scale (lscaleOf imm env))
  | 0x13 =>
    let aux := bits x 32 16
    match Fmt.ofCode (bits aux 0 4) with
    | some f =>
      let r := cvtRnd (bits aux 4 4) env.seed env.vstream env.step .vector env.index
      f32 (f.decode (f.encodeFloat (bit aux 6) r a).w)
    | none => aw
  | 0x14 => if rnd < bits x 32 16 then 0 else aw
  | 0x15 => f32 (.fin false rnd (-16))
  | _ =>
    match transOf op with
    | some t => transcend t aw imm
    | none => aw

/-- The registers of a lane after its stages, in order (R103). -/
def stagesRun (env : LaneEnv) : List Nat → List Nat → List Nat
  | [], regs => regs
  | x :: r, regs => stagesRun env r (listSet regs (bits x 56 3) (stageResult env x regs))

/-- The value that output `o` of a lane converts (R103, R104): the register's, or the exact product of a last LSCALE stage whose
result is out0's register. -/
def outValue (env : LaneEnv) (e : List Nat) (o : Nat) (regs : List Nat) : Num :=
  let st := stagesOf e
  let rsel := bits (outDesc e o) 8 3
  match st.getLast? with
  | some x =>
    if o = 0 ∧ bits x 59 5 = 0x12 ∧ bits x 56 3 = rsel then
      let before := stagesRun env st.dropLast regs
      (laneValue env.pk (before.getD (bits x 53 3) 0)).scale (lscaleOf (bits x 0 32) env)
    else laneValue env.pk ((stagesRun env st regs).getD rsel 0)
  | none => laneValue env.pk (regs.getD rsel 0)

/-! ## Output conversion (R31 to R36, R50, R104, R113) -/

/-- Conversion to INT32 (R104). -/
def encodeInt32 (rnd : Rnd) (v : Num) : Conv :=
  match v with
  | .nan => ⟨0, false⟩
  | .inf n => ⟨if n then 0x80000000 else 0x7FFFFFFF, false⟩
  | .fin n m e =>
    let k : Int := roundInt m e 0 rnd
    let i := if n then -k else k
    if i > 2147483647 then ⟨0x7FFFFFFF, true⟩ else if i < -2147483648 then ⟨0x80000000, true⟩ else ⟨wrap 32 i, false⟩

/-- Conversion to one element that shares no scale. -/
def encodeElem (f : Fmt) (cvt : Nat) (rnd : Rnd) (v : Num) : Conv :=
  match f with
  | .int8 => encodeInt8 rnd v
  | .int32 => encodeInt32 rnd v
  | _ => f.encodeFloat (bit cvt 2) rnd v

/-- One lane's value on its way out: whether it is masked, its saturation mark, the word itself where the output format is that
of the register (a copy, R30), and its random index. -/
structure OutLane where
  v : Num
  copy : Option Nat
  masked : Bool
  mark : Bool
  rnd : Rnd
deriving DecidableEq, Repr

/-- A converted row: element words, the block scale of an MX format, and the counts of R50. -/
structure OutRow where
  words : List Nat
  scale : Option Nat
  nan : Nat
  inf : Nat
  ovf : Nat
deriving DecidableEq, Repr

/-- Whether a value is NaN. -/
def Num.isNan : Num → Bool
  | .nan => true
  | _ => false

/-- Whether a value is an infinity. -/
def Num.isInf : Num → Bool
  | .inf _ => true
  | _ => false

/-- The conversion of a row to format `f` under `cvt`; a masked lane is written +0 and counts nowhere (R50, R104, R113). -/
def outRow (f : Fmt) (cvt : Nat) (l : List OutLane) : OutRow :=
  let vals := l.map fun x => if x.masked then Num.fin false 0 0 else x.v
  let blk := mxEncode f vals (l.map (·.rnd))
  let convs : List Conv :=
    if f.isMx then blk.elems
    else (l.zip vals).map fun p =>
      match p.1.copy with
      | some w => if p.1.masked then ⟨0, false⟩ else ⟨w, false⟩
      | none => encodeElem f cvt p.1.rnd p.2
  let live := (l.zip convs).filter fun p => !p.1.masked
  let plain := live.filter fun p => !p.1.mark
  { words := convs.map (·.w)
    scale := if f.isMx then some blk.scale else none
    nan := (plain.filter fun p => p.1.v.isNan).length
    inf := (plain.filter fun p => p.1.v.isInf).length
    ovf := (live.filter fun p => p.1.mark || p.2.ovf).length }

/-! ## Operands of a row -/

/-- An element of a stored format as an FP32 word: exact, and FP32 words keep their bits (R35, R106, R111). -/
def loadWord (f : Fmt) (scale w : Nat) : Nat :=
  match f with
  | .fp32 => w
  | _ => if f.isMx then f32 (mxDecode f scale w) else f32 (f.decode w)

/-- The errors in operand bytes of one element per lane at offset `o`: those of lanes outside `mask` are counted (R114), the first other
one is the offset that poisons (R116). -/
def State.laneErrors (s : State) (c o ebits lanes mask : Nat) : State × Option Nat :=
  let x := s.badGranules c o (lanes * ebits / 8)
  let live (g : Nat) : Bool := (List.range lanes).any fun l =>
    bit mask (l % 32) && o + l * ebits / 8 < g + 64 && g < o + ((l + 1) * ebits + 7) / 8
  let s := x.1.count32 (dieOfCluster c) F.vxe_masked_err_count (x.2.filter fun g => !live g).length
  (s, x.2.find? live)

/-- The words of one element per lane at offset `o`. -/
def State.laneWords (s : State) (c o : Nat) (f : Fmt) (lanes scale : Nat) : List Nat :=
  (elemsAt f.ebits 0 (s.clusterPeek c o (lanes * f.ebits / 8)) lanes).map (loadWord f scale)

/-- Whether stages of an entry take B from the column (2) or the row vector (3). -/
def usesVec (e : List Nat) (b : Nat) : Bool := (stagesOf e).any fun x => bits x 48 2 = b

/-- An operand of a row: where its elements lie, their format and number, the scale that they share, and the elements that some unmasked
lane uses (R114). -/
structure Operand where
  offset : Nat
  fmt : Fmt
  lanes : Nat
  scale : Nat
  used : Nat
deriving DecidableEq, Repr

/-- The errors of several operands, first one first. -/
def State.operandErrors (s : State) (c : Nat) : List Operand → State × Option Nat
  | [] => (s, none)
  | o :: r =>
    let x := s.laneErrors c o.offset o.fmt.ebits o.lanes o.used
    let y := State.operandErrors x.1 c r
    (y.1, x.2.orElse fun _ => y.2)

/-- The operands of the column and row vectors of an entry for row `i` (R101): `lanes` are the row's unmasked lanes, which share its
element of the row vector; `cols` those unmasked in some row, which share an element of the column vector (R114). -/
def vecOperands (e : List Nat) (i lanes cols : Nat) : List Operand :=
  let h0 := e.getD 0 0
  (if usesVec e 2 then [⟨64 * bits h0 16 16, .fp32, 32, 0, cols⟩] else []) ++
    (if usesVec e 3 then [⟨64 * bits h0 0 16 + 4 * (i % 32), .fp32, 1, 0, b2n (lanes ≠ 0)⟩] else [])

/-! ## Drain rows (R106, R107) -/

/-- Where a drain row belongs: its tile, its row in it, its chain, its unmasked lanes, the lanes unmasked in some row of the drain, and
the values that the Dealer latched. -/
structure DrainPlace where
  tile : Option Tile
  row : Nat
  chain : Nat
  lanes : Nat
  cols : Nat
  isInt : Bool
  lscale : Int
  seed : Nat
  step : Nat
deriving DecidableEq, Repr

/-- The offset of row `i` of a destination tile (R106, R144). -/
def rowOffset (t : Tile) (i : Nat) : Nat := t.elemBit [0, i] / 8

/-- The destination and side operands of a drain row (R106). -/
def drainOperands (s : State) (c : Nat) (e : List Nat) (p : DrainPlace) : List Operand :=
  let h0 := e.getD 0 0
  match p.tile with
  | none => []
  | some t =>
    let f := outFmt e 0
    let scale := if f.isMx then leNat (s.clusterPeek c (t.scaleAddr [0, p.row]) 1) else 0
    (if bit h0 54 then [⟨rowOffset t p.row, f, 32, scale, p.lanes⟩] else []) ++
      (if bit h0 53 then
        [⟨64 * bits (e.getD 1 0) 48 16 + p.row * dim t.desc.stride 1, (Fmt.ofCode (bits h0 32 4)).getD .fp32, 32, 0, p.lanes⟩]
       else [])

/-- The scale byte of a drain row that reads an MX destination: every lane of the row uses it (R106, R114). -/
def drainScale (e : List Nat) (p : DrainPlace) : List Operand :=
  match p.tile with
  | none => []
  | some t => if bit (e.getD 0 0) 54 ∧ (outFmt e 0).isMx then [⟨t.scaleAddr [0, p.row], .int8, 1, 0, b2n (p.lanes ≠ 0)⟩] else []

/-- The lanes of a drain row on their way out (R103, R104, R106): `acc` holds the raw accumulator words. -/
def drainLanes (s : State) (c : Nat) (e : List Nat) (p : DrainPlace) (acc : List Nat) (marks : List Bool) : List OutLane :=
  let h0 := e.getD 0 0
  let ops := drainOperands s c e p
  let words (o : Operand) : List Nat := s.laneWords c o.offset o.fmt o.lanes o.scale
  let r1 := if bit h0 54 then (ops.head?.map words).getD [] else []
  let r2 := if bit h0 53 then (ops.getLast?.map words).getD [] else []
  let col := if usesVec e 2 then s.laneWords c (64 * bits h0 16 16) .fp32 32 0 else []
  let row := if usesVec e 3 then (s.laneWords c (64 * bits h0 0 16 + 4 * (p.row % 32)) .fp32 1 0).headD 0 else 0
  let f := outFmt e 0
  let cvt := bits (outDesc e 0) 0 4
  (List.range 32).map fun j =>
    let a := acc.getD j 0
    let r0 := if p.isInt then f32 (Num.ofInt (signed 32 a)) else a
    let n := match p.tile with
      | some t => t.index [j, p.row]
      | none => 0
    let stream := match p.tile with
      | some t => t.desc.stream
      | none => 0
    let env : LaneEnv := ⟨false, col.getD j 0, row, p.lscale, p.seed, p.step, bits (e.getD 4 0) 32 32, n⟩
    let regs := [r0, r1.getD j 0, r2.getD j 0, 0, 0, 0, 0, 0]
    let masked := !bit p.lanes j
    let rnd := cvtRnd cvt p.seed stream p.step .drain n
    if nstg e = 0 then
      if p.isInt then ⟨Num.ofInt (signed 32 a), none, masked, marks.getD j false, rnd⟩
      else ⟨f32v a, if f = .fp32 then some a else none, masked, marks.getD j false, rnd⟩
    else
      let v := outValue env e 0 regs
      let lastScale : Bool := match (stagesOf e).getLast? with
        | some x => bits x 59 5 = 0x12 && bits x 56 3 = bits (outDesc e 0) 8 3
        | none => false
      let copy := if f = .fp32 ∧ ¬ lastScale then some ((stagesRun env (stagesOf e) regs).getD (bits (outDesc e 0) 8 3) 0) else none
      ⟨v, copy, masked, marks.getD j false, rnd⟩

/-- The admitted row of a drain: its bytes by offset and its counts. -/
def drainRow (s : State) (c : Nat) (e : List Nat) (p : DrainPlace) (acc : List Nat) (marks : List Bool) (src : RowSrc)
    (last : Bool) : PipeRow :=
  let f := outFmt e 0
  let o := outRow f (bits (outDesc e 0) 0 4) (drainLanes s c e p acc marks)
  let outs := match p.tile with
    | none => []
    | some t =>
      [(rowOffset t p.row, packElems f.ebits o.words)] ++ (match o.scale with
        | some x => [(t.scaleAddr [0, p.row], [BitVec.ofNat 8 x])]
        | none => [])
  ⟨src, outs, o.nan, o.inf, o.ovf, p.chain, last⟩

/-! ## Writes still to come (R109) -/

/-- Whether two ranges share a 128-byte line. -/
def sameLine (a n b m : Nat) : Bool := n ≠ 0 && m ≠ 0 && a / 128 ≤ (b + m - 1) / 128 && b / 128 ≤ (a + n - 1) / 128

/-- Lanes of a row: 64 in packed runs, else 32. -/
def laneCount (pk : Bool) : Nat := if pk then 64 else 32

/-- The place of row `q` of a stream of a run: base in 64-byte units, offset, format (R111). -/
def streamAt (e : List Nat) (base off q : Nat) (f : Fmt) : Nat :=
  (base + off) * 64 + q * (laneCount (packed e) * f.ebits / 8)

/-- The base of output stream `o`. -/
def outBase (e : List Nat) (o : Nat) : Nat := bits (e.getD 3 0) (16 * o) 16

/-- The base of input stream `i`. -/
def inBase (e : List Nat) (i : Nat) : Nat := bits (e.getD 2 0) (16 * i) 16

/-- The format code of input stream `i`. -/
def inCode (e : List Nat) (i : Nat) : Nat := bits (e.getD 4 0) (4 * i) 4

/-- The format of input stream `i`. -/
def inFmt (e : List Nat) (i : Nat) : Fmt := (Fmt.ofCode (inCode e i)).getD .fp32

/-- The ranges that a started word of the hand has still to write: rows of its drain or run that are not written. -/
def wordWrites (x : Cluster) (h : Hand) (w : HandWord) : List (Nat × Nat) :=
  if w.st ≠ .started then []
  else if isMmaOut w.w 1 || isThin w.w then
    match h.od with
    | none => []
    | some t =>
      let e := chainEntry x.chain (bits w.w 81 3)
      let f := outFmt e 0
      ((List.range (mmaRows w.w)).drop w.rows).map (fun i => (rowOffset t i, 4 * f.ebits)) ++
        (if f.isMx then ((List.range (mmaRows w.w)).drop w.rows).map fun i => (t.scaleAddr [0, i], 1) else [])
  else if wordClass w.w = 3 then
    let e := chainEntry x.chain (bits w.w 121 3)
    let rows := bits w.w 96 16 + 1
    (List.range (nout e)).map fun o =>
      let f := outFmt e o
      let b := streamAt e (outBase e o) (bits w.w 80 16) w.rows f
      (b, (rows - w.rows) * (laneCount (packed e) * f.ebits / 8))
  else []

/-- Whether operands of word `i` meet a line that earlier-issued work has still to write (R109). -/
def Cluster.pendingFor (x : Cluster) (i : Nat) (ops : List Operand) : Bool :=
  match x.run with
  | none => false
  | some h =>
    let writes := ((h.words.take i).map (wordWrites x h)).flatten
    ops.any fun o => writes.any fun w => sameLine o.offset (o.lanes * o.fmt.ebits / 8) w.1 w.2

/-! ## Admission (R107) -/

/-- A port's next row: its operands' place, its raw words and marks, what it is, and whether it ends its drain. -/
structure PortRow where
  place : DrainPlace
  acc : List Nat
  marks : List Bool
  src : RowSrc
  word : Option Nat
  last : Bool
deriving DecidableEq, Repr

/-- The request of a batch that holds row `n` of the array, and the row within it. -/
def batchRow : List BatReq → Nat → Option (BatReq × Nat)
  | [], _ => none
  | q :: r, n => if n < q.rows then some (q, n) else batchRow r (n - q.rows)

/-- The rows that a drain writes. -/
def Drain.total (d : Drain) : Nat := if d.reqs.isEmpty then 32 else sumNat (d.reqs.map (·.rows))

/-- Row `n` of 1,024 words. -/
def rowOf {α : Type} (n : Nat) (l : List α) : List α := (l.drop (32 * n)).take 32

/-- The row that engine `e` of a cluster offers at its port. A batched request's word has no field for a destination of its own: its rows
land in the hand's od tile, from row 0 for each request (DESIGN CHOICE, assumption 125). -/
def Cluster.offer (x : Cluster) (e : Nat) : Option PortRow :=
  let g := x.engines.getD e Engine.reset
  match g.drain, x.run with
  | some d, some h =>
    let b := g.bank d.bank
    let acc := rowOf d.row b.full
    let marks := (List.range 32).map fun j => d.isInt && b.marks.contains (32 * d.row + j)
    let cols := if d.reqs.isEmpty ∧ d.rmask % 2 ^ 32 = 0 then 0 else d.cmask
    let place (row lanes : Nat) : DrainPlace := ⟨h.od, row, d.chain, lanes, cols, d.isInt, h.lscale, h.seed, h.step⟩
    if d.reqs.isEmpty then
      let lanes := if bit d.rmask d.row then d.cmask else 0
      some ⟨place d.row lanes, acc, marks, .drain d.widx d.row, some d.widx, d.row = 31⟩
    else
      match batchRow d.reqs d.row with
      | some (q, i) => some ⟨place i d.cmask, acc, marks, .batch q.widx i, some q.widx, i + 1 = q.rows⟩
      | none => none
  | _, _ => none

/-- The row that a K-split combination offers at the combine input, port 4 (R106): its chain, masks, seed, step and loss scale are those
of the lowest split, whichever partial came first (DESIGN CHOICE, assumption 122). -/
def Cluster.offerComb (x : Cluster) : Option PortRow :=
  match x.combs with
  | [] => none
  | y :: _ =>
    match y.split.parts with
    | [] => none
    | p :: _ =>
      if 32 ≤ y.row then none
      else
        let lanes := if bit p.rmask y.row then p.cmask else 0
        let marks := (List.range 32).map fun j => y.marks.contains (32 * y.row + j)
        let cols := if p.rmask % 2 ^ 32 = 0 then 0 else p.cmask
        some ⟨⟨some y.split.tile, y.row, p.chain, lanes, cols, y.isInt, p.lscale, p.seed, p.step⟩,
          rowOf y.row y.vals, marks, .comb y.row, none, y.row = 31⟩

/-- The row offered at a port. -/
def Cluster.offerAt (x : Cluster) (p : Nat) : Option PortRow := if p = 4 then x.offerComb else x.offer p

/-- The operands of a port's row. -/
def State.rowOperands (s : State) (c : Nat) (r : PortRow) : List Operand :=
  let e := chainEntry (s.cl c).chain r.place.chain
  drainOperands s c e r.place ++ drainScale e r.place ++ vecOperands e r.place.row r.place.lanes r.place.cols

/-- Whether a port's row may be admitted: its operand lines await no write of earlier-issued work (R109). -/
def State.rowReady (s : State) (c : Nat) (r : PortRow) : Bool :=
  match r.word with
  | none => true
  | some i => !(s.cl c).pendingFor i (s.rowOperands c r)

/-- Stage-rows that a row costs (R107). -/
def rowCost (e : List Nat) : Nat := max 1 (nstg e)

/-- Whether the first vector run has a row that only the budget holds back (R107, R111): every drain row of earlier MMAs of the
hand has been admitted. -/
def Cluster.runWaits (x : Cluster) : Bool :=
  match x.vruns with
  | [] => false
  | v :: _ =>
    let early (w : Nat) : Bool := w < v.widx
    !(x.engines.any fun g => g.flight.any (fun f => early f.widx && bits f.w 110 2 = 1) ||
        (match g.drain with
         | some d => early d.widx || d.reqs.any fun q => early q.widx
         | none => false)) &&
      !((x.bqOpen ++ x.bqClosed).any fun b => b.reqs.any fun q => early q.widx) && !(x.bqWait.any fun q => early q.widx)

/-- A drain port moves on after its row has left (R72). -/
def State.advancePort (s : State) (c p : Nat) : State :=
  if p = 4 then s.updCl c fun x => { x with combs := listMod x.combs 0 fun y => { y with row := y.row + 1 } }
  else s.updEng c p fun g => { g with drain := match g.drain with
    | some d => if d.row + 1 < d.total then some { d with row := d.row + 1 } else none
    | none => none }

/-- A K-split combination that a fault touches completes POISON and writes no further row (R80). -/
def State.combFail (s : State) (c : Nat) : State :=
  match (s.cl c).combs with
  | [] => s
  | y :: rest =>
    let s := s.updCl c fun x => { x with
      combs := rest
      pipe := x.pipe.filter fun p => match p.src with
        | .comb _ => false
        | _ => true }
    match y.split.parts with
    | p :: _ => s.updSlot p.region p.slot fun k => { k with poisoned := k.poisoned + 1 }
    | [] => s

/-- A vector-engine fault of cause `cause` on a row poisons the running hand, or ends the combination it touches (R80, R116). -/
def State.vectorFault (s : State) (c cause offset chain : Nat) (run comb : Bool) : State :=
  if comb then
    match (s.cl c).combs with
    | y :: _ => (s.recordVector c cause offset chain run (some y.split.ctx)).combFail c
    | [] => s
  else (s.recordVector c cause offset chain run).poisonHand c

/-- The row offered at port `p` is admitted (R107): it takes its share of the budget, its operands are read, and it enters the
stages; an error in them poisons. -/
def State.admitRow (s : State) (c p : Nat) (r : PortRow) : State :=
  let e := chainEntry (s.cl c).chain r.place.chain
  let comb := p = 4
  if (s.cl c).badChain.contains r.place.chain then s.vectorFault c 3 0 r.place.chain false comb
  else
    let x := s.operandErrors c (s.rowOperands c r)
    match x.2 with
    | some o => x.1.vectorFault c 1 o r.place.chain false comb
    | none =>
      let row := drainRow x.1 c e r.place r.acc r.marks r.src r.last
      let s := (x.1.tally (dieOfCluster c) R.vxe_t_row (c % 64)).advancePort c p
      s.updCl c fun y =>
        { y with used := y.used + rowCost e, taken := y.taken ++ [p], pipe := y.pipe ++ [row] }

/-- The port that the rotation of cluster `c` admits next, and the row that it offers (R107). -/
def State.drainOffer (s : State) (c : Nat) : Option (Nat × PortRow) :=
  let x := s.cl c
  let order := (List.range 5).map fun k => (x.rot + k) % 5
  let ready (p : Nat) : Bool := !x.taken.contains p && (match x.offerAt p with
    | some r => s.rowReady c r
    | none => false)
  (order.find? ready).bind fun p => (x.offerAt p).map fun r => (p, r)

/-- The row `r` offered at port `p` is admitted within what is left of this clock's budget, or stops admission (R107). -/
def State.admitDrain (s : State) (c p : Nat) (r : PortRow) : State :=
  let x := s.cl c
  let cost := rowCost (chainEntry x.chain r.place.chain)
  if 8 < x.used + cost then s.updCl c fun y => { y with stop := true }
  else if x.runWaits ∧ 8 - x.res < x.used + cost then s
  else s.admitRow c p r

/-- DRAIN_ROW_ADMIT (R107, R109): the next port in the rotation whose row is offered and ready is admitted, if the budget left in
this clock covers it; otherwise admission stops for the clock. -/
def execDrainRowAdmit (c : Fin 128) (s : State) : Host.Outcome State Fault Refusal :=
  if s.tripped then .next s else
  if (s.cl c).stop then .next s
  else
    match s.drainOffer c with
    | none => .next s
    | some (p, r) => .next (s.admitDrain c p r)

/-! ## Vector runs (R110 to R113) -/

/-- Whether the streams of a run have formats that R111 and R112 allow and extents within the cluster SRAM (R102, R110). -/
def vrunFits (e : List Nat) (w : Nat) : Bool :=
  let off := bits w 80 16
  let rows := bits w 96 16 + 1
  let okFmt (n : Nat) : Bool := if packed e then n = 1 else n < 5 || n = 10
  let ends (b : Nat) (f : Fmt) : Bool := streamAt e b off rows f ≤ clusterBytes
  let h0 := e.getD 0 0
  (List.range (nin e)).all (fun i => okFmt (inCode e i) && ends (inBase e i) (inFmt e i)) &&
    (List.range (nout e)).all (fun o => okFmt (outFmt e o).code && ends (outBase e o) (outFmt e o)) &&
    (!usesVec e 2 || fitsCluster (bits h0 16 16) 128) && (!usesVec e 3 || fitsCluster (bits h0 0 16) 128)

/-- The detail of an illegal word: class and op (R176). -/
def illegalDetail (cls op : Nat) : Nat := cls * 16 + op

/-- VRUN (R110, R155): the running hand's next word, a vector run, starts once every earlier LOAD and COPYIN has completed; its
streams are checked as it is issued. -/
def execVrun (c : Fin 128) (s : State) : Host.Outcome State Fault Refusal :=
  if s.tripped then .next s else
  match (s.cl c).nextWord with
  | some (h, i, w) =>
    if wordClass w.w = 3 ∧ h.doneBefore i (fun x => isLoadWord x.w) then
      let e := chainEntry (s.cl c).chain (bits w.w 121 3)
      if vrunFits e w.w then
        .next ((s.setWord c i .started).updCl c fun x => { x with vruns := x.vruns ++ [⟨i, w.w, 0⟩] })
      else .next (s.faultHand c h (h.va + 16 * (i + 1)) ⟨0x4001, illegalDetail 3 0⟩)
    else .next s
  | none => .next s

/-- The lanes of a run that its column mask leaves (R113). -/
def runMask (h : Hand) (v : VRun) : Nat := if bit v.w 120 then h.cmask else max32

/-- The input operands of a row of a run whose unmasked lanes are `mask` (R111). -/
def runOperands (e : List Nat) (v : VRun) (mask : Nat) : List Operand :=
  (List.range (nin e)).map fun i =>
    ⟨streamAt e (inBase e i) (bits v.w 80 16) v.row (inFmt e i), inFmt e i, laneCount (packed e), 0, mask⟩

/-- Lane `l` of a row of a run: its registers after the stages give each output (R111, R112). -/
def runLanes (s : State) (c : Nat) (e : List Nat) (h : Hand) (v : VRun) (o : Nat) : List OutLane :=
  let n := laneCount (packed e)
  let h0 := e.getD 0 0
  let pk := packed e
  let ins := (runOperands e v max32).map fun p =>
    if pk then elemsAt 16 0 (s.clusterPeek c p.offset (2 * n)) n else s.laneWords c p.offset p.fmt p.lanes 0
  let col := if usesVec e 2 then s.laneWords c (64 * bits h0 16 16) .fp32 32 0 else []
  let row := if usesVec e 3 then (s.laneWords c (64 * bits h0 0 16 + 4 * (v.row % 32)) .fp32 1 0).headD 0 else 0
  let f := outFmt e o
  let cvt := bits (outDesc e o) 0 4
  let vstream := bits (e.getD 4 0) 32 32
  (List.range n).map fun l =>
    let idx := bits v.w 0 48 + v.row * n + l
    let env : LaneEnv := ⟨pk, col.getD l 0, row, h.lscale, h.seed, h.step, vstream, idx⟩
    let regs := (List.range 8).map fun i => (ins.getD i []).getD l 0
    let masked := bit v.w 120 && !bit h.cmask (l % 32)
    let rsel := bits (outDesc e o) 8 3
    let lastScale : Bool := match (stagesOf e).getLast? with
      | some x => o = 0 && bits x 59 5 = 0x12 && bits x 56 3 = rsel
      | none => false
    let same : Bool := if pk then f = .bf16 else f = .fp32
    let copy := if same ∧ ¬ lastScale then some ((stagesRun env (stagesOf e) regs).getD rsel 0) else none
    ⟨outValue env e o regs, copy, masked, false, cvtRnd cvt h.seed vstream h.step .vector idx⟩

/-- The admitted row of a run. -/
def runRow (s : State) (c : Nat) (e : List Nat) (h : Hand) (v : VRun) : PipeRow :=
  let rows := (List.range (nout e)).map fun o => (o, outRow (outFmt e o) (bits (outDesc e o) 0 4) (runLanes s c e h v o))
  let outs := rows.map fun p =>
    (streamAt e (outBase e p.1) (bits v.w 80 16) v.row (outFmt e p.1), packElems (outFmt e p.1).ebits p.2.words)
  ⟨.run v.widx v.row, outs, sumNat (rows.map fun p => p.2.nan), sumNat (rows.map fun p => p.2.inf),
    sumNat (rows.map fun p => p.2.ovf), bits v.w 121 3, v.row = bits v.w 96 16⟩

/-- The next row of the run `v`, the first of cluster `c` with `rest` behind it, is admitted for the running hand `h`, or an error of its
chain entry or operands poisons (R107, R111, R114). -/
def State.admitRun (s : State) (c : Nat) (h : Hand) (v : VRun) (rest : List VRun) : State :=
  let x := s.cl c
  let e := chainEntry x.chain (bits v.w 121 3)
  if 8 < x.used + rowCost e then s.updCl c fun y => { y with stop := true }
  else if x.badChain.contains (bits v.w 121 3) then s.vectorFault c 3 0 (bits v.w 121 3) true false
  else
    let r := s.operandErrors c (runOperands e v (runMask h v) ++ vecOperands e v.row (runMask h v) (runMask h v))
    match r.2 with
    | some o => r.1.vectorFault c 1 o (bits v.w 121 3) true false
    | none =>
      let row := runRow r.1 c e h v
      (r.1.tally (dieOfCluster c) R.vxe_t_vrow (c % 64)).updCl c fun y =>
        { y with
          used := y.used + rowCost e
          pipe := y.pipe ++ [row]
          vruns := if row.last then rest else { v with row := v.row + 1 } :: rest }

/-- Whether a drain row goes before the vector-run rows of this clock: one is offered and ready that the reserve does not hold back
(R107). -/
def State.drainFirst (s : State) (c : Nat) : Bool :=
  let x := s.cl c
  match s.drainOffer c with
  | none => false
  | some (_, r) =>
    let use := x.used + rowCost (chainEntry x.chain r.place.chain)
    !(x.runWaits && use ≤ 8 && 8 - x.res < use)

/-- Whether the first run `v` of cluster `c` waits for this clock's drain rows, or for rows of its operands still on their way. -/
def State.runHeld (s : State) (c : Nat) (v : VRun) : Bool :=
  let x := s.cl c
  let e := chainEntry x.chain (bits v.w 121 3)
  x.stop || s.drainFirst c || !x.runWaits || x.pendingFor v.widx (runOperands e v max32 ++ vecOperands e v.row max32 max32)

/-- VRUN_ROW_ADMIT (R107, R111): the next row of the first run is admitted after the drain rows of earlier work, within the
budget left. -/
def execVrunRowAdmit (c : Fin 128) (s : State) : Host.Outcome State Fault Refusal :=
  if s.tripped then .next s else
  match (s.cl c).vruns, (s.cl c).run with
  | v :: rest, some h => .next (if s.runHeld c v then s else s.admitRun c h v rest)
  | _, _ => .next s

/-! ## Writing rows (R108, R109, R115) -/

/-- The word that a row belongs to. -/
def RowSrc.word : RowSrc → Option Nat
  | .drain w _ | .batch w _ | .run w _ => some w
  | .comb _ => none

/-- The three counts of a row join the cluster's tallies (R115, R124). -/
def State.tallyCounts (s : State) (c nan inf ovf : Nat) : State :=
  let d := dieOfCluster c
  let add (s : State) (r : Reg) (n : Nat) : State := if n = 0 then s else s.tally d r (c % 64) n
  add (add (add s R.vxe_t_nan nan) R.vxe_t_inf inf) R.vxe_t_ovf ovf

/-- A row of a K-split combination is written; with the last one the combination completes and its counts return (R47, R115). -/
def State.combWrite (s : State) (c : Nat) (p : PipeRow) : State :=
  let s := p.outs.foldl (fun s o => s.writeRaw (dieOfCluster c) (clusterBase c + o.1) o.2 false .unit (some c)) s
  let s := s.updCl c fun x => { x with combs := listMod x.combs 0 fun y =>
    { y with left := y.left - 1, nan := y.nan + p.nan, inf := y.inf + p.inf, ovf := y.ovf + p.ovf } }
  match (s.cl c).combs with
  | y :: rest =>
    if y.left = 0 then
      let s := s.updCl c fun x => { x with combs := rest }
      match y.split.parts with
      | q :: _ => s.updSlot q.region q.slot fun k => k.addCounts y.nan y.inf y.ovf
      | [] => s
    else s
  | [] => s

/-- A row of word `i` of the running hand is written, and its counts join the word's, each saturating at 16 bits (R115). -/
def State.wordWrite (s : State) (c i : Nat) (p : PipeRow) : State :=
  let s := p.outs.foldl (fun s o => s.handWrite c i o.1 o.2) s
  s.updWord c i fun w =>
    { w with
      rows := w.rows + 1
      nan := satAt 0xFFFF (w.nan + p.nan)
      inf := satAt 0xFFFF (w.inf + p.inf)
      ovf := satAt 0xFFFF (w.ovf + p.ovf)
      st := if p.last then .done else w.st }

/-- Row `n` of those admitted, `p`, is written, and what it clamped or met is counted (R108, R109). -/
def State.rowOut (s : State) (c n : Nat) (p : PipeRow) : State :=
  let s := (s.updCl c fun y => { y with pipe := y.pipe.eraseIdx n }).tallyCounts c p.nan p.inf p.ovf
  match p.src.word with
  | none => s.combWrite c p
  | some i => s.wordWrite c i p

/-- ROW_WRITE (R108, R109): row `n` of those admitted, the oldest of its word, is written to cluster SRAM. -/
def execRowWrite (c : Fin 128) (n : Nat) (s : State) : Host.Outcome State Fault Refusal :=
  if s.tripped then .next s else
  let x := s.cl c
  match x.pipe[n]? with
  | none => .next s
  | some p =>
    .next (if (x.pipe.take n).any fun q => q.src.word = p.src.word then s else s.rowOut c n p)

/-! ## Faults (R114, R116) -/

/-- VECTOR_POISON (R114, R116): a fault of the vector engine poisons the running hand, or the combination whose rows it touches;
one that touches only masked lanes is counted. -/
def execVectorPoison (c : Fin 128) (f : VectorFault) (s : State) : Host.Outcome State Fault Refusal :=
  if s.tripped then .next s else
  let s := if f.cause = 0 then s.lineFails c f.offset else s
  if f.masked ∧ f.cause ≠ 2 then .next (s.count32 (dieOfCluster c) F.vxe_masked_err_count)
  else if f.comb ∨ (s.cl c).run.isSome then
    .next (s.vectorFault c (f.cause.val + 1) (if f.cause = 0 then f.offset else 0) f.chain f.run f.comb)
  else .next s

/-! ## The end of a clock -/

/-- A cluster's clock ends (R107, R124): port rows offered and not admitted are counted, the rotation moves on, and the budget
is whole again. -/
def State.clusterClock (s : State) (c : Nat) : State :=
  let x := s.cl c
  let held := ((List.range 5).filter fun p => (x.offerAt p).isSome && !x.taken.contains p).length
  let s := if held = 0 then s else s.tally (dieOfCluster c) R.vxe_t_hold (c % 64) held
  if x.used = 0 ∧ x.taken = [] ∧ ¬ x.stop then s
  else s.updCl c fun y =>
    { y with
      used := 0
      stop := false
      taken := []
      rot := match y.taken.getLast? with
        | some p => (p + 1) % 5
        | none => y.rot }

end Sys2Proof.Machine
end

