-- ==== Sys2Proof/Machine/Dma.lean ====
section
/-! DEFINITION. DMA words: layouts, checks at dealing, starts and transfers (R33, R80, R137, R144, R147, R148, R155, R180, R274). -/

namespace Sys2Proof.Machine

/-! ## Layouts in cluster SRAM (R61, R137) -/

/-- The next multiple of 64. -/
def up64 (n : Nat) : Nat := (n + 63) / 64 * 64

/-- K of a tile in an MMA layout: dimension 0 with layout A, dimension 1 with layout B. -/
def layoutK (lay : Nat) (x : Desc) : Nat := if lay = 1 then dim x.tsz 0 else dim x.tsz 1

/-- Planes of a tile: dimensions 2 and 3, flattened with dimension 2 inner. -/
def planes (x : Desc) : Nat := dim x.tsz 2 * dim x.tsz 3

/-- Bytes of one plane in an MMA layout. -/
def planeBytes (lay : Nat) (x : Desc) : Nat :=
  cdiv (layoutK lay x) x.fmt.dot * 32 * x.fmt.dot * x.fmt.ebits / 8

/-- Bytes of the scales of one plane in an MMA layout. -/
def planeScales (lay : Nat) (x : Desc) : Nat := cdiv (layoutK lay x) 32 * 32

/-- Extents of a tile in blocks: along mxdim, 32 elements a block. -/
def blockExt (x : Desc) (i : Nat) : Nat := if i = x.mxdim then dim x.tsz i / 32 else dim x.tsz i

/-- Bytes that the elements of a tile take in cluster SRAM. -/
def tileBytes (lay : Nat) (x : Desc) : Nat :=
  if lay = 0 then dim x.tsz 0 * x.fmt.ebits / 8 * dim x.tsz 1 * planes x
  else (planes x - 1) * up64 (planeBytes lay x) + planeBytes lay x

/-- Bytes that the scales of a tile take in cluster SRAM. -/
def tileScaleBytes (lay : Nat) (x : Desc) : Nat :=
  if !x.fmt.isMx then 0
  else if lay = 0 then blockExt x 0 * blockExt x 1 * blockExt x 2 * blockExt x 3
  else (planes x - 1) * up64 (planeScales lay x) + planeScales lay x

/-- The end of a tile that itself lies in cluster space. -/
def clusterEnd (x : Tile) : Nat :=
  let last : List Nat := (List.range 4).map fun i => dim x.desc.tsz i - 1
  max ((x.elemBit last + x.desc.fmt.ebits + 7) / 8) (if x.desc.fmt.isMx then x.scaleAddr last + 1 else 0)

/-- Whether the extents of a DMA stay within the cluster SRAM (R137). -/
def DmaJob.fits (j : DmaJob) : Bool :=
  match j.tile with
  | some t =>
    j.off + tileBytes j.lay t.desc ≤ clusterBytes && j.soff + tileScaleBytes j.lay t.desc ≤ clusterBytes &&
      (!t.desc.cluster || clusterEnd t ≤ clusterBytes)
  | none => j.off + j.len ≤ clusterBytes

/-! ## The word as dealt (R137, R147, R150) -/

/-- Whether the bits of a DMA word break R137. -/
def dmaClean (w : Nat) : Bool :=
  bits w 0 74 = 0 &&
    (if bits w 122 2 < 2 then bits w 108 10 = 0 && bits w 106 2 < 3
     else bits w 118 4 = 0 && bits w 106 2 = 0 && bits w 74 16 = 0)

/-- The detail of an illegal DMA word. -/
def dmaIllegal (w : Nat) : FaultInfo := ⟨0x4001, illegalDetail 4 (bits w 122 2)⟩

/-- A DMA word's registers and descriptor as read at dealing, with the buffer offset added; or the fault that keeps the hand from
being dealt (R137, R147, R150, R152). -/
def dmaJob (k : Slot) (bo w : Nat) : Except FaultInfo DmaJob :=
  let op := bits w 122 2
  let ds := bits w 118 4
  let off := (bits w 90 16 + bo) * 64
  let soff := (bits w 74 16 + bo) * 64
  if !dmaClean w then .error (dmaIllegal w)
  else if op < 2 then
    match assocGet ds k.desc with
    | none => .error ⟨0x4003, ds⟩
    | some x =>
      let lay := bits w 106 2
      let t := x.tile k
      let j : DmaJob := ⟨op, ds, some t, 0, 0, lay, off, if x.fmt.isMx then soff else 0⟩
      if (lay = 1 ∧ 32 < dim x.tsz 1) ∨ (lay = 2 ∧ 32 < dim x.tsz 0) ∨ (lay ≠ 0 ∧ x.fmt = .int32) then .error (dmaIllegal w)
      else match t.overflow ds with
        | some f => .error f
        | none => if j.fits ∧ bits w 90 16 + bo < 65536 ∧ (¬ x.fmt.isMx ∨ bits w 74 16 + bo < 65536) then .ok j
          else .error (dmaIllegal w)
  else
    let len := k.sreg (bits w 108 5)
    let j : DmaJob := ⟨op, 0, none, k.sreg (bits w 113 5) % 2 ^ 48, len, 0, off, 0⟩
    if len = 0 ∨ len % 64 ≠ 0 ∨ ¬ j.fits ∨ 65536 ≤ bits w 90 16 + bo then .error (dmaIllegal w) else .ok j

/-! ## Places of a tile's bytes -/

/-- A DMA in progress: what it has done so far, or the fault that stops it. -/
abbrev DmaRes (α : Type) := State × Except FaultInfo α

/-- The pieces of the physical map for bytes of a tile's space: cluster SRAM, or translated VAs (R274, agent 0x2). -/
def State.placeOf (s : State) (c ctx : Nat) (cluster : Bool) (a n : Nat) (ty : AccTy) : DmaRes (List (Nat × Nat)) :=
  if n = 0 then (s, .ok [])
  else if cluster then (s, .ok [(clusterBase c + a, n)])
  else s.translateRange (dieOfCluster c) (some (regionOf c % 8)) ctx a n ty 2

/-- The bytes and marks of a range of a tile's space. -/
def State.fetchBytes (s : State) (c ctx : Nat) (cluster : Bool) (a n : Nat) : DmaRes (List PByte) :=
  let p := s.placeOf c ctx cluster a n .read
  match p.2 with
  | .error f => (p.1, .error f)
  | .ok l =>
    let r := p.1.readPieces (dieOfCluster c) l
    (r.1, .ok r.2)

/-- Bytes written to a range of a tile's space, for hand digests too (R490). -/
def State.storeBytes (s : State) (c ctx : Nat) (cluster : Bool) (a : Nat) (l : List PByte) : DmaRes Unit :=
  let p := s.placeOf c ctx cluster a l.length .write
  match p.2 with
  | .error f => (p.1, .error f)
  | .ok ps =>
    let s := p.1.writePieces (dieOfCluster c) ps l .outside (some c)
    let bs := l.map (·.1)
    (if cluster then s.hashWrite c (2 ^ 127) (c % 8 * clusterBytes + a) bs else s.hashWrite c 0 a bs, .ok ())

/-- Run an action over a list, stopping at the first fault. -/
def forEach {α : Type} (f : State → α → DmaRes Unit) : State → List α → DmaRes Unit
  | s, [] => (s, .ok ())
  | s, a :: r =>
    let x := f s a
    match x.2 with
    | .error e => (x.1, .error e)
    | .ok _ => forEach f x.1 r

/-- Collect results over a list, stopping at the first fault. -/
def collect {α β : Type} (f : State → α → DmaRes β) : State → List α → DmaRes (List β)
  | s, [] => (s, .ok [])
  | s, a :: r =>
    let x := f s a
    match x.2 with
    | .error e => (x.1, .error e)
    | .ok b =>
      let y := collect f x.1 r
      match y.2 with
      | .error e => (y.1, .error e)
      | .ok l => (y.1, .ok (b :: l))

/-! ## LOAD (R137, R147, R148) -/

/-- An element with the poison mark of its bytes. -/
abbrev PElem := Nat × Bool

/-- Elements with marks from bytes that begin at bit `o`. -/
def markedElems (w o n : Nat) (l : List PByte) : List PElem :=
  let es := elemsAt w o (l.map (·.1)) n
  es.zipIdx.map fun e =>
    (e.1, ((l.drop ((o + w * e.2) / 8)).take ((o + w * e.2 + w - 1) / 8 - (o + w * e.2) / 8 + 1)).any (·.2))

/-- Elements packed into bytes with marks. -/
def packMarked (w : Nat) (l : List PElem) : List PByte :=
  let bs := packElems w (l.map (·.1))
  bs.zipIdx.map fun b =>
    (b.1, ((l.drop (8 * b.2 / w)).take ((8 * b.2 + 7) / w - 8 * b.2 / w + 1)).any (·.2))

/-- Row (c1, c2, c3) of a tile as LOAD brings it: valid elements, and +0 beyond the valid extents. -/
def State.loadRow (s : State) (c ctx : Nat) (t : Tile) (c1 c2 c3 : Nat) : DmaRes (List PElem) :=
  let w := t.desc.fmt.ebits
  let n := if c1 < t.valid 1 ∧ c2 < t.valid 2 ∧ c3 < t.valid 3 then t.valid 0 else 0
  let pad (l : List PElem) : List PElem := l ++ List.replicate (dim t.desc.tsz 0 - l.length) (0, false)
  if n = 0 then (s, .ok (pad []))
  else
    let b := t.elemBit [0, c1, c2, c3]
    let x := s.fetchBytes c ctx t.desc.cluster (b / 8) ((b % 8 + n * w + 7) / 8)
    match x.2 with
    | .error f => (x.1, .error f)
    | .ok l => (x.1, .ok (pad (markedElems w (b % 8) n l)))

/-- The groups of d elements of a plane in an MMA layout, with the byte offset of each from the plane: layout A takes runs of a
row, layout B runs of a column (R61). -/
def layoutGroups (lay : Nat) (f : Fmt) (rows : List (List PElem)) : List (Nat × List PElem) :=
  let d := f.dot
  let g := d * f.ebits / 8
  if lay = 1 then
    (rows.zipIdx.map fun r => (pieces d r.1).zipIdx.map fun p => ((p.2 * 32 + r.2) * g, p.1)).flatten
  else
    ((pieces d rows).zipIdx.map fun k =>
      (List.range (k.1.headD []).length).map fun j =>
        ((k.2 * 32 + j) * g, k.1.map fun r => r.getD j (0, false))).flatten

/-- Write marked bytes into the cluster SRAM of cluster `c`. -/
def State.putCluster (s : State) (c o : Nat) (l : List PByte) : State :=
  s.writeMarked (dieOfCluster c) (clusterBase c + o) l .unit (some c)

/-- The rows of plane `p` of a tile. -/
def planeRows (x : Desc) (p : Nat) : List (Nat × Nat × Nat) :=
  (List.range (dim x.tsz 1)).map fun c1 => (c1, p % dim x.tsz 2, p / dim x.tsz 2)

/-- Whether an element lies within a tile's valid extents. -/
def Tile.holds (t : Tile) (e : List Nat) : Bool := (List.range 4).all fun i => decide (dim e i < t.valid i)

/-- The row number and the column of an element in a tile's rows, plane by plane. -/
def rowPlace (x : Desc) (e : List Nat) : Nat × Nat := (dim e 1 + dim x.tsz 1 * (dim e 2 + dim x.tsz 2 * dim e 3), dim e 0)

/-- The 32 elements of the block that begins at `e`. -/
def blockElems (x : Desc) (e : List Nat) : List (List Nat) := (List.range 32).map fun i => listMod e x.mxdim fun n => n + i

/-- A block of which only some elements are valid, formed anew from its values with +0 for the others (R33, R137): its scale and its
elements; their marks join. A block of NaN stays one. -/
def formBlock (f : Fmt) (scale : PByte) (l : List PElem) (valid : List Bool) : PByte × List PElem :=
  let vs := (l.zip valid).map fun p => if p.2 then mxDecode f scale.1.toNat p.1.1 else .fin false 0 0
  let b := mxEncode f vs (vs.map fun _ => .rne)
  let bad := scale.2 || l.any (·.2)
  ((BitVec.ofNat 8 b.scale, bad), (b.elems.zip l).map fun p => (p.1.w, bad || p.2.2))

/-- The scale of the block that begins at `e` as LOAD brings it, and the rows with the block's elements: as stored for a block that is
wholly valid, formed anew for one that is partly so, and 0x00 for one without a valid element (R33, R137). -/
def State.loadBlock (s : State) (c ctx : Nat) (t : Tile) (e : List Nat) (rows : List (List PElem)) :
    DmaRes (PByte × List (List PElem)) :=
  if ¬ t.holds e then (s, .ok ((0, false), rows))
  else
    let x := s.fetchBytes c ctx t.desc.cluster (t.scaleAddr e) 1
    match x.2 with
    | .error f => (x.1, .error f)
    | .ok l =>
      let sc := l.headD (0, false)
      let es := blockElems t.desc e
      let valid := es.map t.holds
      if valid.all id then (x.1, .ok (sc, rows))
      else
        let at_ (q : List Nat) : PElem := let p := rowPlace t.desc q; (rows.getD p.1 []).getD p.2 (0, false)
        let b := formBlock t.desc.fmt sc (es.map at_) valid
        let put (rs : List (List PElem)) (q : List Nat × PElem) : List (List PElem) :=
          let p := rowPlace t.desc q.1
          listMod rs p.1 fun r => listMod r p.2 fun _ => q.2
        (x.1, .ok (b.1, (es.zip b.2).foldl put rows))

/-- The blocks of a tile as LOAD brings them: the scale of each with its place in cluster SRAM, and the rows. -/
def State.loadBlocks (s : State) (c ctx : Nat) (t : Tile) :
    List (Nat × List Nat) → List (List PElem) → DmaRes (List (Nat × PByte) × List (List PElem))
  | [], rows => (s, .ok ([], rows))
  | b :: bs, rows =>
    let x := s.loadBlock c ctx t b.2 rows
    match x.2 with
    | .error f => (x.1, .error f)
    | .ok y =>
      let z := x.1.loadBlocks c ctx t bs y.2
      match z.2 with
      | .error f => (z.1, .error f)
      | .ok r => (z.1, .ok ((b.1, y.1) :: r.1, r.2))

/-- The blocks of a tile with the cluster-SRAM offset of each scale: the first element of each block, from `soff` (R137). -/
def scalePlaces (lay soff : Nat) (x : Desc) : List (Nat × List Nat) :=
  if !x.fmt.isMx then []
  else if lay = 0 then
    let n := blockExt x
    let full (i y : Nat) : Nat := if i = x.mxdim then 32 * y else y
    (List.range (n 0 * n 1 * n 2 * n 3)).map fun b =>
      (soff + b, [full 0 (b % n 0), full 1 (b / n 0 % n 1), full 2 (b / n 0 / n 1 % n 2), full 3 (b / n 0 / n 1 / n 2)])
  else
    let lanes := if lay = 1 then dim x.tsz 1 else dim x.tsz 0
    ((List.range (planes x)).map fun p =>
      ((List.range (cdiv (layoutK lay x) 32)).map fun b =>
        (List.range lanes).map fun i =>
          (soff + p * up64 (planeScales lay x) + b * 32 + i,
            (if lay = 1 then [32 * b, i] else [i, 32 * b]) ++ [p % dim x.tsz 2, p / dim x.tsz 2])).flatten).flatten

/-- The rows of plane `p` of a tile go into the cluster SRAM in the layout of the word. -/
def State.putPlane (s : State) (c : Nat) (j : DmaJob) (x : Desc) (p : Nat) (rows : List (List PElem)) : State :=
  let w := x.fmt.ebits
  if j.lay = 0 then s.putCluster c (j.off + p * (dim x.tsz 0 * w / 8 * dim x.tsz 1)) (packMarked w rows.flatten)
  else
    (layoutGroups j.lay x.fmt rows).foldl
      (fun s g => s.putCluster c (j.off + p * up64 (planeBytes j.lay x) + g.1) (packMarked w g.2)) s

/-- LOAD's transfer (R137, R148): a tile that lies wholly beyond a valid extent is written as +0 and nothing is read. -/
def State.doLoad (s : State) (c ctx : Nat) (j : DmaJob) (t : Tile) : DmaRes Unit :=
  let ps := List.range (planes t.desc)
  let x := collect (fun s (q : Nat × Nat × Nat) => s.loadRow c ctx t q.1 q.2.1 q.2.2) s (ps.map (planeRows t.desc)).flatten
  match x.2 with
  | .error e => (x.1, .error e)
  | .ok rows =>
    let y := x.1.loadBlocks c ctx t (scalePlaces j.lay j.soff t.desc) rows
    match y.2 with
    | .error e => (y.1, .error e)
    | .ok r =>
      let n := dim t.desc.tsz 1
      let s := ps.foldl (fun s p => s.putPlane c j t.desc p ((r.2.drop (n * p)).take n)) y.1
      (r.1.foldl (fun s b => s.putCluster c b.1 [b.2]) s, .ok ())

/-! ## STORE (R137, R147, R148) -/

/-- The bytes of a cluster's SRAM with their marks: an uncorrectable line and stored poison poison no hand here, but travel with the data
(R80). -/
def State.getCluster (s : State) (c o n : Nat) : List PByte :=
  (blocks 64 (clusterBase c + o) n).flatMap fun b =>
    (s.peek b.1 b.2).map fun x => (x, s.poisoned (b.1 / 64) || s.bad (b.1 / 64))

/-- Where STORE takes the valid elements of row (c1, c2, c3) from: runs of elements, each with its first bit, from `off` on. -/
def storeRuns (j : DmaJob) (t : Tile) (c1 c2 c3 : Nat) : List (Nat × Nat) :=
  let f := t.desc.fmt
  let d := f.dot
  let n := t.valid 0
  let p := c2 + dim t.desc.tsz 2 * c3
  if j.lay = 0 then [(8 * (j.off + (c1 + dim t.desc.tsz 1 * p) * (dim t.desc.tsz 0 * f.ebits / 8)), n)]
  else
    (List.range n).map fun c0 =>
      let k := if j.lay = 1 then c0 else c1
      let i := if j.lay = 1 then c1 else c0
      (8 * (j.off + p * up64 (planeBytes j.lay t.desc)) + ((k / d * 32 + i) * d + k % d) * f.ebits, 1)

/-- The bytes that hold `n` elements of `w` bits from bit `b` on. -/
def elemSpan (w b n : Nat) : Nat × Nat := (b / 8, (b % 8 + n * w + 7) / 8)

/-- The valid elements of row (c1, c2, c3), taken from the tile's layout in cluster SRAM. -/
def State.storeElems (s : State) (c : Nat) (j : DmaJob) (t : Tile) (c1 c2 c3 : Nat) : List PElem :=
  let w := t.desc.fmt.ebits
  (storeRuns j t c1 c2 c3).flatMap fun q =>
    let a := elemSpan w q.1 q.2
    markedElems w (q.1 % 8) q.2 (s.getCluster c a.1 a.2)

/-- Elements laid into bytes from bit `o` on, over the old bytes of the range. -/
def overlayElems (w o : Nat) (es : List PElem) (old : List PByte) : List PByte :=
  let v := es.zipIdx.foldl (fun v e => putBits v (o + w * e.2) w e.1.1) (leNat (old.map (·.1)))
  let bad := es.any (·.2)
  (leBytes old.length v).zip (old.map fun b => b.2 || bad)

/-- One row of STORE: only the valid elements are written; a byte shared with another element keeps that element's bits. -/
def State.storeRow (s : State) (c ctx : Nat) (j : DmaJob) (t : Tile) (c1 c2 c3 : Nat) : DmaRes Unit :=
  let w := t.desc.fmt.ebits
  let n := t.valid 0
  let b := t.elemBit [0, c1, c2, c3]
  let es := s.storeElems c j t c1 c2 c3
  if b % 8 = 0 ∧ n * w % 8 = 0 then s.storeBytes c ctx t.desc.cluster (b / 8) (packMarked w es)
  else
    let a := elemSpan w b n
    let y := s.fetchBytes c ctx t.desc.cluster a.1 a.2
    match y.2 with
    | .error e => (y.1, .error e)
    | .ok old => y.1.storeBytes c ctx t.desc.cluster a.1 (overlayElems w (b % 8) es old)

/-- The rows of a tile's valid part, by their coordinates in dimensions 1, 2 and 3. -/
def Tile.validRows (t : Tile) : List (Nat × Nat × Nat) :=
  ((List.range (t.valid 3)).map fun c3 => ((List.range (t.valid 2)).map fun c2 =>
    (List.range (t.valid 1)).map fun c1 => (c1, c2, c3)).flatten).flatten

/-- The scales that a tile's valid part uses: the place of each in cluster SRAM, and the first element of its block. -/
def liveScales (j : DmaJob) (t : Tile) : List (Nat × List Nat) := (scalePlaces j.lay j.soff t.desc).filter fun b => t.holds b.2

/-- A scale in cluster SRAM goes out to its place. -/
def State.storeScale (c ctx : Nat) (t : Tile) (s : State) (b : Nat × List Nat) : DmaRes Unit :=
  s.storeBytes c ctx t.desc.cluster (t.scaleAddr b.2) (s.getCluster c b.1 1)

/-- The scales that a tile's valid part uses go out, each to its place. -/
def State.storeScales (s : State) (c ctx : Nat) (j : DmaJob) (t : Tile) : DmaRes Unit :=
  forEach (State.storeScale c ctx t) s (liveScales j t)

/-- STORE's transfer (R137, R148): the valid elements, and the scale of each block that holds one. -/
def State.doStore (s : State) (c ctx : Nat) (j : DmaJob) (t : Tile) : DmaRes Unit :=
  if t.beyond then (s, .ok ())
  else
    let x := forEach (fun s (q : Nat × Nat × Nat) => s.storeRow c ctx j t q.1 q.2.1 q.2.2) s t.validRows
    match x.2 with
    | .error e => (x.1, .error e)
    | .ok _ => x.1.storeScales c ctx j t

/-! ## Errors and waits of a transfer -/

/-- A granule of stacked or cluster SRAM holds an error as a read meets it (R180): a single-bit error is corrected and counted, and one
that cannot be corrected stays, to be counted by the read. -/
def State.arrayError (s : State) (e : Nat × Ecc) : State :=
  let k := e.1 / 64
  if ¬ (isSram e.1 ∨ isClusterSram e.1) ∨ s.poisoned k ∨ s.bad k then s
  else
    match e.2 with
    | .clean => s
    | .corrected => s.sramCe (64 * k)
    | .uncorrectable => { s with mem := { s.mem with ue := markSet true k s.mem.ue } }
    | .asPoison => { s with mem := { s.mem with poison := markSet true k s.mem.poison } }

/-- The ranges of cluster SRAM that a STORE or COPYOUT reads. -/
def DmaJob.source (j : DmaJob) : List (Nat × Nat) :=
  match j.op, j.tile with
  | 1, some t =>
    if t.beyond then []
    else
      t.validRows.flatMap (fun q => (storeRuns j t q.1 q.2.1 q.2.2).map fun r => elemSpan t.desc.fmt.ebits r.1 r.2) ++
        (liveScales j t).map fun b => (b.1, 1)
  | 3, _ => [(j.off, j.len)]
  | _, _ => []

/-- Each line of cluster SRAM that a transfer reads is decoded once: a fresh error is counted (R80, R180). -/
def State.sourceDecode (s : State) (c : Nat) (j : DmaJob) : State :=
  let ks := (j.source.flatMap fun r => (blocks 64 (clusterBase c + r.1) r.2).map fun b => b.1 / 64).eraseDups
  ks.foldl (fun s k => (s.sramDecode (64 * k) .clean).1) s

/-- The ranges of a word's tile or of memory that it reads or writes outside its layout in cluster SRAM. -/
def DmaJob.places (j : DmaJob) : List (Nat × Nat) :=
  match j.tile with
  | some t =>
    if t.beyond then []
    else
      t.validRows.map (fun q => elemSpan t.desc.fmt.ebits (t.elemBit [0, q.1, q.2.1, q.2.2]) (t.valid 0)) ++
        (liveScales j t).map fun b => (t.scaleAddr b.2, 1)
  | none => [(j.va, j.len)]

/-- Whether a transfer must wait for a target of its accesses. -/
def State.dmaStalls (s : State) (c ctx : Nat) (j : DmaJob) : Bool :=
  let ty : AccTy := if j.op % 2 = 0 then .read else .write
  let cluster : Bool := match j.tile with
    | some t => t.desc.cluster
    | none => false
  j.places.any fun r =>
    match (s.placeOf c ctx cluster r.1 r.2 ty).2 with
    | .error _ => false
    | .ok l => s.piecesStall (dieOfCluster c) l (ty = .write) (some c)

/-! ## The commands -/

/-- The transfer of a DMA word. -/
def State.dmaMove (s : State) (c ctx : Nat) (j : DmaJob) : DmaRes Unit :=
  match j.op, j.tile with
  | 0, some t => s.doLoad c ctx j t
  | 1, some t => s.doStore c ctx j t
  | 2, _ =>
    let x := s.fetchBytes c ctx false j.va j.len
    match x.2 with
    | .error e => (x.1, .error e)
    | .ok l => (x.1.putCluster c j.off l, .ok ())
  | _, _ => s.storeBytes c ctx false j.va (s.getCluster c j.off j.len)

/-- The transfer of a DMA word, whose reads of SRAM meet the errors `errs` (R80, R137, R180). -/
def State.dmaRun (s : State) (c ctx : Nat) (j : DmaJob) (errs : List (Nat × Ecc)) : DmaRes Unit :=
  ((errs.foldl State.arrayError s).sourceDecode c j).dmaMove c ctx j

/-- Whether a word is a DMA of an operation. -/
def isDma (w op : Nat) : Bool := wordClass w = 4 && bits w 122 2 = op

/-- The operand extents of an MMA word. -/
def mmaExtents (w : Nat) : List (Nat × Nat) :=
  let k := mmaK w
  let r := mmaRows w
  [(64 * bits w 48 16, operandBytes (mmaA w) r k), (64 * bits w 32 16, operandBytes (mmaB w) 32 k)] ++
    (if (mmaA w).isMx then [(64 * bits w 16 16, k), (64 * bits w 0 16, k)] else [])

/-- The words of the MMAs that have not broadcast their last chunk: requests that have not reached an array, and what the engines have
accepted and not yet written (R155; assumption 128). -/
def Cluster.reading (x : Cluster) : List Nat :=
  (x.bqWait ++ ((x.bqOpen ++ x.bqClosed).map (·.reqs)).flatten ++
      (x.engines.flatMap (·.flight)).flatMap (·.reqs)).map (·.w) ++
    (x.engines.flatMap (·.flight)).map (·.w)

/-- Whether a LOAD or COPYIN to a range must wait for an MMA that still reads it (R155). -/
def Cluster.operandsWait (x : Cluster) (o n : Nat) : Bool :=
  x.reading.any fun w => (mmaExtents w).any fun e => rangesMeet o n e.1 e.2

/-- Whether an input digest still reads the descriptor slot that a STORE uses (R482). -/
def State.digestReads (s : State) (r k ds : Nat) : Bool := (s.slot r k).digests.any fun t => t.dslot = ds && t.input

/-- Whether a DMA word may start (R155). -/
def State.dmaReady (s : State) (c : Nat) (h : Hand) (i : Nat) (j : DmaJob) : Bool :=
  if j.op % 2 = 0 then
    let n := match j.tile with
      | some t => tileBytes j.lay t.desc
      | none => j.len
    let m := match j.tile with
      | some t => tileScaleBytes j.lay t.desc
      | none => 0
    !(s.cl c).operandsWait j.off n && !(s.cl c).operandsWait j.soff m
  else
    h.doneBefore i (fun w => isMmaOut w.w 1 || isThin w.w || wordClass w.w = 3) &&
      !(j.op = 1 && s.digestReads h.region h.slot j.dslot)

/-- The running hand's next word, a DMA of operation `op`, starts. -/
def State.dmaStart (s : State) (c op : Nat) : State :=
  match (s.cl c).nextWord with
  | some (h, i, w) =>
    match w.dma with
    | some j => if isDma w.w op ∧ s.dmaReady c h i j then s.setWord c i .started else s
    | none => s
  | none => s

/-- LOAD (R137, R155) starts: a descriptor's tile is to move into cluster SRAM. -/
def execLoad (c : Fin 128) (s : State) : Host.Outcome State Fault Refusal :=
  if s.tripped then .next s else
  .next (s.dmaStart c 0)

/-- STORE (R137, R155) starts: the valid part of a tile is to move from cluster SRAM to its place. -/
def execStore (c : Fin 128) (s : State) : Host.Outcome State Fault Refusal :=
  if s.tripped then .next s else
  .next (s.dmaStart c 1)

/-- COPYIN (R137, R155) starts. -/
def execCopyin (c : Fin 128) (s : State) : Host.Outcome State Fault Refusal :=
  if s.tripped then .next s else
  .next (s.dmaStart c 2)

/-- COPYOUT (R137, R155) starts. -/
def execCopyout (c : Fin 128) (s : State) : Host.Outcome State Fault Refusal :=
  if s.tripped then .next s else
  .next (s.dmaStart c 3)

/-- DMA_COMPLETE (R137, R155, R274): the named word of the running hand, a DMA that has started, moves its bytes once its targets take
them; a translation fault stops the hand, and what it had written stands. -/
def execDmaComplete (c : Fin 128) (e : DmaDone) (s : State) : Host.Outcome State Fault Refusal :=
  if s.tripped then .next s else
  match (s.cl c).run with
  | none => .next s
  | some h =>
    match h.words[e.word]? with
    | none => .next s
    | some w =>
      match w.dma with
      | none => .next s
      | some j =>
        if h.stopped ∨ w.st ≠ .started ∨ s.dmaStalls c h.ctx j then .next s
        else
          let x := s.dmaRun c h.ctx j e.errs
          match x.2 with
          | .ok _ => .next (x.1.setWord c e.word .done)
          | .error f => .next (x.1.faultHand c h (h.va + 16 * (e.word + 1)) f)

end Sys2Proof.Machine
end

