-- ==== Sys2Proof/Machine/Dealer.lean ====
section
/-! DEFINITION. The Dealer's slots: fetching and decoding words, control, loops, scalar registers, tests, flags and barriers, the
trace ring and replay (R127 to R142, R146 to R151, R156 to R165, R496, R497). -/

namespace Sys2Proof.Machine

/-! ## Which slot decodes (R132) -/

/-- The word that a hand under collection still lacks. -/
def Slot.collecting (k : Slot) : Bool := match k.hand with
  | some h => h.words.length < bits h.w 118 6 + 1
  | none => true

/-- Whether a slot is ready to decode a word. -/
def Slot.ready (k : Slot) : Bool := k.st = .running && k.wait = .none && k.collecting

/-- The priority of a context, from its entry (R259). -/
def State.prio (s : State) (c : Nat) : Nat := s.ctxField c 1 1 % 8

/-- Whether slot `k` of region `r` decodes next: its region's clock runs (R663), it is ready, and no other ready slot has a higher priority, or an equal one and has
decoded less recently (R132). `recency` lists the slots from the one that decoded least recently. -/
def State.decodes (s : State) (r k : Nat) : Bool :=
  let g := s.rg r
  let age (n : Nat) : Nat := (indexWhere (fun x => x = n) g.recency).getD 4
  let p (n : Nat) : Nat := s.prio (s.slot r n).ctx
  !s.tripped && (s.slot r k).ready &&
    (List.range 4).all fun n => n = k || !(s.slot r n).ready || p n < p k || (p n = p k && age k < age n)

/-- The word at a VA in a region's program buffer (R163, R164). -/
def Region.wordAt (g : Region) (ctx va : Nat) : Option Nat :=
  (g.pbuf.find? fun l => l.ctx = ctx && l.va = va / 4096 * 4096).map fun l => leAt l.data (va % 4096) 16

/-- A line used becomes the most recent of its buffer. -/
def Region.touch (g : Region) (ctx va : Nat) : Region :=
  match g.pbuf.find? fun l => l.ctx = ctx && l.va = va / 4096 * 4096 with
  | some l => { g with pbuf := l :: g.pbuf.filter fun x => x ≠ l }
  | none => g

/-- The detail of an illegal word (R176): its class, and its op field for CTRL, DMA, COLL, SREG and MELD. -/
def wordDetail (w : Nat) : Nat :=
  match wordClass w with
  | 0 | 5 | 7 | 9 => illegalDetail (wordClass w) (bits w 120 4)
  | 4 => illegalDetail 4 (bits w 122 2)
  | c => illegalDetail c 0

/-- Source 1 of a trace capture sees a word that the Dealer of the selected region decodes (R628). -/
def State.traceWord (s : State) (r k va ctx w : Nat) : State :=
  if s.flag 0 F.dbg_tctl_busy ∧ s.dbg.armed ∧ s.flag 0 F.dbg_tctl_src ∧ s.fld 0 F.dbg_tctl_region = r then
    s.traceTake (leBytes 8 s.tai ++ leBytes 8 va ++ leBytes 1 k ++ leBytes 1 (wordDetail w) ++ leBytes 2 ctx ++ leBytes 12 0)
  else s

/-- Slot `k` has decoded the word at its pc: it counts, joins the program digest (R486), and the slot becomes the one that
decoded most recently. -/
def State.decoded (s : State) (r k w : Nat) : State :=
  let x := s.slot r k
  let s := s.updRg r fun g => { (g.touch x.ctx x.pc) with recency := (g.recency.filter fun n => n ≠ k) ++ [k] }
  let s := s.updSlot r k fun y =>
    { y with
      pc := (y.pc + 16) % 2 ^ 48
      words := y.words + 1
      firstClk := if y.words = 0 then s.clk else y.firstClk
      progDig := y.progDig.map fun p => digestWord (s.ctxField y.ctx 0x28 16) p w }
  (s.tally (dieOfRegion r) R.dlr_t_word (r % 8)).traceWord r k x.pc x.ctx w

/-! ## Kinds of words outside hands (R134 to R142) -/

/-- The operations that stand outside hands. -/
inductive Op where
  | nop | end_ | fence | sync | waitf | postf | flushq | trap | hand
  | reduceScatter | allGather | allReduce | broadcast | permute | loopBegin | loopEnd
  | li | add | sub | mul | and | or | shl | shr | min | max | ld | st | ldd | rdt | test | trick | bound | waita
deriving DecidableEq, Repr

/-- The operation that a word names; none for a class or operation that may not stand outside hands (R134, R135, R138, R140,
R142). -/
def opOf (w : Nat) : Option Op :=
  let o := bits w 120 4
  let pick (l : List Op) : Option Op := l[o]?
  match wordClass w with
  | 0 => pick [.nop, .end_, .fence, .sync, .waitf, .postf, .flushq, .trap]
  | 1 => some .hand
  | 5 => pick [.reduceScatter, .allGather, .allReduce, .broadcast, .permute]
  | 6 => some (if bit w 123 then .loopEnd else .loopBegin)
  | 7 => pick [.li, .add, .sub, .mul, .and, .or, .shl, .shr, .min, .max, .ld, .st, .ldd, .rdt]
  | 8 => some .test
  | 9 => pick [.trick, .bound, .waita]
  | _ => none

/-- The item of slot `k` faults with 0x4001 for word `w` at `va` (R156). -/
def State.illegal (s : State) (r k va w : Nat) : State := s.itemFault r k va ⟨0x4001, wordDetail w⟩

/-- Decode the next word of slot `k` as operation `o` and run `f` on it: the state after decoding, the word and its VA. A slot that
does not decode now, or whose word is another operation, is left alone; a word not in the program buffer is waited for; a
word that names no operation faults the item (R132, R156, R163). -/
def State.onWord (s : State) (r k : Nat) (o : Op) (f : State → Nat → Nat → State) : Host.Outcome State Fault Refusal :=
  let x := s.slot r k
  if ¬ s.decodes r k ∨ x.hand.isSome then .next s
  else
    match (s.rg r).wordAt x.ctx x.pc with
    | none => .next (s.updSlot r k fun y => { y with wait := .fetch x.pc })
    | some w =>
      match opOf w with
      | none => .next ((s.decoded r k w).illegal r k x.pc w)
      | some q => if q = o then .next (f (s.decoded r k w) w x.pc) else .next s

/-- Whether the fields that a CTRL operation does not use are 0 (R134, R135). -/
def ctrlClean (w : Nat) (flag mask imm : Bool) : Bool :=
  bits w 0 64 = 0 && bits w 112 2 = 0 && (flag || bits w 114 6 = 0) && (mask || bits w 96 16 = 0) &&
    (imm || bits w 64 32 = 0)

/-! ## Trace and replay (R495 to R497) -/

/-- Whether an entry ring of region `r` is enabled; the capacity of a trace ring. -/
def State.traceCap (s : State) (r : Nat) : Nat := (s.fld 0 F.det_tr_size r + 1) * 256

/-- A trace entry's 16 bytes (R496). -/
def traceEntry (kind slot ctx word value : Nat) : List Byte :=
  leBytes 16 (kind * 2 ^ 124 + slot * 2 ^ 122 + ctx * 2 ^ 110 + word % 2 ^ 32 * 2 ^ 64 + value % 2 ^ 64)

/-- Append an entry to region `r`'s trace ring; a full ring drops it, which is counted and reported once after each read of the
count (R496). -/
def State.traceAppend (s : State) (r : Nat) (e : List Byte) : State :=
  if ¬ s.flag 0 F.det_tr_en r then s
  else
    let head := s.fld 0 F.det_tr_ptr_head r
    let tail := s.fld 0 F.det_tr_ptr_tail r
    let cap := s.traceCap r
    if (head + 2 ^ 32 - tail) % 2 ^ 32 = cap then
      let first := s.fld 0 F.det_lost_count = 0
      let s := s.count32 0 F.det_lost_count
      if first then s.raise 0 0x13 0x4043 r else s
    else
      let a := s.fld 0 F.det_tr_base r * 4096 + head % cap * 16
      let s := s.writeRaw (dieOfRegion r) a e
      (s.setFld 0 F.det_tr_ptr_head ((head + 1) % 2 ^ 32) r).tally 0 R.det_t_trc

/-- The next entry of the trace ring that a replay reads from memory, from tail (R21, R497); a poisoned one reads as none (assumption
127). -/
def State.replayEntry (s : State) (r : Nat) : State × Option Nat :=
  let tail := s.fld 0 F.det_tr_ptr_tail r
  let q := s.read (dieOfRegion r) (s.fld 0 F.det_tr_base r * 4096 + tail % s.traceCap r * 16) 16
  (q.st, if q.poison then none else some (leNat q.data))

/-- Whether a replay's entry is of a kind and names the word that slot `x` has decoded (R496, R497). -/
def Slot.replays (x : Slot) (kind e : Nat) : Bool := bits e 124 4 = kind && bits e 64 32 = x.words % 2 ^ 32

/-- The replay has used an entry. -/
def State.replayNext (s : State) (r : Nat) : State :=
  s.setFld 0 F.det_tr_ptr_tail ((s.fld 0 F.det_tr_ptr_tail r + 1) % 2 ^ 32) r

/-- A divergence: event 0x4042, and the slot stops with its state kept (R497, R493). -/
def State.diverge (s : State) (r k : Nat) : State :=
  let s := s.raise 0 0x13 0x4042 (r + s.fld 0 F.det_tr_ptr_tail r % s.traceCap r * 2 ^ 32)
  s.updSlot r k fun y => { y with wait := .stopped }

/-- A traced happening of slot `k` with kind and value: recorded (R496), or in replay compared with its entry (R497). -/
def State.trace (s : State) (r k kind value : Nat) : State :=
  let x := s.slot r k
  if x.replay then
    let q := s.replayEntry r
    match q.2 with
    | some e => if x.replays kind e ∧ bits e 0 64 = value % 2 ^ 64 then q.1.replayNext r else q.1.diverge r k
    | none => q.1.diverge r k
  else if x.traced then s.traceAppend r (traceEntry kind k x.ctx x.words value)
  else s

/-! ## Outstanding work (R133, R135) -/

/-- Whether everything that slot `k` has issued has completed: hands, collectives, Meld requests and K-split combinations. -/
def State.quiet (s : State) (r k : Nat) : Bool :=
  let x := s.slot r k
  x.hands = 0 && x.colls = 0 && x.melds = 0 && !s.splitWork r k

/-- A slot's wait ends. -/
def State.resume (s : State) (r k : Nat) : State := s.updSlot r k fun y => { y with wait := .none, wdSeen := false }

/-- A slot begins to wait, under the limit that `dlr.wd` holds now (R165). -/
def State.waitFor (s : State) (r k : Nat) (w : Wait) : State :=
  s.updSlot r k fun y => { y with wait := w, wdSeen := false, wdLim := s.fld (dieOfRegion r) F.dlr_wd_lim }

/-- The wait code of R174. -/
def Slot.waitCode (k : Slot) : Nat :=
  if k.st = .completing then 7
  else match k.wait with
    | .none | .collFull | .stopped => 0
    | .waitf _ _ => 1
    | .sync _ _ => 2
    | .fence => 3
    | .handFull => 4
    | .fetch _ => 5
    | .ld _ _ | .ldd _ _ => 6
    | .trick _ | .bound | .waita _ => 8

/-! ## CTRL (R135, R158, R159) -/

/-- NOP (R135). -/
def execNop (r : Fin 16) (k : Fin 4) (s : State) : Host.Outcome State Fault Refusal :=
  s.onWord r k .nop fun s w va => if ctrlClean w false false false then s else s.illegal r k va w

/-- FENCE (R135): the slot waits until its earlier work has completed. -/
def execFence (r : Fin 16) (k : Fin 4) (s : State) : Host.Outcome State Fault Refusal :=
  s.onWord r k .fence fun s w va =>
    if ¬ ctrlClean w false false false then s.illegal r k va w
    else if s.quiet r k then s else s.waitFor r k .fence

/-- FENCE_RELEASE (R135): the work issued before a FENCE has completed, and the slot resumes. -/
def execFenceRelease (r : Fin 16) (k : Fin 4) (s : State) : Host.Outcome State Fault Refusal :=
  if s.tripped then .next s else
  if (s.slot r k).wait = .fence ∧ s.quiet r k then .next (s.resume r k) else .next s

/-- SYNC (R135, R159): the slot arrives at a barrier; the mask must include its own region. -/
def execSync (r : Fin 16) (k : Fin 4) (s : State) : Host.Outcome State Fault Refusal :=
  s.onWord r k .sync fun s w va =>
    let mask := bits w 96 16
    if ¬ ctrlClean w false true true ∨ ¬ bit mask r then s.illegal r k va w
    else s.waitFor r k (.sync (bits w 64 32) mask)

/-- Whether a slot of context `c` waits in region `r` at a barrier. -/
def State.arrived (s : State) (r c id mask : Nat) : Bool :=
  (s.rg r).slots.any fun x => x.st = .running && x.ctx = c && x.wait = .sync id mask

/-- Every slot of context `c` that waits at a barrier is released. -/
def State.releaseBarrier (s : State) (c id mask : Nat) : State :=
  { s with regions := s.regions.map fun g =>
      { g with slots := g.slots.map fun x =>
          if x.st = .running ∧ x.ctx = c ∧ x.wait = .sync id mask then { x with wait := .none, wdSeen := false } else x } }

/-- SYNC_RELEASE (R159): every region of the mask has arrived at the barrier that slot `k` waits at, and its slots resume. -/
def execSyncRelease (r : Fin 16) (k : Fin 4) (s : State) : Host.Outcome State Fault Refusal :=
  if s.tripped then .next s else
  match (s.slot r k).wait with
  | .sync id mask =>
    let c := (s.slot r k).ctx
    if (maskIdx 16 mask).all fun q => s.arrived q c id mask then .next (s.releaseBarrier c id mask) else .next s
  | _ => .next s

/-- The value of flag `n` of a slot. -/
def Slot.flag (k : Slot) (n : Nat) : Nat := (assocGet n k.flags).getD 0

/-- Add to a flag, saturating (R135, R159). -/
def Slot.addFlag (k : Slot) (n v : Nat) : Slot :=
  let x := satAt max32 (k.flag n + v)
  { k with flags := if x = 0 then assocDel n k.flags else assocPut n x k.flags }

/-- WAITF (R135, R159): the slot waits until a flag has reached a value. -/
def execWaitf (r : Fin 16) (k : Fin 4) (s : State) : Host.Outcome State Fault Refusal :=
  s.onWord r k .waitf fun s w va =>
    if ¬ ctrlClean w true false true then s.illegal r k va w
    else s.waitFor r k (.waitf (bits w 114 6) (bits w 64 32))

/-- WAITF_RELEASE (R159): the flag awaited has reached its value. -/
def execWaitfRelease (r : Fin 16) (k : Fin 4) (s : State) : Host.Outcome State Fault Refusal :=
  if s.tripped then .next s else
  match (s.slot r k).wait with
  | .waitf f v => if v ≤ (s.slot r k).flag f then .next (s.resume r k) else .next s
  | _ => .next s

/-- POSTF (R135). -/
def execPostf (r : Fin 16) (k : Fin 4) (s : State) : Host.Outcome State Fault Refusal :=
  s.onWord r k .postf fun s w va =>
    if ¬ ctrlClean w true false true then s.illegal r k va w
    else s.updSlot r k fun y => y.addFlag (bits w 114 6) (bits w 64 32)

/-- FLUSHQ (R135, R76): the open batches of the masked clusters of the region close. -/
def execFlushq (r : Fin 16) (k : Fin 4) (s : State) : Host.Outcome State Fault Refusal :=
  s.onWord r k .flushq fun s w va =>
    if ¬ ctrlClean w false true false ∨ bits w 104 8 ≠ 0 then s.illegal r k va w
    else (maskIdx 8 (bits w 96 8)).foldl (fun s j => s.updBatches (8 * r + j) Cluster.closeAll) s

/-- TRAP (R135): the item faults with code 0x4006 and imm as detail. -/
def execTrap (r : Fin 16) (k : Fin 4) (s : State) : Host.Outcome State Fault Refusal :=
  s.onWord r k .trap fun s w va =>
    if ¬ ctrlClean w false false true then s.illegal r k va w
    else s.itemFault r k va ⟨0x4006, bits w 64 32⟩

/-! ## LOOP (R139, R148, R149) -/

/-- A loop-structure error (R139, R176). -/
def State.loopError (s : State) (r k va lvl : Nat) : State := s.itemFault r k va ⟨0x4004, lvl⟩

/-- The count of a loop begin, and the tiles that it skips: from a register, or from a descriptor's extents (R139, R147 to R149). -/
def loopCount (x : Slot) (w : Nat) : Option (Nat × Nat) :=
  if bits w 116 4 = 15 then some (x.sreg (bits w 104 5) % 2 ^ 32, 0)
  else
    (assocGet (bits w 116 4) x.desc).map fun d =>
      let i := bits w 114 2
      let n := cdiv (d.extent x i) (dim d.tsz i)
      (n, d.planned i - n)

/-- The word at a VA is the end of a loop of level `lvl`. -/
def isLoopEnd (w lvl : Nat) : Bool := wordClass w = 6 && bit w 123 && bits w 120 3 = lvl

/-- Whether the unused fields of a LOOP begin are 0: dim with a register count, rc with a descriptor's (R134, R139). -/
def loopClean (w : Nat) : Bool :=
  bits w 16 88 = 0 && (if bits w 116 4 = 15 then bits w 114 2 = 0 else bits w 104 5 = 0)

/-- The legal begin of a loop at `va`: it runs from its first word, or its body is skipped (R139, R148, R149). -/
def State.loopOpen (s : State) (r k va w n skip : Nat) : State :=
  let lvl := bits w 120 3
  let ix := bits w 109 5
  let nb := bits w 0 16
  let s := if skip = 0 then s
    else (s.updSlot r k fun y => { y with skipped := y.skipped + skip }).tally (dieOfRegion r) R.dlr_t_skip (r % 8) skip
  let s := s.trace r k 4 n
  if n = 0 then s.updSlot r k fun y => { y with emptyLoop := true, pc := (va + 16 * (nb + 2)) % 2 ^ 48 }
  else s.updSlot r k fun y => { (y.setSreg ix 0) with loops := y.loops ++ [⟨lvl, va, ix, 0, n, nb⟩] }

/-- The VA of the word that a LOOP begin at `va` names as its end (R139). -/
def loopEndVa (va w : Nat) : Nat := (va + 16 * (bits w 0 16 + 1)) % 2 ^ 48

/-- The VA of the end that the LOOP begin that slot `k` decodes next names, when the program buffer lacks its line. -/
def State.endToFetch (s : State) (r k : Nat) : Option Nat :=
  let x := s.slot r k
  if ¬ s.decodes r k ∨ x.hand.isSome then none
  else
    match (s.rg r).wordAt x.ctx x.pc with
    | none => none
    | some w =>
      if opOf w = some .loopBegin ∧ ((s.rg r).wordAt x.ctx (loopEndVa x.pc w)).isNone then some (loopEndVa x.pc w) else none

/-- LOOP begin (R139): the word that it names as its end is checked, for which its line is fetched where the program buffer lacks it; the
count is fixed, and the body runs or is skipped. -/
def execLoopBegin (r : Fin 16) (k : Fin 4) (s : State) : Host.Outcome State Fault Refusal :=
  match s.endToFetch r k with
  | some e => .next (s.updSlot r k fun y => { y with wait := .fetch e })
  | none => s.onWord r k .loopBegin fun s w va =>
    let x := s.slot r k
    let lvl := bits w 120 3
    let ends := ((s.rg r).wordAt x.ctx (loopEndVa va w)).any fun e => isLoopEnd e lvl
    if lvl = 0 ∨ lvl = 7 ∨ lvl ≠ x.loops.length + 1 ∨ ¬ ends then s.loopError r k va lvl
    else if ¬ loopClean w then s.illegal r k va w
    else match loopCount x w with
      | none => s.itemFault r k va ⟨0x4003, bits w 116 4⟩
      | some (n, skip) => s.loopOpen r k va w n skip

/-- LOOP end (R139): a loop with iterations left branches back to the first word of its body; otherwise it closes. -/
def execLoopEnd (r : Fin 16) (k : Fin 4) (s : State) : Host.Outcome State Fault Refusal :=
  s.onWord r k .loopEnd fun s w va =>
    let x := s.slot r k
    let lvl := bits w 120 3
    match x.loops.getLast? with
    | none => s.loopError r k va lvl
    | some l =>
      if lvl ≠ l.lvl ∨ va ≠ (l.va + 16 * (l.nb + 1)) % 2 ^ 48 then s.loopError r k va lvl
      else if bits w 0 120 ≠ 0 then s.illegal r k va w
      else if l.i + 1 < l.n then
        s.updSlot r k fun y =>
          { (y.setSreg l.ix (l.i + 1)) with
            loops := y.loops.dropLast ++ [{ l with i := l.i + 1 }]
            pc := (l.va + 16) % 2 ^ 48 }
      else s.updSlot r k fun y => { y with loops := y.loops.dropLast, emptyLoop := false }

/-! ## SREG (R131, R140, R146) -/

/-- Operand B: the immediate, or a register. -/
def sregB (x : Slot) (w : Nat) : Nat := if bit w 104 then bits w 0 64 else x.sreg (bits w 105 5)

/-- Whether the fields that a word with operands A and B does not use are 0. -/
def sregClean (w : Nat) : Bool := bits w 64 40 = 0 && (if bit w 104 then bits w 105 5 = 0 else bits w 0 64 = 0)

/-- An arithmetic word: rd ← f A B modulo 2^64 (R131, R140). -/
def State.sregOp (s : State) (r k : Nat) (o : Op) (f : Nat → Nat → Nat) : Host.Outcome State Fault Refusal :=
  s.onWord r k o fun s w va =>
    if ¬ sregClean w then s.illegal r k va w
    else
      let x := s.slot r k
      s.updSlot r k fun y => y.setSreg (bits w 115 5) (f (x.sreg (bits w 110 5)) (sregB x w))

/-- LI (R140): rd ← imm. -/
def execLi (r : Fin 16) (k : Fin 4) (s : State) : Host.Outcome State Fault Refusal :=
  s.onWord r k .li fun s w va =>
    if bits w 64 51 ≠ 0 then s.illegal r k va w
    else s.updSlot r k fun y => y.setSreg (bits w 115 5) (bits w 0 64)

/-- ADD (R140). -/
def execAdd (r : Fin 16) (k : Fin 4) (s : State) : Host.Outcome State Fault Refusal := s.sregOp r k .add fun a b => a + b

/-- SUB (R140). -/
def execSub (r : Fin 16) (k : Fin 4) (s : State) : Host.Outcome State Fault Refusal :=
  s.sregOp r k .sub fun a b => a + 2 ^ 64 - b

/-- MUL (R140): the low 64 bits. -/
def execMul (r : Fin 16) (k : Fin 4) (s : State) : Host.Outcome State Fault Refusal := s.sregOp r k .mul fun a b => a * b

/-- AND (R140). -/
def execAnd (r : Fin 16) (k : Fin 4) (s : State) : Host.Outcome State Fault Refusal := s.sregOp r k .and fun a b => a &&& b

/-- OR (R140). -/
def execOr (r : Fin 16) (k : Fin 4) (s : State) : Host.Outcome State Fault Refusal := s.sregOp r k .or fun a b => a ||| b

/-- SHL (R140): shift by B mod 64. -/
def execShl (r : Fin 16) (k : Fin 4) (s : State) : Host.Outcome State Fault Refusal :=
  s.sregOp r k .shl fun a b => a <<< (b % 64)

/-- SHR (R140): logical, by B mod 64. -/
def execShr (r : Fin 16) (k : Fin 4) (s : State) : Host.Outcome State Fault Refusal :=
  s.sregOp r k .shr fun a b => a >>> (b % 64)

/-- MIN (R140): unsigned. -/
def execMin (r : Fin 16) (k : Fin 4) (s : State) : Host.Outcome State Fault Refusal := s.sregOp r k .min fun a b => min a b

/-- MAX (R140): unsigned. -/
def execMax (r : Fin 16) (k : Fin 4) (s : State) : Host.Outcome State Fault Refusal := s.sregOp r k .max fun a b => max a b

/-- LD (R140): a 64-bit read from VA A + B is issued, and the slot waits. -/
def execLd (r : Fin 16) (k : Fin 4) (s : State) : Host.Outcome State Fault Refusal :=
  s.onWord r k .ld fun s w va =>
    let x := s.slot r k
    let a := (x.sreg (bits w 110 5) + sregB x w) % 2 ^ 48
    if ¬ sregClean w ∨ a % 8 ≠ 0 then s.illegal r k va w else s.waitFor r k (.ld (bits w 115 5) a)

/-- LD_COMPLETE (R140, R274): the data returns into its register, or the translation faults the item. -/
def execLdComplete (r : Fin 16) (k : Fin 4) (s : State) : Host.Outcome State Fault Refusal :=
  if s.tripped then .next s else
  let x := s.slot r k
  match x.wait with
  | .ld rd va =>
    if s.vaStalls r x.ctx va 8 .read 1 then .next s else
    let d := dieOfRegion r
    let t := s.translate d (some (r % 8)) x.ctx va .read 1
    match t.2 with
    | .error f => .next (t.1.itemFault r k (x.pc - 16) f)
    | .ok pa =>
      let q := t.1.read d pa 8
      let v := leNat q.data
      let s := (q.st.updSlot r k fun y => y.setSreg rd v).resume r k
      .next (s.trace r k 2 v)
  | _ => .next s

/-- Whether the word that slot `k` decodes next, an ST, finds a target that takes no write yet. -/
def State.stStalls (s : State) (r k : Nat) : Bool :=
  let x := s.slot r k
  match (s.rg r).wordAt x.ctx x.pc with
  | none => false
  | some w => s.vaStalls r x.ctx ((x.sreg (bits w 110 5) + sregB x w) % 2 ^ 48) 8 .write 1

/-- ST (R140): 64 bits of a register are written to VA A + B; the slot waits while the target takes no write. -/
def execSt (r : Fin 16) (k : Fin 4) (s : State) : Host.Outcome State Fault Refusal :=
  if s.stStalls r k then .next s else
  s.onWord r k .st fun s w va =>
    let x := s.slot r k
    let a := (x.sreg (bits w 110 5) + sregB x w) % 2 ^ 48
    if ¬ sregClean w ∨ a % 8 ≠ 0 then s.illegal r k va w
    else
      let d := dieOfRegion r
      let t := s.translate d (some (r % 8)) x.ctx a .write 1
      match t.2 with
      | .error f => t.1.itemFault r k va f
      | .ok pa => t.1.writeRaw d pa (leBytes 8 (x.sreg (bits w 115 5))) false .outside

/-- LDD (R140): a descriptor read of 128 bytes at VA A + B is issued, and the slot waits. -/
def execLdd (r : Fin 16) (k : Fin 4) (s : State) : Host.Outcome State Fault Refusal :=
  s.onWord r k .ldd fun s w va =>
    let x := s.slot r k
    let a := (x.sreg (bits w 110 5) + sregB x w) % 2 ^ 48
    if ¬ sregClean w ∨ bit w 119 ∨ a % 128 ≠ 0 then s.illegal r k va w else s.waitFor r k (.ldd (bits w 115 4) a)

/-- Whether an LDD of a descriptor registers a digest task (R482, R487). -/
def State.digestOn (s : State) (r : Nat) : Bool := s.flag 0 F.det_ctl_dg && s.flag 0 F.det_dr_en r

/-- A legal descriptor fills its slot; with dg it registers a digest task, of which an item holds at most 64 (R146, R482). -/
def State.fillDesc (s : State) (r k ds va : Nat) (x : Desc) : State :=
  let y := s.slot r k
  let task := x.dg && s.digestOn r
  if task ∧ 64 ≤ y.digests.length then s.itemFault r k va ⟨0x4005, ds⟩
  else
    let s := s.updSlot r k fun y =>
      { y with
        desc := assocPut ds x y.desc
        digests := if task then y.digests ++ [⟨ds, x, false, false, true, []⟩] else y.digests }
    s.resume r k

/-- LDD_COMPLETE (R146, R274, R482): the descriptor returns, is checked and fills its slot, or faults the item. -/
def execLddComplete (r : Fin 16) (k : Fin 4) (s : State) : Host.Outcome State Fault Refusal :=
  if s.tripped then .next s else
  let x := s.slot r k
  match x.wait with
  | .ldd ds va =>
    if s.vaStalls r x.ctx va 128 .read 1 then .next s else
    let d := dieOfRegion r
    let t := s.translate d (some (r % 8)) x.ctx va .read 1
    match t.2 with
    | .error f => .next (t.1.itemFault r k (x.pc - 16) f)
    | .ok pa =>
      let q := t.1.read d pa 128
      match checkDesc q.data with
      | none => .next (q.st.itemFault r k (x.pc - 16) ⟨0x4003, ds⟩)
      | some y => .next (q.st.fillDesc r k ds (x.pc - 16) y)
  | _ => .next s

/-- The value of an RDT source (R140); none for a reserved one. -/
def rdtSource (s : State) (x : Slot) (imm : Nat) : Option Nat :=
  match imm % 256 with
  | 0 => some (satAt max32 x.nan)
  | 1 => some (satAt max32 x.inf)
  | 2 => some (satAt max32 x.ovf)
  | 3 => some x.poisoned
  | 4 => some (b2n x.emptyLoop)
  | 5 => some (x.flag (bits imm 8 6))
  | 6 => some (s.clk - x.startClk)
  | _ => none

/-- RDT (R140, R496, R497): a tally, flag or clock source, or in replay the value of the next entry, goes to rd. -/
def execRdt (r : Fin 16) (k : Fin 4) (s : State) : Host.Outcome State Fault Refusal :=
  s.onWord r k .rdt fun s w va =>
    let x := s.slot r k
    let imm := bits w 0 14
    let unused := bits w 14 101 ≠ 0 ∨ (imm % 256 ≠ 5 ∧ bits imm 8 6 ≠ 0)
    match rdtSource s x imm with
    | none => s.illegal r k va w
    | some v =>
      if unused then s.illegal r k va w
      else if x.replay then
        let q := s.replayEntry r
        match q.2 with
        | some e =>
          if x.replays 3 e then (q.1.replayNext r).updSlot r k fun y => y.setSreg (bits w 115 5) (bits e 0 64)
          else q.1.diverge r k
        | none => q.1.diverge r k
      else (s.updSlot r k fun y => y.setSreg (bits w 115 5) v).trace r k 3 v

/-! ## TEST (R141) -/

/-- Whether a condition holds on A and B; none for a reserved one. -/
def testCond (c a b : Nat) : Option Bool :=
  match c with
  | 0 => some (a = b)
  | 1 => some (a ≠ b)
  | 2 => some (a < b)
  | 3 => some (b ≤ a)
  | 4 => some (signed 64 a < signed 64 b)
  | 5 => some (signed 64 b ≤ signed 64 a)
  | 6 => some true
  | _ => none

/-- The word of slot `k`'s program at a VA: as its program buffer holds it, else as memory does. -/
def State.progWord (s : State) (r ctx va : Nat) : Option Nat :=
  match (s.rg r).wordAt ctx va with
  | some w => some w
  | none =>
    match (s.translate (dieOfRegion r) (some (r % 8)) ctx va .fetch 0).2 with
    | .error _ => none
    | .ok pa => some (s.viewNat pa 16)

/-- Whether one of the `n` words from `va` on begins a loop that holds the word at `t`, in its body or as its end. -/
def State.loopHolds (s : State) (r ctx t : Nat) : Nat → Nat → Bool
  | 0, _ => false
  | n + 1, va =>
    (match s.progWord r ctx va with
      | some w => opOf w = some .loopBegin && va < t && t ≤ va + 16 * (bits w 0 16 + 1)
      | none => false) || s.loopHolds r ctx t n (va + 16)

/-- Whether a branch target lies within the body of the innermost open loop, or outside every loop when none is open (R141). The loops
are those that begin between the program's first word and the target, within the reach of an nb (assumption 129). -/
def State.targetOk (s : State) (r k : Nat) (va : Int) : Bool :=
  let x := s.slot r k
  match x.loops.getLast? with
  | some l => (l.va : Int) < va && va ≤ l.va + 16 * l.nb
  | none =>
    let t := wrap 48 va
    let n := min 65536 ((t - x.prog) / 16)
    !s.loopHolds r x.ctx t n (t - 16 * n)

/-- Whether the fields that a TEST does not use are 0: register or immediate as bi says, and all of the operands under "always" (R134,
R141). -/
def testClean (w : Nat) : Bool :=
  bits w 96 14 = 0 && (if bit w 110 then bits w 111 5 = 0 else bits w 0 64 = 0) &&
    (bits w 121 3 ≠ 6 || (bits w 110 11 = 0 && bits w 0 64 = 0))

/-- TEST (R141): a branch when the condition holds. The target is checked whether or not it is taken, before the rest (R156). -/
def execTest (r : Fin 16) (k : Fin 4) (s : State) : Host.Outcome State Fault Refusal :=
  s.onWord r k .test fun s w va =>
    let x := s.slot r k
    let a := x.sreg (bits w 116 5)
    let b := if bit w 110 then bits w 0 64 else x.sreg (bits w 111 5)
    let dst : Int := va + 16 * signed 32 (bits w 64 32)
    if ¬ s.targetOk r k dst then s.loopError r k va x.loops.length
    else
      match testCond (bits w 121 3) a b with
      | none => s.illegal r k va w
      | some t =>
        if ¬ testClean w then s.illegal r k va w
        else if t then s.updSlot r k fun y => { y with pc := wrap 48 dst } else s

/-! ## Waits, program lines and settings (R159, R163, R164, R170) -/

/-- WAIT_WATCHDOG (R159, R165): a wait longer than the clocks that `dlr.wd` gave as it began raises event 0x4008 once. -/
def execWaitWatchdog (r : Fin 16) (k : Fin 4) (s : State) : Host.Outcome State Fault Refusal :=
  if s.tripped then .next s else
  let x := s.slot r k
  let covered : Bool := match x.wait with
    | .waitf _ _ | .sync _ _ | .fence | .bound | .waita _ => true
    | _ => false
  let d := dieOfRegion r
  if ¬ covered ∨ x.wdSeen ∨ x.wdLim = 0 then .next s
  else
    let s := s.updSlot r k fun y => { y with wdSeen := true }
    .next (s.raise d 0x04 0x4008 (x.waitCode + r % 8 * 16 + k * 256) { ctx := x.ctx, region := r % 8 })

/-- Whether a program-buffer drop's word covers a context in a region (R170). -/
def pbCovers (v i ctx : Nat) : Bool := bit v i && (bit v 30 || bits v 8 12 = ctx)

/-- PROGRAM_FETCH (R139, R163, R164, R274): the line that slot `k` misses is read from memory and replaces the least recently used of
16, and the slot resumes; a line under a running drop waits for it. -/
def execProgramFetch (r : Fin 16) (k : Fin 4) (s : State) : Host.Outcome State Fault Refusal :=
  if s.tripped then .next s else
  let x := s.slot r k
  let d := dieOfRegion r
  let held : Bool := match (s.ctxd.get d).pbRun with
    | some v => pbCovers v (r % 8) x.ctx
    | none => false
  match x.wait with
  | .fetch a =>
    let va := a / 4096 * 4096
    if held ∨ s.vaStalls r x.ctx va 4096 .fetch 0 then .next s
    else
      let t := s.translate d (some (r % 8)) x.ctx va .fetch 0
      match t.2 with
      | .error f => .next (t.1.itemFault r k x.pc f)
      | .ok pa =>
        let q := t.1.read d pa 4096
        let line : PbLine := ⟨x.ctx, va, q.data⟩
        .next ((q.st.updRg r fun g => { g with pbuf := (line :: g.pbuf).take 16 }).resume r k)
  | _ => .next s

/-- A drop starts: the selected lines leave the program buffers of the die's regions (R164, R170). -/
def State.pbStart (s : State) (d v : Nat) : State :=
  let s := s.updCtx d fun x => { x with pbRun := some v }
  let s := s.setFld d F.dlr_pbinv_go 1
  (List.range 8).foldl (fun s i => s.updRg (8 * d + i) fun g =>
    { g with pbuf := g.pbuf.filter fun l => !pbCovers v i l.ctx }) s

/-- A write of `dlr.pbinv` with go = 1, its fields already stored (R170): the drop starts, or is held behind a running one. -/
def State.onPbinv (s : State) (d v : Nat) : State :=
  if (s.ctxd.get d).pbRun.isSome then s.updCtx d fun x => { x with pbHeld := some v } else s.pbStart d v

/-- PBINV_DONE (R164, R170): the drop has completed, go clears, and a held drop starts. -/
def execPbinvDone (d : Fin 2) (s : State) : Host.Outcome State Fault Refusal :=
  if s.tripped then .next s else
  let x := s.ctxd.get d
  if x.pbRun.isNone then .next s
  else
    let s := (s.updCtx d fun y => { y with pbRun := none, pbHeld := none }).setFld d F.dlr_pbinv_go 0
    match x.pbHeld with
    | some v => .next (s.pbStart d v)
    | none => .next s

/-- A write of `dlr.db` on die `d` (R128, R157, R263): the tail of one context in one region, and with rs = 1 the release of a
halt. A context with a pending item joins the fill queue, and so does one whose fill was refused or whose entry gives no ring size. -/
def State.onDoorbell (s : State) (d v : Nat) : State :=
  let c := bits v 16 12
  let i := bits v 28 3
  let tail := v % 65536
  let n := s.ctxField c 0x0C 1
  let x := s.doorbell d c i
  let x := if bit v 31 then { x with halt := false } else x
  if 4 ≤ n ∧ n ≤ 16 ∧ 2 ^ n ≤ tail then
    (s.setDoorbell d x).raise d 0x04 0x4009 c { ctx := c, region := i }
  else
    let s := s.setDoorbell d { x with tail }
    if s.pending? d c ∨ ¬ (4 ≤ n ∧ n ≤ 16) ∨ (s.ctxd.get d).badSeen.contains c then s.joinFill d c else s

/-- A write of `dlr.kill` on die `d` (R158): the running item of the slot faults with code 0x400B. -/
def State.onKill (s : State) (d v : Nat) : State :=
  let r := 8 * d + bits v 2 3
  let k := v % 4
  if (s.slot r k).st = .running then s.itemFault r k (s.slot r k).pc ⟨0x400B, k⟩ else s

/-! ## Taking items (R129 to R131, R160 to R162, R261, R268, R513) -/

/-- An entry of a schedule starts its program (R161, R162), or faults the item. -/
def State.startEntry (s : State) (r k : Nat) (c : Sched) : State :=
  let x := s.slot r k
  let d := dieOfRegion r
  let t := s.translate d (some (r % 8)) x.ctx ((c.ent + 8 * x.entry) % 2 ^ 48) .read 3
  match t.2 with
  | .error f => t.1.itemFault r k x.itemVa f
  | .ok pa =>
    let q := t.1.read d pa 8
    let e := leNat q.data
    let vs := bits e 32 3
    let prog := if bit e 35 then dim c.bwd vs else dim c.fwd vs
    let s := q.st
    if bits e 36 28 ≠ 0 ∨ c.nvs ≤ vs ∨ prog = 0 then s.itemFault r k x.itemVa ⟨0x400A, x.entry⟩
    else
      let s := s.updSlot r k fun y =>
        { (((y.setSreg 4 (bits e 0 32)).setSreg 5 vs).setSreg 6 (bits e 35 1)) with prog := prog % 2 ^ 48, pc := prog % 2 ^ 48 }
      s.trace r k 5 x.entry

/-- The schedule that a header of 256 bytes gives; none for a malformed one (R160). -/
def schedOf (b : List Byte) : Option Sched :=
  let n := leAt b 0 2
  let v := leAt b 2 1
  let ent := leAt b 8 8
  let tail := leNat (b.drop 0x90)
  if n = 0 ∨ 4096 < n ∨ v = 0 ∨ 8 < v ∨ leAt b 3 5 ≠ 0 ∨ ent % 8 ≠ 0 ∨ 2 ^ 48 ≤ ent ∨ tail ≠ 0 then none
  else some ⟨n, v, ent, (List.range 8).map fun i => leAt b (0x10 + 16 * i) 8, (List.range 8).map fun i => leAt b (0x18 + 16 * i) 8⟩

/-- An item with sch = 1 reads its schedule header and starts its first entry (R160, R162). -/
def State.startSched (s : State) (r k : Nat) : State :=
  let x := s.slot r k
  let d := dieOfRegion r
  let t := s.translate d (some (r % 8)) x.ctx x.prog .read 3
  match t.2 with
  | .error f => t.1.itemFault r k x.itemVa f
  | .ok pa =>
    let q := t.1.read d pa 256
    match schedOf q.data with
    | none => q.st.itemFault r k x.itemVa ⟨0x400A, 0⟩
    | some c => (q.st.updSlot r k fun y => { y with sched := some c }).startEntry r k c

/-- Whether a work item is malformed (R129). -/
def itemBad (b : List Byte) : Bool :=
  let prog := leAt b 0 8
  let flags := leAt b 0x20 4
  2 ^ 48 ≤ prog || flags / 4 ≠ 0 || leNat (b.drop 0x28) ≠ 0 || leAt b 0x18 8 % 32 ≠ 0 ||
    prog % (if bit flags 1 then 256 else 16) ≠ 0

/-- The quota allows a context on a die (R268). -/
def State.quotaOk (s : State) (d c : Nat) : Bool :=
  let qt := s.ctxField c 0x3C 4
  qt = 0 || (match s.cached d c with
    | some e => e.quota < qt * quotaUnit
    | none => false)

/-- A quota refusal is counted, and reported once in a period for a context and die, with the epoch (R268, R286). -/
def State.quotaRefuse (s : State) (d c : Nat) : State :=
  let s := s.tally 0 R.ctx_t_qstall d
  if (s.ctxd.get d).qSeen.contains c then s
  else (s.updCtx d fun x => { x with qSeen := c :: x.qSeen }).raise d 0x02 0x5011 (c + d * 65536 + s.epoch * 2 ^ 32) { ctx := c }


/-- The address of the item at the head of a context's queue (R127). -/
def State.itemAddr (s : State) (c r : Nat) : Nat :=
  s.queueAddr c r + 64 + 64 * (s.queueHead c r % 2 ^ s.ctxField c 0x0C 1)

/-- The gate of an armed cut refuses the item of its context at the head of a queue when the item's step, read from memory, lies beyond
it (R21, R513). -/
def State.gated (s : State) (c r : Nat) : State × Bool :=
  match s.ckp.gate with
  | some (g, n) =>
    if c = g then
      let q := s.read (dieOfRegion r) (s.itemAddr c r + 8) 8
      (q.st, n < leNat q.data)
    else (s, false)
  | none => (s, false)

/-- The contexts that may give region `r` an item, checked in order of their ids (R130, R261, R268); what the checks report
is in the state. An entry that gives no ring size is checked too, and fails (R260). -/
def State.candidates (s : State) (r : Nat) : State × List Nat :=
  let d := dieOfRegion r
  let i := r % 8
  let sized (c : Nat) : Bool := 4 ≤ s.ctxField c 0x0C 1 && s.ctxField c 0x0C 1 ≤ 16
  let some? (c : Nat) : Bool := (s.hasItem d c i || !sized c) && !(s.doorbell d c i).halt &&
    !(s.rg r).slots.any fun k => k.st ≠ .idle && k.ctx = c
  ((s.ctxd.get d).cache.map (·.ctx)).foldl
    (fun q c =>
      if ¬ some? c then q
      else
        let x := q.1.checkEntry d c
        if ¬ x.2 ∨ s.ctxField c 0 1 ≠ 1 ∨ ¬ bit (s.ctxField c 0x38 2) r then (x.1, q.2)
        else if ¬ s.quotaOk d c then (x.1.quotaRefuse d c, q.2)
        else
          let g := x.1.gated c r
          if g.2 then (g.1.tally 0 R.ckp_t_gate, q.2) else (g.1, q.2 ++ [c]))
    (s, [])

/-- The candidate that wins: the highest priority, then the lowest id above the context last started, wrapping round (R130). -/
def State.chooseCtx (s : State) (r : Nat) (l : List Nat) : Option Nat :=
  let last := (s.rg r).lastCtx
  let key (c : Nat) : Nat := (7 - s.prio c) * 8192 + (c + 4096 - last - 1) % 4096
  l.foldl (fun b c => match b with
    | none => some c
    | some x => if key c < key x then some c else some x) none

/-- Whether a context is a twin context in region `r` (R489). -/
def State.isTwin (s : State) (r c : Nat) : Bool :=
  let m := s.fld 0 F.det_tw_rmask
  match s.fld 0 F.det_tw_mode with
  | 1 => bit m (r % 8) && c = s.fld 0 (if r < 8 then F.det_tw_ctx_a else F.det_tw_ctx_b)
  | 2 => bit m r && c = s.fld 0 F.det_tw_ctx_a
  | _ => false

/-- The highest step of the checkpoint context taken since its descriptor was loaded (R516). -/
def State.noteStep (s : State) (c step : Nat) : State :=
  let base := s.fld 0 F.ckp_desc_base * 256
  if base = 0 ∨ s.viewNat (base + 4) 2 % 4096 ≠ c then s
  else { s with ckp := { s.ckp with top := some (max step (s.ckp.top.getD 0)) } }

/-- Slot `k` takes the item of context `c` whose 64 bytes at `a` are `b` (R129 to R131); while twin lockstep is halted a slot of a
twin context decodes nothing (R493). -/
def State.startItem (s : State) (r k c a : Nat) (b : List Byte) : State :=
  let d := dieOfRegion r
  let no := (assocGet c (s.rg r).started).getD 0
  let flags := leAt b 0x20 4
  let dg := s.digestOn r && s.ctxField c 0x28 16 ≠ 0
  let devid := s.fld 0 F.boot_devid_site * 16384 + s.actId d
  let fresh : Slot := { Slot.reset with
    st := .running, ctx := c, prog := leAt b 0 8 % 2 ^ 48, pc := leAt b 0 8 % 2 ^ 48, itemVa := a, step := leAt b 8 8,
    cpl := leAt b 0x18 8, iflags := flags, tag := leAt b 0x24 4, item := no, startClk := s.clk,
    progDig := if dg then some 0 else none, traced := bit (s.ctxField c 2 2) 2, replay := s.flag 0 F.det_ctl_rp }
  let fresh := ((fresh.setSreg 1 (leAt b 0x10 8)).setSreg 2 (leAt b 8 8)).setSreg 3 r
  let fresh := fresh.setSreg 7 devid
  let s := s.updSlot r k fun _ => fresh
  let s := s.updRg r fun g => { g with lastCtx := c, started := assocPut c (no + 1) g.started }
  let s := (s.updCached d c fun e => { e with last := s.clk }).noteStep c (leAt b 8 8)
  let s := if fresh.replay then s.replayNext r else s.trace r k 1 a
  let s := if itemBad b then s.itemFault r k a ⟨0x4009, c⟩ else if bit flags 1 then s.startSched r k else s
  if s.isTwin r c ∧ s.fld 0 F.det_stat_tw = 2 ∧ (s.slot r k).st = .running then s.waitFor r k .stopped else s

/-- Slot `k` of region `r` takes the oldest pending item of context `c`: head is written, and the item starts (R130). -/
def State.takeItem (s : State) (r k c : Nat) : State :=
  let a := s.itemAddr c r
  let d := dieOfRegion r
  let q := s.read d a 64
  let base := q.st.queueAddr c r
  let h := q.st.read d base 8
  let head := (leAt h.data 0 4 + 1) % 2 ^ q.st.ctxField c 0x0C 1
  (h.st.writeRaw d base (leBytes 4 head ++ h.data.drop 4 ++ List.replicate 56 0)).startItem r k c a q.data

/-- Whether region `r` takes items: its bit of `dlr.ctl.en` is set, the image is loaded, and neither a failure nor a trip stops it (R130). -/
def State.takesItems (s : State) (r : Nat) : Bool :=
  let d := dieOfRegion r
  bit (s.fld d F.dlr_ctl_en) (r % 8) && s.flag 0 F.boot_stat_loaded && !s.flag d F.rec_stat_fail && !s.flag 0 F.pwr_stat_trip

/-- ITEM_TAKE (R130): the lowest free slot of region `r` takes the oldest pending item of the chosen context, and head is
written. -/
def execItemTake (r : Fin 16) (s : State) : Host.Outcome State Fault Refusal :=
  if s.tripped then .next s else
  match (List.range 4).find? fun k => (s.slot r k).st = .idle with
  | none => .next s
  | some k =>
    if ¬ s.takesItems r then .next s
    else
      let x := s.candidates r
      match x.1.chooseCtx r x.2 with
      | none => .next x.1
      | some c => .next (x.1.takeItem r k c)

/-! ## END (R133, R162) -/

/-- END (R133, R162): the next entry of a schedule starts, or the item goes on to complete. -/
def execEndProgram (r : Fin 16) (k : Fin 4) (s : State) : Host.Outcome State Fault Refusal :=
  s.onWord r k .end_ fun s w va =>
    if ¬ ctrlClean w false false false then s.illegal r k va w
    else
      let x := s.slot r k
      let s := s.trace r k 6 (s.clk - x.firstClk)
      if (s.slot r k).wait = .stopped then s
      else
        match x.sched with
        | some c =>
          if x.entry + 1 < c.nent then
            (s.updSlot r k fun y => { y with entry := y.entry + 1, loops := [] }).startEntry r k c
          else s.updSlot r k fun y => { y with st := .completing, endDone := true }
        | none => s.updSlot r k fun y => { y with st := .completing, endDone := true }

/-! ## The end of a clock -/

/-- A region's clock ends (R175): clocks with items and no ready slot, and slot-clocks in SYNC, are counted. -/
def State.regionClock (s : State) (r : Nat) : State :=
  let g := s.rg r
  let busy := g.slots.any fun k => k.st ≠ .idle
  let ready := g.slots.any Slot.ready
  let sync := (g.slots.filter fun k => match k.wait with
    | .sync _ _ => true
    | _ => false).length
  let s := if busy ∧ ¬ ready then s.tally (dieOfRegion r) R.dlr_t_stall (r % 8) else s
  if sync = 0 then s else s.tally (dieOfRegion r) R.dlr_t_sync (r % 8) sync

end Sys2Proof.Machine
end

