-- ==== Sys2Proof/Machine/DealerHands.lean ====
section
/-! DEFINITION. Collecting a hand's words and dealing it to its cluster (R136, R148, R150, R152 to R156, R482, R492). -/

namespace Sys2Proof.Machine

/-! ## The HAND word and its words (R134, R136) -/

/-- Whether a HAND word's reserved fields are 0 and its encodings legal (R136). -/
def handClean (w : Nat) : Bool :=
  bits w 88 3 = 0 && bits w 0 50 = 0 && (!bit w 117 || bits w 114 3 = 0) && bits w 96 3 < 7 &&
    (bit w 91 || bits w 50 38 = 0)

/-- Whether a word may stand inside a hand (R134). -/
def inHand (w : Nat) : Bool := 2 ≤ wordClass w && wordClass w ≤ 4

/-- The slot decodes the words of its open hand that its program buffer holds: it stops at the last, at a word that is not
in the buffer, and at a fault. -/
def State.collectWords : Nat → State → Nat → Nat → State
  | 0, s, _, _ => s
  | n + 1, s, r, k =>
    let x := s.slot r k
    match x.hand with
    | none => s
    | some h =>
      if bits h.w 118 6 + 1 ≤ h.words.length then s
      else
        match (s.rg r).wordAt x.ctx x.pc with
        | none => s.updSlot r k fun y => { y with wait := .fetch x.pc }
        | some w =>
          let t := s.decoded r k w
          if inHand w then
            (t.updSlot r k fun y => { y with hand := some { h with words := h.words ++ [w] } }).collectWords n r k
          else t.illegal r k x.pc w

/-- HAND (R136): the slot decodes a HAND word and the words of the hand, or goes on with those of a hand whose words a missing
line held up. -/
def execHand (r : Fin 16) (k : Fin 4) (s : State) : Host.Outcome State Fault Refusal :=
  let x := s.slot r k
  if x.hand.isSome then
    if s.decodes r k then .next (s.collectWords 65 r k) else .next s
  else
    s.onWord r k .hand fun s w va =>
      if ¬ handClean w then s.illegal r k va w
      else (s.updSlot r k fun y => { y with hand := some ⟨w, va, []⟩ }).collectWords 65 r k

/-! ## Adjusting and checking the words (R152, R156) -/

/-- An MMA word under loop control: `first` and `last` say whether this is the first iteration of loop kl and its last (R152
step 2). -/
def loopAdjust (first last : Bool) (w : Nat) : Nat :=
  if wordClass w ≠ 2 ∨ bit w 107 then w
  else
    let w := if bit w 112 ∧ ¬ first then putBits w 112 1 0 else w
    if (bits w 110 2 = 1 ∨ bits w 110 2 = 2) ∧ ¬ last then putBits w 110 2 0 else w

/-- Add the buffer offset to an MMA's bases (R152 step 1) and check it (R66); scale bases count for MX formats only. -/
def dealMma (bo w : Nat) : Except FaultInfo HandWord :=
  let a := bits w 48 16 + bo
  let b := bits w 32 16 + bo
  let sa := if (mmaA w).isMx then bits w 16 16 + bo else bits w 16 16
  let sb := if (mmaB w).isMx then bits w 0 16 + bo else bits w 0 16
  if mmaLegal w a b sa sb then
    .ok ⟨putBits (putBits (putBits (putBits w 48 16 a) 32 16 b) 16 16 sa) 0 16 sb, .waiting, none, 0, 0, 0, 0⟩
  else .error ⟨0x4001, illegalDetail 2 0⟩

/-- Add the buffer offset to a vector run's off and check it (R110, R152): against the entry of `chain`, where the table that the run
will meet is known. -/
def dealVrun (chain : Option (List Nat)) (bo w : Nat) : Except FaultInfo HandWord :=
  let off := bits w 80 16 + bo
  let v := putBits w 80 16 off
  if bits w 48 32 = 0 ∧ off < 65536 ∧ (chain.all fun t => vrunFits (chainEntry t (bits w 121 3)) v) then
    .ok ⟨v, .waiting, none, 0, 0, 0, 0⟩
  else .error ⟨0x4001, illegalDetail 3 0⟩

/-- A word as delivered, or the fault that keeps its hand from being dealt. -/
def dealWord (x : Slot) (chain : Option (List Nat)) (bo : Nat) (w : Nat) : Except FaultInfo HandWord :=
  match wordClass w with
  | 2 => dealMma bo w
  | 3 => dealVrun chain bo w
  | _ =>
    match dmaJob x bo w with
    | .ok j => .ok ⟨w, .waiting, some j, 0, 0, 0, 0⟩
    | .error f => .error f

/-- The delivered words, or the index of the first word that fails with its fault. -/
def dealWords (x : Slot) (chain : Option (List Nat)) (bo : Nat) : Nat → List Nat → Except (Nat × FaultInfo) (List HandWord)
  | _, [] => .ok []
  | i, w :: ws =>
    match dealWord x chain bo w with
    | .error f => .error (i, f)
    | .ok y =>
      match dealWords x chain bo (i + 1) ws with
      | .ok l => .ok (y :: l)
      | .error e => .error e

/-- Whether the delivered words use od: for dealing, for masks, or for drains and partials, which need cluster space (R136). -/
def odUses (deal : Bool) (ws : List Nat) : Bool × Bool :=
  let out := ws.any fun w => isMmaOut w 1 || isMmaOut w 2
  let msk := ws.any fun w => (wordClass w = 2 && bit w 109) || (wordClass w = 3 && bit w 120)
  (deal || out || msk, out)

/-- The od tile of a hand that uses it, or the fault of a slot that cannot serve (R136). -/
def odTile (x : Slot) (od : Nat) (needCluster : Bool) : Except FaultInfo Tile :=
  match assocGet od x.desc with
  | none => .error ⟨0x4003, od⟩
  | some y =>
    if needCluster ∧ ¬ y.cluster then .error ⟨0x4003, od⟩
    else
      let t := y.tile x
      match t.overflow od with
      | some f => .error f
      | none => .ok t

/-! ## Twin contexts (R489, R492) -/

/-- Hands of an item that have compared equal in region `r`. -/
def State.compared (s : State) (r item : Nat) : Nat := if (s.rg r).twItem = item then (s.rg r).twDone else 0

/-- Whether a slot's hand number runs too far ahead of its twin (R492). -/
def State.twinLag (s : State) (r k : Nat) : Bool :=
  let x := s.slot r k
  s.isTwin r x.ctx && s.compared r x.item + s.fld 0 F.det_tw_lag ≤ x.handNo

/-! ## Digest tasks (R482) -/

/-- The last task registered for a descriptor slot is marked used; a LOAD as its first use asks for an input digest over the
extents of that moment. -/
def useTask (x : Slot) (ds : Nat) (load : Bool) (l : List DigestTask) : List DigestTask :=
  match indexWhere (fun t => t.dslot = ds) l.reverse with
  | none => l
  | some n =>
    listMod l (l.length - 1 - n) fun t =>
      if t.used then t
      else { t with used := true, input := load, v := if load then (List.range 4).map (t.desc.extent x) else t.v }

/-- The uses of descriptor slots by a dealt hand, in order (R482). -/
def Slot.useDescs (x : Slot) (od : Option Nat) (ws : List HandWord) : Slot :=
  let l := match od with
    | some n => useTask x n false x.digests
    | none => x.digests
  { x with digests := ws.foldl (fun l w => match w.dma with
      | some j => if j.op < 2 then useTask x j.dslot (j.op = 0) l else l
      | none => l) l }

/-! ## Dealing (R148, R152 to R155) -/

/-- The chain set at a VA of context `ctx` as memory holds it; none where the translation faults, which the load of the set reports. -/
def State.chainSetAt (s : State) (r ctx va : Nat) : Option (List Nat) :=
  match (s.translate (dieOfRegion r) (some (r % 8)) ctx va .read 1).2 with
  | .error _ => none
  | .ok pa => some (chainWords (s.view pa 1024))

/-- The chain set that a HAND word names (R99, R136). -/
def handSet (w : Nat) : Option Nat := if bit w 91 then some (bits w 50 38 * 1024) else none

/-- The chain table that a hand of context `ctx` dealt now to cluster `c` will meet: the set that it names, else that of the last
hand before it that names one and has not loaded it, else the cluster's table (R99; assumption 23). -/
def State.chainAhead (s : State) (c ctx : Nat) (own : Option Nat) : Option (List Nat) :=
  let x := s.cl c
  let sets := (x.run.toList.filter (fun _ => !x.loaded) ++ x.queue).filterMap fun h => h.cset.map fun va => (h.ctx, va)
  match own, sets.getLast? with
  | some va, _ => s.chainSetAt (regionOf c) ctx va
  | none, some (q, va) => s.chainSetAt (regionOf c) q va
  | none, none => some x.chain

/-- The fault of the chain set that a hand names, as memory holds it at dealing (R99, R156). -/
def State.setFault (s : State) (c ctx : Nat) (own : Option Nat) : Option FaultInfo :=
  (own.bind (s.chainSetAt (regionOf c) ctx)).bind chainSetFault

/-- The number of hands that a cluster holds. -/
def Cluster.holds (x : Cluster) : Nat := x.queue.length + b2n x.run.isSome

/-- The loss-scale exponent of a hand dealt now (R48, R269). -/
def State.dealScale (s : State) (x : Slot) : Int :=
  let v := s.ctxField x.ctx 0x0B 1
  if v = 0x80 then x.lscale else signed 8 v

/-- The hand that slot `x` of region `r` deals (R40, R48, R154). -/
def State.dealtHand (s : State) (r k : Nat) (x : Slot) (h : OpenHand) (used : Bool) (ws : List HandWord) : Hand :=
  let pred (n : Nat) : Nat := if n = 0 then max32 else x.sreg n % 2 ^ 32
  let rp := pred (bits h.w 109 5)
  let cp := pred (bits h.w 104 5)
  let od := (assocGet (bits h.w 92 4) x.desc).map fun y => y.tile x
  let mask (i p : Nat) : Nat := match od with
    | some t => if used then t.mask i p else p
    | none => p
  { region := r, slot := k, ctx := x.ctx, item := x.item, seq := x.handNo, va := h.va, words := ws
    rmask := mask 1 rp, cmask := mask 0 cp, odSlot := bits h.w 92 4, od
    cset := handSet h.w
    seed := s.ctxField x.ctx 0x20 8, step := x.step, lscale := s.dealScale x, dkey := s.ctxField x.ctx 0x28 16
    twin := s.isTwin r x.ctx, bubble := false, startClk := 0, poison := false, fault := false, digest := 0, nblk := 0 }

/-- The hand, whole and checked, goes to the queue of its cluster, or the slot waits for room (R155, R492). -/
def State.dealTo (s : State) (r k c : Nat) (h : OpenHand) (used : Bool) (ws : List HandWord) : State :=
  let x := s.slot r k
  if 5 ≤ (s.cl c).holds ∨ s.twinLag r k then
    if x.wait = .handFull then s else s.waitFor r k .handFull
  else
    let y := s.dealtHand r k x h used ws
    let s := s.updCl c fun z => { z with queue := z.queue ++ [y] }
    let s := s.updSlot r k fun z =>
      { (z.useDescs (if used then some y.odSlot else none) ws) with
        hand := none, wait := .none, wdSeen := false, handNo := z.handNo + 1, hands := z.hands + 1, dealt := true
        lscale := y.lscale }
    s.tally (dieOfRegion r) R.dlr_t_hand (r % 8)

/-- The od tile of a hand lies beyond a valid extent: the hand is not dealt and counts as skipped (R148). -/
def State.skipHand (s : State) (r k : Nat) : State :=
  (s.updSlot r k fun y => { y with hand := none, wait := .none, skipped := y.skipped + 1 }).tally (dieOfRegion r)
    R.dlr_t_skip (r % 8)

/-- The hand's words after the checks on od: the chain set that the hand names and the words as delivered to cluster `c` are checked,
and the first that fails faults the item (R152, R156). A hand whose tile is skipped has its words checked too; it is not dealt. -/
def State.dealChecked (s : State) (r k c : Nat) (h : OpenHand) (used skip : Bool) (ws : List Nat) : State :=
  let x := s.slot r k
  let bo := if bits h.w 99 5 = 0 then 0 else x.sreg (bits h.w 99 5) % 65536
  match s.setFault c x.ctx (handSet h.w) with
  | some f => s.itemFault r k h.va f
  | none =>
    match dealWords x (s.chainAhead c x.ctx (handSet h.w)) bo 0 ws with
    | .error (i, f) => s.itemFault r k (h.va + 16 * (i + 1)) f
    | .ok l => if skip then s.skipHand r k else s.dealTo r k c h used l

/-- The hand `h` whose words slot `k` holds is adjusted to its loop and its tile, checked and dealt, or skipped (R136, R148, R150). -/
def State.dealHand (s : State) (r k : Nat) (h : OpenHand) : State :=
  let x := s.slot r k
  let kl := bits h.w 96 3
  if kl ≠ 0 ∧ x.loops.length < kl then s.loopError r k h.va kl
  else
    let lp := if kl = 0 then none else x.loops[kl - 1]?
    let first : Bool := match lp with
      | some l => l.i = 0
      | none => true
    let last : Bool := match lp with
      | some l => l.i + 1 = l.n
      | none => true
    let ws := h.words.map (loopAdjust first last)
    let use := odUses (bit h.w 117) ws
    if use.1 then
      match odTile x (bits h.w 92 4) use.2 with
      | .error f => s.itemFault r k h.va f
      | .ok t => s.dealChecked r k (8 * r + (if bit h.w 117 then t.dealNo % 8 else bits h.w 114 3)) h true t.beyond ws
    else s.dealChecked r k (8 * r + bits h.w 114 3) h false false ws

/-- HAND_DEAL (R136, R148, R150, R152 to R156): the hand whose last word slot `k` has decoded is adjusted, checked and dealt. -/
def execHandDeal (r : Fin 16) (k : Fin 4) (s : State) : Host.Outcome State Fault Refusal :=
  if s.tripped then .next s else
  let x := s.slot r k
  match x.hand with
  | none => .next s
  | some h =>
    .next (if x.collecting ∨ x.st ≠ .running ∨ (x.wait ≠ .none ∧ x.wait ≠ .handFull) then s else s.dealHand r k h)

end Sys2Proof.Machine
end

