-- ==== Sys2Proof/Machine/Fabric.lean ====
section
/-! DEFINITION. Fabric messages, forwarding, the link layer's sending side, and remote requests (R287 to R303). -/

namespace Sys2Proof.Machine

/-! ## Messages (R289 to R292) -/

/-- The node id that a die acts under (R26, R538). -/
def State.node (s : State) (d : Nat) : Nat := 2 * s.actId d + d

/-- The node id of a die in PEER exchanges, heartbeats and the election: its own identity (R296, R538). -/
def State.ownNode (s : State) (d : Nat) : Nat := 2 * s.fld 0 F.boot_devid_local + d

/-- Data slots that follow the header slot of a message. -/
def Msg.len (m : Msg) : Nat := (m.data.length + 15) / 16

/-- The len field: the slots that an RD asks for, else those that follow (R290, R291). -/
def Msg.lenField (m : Msg) : Nat := if m.kind = 1 then m.want else m.len

/-- The header slot (R290). -/
def Msg.header (m : Msg) : Nat :=
  m.kind % 16 * 2 ^ 124 + m.dst % 2 ^ 15 * 2 ^ 107 + m.src % 2 ^ 15 * 2 ^ 92 + m.lenField % 512 * 2 ^ 83 + b2n m.fx * 2 ^ 82 +
    m.low % 2 ^ 82

/-- The slots of a message: header, then data filled to whole slots. -/
def Msg.slots (m : Msg) : List Nat := m.header :: (pieces 16 m.data).map leNat

/-- A message from its header slot and its data slots. -/
def msgOf (h : Nat) (data : List Nat) : Msg :=
  ⟨bits h 124 4, bits h 107 15, bits h 92 15, bit h 82, bits h 0 82, bits h 83 9, (data.map (leBytes 16)).flatten⟩

/-- The virtual channel of a kind (R290, R292). -/
def vcOf (kind : Nat) : Nat :=
  match kind with
  | 7 => 0
  | 3 | 5 => 1
  | 4 => 3
  | _ => 2

/-- Clocks of the model in a millisecond: the region clock of 1.90 GHz (R15, assumption 7). -/
def clocksPerMs : Nat := 1900000

/-! ## Parts of the state -/

/-- The fabric of a die. -/
def State.fb (s : State) (d : Nat) : FabDie := s.fab.get d

/-- Change the fabric of a die. -/
def State.updFab (s : State) (d : Nat) (f : FabDie → FabDie) : State := { s with fab := s.fab.upd d f }

/-- Link `i` of a die. -/
def State.lk (s : State) (d i : Nat) : Lk := (s.fb d).links.getD i Lk.fresh

/-- Change link `i` of a die. -/
def State.updLk (s : State) (d i : Nat) (f : Lk → Lk) : State :=
  s.updFab d fun x => { x with links := listMod x.links i f }

/-- The state code of a link (R295). -/
def State.linkState (s : State) (d i : Nat) : Nat := s.fld d F.lnk_stat_state i

/-- Set the state code of a link. -/
def State.setLink (s : State) (d i n : Nat) : State := s.setFld d F.lnk_stat_state n i

/-- The link code that stands for the bridge (R297). -/
def bridgeLink : Nat := 0x3F

/-- Whether a link code can take a message (R297): a link that is UP, in RETRAIN or in CAL, or the bridge unless it is down. -/
def State.usable (s : State) (d code : Nat) : Bool :=
  if code < 18 then
    let n := s.linkState d code
    n = 5 || n = 6 || n = 1
  else code = bridgeLink && !s.bridgeDown

/-! ## Start-up stages (R598) -/

/-- The part of `boot.stat` that makes a device ready: loaded, linkup, master, tables (R598). -/
def State.stagesDone (s : State) : Bool :=
  s.flag 0 F.boot_stat_loaded && s.flag 0 F.boot_stat_linkup && s.flag 0 F.boot_stat_master && s.flag 0 F.boot_stat_tables

/-- A start-up stage sets its bit; the last of them sets ready and raises event 0x9013 (R598). -/
def State.stage (s : State) (f : Fld) : State :=
  let s := s.setFld 0 f 1
  if s.stagesDone ∧ ¬ s.flag 0 F.boot_stat_ready then
    (s.setFld 0 F.boot_stat_ready 1).raise 0 0x01 0x9013 ((s.clk - s.relClk) / clocksPerMs)
  else s

/-! ## Sending flits (R288, R292, R293) -/

/-- The 8-byte header of a flit with its CRC-32C (R288). -/
def flitHeader (seq ack : Nat) (nak : Bool) (cvc ccnt : Nat) (idle : Bool) (slots : List Nat) : Nat :=
  let hi := seq % 4096 * 2 ^ 20 + ack % 4096 * 2 ^ 8 + b2n nak * 2 ^ 7 + cvc % 4 * 2 ^ 5 + ccnt % 16 * 2 + b2n idle
  hi * 2 ^ 32 + crc32c (leBytes 4 hi ++ (slots.map (leBytes 16)).flatten)

/-- Slots filled to a flit's payload with null slots. -/
def fillFlit (slots : List Nat) : List Nat := slots ++ List.replicate (13 - slots.length) 0

/-- The credits that the next flit returns: a VC and units of 4 slots. -/
def Lk.refund (l : Lk) : Nat × Nat :=
  match (List.range 4).find? fun v => 4 ≤ l.owed.getD v 0 with
  | some v => (v, min 15 (l.owed.getD v 0 / 4))
  | none => (0, 0)

/-- A flit leaves link `i`, with the link's acknowledgement, nak and credits. -/
def State.flitOut (s : State) (d i seq : Nat) (idle : Bool) (slots : List Nat) : State :=
  let l := s.lk d i
  let c := l.refund
  let p := fillFlit slots
  let h := flitHeader seq (l.rxSeq + 4095) l.nakDue c.1 c.2 idle p
  let s := s.updLk d i fun l => { l with nakDue := false, owed := listMod l.owed c.1 fun x => x - 4 * c.2 }
  let s := if idle then s else s.tally d R.lnk_t_tx i
  s.emit (.link d i (h :: p))

/-- A new flit leaves link `i` and is kept until it is acknowledged. -/
def State.flitNew (s : State) (d i : Nat) (slots : List Nat) : State :=
  let n := (s.lk d i).txSeq
  (s.updLk d i fun l => { l with txSeq := (n + 1) % 4096, replay := l.replay ++ [(n, fillFlit slots)] }).flitOut d i n
    false slots

/-- The collective that a SEG belongs to, among those that share a link's VC 3 (R314): its source and its route entry. -/
def Msg.share (m : Msg) : Nat := m.src * 256 + bits m.low 74 8

/-- The turn after `last` among numbers: the next above it, or from the lowest again. -/
def nextTurn (last : Nat) (l : List Nat) : Option Nat := ((l.filter fun k => last < k).min?).orElse fun _ => l.min?

/-- The place in the queue of the message that a VC would send next: the oldest, and for VC 3 the oldest of the collective whose turn it
is (R314). -/
def Lk.first (l : Lk) (vc : Nat) : Option Nat :=
  if vc = 3 then
    (nextTurn l.share ((l.q.filter fun m => vcOf m.kind = 3).map Msg.share)).bind fun k =>
      indexWhere (fun m => vcOf m.kind = 3 && m.share = k) l.q
  else indexWhere (fun m => vcOf m.kind = vc) l.q

/-- Whether the credits for all slots of the `n`th message that waits are held. -/
def Lk.affords (l : Lk) (n : Nat) : Bool :=
  match l.q[n]? with
  | some m => m.len + 1 ≤ l.credits.getD (vcOf m.kind) 0
  | none => false

/-- The place in the queue of the message of a VC that may be sent next, when credits for all its slots are held. -/
def Lk.ready (l : Lk) (vc : Nat) : Option Nat := (l.first vc).filter l.affords

/-- The message that a transmitter chooses: what the hold buffer held, in its order (R302), then VC 0, VC 1, and VCs 2 and 3 in turns
of their weights (R292); its place and the round-robin position after it. -/
def Lk.choose (l : Lk) (wreq wseg : Nat) : Option (Nat × Nat) :=
  if 0 < l.held then if l.affords 0 then some (0, l.wrr) else none
  else match l.ready 0 with
  | some n => some (n, l.wrr)
  | none =>
    match l.ready 1 with
    | some n => some (n, l.wrr)
    | none =>
      let turn := l.wrr % (wreq + wseg)
      let own := if turn < wreq then 2 else 3
      match l.ready own with
      | some n => some (n, turn + 1)
      | none => (l.ready (5 - own)).map fun n => (n, l.wrr)

/-- Messages chosen one after another until none can go or `room` slots are filled: the link after it, the slots, and the
messages with the number of slots up to their end. -/
def Lk.gather (wreq wseg room : Nat) : Nat → Lk → List Nat → List (Nat × Msg) → Lk × List Nat × List (Nat × Msg)
  | 0, l, ss, ms => (l, ss, ms)
  | n + 1, l, ss, ms =>
    if room ≤ ss.length then (l, ss, ms)
    else
      match l.choose wreq wseg with
      | none => (l, ss, ms)
      | some (k, w) =>
        match l.q[k]? with
        | none => (l, ss, ms)
        | some m =>
          let l := { l with
            q := l.q.eraseIdx k, wrr := w, held := l.held - 1
            share := if vcOf m.kind = 3 then m.share else l.share
            credits := listMod l.credits (vcOf m.kind) fun x => x - (m.len + 1) }
          let ss := ss ++ m.slots
          Lk.gather wreq wseg room n l ss (ms ++ [(ss.length, m)])

/-- SEGs that a die's collective engine sends are counted as they leave (R330). -/
def State.countSegs (s : State) (d : Nat) (l : List Msg) : State :=
  let own := l.filter fun m => m.kind = 4 && m.src = s.node d
  let again := own.filter fun m => bit m.low 40
  let add (s : State) (r : Reg) (n : Nat) : State := if n = 0 then s else s.tally d r 0 n
  add (add s R.col_t_segtx own.length) R.col_t_reiss again.length

/-- A link that is UP sends what waits for it, as far as credits and its replay buffer of 2,048 flits allow; while that buffer is full it
sends idle flits (R292, R293). -/
def State.pump (s : State) (d i : Nat) : State :=
  if s.linkState d i ≠ 5 then s
  else if 2048 ≤ (s.lk d i).replay.length ∧ ¬ (s.lk d i).q.isEmpty then s.flitOut d i (s.lk d i).txSeq true []
  else
    let l := s.lk d i
    let g := l.gather (s.fld d F.lnk_arb_w_req) (s.fld d F.lnk_arb_w_seg) (13 * (2048 - l.replay.length)) l.q.length [] []
    let sent := g.2.2.map fun p => ((l.txSeq + (p.1 - 1) / 13) % 4096, p.2)
    let s := (s.updLk d i fun _ => { g.1 with sent := l.sent ++ sent }).countSegs d (g.2.2.map (·.2))
    (pieces 13 g.2.1).foldl (fun s p => s.flitNew d i p) s

/-- Slots of messages, headers included. -/
def msgSlots (l : List Msg) : Nat := sumNat (l.map fun m => m.len + 1)

/-- Slots of the hold buffer of 64 flits (R302). -/
def holdSlots : Nat := 64 * 13

/-- A message comes to a link that transmits nothing: into the hold buffer, or, beyond it, kept back by its source (R302). -/
def Lk.hold (l : Lk) (m : Msg) : Lk :=
  if l.back.isEmpty ∧ msgSlots l.q + m.len + 1 ≤ holdSlots then { l with q := l.q ++ [m] } else { l with back := l.back ++ [m] }

/-- A link stops transmitting: what waits for it enters the hold buffer as far as that has room (R302). -/
def Lk.stop (l : Lk) : Lk := (l.q ++ l.back).foldl Lk.hold { l with q := [], back := [] }

/-- A link transmits again: what it holds leaves first and in order, and its sources go on (R302). -/
def Lk.resume (l : Lk) : Lk := { l with held := l.q.length, q := l.q ++ l.back, back := [] }

/-- A message waits for link `i`, and leaves at once when the link can send (R302). -/
def State.enqueue (s : State) (d i : Nat) (m : Msg) : State :=
  if s.linkState d i = 5 then (s.updLk d i fun l => { l with q := l.q ++ [m] }).pump d i
  else s.updLk d i fun l => l.hold m

/-- Bytes that a message takes on the bridge: a slot, and beats for its data (R187). -/
def Msg.bridgeBytes (m : Msg) : Nat := 32 + 256 * cdiv m.data.length 256

/-- A message is on its way over the bridge from die `d`: SEG messages in class 2, the others in class 3 (R187, R297). -/
def State.crossBridge (s : State) (d : Nat) (m : Msg) : State :=
  let s := s.tally d (if m.kind = 4 then R.brg_t_tx2 else R.brg_t_tx3) 0 m.bridgeBytes
  { s with transit := s.transit ++ [(1 - d, m)] }

/-- A message enters link code `code`: a link, or the bridge, over which it is on its way to the other die. -/
def State.leave (s : State) (d code : Nat) (m : Msg) : State :=
  if code < 18 then s.enqueue d code m else (s.countSegs d [m]).crossBridge d m

/-! ## Forwarding (R297, R298) -/

/-- The forwarding entry of a node. -/
def State.fwdEntry (s : State) (d node : Nat) : Nat :=
  bits (s.reg d R.lnk_fwd (node / 2)) (16 * (node % 2)) 16

/-- Messages that wait for a link code of a die: in its queue, or on their way over the bridge. -/
def State.waitingOn (s : State) (d code : Nat) : List Msg :=
  if code < 18 then (s.lk d code).q ++ (s.lk d code).back
  else (s.transit.filter fun e => e.1 = 1 - d && e.2.src ≠ s.node (1 - d)).map (·.2)

/-- Flits queued on a link code for a VC. -/
def State.queued (s : State) (d code vc : Nat) : Nat :=
  cdiv (msgSlots ((s.waitingOn d code).filter fun m => vcOf m.kind = vc)) 13

/-- Whether the traffic of a context uses fixed routes alone (R259, R298). -/
def State.ctxFixed (s : State) (c : Nat) : Bool := bit (s.ctxField c 2 2) 1

/-- Whether the engine sets fx on a message, beside what it carries (R298, R477). -/
def State.fixedNow (s : State) (fx : Bool) : Bool := fx || s.flag 0 F.det_ctl_strict

/-- The link code by which a message of a kind leaves towards a node; the flag says whether alt was taken by adaptive routing.
None: no route (R297, R298). -/
def State.route (s : State) (d node kind : Nat) (fx : Bool) (adaptSeg : Bool := false) : Option (Nat × Bool) :=
  let e := s.fwdEntry d node
  let pri := bits e 10 6
  let alt := bits e 4 6
  let p := s.usable d pri
  let a := s.usable d alt
  let adapt := s.flag d F.lnk_ctl_adapt && !s.fixedNow fx && (kind ≠ 4 || adaptSeg) && kind ≠ 7
  if p ∧ a ∧ adapt ∧ s.queued d alt (vcOf kind) < s.queued d pri (vcOf kind) then some (alt, true)
  else if p then some (pri, false)
  else if a then some (alt, false)
  else none

/-- What happened to a message that a unit of a die sent: it left by a link code (64: to a unit of this node), or there is no
route. -/
abbrev Sent := State × Option Nat

/-- A unit of die `d` sends a message (R297, R298). A message to this node itself is on its way at once. -/
def State.send (s : State) (d : Nat) (m : Msg) : Sent :=
  let m := { m with fx := s.fixedNow m.fx }
  if m.dst = s.node d then ({ s with transit := s.transit ++ [(d, m)] }, some 64)
  else
    match s.route d m.dst m.kind m.fx with
    | none => (s.count32 d F.lnk_drop_count, none)
    | some (c, byAlt) =>
      let s := if byAlt ∧ c < 18 then s.tally d R.lnk_t_adapt c else s
      (s.leave d c m, some c)

/-! ## Responses and forwarded messages (R291, R297) -/

/-- A response to a request. -/
def rspMsg (dest this tag status : Nat) (fx : Bool) (data : List Byte) : Msg :=
  ⟨3, dest, this, fx, tag % 4096 * 2 ^ 70 + status * 2 ^ 67, 0, data⟩

/-- A message that this die forwards and cannot send on is dropped (R297): event 0x2008, and NOROUTE for an RD or WR. -/
def State.dropForwarded (s : State) (d : Nat) (m : Msg) : State :=
  let s := (s.count32 d F.lnk_drop_count).raise d 0x0B 0x2008 (m.dst + m.kind * 2 ^ 16)
  if m.kind = 1 ∨ m.kind = 2 then (s.send d (rspMsg m.src m.dst (bits m.low 70 12) 2 m.fx [])).1 else s

/-- A message for another node leaves by the forwarding table (R297). -/
def State.forward (s : State) (d : Nat) (m : Msg) : State :=
  match s.route d m.dst m.kind m.fx with
  | none => s.dropForwarded d m
  | some (c, byAlt) =>
    let s := if byAlt ∧ c < 18 then s.tally d R.lnk_t_adapt c else s
    s.leave d c m

/-! ## Remote requests of this device's units (R291, R303) -/

/-- The header's per-kind bits of a request (R291). -/
def Req.low (q : Req) : Nat := q.tag % 4096 * 2 ^ 70 + b2n q.idem * 2 ^ 69 + q.addr % 2 ^ 52

/-- The message of a request; an RD asks for its length in slots and carries no data. -/
def Req.msg (q : Req) (this : Nat) (fx : Bool) : Msg :=
  ⟨if q.write then 2 else 1, q.dst, this, fx, q.low, cdiv q.len 16, q.data⟩

/-- The next tag that no open request of a die uses. -/
def FabDie.tag (x : FabDie) : Nat :=
  ((List.range 4096).map fun i => (x.nextTag + i) % 4096).find? (fun t => !x.reqs.any fun q => q.tag = t) |>.getD 0

/-- Send a request, with its link noted; without a route it ends at once: NOROUTE for a read, NOTSENT for a write (R297). -/
def State.sendReq (s : State) (d : Nat) (q : Req) : State :=
  let r := s.send d (q.msg (s.node d) q.fx)
  let q := match r.2 with
    | some c => { q with link := c }
    | none => { q with status := some (if q.write then .notsent else .noroute) }
  r.1.updFab d fun x => { x with reqs := x.reqs ++ [q] }

/-- A unit of die `d` issues a remote write; `fx` says that it serves a context whose traffic uses fixed routes alone (R298). -/
def State.remoteWrite (s : State) (d dst addr : Nat) (data : List Byte) (idem fx : Bool) (kind : ReqKind) : State :=
  let t := (s.fb d).tag
  (s.updFab d fun x => { x with nextTag := (t + 1) % 4096 }).sendReq d
    ⟨t, dst, addr, data.length, data, true, idem, fx, 64, kind, none, []⟩

/-- A unit of die `d` issues a remote read. -/
def State.remoteRead (s : State) (d dst addr len : Nat) (kind : ReqKind) : State :=
  let t := (s.fb d).tag
  (s.updFab d fun x => { x with nextTag := (t + 1) % 4096 }).sendReq d
    ⟨t, dst, addr, len, [], false, false, false, 64, kind, none, []⟩

/-- Whether a unit needs nothing more of a request once it has ended OK: writes of Meld, twin and controller records (R367, R534). -/
def ReqKind.settles : ReqKind → Bool
  | .twin _ _ _ | .record _ _ _ | .meld _ _ _ => true
  | .fetch _ => false

/-- An open request of a die ends with a status; its unit takes the answer up later. -/
def State.endReq (s : State) (d tag : Nat) (st : ReqStatus) (data : List Byte) : State :=
  s.updFab d fun x => { x with
    reqs := (x.reqs.filter fun q => !(q.tag = tag && q.status.isNone && st = .ok && q.kind.settles)).map fun q =>
      if q.tag = tag ∧ q.status.isNone then { q with status := some st, answer := data } else q }

/-- The requests of a die that have ended and whose kind satisfies `p` are taken out. -/
def State.dropReqs (s : State) (d : Nat) (p : ReqKind → Bool) : State :=
  s.updFab d fun x => { x with reqs := x.reqs.filter fun q => !(q.status.isSome && p q.kind) }

/-! ## Messages that arrive at their node (R291, R297) -/

/-- A message has come over a link and waits to be handed on. -/
def State.landed (s : State) (d : Nat) (m : Msg) : State := { s with transit := s.transit ++ [(2 + d, m)] }

/-- A message whose buffer is full waits where it is: on its way, or, its flits not spelled out, in the receive buffer of its link (R314,
R352, R357). -/
def State.parked (s : State) (d via : Nat) (m : Msg) : State :=
  if via < 18 ∧ ¬ (2 + d, m) ∈ s.transit then s.landed d m else s

/-- Whether message `m` may not overtake `e` (R299): of one VC, source and destination, and both by fixed routes, or of one step of a
collective, which stays on one link (R298). -/
def State.follows (s : State) (d : Nat) (m e : Msg) : Bool :=
  vcOf e.kind = vcOf m.kind && e.src = m.src && e.dst = m.dst &&
    (!s.flag d F.lnk_ctl_adapt || (e.fx && m.fx) || (m.kind = 4 && e.kind = 4 && bits e.low 43 39 = bits m.low 43 39))

/-- Message `m` is taken out of those on their way to `place`, where none before it must arrive first. -/
def State.arriving (s : State) (d place : Nat) (m : Msg) : Option State :=
  let before := s.transit.takeWhile fun e => e ≠ (place, m)
  if before.length < s.transit.length ∧ ¬ before.any fun e => e.1 = place && s.follows d m e.2 then
    some { s with transit := s.transit.erase (place, m) }
  else none

/-- A message of a kind arrives at die `d` over link code `via`: over a link, where flits have brought it (die code 2 + `d` of `transit`)
or the link is UP and its flits are not spelled out, or over the bridge (0x3F) or from this node itself (64), where it must be on its
way. None: it does not arrive. -/
def State.arrives (s : State) (d via : Nat) (m : Msg) (kind : Nat) : Option State :=
  if m.kind ≠ kind ∨ m.dst ≠ s.node d then none
  else if via < 18 then
    if (2 + d, m) ∈ s.transit then s.arriving d (2 + d) m
    else if s.linkState d via = 5 then some s else none
  else if via = 64 ∨ (via = bridgeLink ∧ s.flag d F.brg_stat_up) then s.arriving d d m
  else none

end Sys2Proof.Machine
end

