-- ==== Sys2Proof/Machine/Collect.lean ====
section
/-! DEFINITION. Collectives: COLL words, route entries, steps, reductions, segments, acknowledgements and notices (R138, R151, R304 to
R319). -/

namespace Sys2Proof.Machine

/-! ## COLL words (R138, R150, R151, R314) -/

/-- The number of elements of a tensor over its valid extents (R138). -/
def Tile.count (x : Tile) : Nat := dim x.v 0 * dim x.v 1 * dim x.v 2 * dim x.v 3

/-- The whole tensor of a descriptor, as one tile at coordinate 0 (R151). -/
def Desc.whole (x : Desc) (k : Slot) : Tile := ⟨x, [0, 0, 0, 0], (List.range 4).map (x.extent k)⟩

/-- The check of R151 on a whole tensor: the fault when a run-time extent exceeds the planned one. -/
def Tile.exceeds (x : Tile) (ds : Nat) : Option FaultInfo :=
  ((List.range 4).find? fun i => dimB x.desc.rteEn i && dim x.desc.pext i < dim x.v i).map fun i => ⟨0x4007, i * 64 + ds⟩

/-- The tensor that a COLL names, in translated memory: a slot without one cannot serve (assumption 44). -/
def collTile (k : Slot) (ds : Nat) : Except FaultInfo Tile :=
  match assocGet ds k.desc with
  | none => .error ⟨0x4003, ds⟩
  | some x => if x.cluster then .error ⟨0x4003, ds⟩ else .ok (x.whole k)

/-- A COLL joins its die's queue, and counts as issued (R314, R138). -/
def State.queueColl (s : State) (r k va w : Nat) (sd dd : Tile) (exceeds : Bool) : State :=
  let x := s.slot r k
  let det := s.ctxField x.ctx 2 2
  let q : CollReq := ⟨r, k, x.ctx, va, w, sd, dd, bit w 111 || bit det 0, bit det 1, exceeds⟩
  let s := s.updSlot r k fun y => { y with colls := y.colls + 1, collWork := y.collWork || sd.count ≠ 0 }
  s.updFab (dieOfRegion r) fun x => { x with queue := x.queue ++ [q] }

/-- Whether the fields that a COLL word does not use are zero (R134, R138): the reserved ones, the flag where none is posted, and ex in an
operation that reduces nothing. -/
def collClean (w : Nat) : Bool :=
  bits w 0 96 = 0 && (bit w 96 || bits w 97 6 = 0) && (!bit w 111 || bits w 120 4 = 0 || bits w 120 4 = 2)

/-- A COLL word (R138): it waits while 256 COLLs are queued, and otherwise is checked and queued. -/
def State.collWord (s : State) (r k : Nat) (o : Op) : Host.Outcome State Fault Refusal :=
  let x := s.slot r k
  let here : Bool := match (s.rg r).wordAt x.ctx x.pc with
    | some w => opOf w = some o
    | none => false
  if s.decodes r k ∧ x.hand.isNone ∧ here ∧ 256 ≤ (s.fb (dieOfRegion r)).queue.length then .next (s.waitFor r k .collFull)
  else
    s.onWord r k o fun s w va =>
      let x := s.slot r k
      let sd := bits w 107 4
      let dd := bits w 103 4
      if ¬ collClean w then s.illegal r k va w
      else
        match collTile x sd, collTile x dd with
        | .error f, _ => s.itemFault r k va f
        | .ok _, .error f => s.itemFault r k va f
        | .ok a, .ok b =>
          match (a.exceeds sd).orElse fun _ => b.exceeds dd with
          | some f => (s.queueColl r k va w a b true).itemFault r k va f
          | none => s.queueColl r k va w a b false

/-- REDUCE_SCATTER (R138, R308). -/
def execReduceScatter (r : Fin 16) (k : Fin 4) (s : State) : Host.Outcome State Fault Refusal := s.collWord r k .reduceScatter

/-- ALL_GATHER (R138, R308). -/
def execAllGather (r : Fin 16) (k : Fin 4) (s : State) : Host.Outcome State Fault Refusal := s.collWord r k .allGather

/-- ALL_REDUCE (R138, R308). -/
def execAllReduce (r : Fin 16) (k : Fin 4) (s : State) : Host.Outcome State Fault Refusal := s.collWord r k .allReduce

/-- BROADCAST (R138, R309). -/
def execBroadcast (r : Fin 16) (k : Fin 4) (s : State) : Host.Outcome State Fault Refusal := s.collWord r k .broadcast

/-- PERMUTE (R138, R307). -/
def execPermute (r : Fin 16) (k : Fin 4) (s : State) : Host.Outcome State Fault Refusal := s.collWord r k .permute

/-! ## Route entries (R304 to R307) -/

/-- A neighbour word. -/
structure Nb where
  role : Nat
  node : Nat
  lo : Nat
  hi : Nat
  link : Nat
deriving DecidableEq, Repr

/-- The fields of a neighbour word (R305). -/
def nbOf (w : Nat) : Nb := ⟨bits w 61 3, bits w 46 15, bits w 31 15, bits w 16 15, bits w 10 6⟩

/-- A word of a latched entry. -/
def rw (e : List Nat) (k : Nat) : Nat := e.getD k 0

/-- The kind of an entry: 1 RING, 2 TREE, 3 PAIR, 4 RESHARD. -/
def rtKind (e : List Nat) : Nat := bits (rw e 0) 60 4

/-- Group size N. -/
def rtN (e : List Nat) : Nat := bits (rw e 0) 39 15 + 1

/-- Rank of this node. -/
def rtRank (e : List Nat) : Nat := bits (rw e 0) 24 15

/-- The neighbour words in use. -/
def rtNbs (e : List Nat) : List Nb := (List.range (bits (rw e 0) 20 4)).map fun k => nbOf (rw e (4 + k))

/-- The first neighbour of a role. -/
def nbRole (e : List Nat) (role : Nat) : Option Nb := (rtNbs e).find? fun n => n.role = role

/-- The neighbours of a role, in listed order. -/
def nbsRole (e : List Nat) (role : Nat) : List Nb := (rtNbs e).filter fun n => n.role = role

/-- Whether the fields of neighbour word `w` are legal for an entry of kind `kind` (R305). -/
def nbLegal (kind w : Nat) : Bool :=
  let n := nbOf w
  bits w 0 10 = 0 && (n.link < 18 || n.link = 0x3E || n.link = 0x3F) &&
    (match kind with
      | 1 => n.role < 2 && n.lo = n.hi
      | 2 => n.role < 2 && (if n.role = 1 then n.lo ≤ n.hi else n.lo = n.hi)
      | 3 => (n.role = 2 || n.role = 3) && n.lo = n.hi
      | _ => n.role < 4)

/-- Whether the children of a TREE follow the preorder of R306, the next rank expected being `at_`. -/
def childrenOk (at_ : Nat) : List Nb → Bool
  | [] => true
  | n :: r => n.lo = at_ && childrenOk (n.hi + 1) r

/-- Whether an operation may use a kind of entry (R307). -/
def opKind (op kind : Nat) : Bool :=
  match op with
  | 0 | 1 | 2 => kind = 1 || kind = 2
  | 3 => kind = 2
  | _ => kind = 3 || kind = 4

/-- W0's own fields (R304). -/
def w0Legal (op : Nat) (e : List Nat) : Bool :=
  let w := rw e 0
  1 ≤ rtKind e && rtKind e ≤ 4 && opKind op (rtKind e) && bits w 54 2 = 0 && !bit w 57 && bits w 20 4 ≤ 12 && bits w 0 20 = 0 &&
    (rtKind e = 4 || rtRank e < rtN e)

/-- W1 to W3 (R304, R306): used by RESHARD alone. -/
def w123Legal (e : List Nat) : Option Nat :=
  let w1 := rw e 1
  if rtKind e = 4 then
    if bits w1 0 4 ≠ 0 ∨ 4096 ≤ bits w1 49 15 ∨ 4096 ≤ bits w1 19 15 ∨ (bits w1 34 15 = 0x7FFF ∧ bits w1 4 15 = 0x7FFF) then some 1
    else if bits (rw e 2) 52 12 ≠ 0 then some 2
    else if rw e 3 ≠ 0 then some 3 else none
  else (indexWhere (fun w => w ≠ 0) [w1, rw e 2, rw e 3]).map (· + 1)

/-- The rules of R306 over the neighbours of an entry. -/
def groupLegal (e : List Nat) : Bool :=
  let n := rtN e
  let r := rtRank e
  match rtKind e with
  | 1 =>
    (match nbsRole e 0, nbsRole e 1 with
      | [p], [q] => p.lo = (r + n - 1) % n && q.lo = (r + 1) % n
      | _, _ => false)
  | 2 => (nbsRole e 0).length ≤ 1 && childrenOk (r + 1) (nbsRole e 1) && (nbsRole e 1).all fun c => c.hi < n
  | 3 => (nbsRole e 2).length ≤ 1 && (nbsRole e 3).length ≤ 1
  | _ => true

/-- The first failing word of an entry that is illegal for an operation (R306, 0x2016); the rules over several neighbours are
laid to W4. -/
def entryIllegal (op : Nat) (e : List Nat) : Option Nat :=
  if ¬ w0Legal op e then some 0
  else
    match w123Legal e with
    | some k => some k
    | none =>
      match indexWhere (fun k => !nbLegal (rtKind e) (rw e (4 + k))) (List.range (bits (rw e 0) 20 4)) with
      | some k => some (4 + k)
      | none => if groupLegal e then none else some 4

/-! ## Chunks and plans (R307 to R309, R315, R319) -/

/-- The first element of chunk `k` of a total over N nodes. -/
def chunkAt (t n k : Nat) : Nat := k * t / n

/-- The size of chunk `k`. -/
def chunkSize (t n k : Nat) : Nat := chunkAt t n (k + 1) - chunkAt t n k

/-- The steps and writes of a collective at this node. -/
structure Plan where
  recvs : List CollRecv
  sends : List CollSend
  writes : List CollWrite

/-- A step to receive. -/
def mkRecv (step src n : Nat) (f : Fmt) : CollRecv := ⟨step, src, n, f, [], 0, false, false, 0⟩

/-- A step to send. -/
def mkSend (step : Nat) (to_ : Nb) (src : List Src) : CollSend := ⟨step, to_.node, to_.link, src, false, 0, [], 0, 0, 0, false, false, 0⟩

/-- Elements to write. -/
def mkWrite (first : Nat) (src : List Src) : CollWrite := ⟨first, src, false⟩

/-- The format of partial sums on the way (R304). -/
def wireFmt (e : List Nat) (f : Fmt) : Fmt := if bit (rw e 0) 58 && f ≠ .int32 then .fp32 else f

/-- RING reduce-scatter of C elements, its result left to the caller (R308). -/
def ringReduce (e : List Nat) (c : Nat) (f : Fmt) (prev next : Nb) : Plan :=
  let n := rtN e
  let r := rtRank e
  let ch (k : Nat) : Nat × Nat := (chunkAt c n k, chunkSize c n k)
  { recvs := (List.range (n - 1)).map fun s => mkRecv s prev.node (ch ((r + 2 * n - s - 2) % n)).2 (wireFmt e f)
    sends := (List.range (n - 1)).map fun s =>
      let k := ch ((r + 2 * n - s - 1) % n)
      mkSend s next [.sum k.1 k.2 (if s = 0 then [] else [s - 1]) true (s ≠ 0)]
    writes := [] }

/-- The source of the reduction of this node's chunk after a RING reduce-scatter. -/
def ringResult (e : List Nat) (c : Nat) (count : Bool) : Src :=
  let n := rtN e
  let r := rtRank e
  .sum (chunkAt c n r) (chunkSize c n r) (if n = 1 then [] else [n - 2]) false count

/-- RING all-gather of T elements, from step `s0` on; `own` is this node's chunk (R308). -/
def ringGather (e : List Nat) (t s0 : Nat) (f : Fmt) (own : List Src) (prev next : Nb) : Plan :=
  let n := rtN e
  let r := rtRank e
  let ch (k : Nat) : Nat × Nat := (chunkAt t n k, chunkSize t n k)
  { recvs := (List.range (n - 1)).map fun s => mkRecv (s0 + s) prev.node (ch ((r + 2 * n - s - 1) % n)).2 f
    sends := (List.range (n - 1)).map fun s =>
      mkSend (s0 + s) next (if s = 0 then own else [.got (s0 + s - 1) 0 (ch ((r + n - s) % n)).2])
    writes := (List.range (n - 1)).map fun s =>
      let k := ch ((r + 2 * n - s - 1) % n)
      mkWrite k.1 [.got (s0 + s) 0 k.2] }

/-- The plan of a RING operation. -/
def ringPlan (op : Nat) (e : List Nat) (c t : Nat) (f : Fmt) (prev next : Nb) : Plan :=
  let n := rtN e
  let r := rtRank e
  match op with
  | 0 =>
    let p := ringReduce e c f prev next
    { p with writes := [mkWrite 0 [ringResult e c true]] }
  | 2 =>
    let p := ringReduce e c f prev next
    let g := ringGather e c (n - 1) f [ringResult e c false] prev next
    ⟨p.recvs ++ g.recvs, p.sends ++ g.sends, mkWrite (chunkAt c n r) [ringResult e c true] :: g.writes⟩
  | _ =>
    let g := ringGather e t 0 f [.own 0 c] prev next
    { g with writes := mkWrite (chunkAt t n r) [.own 0 c] :: g.writes }

/-- The highest rank of this node's subtree. -/
def subHigh (e : List Nat) : Nat := ((nbsRole e 1).map (·.hi)).foldl max (rtRank e)

/-- The plan of a TREE reduction: reduce-scatter (op 0) or all-reduce (R309). -/
def treeReduce (op : Nat) (e : List Nat) (c : Nat) (f : Fmt) : Plan :=
  let n := rtN e
  let r := rtRank e
  let kids := nbsRole e 1
  let all := List.range kids.length
  let up := kids.map fun k => mkRecv 0 k.node c (wireFmt e f)
  let span (k : Nb) : Nat × Nat := (chunkAt c n k.lo, chunkAt c n (k.hi + 1) - chunkAt c n k.lo)
  let base := chunkAt c n r
  match nbRole e 0 with
  | some p =>
    let m := kids.length
    let down := if op = 0 then chunkAt c n (subHigh e + 1) - base else c
    { recvs := up ++ [mkRecv 1 p.node down f]
      sends := mkSend 0 p [.sum 0 c all true true] :: kids.map fun k =>
        mkSend 1 k (if op = 0 then [.got m ((span k).1 - base) (span k).2] else [.got m 0 c])
      writes := [mkWrite 0 (if op = 0 then [.got m 0 (chunkSize c n r)] else [.got m 0 c])] }
  | none =>
    { recvs := up
      sends := kids.map fun k =>
        mkSend 1 k (if op = 0 then [.sum (span k).1 (span k).2 all false true] else [.sum 0 c all false false])
      writes := [mkWrite 0 (if op = 0 then [.sum base (chunkSize c n r) all false true] else [.sum 0 c all false true])] }

/-- The plan of a TREE all-gather of T elements (R309). -/
def treeGather (e : List Nat) (c t : Nat) (f : Fmt) : Plan :=
  let n := rtN e
  let kids := nbsRole e 1
  let span (k : Nb) : Nat := chunkAt t n (k.hi + 1) - chunkAt t n k.lo
  let up := kids.map fun k => mkRecv 0 k.node (span k) f
  let sub := .own 0 c :: kids.zipIdx.map fun k => Src.got k.2 0 (span k.1)
  match nbRole e 0 with
  | some p =>
    let m := kids.length
    { recvs := up ++ [mkRecv 1 p.node t f]
      sends := mkSend 0 p sub :: kids.map fun k => mkSend 1 k [.got m 0 t]
      writes := [mkWrite 0 [.got m 0 t]] }
  | none => { recvs := up, sends := kids.map fun k => mkSend 1 k sub, writes := [mkWrite 0 sub] }

/-- The plan of a broadcast (R309): the root has no parent. -/
def treeBroadcast (e : List Nat) (c t : Nat) (f : Fmt) : Plan :=
  let kids := nbsRole e 1
  match nbRole e 0 with
  | some p =>
    { recvs := [mkRecv 1 p.node t f], sends := kids.map fun k => mkSend 1 k [.got 0 0 t], writes := [mkWrite 0 [.got 0 0 t]] }
  | none => { recvs := [], sends := kids.map fun k => mkSend 1 k [.own 0 c], writes := [] }

/-- The plan of a PAIR permute. -/
def pairPlan (e : List Nat) (c t : Nat) (f : Fmt) : Plan :=
  { recvs := ((nbRole e 3).toList).map fun p => mkRecv 0 p.node t f
    sends := ((nbRole e 2).toList).map fun p => mkSend 0 p [.own 0 c]
    writes := if (nbRole e 3).isSome then [mkWrite 0 [.got 0 0 t]] else [] }

/-- The part that two ranges of elements share: its first element and size. -/
def shared (a b c d : Nat) : Nat × Nat := (max a c, min b d - max a c)

/-- The plan of a RESHARD of G elements (R319): `ids` is the rank map, `this` this node. -/
def reshardPlan (e : List Nat) (g : Nat) (ids : List Nat) (this : Nat) (f : Fmt) : Plan :=
  let w := rw e 1
  let on := bits w 49 15 + 1
  let nn := bits w 19 15 + 1
  let orank := bits w 34 15
  let nrank := bits w 4 15
  let os := if orank = 0x7FFF then (0, 0) else (chunkAt g on orank, chunkAt g on (orank + 1))
  let ns := if nrank = 0x7FFF then (0, 0) else (chunkAt g nn nrank, chunkAt g nn (nrank + 1))
  let home (node : Nat) : Bool := node / 2 = this / 2
  let out := (List.range nn).filterMap fun k =>
    let p := shared os.1 os.2 (chunkAt g nn k) (chunkAt g nn (k + 1))
    if p.2 = 0 then none else some (ids.getD (on + k) 0, p)
  let into := (List.range on).filterMap fun k =>
    let p := shared (chunkAt g on k) (chunkAt g on (k + 1)) ns.1 ns.2
    if p.2 = 0 then none else some (ids.getD k 0, p)
  let far := into.filter fun x => !home x.1
  { recvs := far.map fun x => mkRecv 0 x.1 x.2.2 f
    sends := (out.filter fun x => !home x.1).map fun x => mkSend 0 ⟨2, x.1, 0, 0, 0x3E⟩ [.own (x.2.1 - os.1) x.2.2]
    writes := (out.filter fun x => home x.1).map (fun x => mkWrite (x.2.1 - ns.1) [.own (x.2.1 - os.1) x.2.2]) ++
      far.zipIdx.map fun x => mkWrite (x.1.2.1 - ns.1) [.got x.2 0 x.1.2.2] }

/-- The plan of an operation on a legal entry. -/
def collPlan (op : Nat) (e : List Nat) (c t g : Nat) (ids : List Nat) (this : Nat) (f : Fmt) : Plan :=
  match rtKind e with
  | 1 =>
    (match nbRole e 0, nbRole e 1 with
      | some p, some n => ringPlan op e c t f p n
      | _, _ => ⟨[], [], []⟩)
  | 2 => if op = 1 then treeGather e c t f else if op = 3 then treeBroadcast e c t f else treeReduce op e c f
  | 3 => pairPlan e c t f
  | _ => reshardPlan e g ids this f

/-- A COLL of count 0 sends an empty notice for every step (R151, R315). -/
def Plan.emptied (p : Plan) (flags : Nat) : Plan := { p with sends := p.sends.map fun x => { x with src := [], flags } }

/-! ## Counts (R307, R319) -/

/-- The product of a descriptor's global extents over its rank. -/
def Desc.globalSize (x : Desc) : Nat := ((List.range (x.rank + 1)).map fun i => dim x.gext i).foldl (· * ·) 1

/-- Whether the counts, formats and origins of a COLL fit R307 and R319. -/
def countsFit (op : Nat) (e : List Nat) (sd dd : Tile) : Bool :=
  let c := sd.count
  let t := dd.count
  let n := rtN e
  let r := rtRank e
  let same : Bool := sd.desc.fmt = dd.desc.fmt
  let red (f : Fmt) : Bool := f = .fp32 || f = .bf16 || f = .fp16 || f = .int32
  match op with
  | 0 => t = chunkSize c n r && same && red dd.desc.fmt
  | 1 => c = chunkSize t n r && same
  | 2 => c = t && same && red dd.desc.fmt
  | 3 => true
  | _ =>
    if rtKind e = 3 then same || (nbRole e 2).isNone || (nbRole e 3).isNone
    else
      let w := rw e 1
      let g := sd.desc.globalSize
      let fits (x : Tile) (rank size : Nat) : Bool :=
        rank = 0x7FFF || (x.count = chunkSize g size rank && x.index [0, 0, 0, 0] = chunkAt g size rank)
      same && fits sd (bits w 34 15) (bits w 49 15 + 1) && fits dd (bits w 4 15) (bits w 19 15 + 1)

/-- Whether an operation reads sd at this node, and whether it writes dd. -/
def collUses (op : Nat) (e : List Nat) : Bool × Bool :=
  match op with
  | 3 => ((nbRole e 0).isNone, (nbRole e 0).isSome)
  | 4 => if rtKind e = 3 then ((nbRole e 2).isSome, (nbRole e 3).isSome)
    else (bits (rw e 1) 34 15 ≠ 0x7FFF, bits (rw e 1) 4 15 ≠ 0x7FFF)
  | _ => (true, true)

/-! ## Elements in memory (R274, R307) -/

/-- The rows of a tensor in flattened order, as coordinates (c1, c2, c3). -/
def Tile.rows (x : Tile) : List (Nat × Nat × Nat) :=
  (List.range (dim x.v 1 * dim x.v 2 * dim x.v 3)).map fun i =>
    (i % dim x.v 1, i / dim x.v 1 % dim x.v 2, i / dim x.v 1 / dim x.v 2)

/-- The physical pieces of elements [a, a + n) of a row, with the bit at which they begin in the first byte; an access of the
collective engine of die `d` (agent 4). -/
def State.rowPieces (s : State) (d ctx : Nat) (x : Tile) (row : Nat × Nat × Nat) (a n : Nat) (ty : AccTy) :
    State × Except FaultInfo (List (Nat × Nat)) × Nat :=
  let b := x.elemBit [a, row.1, row.2.1, row.2.2]
  let r := s.translateRange d none ctx (b / 8 % 2 ^ 48) ((b % 8 + n * x.desc.fmt.ebits + 7) / 8) ty 4
  (r.1, r.2, b % 8)

/-- The pieces of a whole tensor, row by row; the first fault ends it. -/
def State.tilePieces (s : State) (d ctx : Nat) (x : Tile) (ty : AccTy) : State × Except FaultInfo (List (List (Nat × Nat) × Nat)) :=
  x.rows.foldl
    (fun r row => match r.2 with
      | .error e => (r.1, .error e)
      | .ok l =>
        let y := r.1.rowPieces d ctx x row 0 (dim x.v 0) ty
        match y.2.1 with
        | .error e => (y.1, .error e)
        | .ok p => (y.1, .ok (l ++ [(p, y.2.2)])))
    (s, .ok [])

/-- The elements of a tensor from its pieces. -/
def State.readTile (s : State) (d : Nat) (x : Tile) (ps : List (List (Nat × Nat) × Nat)) : State × List Nat :=
  ps.foldl
    (fun r p =>
      let y := r.1.readPieces d p.1
      (y.1, r.2 ++ elemsAt x.desc.fmt.ebits p.2 (y.2.map (·.1)) (dim x.v 0)))
    (s, [])

/-- Elements written at [a, …) of one row. -/
def State.writeRowElems (s : State) (d ctx : Nat) (x : Tile) (row : Nat × Nat × Nat) (a : Nat) (es : List Nat) :
    State × Option FaultInfo :=
  let y := s.rowPieces d ctx x row a es.length .write
  match y.2.1 with
  | .error e => (y.1, some e)
  | .ok ps =>
    let l := es.map fun w => (w, false)
    if y.2.2 = 0 ∧ es.length * x.desc.fmt.ebits % 8 = 0 then
      (y.1.writePieces d ps (packMarked x.desc.fmt.ebits l) .outside none, none)
    else
      let o := y.1.readPieces d ps
      (o.1.writePieces d ps (overlayElems x.desc.fmt.ebits y.2.2 l o.2) .outside none, none)

/-- Elements written to a tensor from flattened index `first` on, row by row; the first fault ends it. -/
def State.writeElems (s : State) (d ctx : Nat) (x : Tile) (first : Nat) (es : List Nat) : State × Option FaultInfo :=
  let n := dim x.v 0
  x.rows.zipIdx.foldl
    (fun r p =>
      let lo := max first (p.2 * n)
      let hi := min (first + es.length) (p.2 * n + n)
      if r.2.isSome ∨ hi ≤ lo then r
      else r.1.writeRowElems d ctx x p.1 (lo - p.2 * n) ((es.drop (lo - first)).take (hi - lo)))
    (s, none)

/-- The bytes of a tensor's rows in virtual memory. -/
def Tile.spans (x : Tile) : List (Nat × Nat) :=
  (x.rows.map fun r =>
    let b := x.elemBit [0, r.1, r.2.1, r.2.2]
    (b / 8 % 2 ^ 48, (b % 8 + dim x.v 0 * x.desc.fmt.ebits + 7) / 8)).filter fun p => 0 < p.2

/-- Whether two tensors of a context share a byte of virtual memory. -/
def Tile.meets (x y : Tile) : Bool := x.spans.any fun a => y.spans.any fun b => rangesMeet a.1 a.2 b.1 b.2

/-- Whether two lists of pieces share a byte. -/
def piecesMeet (p q : List (List (Nat × Nat) × Nat)) : Bool :=
  let flat (l : List (List (Nat × Nat) × Nat)) : List (Nat × Nat) := (l.map (·.1)).flatten
  (flat p).any fun a => (flat q).any fun b => rangesMeet a.1 a.2 b.1 b.2

/-! ## Reductions (R49 to R54, R310) -/

/-- What the evaluation of a source gives: words in their format, the counts of R50, additions, Kitty addends, read-outs and
inexact read-outs. -/
structure Eval where
  words : List Nat
  nan : Nat
  inf : Nat
  ovf : Nat
  adds : Nat
  kadd : Nat
  krd : Nat
  kinx : Nat

/-- The value of a reduction operand's word: an integer for INT32, else its number. -/
def opValue (f : Fmt) (w : Nat) : Num := if f = .int32 then Num.ofInt (signed 32 w) else f.decode w

/-- Exact sums of INT32 words, saturating, with how often each did (R310). -/
def intFold (own : List Nat) (ins : List (List Nat)) : List (Nat × Nat) :=
  ins.foldl (fun acc l => (acc.zip l).map fun p =>
    let r := int32Acc (signed 32 p.1.1) (signed 32 p.2)
    (wrap 32 r.1, p.1.2 + b2n r.2)) (own.map fun w => (w, 0))

/-- FP32 sums in a fixed order (R310). -/
def floatFold (own : List Nat) (ins : List (List Nat)) : List Nat :=
  ins.foldl (fun acc l => (acc.zip l).map fun p => f32Add p.1 p.2) own

/-- FP32 sums over the pieces of inputs in the order of their arrival: each adds the elements it covers, `off` being the place of
the first element within the inputs (R310). -/
def arrivalFold (own : List Nat) (off : Nat) (ins : List (Nat × List Nat)) (log : List (Nat × Nat × Nat)) : List Nat :=
  log.foldl (fun acc a =>
    match assocGet a.1 ins with
    | none => acc
    | some l => (acc.zip l).zipIdx.map fun p =>
        if a.2.1 ≤ p.2 + off ∧ p.2 + off < a.2.1 + a.2.2 then f32Add p.1.1 p.1.2 else p.1.1) own

/-- The elements of a received step. -/
def CollRecv.elems (x : CollRecv) : List Nat := elemsAt x.fmt.ebits 0 x.data x.n

/-- FP32 words of elements of a format (R310: exact). -/
def toF32 (f : Fmt) (l : List Nat) : List Nat := if f = .fp32 then l else l.map fun w => f32 (f.decode w)

/-- One element's conversion to the node's result format, with its counts. -/
def resultOf (t : Fmt) (cvt : Nat) (v : Num) : Conv × Bool × Bool := (encodeElem t cvt .rne v, v.isNan, v.isInf)

/-- The reduction of own elements [first, first + n) with received steps (R310). -/
def Coll.sumOf (c : Coll) (first n : Nat) (rs : List Nat) (t : Fmt) : Eval :=
  let f := c.req.sd.desc.fmt
  let cvt := bits (rw c.entry 0) 54 4
  let own := (c.own.drop first).take n
  let recv (i : Nat) : CollRecv := c.recvs.getD i (mkRecv 0 0 0 f)
  let off (i : Nat) : Nat := if (recv i).n = n then 0 else first
  let raw (i : Nat) : List Nat := ((recv i).elems.drop (off i)).take n
  if f = .int32 then
    let r := intFold own (rs.map raw)
    ⟨r.map (·.1), 0, 0, sumNat (r.map (·.2)), n * rs.length, 0, 0, 0⟩
  else if c.req.kitty then
    let put (k : Kitty) (g : Fmt) (w : Nat) : Kitty := (kittyAdd k (g.decode w) 1 0).cell
    let cells := rs.foldl (fun ks i => (ks.zip (raw i)).map fun p => put p.1 (recv i).fmt p.2) (own.map fun w => put Kitty.clear f w)
    let vals := cells.map fun k => if k.nan || (k.pinf && k.ninf) then Num.nan else if k.pinf then .inf false
      else if k.ninf then .inf true else .fin (k.sum < 0) k.sum.natAbs (-149)
    let convs := vals.map fun v => t.encodeFloat true .rne v
    ⟨cells.map fun k => kittyRead k t, (vals.filter Num.isNan).length, (vals.filter Num.isInf).length,
      (convs.filter (·.ovf)).length, 0, n * (rs.length + 1), n, (cells.filter (·.inx)).length⟩
  else
    let o := toF32 f own
    let ins := rs.map fun i => (i, toF32 (recv i).fmt (raw i))
    let sums := if bit (rw c.entry 0) 59 ∧ ¬ c.strict then arrivalFold o (if rs.all fun i => off i = 0 then 0 else first) ins c.arrived
      else floatFold o (ins.map (·.2))
    let r := sums.map fun w => resultOf t cvt (f32v w)
    ⟨r.map (·.1.w), (r.filter (·.2.1)).length, (r.filter (·.2.2)).length, (r.filter (·.1.ovf)).length, n * rs.length, 0, 0, 0⟩

/-- Elements that are passed on as they are, with the counts of their values (R50, R310). -/
def copied (f : Fmt) (l : List Nat) : Eval :=
  let vs := l.map (opValue f)
  ⟨l, (vs.filter Num.isNan).length, (vs.filter Num.isInf).length, 0, 0, 0, 0, 0⟩

/-- The elements of a source, with the counts that it adds. -/
def Coll.eval (c : Coll) : Src → Eval
  | .own a n => copied c.req.sd.desc.fmt ((c.own.drop a).take n)
  | .got i a n =>
    let x := c.recvs.getD i (mkRecv 0 0 0 .fp32)
    copied x.fmt ((x.elems.drop a).take n)
  | .sum a n rs wire count =>
    let f := c.req.dd.desc.fmt
    let e := c.sumOf a n rs (if wire then wireFmt c.entry f else f)
    if count then e else { e with adds := 0, kadd := 0, krd := 0, kinx := 0 }

/-- The received steps that a source needs. -/
def Src.needs : Src → List Nat
  | .own _ _ => []
  | .got i _ _ => [i]
  | .sum _ _ rs _ _ => rs

/-- Whether every received step that sources need has ended. -/
def Coll.have (c : Coll) (l : List Src) : Bool := l.all fun x => x.needs.all fun i => (c.recvs.getD i (mkRecv 0 0 0 .fp32)).done

/-- Whether a source comes from a step that came as an empty notice (R315). -/
def Coll.vacant (c : Coll) (l : List Src) : Bool := l.any fun x => x.needs.any fun i => (c.recvs.getD i (mkRecv 0 0 0 .fp32)).empty

/-- The format in which sources travel. -/
def Coll.travel (c : Coll) (l : List Src) : Fmt :=
  if l.any fun x => match x with
    | .sum _ _ _ w _ => w
    | _ => false
  then wireFmt c.entry c.req.dd.desc.fmt
  else match l with
    | .own _ _ :: _ => c.req.sd.desc.fmt
    | _ => c.req.dd.desc.fmt

/-! ## Running collectives -/

/-- The COLL that runs on a route entry. -/
def State.coll (s : State) (d rt : Nat) : Option Coll := (s.fb d).colls.find? fun c => bits c.req.w 112 8 = rt

/-- Change the COLL that runs on a route entry. -/
def State.updColl (s : State) (d rt : Nat) (f : Coll → Coll) : State :=
  s.updFab d fun x => { x with colls := x.colls.map fun c => if bits c.req.w 112 8 = rt then f c else c }

/-- The instance of the last COLL started on an entry (R314). -/
def State.instOf (s : State) (d rt : Nat) : Nat := (assocGet rt (s.fb d).inst).getD 0

/-- The per-kind bits of a SEG (R291). -/
def segLow (rt inst step flags offset : Nat) : Nat :=
  rt * 2 ^ 74 + inst % 65536 * 2 ^ 58 + step % 2 ^ 15 * 2 ^ 43 + flags % 16 * 2 ^ 39 + offset % 2 ^ 32 * 2 ^ 7

/-! ## Segments sent (R298, R303, R312, R313) -/

/-- Segments in a die's segment store. -/
def State.storeUsed (s : State) (d : Nat) : Nat :=
  sumNat ((s.fb d).colls.map fun c => sumNat (c.sends.map fun x => cdiv (x.sent - x.mark) 4096))

/-- The link code by which a SEG goes to a node of which a neighbour word names link `link` (R298, R303). -/
def State.segVia (s : State) (d to_ link : Nat) (fixrt : Bool) : Option (Nat × Bool) :=
  if to_ = s.node d then some (64, false)
  else if link = 0x3E then s.route d to_ 4 fixrt true
  else if s.usable d link then some (link, false)
  else s.route d to_ 4 true

/-- A segment leaves by a link code; 64 stands for this node itself. -/
def State.leaveVia (s : State) (d code : Nat) (m : Msg) : State :=
  if code = 64 then { s.countSegs d [m] with transit := (s.countSegs d [m]).transit ++ [(d, m)] } else s.leave d code m

/-- The segment of a step with its bytes [a, b); `again` marks one that is reissued (R291, R303). -/
def State.segOf (s : State) (d : Nat) (c : Coll) (x : CollSend) (a b : Nat) (again : Bool) : Msg :=
  let flags := x.flags + b2n again * 2 + b2n (x.data.length ≤ b)
  ⟨4, x.dst, s.node d, s.fixedNow c.req.fixrt, segLow (bits c.req.w 112 8) c.inst x.step flags (a / 16), 0, (x.data.drop a).take (b - a)⟩

/-- Send `i` of the COLL of an entry goes on: segments of up to 4 KiB in ascending offset while the store has room (R312, R313). -/
def State.sendSegs : Nat → State → Nat → Nat → Nat → State
  | 0, s, _, _, _ => s
  | n + 1, s, d, rt, i =>
    match s.coll d rt with
    | none => s
    | some c =>
      match c.sends[i]? with
      | none => s
      | some x =>
        if ¬ x.begun ∨ x.ended ∨ 2048 ≤ s.storeUsed d then s
        else
          let e := min x.data.length (x.sent + 4096)
          let s := s.leaveVia d x.via (s.segOf d c x x.sent e false)
          let s := s.updColl d rt fun c => { c with
            sends := listMod c.sends i fun x => { x with sent := e, ended := x.data.length ≤ e } }
          s.sendSegs n d rt i

/-- The segments that a step may need. -/
def CollSend.fuel (x : CollSend) : Nat := x.data.length / 4096 + 2

/-- The segments of a step from its last mark up to byte `upTo` are sent again, as reissued (R303, R312). -/
def State.resendSegs (s : State) (d : Nat) (c : Coll) (x : CollSend) (upTo : Nat) : State :=
  let n := if x.data.isEmpty ∧ x.ended then 1 else cdiv (upTo - x.mark) 4096
  (List.range n).foldl
    (fun s k => s.leaveVia d x.via (s.segOf d c x (x.mark + 4096 * k) (min upTo (x.mark + 4096 * (k + 1))) true)) s

/-- Room in the segment store lets every waiting send of a die go on (R313). -/
def State.resumeSends (s : State) (d : Nat) : State :=
  (s.fb d).colls.foldl
    (fun s c => c.sends.zipIdx.foldl (fun s x => s.sendSegs x.1.fuel d (bits c.req.w 112 8) x.2) s) s

/-! ## Faults and notices (R315, R316) -/

/-- The link that the entry of a COLL names for a node; by the forwarding table where it names none. -/
def Coll.linkTo (c : Coll) (node : Nat) : Nat := ((rtNbs c.entry).find? fun n => n.node = node).elim 0x3E Nb.link

/-- A faulted notice for a step, where the neighbour can be reached (R315). -/
def State.notice (s : State) (d rt : Nat) (c : Coll) (flags to_ step offset : Nat) : State :=
  match s.segVia d to_ (c.linkTo to_) c.req.fixrt with
  | none => s
  | some (via, _) =>
    s.leaveVia d via ⟨4, to_, s.node d, s.fixedNow c.req.fixrt, segLow rt c.inst step (flags + 1) (offset / 16), 0, []⟩

/-- The notices of a COLL that faults: for every step it has not completed, to every neighbour (R315). -/
def State.notices (s : State) (d rt : Nat) (c : Coll) (flags : Nat) : State :=
  let s := (c.sends.filter fun x => !x.acked).foldl (fun s x => s.notice d rt c flags x.dst x.step x.sent) s
  (c.recvs.filter fun x => !x.done && !c.sends.any fun y => y.dst = x.src && y.step = x.step).foldl
    (fun s x => s.notice d rt c flags x.src x.step 0) s

/-- A COLL ends at this node: the item's counts, and the tallies. -/
def State.collEnd (s : State) (d rt : Nat) (c : Coll) (fault : Bool) : State :=
  let s := s.updFab d fun x => { x with colls := x.colls.filter fun y => bits y.req.w 112 8 ≠ rt }
  let s := s.updSlot c.req.region c.req.slot fun y => { (y.addCounts c.nan c.inf c.ovf) with colls := y.colls - 1 }
  let s := (s.tally d R.col_t_done).resumeSends d
  if fault then s.tally d R.col_t_fault else s

/-- The first fault of a COLL is recorded (R316, R328): its peer, code, entry, context and instance, which are the fault's detail too. -/
def Coll.faultRecord (c : Coll) (code peer : Nat) : Nat :=
  peer % 2 ^ 15 * 2 ^ 48 + code * 2 ^ 32 + bits c.req.w 112 8 * 2 ^ 24 + c.req.ctx % 4096 * 2 ^ 12 + c.inst % 4096

/-- The COLL of an entry faults (R315, R316, R328): recorded, announced to its neighbours, and its item faults. Class 5 codes have
raised their event already. -/
def State.collFault (s : State) (d rt code peer : Nat) (det : Option Nat := none) (send : Bool := true) : State :=
  match s.coll d rt with
  | none => s
  | some c =>
    let v := c.faultRecord code peer
    let s := s.recordFirst d F.col_ff_valid v
    let x := det.getD v
    let s := if code / 4096 = 5 then s else s.raise d 0x0C code x { ctx := c.req.ctx, region := c.req.region % 8, fault := true }
    let s := if send then s.notices d rt c 4 else s
    (s.collEnd d rt c true).itemFault c.req.region c.req.slot c.req.va ⟨code, x⟩

/-- Count what the evaluation of a source has added (R330, R331). -/
def State.countEval (s : State) (d : Nat) (e : Eval) : State :=
  let add (s : State) (r : Reg) (n : Nat) : State := if n = 0 then s else s.tally d r 0 n
  add (add (add (add s R.col_t_fadd e.adds) R.kit_t_add e.kadd) R.kit_t_rd e.krd) R.kit_t_inx e.kinx

/-! ## Steps that begin (R297, R298, R316) -/

/-- Send `i` begins: its link is chosen, its bytes are formed, and its segments go; without a route the step faults (R297, R298). -/
def State.beginSend (s : State) (d rt i : Nat) (c : Coll) (x : CollSend) : State :=
  match s.segVia d x.dst x.link c.req.fixrt with
  | none => (s.count32 d F.lnk_drop_count).collFault d rt 0x2012 x.dst
  | some (via, byAlt) =>
    let s := if byAlt ∧ via < 18 then s.tally d R.lnk_t_adapt via else s
    let vacant := c.vacant x.src
    let es := if vacant then [] else x.src.map c.eval
    let s := es.foldl (fun s e => s.countEval d e) s
    let bs := packElems (c.travel x.src).ebits (es.map (·.words)).flatten
    let bs := bs ++ List.replicate ((16 - bs.length % 16) % 16) 0
    let s := s.updColl d rt fun c => { c with
      sends := listMod c.sends i fun x => { x with begun := true, via, data := bs, flags := if vacant then 8 else x.flags, tmo := s.fld d F.col_tmo_us } }
    s.sendSegs (bs.length / 4096 + 2) d rt i

/-- Write `i` of the COLL of an entry is made (R316); a translation fault faults the COLL. -/
def State.makeWrite (s : State) (d rt i : Nat) (c : Coll) (x : CollWrite) : State :=
  let mark (s : State) (e : List Eval) : State := s.updColl d rt fun c => { c with
    writes := listMod c.writes i fun x => { x with done := true }
    nan := c.nan + sumNat (e.map (·.nan)), inf := c.inf + sumNat (e.map (·.inf)), ovf := c.ovf + sumNat (e.map (·.ovf)) }
  if c.vacant x.src then mark s []
  else
    let es := x.src.map c.eval
    let s := es.foldl (fun s e => s.countEval d e) s
    let r := s.writeElems d c.req.ctx c.req.dd x.first (es.map (·.words)).flatten
    match r.2 with
    | some f => r.1.collFault d rt f.code 0 (some f.det)
    | none => mark r.1 es

/-- The COLL of an entry does what its received steps now allow: writes, then sends. -/
def State.collGo (s : State) (d rt : Nat) : State :=
  match s.coll d rt with
  | none => s
  | some c =>
    let s := (c.writes.zipIdx.filter fun x => !x.1.done && c.have x.1.src).foldl
      (fun s x => if (s.coll d rt).isNone then s else s.makeWrite d rt x.2 c x.1) s
    (c.sends.zipIdx.filter fun x => !x.1.begun && c.have x.1.src).foldl
      (fun s x => if (s.coll d rt).isNone then s else s.beginSend d rt x.2 c x.1) s

/-! ## Segments received (R307, R312, R314, R315) -/

/-- A SACK with the watermark of a step (R312). -/
def State.sack (s : State) (d rt inst step dst mark : Nat) (fx : Bool) : State :=
  (s.send d ⟨5, dst, s.node d, fx, segLow rt inst step 0 (mark / 16), 0, []⟩).1

/-- The bytes that a received step should have. -/
def CollRecv.size (x : CollRecv) : Nat := cdiv (x.n * x.fmt.ebits) 128 * 16

/-- A segment accepted for receive `i` (R307, R312, R315). -/
def State.segAccept (s : State) (d rt i : Nat) (c : Coll) (x : CollRecv) (m : Msg) : State :=
  let flags := bits m.low 39 4
  let last := bit flags 0
  let op := bits c.req.w 120 4
  let el (n : Nat) : Nat := min x.n (8 * n / x.fmt.ebits)
  let a := el x.data.length
  let len := x.data.length + m.data.length
  let set (s : State) (since : Nat) (done empty : Bool) : State := s.updColl d rt fun c => { c with
    recvs := listMod c.recvs i fun x => { x with data := x.data ++ m.data, since, done, empty }
    arrived := if m.data.isEmpty then c.arrived else c.arrived ++ [(i, a, el len - a)] }
  let s := s.tally d R.col_t_segrx
  if bit flags 2 then (set s 0 true false).collFault d rt 0x2015 m.src
  else if bit flags 3 then
    if op < 3 ∧ x.n ≠ 0 then (set s 0 true false).collFault d rt 0x2011 m.src
    else (set s 0 true true).sack d rt c.inst x.step m.src len c.req.fixrt
  else if last ∧ len ≠ x.size then (set s 0 true false).collFault d rt 0x2011 m.src
  else if last ∨ x.since = 15 then (set s 0 last false).sack d rt c.inst x.step m.src len c.req.fixrt
  else set s (x.since + 1) false false

/-- A segment of the instance that runs (R312, R315). A faulted notice ends its step at any offset. -/
def State.segApply (s : State) (d rt : Nat) (c : Coll) (m : Msg) : State :=
  match indexWhere (fun x => x.src = m.src && x.step = bits m.low 43 15) c.recvs with
  | none => if bit m.low 41 then (s.tally d R.col_t_segrx).collFault d rt 0x2015 m.src else s
  | some i =>
    let x := c.recvs.getD i (mkRecv 0 0 0 .fp32)
    let off := 16 * bits m.low 7 32
    if bit m.low 41 ∧ ¬ x.done then s.segAccept d rt i c x m
    else if off < x.data.length then s.tally d R.col_t_dup
    else if x.data.length < off then s.tally d R.col_t_oos
    else if x.done then (s.tally d R.col_t_segrx).sack d rt c.inst x.step m.src x.data.length c.req.fixrt
    else (s.segAccept d rt i c x m).collGo d rt

/-- Bytes in a die's early-arrival buffer. -/
def State.earlyUsed (s : State) (d : Nat) : Nat := sumNat ((s.fb d).early.map fun m => m.data.length)

/-- Whether a die's early-arrival buffer of 1 MiB has no room for another whole segment (R314). -/
def State.earlyFull (s : State) (d : Nat) : Bool := 2 ^ 20 < s.earlyUsed d + 4096

/-- How far the instance of a SEG is ahead of the last one started on its entry. -/
def State.segAhead (s : State) (d : Nat) (m : Msg) : Nat := (bits m.low 58 16 + 65536 - s.instOf d (bits m.low 74 8)) % 65536

/-- Whether a SEG is for a later instance. -/
def State.segEarly (s : State) (d : Nat) (m : Msg) : Bool := 0 < s.segAhead d m && s.segAhead d m < 32768

/-- Whether the 16 MiB in which a Courier die reassembles OUT pieces have no room for another whole piece (R352). -/
def State.outsFull (s : State) (d : Nat) : Bool :=
  2 ^ 24 < sumNat ((s.meld.get d).outs.map fun f => 64 + f.payload.length) + 4096

/-- Whether the intake buffer of a half is full (R357). -/
def State.intakeFull (s : State) (d : Nat) : Bool := 512 ≤ (s.meld.get d).intake.length

/-- Whether the credits of a message that has come over a link are withheld: the buffer that it goes to is full (R314, R352, R357). -/
def State.withheld (s : State) (d : Nat) (m : Msg) : Bool :=
  match m.kind with
  | 4 => s.earlyFull d
  | 6 => (bits m.low 80 2 = 0 && s.outsFull d) || (bits m.low 80 2 = 1 && s.intakeFull d)
  | _ => false

/-- With room in the buffers of a die again, the credits withheld on its links are returned. -/
def State.freeKept (s : State) (d : Nat) : State :=
  let open_ (v : Nat) : Bool := if v = 3 then !s.earlyFull d else !s.outsFull d && !s.intakeFull d
  s.updFab d fun x => { x with
    links := x.links.map fun l => { l with
      owed := l.owed.zipIdx.map fun p => if open_ p.2 then p.1 + l.kept.getD p.2 0 else p.1
      kept := l.kept.zipIdx.map fun p => if open_ p.2 then 0 else p.1 } }

/-- A SEG arrives at its node (R312, R314): for the instance that runs, for a later one, for which it is held, or for one that has
ended. -/
def State.segArrive (s : State) (d : Nat) (m : Msg) : State :=
  let rt := bits m.low 74 8
  if s.segEarly d m then s.updFab d fun x => { x with early := x.early ++ [m] }
  else
    match s.coll d rt with
    | some c => if s.segAhead d m = 0 then s.segApply d rt c m else s.tally d R.col_t_dup
    | none => s.tally d R.col_t_dup

/-- A SACK arrives (R313): it raises the mark of the step it names and frees the segments below. -/
def State.sackArrive (s : State) (d : Nat) (m : Msg) : State :=
  let rt := bits m.low 74 8
  match s.coll d rt with
  | none => s
  | some c =>
    if c.inst ≠ bits m.low 58 16 then s
    else
      match indexWhere (fun x => x.dst = m.src && x.step = bits m.low 43 15 && x.begun) c.sends with
      | none => s
      | some i =>
        let x := c.sends.getD i (mkSend 0 ⟨0, 0, 0, 0, 0⟩ [])
        let mark := 16 * bits m.low 7 32
        if mark < x.mark then s
        else
          let s := s.updColl d rt fun c => { c with
            sends := listMod c.sends i fun x => { x with mark := min mark x.data.length, acked := x.ended && x.data.length ≤ mark } }
          s.resumeSends d

/-! ## Starting and completing (R306, R314 to R317) -/

/-- The first queued COLL whose entry is free (R314). -/
def State.nextColl (s : State) (d : Nat) : Option Nat :=
  indexWhere (fun q => (s.coll d (bits q.w 112 8)).isNone) (s.fb d).queue

/-- The slots that wait for room in the COLL queue of a die go on. -/
def State.freeCollWaits (s : State) (d : Nat) : State :=
  { s with regions := s.regions.zipIdx.map fun g =>
      if dieOfRegion g.2 = d then
        { g.1 with slots := g.1.slots.map fun x => if x.wait = .collFull then { x with wait := .none } else x }
      else g.1 }

/-- The rank map of a RESHARD entry (R304). -/
def State.rankMap (s : State) (d : Nat) (e : List Nat) : State × List Nat :=
  if rtKind e ≠ 4 then (s, [])
  else
    let n := bits (rw e 1) 49 15 + bits (rw e 1) 19 15 + 2
    let q := s.read d (bits (rw e 2) 0 52) (2 * n)
    (q.st, (pieces 2 q.data).map leNat)

/-- The segments that came early for an instance are applied. -/
def State.applyEarly (s : State) (d rt inst : Nat) : State :=
  let mine (m : Msg) : Bool := bits m.low 74 8 = rt && bits m.low 58 16 = inst
  let l := (s.fb d).early.filter mine
  let s := (s.updFab d fun x => { x with early := x.early.filter fun m => !mine m }).freeKept d
  l.foldl (fun s m => s.segArrive d m) s

/-- A started COLL whose entry and counts are right begins its steps: sd is read, and what can be sent is sent. -/
def State.collBegin (s : State) (d rt : Nat) (c : Coll) : State :=
  let op := bits c.req.w 120 4
  let use := collUses op c.entry
  let none_ : State × Except FaultInfo (List (List (Nat × Nat) × Nat)) := (s, .ok [])
  let a := if use.1 then s.tilePieces d c.req.ctx c.req.sd .read else none_
  match a.2 with
  | .error f => a.1.collFault d rt f.code 0 (some f.det)
  | .ok src =>
    let b := if use.2 then a.1.tilePieces d c.req.ctx c.req.dd .write else (a.1, .ok [])
    match b.2 with
    | .error f => b.1.collFault d rt f.code 0 (some f.det)
    | .ok dst =>
      if piecesMeet src dst ∨ c.req.sd.meets c.req.dd then b.1.collFault d rt 0x2011 0
      else
        let y := b.1.readTile d c.req.sd src
        let s := y.1.updColl d rt fun c => { c with own := y.2 }
        (s.collGo d rt).applyEarly d rt c.inst

/-- The COLL `q`, `n`th of die `d`'s queue, starts on its route entry (R306, R307, R314, R315). -/
def State.collStarts (s : State) (d n : Nat) (q : CollReq) : State :=
  let rt := bits q.w 112 8
  let op := bits q.w 120 4
  let inst := (s.instOf d rt + 1) % 65536
  let e := (List.range 16).map fun k => s.reg d R.col_rt (16 * rt + k)
  let s := s.updFab d fun x => { x with queue := x.queue.eraseIdx n, inst := assocPut rt inst x.inst }
  let s := s.freeCollWaits d
  let c0 : Coll := ⟨q, inst, e, s.flag 0 F.det_ctl_strict, [], [], [], [], [], 0, 0, 0⟩
  let s := s.updFab d fun x => { x with colls := x.colls ++ [c0] }
  match entryIllegal op e with
  | some k => s.collFault d rt 0x2016 0 (some (rt + k * 256)) false
  | none =>
    let m := s.rankMap d e
    let p := collPlan op e q.sd.count q.dd.count q.sd.desc.globalSize m.2 (m.1.node d) q.dd.desc.fmt
    let p := if q.sd.count = 0 ∨ q.exceeds then p.emptied 8 else p
    let tmo := s.fld d F.col_tmo_us
    let c := { c0 with sends := p.sends, recvs := p.recvs.map fun x => { x with tmo }, writes := p.writes }
    let s := m.1.updColl d rt fun _ => c
    if q.exceeds then
      ((s.recordFirst d F.col_ff_valid (c.faultRecord 0x4007 0)).notices d rt { c with recvs := [] } 12).collEnd d rt c true
    else if ¬ countsFit op e q.sd q.dd then s.collFault d rt 0x2011 0
    else s.collBegin d rt c

/-- COLL_START (R306, R307, R314, R315): a queued COLL starts on its route entry: the instance advances, the entry is latched and
checked, and the steps begin. -/
def execCollStart (d : Fin 2) (s : State) : Host.Outcome State Fault Refusal :=
  if ¬ s.flag d F.col_ctl_en ∨ 16 ≤ (s.fb d).colls.length then .next s
  else
    match s.nextColl d with
    | none => .next s
    | some n =>
      match (s.fb d).queue[n]? with
      | none => .next s
      | some q => .next (s.collStarts d n q)

/-- Whether a COLL has completed: every step sent is acknowledged, every step received, every element written (R316). -/
def Coll.complete (c : Coll) : Bool := c.sends.all (·.acked) && c.recvs.all (·.done) && c.writes.all (·.done)

/-- COLL_COMPLETE (R310, R316): a completed COLL posts its flag if asked and adds its counts to the item's. -/
def execCollComplete (d : Fin 2) (rt : Fin 256) (s : State) : Host.Outcome State Fault Refusal :=
  match s.coll d rt with
  | none => .next s
  | some c =>
    if ¬ c.complete then .next s
    else
      let s := s.collEnd d rt c false
      if bit c.req.w 96 then .next (s.updSlot c.req.region c.req.slot fun y => y.addFlag (bits c.req.w 97 6) 1) else .next s

/-- STEP_TIMEOUT (R317, R320): an unfinished step of a COLL has made no progress for the `col.tmo` µs that its start found: code
0x2014. -/
def execStepTimeout (d : Fin 2) (rt : Fin 256) (step : Nat) (s : State) : Host.Outcome State Fault Refusal :=
  match s.coll d rt with
  | none => .next s
  | some c =>
    let out := (c.sends.find? fun x => x.step = step && x.begun && !x.acked && x.tmo ≠ 0).map fun x => x.dst
    let into := (c.recvs.find? fun x => x.step = step && !x.done && x.tmo ≠ 0).map fun x => x.src
    match into.orElse fun _ => out with
    | some p => .next (s.collFault d rt 0x2014 p)
    | none => .next s

end Sys2Proof.Machine
end

