-- ==== Sys2Proof/Machine/Lockstep.lean ====
section
/-! DEFINITION. Twin lockstep: compare records, comparisons, the halt and its release (R489 to R494), and the settling of strict
mode (R478). -/

namespace Sys2Proof.Machine

/-! ## Records (R491) -/

/-- The 32 bytes of a compare record. -/
def TwinRec.toBytes (x : TwinRec) : List Byte :=
  leBytes 4 x.seq ++ leBytes 4 x.item ++ leBytes 1 x.status ++ leBytes 1 x.cluster ++ leBytes 2 0 ++ leBytes 4 x.nblk ++
    leBytes 16 x.digest

/-- A compare record from its bytes. -/
def TwinRec.ofBytes (b : List Byte) : TwinRec :=
  ⟨leAt b 0 4, leAt b 4 4, leAt b 8 1, leAt b 9 1, leAt b 12 4, leAt b 16 16⟩

/-- The region of die mode that pairs with region `r` (R489). -/
def twinPair (r : Nat) : Nat := (r + 8) % 16

/-- The place of record (r, seq) in a compare buffer (R491). -/
def twinOffset (r seq : Nat) : Nat := (32 * r + seq % 32) * 32

/-- Whether lockstep is halted (R493). -/
def State.twinHalted (s : State) : Bool := s.fld 0 F.det_stat_tw = 2

/-! ## Failures (R493, R494) -/

/-- Whether a slot runs an item of a twin context in a paired region. -/
def State.twinSlot (s : State) (r k : Nat) : Bool := (s.slot r k).st ≠ .idle && s.isTwin r (s.slot r k).ctx

/-- Every slot of the part, as region and slot. -/
def allSlots : List (Nat × Nat) := (List.range 64).map fun i => (i / 4, i % 4)

/-- A failure of a comparison (causes 0 and 1) or a lost peer (cause 2): it is latched unless a failure is, its event is raised, and
every slot of the twin contexts in the paired regions stops decoding (R493, R494). -/
def State.twinHalt (s : State) (cause r item seq : Nat) : State :=
  let v := 2 ^ 63 + cause * 2 ^ 61 + r * 2 ^ 52 + item % 2 ^ 20 * 2 ^ 32 + seq % 2 ^ 32
  let s := if s.flag 0 F.det_tw_mm_valid then s else s.setReg 0 R.det_tw_mm v
  let s := s.raise 0 0x13 (if cause = 2 then 0x4041 else 0x4040) (v % 2 ^ 63)
  let s := s.setFld 0 F.det_stat_tw 2
  allSlots.foldl
    (fun s p => if s.twinSlot p.1 p.2 ∧ (s.slot p.1 p.2).st = .running then s.waitFor p.1 p.2 .stopped else s) s

/-- The lowest region with a record of its own that waits, and that record (R494). -/
def State.twinWaiting (s : State) : Option (Nat × TwinRec) :=
  ((List.range 16).filterMap fun r => match (s.rg r).twOwn with
    | x :: _ => some (r, x)
    | [] => none).head?

/-- The peer is lost (R494). -/
def State.twinLost (s : State) : State :=
  match s.twinWaiting with
  | some (r, x) => s.twinHalt 2 r x.item x.seq
  | none => s.twinHalt 2 ((maskIdx 16 (s.fld 0 F.det_tw_rmask)).headD 0) 0 0

/-- The bridge goes down in die mode (R494). -/
def State.twinBridgeDown (s : State) : State :=
  if s.fld 0 F.det_tw_mode = 1 ∧ s.fld 0 F.det_stat_tw = 1 then s.twinLost else s

/-! ## Comparing (R491, R492) -/

/-- A hand of region `r` has compared equal; in die mode the pair is counted once, at die 0. -/
def State.twinEqual (s : State) (r : Nat) (x : TwinRec) : State :=
  let s := s.updRg r fun g => { g with twDone := if g.twItem = x.item then g.twDone + 1 else 1, twItem := x.item }
  if s.fld 0 F.det_tw_mode = 1 ∧ 8 ≤ r then s else s.tally 0 R.det_t_hcmp

/-- The first hand of region `r` with both records present is compared, and its records are used up. -/
def State.twinCompare (s : State) (r : Nat) : State :=
  let g := s.rg r
  match g.twOwn.find? fun x => g.twPeer.any fun y => y.seq = x.seq with
  | none => s
  | some x =>
    match g.twPeer.find? fun y => y.seq = x.seq with
    | none => s
    | some y =>
      let s := s.updRg r fun g => { g with twOwn := g.twOwn.erase x, twPeer := g.twPeer.erase y }
      if x = y then s.twinEqual r x else s.twinHalt (b2n (x.status ≠ y.status)) r x.item x.seq

/-- A hand of twin context `c` has completed: its record is kept and goes to the other side, over the bridge or as a remote write
(R491). -/
def State.twinSend (s : State) (r c : Nat) (x : TwinRec) : State :=
  let s := s.updRg r fun g => { g with twOwn := g.twOwn ++ [x] }
  let s :=
    if s.fld 0 F.det_tw_mode = 1 then
      (s.updRg (twinPair r) fun g => { g with twIn := g.twIn ++ [x] }).tally (dieOfRegion r) R.brg_t_tx2 0 64
    else
      let d := dieOfRegion r
      s.remoteWrite d (2 * s.fld 0 F.det_tw_peer + d) (s.fld 0 F.det_tw_pbuf_pa * 256 + twinOffset r x.seq) x.toBytes true
        (s.ctxFixed c) (.twin r x.seq 0)
  s.twinCompare r

/-- A remote write into the local compare buffer is acknowledged: its record is on its way to the region's comparison (R491). -/
def State.twinBuffer (s : State) (a : Nat) (data : List Byte) : State :=
  let base := s.fld 0 F.det_tw_buf_pa * 256
  if s.fld 0 F.det_tw_mode = 2 ∧ base ≤ a ∧ a < base + 0x4000 ∧ (a - base) % 32 = 0 ∧ data.length = 32 then
    s.updRg ((a - base) / 1024) fun g => { g with twIn := g.twIn ++ [TwinRec.ofBytes data] }
  else s

/-- TWIN_RECORD (R492): the other side's record of hand `seq` arrives at region `r`, and the hand is compared once both are
present. -/
def execTwinRecord (r : Fin 16) (seq : Nat) (s : State) : Host.Outcome State Fault Refusal :=
  match (s.rg r).twIn.find? fun x => x.seq = seq with
  | none => .next s
  | some x =>
    if s.fld 0 F.det_tw_mode = 1 ∧ s.bridgeDown then .next s
    else .next ((s.updRg r fun g => { g with twIn := g.twIn.erase x, twPeer := g.twPeer ++ [x] }).twinCompare r)

/-- TWIN_PEER_TIMEOUT (R494): no record has arrived for `det.tw_tmo.us` µs while a local record waits. -/
def execTwinPeerTimeout (s : State) : Host.Outcome State Fault Refusal :=
  if s.fld 0 F.det_stat_tw = 1 ∧ s.twinWaiting.isSome then .next s.twinLost else .next s

/-! ## Settings and release (R493, R498, R499) -/

/-- The state field of `det.stat` from the mode: RUNNING while a mode is set. -/
def State.twinRuns (s : State) : State := s.setFld 0 F.det_stat_tw (b2n (s.fld 0 F.det_tw_mode ≠ 0))

/-- `det.tw` has been written while OFF or HALTED: the records of an earlier run are gone; a halt stands until its release. -/
def State.onDetTw (s : State) : State :=
  let s := (List.range 16).foldl (fun s r => s.updRg r fun g =>
    { g with twOwn := [], twIn := [], twPeer := [], twDone := 0, twItem := 0 }) s
  if s.twinHalted then s else s.twinRuns

/-- Writing 1 to `det.tw_mm.valid` releases the halt: each held item completes as a kill, with code 0x400B (R493). -/
def State.onTwinRelease (s : State) : State :=
  if ¬ s.twinHalted then s
  else
    let s := allSlots.foldl
      (fun s p =>
        let x := s.slot p.1 p.2
        if (x.wait = .stopped ∧ ¬ x.replay) ∨ (s.twinSlot p.1 p.2 ∧ (x.wait = .stopped ∨ x.endDone)) then
          (s.itemFault p.1 p.2 x.pc ⟨0x400B, p.2⟩).updSlot p.1 p.2 fun y => { y with endDone := false }
        else s) s
    s.twinRuns

/-- Writing 0 to `det.ctl.rp` releases each slot that a divergence has stopped, as a kill (R497). -/
def State.onReplayOff (s : State) : State :=
  allSlots.foldl
    (fun s p =>
      let x := s.slot p.1 p.2
      if x.wait = .stopped ∧ x.replay then s.itemFault p.1 p.2 x.pc ⟨0x400B, p.2⟩ else s) s

/-! ## Strict mode (R478) -/

/-- What runs now: hands by region, slot, item and number, and collectives by die, route entry and instance. -/
def State.begun (s : State) : DetState where
  hands := s.clusters.filterMap fun c => c.run.map fun h => (h.region, h.slot, h.item, h.seq)
  colls := (s.fab.d0.colls.map fun c => (0, bits c.req.w 112 8, c.inst)) ++ s.fab.d1.colls.map fun c => (1, bits c.req.w 112 8, c.inst)

/-- A write of `det.ctl` clears settled until what was begun before it has completed. -/
def State.onDetStrict (s : State) : State := { s.setFld 0 F.det_stat_settled 0 with det := s.begun }

/-- STRICT_SETTLED (R478): the last hand and COLL begun before a write of `det.ctl.strict` have completed. -/
def execStrictSettled (s : State) : Host.Outcome State Fault Refusal :=
  if s.det.hands.any (s.begun.hands.contains ·) ∨ s.det.colls.any (s.begun.colls.contains ·) then .next s
  else .next { s.setFld 0 F.det_stat_settled 1 with det := DetState.reset }

end Sys2Proof.Machine
end

