-- ==== Sys2Proof/Machine/DeltaCodec.lean ====
section
/-! DEFINITION. The delta codecs DRAW, DQ4, DQ2 and DTK: what encoding and decoding one Meld block compute (R380 to R389). -/

namespace Sys2Proof.Machine

/-- Bits of a 4-byte header or entry read little-endian (R380). -/
def codecBytes (codec n : Nat) : Nat :=
  match codec with
  | 0 => 8192 | 1 => 2176 | 2 => 1152 | _ => 4 + 2 * n

/-- Codes of `w` bits packed from the low bits of each byte up. -/
def packBits (w : Nat) (l : List Nat) : List Byte :=
  (pieces (8 / w) l).map fun p =>
    BitVec.ofNat 8 ((p.zipIdx.map fun x => (x.1 % 2 ^ w) <<< (w * x.2)).foldl (· + ·) 0)

/-- The `w`-bit code `i` of packed bytes. -/
def unpackBits (w : Nat) (bs : List Byte) (i : Nat) : Nat :=
  bits ((bs.getD (i / (8 / w)) 0).toNat) (w * (i % (8 / w))) w

/-- An encoded block (R383): its bytes, the elements saturated and the groups encoded as non-finite (R402). -/
structure EncBlock where
  bytes : List Byte
  sat : Nat
  nonfin : Nat
deriving DecidableEq, Repr

/-- +0. -/
def Num.zero : Num := .fin false 0 0

/-- The groups of 32 elements of a block. -/
def groups32 {α : Type} (l : List α) : List (List α) := pieces 32 l

/-- DRAW (R384): BF16, saturating; `y` holds +0 for invalid elements. -/
def encDraw (y : List Num) (rnd : List Rnd) : EncBlock :=
  let cs := (y.zip rnd).map fun p => Fmt.bf16.encodeFloat false p.2 p.1
  ⟨(cs.map fun c => leBytes 2 c.w).flatten, (cs.filter (·.ovf)).length,
    ((groups32 y).filter fun g => g.any fun v => !v.isFin).length⟩

/-- DQ4 (R385): each group is an MXFP4 block. -/
def encDq4 (y : List Num) (rnd : List Rnd) : EncBlock :=
  let gs := (groups32 y).zip (groups32 rnd) |>.map fun p => mxEncode .mx4e2m1 p.1 p.2
  ⟨(gs.map fun b => BitVec.ofNat 8 b.scale) ++ packBits 4 ((gs.map fun b => b.elems.map (·.w)).flatten), 0,
    (gs.filter fun b => b.scale = 0xFF).length⟩

/-- The scale exponent of a DQ2 group (R386). -/
def dq2Exp (amax : Num) : Int :=
  let x := amax.log2
  if x < -126 then -126 else if x > 127 then 127 else x

/-- The code of a value in a DQ2 group of exponent `x` (R387). -/
def dq2Code (x : Int) (v : Num) (r : Rnd) : Nat :=
  let u := (v.scale (-x)).add (.fin false 3 (-1))
  match u with
  | .fin neg m e =>
    if neg ∨ m = 0 then 0 else if 0 ≤ u.cmp (.fin false 3 0) then 3 else roundInt m e 0 r
  | _ => 2

/-- One DQ2 group (R386): scale byte, codes, saturated elements. `valid` marks the elements that count. -/
def dq2Group (y : List Num) (valid : List Bool) (rnd : List Rnd) : Nat × List Nat × Nat :=
  let used := ((y.zip valid).filter (·.2)).map (·.1)
  if used.any fun v => !v.isFin then (0xFF, y.map fun _ => 2, 0)
  else if used.all Num.isZero then (0, y.map fun _ => 2, 0)
  else
    let x := dq2Exp (used.foldl Num.maxAbs Num.zero)
    let codes := ((y.zip valid).zip rnd).map fun p => if p.1.2 then dq2Code x p.1.1 p.2 else 2
    (((x + 127).toNat), codes, (used.filter fun v => 0 < v.abs.cmp (.fin false 3 (x - 1))).length)

/-- DQ2 (R386, R387). -/
def encDq2 (y : List Num) (valid : List Bool) (rnd : List Rnd) : EncBlock :=
  let gs := (groups32 y).zip ((groups32 valid).zip (groups32 rnd)) |>.map fun p => dq2Group p.1 p.2.1 p.2.2
  ⟨(gs.map fun g => BitVec.ofNat 8 g.1) ++ packBits 2 (gs.map fun g => g.2.1).flatten,
    sumNat (gs.map fun g => g.2.2), (gs.filter fun g => g.1 = 0xFF).length⟩

/-- Insert an element in descending order of magnitude, the lower index first on ties (R388). -/
def rankInsert (e : Nat × Num) : List (Nat × Num) → List (Nat × Num)
  | [] => [e]
  | x :: r => if x.2.abs.cmp e.2.abs < 0 then e :: x :: r else x :: rankInsert e r

/-- DTK (R388): the `k` largest valid elements, in ascending index. -/
def encDtk (kc : Nat) (y : List Num) (valid : List Bool) (rnd : List Rnd) : EncBlock :=
  let used := ((y.zip valid).zipIdx.filter (·.1.2)).map fun p => (p.2, p.1.1)
  let head (n scale : Nat) : List Byte := leBytes 4 (scale + kc * 256 + n * 65536)
  if used.any fun e => !e.2.isFin then ⟨head 0 0xFF, 0, 1⟩
  else
    let ranked := (used.foldl (fun r e => rankInsert e r) []).take (64 * 2 ^ kc)
    let kept := used.filter fun e => ranked.any fun r => r.1 = e.1
    let amax := (kept.map (·.2)).foldl Num.maxAbs Num.zero
    if amax.isZero then
      ⟨head kept.length 0 ++ (kept.map fun e => leBytes 2 (e.1 * 16 + if e.2.neg then 8 else 0)).flatten, 0, 0⟩
    else
      let x0 := amax.log2 - 2
      let x := if x0 < -127 then -127 else if x0 > 127 then 127 else x0
      let vs := kept.map fun e => (e.1, e.2.scale (-x), Fmt.mx4e2m1.encodeFloat false (rnd.getD e.1 .rne) (e.2.scale (-x)))
      ⟨head kept.length (x + 127).toNat ++ (vs.map fun v => leBytes 2 (v.1 * 16 + v.2.2.w)).flatten,
        (vs.filter fun v => 0 < v.2.1.abs.cmp (.fin false 6 0)).length, 0⟩

/-- Encode one block of 4,096 values (R383 step 2). -/
def encodeBlock (codec kc : Nat) (y : List Num) (valid : List Bool) (rnd : List Rnd) : EncBlock :=
  match codec with
  | 0 => encDraw y rnd
  | 1 => encDq4 y rnd
  | 2 => encDq2 y valid rnd
  | _ => encDtk kc y valid rnd

/-- The FP32 words of decoded DQ2 codes (R386). -/
def dq2Level (scale code : Nat) : Num :=
  if scale = 0xFF then .nan
  else if scale = 0 then Num.zero
  else
    let x : Int := (scale : Int) - 127
    match code with
    | 0 => .fin true 3 (x - 1)
    | 1 => .fin true 1 (x - 1)
    | 2 => .fin false 1 (x - 1)
    | _ => .fin false 3 (x - 1)

/-- The entries of an encoded DTK block: index and E2M1 code. -/
def dtkEntries (bs : List Byte) : List (Nat × Nat) :=
  (List.range (leAt bs 2 2)).map fun j => (leAt bs (4 + 2 * j) 2 / 16, leAt bs (4 + 2 * j) 2 % 16)

/-- Whether an encoded DTK block passes the checks of the owning half (R389). -/
def dtkGood (bs : List Byte) (valid : List Bool) : Bool :=
  let es := dtkEntries bs
  let idx := es.map (·.1)
  bits (leAt bs 0 4) 10 6 = 0 && (idx.zip (idx.drop 1)).all (fun p => p.1 < p.2) &&
    idx.all (fun i => valid.getD i false) && es.length ≤ (valid.filter id).length &&
    !(leAt bs 0 1 = 0xFF && es.length ≠ 0)

/-- Decode one block into FP32 words; invalid elements are +0 (R384 to R388). DRAW is a copy, which keeps an element's bits and so a NaN's
payload (R30). A DTK block must have passed `dtkGood`. -/
def decodeBlock (codec : Nat) (bs : List Byte) (valid : List Bool) : List Nat :=
  let value (e : Nat) : Num :=
    match codec with
    | 1 => mxDecode .mx4e2m1 (leAt bs (e / 32) 1) (unpackBits 4 (bs.drop 128) e)
    | 2 => dq2Level (leAt bs (e / 32) 1) (unpackBits 2 (bs.drop 128) e)
    | _ =>
      if leAt bs 0 1 = 0xFF then .nan
      else
        match (dtkEntries bs).find? fun x => x.1 = e with
        | some x => mxDecode .mx4e2m1 (leAt bs 0 1) x.2
        | none => Num.zero
  valid.zipIdx.map fun p =>
    if ¬ p.1 then 0 else if codec = 0 then leAt bs (2 * p.2) 2 * 2 ^ 16 else f32 (value p.2)

/-- The new BF16 residual of an element (R383 step 4). -/
def residual (y : Num) (x : Nat) (valid : Bool) : Nat :=
  let xv := f32v x
  if valid ∧ y.isFin ∧ xv.isFin then (Fmt.bf16.encodeFloat false .rne (y.add xv.negate)).w else 0

end Sys2Proof.Machine
end

