-- ==== Sys2Proof/Machine/MeldBase.lean ====
section
/-! DEFINITION. What Meld reads and how it is laid out: fragment headers, the partner table, job descriptors, the shard map, its
areas and its sections (R335 to R343, R350, R363, R364). -/

namespace Sys2Proof.Machine

/-! ## Parts of the state -/

/-- Meld half `d`. -/
def State.md (s : State) (d : Nat) : MeldDie := s.meld.get d

/-- Change Meld half `d`. -/
def State.updMd (s : State) (d : Nat) (f : MeldDie → MeldDie) : State := { s with meld := s.meld.upd d f }

/-- Job slot `j` of half `d`. -/
def State.job (s : State) (d j : Nat) : MeldSlot := (s.md d).slots.getD j MeldSlot.off

/-- Change job slot `j` of half `d`. -/
def State.updJob (s : State) (d j : Nat) (f : MeldSlot → MeldSlot) : State :=
  s.updMd d fun x => { x with slots := listMod x.slots j f }

/-- The state code of a job slot (R344). -/
def State.jobSt (s : State) (d j : Nat) : Nat := s.fld d F.meld_job_st_state j

/-- Set the state code of a job slot. -/
def State.setJobSt (s : State) (d j n : Nat) : State := s.setFld d F.meld_job_st_state n j

/-- The trick that accumulates. -/
def State.acc (s : State) (d j : Nat) : Nat := s.reg d R.meld_job_acc j

/-- The last trick applied. -/
def State.applied (s : State) (d j : Nat) : Nat := s.reg d R.meld_job_applied j

/-- The own site id (R373). -/
def State.site (s : State) : Nat := s.fld 0 F.meld_cfg_site

/-- Meld half `d` raises an event (R379). -/
def State.meldRaise (s : State) (d code detail : Nat) (ctx : Nat := 0) : State := s.raise d 0x0E code detail { ctx }

/-- The first-fault register of a half takes a fault while it holds none (R375). -/
def State.meldFirst (s : State) (d j code : Nat) : State :=
  s.recordFirst d F.meld_ff_valid (j % 4 * 2 ^ 48 + code * 2 ^ 32 + s.acc d j % 2 ^ 32)

/-- An event that is raised once per trick and partner of a slot (R354): `site` 64 stands for the slot itself. -/
def State.raiseOnce (s : State) (d j code site detail : Nat) : State :=
  if (s.job d j).raised.contains (code, site) then s
  else (s.updJob d j fun x => { x with raised := (code, site) :: x.raised }).meldRaise d code detail

/-! ## Fragment headers (R350, R6) -/

/-- The 64 bytes of a fragment header, in network order; the places of the fields are the model's choice (assumption 62). -/
def FragHdr.toBytes (h : FragHdr) : List Byte :=
  beBytes 2 h.ver ++ beBytes 1 h.codec ++ beBytes 1 h.flags ++ beBytes 4 h.src ++ beBytes 4 h.job ++ beBytes 4 h.weight ++
    beBytes 8 h.trick ++ beBytes 4 h.seq ++ beBytes 4 h.first ++ beBytes 4 h.count ++ beBytes 4 h.plen ++ beBytes 4 h.rng ++
    beBytes 4 h.reserved ++ beBytes 16 h.digest

/-- The big-endian number in `n` bytes at `o`. -/
def beAt (b : List Byte) (o n : Nat) : Nat := beNat ((b.drop o).take n)

/-- A fragment header from its bytes. -/
def FragHdr.ofBytes (b : List Byte) : FragHdr where
  ver := beAt b 0 2
  codec := beAt b 2 1
  flags := beAt b 3 1
  src := beAt b 4 4
  job := beAt b 8 4
  weight := beAt b 12 4
  trick := beAt b 16 8
  seq := beAt b 24 4
  first := beAt b 28 4
  count := beAt b 32 4
  plen := beAt b 36 4
  rng := beAt b 40 4
  reserved := beAt b 44 4
  digest := beAt b 48 16

/-- The site of a header's source (R26). -/
def FragHdr.site (h : FragHdr) : Nat := bits h.src 14 6

/-- The local id of a header's source. -/
def FragHdr.dev (h : FragHdr) : Nat := h.src % 2 ^ 14

/-- Whether the fragment carries a donor's state (R369): flags bit 2. -/
def FragHdr.bulk (h : FragHdr) : Bool := bit h.flags 2

/-- Whether it is the last fragment of its half (R350): flags bit 0 (assumption 62). -/
def FragHdr.lastOfRange (h : FragHdr) : Bool := bit h.flags 0

/-! ## The partner table (R342, R343, R411) -/

/-- A partner entry. -/
structure PEntry where
  idx : Nat
  state : Nat
  site : Nat
  donate : Bool
  job : Nat
  join : Nat
  leave : Nat
  anchor : Nat
  rbase : List Byte
  rcnt : Nat
  rport : Nat
  tdev : Nat
  tbase : Nat × Nat
deriving DecidableEq, Repr

/-- The address of partner entry `i`. -/
def State.entryAddr (s : State) (i : Nat) : Nat := s.fld 0 F.meld_pt_base_base * 2 ^ 14 + 256 * i

/-- The byte offset of the first field of an entry that holds a reserved value (R342, R411). -/
def entryReserved (b : List Byte) : Option Nat :=
  let checks : List (Nat × Bool) :=
    [(0x00, 3 < leAt b 0 1), (0x01, 64 ≤ leAt b 1 1), (0x02, 2 ≤ leAt b 2 2), (0x20, leAt b 0x20 32 ≠ 0),
     (0x50, 32768 < leAt b 0x50 2), (0x56, leAt b 0x56 2 ≠ 0), (0x68, leNat (b.drop 0x68) ≠ 0)]
  (checks.find? (·.2)).map (·.1)

/-- The 256 bytes of partner entry `i`; a table outside memory reads as empty (R374). -/
def State.entryBytes (s : State) (i : Nat) : List Byte :=
  if isMemory (s.entryAddr i) then s.view (s.entryAddr i) 256 else List.replicate 256 0

/-- A partner entry from its bytes; one with a reserved value is EMPTY. -/
def entryOf (i : Nat) (b : List Byte) : PEntry where
  idx := i
  state := if (entryReserved b).isSome then 0 else leAt b 0 1
  site := leAt b 1 1 % 64
  donate := bit (leAt b 2 2) 0
  job := leAt b 4 4
  join := leAt b 8 8
  leave := leAt b 0x10 8
  anchor := leAt b 0x18 8
  rbase := (b.drop 0x40).take 16
  rcnt := leAt b 0x50 2
  rport := leAt b 0x52 2
  tdev := leAt b 0x54 2
  tbase := (leAt b 0x58 8, leAt b 0x60 8)

/-- The 64 entries as they stand. -/
def State.entries (s : State) : List PEntry := (List.range 64).map fun i => entryOf i (s.entryBytes i)

/-- Whether an entry takes contributions and own fragments (R343). -/
def PEntry.open_ (e : PEntry) : Bool := e.state = 1 || e.state = 2

/-- The JOINING and ACTIVE entries of a job, in ascending index. -/
def State.partners (s : State) (job : Nat) : List PEntry := s.entries.filter fun e => e.open_ && e.job = job

/-- The entries of a job that other control records go to: all that are not EMPTY (R343). -/
def State.contacts (s : State) (job : Nat) : List PEntry := s.entries.filter fun e => e.state ≠ 0 && e.job = job

/-- The JOINING or ACTIVE entry of a (job, site) pair. -/
def State.partner (s : State) (job site : Nat) : Option PEntry := (s.partners job).find? fun e => e.site = site

/-- Half `d` reports each entry that holds a reserved value, once (R342). -/
def State.checkEntries (s : State) (d : Nat) : State :=
  let bad := (List.range 64).filterMap fun i => (entryReserved (s.entryBytes i)).map fun o => (i, o)
  let s' := bad.foldl
    (fun s e => if (s.md d).badEntries.contains e.1 then s else s.meldRaise d 0x6003 (e.1 + 256 + e.2 * 65536)) s
  s'.updMd d fun x => { x with badEntries := bad.map (·.1) }

/-! ## Descriptors and shard maps (R336, R337, R341, R381) -/

/-- Whether a range lies within the HBM half of die `d`. -/
def inHalf (d a n : Nat) : Bool := d * hbmHalf ≤ a && a + n ≤ (d + 1) * hbmHalf

/-- Whether an FP32 word is finite. -/
def f32Finite (w : Nat) : Bool := bits w 23 8 ≠ 255

/-- Whether the codec parameter is one that R381 gives. -/
def cparmLegal (codec cparm : Nat) : Bool := cparm < 8 && (codec = 3 || cparm % 4 = 0)

/-- The byte offset of the first field of a descriptor that is illegal on its own (R337). -/
def descReserved (b : List Byte) : Option Nat :=
  let decay := (List.range 8).any fun a => bit (leAt b (0x10 + a) 1) 6
  let areas (d : Nat) : List (Nat × Bool) :=
    (List.range 8).map fun i =>
      let v := leAt b (0x40 + 0x40 * d + 8 * i) 8
      (0x40 + 0x40 * d + 8 * i, if i = 7 then decide (v ≠ 0) else decide (v % 256 ≠ 0))
  let head : List (Nat × Bool) :=
    [(0x00, leAt b 0 2 ≠ 1), (0x02, 8 ≤ leAt b 2 2), (0x08, 4096 ≤ leAt b 8 2), (0x0A, 4 ≤ leAt b 0x0A 1),
     (0x0B, 8 ≤ leAt b 0x0B 1), (0x0C, !cparmLegal (leAt b 0x0A 1) (leAt b 0x0C 1)), (0x0D, leAt b 0x0D 3 ≠ 0), (0x10, decay),
     (0x18, !f32Finite (leAt b 0x18 4)), (0x1C, !f32Finite (leAt b 0x1C 4)), (0x20, leAt b 0x20 4 = 0),
     (0x2C, leAt b 0x2C 2 = 0 || 4096 < leAt b 0x2C 2), (0x2E, leAt b 0x2E 2 = 0 || 16384 < leAt b 0x2E 2),
     (0x30, leAt b 0x30 4 = 0), (0x34, leAt b 0x34 4 ≠ 0), (0x38, leAt b 0x38 8 % 256 ≠ 0 ||
       !inHalf 0 (leAt b 0x38 8) (16 * leAt b 0x2E 2))]
  let tail : List (Nat × Bool) :=
    [(0xC0, leAt b 0xC0 8 % 256 ≠ 0 || !inHalf 0 (leAt b 0xC0 8) (leAt b 0xC8 4 * leAt b 0xCC 2)),
     (0xC8, leAt b 0xC8 4 % 256 ≠ 0), (0xCC, leAt b 0xCC 2 = 0), (0xCE, 64 ≤ leAt b 0xCE 1), (0xCF, leAt b 0xCF 1 ≠ 0),
     (0xD8, leNat (b.drop 0xD8) ≠ 0)]
  ((head ++ areas 0 ++ areas 1 ++ tail).find? (·.2)).map (·.1)

/-- The shard map of `n` entries at address `a`, with the reserved bits of each entry. -/
def State.shardBytes (s : State) (a n : Nat) : List (List Byte) := pieces 16 (s.view a (16 * n))

/-- A shard-map entry: first, count, courier. -/
def shardEntry (b : List Byte) : Nat × Nat × Nat := (leAt b 0 4, leAt b 4 4, leAt b 8 2 % 2 ^ 14)

/-- The offset within its entry of the first illegal field of the shard map (R341). -/
def shardReserved (nblk : Nat) (l : List (List Byte)) : Option Nat :=
  let es := l.map shardEntry
  let check (p : List Byte × Nat) : Option Nat :=
    let e := shardEntry p.1
    let from_ := if p.2 = 0 then 0 else ((es.getD (p.2 - 1) (0, 0, 0)).1 + (es.getD (p.2 - 1) (0, 0, 0)).2.1)
    let c := es.getD e.2.2 (0, 0, 0)
    if e.1 ≠ from_ then some 0
    else if p.2 + 1 = es.length ∧ e.1 + e.2.1 ≠ nblk then some 4
    else if 2 ^ 14 ≤ leAt p.1 8 2 ∨ es.length ≤ e.2.2 ∨ c.2.1 = 0 then some 8
    else if leAt p.1 10 6 ≠ 0 then some 10
    else none
  (l.zipIdx.filterMap check).head?

/-- The blocks of device `n`: first global block and count. -/
def MeldSlot.share (x : MeldSlot) (n : Nat) : Nat × Nat :=
  match x.smap[n]? with
  | some e => (e.1, e.2.1)
  | none => (0, 0)

/-- The first global block and the number of blocks that die `d` of device `n` keeps (R339). -/
def MeldSlot.half (x : MeldSlot) (n d : Nat) : Nat × Nat :=
  let p := x.share n
  let n0 := (p.2 + 1) / 2
  if d = 0 then (p.1, n0) else (p.1 + n0, p.2 - n0)

/-- The owner of global block `b`: device, die and half block (R339, R341). -/
def MeldSlot.owner (x : MeldSlot) (b : Nat) : Option (Nat × Nat × Nat) :=
  match x.smap.zipIdx.find? fun e => e.1.1 ≤ b && b < e.1.1 + e.1.2.1 with
  | none => none
  | some e =>
    let n0 := (e.1.2.1 + 1) / 2
    let q := b - e.1.1
    some (if q < n0 then (e.2, 0, q) else (e.2, 1, q - n0))

/-- Bytes of a bitmap (R363). -/
def bmLen (n0 n1 : Nat) : Nat := (cdiv n0 2048 + cdiv n1 2048) * 256

/-- The bytes of each area for `n` blocks, in the order of the descriptor (R340, R382). -/
def areaBytes (n : Nat) : List Nat := [16384 * n, 16384 * n, 16384 * n, 16384 * n, 196608 * n, 16 * n, 8192 * n]

/-- The byte offset of the first area, ring or stride of a descriptor that does not fit its blocks (R337): the areas of each die lie in its
own HBM half; those of a die without blocks are empty. -/
def descSizes (b : List Byte) (n0 n1 : Nat) : Option Nat :=
  let areas (d n : Nat) : List (Nat × Bool) := (areaBytes n).zipIdx.map fun p =>
    let o := 0x40 + 0x40 * d + 8 * p.2
    (o, n ≠ 0 && !inHalf d (leAt b o 8) p.1)
  let checks := areas 0 n0 ++ areas 1 n1 ++ [(0xC8, decide (leAt b 0xC8 4 < 64 + 65 * (128 + 8 * bmLen n0 n1)))]
  (checks.find? (·.2)).map (·.1)

/-- A field of the descriptor as it stands in memory: read at each use point (R372). -/
def State.liveDesc (s : State) (d j off n : Nat) : Nat := s.viewNat ((s.job d j).base + off) n

/-- A field of the descriptor as it was at INIT. -/
def MeldSlot.dfield (x : MeldSlot) (off n : Nat) : Nat := leAt x.desc off n

/-- The job id of a slot. -/
def MeldSlot.jobId (x : MeldSlot) : Nat := x.dfield 4 4

/-- The context of a slot. -/
def MeldSlot.ctx (x : MeldSlot) : Nat := x.dfield 8 2

/-- The base of area `i` of half `d`: 0 anchor, 1 mom, 2 snap, 3 local, 4 sum, 5 wsum, 6 resid. -/
def MeldSlot.area (x : MeldSlot) (d i : Nat) : Nat := x.dfield (0x40 + 0x40 * d + 8 * i) 8

/-- Whether a slot is enabled and has passed INIT (states 2 to 8). -/
def State.jobOn (s : State) (d j : Nat) : Bool := 2 ≤ s.jobSt d j && s.jobSt d j ≤ 8

/-- The enabled slot of half `d` that carries a job id, whatever its state (R353, R366). -/
def State.enabledJob (s : State) (d job : Nat) : Option Nat :=
  (List.range 4).find? fun j => s.jobSt d j ≠ 0 && (s.job d j).jobId = job

/-- Whether the traffic of a job uses fixed routes alone, as its context says (R298). -/
def State.jobFixed (s : State) (d job : Nat) : Bool := (s.enabledJob d job).any fun j => s.ctxFixed (s.job d j).ctx

/-- The slot of half `d`, past INIT and not in FAULT, that carries a job id. -/
def State.jobOf (s : State) (d job : Nat) : Option Nat :=
  (List.range 4).find? fun j => s.jobOn d j && (s.job d j).jobId = job

/-- The blocks of half `d` of this device in a slot: first global block and count. -/
def State.ownHalf (s : State) (d j : Nat) : Nat × Nat := (s.job d j).half (s.actId d) d

/-- Which elements of global block `b` are valid (R338). -/
def MeldSlot.valid (x : MeldSlot) (b : Nat) : List Bool :=
  let n := if b + 1 = x.dfield 0x30 4 then x.dfield 0x2C 2 else 4096
  (List.range 4096).map fun e => decide (e < n)

/-- The decay entry of an age (R336): off, and k. -/
def State.decay (s : State) (d j age : Nat) : Bool × Nat :=
  let e := s.liveDesc d j (0x10 + age) 1
  (8 ≤ age || bit e 7, e % 64)

/-! ## Sections (R363, R364) -/

/-- A new section. -/
def Sec.new (entry : Option Nat) (site estate : Nat) : Sec :=
  ⟨entry, site, estate, 0, 0, 0, 0, 0xFFFFFFFF, 0, 0, List.replicate 8 0, List.replicate 8 0⟩

/-- The sections of trick `t` as it begins to accumulate. -/
def State.newSecs (s : State) (d j t : Nat) : List Sec :=
  Sec.new none s.site 2 ::
    ((s.partners (s.job d j).jobId).filter fun e => e.join ≤ t).map fun e => Sec.new (some e.idx) e.site e.state

/-- Change the section of a site among those of the accumulating trick. -/
def State.updSec (s : State) (d j site : Nat) (f : Sec → Sec) : State :=
  s.updJob d j fun x => { x with secs := x.secs.map fun c => if c.site = site then f c else c }

/-! ## Areas (R335, R340) -/

/-- Elements of `n` bytes that a half reads at `a`, with their poison marks. -/
def State.meldRead (s : State) (d a n cnt : Nat) : State × List (Nat × Bool) :=
  let r := s.readMarked d a (n * cnt)
  (r.1, (pieces n r.2).map fun p => (leNat (p.map (·.1)), p.any (·.2)))

/-- Elements of `n` bytes that a half writes at `a`, with their poison marks. -/
def State.meldWrite (s : State) (d a n : Nat) (l : List (Nat × Bool)) : State :=
  s.writeMarked d a ((l.map fun e => (leBytes n e.1).map fun b => (b, e.2)).flatten) .unit none

/-- Poison met in an area of a slot: event 0x6011 and manifest flag [4] (R371, R391). -/
def State.meldPoison (s : State) (d j area block : Nat) : State :=
  let s := s.updJob d j fun x => { x with poison := true }
  (s.meldFirst d j 0x6011).meldRaise d 0x6011 (area + block * 2 ^ 32) (s.job d j).ctx

/-- Report poison in an area when some element of what was read carries it. -/
def State.poisonIn (s : State) (d j area block : Nat) (l : List (Nat × Bool)) : State :=
  if l.any (·.2) then s.meldPoison d j area block else s

end Sys2Proof.Machine
end

