-- ==== Sys2Proof/Machine/MeldMerge.lean ====
section
/-! DEFINITION. Merging contributions and closing a trick (R341, R347, R353 to R358, R371). -/

namespace Sys2Proof.Machine

/-! ## Kitty images (R341, R51) -/

/-- The 48 bytes of a cell as one number. -/
def Kitty.image (k : Kitty) : Nat :=
  wrap 320 k.sum + (k.count % 2 ^ 41 + b2n k.nan * 2 ^ 41 + b2n k.pinf * 2 ^ 42 + b2n k.ninf * 2 ^ 43 + b2n k.inx * 2 ^ 44 +
    b2n k.lim * 2 ^ 45) * 2 ^ 320

/-- The cell of an image. -/
def kittyOf (v : Nat) : Kitty :=
  ⟨signed 320 v, bits v 320 41, bit v 361, bit v 362, bit v 363, bit v 364, bit v 365⟩

/-! ## Closing (R347) -/

/-- Whether every JOINING or ACTIVE partner's age-0 contribution has been merged for every block of the half. -/
def State.allMerged (s : State) (d j : Nat) : Bool :=
  let x := s.job d j
  let n := (s.ownHalf d j).2
  (s.partners x.jobId).all fun e => x.secs.any fun c => c.site = e.site && c.masks.getD 0 0 = 2 ^ n - 1

/-- The half enters APPLY at T_c; what APPLY takes of the descriptor is latched (R347, R372). -/
def State.closeTrick (s : State) (d j : Nat) (early : Bool) : State :=
  let x := s.job d j
  let tdl := s.reg d R.meld_job_tdl j
  let app : ApplyPar := ⟨s.liveDesc d j 0x18 4, s.liveDesc d j 0x1C 4, s.liveDesc d j 0x0B 1 % 8⟩
  let blk := bit (s.liveDesc d j 2 2) 0
  let s := s.updJob d j fun y =>
    { y with closed := if early then s.tai else max tdl x.encEnd, early, strict := s.flag 0 F.det_ctl_strict, app, blk }
  let s := (s.setJobSt d j 7).setReg d R.meld_job_tdl 0 j
  let s := (s.tally d R.meld_t_close).copyRestart x.ctx
  if early then s.tally d R.meld_t_eclose else s

/-- The close test of an OPEN slot: the deadline has passed, or an early close is allowed and its condition holds (R347). -/
def State.closeTest (s : State) (d j : Nat) : State :=
  if s.jobSt d j ≠ 6 then s
  else if s.reg d R.meld_job_tdl j ≤ s.tai then s.closeTrick d j false
  else if s.flag d F.meld_ctl_early ∧ ¬ s.flag 0 F.det_ctl_strict ∧ s.allMerged d j then s.closeTrick d j true
  else s

/-- TRICK_CLOSE (R347): the counter has reached T_dl after ENC has ended, or the condition of an early close holds; the half
enters APPLY. -/
def execTrickClose (d : Fin 2) (j : Fin 4) (s : State) : Host.Outcome State Fault Refusal := .next (s.closeTest d j)

/-! ## Merging (R355) -/

/-- The cells of a block after each valid element has been added, and the elements at which the addend limit is reported. -/
def addCells (cells : List Kitty) (xs : List Nat) (valid : List Bool) (m : Nat) (e : Int) : List KittyAdd :=
  (cells.zip (xs.zip valid)).map fun p => if p.2.2 then kittyAdd p.1 (f32v p.2.1) m e else ⟨p.1, false⟩

/-- A contribution to half block `k` (global block `b`) with multiplier `m` and shift −`q` is added to its cells and weight sum;
when they hold poison it is discarded (R355, R371). -/
def State.mergeBlock (s : State) (d j k b : Nat) (xs : List Nat) (m q : Nat) : State × Bool :=
  let x := s.job d j
  let sumA := x.area d 4 + 196608 * k
  let wA := x.area d 5 + 16 * k
  let c := s.meldRead d sumA 48 4096
  let w := c.1.meldRead d wA 16 1
  let s := (w.1.poisonIn d j 4 b c.2).poisonIn d j 5 b w.2
  if c.2.any (·.2) ∨ w.2.any (·.2) then (s.tally d R.meld_t_bad, false)
  else
    let adds := addCells (c.2.map fun p => kittyOf p.1) xs (x.valid b) m (-q)
    let s := (adds.zipIdx.filter (·.1.event)).foldl (fun s p => s.meldRaise d 0x6021 (b * 4096 + p.2) x.ctx) s
    let s := s.meldWrite d sumA 48 (adds.map fun a => (a.cell.image, false))
    let old := (w.2.map (·.1)).headD 0
    (s.meldWrite d wA 16 [((old + m * 2 ^ (63 - q)) % 2 ^ 128, false)], true)

/-- The section of `site` records a merged contribution at an age (R355, R364). -/
def Sec.take (c : Sec) (age k b weight : Nat) (nonfin : Bool) : Sec :=
  { c with
    merged := c.merged + 1
    w := listSet c.w age weight
    masks := listMod c.masks age (· ||| 2 ^ k)
    dflags := if nonfin then c.dflags ||| 2 else c.dflags
    nonfin := c.nonfin + b2n nonfin
    nfFirst := if nonfin then min c.nfFirst b else c.nfFirst }

/-- A contribution is merged at an age: its block, its section, its tallies and, for a partner, the report of non-finite values
(R355, R356). -/
def State.takeContribution (s : State) (d j k b site age : Nat) (xs : List Nat) (m q : Nat) : State :=
  let x := s.job d j
  let r := s.mergeBlock d j k b xs m q
  if ¬ r.2 then r.1
  else
    let nf := (xs.zip (x.valid b)).any fun p => p.2 && !f32Finite p.1
    let s := (r.1.updSec d j site fun c => c.take age k b m nf).tally d R.meld_t_merge
    let s := if nf then s.tally d R.meld_t_nonfin else s
    if nf ∧ site ≠ s.site then s.raiseOnce d j 0x6009 site (site + b * 2 ^ 32) else s

/-! ## The merge decision (R354) -/

/-- The sections of a trick: those accumulating, or those of an earlier trick. -/
def MeldSlot.secsOf (x : MeldSlot) (acc t : Nat) : List Sec := if t = acc then x.secs else (assocGet t x.past).getD []

/-- Whether the manifest of some trick a′ in [f, a] has the bit for (site, age a′ − f, block) set. -/
def MeldSlot.duplicate (x : MeldSlot) (acc f site k : Nat) : Bool :=
  (List.range (acc - f + 1)).any fun age =>
    (x.secsOf acc (f + age)).any fun c => c.site = site && bit (c.masks.getD age 0) k

/-- The decision on a contribution from a partner with entry `entry` and section `sec` to half block `k` (R354). -/
def State.decideBy (s : State) (d j k : Nat) (h : FragHdr) (xs : List Nat) (entry : Option PEntry) (sec : Option Sec) : State :=
  let x := s.job d j
  let a := s.acc d j
  let f := h.trick
  let site := h.site
  match entry, sec with
  | some e, some c =>
    if f < e.join ∨ e.leave ≤ f then s.tally d R.meld_t_bad
    else if a < f then (s.tally d R.meld_t_early).raiseOnce d j 0x6008 site (site + f % 2 ^ 32 * 2 ^ 32)
    else
      let age := a - f
      let dec := s.decay d j age
      if s.liveDesc d j 0x0B 1 < age ∨ dec.1 then
        let s := (s.tally d R.meld_t_stale).updSec d j site fun c => { c with stale := c.stale + 1 }
        s.raiseOnce d j 0x6007 site (site + min age 7 * 256)
      else if x.duplicate a f site k then
        (s.tally d R.meld_t_dup).updSec d j site fun c => { c with dup := c.dup + 1 }
      else if c.masks.getD age 0 ≠ 0 ∧ c.w.getD age 0 ≠ h.weight then
        let s := (s.tally d R.meld_t_wmis).updSec d j site fun c => { c with dflags := c.dflags ||| 1 }
        s.raiseOnce d j 0x6006 site (site + age * 256)
      else s.takeContribution d j k h.first site age xs h.weight dec.2
  | _, _ => s.tally d R.meld_t_bad

/-- The decision on a contribution from a partner to half block `k` (R354). -/
def State.decide (s : State) (d j k : Nat) (h : FragHdr) (xs : List Nat) : State :=
  let x := s.job d j
  s.decideBy d j k h xs (s.partner x.jobId h.site) (x.secs.find? fun c => c.site = h.site && c.entry.isSome)

/-- A whole decoded contribution reaches the intake of a half: merged, or held across APPLY (R344, R357). One that comes at T_c or later
finds the trick closed (R347, R358). -/
def State.intakeBlock (s : State) (d j k : Nat) (h : FragHdr) (xs : List Nat) : State :=
  let s := s.closeTest d j
  let st := s.jobSt d j
  if st = 7 then
    let s := s.updMd d fun y => { y with intake := y.intake ++ [⟨j, h, xs⟩] }
    (s.setFld d F.meld_kstat_intake (s.md d).intake.length).tally d R.meld_t_held
  else if st = 3 ∨ st = 4 ∨ st = 5 ∨ st = 6 ∨ st = 8 then ((s.checkEntries d).decide d j k h xs).closeTest d j
  else s.tally d R.meld_t_bad

/-- The held contributions of a slot are merged in their order once APPLY has ended (R357, R358). -/
def State.mergeHeld (s : State) (d j : Nat) : State :=
  let mine := (s.md d).intake.filter fun h => h.slot = j
  let s := s.updMd d fun y => { y with intake := y.intake.filter fun h => h.slot ≠ j }
  let s := s.setFld d F.meld_kstat_intake (s.md d).intake.length
  let first := (s.ownHalf d j).1
  (mine.foldl (fun s h => s.intakeBlock d j (h.hdr.first - first) h.hdr h.xs) s).freeKept d

end Sys2Proof.Machine
end

