-- ==== Sys2Proof/Machine/MeldRun.lean ====
section
/-! DEFINITION. A trick from TRICK to APPLY: the MELD words, the snapshot, encoding, applying, the manifest and the local update
(R344 to R351, R359 to R364, R371, R372, R383). -/

namespace Sys2Proof.Machine

/-! ## Faults and the end of a slot (R371, R372, R379) -/

/-- An item meets a Meld fault: its event, the first-fault register, and the item's fault (R157, R379). -/
def State.meldFault (s : State) (r k j va code det : Nat) : State :=
  let d := dieOfRegion r
  let s := s.raise d 0x0E code det { ctx := (s.slot r k).ctx, region := r % 8, fault := true }
  (s.meldFirst d j code).itemFault r k va ⟨code, det⟩

/-- Whether a wait is for Meld. -/
def Wait.isMeld : Wait → Bool
  | .trick _ | .bound | .waita _ => true
  | _ => false

/-- The program slots of a die's region 0 that wait for the slot of a context. -/
def State.meldWaiters (s : State) (d ctx : Nat) : List Nat :=
  (List.range 4).filter fun k => (s.slot (8 * d) k).wait.isMeld && (s.slot (8 * d) k).ctx = ctx

/-- A slot begins INIT with the descriptor that its register names, and the shard map that this names (R344). -/
def State.jobInit (s : State) (d j : Nat) : State :=
  let base := s.fld 0 F.meld_job_desc_base j * 256
  let b := s.view base 256
  let raw := if (descReserved b).isSome then [] else s.shardBytes (leAt b 0x38 8) (leAt b 0x2E 2)
  (s.updJob d j fun _ => { MeldSlot.off with base, desc := b, smap := raw.map shardEntry }).setJobSt d j 1

/-- A slot goes to OFF: the words that wait for it fault, and a slot enabled again meanwhile begins INIT (R372). -/
def State.jobOff (s : State) (d j : Nat) : State :=
  let ctx := (s.job d j).ctx
  let s := (s.meldWaiters d ctx).foldl (fun s k => s.meldFault (8 * d) k j ((s.slot (8 * d) k).pc - 16) 0x6004 ctx) s
  let s := ((s.updJob d j fun _ => MeldSlot.off).setJobSt d j 0).setReg d R.meld_job_tdl 0 j
  let s := s.updMd d fun x => { x with intake := x.intake.filter fun h => h.slot ≠ j }
  let s := s.setFld d F.meld_kstat_intake (s.md d).intake.length
  if s.flag 0 F.meld_job_desc_en j then s.jobInit d j else s

/-- A disable that waited for SNAP or APPLY to end takes effect (R372). -/
def State.jobSettle (s : State) (d j : Nat) : State := if (s.job d j).offPend then s.jobOff d j else s

/-- `meld.job[j].desc` has been written with en going from `old` to its new value (R344, R372). -/
def State.onMeldDesc (s : State) (j : Nat) (old : Bool) : State :=
  let now := s.flag 0 F.meld_job_desc_en j
  [0, 1].foldl
    (fun s d =>
      let st := s.jobSt d j
      if now ∧ ¬ old ∧ st = 0 then s.jobInit d j
      else if old ∧ ¬ now ∧ st ≠ 0 then
        if st = 4 ∨ st = 7 then s.updJob d j fun x => { x with offPend := true } else s.jobOff d j
      else s)
    s

/-! ## The local update (R360, R371) -/

/-- Each element of a list where `valid` holds, +0 without a mark elsewhere. -/
def maskValid (valid : List Bool) (l : List (Nat × Bool)) : List (Nat × Bool) :=
  (valid.zip l).map fun p => if p.1 then p.2 else (0, false)

/-- The local update of half block `k`: the anchor in blocking mode, else local plus the correction. -/
def State.localBlock (s : State) (d j k : Nat) : State :=
  let x := s.job d j
  let b := (s.ownHalf d j).1 + k
  let at_ (i : Nat) : Nat := x.area d i + 16384 * k
  if x.blk then
    let a := s.meldRead d (at_ 0) 4 4096
    (a.1.poisonIn d j 0 b a.2).meldWrite d (at_ 3) 4 (maskValid (x.valid b) a.2)
  else
    let l := s.meldRead d (at_ 3) 4 4096
    let c := l.1.meldRead d (at_ 2) 4 4096
    let new := (l.2.zip c.2).map fun p => (f32Add p.1.1 p.2.1, p.1.2 || p.2.2)
    ((c.1.poisonIn d j 3 b l.2).poisonIn d j 2 b c.2).meldWrite d (at_ 3) 4 (maskValid (x.valid b) new)

/-- The local update, after which the slot is in RUN (R345, R360). -/
def State.localUpdate (s : State) (d j : Nat) : State :=
  ((List.range (s.ownHalf d j).2).foldl (fun s k => s.localBlock d j k) s).setJobSt d j 3

/-! ## The MELD words (R142, R345) -/

/-- The slot that a context's MELD word acts on: an enabled slot that names the context, one not in FAULT before one that is. -/
def State.meldSlot (s : State) (d ctx : Nat) : Option Nat :=
  let on := (List.range 4).filter fun j => s.jobSt d j ≠ 0 && (s.job d j).ctx = ctx
  match on.find? fun j => s.jobSt d j ≠ 15 with
  | some j => some j
  | none => on.head?

/-- The trick opens: T_open, the deadline, and SNAP (R346). -/
def State.openTrick (s : State) (d j : Nat) : State :=
  let dl := s.liveDesc d j 0x20 4
  ((s.updJob d j fun x => { x with opened := s.tai }).setReg d R.meld_job_tdl (s.tai + dl * 1000000) j).setJobSt d j 4

/-- The slot waits for Meld, unless it already does. -/
def State.meldWait (s : State) (r k : Nat) (w : Wait) : State := if (s.slot r k).wait = w then s else s.waitFor r k w

/-- TRICK t as the state of its Meld slot lets it act now (R345). -/
def State.trickNow (s : State) (r k va t : Nat) : State :=
  let d := dieOfRegion r
  let ctx := (s.slot r k).ctx
  match s.meldSlot d ctx with
  | none => s.meldFault r k 0 va 0x6004 ctx
  | some j =>
    let st := s.jobSt d j
    if st = 15 then s.meldFault r k j va 0x6004 ctx
    else if st ≠ 3 ∧ st ≠ 8 then s.meldWait r k (.trick t)
    else
      let s := if st = 8 then s.localUpdate d j else s
      if t = 2 ^ 64 - 1 then (s.meldFault r k j va 0x6002 j).setJobSt d j 15
      else if t ≠ s.acc d j then s.meldFault r k j va 0x6001 (j + t % 2 ^ 32 * 2 ^ 32)
      else (s.openTrick d j).resume r k

/-- BOUND as the state of its Meld slot lets it act now (R345). -/
def State.boundNow (s : State) (r k va : Nat) : State :=
  let d := dieOfRegion r
  let ctx := (s.slot r k).ctx
  match s.meldSlot d ctx with
  | none => s.meldFault r k 0 va 0x6004 ctx
  | some j =>
    let st := s.jobSt d j
    if st = 15 then s.meldFault r k j va 0x6004 ctx
    else if st = 8 then (s.localUpdate d j).resume r k
    else if st = 3 ∨ ((st = 5 ∨ st = 6 ∨ st = 7) ∧ ¬ (s.job d j).blk) then s.resume r k
    else s.meldWait r k .bound

/-- WAITA t as its Meld slot lets it act now (R345). -/
def State.waitaNow (s : State) (r k va t : Nat) : State :=
  let d := dieOfRegion r
  let ctx := (s.slot r k).ctx
  match s.meldSlot d ctx with
  | none => s.meldFault r k 0 va 0x6004 ctx
  | some j =>
    let st := s.jobSt d j
    if st = 15 then s.meldFault r k j va 0x6004 ctx
    else if st ≠ 1 ∧ t ≤ s.applied d j then s.resume r k
    else s.meldWait r k (.waita t)

/-- A MELD word is decoded: legal only in die-local region 0, with its reserved bits zero (R142). -/
def State.meldWord (s : State) (r k : Nat) (o : Op) (reg : Bool) (f : State → Nat → Nat → State) :
    Host.Outcome State Fault Refusal :=
  s.onWord r k o fun s w va =>
    if r % 8 ≠ 0 ∨ bits w 0 115 ≠ 0 ∨ (¬ reg ∧ bits w 115 5 ≠ 0) then s.illegal r k va w
    else f s va ((s.slot r k).sreg (bits w 115 5))

/-- TRICK (R345). -/
def execTrick (r : Fin 16) (k : Fin 4) (s : State) : Host.Outcome State Fault Refusal :=
  s.meldWord r k .trick true fun s va t => s.trickNow r k va t

/-- BOUND (R345). -/
def execBound (r : Fin 16) (k : Fin 4) (s : State) : Host.Outcome State Fault Refusal :=
  s.meldWord r k .bound false fun s va _ => s.boundNow r k va

/-- WAITA (R345). -/
def execWaita (r : Fin 16) (k : Fin 4) (s : State) : Host.Outcome State Fault Refusal :=
  s.meldWord r k .waita true fun s va t => s.waitaNow r k va t

/-- TRICK_RELEASE (R345): a held TRICK acts by the state its slot has reached. -/
def execTrickRelease (r : Fin 16) (k : Fin 4) (s : State) : Host.Outcome State Fault Refusal :=
  if s.tripped then .next s else
  match (s.slot r k).wait with
  | .trick t => .next (s.trickNow r k ((s.slot r k).pc - 16) t)
  | _ => .next s

/-- BOUND_RELEASE (R345): a held BOUND acts by the state its slot has reached. -/
def execBoundRelease (r : Fin 16) (k : Fin 4) (s : State) : Host.Outcome State Fault Refusal :=
  if s.tripped then .next s else
  match (s.slot r k).wait with
  | .bound => .next (s.boundNow r k ((s.slot r k).pc - 16))
  | _ => .next s

/-- WAITA_RELEASE (R345): a waiting WAITA is released once its trick has been applied. -/
def execWaitaRelease (r : Fin 16) (k : Fin 4) (s : State) : Host.Outcome State Fault Refusal :=
  if s.tripped then .next s else
  match (s.slot r k).wait with
  | .waita t => .next (s.waitaNow r k ((s.slot r k).pc - 16) t)
  | _ => .next s

/-! ## SNAP (R346) -/

/-- Half block `k` of local is copied to snap. -/
def State.snapBlock (s : State) (d j k : Nat) : State :=
  let x := s.job d j
  let b := (s.ownHalf d j).1 + k
  let l := s.meldRead d (x.area d 3 + 16384 * k) 4 4096
  let l' := maskValid (x.valid b) l.2
  (l.1.poisonIn d j 3 b l').meldWrite d (x.area d 2 + 16384 * k) 4 l'

/-- SNAP ends: every block of local is in snap, the descriptor's codec fields are taken, and ENC begins (R344, R346). -/
def State.snapEnds (s : State) (d j : Nat) : State :=
  let s := (List.range (s.ownHalf d j).2).foldl (fun s k => s.snapBlock d j k) s
  let f (o n : Nat) : Nat := s.liveDesc d j o n
  let live : EncPar := ⟨f 0x0A 1 % 4, f 0x0C 1 % 8, f 0x24 4, f 0x28 4⟩
  ((s.updJob d j fun x => { x with enc := live }).setJobSt d j 5).jobSettle d j

/-- SNAP_DONE (R344, R346): the copy of local to snap has ended, and ENC begins with the descriptor's codec fields. -/
def execSnapDone (d : Fin 2) (j : Fin 4) (s : State) : Host.Outcome State Fault Refusal :=
  .next (if s.jobSt d j ≠ 4 then s else s.snapEnds d j)

/-! ## ENC (R349, R350, R383, R391) -/

/-- The value that the codec encodes for an element (R383, R391): from anchor, snap and residual with their marks. -/
def encValue (valid : Bool) (a p r : Nat × Bool) : Num :=
  if ¬ valid then Num.zero
  else if a.2 ∨ p.2 then .nan
  else
    let dlt := f32 ((f32v a.1).add (f32v p.1).negate)
    f32v (f32 ((f32v dlt).add (if r.2 then Num.zero else Fmt.bf16.decode r.1)))

/-- Half block `k` is encoded: its residual is renewed, its own contribution merged, and its bytes given. -/
def State.encBlock (s : State) (d j k : Nat) : State × List Byte :=
  let x := s.job d j
  let b := (s.ownHalf d j).1 + k
  let valid := x.valid b
  let a := s.meldRead d (x.area d 0 + 16384 * k) 4 4096
  let p := a.1.meldRead d (x.area d 2 + 16384 * k) 4 4096
  let r := p.1.meldRead d (x.area d 6 + 8192 * k) 2 4096
  let s := ((r.1.poisonIn d j 0 b a.2).poisonIn d j 2 b p.2).poisonIn d j 6 b r.2
  let acc := s.acc d j
  let seed := s.ctxField x.ctx 0x20 8
  let rnd (e : Nat) : Rnd :=
    if bit x.enc.cparm 2 then .sr (randBits seed x.enc.rng acc .codec (b * 4096 + e)) else .rne
  let y := (valid.zip (a.2.zip (p.2.zip r.2))).map fun q => encValue q.1 q.2.1 q.2.2.1 q.2.2.2
  let q := encodeBlock x.enc.codec (x.enc.cparm % 4) y valid ((List.range 4096).map rnd)
  let xs := decodeBlock x.enc.codec q.bytes valid
  let res := (y.zip (xs.zip valid)).map fun t => (residual t.1 t.2.1 t.2.2, false)
  let s := s.meldWrite d (x.area d 6 + 8192 * k) 2 res
  let s := (s.tally d R.codec_t_enc).tally d R.codec_t_sat 0 q.sat
  let s := if q.nonfin = 0 then s
    else if (s.job d j).raised.contains (0x6031, 64) then s.tally d R.codec_t_nonfin 0 q.nonfin
    else
      let s := (s.tally d R.codec_t_nonfin 0 q.nonfin).updJob d j fun x => { x with raised := (0x6031, 64) :: x.raised }
      s.raise d 0x0F 0x6031 (j + acc % 2 ^ 24 * 256 + b * 2 ^ 32) { ctx := x.ctx }
  (s.takeContribution d j k b s.site 0 xs x.enc.wown 0, q.bytes)

/-- Consecutive blocks packed into fragments of at most 8,192 payload bytes (R350, R390): half block of the first, and bytes of
each. `cur` holds the blocks of the open fragment, which began at half block `k`. -/
def packFrom : Nat → List (List Byte) → List (List Byte) → List (Nat × List (List Byte))
  | k, cur, [] => if cur.isEmpty then [] else [(k, cur)]
  | k, cur, b :: rest =>
    if cur.isEmpty ∨ b.length + sumNat (cur.map (·.length)) ≤ 8192 then packFrom k (cur ++ [b]) rest
    else (k, cur) :: packFrom (k + cur.length) [b] rest

/-- The kind-specific bits of an FRG message (R351). -/
def frgLow (dir poff : Nat) (last : Bool) : Nat := dir % 4 * 2 ^ 80 + poff % 2 ^ 13 * 2 ^ 67 + b2n last * 2 ^ 66

/-- The OUT pieces of a fragment (R351): offset in bytes, data, and the last mark. -/
def outPieces (h : FragHdr) (payload : List Byte) : List (Nat × List Byte × Bool) :=
  let rest := pieces 4096 (payload.drop 4032)
  (0, h.toBytes ++ payload.take 4032, rest.isEmpty) ::
    rest.zipIdx.map fun p => (4032 + 4096 * p.2, p.1, p.2 + 1 = rest.length)

/-- An own OUT piece is lost in the fabric (R352). -/
def State.outLost (s : State) (d j : Nat) : State :=
  (s.tally d R.meld_t_outlost).raiseOnce d j 0x6012 64 (j + s.acc d j % 2 ^ 32 * 2 ^ 32)

/-- A fragment of slot `j` goes to the Courier as OUT pieces (R351, R352). -/
def State.sendFrag (s : State) (d j : Nat) (h : FragHdr) (payload : List Byte) : State :=
  let x := s.job d j
  let courier := match x.smap[s.actId d]? with
    | some e => e.2.2
    | none => s.actId d
  let fx := s.ctxFixed x.ctx
  let s := (outPieces h payload).foldl
    (fun s p =>
      let m : Msg := ⟨6, 2 * courier + d, s.node d, fx, frgLow 0 (p.1 / 16) p.2.2, 0, p.2.1⟩
      let r := s.send d m
      if r.2.isNone then r.1.outLost d j else r.1)
    s
  s.tally d R.meld_t_out

/-- The header of an own fragment (R350). -/
def State.ownHdr (s : State) (d j flags seq first count rng : Nat) (payload : List Byte) : FragHdr :=
  let x := s.job d j
  ⟨1, x.enc.codec, flags, s.site * 2 ^ 14 + s.actId d, x.jobId, x.enc.wown, s.acc d j, seq, first, count, payload.length, rng,
    0, Config.payloadDigest (s.ctxField x.ctx 0x28 16) payload⟩

/-- ENC ends: every block of the half is encoded and merged, its fragments go to the fabric, and the slot enters OPEN (R349, R350). -/
def State.encEnds (s : State) (d j : Nat) : State :=
  let own := s.ownHalf d j
  let r := (List.range own.2).foldl
    (fun q k =>
      let y := q.1.encBlock d j k
      (y.1, q.2 ++ [y.2])) (s, [])
  let frags := packFrom 0 [] r.2
  let s := frags.zipIdx.foldl
    (fun s f =>
      let payload := f.1.2.flatten
      let last := f.2 + 1 = frags.length
      s.sendFrag d j (s.ownHdr d j (b2n last) f.2 (own.1 + f.1.1) f.1.2.length (s.job d j).enc.rng payload) payload)
    r.1
  let s := s.updJob d j fun x => { x with encEnd := s.tai }
  ((s.setJobSt d j 6).checkEntries d).closeTest d j

/-- ENC_DONE (R349, R350, R383): every block of the half has been encoded and its own contribution merged, and every own fragment
has been handed to the fabric; the slot enters OPEN. -/
def execEncDone (d : Fin 2) (j : Fin 4) (s : State) : Host.Outcome State Fault Refusal :=
  .next (if s.jobSt d j ≠ 5 then s else s.encEnds d j)

/-! ## APPLY (R359, R360, R371) -/

/-- The outer gradient of a cell with weight sum Wr (R359). -/
def gradient (k : Kitty) (wr : Nat) : Nat :=
  if k.nan || (k.pinf && k.ninf) then Fmt.fp32.canonNan
  else if k.pinf then f32 (.inf false)
  else if k.ninf then f32 (.inf true)
  else if wr = 0 ∨ k.sum = 0 then 0
  else
    let n := k.sum.natAbs <<< 512
    f32 (.fin (decide (k.sum < 0)) (2 * (n / wr) + b2n (n % wr ≠ 0)) (-599))

/-- The outer step of an element: new momentum and new anchor from the gradient (R360). -/
def outerStep (eta mu g v a : Nat) : Nat × Nat :=
  let v1 := f32Fma mu v g
  let u := f32Fma mu v1 g
  (v1, f32 (((f32v eta).negate.mul (f32v u)).add (f32v a)))

/-- Half block `k` is read out and the outer optimiser applied; what held no weight is told (R359, R360). -/
def State.applyBlock (s : State) (d j k : Nat) : State × Bool :=
  let x := s.job d j
  let b := (s.ownHalf d j).1 + k
  let valid := x.valid b
  let at_ (i n : Nat) : Nat := x.area d i + n * k
  let c := s.meldRead d (at_ 4 196608) 48 4096
  let w := c.1.meldRead d (at_ 5 16) 16 1
  let m := w.1.meldRead d (at_ 1 16384) 4 4096
  let a := m.1.meldRead d (at_ 0 16384) 4 4096
  let s := (((a.1.poisonIn d j 4 b c.2).poisonIn d j 5 b w.2).poisonIn d j 1 b m.2).poisonIn d j 0 b a.2
  let wr := (w.2.map (·.1)).headD 0
  let wp := w.2.any (·.2)
  let out := (c.2.zip (m.2.zip a.2)).map fun q =>
    let p := wp || q.1.2 || q.2.1.2 || q.2.2.2
    let t := outerStep x.app.eta x.app.mu (gradient (kittyOf q.1.1) wr) q.2.1.1 q.2.2.1
    (t.1, t.2, f32 ((f32v t.2).add (f32v q.2.2.1).negate), p)
  let write (s : State) (i : Nat) (f : Nat × Nat × Nat × Bool → Nat) : State :=
    s.meldWrite d (at_ i 16384) 4 (maskValid valid (out.map fun o => (f o, o.2.2.2)))
  let s := if x.blk then s else write s 2 fun o => o.2.2.1
  let s := write (write s 0 fun o => o.2.1) 1 fun o => o.1
  let s := s.meldWrite d (at_ 4 196608) 48 (List.replicate 4096 (0, false))
  (s.meldWrite d (at_ 5 16) 16 [(0, false)], wr = 0)

/-! ## The manifest (R363, R364) -/

/-- The 64-byte die record of a section. -/
def Sec.record (c : Sec) : List Byte :=
  leBytes 1 c.site ++ leBytes 1 c.estate ++ leBytes 2 c.dflags ++ leBytes 4 c.merged ++ leBytes 4 c.stale ++ leBytes 4 c.nonfin ++
    leBytes 4 c.nfFirst ++ leBytes 4 c.missing ++ leBytes 4 c.dup ++ leBytes 4 0 ++ (c.w.map (leBytes 4)).flatten

/-- What a half has to say in the header of the manifest of the accumulating trick. -/
def State.mfHead (s : State) (d j : Nat) : MfHead :=
  let x := s.job d j
  ⟨s.acc d j, x.opened, x.closed, x.early, x.strict, x.blk, x.poison, x.secs.length, x.app.maxage⟩

/-- The manifest's header (R363): what die 0's half `h` has to say, and what die 1's has if it has applied the same trick. -/
def mfHeader (job n0 n1 : Nat) (h : MfHead) (o : Option MfHead) : List Byte :=
  let other (f : MfHead → Nat) : Nat := o.elim 0 f
  let flags := b2n h.early + other (fun g => b2n g.early) * 2 + b2n h.strict * 4 + b2n h.blk * 8 +
    (b2n h.poison ||| other fun g => b2n g.poison) * 16
  leBytes 2 1 ++ leBytes 2 flags ++ leBytes 4 job ++ leBytes 8 h.trick ++ leBytes 8 h.opened ++ leBytes 8 h.closed ++
    leBytes 8 (other MfHead.opened) ++ leBytes 8 (other MfHead.closed) ++ leBytes 4 n0 ++ leBytes 4 n1 ++ leBytes 4 (bmLen n0 n1) ++
    leBytes 1 h.nsec ++ leBytes 1 h.maxage ++ leBytes 2 0

/-- Die 0's half writes the header of the manifest of trick `t` at `at_`, once it has applied that trick, and again with die 1's fields
once die 1's half has. -/
def State.writeHeader (s : State) (j t at_ n0 n1 : Nat) : State :=
  match (s.job 0 j).head with
  | some h => if h.trick ≠ t then s
    else s.writeRaw 0 at_ (mfHeader (s.job 0 j).jobId n0 n1 h ((s.job 1 j).head.filter fun g => g.trick = t))
  | none => s

/-- The half writes its part of the manifest of the accumulating trick. -/
def State.writeManifest (s : State) (d j : Nat) : State :=
  let x := s.job d j
  let n0 := (x.half (s.actId d) 0).2
  let n1 := (x.half (s.actId d) 1).2
  let bm := bmLen n0 n1
  let at_ := x.dfield 0xC0 8 + x.dfield 0xC8 4 * (s.acc d j % x.dfield 0xCC 2)
  let h := s.mfHead d j
  let s := (s.updJob d j fun y => { y with head := some h }).writeHeader j h.trick at_ n0 n1
  let mine := if d = 0 then 0 else cdiv n0 2048 * 256
  let size := cdiv (if d = 0 then n0 else n1) 2048 * 256
  let s := x.secs.zipIdx.foldl
    (fun s c =>
      let base := at_ + 64 + c.2 * (128 + (x.app.maxage + 1) * bm)
      let s := s.writeRaw d (base + 64 * d) c.1.record
      (List.range (x.app.maxage + 1)).foldl
        (fun s a => s.writeRaw d (base + 128 + a * bm + mine) (leBytes size (c.1.masks.getD a 0))) s)
    s
  s.setReg d R.meld_job_mf at_ j

/-- The number of set bits of a mask below `n`. -/
def popCount (n m : Nat) : Nat := (maskIdx n m).length

/-- The blocks that closed without an age-0 contribution are counted in each partner's section, those without weight in the own
section; event 0x600A when some are missing (R359, R361, R364, R379). -/
def State.countMissing (s : State) (d j empty : Nat) : State :=
  let n := (s.ownHalf d j).2
  let miss (c : Sec) : Nat := if c.entry.isNone then empty else n - popCount n (c.masks.getD 0 0)
  let total := sumNat (((s.job d j).secs.filter (·.entry.isSome)).map miss)
  let s := s.updJob d j fun x => { x with secs := x.secs.map fun c =>
    { c with missing := miss c, dflags := if miss c = 0 then c.dflags else c.dflags ||| 4 } }
  if total = 0 then s
  else (s.tally d R.meld_t_miss 0 total).meldRaise d 0x600A (j + min total 0xFFFFFF * 256 + s.acc d j % 2 ^ 32 * 2 ^ 32)
    (s.job d j).ctx

/-- APPLY ends: every block has been applied, the manifest is written, and the next trick accumulates (R360, R363). -/
def State.applyEnd (s : State) (d j : Nat) : State :=
  let n := (s.ownHalf d j).2
  let r := (List.range n).foldl
    (fun q k =>
      let y := q.1.applyBlock d j k
      (y.1, q.2 + b2n y.2)) (s, 0)
  let s := (r.1.countMissing d j r.2).writeManifest d j
  let t := s.acc d j
  let s := (s.setReg d R.meld_job_applied t j).setReg d R.meld_job_acc (t + 1) j
  let s := s.checkEntries d
  let secs := s.newSecs d j (t + 1)
  (s.updJob d j fun x =>
    { x with past := ((t, x.secs) :: x.past).take 8, secs, raised := [], poison := false }).setJobSt d j 8

end Sys2Proof.Machine
end

