-- ==== Sys2Proof/Machine/MeldJoin.lean ====
section
/-! DEFINITION. Fragments at the Courier and at their owner, control records, joining a running job, and the ends of INIT and APPLY
(R344, R351 to R354, R360, R365 to R370, R389). -/

namespace Sys2Proof.Machine

/-! ## Control records (R365, R6) -/

/-- A control record's fields. -/
structure JoinRec where
  typ : Nat
  site : Nat
  donate : Bool
  job : Nat
  trick : Nat
  atrick : Nat
  nblk : Nat
  reason : Nat
deriving DecidableEq, Repr

/-- The 64 bytes of a control record, in network order. -/
def JoinRec.toBytes (x : JoinRec) : List Byte :=
  beBytes 1 x.typ ++ beBytes 1 x.site ++ beBytes 2 (b2n x.donate) ++ beBytes 4 x.job ++ beBytes 8 x.trick ++ beBytes 8 x.atrick ++
    beBytes 4 x.nblk ++ beBytes 2 x.reason ++ List.replicate 34 0

/-- A control record from its bytes. -/
def JoinRec.ofBytes (b : List Byte) : JoinRec :=
  ⟨beAt b 0 1, beAt b 1 1 % 64, bit (beAt b 2 2) 0, beAt b 4 4, beAt b 8 8, beAt b 16 8, beAt b 24 4, beAt b 28 2⟩

/-- A record of the own site: a request for a join trick, or any other with the fields that do not apply zero. -/
def State.joinRec (s : State) (typ job : Nat) : JoinRec := ⟨typ, s.site, false, job, 0, 0, 0, 0⟩

/-- A CTL piece of half `d` that carries a record of a job. -/
def State.sendCtl (s : State) (d dst idx : Nat) (x : JoinRec) : State :=
  (s.send d ⟨6, dst, s.node d, s.jobFixed d x.job, frgLow 2 idx true, 0, x.toBytes⟩).1

/-- A record for the partner of entry `idx` goes to this device's Courier in job slot `j`; poff names the entry. -/
def State.ctlOut (s : State) (j : Option Nat) (idx : Nat) (x : JoinRec) : State :=
  let courier := match j with
    | some j => (match (s.job 0 j).smap[s.actId 0]? with
      | some e => e.2.2
      | none => s.actId 0)
    | none => s.actId 0
  s.sendCtl 0 (2 * courier) idx x

/-- The node at which the site master's Meld works: die 0 of the device whose rank is followed (R365, R535). -/
def State.masterNode (s : State) : Nat :=
  2 * (s.viewNat (s.fld 0 F.rec_rtab_base * 256 + 2 * s.fld 0 F.rec_stat_crank) 2 % 2 ^ 14)

/-- Whether this device holds the site master role (R373). -/
def State.isMaster (s : State) : Bool := s.flag 0 F.meld_mstr_master

/-- The entry by which a record reaches a site: one of the job before any other that is not EMPTY. -/
def State.entryFor (s : State) (job site : Nat) : Option Nat :=
  let l := s.entries.filter fun e => e.state ≠ 0 && e.site = site
  (l.find? fun e => e.job = job).elim (l.head?.map (·.idx)) fun e => some e.idx

/-- Answer a site, where an entry tells how it is reached. -/
def State.answerSite (s : State) (j : Option Nat) (site : Nat) (x : JoinRec) : State :=
  (s.entryFor x.job site).elim s fun i => s.ctlOut j i x

/-! ## Entries in every device (R367) -/

/-- The master writes entry `i` in its own table and in that of every device of the shard map of slot `j`. -/
def State.writeEntry (s : State) (j i : Nat) (b : List Byte) : State :=
  let a := s.entryAddr i
  let s := s.writeRaw 0 a b
  let n := (s.job 0 j).smap.length
  ((List.range n).filter (· ≠ s.actId 0)).foldl (fun s m => s.remoteWrite 0 (2 * m) a b true (s.ctxFixed (s.job 0 j).ctx) (.meld j i m)) s

/-- Replace `n` bytes at `o`. -/
def putAt (b : List Byte) (o n v : Nat) : List Byte := b.take o ++ leBytes n v ++ b.drop (o + n)

/-- The answers whose writes have all completed OK leave, with event 0x600B after each, and the donor's time begins with its JOIN_ACK
(R367, R370). -/
def State.joinAcks (s : State) : State :=
  s.master.acks.foldl
    (fun s p =>
      let busy := (s.fb 0).reqs.any fun q => match q.kind with
        | .meld _ i _ => i = p.1
        | _ => false
      if busy then s
      else
        let x := JoinRec.ofBytes p.2
        let e := entryOf p.1 (s.entryBytes p.1)
        let s := { s with master := { s.master with
          acks := s.master.acks.erase p
          joins := if e.donate then s.master.joins ++ [(p.1, s.tai)] else s.master.joins } }
        (s.ctlOut (s.enabledJob 0 x.job) p.1 x).meldRaise 0 0x600B (e.site + x.trick % 2 ^ 48 * 2 ^ 16)) s

/-! ## The donor's state (R369) -/

/-- The FP32 payload of join-bulk part `rng` of half block `k`. -/
def State.bulkPart (s : State) (d j k rng : Nat) : State × List Byte :=
  let x := s.job d j
  let i := rng % 2
  let r := s.meldRead d (x.area d i + 16384 * k + 8192 * (rng / 2)) 4 2048
  (r.1.poisonIn d j i ((s.ownHalf d j).1 + k) r.2, (r.2.map fun p => leBytes 4 p.1).flatten)

/-- The half sends its anchor and momentum as join-bulk fragments. -/
def State.sendBulk (s : State) (d j anchor : Nat) : State :=
  let own := s.ownHalf d j
  (List.range (4 * own.2)).foldl
    (fun s q =>
      let k := q / 4
      let p := s.bulkPart d j k (q % 4)
      let x := p.1.job d j
      let h : FragHdr := ⟨1, 0, b2n (q + 1 = 4 * own.2) + 4, p.1.site * 2 ^ 14 + p.1.actId d, x.jobId, 0, anchor, q, own.1 + k, 1,
        p.2.length, q % 4, 0, Config.payloadDigest (p.1.ctxField x.ctx 0x28 16) p.2⟩
      p.1.sendFrag d j h p.2)
    s

/-- The half serves each JOINING entry with donate once its applied trick has reached the anchor trick. -/
def State.donate (s : State) (d j : Nat) : State :=
  if s.jobSt d j < 3 ∨ 8 < s.jobSt d j then s
  else
    (s.partners (s.job d j).jobId).foldl
      (fun s e =>
        let key := (e.idx, e.anchor)
        if e.state ≠ 1 ∨ ¬ e.donate ∨ (s.job d j).served.contains key ∨ s.applied d j < e.anchor then s
        else
          let s := s.updJob d j fun x => { x with served := key :: x.served }
          if s.applied d j = e.anchor then s.sendBulk d j e.anchor
          else s.meldRaise d 0x600D (e.site + 6 * 256) (s.job d j).ctx)
      s

/-- A Meld half at the end of a clock: entries that have come late are served at once. -/
def State.meldClock (s : State) (d : Nat) : State := (List.range 4).foldl (fun s j => s.donate d j) s

/-! ## The joiner (R369) -/

/-- A half in JOINWAIT has every part: it enters RUN, and its master is told. A half of the device without blocks follows. -/
def State.joinDone (s : State) (d j anchor : Nat) : State :=
  let enter (s : State) (d : Nat) : State :=
    let s := (s.setReg d R.meld_job_applied anchor j).setReg d R.meld_job_acc (anchor + 1) j
    (s.updJob d j fun x => { x with secs := s.newSecs d j (anchor + 1), parts := [] }).setJobSt d j 3
  let s := enter s d
  let s := if s.jobSt (1 - d) j = 2 ∧ (s.ownHalf (1 - d) j).2 = 0 then enter s (1 - d) else s
  s.sendCtl d s.masterNode 0 (s.joinRec 5 (s.job d j).jobId)

/-- A join-bulk part for half block `k` arrives (R369). -/
def State.joinPart (s : State) (d j k : Nat) (h : FragHdr) (payload : List Byte) : State :=
  if s.jobSt d j ≠ 2 ∨ 4 ≤ h.rng ∨ payload.length ≠ 8192 then s.tally d R.meld_t_bad
  else
    let p := 4 * k + h.rng
    let s := s.tally d R.meld_t_bulk
    if (s.job d j).parts.contains p then s.tally d R.meld_t_dup
    else
      let s := s.updJob d j fun x => { x with parts := p :: x.parts }
      let x := s.job d j
      let valid := (x.valid ((s.ownHalf d j).1 + k)).drop (2048 * (h.rng / 2))
      let vals := maskValid valid ((pieces 4 payload).map fun b => (leNat b, false))
      let at_ (i : Nat) : Nat := x.area d i + 16384 * k + 8192 * (h.rng / 2)
      let s := s.meldWrite d (at_ (h.rng % 2)) 4 vals
      let s := if h.rng % 2 = 0 then s.meldWrite d (at_ 3) 4 vals else s
      if (s.job d j).parts.length = 4 * (s.ownHalf d j).2 then s.joinDone d j h.trick else s

/-! ## At the Courier (R352, R353) -/

/-- Whether a Courier has had a fragment of a node, by trick and number. -/
def MeldDie.had (x : MeldDie) (node : Nat) (h : FragHdr) : Bool :=
  x.seen.any fun e => e.1 = node && e.2.1 = h.trick && e.2.2.1 = h.bulk && bit e.2.2.2 h.seq

/-- A Courier marks a fragment as had. -/
def MeldDie.mark (x : MeldDie) (node : Nat) (h : FragHdr) : MeldDie :=
  let same (e : Nat × Nat × Bool × Nat) : Bool := e.1 = node && e.2.1 = h.trick && e.2.2.1 = h.bulk
  if x.seen.any same then
    { x with seen := x.seen.map fun e => if same e then (e.1, e.2.1, e.2.2.1, e.2.2.2 ||| 2 ^ h.seq) else e }
  else { x with seen := (node, h.trick, h.bulk, 2 ^ h.seq) :: x.seen }

/-- The bytes of a payload or block of `n` bytes from pieces that filled whole slots (R289, R351). -/
def cutToLen (n : Nat) (b : List Byte) : Option (List Byte) := if n ≤ b.length ∧ b.length < n + 16 then some (b.take n) else none

/-- Whether two OUT fragments are the same one in reassembly: source node, trick and frag_seq (R352), with the job, in which alone those
numbers count. -/
def Frag.same (f g : Frag) : Bool :=
  f.node = g.node && f.hdr.trick = g.hdr.trick && f.hdr.seq = g.hdr.seq && f.hdr.job = g.hdr.job && f.hdr.bulk = g.hdr.bulk

/-- The fragment that an OUT piece belongs to, with the piece: a piece with a header begins one, and another goes on with the one of its
node that was begun last of those it fits. -/
def MeldDie.outOf (x : MeldDie) (src poff : Nat) (b : List Byte) : Option Frag :=
  if poff = 0 then some ⟨src, FragHdr.ofBytes (b.take 64), b.drop 64⟩
  else ((x.outs.filter fun f => f.node = src && f.payload.length = 16 * poff).getLast?).map fun f =>
    { f with payload := f.payload ++ b }

/-- An OUT piece arrives at a Courier: the pieces of a fragment come in order, and a whole fragment goes to the WAN gateway unless it is a
duplicate (R352). -/
def State.outPiece (s : State) (d src poff : Nat) (last : Bool) (b : List Byte) : State :=
  match (s.md d).outOf src poff b with
  | none => s
  | some f =>
    let s := s.updMd d fun x => { x with outs := x.outs.filter fun g => !f.same g }
    if ¬ last then s.updMd d fun x => { x with outs := x.outs ++ [f] }
    else
      match cutToLen f.hdr.plen f.payload with
      | none => s.freeKept d
      | some b =>
        if (s.md d).had src f.hdr then (s.tally d R.meld_t_dup).freeKept d
        else (s.updMd d fun x => { x.mark src f.hdr with outq := x.outq ++ [{ f with payload := b }] }).freeKept d

/-- FRG_OUT (R352): an OUT piece arrives at a Courier die; it waits while the reassembly memory is full. -/
def execFrgOut (d : Fin 2) (via : Nat) (m : Msg) (s : State) : Host.Outcome State Fault Refusal :=
  if bits m.low 80 2 ≠ 0 then .next s
  else match s.arrives d via m 6 with
    | some t =>
      if s.outsFull d then .next (s.parked d via m)
      else .next (t.outPiece d m.src (bits m.low 67 13) (bit m.low 66) m.data)
    | none => .next s

/-- The bytes of each block of a partner's payload; none where payload_len does not fit the codec (R353, R389). -/
def splitBlocks (codec : Nat) : Nat → List Byte → Option (List (List Byte))
  | 0, b => if b.isEmpty then some [] else none
  | n + 1, b =>
    let size := if codec = 3 then 4 + 2 * leAt b 2 2 else codecBytes codec 0
    if b.length < size ∨ (codec = 3 ∧ 64 * 2 ^ bits (leAt b 0 4) 8 2 < leAt b 2 2) then none
    else (splitBlocks codec n (b.drop size)).map fun l => b.take size :: l

/-- The check of R353 that a partner fragment fails, by its place in the list. -/
def State.courierCheck (s : State) (d site : Nat) (h : FragHdr) (payload : List Byte) : Option Nat :=
  let slot := s.enabledJob d h.job
  let x := (slot.map fun j => s.job d j).getD MeldSlot.off
  let wrong : Bool := if h.bulk then h.codec ≠ 0 || h.count ≠ 1 || payload.length ≠ 8192
    else (splitBlocks h.codec h.count payload).isNone
  let checks : List Bool :=
    [h.ver ≠ 1, 3 < h.codec, 8 ≤ h.flags || h.reserved ≠ 0, 2 ^ 20 ≤ h.src || h.site ≠ site, slot.isNone,
     x.dfield 0x30 4 < h.first + h.count, h.plen ≠ payload.length || wrong,
     bit (x.dfield 2 2) 1 && h.digest ≠ Config.payloadDigest (s.ctxField x.ctx 0x28 16) payload]
  indexWhere id checks

/-- The IN pieces of a block (R351): offset in bytes, data with the header copy, and the last mark. -/
def inPieces (h : FragHdr) (block : List Byte) : List (Nat × List Byte × Bool) :=
  let ps := pieces 4032 block
  ps.zipIdx.map fun p => (4032 * p.2, h.toBytes ++ p.1, p.2 + 1 = ps.length)

/-- A Courier takes an authenticated partner fragment: it is checked, split by block, and sent to the owners (R353). -/
def State.courierTake (s : State) (d site : Nat) (h : FragHdr) (payload : List Byte) : State :=
  match s.courierCheck d site h payload with
  | some c =>
    let j := (s.enabledJob d h.job).getD 0
    (s.tally d R.meld_t_bad).raiseOnce d j 0x6005 site (site + c * 256)
  | none =>
    match s.enabledJob d h.job with
    | none => s
    | some j =>
      let x := s.job d j
      let blocks := if h.bulk then [payload] else (splitBlocks h.codec h.count payload).getD []
      blocks.zipIdx.foldl
        (fun s p =>
          match x.owner (h.first + p.2) with
          | none => s
          | some o =>
            let c : FragHdr := { h with first := h.first + p.2, count := 1, plen := p.1.length }
            (inPieces c p.1).foldl
              (fun s q =>
                (s.send d ⟨6, 2 * o.1 + o.2.1, s.node d, s.ctxFixed x.ctx, frgLow 1 (q.1 / 16) q.2.2, 0, q.2.1⟩).1.tally d R.meld_t_relay)
              s)
        s

/-! ## At the owner (R354, R389) -/

/-- A whole partner block has arrived: its part of a join, or its decoding and the merge decision. -/
def State.wholeBlock (s : State) (d : Nat) (h : FragHdr) (b : List Byte) : State :=
  match s.jobOf d h.job with
  | none => s.tally d R.meld_t_bad
  | some j =>
    let x := s.job d j
    match x.owner h.first with
    | none => s.tally d R.meld_t_bad
    | some o =>
      if o.1 ≠ s.actId d ∨ o.2.1 ≠ d then s.tally d R.meld_t_bad
      else if h.bulk then s.joinPart d j o.2.2 h b
      else
        let s := s.tally d R.meld_t_rx
        let valid := x.valid h.first
        if h.codec = 3 ∧ ¬ dtkGood b valid then
          let s := (s.count32 d F.codec_derr_count).tally d R.meld_t_bad
          if (s.job d j).raised.contains (0x6030, h.site) then s
          else (s.updJob d j fun y => { y with raised := (0x6030, h.site) :: y.raised }).raise d 0x0F 0x6030
            (h.site + h.first * 2 ^ 32) { ctx := x.ctx }
        else (s.tally d R.codec_t_dec).intakeBlock d j o.2.2 h (decodeBlock h.codec b valid)

/-- An IN piece joins its block (R351). -/
def InPart.add (p : InPart) (off : Nat) (b : List Byte) (last : Bool) : InPart :=
  { p with got := assocPut off b p.got, last := if last then some off else p.last }

/-- The bytes of a block all of whose pieces have come. -/
def InPart.whole (p : InPart) : Option (List Byte) :=
  match p.last with
  | none => none
  | some e =>
    let l := p.got.filter fun q => q.1 ≤ e
    let r := l.foldl (fun (r : Option (List Byte)) q => match r with
      | some b => if b.length = q.1 then some (b ++ q.2) else none
      | none => none) (some [])
    r.bind (cutToLen p.hdr.plen)

/-- An IN piece arrives at a half. -/
def State.inPiece (s : State) (d src off : Nat) (last : Bool) (b : List Byte) : State :=
  let h := FragHdr.ofBytes (b.take 64)
  let p := (((s.md d).ins.find? fun p => p.node = src && p.hdr = h).getD ⟨src, h, [], none⟩).add off (b.drop 64) last
  let s := s.updMd d fun x => { x with ins := x.ins.filter fun q => !(q.node = src && q.hdr = h) }
  match p.whole with
  | some bytes => s.wholeBlock d h bytes
  | none => s.updMd d fun x => { x with ins := x.ins ++ [p] }

/-- FRG_IN (R354): an IN piece arrives at an owner half; it waits while the intake buffer is full. -/
def execFrgIn (d : Fin 2) (via : Nat) (m : Msg) (s : State) : Host.Outcome State Fault Refusal :=
  if bits m.low 80 2 ≠ 1 then .next s
  else match s.arrives d via m 6 with
    | some t =>
      if s.intakeFull d then .next (s.parked d via m)
      else .next (t.inPiece d m.src (16 * bits m.low 67 13) (bit m.low 66) m.data)
    | none => .next s

/-! ## Control records on the way (R365) -/

/-- A CTL piece: a record of the own site for a partner at its Courier, or a record for the site master. -/
def State.ctlPiece (s : State) (d src idx : Nat) (b : List Byte) : State :=
  let x := JoinRec.ofBytes b
  if x.typ = 0 ∨ 5 < x.typ then s.tally d R.meld_t_bad
  else if x.site = s.site ∧ x.typ ≠ 5 then s.updMd d fun y => { y with ctlq := y.ctlq ++ [(idx, b)] }
  else if ¬ s.isMaster then s.tally d R.meld_t_bad
  else { s with master := { s.master with inbox := s.master.inbox ++ [(s.clk, src, b)] } }

/-- FRG_CTL (R365): a CTL piece arrives. -/
def execFrgCtl (d : Fin 2) (via : Nat) (m : Msg) (s : State) : Host.Outcome State Fault Refusal :=
  if bits m.low 80 2 ≠ 2 then .next s
  else match s.arrives d via m 6 with
    | some s => .next (s.ctlPiece d m.src (bits m.low 67 13 % 64) m.data)
    | none => .next s

/-! ## The site master (R366 to R370) -/

/-- The next record of a type for the master: the oldest, and of those that came in one clock the one of the lowest site. -/
def State.nextRecord (s : State) (typ : Nat) : Option (Nat × Nat × List Byte) :=
  let l := s.master.inbox.filter fun e => (JoinRec.ofBytes e.2.2).typ = typ
  match l with
  | [] => none
  | e :: r => some (r.foldl (fun a b =>
      if b.1 = a.1 ∧ (JoinRec.ofBytes b.2.2).site < (JoinRec.ofBytes a.2.2).site then b else a) e)

/-- The master takes the next record of a type. -/
def State.onRecord (s : State) (typ : Nat) (f : State → Nat → JoinRec → State) : Host.Outcome State Fault Refusal :=
  match s.nextRecord typ with
  | none => .next s
  | some e => .next (f { s with master := { s.master with inbox := s.master.inbox.erase e } } e.2.1 (JoinRec.ofBytes e.2.2))

/-- A join request is refused. -/
def State.refuseJoin (s : State) (x : JoinRec) (reason : Nat) : State :=
  s.answerSite (s.enabledJob 0 x.job) x.site { s.joinRec 3 x.job with reason }

/-- A join request is admitted into entry `i` (R367). -/
def State.admitJoin (s : State) (j i : Nat) (x : JoinRec) : State :=
  let acc := s.acc 0 j
  let join := if x.donate then acc + 1 else x.trick
  let anchor := if x.donate then acc else 0
  let b := s.entryBytes i
  let b := putAt (putAt (putAt (putAt b 0 1 1) 1 1 x.site) 2 2 (b2n x.donate)) 4 4 x.job
  let b := putAt (putAt (putAt b 8 8 join) 0x10 8 max64) 0x18 8 anchor
  let s := s.writeEntry j i b
  let ack := { s.joinRec 2 x.job with trick := join, atrick := anchor }
  ({ s with master := { s.master with acks := s.master.acks ++ [(i, ack.toBytes)] } }).joinAcks

/-- The decision on a join request (R366). -/
def State.joinReq (s : State) (x : JoinRec) : State :=
  match s.enabledJob 0 x.job with
  | none => s.refuseJoin x 2
  | some j =>
    let es := s.entries
    let same (e : PEntry) : Bool := e.job = x.job && e.site = x.site
    if x.nblk ≠ (s.job 0 j).dfield 0x30 4 then s.refuseJoin x 3
    else if es.any (fun e => e.open_ && same e) then s.refuseJoin x 4
    else if x.donate ∧ s.jobSt 0 j ≠ 3 then s.refuseJoin x 4
    else if ¬ x.donate ∧ x.trick ≤ s.acc 0 j then s.refuseJoin x 4
    else
      match (es.find? fun e => e.state = 3 && same e).orElse fun _ => es.find? fun e => e.state = 0 with
      | none => (s.refuseJoin x 1).meldRaise 0 0x6010 (x.site + x.job * 2 ^ 32)
      | some e => s.admitJoin j e.idx x

/-- JOIN_REQ (R366, R367): the master decides its oldest join request. -/
def execJoinReq (s : State) : Host.Outcome State Fault Refusal := s.onRecord 1 fun s _ x => s.joinReq x

/-- The joiner's master has been admitted by the donor: its ACTIVE entries take the join trick, and the other partners are asked
(R368). -/
def State.joinAck (s : State) (j : Nat) (x : JoinRec) : State :=
  let y := s.job 0 j
  if x.site ≠ y.dfield 0xCE 1 then s
  else
    let es := s.partners x.job
    let s := (es.filter fun e => e.state = 2).foldl
      (fun s e => s.writeEntry j e.idx (putAt (s.entryBytes e.idx) 8 8 x.trick)) s
    ((s.contacts x.job).filter fun e => e.site ≠ x.site).foldl
      (fun s e => s.ctlOut (some j) e.idx { s.joinRec 1 x.job with trick := x.trick, nblk := y.dfield 0x30 4 }) s

/-- JOIN_ACK (R368): the joiner's master takes its oldest admission. -/
def execJoinAck (s : State) : Host.Outcome State Fault Refusal :=
  s.onRecord 2 fun s _ x => match s.jobOf 0 x.job with
    | some j => s.joinAck j x
    | none => s.tally 0 R.meld_t_bad

/-- JOIN_REFUSE (R368): a refusal raises event 0x600D with its reason. -/
def execJoinRefuse (s : State) : Host.Outcome State Fault Refusal :=
  s.onRecord 3 fun s _ x => s.meldRaise 0 0x600D (x.site + x.reason * 256)

/-- The nodes of the halves that hold blocks, by the shard map. -/
def MeldSlot.owners (x : MeldSlot) : List Nat :=
  (List.range (2 * x.smap.length)).filter fun n => (x.half (n / 2) (n % 2)).2 ≠ 0

/-- The half at device `src` reports RUN for job slot `j`; when every one has, JOIN_DONE goes to every partner (R370). -/
def State.halfReady (s : State) (src : Nat) (x : JoinRec) (j : Nat) : State :=
  let s := { s with master := { s.master with ready := (j, src) :: s.master.ready.filter (· ≠ (j, src)) } }
  if (s.job 0 j).owners.all fun n => s.master.ready.contains (j, n) then
    let s := { s with master := { s.master with ready := s.master.ready.filter fun p => p.1 ≠ j } }
    let s := (s.contacts x.job).foldl (fun s e => s.ctlOut (some j) e.idx (s.joinRec 4 x.job)) s
    s.meldRaise 0 0x600C (s.site + s.acc 0 j % 2 ^ 48 * 2 ^ 16)
  else s

/-- JOIN_READY (R370): a half reports RUN; when every one has, JOIN_DONE goes to every partner. -/
def execJoinReady (s : State) : Host.Outcome State Fault Refusal :=
  s.onRecord 5 fun s src x => match s.jobOf 0 x.job with
    | none => s.tally 0 R.meld_t_bad
    | some j => s.halfReady src x j

/-- JOIN_DONE (R370): the partner's master writes the entry ACTIVE in every device. -/
def execJoinDone (s : State) : Host.Outcome State Fault Refusal :=
  s.onRecord 4 fun s _ x => match s.jobOf 0 x.job, s.partner x.job x.site with
    | some j, some e =>
      let s := { s with master := { s.master with joins := s.master.joins.filter fun p => p.1 ≠ e.idx } }
      if e.state = 1 then s.writeEntry j e.idx (putAt (s.entryBytes e.idx) 0 1 2) else s
    | _, _ => s.tally 0 R.meld_t_bad

/-- JOIN_TIMEOUT (R370): a donor master has had no JOIN_DONE for entry `i` within `meld.jtmo` seconds of its JOIN_ACK. -/
def execJoinTimeout (i : Fin 64) (s : State) : Host.Outcome State Fault Refusal :=
  match s.master.joins.find? fun p => p.1 = i.val with
  | none => .next s
  | some p =>
    let e := entryOf i (s.entryBytes i)
    let s := { s with master := { s.master with joins := s.master.joins.erase p } }
    match s.jobOf 0 e.job with
    | some j => .next ((s.writeEntry j i (putAt (s.entryBytes i) 0 1 3)).meldRaise 0 0x600D (e.site + 5 * 256))
    | none => .next (s.meldRaise 0 0x600D (e.site + 5 * 256))

/-! ## The ends of INIT and APPLY (R337, R344, R360) -/

/-- The reason offset for which a half refuses its descriptor or shard map: the descriptor's own fields, the shard map (its entry's
field, with bit 15), the sizes for its blocks, and another enabled slot with the same context. -/
def State.initFault (s : State) (d j : Nat) (b : List Byte) (smap : List (Nat × Nat × Nat)) (raw : List (List Byte)) : Option Nat :=
  match descReserved b with
  | some o => some o
  | none =>
    match shardReserved (leAt b 0x30 4) raw with
    | some o => some (0x8000 + o)
    | none =>
      let x := { MeldSlot.off with desc := b, smap := smap }
      match descSizes b (x.half (s.actId d) 0).2 (x.half (s.actId d) 1).2 with
      | some o => some o
      | none =>
        if (List.range 4).any fun i => i ≠ j && s.jobSt d i ≠ 0 && (s.job d i).ctx = x.ctx then some 8
        else none

/-- The joiner's master asks the donor for its state (R368). -/
def State.askDonor (s : State) (j : Nat) : State :=
  let x := s.job 0 j
  s.answerSite (some j) (x.dfield 0xCE 1)
    { s.joinRec 1 x.jobId with donate := true, nblk := x.dfield 0x30 4 }

/-- INIT ends: an illegal descriptor or shard map leads to FAULT; else sum and wsum are cleared, and the slot enters RUN or, asked to
join, JOINWAIT (R337, R344). -/
def State.initEnds (s : State) (d j : Nat) : State :=
  let b := s.view (s.job d j).base 256
  let raw := if (descReserved b).isSome then [] else s.shardBytes (leAt b 0x38 8) (leAt b 0x2E 2)
  let smap := raw.map shardEntry
  match s.initFault d j b smap raw with
  | some o => ((s.meldRaise d 0x6003 (j + o * 65536) (leAt b 8 2 % 4096)).meldFirst d j 0x6003).setJobSt d j 15
  | none =>
    let s := s.updJob d j fun x => { x with desc := b, smap, blk := bit (leAt b 2 2) 0 }
    let n := (s.ownHalf d j).2
    let x := s.job d j
    let s := (List.range n).foldl
      (fun s k => (s.meldWrite d (x.area d 4 + 196608 * k) 48 (List.replicate 4096 (0, false))).meldWrite d (x.area d 5 + 16 * k)
        16 [(0, false)]) s
    if bit (leAt b 2 2) 2 then
      let s := s.setJobSt d j 2
      if d = 0 ∧ s.isMaster then s.askDonor j else s
    else
      let start := leAt b 0xD0 8
      let s := (s.setReg d R.meld_job_acc start j).setReg d R.meld_job_applied ((start + max64) % 2 ^ 64) j
      let s := s.checkEntries d
      ((s.updJob d j fun y => { y with secs := s.newSecs d j start }).setJobSt d j 3).donate d j

/-- INIT_DONE (R337, R344): INIT has checked the descriptor and the shard map and cleared sum and wsum; the slot enters RUN, JOINWAIT
or FAULT. -/
def execInitDone (d : Fin 2) (j : Fin 4) (s : State) : Host.Outcome State Fault Refusal :=
  .next (if s.jobSt d j ≠ 1 then s else s.initEnds d j)

/-- APPLY_DONE (R344, R357, R360, R369): APPLY has handled every block and the manifest is written; the slot enters CORR, a disable
that waited takes effect, held contributions are merged, and joiners are served. -/
def execApplyDone (d : Fin 2) (j : Fin 4) (s : State) : Host.Outcome State Fault Refusal :=
  if s.jobSt d j ≠ 7 then .next s
  else .next ((((s.applyEnd d j).jobSettle d j).mergeHeld d j).donate d j)

end Sys2Proof.Machine
end

