-- ==== Sys2Proof/Machine/Time.lean ====
section
/-! DEFINITION. The site time unit: the counter, its sources, their selection, the discipline, steps and holdover (R451 to R475). -/

namespace Sys2Proof.Machine

/-! ## The counter (R452) -/

/-- Change the time unit. -/
def State.updTime (s : State) (f : TimeState → TimeState) : State := { s with time := f s.time }

/-- The counter in units of 0.25 ns. -/
def State.quarters (s : State) : Int := (s.time.ns * 4 + s.time.frac / 2 ^ 30 : Nat)

/-- The signed rate correction. -/
def State.adj (s : State) : Int := signed 32 (s.fld 0 F.time_adj_adj)

/-- The largest |adj|: `time.ctl.slew` times 10 ppm of 2 ns, in units of 2^−32 ns (R452, R460). -/
def State.slewLimit (s : State) : Nat := s.fld 0 F.time_ctl_slew * 2 ^ 33 / 100000

/-- One time clock: 2 ns + adj (R452). -/
def State.timeClock (s : State) : State :=
  let v : Int := (s.time.ns * 2 ^ 32 + s.time.frac : Nat) + 2 ^ 33 + s.adj
  let n := v.toNat % 2 ^ 96
  let s := s.updTime fun x => { x with ns := n / 2 ^ 32, frac := n % 2 ^ 32 }
  if s.adj ≠ 0 ∧ s.adj.natAbs = s.slewLimit then s.tally 0 R.time_t_slew else s

/-- The time unit in one clock of the model: 5 time clocks fall on 19 clocks of 1.90 GHz (assumption 7). -/
def State.timeTick (s : State) : State :=
  let p := s.time.phase + 5
  if p < 19 then s.updTime fun x => { x with phase := p } else (s.updTime fun x => { x with phase := p - 19 }).timeClock

/-! ## Steps (R460) -/

/-- The stored open times and deadlines of a Meld slot move with a step. -/
def MeldSlot.shift (x : MeldSlot) (delta : Int) : MeldSlot :=
  let f (t : Nat) : Nat := if t = 0 then 0 else wrap 64 (t + delta)
  { x with opened := f x.opened, encEnd := f x.encEnd, closed := f x.closed }

/-- The counter values that a PTP port has taken move with a step, so that an interval measured across it is unchanged. -/
def PtpPort.shift (x : PtpPort) (delta : Int) : PtpPort :=
  let f (t : Nat) : Nat := wrap 64 (t + delta)
  { x with
    sync := x.sync.map fun y => (y.1, f y.2)
    pair := x.pair.map fun y => (y.1, f y.2)
    req := x.req.map fun y => (y.1, f y.2) }

/-- The counter moves by a step, and with it the counter values that the unit's inputs have taken. -/
def TimeState.shift (x : TimeState) (delta : Int) : TimeState :=
  { x with
    ns := wrap 64 (x.ns + delta)
    gnss := { x.gnss with edge := wrap 64 (x.gnss.edge + delta) }
    ptp0 := x.ptp0.shift delta
    ptp1 := x.ptp1.shift delta }

/-- A step adds Δ to the counter and to every stored open time and deadline; event 0x3012. -/
def State.stepTime (s : State) (delta : Int) : State :=
  let s := s.updTime fun x => x.shift delta
  let s := [0, 1].foldl
    (fun s d => (List.range 4).foldl
      (fun s j =>
        let t := s.reg d R.meld_job_tdl j
        let s := s.updMd d fun m => { m with slots := listMod m.slots j fun x => x.shift delta }
        if t = 0 then s else s.setReg d R.meld_job_tdl (wrap 64 (t + delta)) j) s) s
  s.raise 0 0x12 0x3012 (wrap 64 delta)

/-! ## State, quality and selection (R456, R458, R459, R463) -/

/-- The state code of the discipline. -/
def State.timeSt (s : State) : Nat := s.fld 0 F.time_stat_state

/-- The source in use. -/
def State.timeSrc (s : State) : Nat := s.fld 0 F.time_stat_src

/-- Whether source `c` is qualified. -/
def State.qualified (s : State) (c : Nat) : Bool := 1 ≤ c && c ≤ 4 && bit (s.fld 0 F.time_stat_qual) (c - 1)

/-- The link followed: the lowest distance, ties to the lowest global link (R464). -/
def State.followed (s : State) : Option (Nat × Nat × Nat) :=
  s.time.hbs.foldl
    (fun best h => match best with
      | none => some h
      | some b => if h.2.1 < b.2.1 ∨ (h.2.1 = b.2.1 ∧ h.1 < b.1) then some h else some b) none

/-- Distance and quality as the device reports them (R463). A device that follows nothing reports distance 63. -/
def State.timeReport (s : State) : State :=
  let master := s.flag 0 F.time_stat_master
  let st := s.timeSt
  let own := if ¬ s.time.locked ∨ st = 0 then 3 else if st = 3 then (if s.time.long then 2 else 1)
    else if st = 2 then 0 else s.fld 0 F.time_stat_quality
  let f := if master ∨ s.timeSrc ≠ 4 then none else s.followed
  let q := match f with
    | some h => max own h.2.2
    | none => own
  let dist := if master then 0 else match s.followed with
    | some h => min 63 (h.2.1 + 1)
    | none => 63
  (s.setFld 0 F.time_stat_quality q).setFld 0 F.time_stat_dist dist

/-- The mean of adj over the last 60 s of LOCKED, or its last value when LOCKED lasted less (R459). -/
def State.meanAdj (s : State) : Int :=
  let span := 60000 * clocksPerMs
  match s.time.hist.getLast? with
  | none => s.adj
  | some first =>
    if s.clk < first.1 + span then s.adj
    else
      let from_ := s.clk - span
      let r := s.time.hist.foldl
        (fun (r : Nat × Int) h =>
          let at_ := max h.1 from_
          if at_ < r.1 then (at_, r.2 + h.2 * ((r.1 - at_ : Nat) : Int)) else r) (s.clk, 0)
      r.2 / (span : Int)

/-- Set adj. -/
def State.setAdj (s : State) (a : Int) : State := s.setFld 0 F.time_adj_adj (wrap 32 a)

/-- The discipline changes state; `loss` is what `time.ff` would record where it enters HOLDOVER (R459). -/
def State.timeGo (s : State) (st src loss : Nat) : State :=
  let old := s.timeSt
  let s := s.setFld 0 F.time_stat_src src
  if st = old then s.timeReport
  else
    let s := (s.setFld 0 F.time_stat_state st).raise 0 0x12 0x3010 (old + st * 16 + src * 256)
    let s :=
      if st = 1 then s.updTime fun x => { x with good := 0, big := false }
      else if st = 2 then
        let s := s.updTime fun x => { x with locked := true, hist := [(s.clk, s.adj)] }
        if s.flag 0 F.boot_stat_time then s else s.stage F.boot_stat_time
      else
        let s := if old = 2 ∧ s.flag 0 F.time_ctl_en then s.setAdj s.meanAdj else s
        (s.updTime fun x => { x with long := false }).raise 0 0x12 0x3011 loss
    s.timeReport

/-- The source is chosen again (R458): the first qualified one of sel0 to sel3. -/
def State.timeSelect (s : State) (loss : Nat) : State :=
  if ¬ s.flag 0 F.time_ctl_en then s.timeGo 3 (s.timeSrc) loss
  else
    let sel := s.fld 0 F.time_ctl_sel
    let order := [bits sel 12 4, bits sel 8 4, bits sel 4 4, bits sel 0 4]
    match order.find? s.qualified with
    | some c => if s.timeSt = 0 ∨ s.timeSt = 3 then s.timeGo 1 c loss else s.timeGo s.timeSt c loss
    | none => if s.timeSt = 1 ∨ s.timeSt = 2 then s.timeGo 3 0 loss else s.timeGo s.timeSt 0 loss

/-- A source gains qualification (R456, R458). -/
def State.qualify (s : State) (c : Nat) : State :=
  if s.qualified c then s else (s.setFld 0 F.time_stat_qual (s.fld 0 F.time_stat_qual ||| 2 ^ (c - 1))).timeSelect 0

/-- A qualified source is lost with a cause of `time.ff` (R456, R472). -/
def State.loseSource (s : State) (c cause : Nat) : State :=
  if ¬ s.qualified c then s
  else
    let v := c * 256 + cause
    let s := s.recordFirst 0 F.time_ff_valid v
    (s.setFld 0 F.time_stat_qual (s.fld 0 F.time_stat_qual - 2 ^ (c - 1))).timeSelect v

/-! ## Measurement (R459, R460) -/

/-- A signed number as the field `time.offs.e` holds it. -/
def satE (e : Int) : Int := if e < -2147483648 then -2147483648 else if 2147483647 < e then 2147483647 else e

/-- The rate that the discipline chooses: free, within the slew limit. -/
def State.steerAdj (s : State) (e : Int) : State :=
  let l : Int := s.slewLimit
  let a := Config.steer s.fresh e
  let a := if a < -l then -l else if l < a then l else a
  let s := (s.setAdj a).drew
  if s.timeSt = 2 then s.updTime fun x => { x with hist := (s.clk, a) :: x.hist } else s

/-- The lock test of a measurement. -/
def State.lockTest (s : State) (src : Nat) (e : Int) : State :=
  let th := 4 * s.fld 0 F.time_lock_th
  if s.timeSt = 1 then
    let s := s.updTime fun x => { x with good := if e.natAbs ≤ th then x.good + 1 else 0 }
    if s.fld 0 F.time_lock_n ≤ s.time.good then s.timeGo 2 src 0 else s
  else if s.timeSt = 2 ∧ 10 * th < e.natAbs then s.timeGo 1 src 0
  else s

/-- A phase error of the chosen source, in 0.25 ns: the first step, event 0x3015 once per entry to ACQUIRE, and the correction by
adj. -/
def State.measured (s : State) (src : Nat) (e : Int) : State :=
  if ¬ s.flag 0 F.time_ctl_en ∨ s.timeSrc ≠ src ∨ (s.timeSt ≠ 1 ∧ s.timeSt ≠ 2) then s
  else
    let first := s.timeSt = 1 ∧ ¬ s.time.stepped
    let s := if first then (s.updTime fun x => { x with stepped := true }).stepTime (e / 4) else s
    let e := if first then e % 4 else e
    let s := s.setFld 0 F.time_offs_e (wrap 32 (satE e))
    let far := 4 * (s.fld 0 F.time_ctl_slew * 10000000) < e.natAbs
    let s := if far ∧ ¬ s.time.big then (s.updTime fun x => { x with big := true }).raise 0 0x12 0x3015 (wrap 64 (e / 4)) else s
    (s.steerAdj e).lockTest src e

/-! ## GNSS (R455, R456) -/

/-- Change the GNSS inputs. -/
def State.updGnss (s : State) (f : Gnss → Gnss) : State := s.updTime fun x => { x with gnss := f x.gnss }

/-- GNSS qualifies after four good intervals and three labels 1 s apart. -/
def State.gnssTest (s : State) : State :=
  if 4 ≤ s.time.gnss.ppsGood ∧ 3 ≤ s.time.gnss.zdaGood then s.qualify 1 else s

/-- PPS_EDGE (R456, R459): a rising edge; `interval` is the time since the last edge in ns, as measured (0: none before). -/
def execPpsEdge (interval : Nat) (s : State) : Host.Outcome State Fault Refusal :=
  let ok := 999999000 ≤ interval ∧ interval ≤ 1000001000
  let q := s.quarters
  let ns := s.time.ns
  let s := s.updGnss fun g => { g with
    ppsGood := if ok then g.ppsGood + 1 else 0
    edge := ns
    sec := match g.next with
      | some n => some n
      | none => g.sec.map (· + 1)
    next := none }
  let s := s.gnssTest
  if ¬ s.qualified 1 then .next s
  else
    let s := s.tally 0 R.time_t_pps
    match s.time.gnss.sec with
    | some n => .next (s.measured 1 ((n * 4000000000 : Nat) - q))
    | none => .next s

/-- The number that ASCII digits spell. -/
def digitsOf (b : List Byte) : Option Nat :=
  if b.isEmpty then none
  else b.foldl (fun r c => match r with
    | some v => if 0x30 ≤ c.toNat ∧ c.toNat ≤ 0x39 then some (10 * v + (c.toNat - 0x30)) else none
    | none => none) (some 0)

/-- The value of a hexadecimal digit. -/
def hexDigit (c : Byte) : Option Nat :=
  let n := c.toNat
  if 0x30 ≤ n ∧ n ≤ 0x39 then some (n - 0x30)
  else if 0x41 ≤ n ∧ n ≤ 0x46 then some (n - 0x37)
  else if 0x61 ≤ n ∧ n ≤ 0x66 then some (n - 0x57) else none

/-- A list cut at each occurrence of an element. -/
def splitAt (c : Byte) (l : List Byte) : List (List Byte) :=
  l.foldr (fun x r => if x = c then [] :: r else match r with
    | h :: t => (x :: h) :: t
    | [] => [[x]]) [[]]

/-- Days from 1970-01-01 to a date of the Gregorian calendar. -/
def daysOf (y m d : Nat) : Nat :=
  let y' := if m ≤ 2 then y - 1 else y
  let m' := if m ≤ 2 then m + 9 else m - 3
  minus (365 * y' + y' / 4 - y' / 100 + y' / 400 + (153 * m' + 2) / 5 + d) 719469

/-- The UTC second that the fields of a ZDA sentence name (R455): hhmmss.ss, day, month, year. -/
def zdaUtc (f : List (List Byte)) : Option Nat :=
  let hms := f.getD 1 []
  match digitsOf (hms.take 2), digitsOf ((hms.drop 2).take 2), digitsOf ((hms.drop 4).take 2), digitsOf (f.getD 2 []),
      digitsOf (f.getD 3 []), digitsOf (f.getD 4 []) with
  | some h, some mi, some sec, some d, some mo, some y =>
    let frac := hms.drop 6
    if (frac.isEmpty ∨ (frac.headD 0 = 0x2E ∧ (frac.drop 1).all (· = 0x30))) ∧ h < 24 ∧ mi < 60 ∧ sec < 61 ∧ 1 ≤ mo ∧ mo ≤ 12 ∧
        1 ≤ d ∧ d ≤ 31 ∧ 1970 ≤ y then
      some (daysOf y mo d * 86400 + h * 3600 + mi * 60 + sec)
    else none
  | _, _, _, _, _, _ => none

/-- What a sentence on TOD_RX is: not ZDA (ignored), bad, or a label in UTC seconds. -/
def zdaParse (b : List Byte) : Option (Option Nat) :=
  let b := b.filter fun c => c ≠ 0x0D ∧ c ≠ 0x0A
  let body := (b.drop 1).takeWhile (· ≠ 0x2A)
  let sum := (b.drop 1).dropWhile (· ≠ 0x2A)
  if b.headD 0 ≠ 0x24 ∨ (body.drop 2).take 4 ≠ [0x5A, 0x44, 0x41, 0x2C] then none
  else
    let good : Bool := match sum with
      | [_, x, y] => match hexDigit x, hexDigit y with
        | some u, some v => 16 * u + v == (body.foldl (· ^^^ ·) 0).toNat
        | _, _ => false
      | _ => false
    some (if good then zdaUtc (splitAt 0x2C body) else none)

/-- A valid label names an edge: runs of labels 1 s apart, and the disagreement with the counter (R456). -/
def State.zdaLabel (s : State) (label : Nat) (next : Bool) : State :=
  let g := s.time.gnss
  let counter := (g.edge + 500000000) / 1000000000 + b2n next
  let s := (s.tally 0 R.time_t_zda).updGnss fun g => { g with
    zdaGood := if g.label.map (· + 1) = some label then g.zdaGood + 1 else 1
    label := some label
    sec := if next then g.sec else some label
    next := if next then some label else none }
  if s.qualified 1 ∧ label ≠ counter ∧ s.time.stepped then
    let s := s.raise 0 0x12 0x3016 (wrap 64 ((label : Int) - counter))
    (s.updGnss fun g => { g with zdaGood := 1 }).loseSource 1 2
  else s.gnssTest

/-- ZDA_SENTENCE (R455): a sentence on TOD_RX whose last character arrives `ms` milliseconds after the last PPS edge. -/
def execZdaSentence (text : List Byte) (ms : Nat) (s : State) : Host.Outcome State Fault Refusal :=
  match zdaParse text with
  | none => .next s
  | some none => .next (s.tally 0 R.time_t_zbad)
  | some (some utc) =>
    if ms < 100 ∨ 900 < ms then .next (s.tally 0 R.time_t_zbad)
    else .next (s.zdaLabel (utc + s.fld 0 F.time_utc_off) (s.flag 0 F.time_utc_zda_next))

/-! ## PTP (R456, R457) -/

/-- The PTP port of die `p`. -/
def State.ptp (s : State) (p : Nat) : PtpPort := if p = 0 then s.time.ptp0 else s.time.ptp1

/-- Change a PTP port. -/
def State.updPtp (s : State) (p : Nat) (f : PtpPort → PtpPort) : State :=
  s.updTime fun x => if p = 0 then { x with ptp0 := f x.ptp0 } else { x with ptp1 := f x.ptp1 }

/-- Whether port `p` runs PTP: enabled, and its WAN port UP. -/
def State.ptpOn (s : State) (p : Nat) : Bool := bit (s.fld 0 F.time_ptp_en) p && s.fld p F.wan_stat_state = 3

/-- The order of the dataset comparison. -/
def Announce.key (a : Announce) : List Nat := [a.prio1, a.cls, a.acc, a.var, a.prio2, a.gm, a.steps, a.src]

/-- Whether a dataset is better than another: the first field in which they differ is lower. -/
def keyLess : List Nat → List Nat → Bool
  | a :: r, b :: t => if a = b then keyLess r t else a < b
  | _, _ => false

/-- ANNOUNCE (R457): the best dataset heard gives the port's grandmaster; a change loses the port's qualification. -/
def execAnnounce (p : Fin 2) (a : Announce) (s : State) : Host.Outcome State Fault Refusal :=
  if ¬ s.ptpOn p ∨ a.domain ≠ s.fld 0 F.time_ptp_domain ∨ ¬ a.scale then .next s
  else
    let heard := a :: (s.ptp p).heard.filter fun x => x.src ≠ a.src
    let best := heard.foldl (fun b x => if keyLess x.key b.key then x else b) a
    let s := s.updPtp p fun x => { x with heard }
    if (s.ptp p).gm.map (fun g => (g.gm, g.src)) = some (best.gm, best.src) then .next (s.updPtp p fun x => { x with gm := some best })
    else
      let s := (s.updPtp p fun x => { PtpPort.reset with heard := x.heard, gm := some best }).setReg 0 R.time_ptp_gm best.gm
      .next (s.loseSource (2 + p) 4)

/-- Whether a message comes from the selected master by the rules of R457. -/
def State.ptpTakes (s : State) (p : Nat) (m : PtpMsg) : Bool :=
  s.ptpOn p && m.domain = s.fld 0 F.time_ptp_domain && m.scale && (s.ptp p).gm.any fun g => g.src = m.src

/-- PTP_SYNC (R457): a Sync is timestamped, and a Delay_Req leaves in answer. -/
def execPtpSync (p : Fin 2) (m : PtpMsg) (s : State) : Host.Outcome State Fault Refusal :=
  if ¬ s.ptpTakes p m then .next s
  else
    let now := s.time.ns
    let s := s.updPtp p fun x => { x with sync := some (m.seq, now), req := some (m.seq, now) }
    .next (s.emit (.delayReq p m.seq))

/-- A PTP port qualifies after 8 pairs and 2 answers (R456). -/
def State.ptpTest (s : State) (p : Nat) : State :=
  if 8 ≤ (s.ptp p).pairs ∧ 2 ≤ (s.ptp p).resps then s.qualify (2 + p) else s

/-- The mean of the last 8 delays, in 0.25 ns. -/
def PtpPort.delay (x : PtpPort) : Int :=
  match x.delays with
  | [] => 0
  | l => 4 * l.foldl (· + ·) 0 / (l.length : Int)

/-- FOLLOW_UP (R457, R459): the origin time of the Sync with its sequence number; a phase error is measured. -/
def execFollowUp (p : Fin 2) (m : PtpMsg) (s : State) : Host.Outcome State Fault Refusal :=
  match (s.ptp p).sync with
  | none => .next s
  | some y =>
    if ¬ s.ptpTakes p m ∨ y.1 ≠ m.seq then .next s
    else
      let origin : Int := m.t + m.corr
      let s := s.updPtp p fun x => { x with sync := none, pair := some (origin, y.2), pairs := x.pairs + 1 }
      let s := (s.tally 0 R.time_t_sync).ptpTest p
      if s.qualified (2 + p) then .next (s.measured (2 + p) (4 * (origin - y.2) + (s.ptp p).delay)) else .next s

/-- DELAY_RESP (R457): the arrival time of the Delay_Req at the master gives a delay measurement. -/
def execDelayResp (p : Fin 2) (m : PtpMsg) (s : State) : Host.Outcome State Fault Refusal :=
  match (s.ptp p).req, (s.ptp p).pair with
  | some r, some q =>
    if ¬ s.ptpTakes p m ∨ r.1 ≠ m.seq then .next s
    else
      let dly : Int := ((q.2 - q.1) + (m.t - m.corr - r.2)) / 2
      .next ((s.updPtp p fun x => { x with req := none, resps := x.resps + 1, delays := (dly :: x.delays).take 8 }).ptpTest p)
  | _, _ => .next s

/-- WAN port `p` leaves UP: its PTP source is lost (R456). -/
def State.ptpPortDown (s : State) (p : Nat) : State := (s.updPtp p fun _ => PtpPort.reset).loseSource (2 + p) 3

/-! ## FABRIC (R456, R463, R464) -/

/-- A heartbeat of the followed rank arrives on global link `l`: its distance and quality are kept, the source qualifies, and the
followed link's send time gives a phase error. -/
def State.timeHb (s : State) (l rank dist qual tsend : Nat) : State :=
  if s.flag 0 F.time_stat_master ∨ rank ≠ s.fld 0 F.rec_stat_crank then s
  else
    let s := s.updTime fun x => { x with hbs := if dist < 63 then assocPut l (dist, qual) x.hbs else assocDel l x.hbs }
    if 63 ≤ dist then s.timeReport
    else
      let s := s.qualify 4
      match s.followed with
      | some f =>
        if f.1 ≠ l then s.timeReport
        else
          let e : Int := (4 * tsend + s.fld 0 F.time_ldly_dly l : Nat) - s.quarters
          ((s.tally 0 R.time_t_hb).measured 4 e).timeReport
      | none => s

/-- Global link `l` is heard no longer by the current rank. -/
def State.timeHbLost (s : State) (l : Nat) : State := (s.updTime fun x => { x with hbs := assocDel l x.hbs }).timeReport

/-- The device gains or loses the site-master time role (R465, R469). -/
def State.timeMaster (s : State) (on : Bool) : State :=
  let s := s.setFld 0 F.time_stat_master (b2n on)
  let s := if on then (s.updTime fun x => { x with hbs := [] }).loseSource 4 5 else s
  s.timeReport

/-! ## Losses, holdover and settings (R456, R461, R468) -/

/-- SOURCE_LOSS_TIMEOUT (R456): the edges, messages or heartbeats of a source have stopped for its limit; code 0 stands for
REF10M_IN. -/
def execSourceLossTimeout (src : Fin 5) (s : State) : Host.Outcome State Fault Refusal :=
  match src.val with
  | 0 =>
    if s.flag 0 F.time_stat_ref10 then .next ((s.setFld 0 F.time_stat_ref10 0).recordFirst 0 F.time_ff_valid 0) else .next s
  | 1 => .next ((s.updGnss fun _ => Gnss.reset).loseSource 1 0)
  | 4 => .next ((s.updTime fun x => { x with hbs := [] }).loseSource 4 0)
  | c => .next ((s.updPtp (c - 2) fun x => { x with pairs := 0, resps := 0, sync := none, req := none }).loseSource c 0)

/-- REF10M_QUALIFY (R456): REF10M_IN has stayed within ±10 ppm for 1 s. -/
def execRef10mQualify (s : State) : Host.Outcome State Fault Refusal := .next (s.setFld 0 F.time_stat_ref10 1)

/-- REF10M_OUT_OF_RANGE (R456): REF10M_IN lies outside ±10 ppm. -/
def execRef10mOutOfRange (s : State) : Host.Outcome State Fault Refusal :=
  if s.flag 0 F.time_stat_ref10 then .next ((s.setFld 0 F.time_stat_ref10 0).recordFirst 0 F.time_ff_valid 1) else .next s

/-- HOLDOVER_LIMIT (R461): the holdover has lasted `time.hold.max` hours. -/
def execHoldoverLimit (s : State) : Host.Outcome State Fault Refusal :=
  if s.timeSt ≠ 3 ∨ s.time.long then .next s
  else .next (((s.updTime fun x => { x with long := true }).raise 0 0x12 0x3014 (s.fld 0 F.time_hold_max)).timeReport)

/-- A write of `time.ctl` (R468): en going to 0 freezes adj and enters HOLDOVER; otherwise the source is selected again. -/
def State.onTimeCtl (s : State) : State :=
  let l : Int := s.slewLimit
  let s := if l < s.adj then s.setAdj l else if s.adj < -l then s.setAdj (-l) else s
  s.timeSelect 0

/-- A write of `time.step` (R460). -/
def State.onTimeStep (s : State) (v : Nat) : State := s.stepTime (signed 64 v)

/-- `time.ldly[l]` is measured at an entry to UP (R464): a value from outside. -/
def State.measureDelay (s : State) (l : Nat) : State :=
  ((s.setFld 0 F.time_ldly_dly (s.free % 65536) l).setFld 0 F.time_ldly_valid 1 l).drew

/-- TIME_MARK (R467): the counter passes a whole second: an edge and then that second's value go to Assay. -/
def execTimeMark (s : State) : Host.Outcome State Fault Refusal :=
  .next { s with asy := { s.asy with marks := s.asy.marks ++ [s.tai / 1000000000] } }

end Sys2Proof.Machine
end

