-- ==== Sys2Proof/Machine/Rec.lean ====
section
/-! DEFINITION. Recovery: the error log's ring, controllers and FAIL_N, heartbeats, the election of the site master, cuts as they
arrive, failure notices, spares, and the copy of the partner table (R505, R516, R520 to R539, R598 to R602). -/

namespace Sys2Proof.Machine

/-! ## Warnings' windows (R505) -/

/-- WARNING_WINDOW_END (R505): a window of corrected SRAM errors (0) or link replays (1) ends and a new one begins. -/
def execWarningWindowEnd (d : Fin 2) (w : Fin 2) (s : State) : Host.Outcome State Fault Refusal :=
  .next (s.updRec d fun x => if w = 0 then { x with sramCount := 0 } else { x with linkCount := 0 })

/-! ## Controllers (R525 to R529) -/

/-- The controller's state code of a die (R526). -/
def State.rc (s : State) (d : Nat) : Nat := s.fld d F.rec_stat_rc

/-- Whether a die's controller is in WATCH or SOLO. -/
def State.rcUp (s : State) (d : Nat) : Bool := s.rc d = 1 || s.rc d = 2

/-- A controller loses its twin: SOLO, event 0x8011, and warning source 5 (R505, R526). -/
def State.goSolo (s : State) (d path : Nat) : State :=
  if s.rc d ≠ 1 then s
  else ((s.setFld d F.rec_stat_rc 2).raise d 0x15 0x8011 (d + path * 256)).warn d 5

/-- RC_SELFTEST_DONE (R526): the self-test after reset passes or fails; a twin that returns brings both controllers to WATCH. -/
def execRcSelftestDone (d : Fin 2) (ok : Bool) (s : State) : Host.Outcome State Fault Refusal :=
  if s.rc d ≠ 0 ∨ s.fld 0 F.boot_stat_phase = 1 then .next s
  else if ok then
    let t := 1 - d.val
    let s := s.setFld d F.rec_stat_rc 1
    .next (if s.rc t = 2 then (s.setFld t F.rec_stat_rc 1).setFld t F.rec_stat_twin 0 else s)
  else .next ((s.setFld d F.rec_stat_rc 3).raise (1 - d) 0x15 0x8010 d { other := true })

/-- RC_TWIN_SIGNAL (R187, R527): the signal of die `d`'s controller reaches its twin over the paths of the mask (1 the bridge, as class 0
traffic, 2 the sideband), and the twin learns its state. -/
def execRcTwinSignal (d : Fin 2) (paths : Fin 4) (s : State) : Host.Outcome State Fault Refusal :=
  let t := 1 - d.val
  let s := if bit paths 0 then s.tally d R.brg_t_tx0 0 32 else s
  let st := s.rc d
  if ¬ s.rcUp t ∨ paths = 0 then .next s
  else
    let s := s.setFld t F.rec_stat_twin (if st = 3 then 1 else if st = 0 then 3 else 0)
    if st = 3 then .next (s.goSolo t paths)
    else if s.rcUp d ∧ s.rc t = 2 then .next (s.setFld t F.rec_stat_rc 1)
    else .next s

/-- RC_TWIN_LOST (R527): no path has delivered from the twin for 100 µs. -/
def execRcTwinLost (d : Fin 2) (s : State) : Host.Outcome State Fault Refusal :=
  if ¬ s.rcUp d then .next s else .next ((s.setFld d F.rec_stat_twin 2).goSolo d 0)

/-- FAIL_N_ASSERT (R529): neither controller's toggle has changed for 100 µs. -/
def execFailNAssert (s : State) : Host.Outcome State Fault Refusal :=
  if s.flag 0 F.rec_stat_fail then .next s
  else
    let s := ((s.setFld 0 F.rec_stat_fail 1).setFld 1 F.rec_stat_fail 1).emit (.pin "FAIL_N" false)
    .next (s.raise 0 0x15 0x8012 (s.rc 0 + s.rc 1 * 16))

/-! ## Cuts as they arrive (R506, R513, R516) -/

/-- The address of the checkpoint descriptor. -/
def State.ckpDesc (s : State) : Nat := s.fld 0 F.ckp_desc_base * 256

/-- The context of the checkpoint descriptor. -/
def State.ckpCtx (s : State) : Nat := s.viewNat (s.ckpDesc + 4) 2 % 4096

/-- The state code of the cut (R513), alike on both dies. -/
def State.setCut (s : State) (st : Nat) : State := (s.setFld 0 F.ckp_stat_state st).setFld 1 F.ckp_stat_state st

/-- A cut fails (R513): the gate lifts, event 0x8003, and a site cut's id goes into the heartbeats (R516). -/
def State.cutFails (s : State) (q : CutReq) (reason : Nat) : State :=
  let v := 0x8003 * 2 ^ 32 + reason * 2 ^ 16 + q.id % 65536
  let s := (s.recordFirst 0 F.ckp_ff_valid v).raise 0 0x14 0x8003 v
  let s := (s.tally 0 R.ckp_t_cfail).setCut 0
  { s with ckp := { s.ckp with gate := none, run := none, cfail := if q.site then max s.ckp.cfail q.id else s.ckp.cfail } }

/-- The stored length of a region (R509). -/
def regionStored (len fmt : Nat) : Nat := if fmt = 1 then len * 33 / 128 else len

/-- Region `k` of a checkpoint descriptor: src, len, fmt. -/
def ckpRegion (b : List Byte) (k : Nat) : Nat × Nat × Nat := (leAt b (0x40 + 32 * k) 8, leAt b (0x48 + 32 * k) 8, leAt b (0x50 + 32 * k) 1)

/-- The regions of a descriptor in use. -/
def ckpRegions (b : List Byte) : List (Nat × Nat × Nat) := (List.range (leAt b 2 1)).map (ckpRegion b)

/-- The die whose HBM half holds a range wholly. -/
def dieOfRange (a n : Nat) : Option Nat := if inHalf 0 a n then some 0 else if inHalf 1 a n then some 1 else none

/-- Whether a range lies in coherent windows (R189). -/
def State.coherentRange (s : State) (a n : Nat) : Bool := (blocks 64 a n).all fun b => s.coherent b.1

/-- The image slots of a descriptor, per die. -/
def ckpSlots (b : List Byte) : Nat := if bit (leAt b 3 1) 0 then 2 else 1

/-- The base of die `d`'s image area. -/
def ckpArea (b : List Byte) (d : Nat) : Nat := leAt b (0x10 + 8 * d) 8

/-- The bytes of an image slot of die `d`. -/
def ckpSize (b : List Byte) (d : Nat) : Nat := leAt b (0x20 + 4 * d) 4

/-- Whether a checkpoint descriptor at address `a` is legal (R508). -/
def State.ckpLegal (s : State) (a : Nat) (b : List Byte) : Bool :=
  let n := leAt b 2 1
  let area (d : Nat) : Bool := ckpArea b d % 256 = 0 && ckpSize b d % 256 = 0 && inHalf d (ckpArea b d) (ckpSlots b * ckpSize b d)
  leAt b 0 2 = 1 && 1 ≤ n && n ≤ 16 && leAt b 3 1 < 2 && leAt b 4 2 < 4096 && leAt b 6 2 = 0 && area 0 && area 1 &&
    leAt b 0x30 16 = 0 && s.coherentRange a 576 && s.coherentRange (leAt b 0x28 8) 1344 &&
    (List.range n).all fun k =>
      let r := ckpRegion b k
      r.2.1 ≠ 0 && r.2.1 % 256 = 0 && r.2.2 < 2 && leAt b (0x51 + 32 * k) 15 = 0 && (dieOfRange r.1 r.2.1).isSome

/-- The offset of each region in its die's image slot, and the bytes that die `d`'s regions take (R510). -/
def ckpPack (d : Nat) : List (Nat × Nat × Nat) → Nat → List Nat × Nat
  | [], o => ([], o)
  | r :: rest, o =>
    if dieOfRange r.1 r.2.1 = some d then
      let at_ := (o + 255) / 256 * 256
      let x := ckpPack d rest (at_ + regionStored r.2.1 r.2.2)
      (at_ :: x.1, x.2)
    else
      let x := ckpPack d rest o
      (0 :: x.1, x.2)

/-- A cut is armed: the descriptor is read, and the Dealers are gated (R508, R510, R513). -/
def State.armCut (s : State) (q : CutReq) : State :=
  let b := s.view s.ckpDesc 576
  let s := ((s.setFld 0 F.ckp_stat_cutid q.id).setFld 1 F.ckp_stat_cutid q.id)
  if ¬ s.flag 0 F.ckp_ctl_en then s.cutFails q 3
  else if ¬ s.ckpLegal s.ckpDesc b then (s.raise 0 0x14 0x9002 (csrBase + 0x1400008)).cutFails q 3
  else if ckpSize b 0 < (ckpPack 0 (ckpRegions b) 0).2 ∨ ckpSize b 1 < (ckpPack 1 (ckpRegions b) 0).2 then s.cutFails q 2
  else if allSlots.any fun p => (s.slot p.1 p.2).st ≠ .idle && (s.slot p.1 p.2).ctx = q.ctx && q.step < (s.slot p.1 p.2).step then
    s.cutFails q 0
  else
    let s := s.setCut 1
    { s with ckp := { s.ckp with gate := some (q.ctx, q.step), run := some ⟨q, b, none, false, []⟩ } }

/-- A cut arrives: armed when none is in progress, else it waits and replaces one that waits (R513). -/
def State.cutArrives (s : State) (q : CutReq) : State :=
  if s.ckp.run.isSome then { s with ckp := { s.ckp with next := some q } } else s.armCut q

/-- After a cut has ended, the one that waits is armed. -/
def State.cutNext (s : State) : State :=
  match s.ckp.next with
  | some q => if s.ckp.run.isSome then s else { s with ckp := { s.ckp with next := none } }.armCut q
  | none => s

/-- A site cut is heard of or issued: a higher id than the last one arms it (R516). -/
def State.cutHeard (s : State) (id ctx step : Nat) : State :=
  if id ≤ s.ckp.seen then s
  else
    let w := s.ckp.warned
    { s with ckp := { s.ckp with seen := id, cutCtx := ctx, cutStep := step, warned := false } }.cutArrives ⟨id, ctx, step, true, w⟩

/-- The site master issues a cut when want exceeds its last, or when its last has failed somewhere (R516). -/
def State.masterCut (s : State) : State :=
  if ¬ s.isMaster then s
  else
    let lead := s.fld 0 F.ckp_lead_steps
    let issue (s : State) (id step : Nat) : State :=
      { s with ckp := { s.ckp with issued := id, issuedStep := step, want := max id s.ckp.want } }.cutHeard id s.ckpCtx step
    if s.ckp.issued < s.ckp.want then issue s s.ckp.want (s.ckp.top.getD 0 + lead)
    else if s.ckp.issued ≠ 0 ∧ s.ckp.cfail = s.ckp.issued then issue s (s.ckp.issued + 1) (s.ckp.issuedStep + lead)
    else s

/-- A restore fails (R519, R528). -/
def State.restoreFails (s : State) (reason cutid : Nat) : State :=
  let v := 0x8009 * 2 ^ 32 + reason * 2 ^ 16 + cutid % 65536
  let s := (s.recordFirst 0 F.ckp_ff_valid v).raise 0 0x14 0x8009 v
  [0, 1].foldl (fun s d => ((s.setFld d F.ckp_rst_go 0).setFld d F.ckp_rst_busy 0).setFld d F.ckp_rst_fail 1) s

/-- A controller fails in the middle of an action with the bridge down: the action fails (R528). -/
def State.actionFails (s : State) : State :=
  if ¬ s.bridgeDown then s
  else
    let s := match s.ckp.run with
      | some r => (s.cutFails r.req 4).cutNext
      | none => s
    if s.flag 0 F.ckp_rst_busy then s.restoreFails 4 s.ckp.seen else s

/-! ## Failure notices and spares (R535 to R538) -/

/-- The 16 bytes of a failure notice. -/
def noticeBytes (failed reporter cause ts : Nat) : List Byte :=
  leBytes 2 failed ++ leBytes 2 reporter ++ leBytes 1 cause ++ leBytes 3 0 ++ leBytes 8 ts

/-- An entry of the spare table: state, failed, spare (R536). -/
def State.spareEntry (s : State) (i : Nat) : Nat × Nat × Nat :=
  let v := s.viewNat (s.fld 0 F.rec_stab_base * 256 + 8 * i) 8
  (bits v 46 2, bits v 32 14, bits v 0 14)

/-- The master's controller writes a spare-table entry. -/
def State.writeSpare (s : State) (i st failed spare : Nat) : State :=
  s.writeRaw 0 (s.fld 0 F.rec_stab_base * 256 + 8 * i) (leBytes 8 (st * 2 ^ 46 + failed * 2 ^ 32 + spare))

/-- A device is counted as failed: with auto_spare, the lowest IDLE spare is assigned and told (R537 steps 1 and 2). -/
def State.countFailed (s : State) (f : Nat) : State :=
  if s.ckp.counted.contains f ∨ ¬ s.flag 0 F.rec_ctl_auto_spare then s
  else
    let s := { s with ckp := { s.ckp with counted := f :: s.ckp.counted } }
    match (List.range 256).find? fun i => (s.spareEntry i).1 = 0 with
    | none => s.raise 0 0x15 0x8016 (f + 0x3FFF * 2 ^ 16)
    | some i =>
      let sp := (s.spareEntry i).2.2
      let s := (s.writeSpare i 1 f sp).raise 0 0x15 0x8016 (f + sp * 2 ^ 16)
      s.remoteWrite 0 (2 * sp) (s.fld 0 F.rec_mbox_base * 256) (leBytes 2 f ++ List.replicate 62 0) true false (.record 0x15 2 0)

/-- A take-over is done: the entry becomes ACTIVE and its patch waits to be flooded (R537 step 5). -/
def State.takenOver (s : State) (f sp : Nat) : State :=
  match (List.range 256).find? fun i => (s.spareEntry i).1 = 1 && (s.spareEntry i).2.1 = f with
  | none => s
  | some i =>
    let l := s.ckp.patches ++ [(i, f, sp)]
    { s.writeSpare i 2 f sp with ckp := { s.ckp with patches := l } }

/-- A notice reaches the master's failure ring, and may count a device as failed (R535). -/
def State.takeNotice (s : State) (failed reporter cause ts : Nat) : State :=
  let cap := (s.fld 0 F.rec_fring_size + 1) * 256
  let head := s.fld 0 F.rec_fptr_head
  let s := s.writeRaw 0 (s.fld 0 F.rec_fring_base * 256 + 16 * (head % cap)) (noticeBytes failed reporter cause ts)
  let s := s.setFld 0 F.rec_fptr_head (head + 1)
  if cause = 1 then s.countFailed failed
  else if cause = 4 then s.takenOver failed reporter
  else if cause = 2 ∨ cause = 3 then
    let second := s.ckp.notices.any fun n => n.1 = failed && n.2.1 ≠ reporter && n.2.2 ≤ ts + 100000000 && ts ≤ n.2.2 + 100000000
    let s := { s with ckp := { s.ckp with notices := (failed, reporter, ts) :: s.ckp.notices } }
    if second then s.countFailed failed else s
  else s

/-- FAILURE_NOTICE (R535): a failure notice reaches the master's ring. -/
def execFailureNotice (failed reporter : Fin 16384) (cause : Fin 5) (ts : Nat) (s : State) : Host.Outcome State Fault Refusal :=
  if s.isMaster then .next (s.takeNotice failed reporter cause ts) else .next s

/-- Whether a master is followed: the rank followed stands in die 0's table. Before the first election and while no candidate is heard there
is none (assumption 83). -/
def State.mastered (s : State) : Bool := (s.recd.get 0).table.any fun t => t.rank = s.fld 0 F.rec_stat_crank

/-- A notice goes to the master's failure ring (R535); without a master there is none to tell. -/
def State.notify (s : State) (failed me cause : Nat) : State :=
  if s.isMaster then s.takeNotice failed me cause s.tai
  else if ¬ s.mastered then s
  else s.remoteWrite 0 s.masterNode (s.fld 0 F.rec_fring_base * 256) (noticeBytes failed me cause s.tai) true false (.record 0x15 1 0)

/-- This device reports a neighbour to the master (R535). -/
def State.report (s : State) (d failed cause : Nat) : State := s.notify failed (s.actId d) cause

/-- A neighbour is reported for a cause, once until its heartbeats are heard again without it. -/
def State.tell (s : State) (d i cause : Nat) : State :=
  if (s.recd.get d).told.contains (i, cause) then s
  else (s.updRec d fun x => { x with told := (i, cause) :: x.told }).report d (s.fld d F.lnk_peer_obs_node i / 2) cause

/-- HB_SILENCE_TIMEOUT (R535): an UP link has carried no heartbeat for 3 ms. -/
def execHbSilenceTimeout (d : Fin 2) (i : Fin 18) (s : State) : Host.Outcome State Fault Refusal :=
  if s.linkState d i ≠ 5 then .next s else .next ((s.tell d i 2).timeHbLost (18 * d + i))

/-- A take-over record arrives in the spare's mailbox (R537 step 2). -/
def State.takeMail (s : State) (f : Nat) : State :=
  { s with ckp := { s.ckp with mail := some f } }.raise 0 0x15 0x8016 (f + s.fld 0 F.boot_devid_local * 2 ^ 16)

/-- TAKEOVER_RECORD (R537): the master's record naming device `f` arrives in the mailbox. -/
def execTakeoverRecord (f : Fin 16384) (s : State) : Host.Outcome State Fault Refusal :=
  .next ((s.writeRaw 0 (s.fld 0 F.rec_mbox_base * 256) (leBytes 2 f ++ List.replicate 62 0)).takeMail f)

/-- A remote write has reached the failure ring of the master or the mailbox of a spare. -/
def State.recBuffer (s : State) (a : Nat) (b : List Byte) : State :=
  if s.isMaster ∧ a = s.fld 0 F.rec_fring_base * 256 ∧ b.length = 16 then
    s.takeNotice (leAt b 0 2) (leAt b 2 2) (leAt b 4 1) (leAt b 8 8)
  else if a = s.fld 0 F.rec_mbox_base * 256 ∧ a ≠ 0 ∧ b.length = 64 then s.takeMail (leAt b 0 2 % 16384)
  else s

/-- A route patch with a new sequence number is applied on both dies (R537 step 6). -/
def State.applyPatch (s : State) (f sp q : Nat) : State :=
  let s := [0, 1].foldl (fun s d => s.setReg d R.lnk_fwd (s.reg d R.lnk_fwd sp) f) s
  { s with ckp := { s.ckp with patch := (f, sp, q), patchAt := s.recd.d0.now } }.raise 0 0x15 0x8017 (f + sp * 2 ^ 16 + q * 2 ^ 32)

/-- The master floods one patch at a time, in entry order, each for 100 ms (R537). -/
def State.patchNext (s : State) : State :=
  if ¬ s.isMaster ∨ (s.ckp.patch.2.2 ≠ 0 ∧ s.recd.d0.now < s.ckp.patchAt + 100) then s
  else
    match s.ckp.patches.foldl (fun b p => match b with
        | none => some p
        | some x => if p.1 < x.1 then some p else some x) none with
    | none => s
    | some p =>
      let q := s.ckp.patch.2.2 % 255 + 1
      { s with ckp := { s.ckp with patches := s.ckp.patches.erase p } }.applyPatch p.2.1 p.2.2 q

/-- The spare has restored a failed device's image: it acts as that device (R537 step 4). -/
def State.spareActs (s : State) : State :=
  match s.ckp.mail with
  | none => s
  | some f =>
    let me := s.fld 0 F.boot_devid_local
    let s := [0, 1].foldl (fun s d => (s.setReg d R.rec_alias (2 ^ 31 + f)).setFld d F.rec_spare_spare 0) s
    let s := { s with ckp := { s.ckp with mail := none } }
    let s := s.notify f me 4
    s.raise 0 0x15 0x8017 (f + me * 2 ^ 16 + s.ckp.patch.2.2 * 2 ^ 32)

/-! ## Heartbeats (R530) -/

/-- No rank. -/
def noRank : Nat := 0x3FFF

/-- The kind-specific bits of a heartbeat. -/
def Beat.low (b : Beat) : Nat :=
  b.crank % 2 ^ 14 * 2 ^ 68 + b.cseq % 2 ^ 16 * 2 ^ 52 + b.dist % 64 * 2 ^ 46 + b.qual % 4 * 2 ^ 44 + b.xrank % 2 ^ 14 * 2 ^ 30 +
    b2n b.ok * 2 ^ 29 + b2n b.deg * 2 ^ 28 + b2n b.fail * 2 ^ 27 + b2n b.spare * 2 ^ 26

/-- The two data slots of a heartbeat. -/
def Beat.data (b : Beat) : List Byte :=
  leBytes 16 (b.tsend % 2 ^ 64 * 2 ^ 64 + b.want % 2 ^ 16 * 2 ^ 48 + b.cfail % 2 ^ 16 * 2 ^ 32) ++
    leBytes 16 (b.cutid % 2 ^ 16 * 2 ^ 112 + b.ctx % 4096 * 2 ^ 100 + b.step % 2 ^ 48 * 2 ^ 48 + b.pfrom % 2 ^ 14 * 2 ^ 34 +
      b.pto % 2 ^ 14 * 2 ^ 20 + b.pseq % 256 * 2 ^ 12)

/-- A heartbeat from its message. -/
def beatOf (m : Msg) : Beat :=
  let w := m.low
  let x := leAt m.data 0 16
  let y := leAt m.data 16 16
  ⟨bits w 68 14, bits w 52 16, bits w 46 6, bits w 44 2, bits w 30 14, bit w 29, bit w 28, bit w 27, bit w 26, bits x 64 64,
    bits x 48 16, bits x 32 16, bits y 112 16, bits y 100 12, bits y 48 48, bits y 34 14, bits y 20 14, bits y 12 8⟩

/-- The sequence of a rank in a die's table. -/
def RecDie.seqOf (x : RecDie) (r : Nat) : Nat := (assocGet r x.seqs).getD 0

/-- The rank withdrawn within the last 3 ms. -/
def RecDie.xrank (x : RecDie) : Nat :=
  match x.xout with
  | some (r, t) => if x.now < t + 3 then r else noRank
  | none => noRank

/-- The heartbeat that a die sends now. -/
def State.beat (s : State) (d : Nat) : Beat :=
  let x := s.recd.get d
  let c := s.fld d F.rec_stat_crank
  let bad (i : Nat) : Bool := s.rc i = 3 || s.fld i F.rec_stat_twin = 1 || s.fld i F.rec_stat_twin = 2
  let p := s.ckp.patch
  ⟨if x.table.isEmpty then noRank else c, x.seqOf c, s.fld 0 F.time_stat_dist, s.fld 0 F.time_stat_quality, x.xrank,
    s.rc 0 = 1 && s.rc 1 = 1, bad 0 || bad 1, s.flag d F.rec_stat_fail, s.flag d F.rec_spare_spare, s.tai, s.ckp.want, s.ckp.cfail,
    s.ckp.seen, s.ckp.cutCtx, s.ckp.cutStep, p.1, p.2.1, p.2.2⟩

/-- HEARTBEAT_SEND (R530): every 1 ms a die sends a heartbeat on every UP link, to the peer that PEER recorded. -/
def execHeartbeatSend (d : Fin 2) (s : State) : Host.Outcome State Fault Refusal :=
  if ¬ s.flag 0 F.boot_stat_loaded then .next s
  else
    let b := s.beat d
    .next (((List.range 18).filter fun i => s.linkState d i = 5).foldl
      (fun s i => (s.enqueue d i ⟨7, s.fld d F.lnk_peer_obs_node i, s.ownNode d, false, b.low, 0, b.data⟩).tally d R.rec_t_hbtx) s)

/-- A heartbeat arrives over link `i` (R463, R530, R535). -/
def State.beatArrives (s : State) (d i : Nat) (b : Beat) : State :=
  let s := (s.tally d R.rec_t_hbrx).updRec d fun x =>
    { x with heard := x.heard ++ [b], told := x.told.filter fun t => t.1 ≠ i || (t.2 = 1 && b.fail) }
  let s := { s with ckp := { s.ckp with want := max s.ckp.want b.want, cfail := max s.ckp.cfail b.cfail } }
  let s := s.cutHeard b.cutid b.ctx b.step
  let s := if s.ckp.patch.2.2 < b.pseq then s.applyPatch b.pfrom b.pto b.pseq else s
  let s := if b.fail then s.tell d i 1 else s
  s.timeHb (18 * d + i) b.crank b.dist b.qual b.tsend

/-- HB (R530): a heartbeat arrives from the neighbour on link `i`; it is consumed there. -/
def execHb (d : Fin 2) (i : Fin 18) (m : Msg) (s : State) : Host.Outcome State Fault Refusal :=
  if s.linkState d i ≠ 5 ∨ m.kind ≠ 7 then .next s else .next (s.beatArrives d i (beatOf m))

/-! ## The election (R531 to R533, R601) -/

/-- Whether sequence `a` is newer than `b`. -/
def seqNewer (a b : Nat) : Bool :=
  let x := (a + 65536 - b % 65536) % 65536
  1 ≤ x && x ≤ 32767

/-- Drop a rank from the table. -/
def RecDie.drop (x : RecDie) (r : Nat) : RecDie := { x with table := x.table.filter fun t => t.rank ≠ r }

/-- A rank's sequence has advanced. -/
def RecDie.advance (x : RecDie) (r q : Nat) : RecDie :=
  { x with seqs := assocPut r q x.seqs, table := ⟨r, q, x.now⟩ :: x.table.filter fun t => t.rank ≠ r }

/-- One heartbeat enters the rank table. -/
def RecDie.hear (x : RecDie) (b : Beat) : RecDie :=
  let x := if b.xrank = noRank then x else { x.drop b.xrank with dropped := assocPut b.xrank x.now x.dropped }
  let held : Bool := (assocGet b.crank x.dropped).any fun t => x.now < t + 3
  if b.crank = noRank ∨ held then x
  else
    match assocGet b.crank x.seqs with
    | some q => if seqNewer b.cseq q then x.advance b.crank b.cseq else x
    | none => x.advance b.crank b.cseq

/-- Whether the device is a candidate by die `d` (R531). -/
def State.candidate (s : State) (d : Nat) : Bool :=
  let x := s.recd.get d
  s.flag d F.rec_rank_elig && s.rcUp 0 && s.rcUp 1 && !s.flag d F.rec_stat_fail &&
    x.firstUp.any fun t => t + s.fld d F.rec_rank_elhold ≤ x.now

/-- The own rank is heard with a newer sequence: a duplicate, and the device withdraws (R601). -/
def State.duplicateRank (s : State) (d : Nat) : State :=
  let r := s.fld d F.rec_rank_rank
  match (s.recd.get d).own with
  | none => s
  | some q =>
    if (s.recd.get d).heard.any fun b => b.crank = r && seqNewer b.cseq q then
      let s := [0, 1].foldl (fun s e => s.setFld e F.rec_rank_elig 0) s
      s.raise d 0x15 0x9017 r
    else s

/-- The own row of the table: a candidate advances, from a random start; the device's dies share one sequence. One that is no
candidate withdraws. -/
def State.ownRank (s : State) (d : Nat) : State :=
  let r := s.fld d F.rec_rank_rank
  if s.candidate d then
    let start := match (s.recd.get (1 - d)).own with
      | some q => q
      | none => s.free % 65536
    let s := if (s.recd.get d).own.isNone ∧ (s.recd.get (1 - d)).own.isNone then s.drew else s
    let q := match (s.recd.get d).own with
      | some q => if d = 0 then (q + 1) % 65536 else ((s.recd.get 0).own.getD q)
      | none => start
    s.updRec d fun x => { x.advance r q with own := some q }
  else if (s.recd.get d).own.isSome then
    s.updRec d fun x => { x.drop r with own := none, xout := some (r, x.now), dropped := assocPut r x.now x.dropped }
  else s

/-- The lowest rank of the table. -/
def RecDie.best (x : RecDie) : Option RankRow :=
  x.table.foldl (fun b t => match b with
    | none => some t
    | some y => if t.rank < y.rank then some t else some y) none

/-- The device's master role follows the dies' results; events 0x8013 and 0x8014 (R531). -/
def State.roleTest (s : State) : State :=
  let on := s.flag 0 F.rec_stat_master || (s.bridgeDown && s.flag 1 F.rec_stat_master)
  if on = s.isMaster then s
  else
    let s := (s.setFld 0 F.meld_mstr_master (b2n on)).setFld 1 F.meld_mstr_master (b2n on)
    let own := s.fld 0 F.rec_rank_rank
    let s := if on then s.raise 0 0x15 0x8013 own else s.raise 0 0x15 0x8014 (own + s.fld 0 F.rec_stat_crank * 2 ^ 16)
    s.timeMaster on

/-- The read of block `k` of the master's partner table leaves (R599). -/
def State.askTable (s : State) (k : Nat) : State := s.remoteRead 0 s.masterNode (s.entryAddr 0 + 4096 * k) 4096 (.fetch k)

/-- The partner-table copy proceeds: a block that has come is written, a read that failed is reissued at a period, and a change of the
rank followed starts again (R599). -/
def State.tableStep (s : State) (period : Bool) : State :=
  match s.boot.table with
  | none => s
  | some (rank, k) =>
    let clear (s : State) : State := s.dropReqs 0 fun x => match x with
      | .fetch _ => true
      | _ => false
    if s.isMaster then { clear s with boot := { s.boot with table := none } }.stage F.boot_stat_tables
    else if s.fld 0 F.rec_stat_crank ≠ rank then
      { clear s with boot := { s.boot with table := some (s.fld 0 F.rec_stat_crank, 0) } }.askTable 0
    else
      match (s.fb 0).reqs.find? fun q => q.kind = .fetch k with
      | none => s.askTable k
      | some q =>
        match q.status with
        | none => s
        | some .ok | some .poison =>
          let s := (clear s).writeRaw 0 (s.entryAddr 0 + 4096 * k) q.answer
          if k = 3 then { s with boot := { s.boot with table := none } }.stage F.boot_stat_tables
          else { s with boot := { s.boot with table := some (rank, k + 1) } }.askTable (k + 1)
        | some _ => if period then (clear s).askTable k else s

/-- The master is known: the stage bit, and the table copy begins or is done at once (R598, R599). -/
def State.masterKnown (s : State) : State :=
  if s.flag 0 F.boot_stat_master then s
  else
    let s := s.stage F.boot_stat_master
    if s.isMaster ∨ ¬ s.flag 0 F.boot_cfg_ptsync then s.stage F.boot_stat_tables
    else { s with boot := { s.boot with table := some (s.fld 0 F.rec_stat_crank, 0) } }.askTable 0

/-- What die `d` heard in the period is taken into its table, with its own rank, and what is stale or beaten by four leaves it (R531). -/
def State.rankPeriod (s : State) (d : Nat) : State :=
  let up := s.flag 0 F.boot_stat_linkup
  let s := s.updRec d fun x => { x with now := x.now + 1, firstUp := if x.firstUp.isNone && up then some (x.now + 1) else x.firstUp }
  let s := s.duplicateRank d
  let own := s.fld d F.rec_rank_rank
  let mine := (s.recd.get d).own.isSome
  let s := s.updRec d fun x =>
    let x := { (x.heard.filter fun b => !(mine && b.crank = own)).foldl RecDie.hear x with heard := [] }
    { x with table := x.table.filter fun t => x.now < t.adv + 3 }
  (s.ownRank d).updRec d fun x =>
    { x with table := x.table.filter fun t => (x.table.filter fun u => u.rank < t.rank).length < 4 }

/-- The lowest rank of the table is followed, and the die's role may change (R531, R532). -/
def State.electRank (s : State) (d : Nat) : State :=
  let own := s.fld d F.rec_rank_rank
  let x := s.recd.get d
  let old := s.fld d F.rec_stat_crank
  let best := x.best
  let rank := (best.map (·.rank)).getD noRank
  let adv := best.any fun t => t.adv = x.now
  let s := s.updRec d fun x => { x with runs := if adv then (if rank = old then x.runs + 1 else 1) else 0 }
  let s := if rank = old then s else (s.setFld d F.rec_stat_crank rank).tally d R.rec_t_mchg
  let s := if rank ≠ old ∧ d = 0 then (s.updTime fun t => { t with hbs := [] }).timeReport else s
  (s.setFld d F.rec_stat_master (b2n (s.candidate d && rank = own))).roleTest

/-- Die 0 goes on with what hangs on the master: its table of devices, cuts and the patches of route entries (R533 to R536). -/
def State.masterPeriod (s : State) : State :=
  let s := if 3 ≤ (s.recd.get 0).runs then s.masterKnown else s
  (s.tableStep true).masterCut.patchNext

/-- ELECTION_PERIOD (R531): one period of 1 ms on die `d`. -/
def execElectionPeriod (d : Fin 2) (s : State) : Host.Outcome State Fault Refusal :=
  if ¬ s.flag 0 F.boot_stat_loaded then .next s
  else
    let s := (s.rankPeriod d).electRank d
    .next (if d = 0 then s.masterPeriod else s)

/-- A controller fails its self-test, or elig is cleared: the device withdraws at once (R528, R531). -/
def State.withdraw (s : State) : State :=
  let s := [0, 1].foldl (fun s d => if s.candidate d then s else s.ownRank d) s
  let s := [0, 1].foldl (fun s d => if (s.recd.get d).own.isNone then s.setFld d F.rec_stat_master 0 else s) s
  s.roleTest

/-- RC_SELFTEST_FAIL (R525, R526, R528): a running controller fails, with a cause: 0 compare, 1 parity, 2 clock, 3 watchdog. -/
def execRcSelftestFail (d : Fin 2) (cause : Fin 4) (s : State) : Host.Outcome State Fault Refusal :=
  if ¬ s.rcUp d then .next s
  else
    let s := (s.setFld d F.rec_stat_rc 3).raise (1 - d) 0x15 0x8010 (d + cause * 256) { other := true }
    .next s.withdraw.actionFails

/-! ## Reissued writes (R367, R534) -/

/-- The code of a status in event 0x8019. -/
def ReqStatus.code : ReqStatus → Nat
  | .ok => 0 | .poison => 1 | .noroute => 2 | .refused => 3 | .notsent => 4 | .unknown => 5

/-- A request issued again, counting the attempt. -/
def ReqKind.again : ReqKind → ReqKind
  | .twin r q t => .twin r q (t + 1)
  | .record u c t => .record u c (t + 1)
  | k => k

/-- The attempts made. -/
def ReqKind.tries : ReqKind → Nat
  | .twin _ _ t => t
  | .record _ _ t => t
  | _ => 0

/-- One write that has completed otherwise than OK. -/
def State.reissueOne (s : State) (d : Nat) (q : Req) : State :=
  let unit := match q.kind with
    | .twin _ _ _ => 0x14
    | .record u _ _ => u
    | _ => 0x0E
  let isMeld : Bool := match q.kind with
    | .meld _ _ _ => true
    | _ => false
  let st := q.status.getD .ok
  let s := s.updFab d fun x => { x with reqs := x.reqs.erase q }
  let again : Bool := isMeld || ((st = .unknown || st = .noroute || st = .notsent) && q.kind.tries < s.fld d F.rec_wrmax_n)
  if again then s.remoteWrite d q.dst q.addr q.data true q.fx q.kind.again
  else s.raise d 0x15 0x8019 (unit + q.dst * 2 ^ 16 + st.code * 2 ^ 32)

/-- WR_REISSUE (R367, R534): every 1 ms the writes that completed UNKNOWN, NOROUTE or NOTSENT are issued again, up to `rec.wrmax`
times. -/
def execWrReissue (d : Fin 2) (s : State) : Host.Outcome State Fault Refusal :=
  .next (((s.fb d).reqs.filter fun q => q.write && q.status.isSome && q.status ≠ some .ok).foldl (fun s q => s.reissueOne d q) s)

end Sys2Proof.Machine
end

