-- ==== Sys2Proof/Machine/Links.lean ====
section
/-! DEFINITION. Links: training, loss and the settlement of outstanding work, remote reads and writes at their destination, and the
arrival of segments and acknowledgements (R291, R295 to R303, R312, R313, R320). -/

namespace Sys2Proof.Machine

/-- Whether the held units run: run release has happened (R588, R604). -/
def State.released (s : State) : Bool := s.flag 0 F.boot_stat_loaded

/-! ## The settlement of a lost link's work (R302, R303) -/

/-- The unit that issues a request, by its slot code (R681). -/
def ReqKind.unit : ReqKind → Nat
  | .twin _ _ _ => 0x14
  | .meld _ _ _ => 0x0E
  | .record u _ _ => u
  | .fetch _ => 0x15

/-- A remote write's outcome is unknown: event 0x2013 (R303). -/
def State.reqUnknown (s : State) (d : Nat) (q : Req) : State :=
  (s.raise d 0x0B 0x2013 (q.kind.unit + q.tag * 2 ^ 16 + q.dst * 2 ^ 32)).endReq d q.tag .unknown []

/-- Change an open request of a die. -/
def State.updReq (s : State) (d tag : Nat) (f : Req → Req) : State :=
  s.updFab d fun x => { x with reqs := x.reqs.map fun q => if q.tag = tag ∧ q.status.isNone then f q else q }

/-- A request awaiting its response over a lost link: reissued by an alternative, or ended (R303). -/
def State.settleReq (s : State) (d : Nat) (q : Req) : State :=
  match s.route d q.dst (if q.write then 2 else 1) (s.fixedNow q.fx) with
  | some (c, _) =>
    if ¬ q.write then
      let t := (s.fb d).tag
      let s := (s.updReq d q.tag fun x => { x with tag := t, link := c }).updFab d fun x => { x with nextTag := (t + 1) % 4096 }
      s.leave d c ({ q with tag := t }.msg (s.node d) (s.fixedNow q.fx))
    else if q.idem then (s.updReq d q.tag fun x => { x with link := c }).leave d c (q.msg (s.node d) (s.fixedNow q.fx))
    else s.reqUnknown d q
  | none => if q.write then s.reqUnknown d q else s.endReq d q.tag .noroute []

/-- The request of this die that a message carries. -/
def State.reqOf (s : State) (d : Nat) (m : Msg) : Option Req :=
  if m.src ≠ s.node d ∨ (m.kind ≠ 1 ∧ m.kind ≠ 2) then none
  else (s.fb d).reqs.find? fun q => q.tag = bits m.low 70 12 && q.status.isNone

/-- A Meld message of this die is lost in the fabric: an OUT piece is counted and reported (R352). A piece without the fragment's header
counts for the first enabled slot. -/
def State.frgLost (s : State) (d : Nat) (m : Msg) : State :=
  if m.kind ≠ 6 ∨ m.src ≠ s.node d ∨ bits m.low 80 2 ≠ 0 then s
  else
    let named := if bits m.low 67 13 = 0 then s.enabledJob d (FragHdr.ofBytes (m.data.take 64)).job else none
    s.outLost d (named.getD (((List.range 4).find? fun j => s.jobOn d j).getD 0))

/-- A held message has no alternative and is dropped: its request completes (R302, R303). -/
def State.dropHeld (s : State) (d : Nat) (m : Msg) : State :=
  let s := s.count32 d F.lnk_drop_count
  match s.reqOf d m with
  | some q => s.endReq d q.tag (if q.write then .notsent else .noroute) []
  | none =>
    if (m.kind = 1 ∨ m.kind = 2) ∧ m.src ≠ s.node d then (s.send d (rspMsg m.src m.dst (bits m.low 70 12) 2 m.fx [])).1
    else s.frgLost d m

/-- A message that waited for a lost link and was never sent: rerouted as it is, or dropped; the slots dropped out of the hold buffer are
counted. Heartbeats are not reissued. -/
def State.settleHeld (s : State) (d : Nat) (inHold : Bool) (m : Msg) : State × Nat :=
  if m.kind = 7 then (s, 0)
  else
    match s.route d m.dst m.kind (m.fx || m.kind = 4) with
    | some (c, _) =>
      let s := match s.reqOf d m with
        | some q => s.updReq d q.tag fun x => { x with link := c }
        | none => s
      (s.leave d c m, 0)
    | none =>
      if inHold then (s.dropHeld d m, m.len + 1)
      else if m.src ≠ s.node d then (s.dropForwarded d m, 0)
      else (s.dropHeld d m, 0)

/-- The messages of a queue with a mark on those within the 64-flit hold buffer (R302). -/
def holdSplit : Nat → List Msg → List (Bool × Msg)
  | _, [] => []
  | used, m :: r => (used + m.len + 1 ≤ 64 * 13, m) :: holdSplit (used + m.len + 1) r

/-- The segments of a step among messages. -/
def Coll.segsIn (c : Coll) (this : Nat) (x : CollSend) (q : List Msg) : List Msg :=
  q.filter fun m => m.kind = 4 && m.src = this && m.dst = x.dst && bits m.low 43 39 =
    bits (segLow (bits c.req.w 112 8) c.inst x.step 0 0) 43 39

/-- A step of a running COLL that went over a lost link code: what was sent of it is resent from the last mark by an alternative, or it
faults (R303). -/
def State.settleStep (s : State) (d rt i : Nat) (c : Coll) (x : CollSend) (q : List Msg) : State :=
  match s.route d x.dst 4 true with
  | some (via, _) =>
    let s := s.updColl d rt fun y => { y with sends := listMod y.sends i fun z => { z with via } }
    let waits := c.segsIn (s.node d) x q
    if x.data.isEmpty ∧ ¬ waits.isEmpty then s
    else s.resendSegs d c { x with via } ((waits.map fun m => 16 * bits m.low 7 32).foldl min x.sent)
  | none => s.collFault d rt 0x2012 x.dst

/-- The steps of every COLL over a lost link code for which `q` waited. -/
def State.settleColls (s : State) (d code : Nat) (q : List Msg) : State :=
  (s.fb d).colls.foldl
    (fun s c =>
      let rt := bits c.req.w 112 8
      (c.sends.zipIdx.filter fun x => x.1.begun && !x.1.acked && x.1.via = code).foldl
        (fun s x => if (s.coll d rt).isNone then s else s.settleStep d rt x.2 c x.1 q) s) s

/-- A SACK that a lost link may have lost is resent with the current mark (R303). -/
def State.resack (s : State) (d : Nat) (m : Msg) : State :=
  let rt := bits m.low 74 8
  let cur : Option Nat := match s.coll d rt with
    | some c => if c.inst = bits m.low 58 16 then
        (c.recvs.find? fun (x : CollRecv) => x.src = m.dst && x.step = bits m.low 43 15).map fun x => x.data.length / 16 else none
    | none => none
  let mark := cur.getD (bits m.low 7 32)
  (s.send d { m with low := m.low / 2 ^ 39 * 2 ^ 39 + mark % 2 ^ 32 * 2 ^ 7 }).1

/-- The outstanding work of a link code is settled, the link itself being unusable already: `q` waited for it, and `sent` was sent
and not acknowledged (R302, R303). `n` is its number in events, 31 for the bridge. What was sent of a step is resent before what waited
of it, so that its segments keep their order. -/
def State.settle (s : State) (d code n : Nat) (q sent : List Msg) : State :=
  let waits := (s.fb d).reqs.filter fun x => x.link = code && x.status.isNone &&
    !q.any fun m => m.src = s.node d && (m.kind = 1 || m.kind = 2) && bits m.low 70 12 = x.tag
  let r := (holdSplit 0 q).foldl (fun r p =>
    let x := r.1.settleHeld d p.1 p.2
    (x.1, r.2 + x.2)) (s.settleColls d code q, 0)
  let s := if r.2 = 0 then r.1 else r.1.raise d 0x0B 0x2006 (n + cdiv r.2 13 * 2 ^ 32)
  let s := waits.foldl (fun s x => s.settleReq d x) s
  (sent.filter fun m => m.src = s.node d).foldl
    (fun s m => if m.kind = 5 then s.resack d m else if m.kind = 6 then
        let r := s.send d m
        if r.2.isNone then r.1.frgLost d m else r.1
      else s) s

/-- Link `i` leaves service: DOWN, with its work settled (R301, R303, R320). -/
def State.linkDown (s : State) (d i : Nat) : State :=
  let l := s.lk d i
  let s := ((s.setLink d i 0).setFld d F.lnk_stat_lanes 0 i).updLk d i fun _ => Lk.fresh
  let s := (s.setFld 0 F.time_ldly_valid 0 (18 * d + i)).timeHbLost (18 * d + i)
  s.settle d i i (l.q ++ l.back) (l.sent.map (·.2))

/-- A loss is recorded in `lnk.ff` (R322). -/
def State.recordLoss (s : State) (d cause n : Nat) : State := s.recordFirst d F.lnk_ff_valid (cause * 256 + n)

/-- Link `i` is lost (R301): event 0x2002, a warning (R505), and the settlement of its work. -/
def State.linkLost (s : State) (d i cause : Nat) : State :=
  let s := (s.recordLoss d cause i).raise d 0x0B 0x2002 (cause * 256 + i)
  ((s.warn d 3).tell d i 3).linkDown d i

/-- The bridge is down for die `d` (R188, R301, R318): the loss of link code 0x3F. -/
def State.bridgeLoss (s : State) (d : Nat) : State :=
  let mine (e : Nat × Msg) : Bool := e.1 = 1 - d && e.2.src ≠ s.node (1 - d)
  let q := (s.transit.filter mine).map (·.2)
  let s := { s with transit := s.transit.filter fun e => !mine e }
  (s.recordLoss d 0 31).settle d bridgeLink 31 q []

/-! ## Training (R295, R296, R320) -/

/-- A training of link `i` begins from DOWN. -/
def State.linkTrain (s : State) (d i : Nat) : State := (s.updLk d i fun _ => Lk.fresh).setLink d i 1

/-- A training fails: back to DOWN, with no event (R295). Messages that CAL held go by their alternatives, as at a loss (R303). -/
def State.trainFails (s : State) (d i : Nat) : State :=
  let l := s.lk d i
  (((s.setLink d i 0).setFld d F.lnk_stat_lanes 0 i).updLk d i fun _ => Lk.fresh).settle d i i (l.q ++ l.back) []

/-- Link `i` comes to PEER, in a training or in RETRAIN: it sends its node id and link number, and `lnk.peer` is taken as it stands
(R295, R296, R320). -/
def State.enterPeer (s : State) (d i : Nat) : State :=
  let s := s.updLk d i fun l => { l with atPeer := s.linkState d i = 6, peer := s.reg d R.lnk_peer i }
  s.emit (.peer d i (s.ownNode d))

/-- Link `i` reaches UP: from PEER or RETRAIN event 0x2001 is raised; after RETRAIN the flits not acknowledged are sent again, and held
messages leave (R293, R295, R302). -/
def State.linkUp (s : State) (d i : Nat) : State :=
  let left := s.linkState d i
  let s := (s.setLink d i 5).updLk d i fun l => { l.resume with fromUp := false, atPeer := false, fails := (0, 0) }
  let s := if left = 1 then s else s.raise d 0x0B 0x2001 (i + left * 256)
  let s := if s.flag 0 F.boot_stat_linkup then s else s.stage F.boot_stat_linkup
  let s := if left = 6 then (s.lk d i).replay.foldl (fun s p => s.flitOut d i p.1 false p.2) s else s
  (s.measureDelay (18 * d + i)).pump d i

/-- LINK_RETRY_TIMER (R295): a link that is DOWN, enabled, with auto = 1 trains again. -/
def execLinkRetryTimer (d : Fin 2) (i : Fin 18) (s : State) : Host.Outcome State Fault Refusal :=
  if s.released ∧ s.linkState d i = 0 ∧ bit (s.fld d F.lnk_ctl_en) i ∧ s.flag d F.lnk_ctl_auto then .next (s.linkTrain d i)
  else .next s

/-- LINK_CAL_DONE (R295): the transmit PLL locks; CAL is left for EQ, or for UP where it was entered from UP. -/
def execLinkCalDone (d : Fin 2) (i : Fin 18) (s : State) : Host.Outcome State Fault Refusal :=
  if s.linkState d i ≠ 1 then .next s
  else if (s.lk d i).fromUp then .next (s.linkUp d i)
  else .next (s.setLink d i 2)

/-- LINK_CAL_TIMEOUT (R295, R301): a failed training, or from UP the loss of the link. -/
def execLinkCalTimeout (d : Fin 2) (i : Fin 18) (s : State) : Host.Outcome State Fault Refusal :=
  if s.linkState d i ≠ 1 then .next s
  else if (s.lk d i).fromUp then .next (s.linkLost d i 1)
  else .next (s.trainFails d i)

/-- LINK_EQ_DONE (R295): the 12 lanes are trained, and the link enters ALIGN. -/
def execLinkEqDone (d : Fin 2) (i : Fin 18) (s : State) : Host.Outcome State Fault Refusal :=
  if s.linkState d i ≠ 2 then .next s else .next ((s.setLink d i 3).setFld d F.lnk_stat_lanes 0xFFF i)

/-- LINK_EQ_TIMEOUT (R295). -/
def execLinkEqTimeout (d : Fin 2) (i : Fin 18) (s : State) : Host.Outcome State Fault Refusal :=
  if s.linkState d i ≠ 2 then .next s else .next (s.trainFails d i)

/-- LINK_ALIGN_DONE (R295): the link enters PEER, from ALIGN or, within RETRAIN, from its ALIGN stage. -/
def execLinkAlignDone (d : Fin 2) (i : Fin 18) (s : State) : Host.Outcome State Fault Refusal :=
  if s.linkState d i = 6 then .next (s.enterPeer d i)
  else if s.linkState d i ≠ 3 then .next s
  else .next ((s.setLink d i 4).enterPeer d i)

/-- LINK_ALIGN_TIMEOUT (R295). -/
def execLinkAlignTimeout (d : Fin 2) (i : Fin 18) (s : State) : Host.Outcome State Fault Refusal :=
  if s.linkState d i ≠ 3 then .next s else .next (s.trainFails d i)

/-- Whether link `i` is in PEER: the state, or the stage of RETRAIN (R295). -/
def State.inPeer (s : State) (d i : Nat) : Bool := s.linkState d i = 4 || (s.linkState d i = 6 && (s.lk d i).atPeer)

/-- PEER_EXCHANGE (R296, R320): the peer's node id and link number are recorded, and the link goes UP, or to HOLD where they differ from
what `lnk.peer` expected as PEER began. -/
def execPeerExchange (d : Fin 2) (i : Fin 18) (node : Fin 32768) (link : Fin 32) (s : State) : Host.Outcome State Fault Refusal :=
  if ¬ s.inPeer d i then .next s
  else
    let p := (s.lk d i).peer
    let s := (s.setFld d F.lnk_peer_obs_node node i).setFld d F.lnk_peer_obs_link link i
    if bit p 63 ∧ (bits p 43 15 ≠ node.val ∨ bits p 38 5 ≠ link.val) then
      .next ((s.setLink d i 7).raise d 0x0B 0x2004 (i + node * 2 ^ 16 + link * 2 ^ 32))
    else .next (s.linkUp d i)

/-- A link enters RETRAIN from UP (R295). -/
def State.enterRetrain (s : State) (d i : Nat) : State :=
  ((s.setLink d i 6).updLk d i fun l => { l.stop with atPeer := false }).tally d R.lnk_t_rtr i

/-- LINK_RECEIVE_SILENCE (R295): an UP link accepts no flit, or loses codeword lock, for 1 µs, and enters RETRAIN. -/
def execLinkReceiveSilence (d : Fin 2) (i : Fin 18) (s : State) : Host.Outcome State Fault Refusal :=
  if s.linkState d i ≠ 5 then .next s else .next (s.enterRetrain d i)

/-- TX_PLL_LOCK_LOSS (R295): an UP link enters CAL. -/
def execTxPllLockLoss (d : Fin 2) (i : Fin 18) (s : State) : Host.Outcome State Fault Refusal :=
  if s.linkState d i ≠ 5 then .next s
  else .next (((s.setLink d i 1).updLk d i fun l => { l.stop with fromUp := true }).tally d R.lnk_t_rtr i)

/-- RETRAIN_DONE (R295, R302): RETRAIN reaches UP, by way of its PEER stage. -/
def execRetrainDone (d : Fin 2) (i : Fin 18) (s : State) : Host.Outcome State Fault Refusal :=
  if s.linkState d i ≠ 6 then .next s
  else if (s.lk d i).atPeer then .next (s.linkUp d i)
  else .next ((s.enterPeer d i).linkUp d i)

/-- RETRAIN_TIMEOUT (R301, R303): UP is not reached within 100 µs of entering RETRAIN, be it for a mismatch in its PEER stage: the link is
lost with cause 0. -/
def execRetrainTimeout (d : Fin 2) (i : Fin 18) (s : State) : Host.Outcome State Fault Refusal :=
  if s.linkState d i = 6 ∨ (s.linkState d i = 7 ∧ (s.lk d i).atPeer) then .next (s.linkLost d i 0) else .next s

/-- Whether link `i` is in service: UP, in RETRAIN or what follows a mismatch in it, or in CAL from UP. -/
def State.inService (s : State) (d i : Nat) : Bool :=
  let n := s.linkState d i
  n = 5 || n = 6 || (n = 7 && (s.lk d i).atPeer) || (n = 1 && (s.lk d i).fromUp)

/-- A write of `lnk.ctl` (R320), with its old value: a link newly disabled goes DOWN with its work settled, and one newly enabled
trains. -/
def State.onLnkCtl (s : State) (d old : Nat) : State :=
  let en := s.fld d F.lnk_ctl_en
  (List.range 18).foldl
    (fun s i =>
      if bit old i ∧ ¬ bit en i then
        if s.inService d i then (s.recordLoss d 2 i).linkDown d i else s.trainFails d i
      else if ¬ bit old i ∧ bit en i ∧ s.released then s.linkTrain d i
      else s) s

/-- A die's links at the end of a clock: those that hold messages in CAL or RETRAIN count it (R302, R325). -/
def State.linkClock (s : State) (d : Nat) : State :=
  (List.range 18).foldl
    (fun s i =>
      let n := s.linkState d i
      if (n = 1 ∨ n = 6) ∧ ¬ (s.lk d i).q.isEmpty then s.tally d R.lnk_t_hold i else s) s

/-! ## Messages that arrive at their node (R291, R297) -/

/-- A remote read is made at its destination and answered (R291). -/
def State.serveRd (s : State) (d : Nat) (m : Msg) : State :=
  let a := bits m.low 0 52
  let n := 16 * m.want
  let tag := bits m.low 70 12
  if ¬ inMemory a n then (s.send d (rspMsg m.src m.dst tag 3 m.fx [])).1
  else
    let r := s.read d a n
    (r.st.send d (rspMsg m.src m.dst tag (b2n r.poison) m.fx r.data)).1

/-- A remote write is made at its destination and answered, or refused (R291). -/
def State.serveWr (s : State) (d : Nat) (m : Msg) : State :=
  let a := bits m.low 0 52
  let tag := bits m.low 70 12
  if ¬ inMemory a m.data.length then (s.send d (rspMsg m.src m.dst tag 3 m.fx [])).1
  else ((((s.writeRaw d a m.data).send d (rspMsg m.src m.dst tag 0 m.fx [])).1).twinBuffer a m.data).recBuffer a m.data

/-- RD (R291): a remote read arrives at its destination node. -/
def execRd (d : Fin 2) (via : Nat) (m : Msg) (s : State) : Host.Outcome State Fault Refusal :=
  match s.arrives d via m 1 with
  | some s => .next (s.serveRd d m)
  | none => .next s

/-- WR (R291): a remote write arrives at its destination node. -/
def execWr (d : Fin 2) (via : Nat) (m : Msg) (s : State) : Host.Outcome State Fault Refusal :=
  match s.arrives d via m 2 with
  | some s => .next (s.serveWr d m)
  | none => .next s

/-- The status that a response carries (R291); 4 to 7 are reserved. -/
def rspStatus (n : Nat) : Option ReqStatus :=
  match n with
  | 0 => some .ok
  | 1 => some .poison
  | 2 => some .noroute
  | 3 => some .refused
  | _ => none

/-- A response ends its request; one with a tag that no open request has is dropped (R303). -/
def State.serveRsp (s : State) (d : Nat) (m : Msg) : State :=
  match rspStatus (bits m.low 67 3) with
  | some st => (s.endReq d (bits m.low 70 12) st m.data).joinAcks.tableStep false
  | none => s

/-- RSP (R303). -/
def execRsp (d : Fin 2) (via : Nat) (m : Msg) (s : State) : Host.Outcome State Fault Refusal :=
  match s.arrives d via m 3 with
  | some s => .next (s.serveRsp d m)
  | none => .next s

/-- SEG (R312, R314): one for a later instance waits in the receive buffer while the early-arrival buffer is full. -/
def execSeg (d : Fin 2) (via : Nat) (m : Msg) (s : State) : Host.Outcome State Fault Refusal :=
  match s.arrives d via m 4 with
  | some t =>
    if t.segEarly d m ∧ t.earlyFull d then .next (s.parked d via m)
    else .next (t.segArrive d m)
  | none => .next s

/-- SACK (R313). -/
def execSack (d : Fin 2) (via : Nat) (m : Msg) (s : State) : Host.Outcome State Fault Refusal :=
  match s.arrives d via m 5 with
  | some s => .next (s.sackArrive d m)
  | none => .next s

end Sys2Proof.Machine
end

