-- ==== Sys2Proof/Machine/Ckp.lean ====
section
/-! DEFINITION. Checkpoints: program requests, cuts of a device, Drayman, and restores (R506 to R519, R528, R541). -/

namespace Sys2Proof.Machine

/-! ## Requests (R506, R516) -/

/-- PREQ_POLL (R506): every 1 ms the preq word of the descriptor is read; a raised one is a request for a site cut. -/
def execPreqPoll (s : State) : Host.Outcome State Fault Refusal :=
  if ¬ s.released then .next s
  else
    let v := s.viewNat (s.ckpDesc + 8) 8
    let up := s.ckp.preq < v
    let s := { s with ckp := { s.ckp with preq := v } }
    .next (if up then s.requestCut else s)

/-- A write of 1 to `ckp.cut.go` (R516): a site cut is requested, or a local cut begins at the step given. -/
def State.onCkpCut (s : State) (d : Nat) : State :=
  let s := s.setFld d F.ckp_cut_go 0
  if s.flag d F.ckp_cut_site then s.requestCut
  else
    let id := (max s.ckp.seen (s.fld 0 F.ckp_stat_cutid) + 1) % 65536
    s.cutArrives ⟨id, s.ckpCtx, s.fld d F.ckp_cut_step, false, false⟩

/-! ## ARMED (R513, R518) -/

/-- Whether no slot holds an item of a context and no Meld slot driven by it is in SNAP, ENC or APPLY (R513). -/
def State.cutQuiet (s : State) (ctx : Nat) : Bool :=
  !(allSlots.any fun p => (s.slot p.1 p.2).st ≠ .idle && (s.slot p.1 p.2).ctx = ctx) &&
    ((List.range 8).all fun i =>
      let n := s.jobSt (i / 4) (i % 4)
      (s.job (i / 4) (i % 4)).ctx ≠ ctx || !(n = 4 || n = 5 || n = 7))

/-- Whether an image slot holds the last complete image. -/
def State.lastImage (s : State) (i : Nat) : Bool := s.fld 0 F.ckp_stat_valid ≠ 0 && s.fld 0 F.ckp_stat_last = i

/-- The image slot that a cut may use (R518). -/
def State.freeImage (s : State) (slots : Nat) : Option Nat :=
  (List.range slots).find? fun i => !s.lastImage i && !(s.ckp.drain.any fun x => x.slot = i)

/-- A drain stops, and the one that waits begins (R517). -/
def State.drainStops (s : State) : State :=
  let n := s.ckp.drainNext
  let s := { s with ckp := { s.ckp with drain := n, drainNext := none } }
  let f (s : State) (d : Nat) : State := if n.isSome then (s.setFld d F.ckp_dray_go 0).setFld d F.ckp_dray_busy 1 else s.setFld d F.ckp_dray_busy 0
  f (f s 0) 1

/-- CUT_QUIESCED (R513, R518): the context is quiet and an image slot is free; COPY begins. -/
def execCutQuiesced (s : State) : Host.Outcome State Fault Refusal :=
  match s.ckp.run with
  | none => .next s
  | some r =>
    if s.fld 0 F.ckp_stat_state ≠ 1 ∨ ¬ s.cutQuiet r.req.ctx then .next s
    else
      let go (s : State) (i : Nat) : State := { s.setCut 3 with ckp := { s.ckp with run := some { r with slot := some i } } }
      match s.freeImage (ckpSlots r.desc) with
      | some i => .next (go s i)
      | none =>
        match s.ckp.drain with
        | some x =>
          if (s.flag 0 F.ckp_ctl_preempt ∨ r.req.warned) ∧ x.slot < ckpSlots r.desc ∧ ¬ s.lastImage x.slot then
            let s := (s.raise 0 0x14 0x8006 x.slot).drainStops
            .next (go s x.slot)
          else .next s
        | none => .next s

/-- CUT_QUIESCE_TIMEOUT (R513): `ckp.lead.qtmo` ms have passed in ARMED, and the cut fails. -/
def execCutQuiesceTimeout (s : State) : Host.Outcome State Fault Refusal :=
  match s.ckp.run with
  | some r => if s.fld 0 F.ckp_stat_state = 1 then .next (s.cutFails r.req 1).cutNext else .next s
  | none => .next s

/-! ## COPY (R509 to R514) -/

/-- Bytes with their poison marks narrowed: FP32 values to E4M3 elements followed by the scales of their MX blocks (R509). -/
def narrow (l : List PByte) : List PByte :=
  let blk (b : List PByte) : List PByte × PByte :=
    let vs := (pieces 4 b).map fun w => f32v (leNat (w.map (·.1)))
    let m := mxEncode .mx8e4m3 vs (vs.map fun _ => .rne)
    let bad := b.any (·.2)
    (m.elems.map fun e => (BitVec.ofNat 8 e.w, bad), (BitVec.ofNat 8 m.scale, bad))
  let bs := (pieces 128 l).map blk
  (bs.map (·.1)).flatten ++ bs.map (·.2)

/-- Stored elements and scales expanded to `n` FP32 values (R509). -/
def widen (n : Nat) (l : List PByte) : List PByte :=
  let scales := l.drop n
  (((l.take n).zipIdx).map fun p =>
    let x := scales.getD (p.2 / 32) (0, false)
    (leBytes 4 (f32 (mxDecode .mx8e4m3 x.1.toNat p.1.1.toNat))).map fun b => (b, p.1.2 || x.2)).flatten

/-- The shard digest of stored bytes (R511): the magic's last bytes, format, die, source, length, and the bytes. -/
def State.shardDigest (s : State) (ctx : Nat) (magic : List Byte) (fmt die src len : Nat) (bytes : List Byte) : List Byte :=
  sha256 (([0x57, 0x59] : List Byte) ++ magic ++ leBytes 1 fmt ++ leBytes 1 die ++ leBytes 2 0 ++ leBytes 8 src ++ leBytes 8 len ++
    leBytes 8 bytes.length ++ leBytes 16 0 ++ leBytes 16 (digestTree (s.ctxField ctx 0x28 16) bytes))

/-- A region is copied into the image: its record in the manifest, and whether poison was met. -/
def State.copyRegion (s : State) (r : CutRun) (slot : Nat) (g : (Nat × Nat × Nat) × Nat) : State × List Byte × Bool :=
  let reg := g.1
  let die := (dieOfRange reg.1 reg.2.1).getD 0
  let ioff := (ckpPack die (ckpRegions r.desc) 0).1.getD g.2 0
  let q := s.readMarked die reg.1 reg.2.1
  let out := if reg.2.2 = 1 then narrow q.2 else q.2
  let bytes := out.map (·.1)
  let dig := s.shardDigest r.req.ctx [0x43, 0x4B] reg.2.2 die reg.1 reg.2.1 bytes
  let s := q.1.writeMarked die (ckpArea r.desc die + slot * ckpSize r.desc die + ioff) out .unit none
  (s.tally 0 R.ckp_t_cbyte 0 reg.2.1, leBytes 8 reg.1 ++ leBytes 8 reg.2.1 ++ leBytes 8 out.length ++
    leBytes 8 (ioff + die * 2 ^ 63) ++ dig, q.2.any (·.2))

/-- The Meld record of a job slot (R512). -/
def State.meldRecord (s : State) (ctx j : Nat) : List Byte :=
  let x := s.job 0 j
  let applied := s.applied 0 j
  let start := x.dfield 0xD0 8
  let a := x.dfield 0xC0 8 + x.dfield 0xC8 4 * (applied % x.dfield 0xCC 2)
  let head := s.view a 64
  let size := 64 + leAt head 0x3C 1 * (128 + (leAt head 0x3D 1 + 1) * leAt head 0x38 4)
  let none_ : Bool := !s.jobOn 0 j || applied < start || applied = (start + max64) % 2 ^ 64
  let tmd := if none_ then List.replicate 32 0 else s.shardDigest ctx [0x54, 0x4D] 0xFF 0 a size (s.view a size)
  leBytes 1 (s.jobSt 0 j) ++ leBytes 1 (b2n (s.jobSt 0 j = 8 || s.jobSt 1 j = 8)) ++ leBytes 6 0 ++ leBytes 8 (s.acc 0 j) ++
    leBytes 8 applied ++ leBytes 8 0 ++ tmd

/-- The device's global id under the alias in force (R26, R538). -/
def State.gid (s : State) : Nat := s.fld 0 F.boot_devid_site * 2 ^ 14 + s.actId 0

/-- COPY of the cut `r` ends: its regions are in the image slot, the manifest is formed, and WRITE begins (R513, R514, R515). -/
def State.copyEnds (s : State) (r : CutRun) : State :=
  let c := r.req.ctx
  let slot := r.slot.getD 0
  let q := (ckpRegions r.desc).zipIdx.foldl
    (fun (q : State × List Byte × Bool) g =>
      let x := q.1.copyRegion r slot g
      (x.1, q.2.1 ++ x.2.1, q.2.2 || x.2.2)) (s, [], false)
  let s := q.1
  let flags := b2n (!r.req.site) + 2 * b2n r.restarted + 4 * b2n (s.flag 0 F.det_ctl_strict) + 8 * b2n q.2.2
  let head := leBytes 2 1 ++ leBytes 2 flags ++ leBytes 2 r.req.id ++ leBytes 2 c ++ leBytes 8 r.req.step ++ leBytes 8 s.tai ++
    leBytes 4 (s.ctxField c 4 4) ++ leBytes 4 s.gid ++ leBytes 1 slot ++ leBytes 1 (leAt r.desc 2 1) ++ leBytes 30 0
  let regs := q.2.1 ++ List.replicate (1024 - q.2.1.length) 0
  let m := head ++ regs ++ ((List.range 4).map fun j => s.meldRecord c j).flatten
  let valid := s.fld 0 F.ckp_stat_valid
  let valid := if bit valid slot then valid - 2 ^ slot else valid
  let s := (s.setFld 0 F.ckp_stat_valid valid).setFld 1 F.ckp_stat_valid valid
  { s.setCut 4 with ckp := { s.ckp with run := some { r with manifest := m } } }

/-- Whether a Meld slot of context `c` is in APPLY (R514). -/
def State.applying (s : State) (c : Nat) : Bool :=
  (List.range 8).any fun i => s.jobSt (i / 4) (i % 4) = 7 && (s.job (i / 4) (i % 4)).ctx = c

/-- CUT_COPY_DONE (R513, R514): the regions are in the image slot, and the manifest is formed; while a Meld slot of the context is in
APPLY the copy waits to restart. -/
def execCutCopyDone (s : State) : Host.Outcome State Fault Refusal :=
  match s.ckp.run with
  | none => .next s
  | some r => .next (if s.fld 0 F.ckp_stat_state ≠ 3 ∨ s.applying r.req.ctx then s else s.copyEnds r)

/-! ## WRITE and the end of a cut (R513, R518) -/

/-- A drain of an image slot begins, or waits for the one that runs (R517). -/
def State.drainStart (s : State) (slot nent : Nat) : State :=
  if s.ckp.drain.isSome then { s with ckp := { s.ckp with drainNext := some ⟨slot, nent⟩ } }
  else
    let s := { s with ckp := { s.ckp with drain := some ⟨slot, nent⟩ } }
    [0, 1].foldl (fun s d => (s.setFld d F.ckp_dray_go 0).setFld d F.ckp_dray_busy 1) s

/-- The cut `r` is complete: its manifest is written, its image valid and last, the gates open, event 0x8002 is raised, Drayman may start,
and the next cut begins (R513). -/
def State.cutEnds (s : State) (r : CutRun) : State :=
  let slot := r.slot.getD 0
  let s := s.writeRaw 0 (leAt r.desc 0x28 8) r.manifest
  let v := s.fld 0 F.ckp_stat_valid ||| 2 ^ slot
  let last := r.req.id * 2 ^ 48 + r.req.step % 2 ^ 48
  let s := [0, 1].foldl (fun s d =>
    ((s.setFld d F.ckp_stat_valid v).setFld d F.ckp_stat_last slot).setReg d R.ckp_last last) s
  let s := ((s.setCut 0).tally 0 R.ckp_t_cut).raise 0 0x14 0x8002 (r.req.id % 65536 + r.req.step % 2 ^ 48 * 65536) { ctx := r.req.ctx }
  let s := { s with ckp := { s.ckp with gate := none, run := none } }
  (if s.flag 0 F.ckp_ctl_auto_dray then s.drainStart slot (s.fld 0 F.ckp_dray_nent) else s).cutNext

/-- CUT_MANIFEST_DONE (R513): the manifest is written and acknowledged; the cut is complete. -/
def execCutManifestDone (s : State) : Host.Outcome State Fault Refusal :=
  match s.ckp.run with
  | none => .next s
  | some r => .next (if s.fld 0 F.ckp_stat_state ≠ 4 then s else s.cutEnds r)

/-! ## Drayman (R517) -/

/-- A write of 1 to `ckp.dray.go` on die `d`; a slot that holds no complete image fails at its first list entry (assumption 72). -/
def State.onDray (s : State) (d : Nat) : State :=
  let slot := s.fld d F.ckp_dray_slot
  if bit (s.fld 0 F.ckp_stat_valid) slot then s.drainStart slot (s.fld d F.ckp_dray_nent)
  else (s.setFld d F.ckp_dray_go 0).raise 0 0x14 0x8007 slot

/-- The drain in progress fails at a list entry, after `n` bytes: event 0x8007. -/
def State.drainFails (s : State) (entry n : Nat) : State :=
  match s.ckp.drain with
  | none => s
  | some x => ((s.tally 0 R.ckp_t_dbyte 0 n).raise 0 0x14 0x8007 (x.slot + entry % 2 ^ 32 * 2 ^ 32)).drainStops

/-- Bytes laid into host memory through a drain list. -/
def State.drainOut : List (Nat × Nat) → State → List Byte → State
  | [], s, _ => s
  | e :: r, s, b => if b.isEmpty then s else State.drainOut r (s.hostPut e.1 (b.take e.2)) (b.drop e.2)

/-- Drayman's drain `x` ends with the list of the host: image and manifest go out in its entries; `err` is the entry that failed (R517). -/
def State.drainEnd (s : State) (x : DrainRun) (list : List (Nat × Nat)) (err : Option Nat) : State :=
  let list := (list.map fun e => (e.1 % 2 ^ 64, e.2 % 2 ^ 64)).take x.nent
  let b := s.view s.ckpDesc 576
  let image (d : Nat) : List Byte := s.view (ckpArea b d + x.slot * ckpSize b d) (ckpPack d (ckpRegions b) 0).2
  let all := image 0 ++ image 1 ++ s.view (leAt b 0x28 8) 1344
  let room (n : Nat) : Nat := sumNat ((list.take n).map (·.2))
  let s := s.tally 0 R.pcie_t_outrd 0 (16 * list.length)
  match err with
  | some n => (State.drainOut (list.take n) s all).drainFails n (min (room n) all.length)
  | none =>
    if room list.length < all.length then (State.drainOut list s all).drainFails list.length (room list.length)
    else
      let s := (State.drainOut list s all).tally 0 R.ckp_t_dbyte 0 all.length
      (s.raise 0 0x14 0x8005 (x.slot + all.length % 2 ^ 56 * 256)).drainStops

/-- DRAIN_DONE (R517): Drayman has read its list, which the host holds, and written image and manifest; `err` is the list entry that
met a host-port error. -/
def execDrainDone (list : List (Nat × Nat)) (err : Option Nat) (s : State) : Host.Outcome State Fault Refusal :=
  match s.ckp.drain with
  | none => .next s
  | some x => .next (if ¬ s.hostReady then s.drainFails 0 0 else s.drainEnd x list err)

/-! ## Restore (R519) -/

/-- A write of 1 to `ckp.rst.go`: the restore's read pass begins. -/
def State.onRst (s : State) (d : Nat) : State :=
  let slot := s.fld d F.ckp_rst_slot
  if s.flag 0 F.ckp_rst_busy then s
  else [0, 1].foldl (fun s e => ((s.setFld e F.ckp_rst_go 1).setFld e F.ckp_rst_busy 1).setFld e F.ckp_rst_slot slot) s

/-- Where a region record's stored bytes lie: die, address and stored length. -/
def storedAt (b rec_ : List Byte) (slot : Nat) : Nat × Nat × Nat :=
  let die := leAt rec_ 0x18 8 / 2 ^ 63
  (die, ckpArea b die + slot * ckpSize b die + leAt rec_ 0x18 8 % 2 ^ 63, leAt rec_ 0x10 8)

/-- Whether a region's stored bytes have the digest of their record (R511); bytes outside memory have none. -/
def State.regionGood (s : State) (ctx slot : Nat) (b rec_ : List Byte) : Bool :=
  let a := storedAt b rec_ slot
  let src := leAt rec_ 0 8
  let len := leAt rec_ 8 8
  inMemory a.2.1 a.2.2 && inMemory src len &&
    s.shardDigest ctx [0x43, 0x4B] (b2n (a.2.2 ≠ len)) a.1 src len (s.view a.2.1 a.2.2) = (rec_.drop 0x20).take 32

/-- A region is written back to its PA. -/
def State.restoreRegion (slot : Nat) (b : List Byte) (s : State) (rec_ : List Byte) : State :=
  let a := storedAt b rec_ slot
  let len := leAt rec_ 8 8
  let q := s.readMarked a.1 a.2.1 a.2.2
  q.1.writeMarked a.1 (leAt rec_ 0 8) (if a.2.2 = len then q.2 else widen (len / 4) q.2) .unit none

/-- local ← local + snap on the valid elements of half `d` of job slot `j`, invalid elements +0 (R519). -/
def State.restoreCorr (s : State) (j d : Nat) : State :=
  let base := s.fld 0 F.meld_job_desc_base j * 256
  let b := s.view base 256
  let x := { MeldSlot.off with desc := b, smap := (s.shardBytes (leAt b 0x38 8) (leAt b 0x2E 2)).map shardEntry }
  let h := x.half (s.actId d) d
  (List.range h.2).foldl
    (fun s k =>
      let p := s.meldRead d (x.area d 3 + 16384 * k) 4 4096
      let q := p.1.meldRead d (x.area d 2 + 16384 * k) 4 4096
      let sum := (p.2.zip q.2).zip (x.valid (h.1 + k)) |>.map fun e =>
        if e.2 then (f32Add e.1.1.1 e.1.2.1, e.1.1.2 || e.1.2.2) else (0, false)
      q.1.meldWrite d (x.area d 3 + 16384 * k) 4 sum) s

/-- A restore ends: a region whose digest differs fails it, before anything is written; else the regions are written back, the Meld
corrections applied, and a spare that was told to take over acts as the failed device (R519, R537). -/
def State.restoreEnds (s : State) : State :=
  let b := s.view s.ckpDesc 576
  let m := s.view (leAt b 0x28 8) 1344
  let slot := s.fld 0 F.ckp_rst_slot
  let id := leAt m 4 2
  let recs := (List.range (min 16 (leAt m 0x21 1))).map fun k => (m.drop (0x40 + 64 * k)).take 64
  if recs.any fun x => !s.regionGood (leAt m 6 2 % 4096) slot b x then s.restoreFails 5 id
  else
    let s := recs.foldl (State.restoreRegion slot b) s
    let s := (List.range 4).foldl (fun s j =>
      if leAt m (0x441 + 64 * j) 1 = 1 then (s.restoreCorr j 0).restoreCorr j 1 else s) s
    let s := [0, 1].foldl (fun s d => (s.setFld d F.ckp_rst_go 0).setFld d F.ckp_rst_busy 0) s
    (s.raise 0 0x14 0x8008 (slot + id * 65536)).spareActs

/-- RESTORE_DONE (R519, R537): the read pass compares every digest; then the regions are written back, the Meld corrections applied, and
a spare that was told to take over acts as the failed device. -/
def execRestoreDone (s : State) : Host.Outcome State Fault Refusal :=
  .next (if ¬ s.flag 0 F.ckp_rst_busy then s else s.restoreEnds)

end Sys2Proof.Machine
end

