-- ==== Sys2Proof/Machine/Arrive.lean ====
section
/-! DEFINITION. A link's receiver: flits, acknowledgements and credits, and whole messages (R288 to R293, R297); messages that cross the
bridge on their way elsewhere; the end of a bridge training (R188). -/

namespace Sys2Proof.Machine

/-! ## Acknowledgements and replays (R293) -/

/-- The part of a queue of numbered flits after number `n`; all of it when none has that number. -/
def ackDrop {α : Type} (n : Nat) (l : List (Nat × α)) : List (Nat × α) :=
  if l.any fun p => p.1 = n then (l.dropWhile fun p => p.1 ≠ n).drop 1 else l

/-- The peer has received every flit up to number `n`: they leave the replay buffer, and messages that they end are delivered. -/
def State.acked (s : State) (d i n : Nat) : State :=
  s.updLk d i fun l =>
    let left := ackDrop n l.replay
    { l with
      replay := left
      sent := if l.replay.length = left.length then l.sent else l.sent.filter fun p => left.any fun q => q.1 = p.1 }

/-- The peer asks for a replay: every unacknowledged flit is sent again, each a replay; when the first has been replayed
`lnk.retry.max` times the link enters RETRAIN. -/
def State.replayFrom (s : State) (d i : Nat) : State :=
  let l := s.lk d i
  match l.replay with
  | [] => s
  | p :: _ =>
    let n := if l.fails.1 = p.1 then l.fails.2 else 0
    if s.fld d F.lnk_retry_max ≤ n then s.enterRetrain d i
    else
      let s := s.updLk d i fun x => { x with fails := (p.1, n + 1) }
      let s := l.replay.foldl (fun s q => s.flitOut d i q.1 false q.2) s
      (s.tally d R.lnk_t_replay i l.replay.length).warnReplay d l.replay.length

/-- What a good flit's header says to the sender: acknowledgement, credits, and a replay asked for. -/
def State.flitHead (s : State) (d i hdr : Nat) : State :=
  let s := s.acked d i (bits hdr 40 12)
  let s := s.updLk d i fun l =>
    { l with credits := listMod l.credits (bits hdr 37 2) fun c => min 512 (c + 4 * bits hdr 33 4) }
  if bit hdr 39 then s.replayFrom d i else s.pump d i

/-! ## Messages (R289, R290, R297) -/

/-- The slots of received flits cut into whole messages, and what is left of one not yet whole; null slots between messages are
dropped. -/
def cutSlots : Nat → List Nat → List Msg → List Msg × List Nat
  | 0, l, ms => (ms, l)
  | _ + 1, [], ms => (ms, [])
  | n + 1, h :: r, ms =>
    if bits h 124 4 = 0 then cutSlots n r ms
    else
      let len := if bits h 124 4 = 1 then 0 else bits h 83 9
      if r.length < len then (ms, h :: r) else cutSlots n (r.drop len) (ms ++ [msgOf h (r.take len)])

/-- A whole message has come over link `i`: heartbeats are consumed, reserved kinds dropped, messages for other nodes forwarded, and
those for this node handed on. -/
def State.msgIn (s : State) (d i : Nat) (m : Msg) : State :=
  let s := s.updLk d i fun l =>
    if s.withheld d m then { l with kept := listMod l.kept (vcOf m.kind) fun c => c + m.len + 1 }
    else { l with owed := listMod l.owed (vcOf m.kind) fun c => c + m.len + 1 }
  if m.kind = 7 then s.beatArrives d i (beatOf m)
  else if 8 ≤ m.kind then
    (s.count32 d F.lnk_drop_count).raise d 0x0B 0x2007 (i + m.header / 2 ^ 82 * 2 ^ 18)
  else if m.dst ≠ s.node d then s.forward d m
  else s.landed d m

/-- The receiver of link `i` accepts the flit that it expects, with payload slots `p`: its acknowledgements and credits are taken, the
messages that it completes are taken in order, and a flit answers it (R288, R292, R293). -/
def State.flitAccepted (s : State) (d i hdr : Nat) (p : List Nat) : State :=
  let l := s.lk d i
  let s := (s.updLk d i fun x => { x with rxSeq := (l.rxSeq + 1) % 4096, nakSent := false, seen := 0 }).tally d R.lnk_t_rx i
  let s := s.flitHead d i hdr
  let all := l.rx ++ p
  let c := cutSlots (all.length + 1) all []
  let s := c.1.foldl (fun s m => s.msgIn d i m) (s.updLk d i fun x => { x with rx := c.2 })
  if s.linkState d i = 5 then s.flitOut d i (s.lk d i).txSeq true [] else s

/-- The payload of a flit: its 13 slots, idle slots filled in (R288). -/
def flitSlots (slots : List Nat) : List Nat := (fillFlit slots).take 13

/-- Whether the CRC of a flit is right (R288). -/
def flitGood (hdr : Nat) (slots : List Nat) : Bool :=
  crc32c (leBytes 4 (hdr / 2 ^ 32) ++ ((flitSlots slots).map (leBytes 16)).flatten) = hdr % 2 ^ 32

/-- The receiver of link `i` refuses a flit with number `seq`, once per failure (R293): the flits that follow a failed one are discarded
silently, and one that is not further on than the last discarded shows that a replay has failed again. -/
def State.flitRefused (s : State) (d i seq : Nat) : State :=
  let l := s.lk d i
  let k := (seq + 4096 - l.rxSeq) % 4096
  let t := s.updLk d i fun x => { x with seen := k }
  if l.nakSent ∧ l.seen < k then t
  else (t.updLk d i fun x => { x with nakDue := true, nakSent := true }).flitOut d i l.txSeq true []

/-- FLIT_RECEIVE (R288, R292, R293): a flit reaches the receiver of link `i`. An idle flit with a bad CRC is ignored; another flit
that has a bad CRC, or is not the next expected, is discarded and refused once; an accepted one is acknowledged. -/
def execFlitReceive (d : Fin 2) (i : Fin 18) (hdr : Nat) (slots : List Nat) (s : State) : Host.Outcome State Fault Refusal :=
  if s.linkState d i ≠ 5 then .next s
  else if bit hdr 32 then .next (if flitGood hdr slots then (s.tally d R.lnk_t_rx i).flitHead d i hdr else s)
  else if ¬ flitGood hdr slots ∨ bits hdr 52 12 ≠ (s.lk d i).rxSeq then .next (s.flitRefused d i (bits hdr 52 12))
  else .next (s.flitAccepted d i hdr (flitSlots slots))

/-- Messages that have crossed the bridge on their way to another node are forwarded there (R297). -/
def State.transitClock (s : State) : State :=
  if ¬ s.flag 0 F.brg_stat_up then s
  else
    let on (e : Nat × Msg) : Bool := e.1 < 2 && e.2.dst ≠ s.node e.1
    let go := s.transit.filter on
    go.foldl (fun s e => s.forward e.1 e.2) { s with transit := s.transit.filter fun e => !on e }

/-! ## The end of a bridge training (R188) -/

/-- A value of a field of both endpoints of the bridge. -/
def State.setBoth (s : State) (f : Fld) (v : Nat) : State := (s.setFld 0 f v).setFld 1 f v

/-- The training of the bridge ends. -/
def State.trainEnds (s : State) : State :=
  let s := (s.setBoth F.brg_stat_train 0).setBoth F.brg_ctl_retrain 0
  (s.updBridge 0 fun b => { b with start := none, nakSeq := none, naks := 0 }).updBridge 1 fun b =>
    { b with start := none, nakSeq := none, naks := 0 }

/-- The bridge is down (R188): event 0x2061 on both dies, and what waited for it completes. -/
def State.bridgeFalls (s : State) : State :=
  let s := ((s.trainEnds.setBoth F.brg_stat_tries 3).raise 0 0x1D 0x2061 3).raise 1 0x1D 0x2061 3
  let s := s.cohBridgeDown.twinBridgeDown
  let s := (s.bridgeLoss 0).bridgeLoss 1
  (if s.rc 0 = 3 ∨ s.rc 1 = 3 then s.actionFails else s).memResume

/-- A training of the bridge has succeeded: it is up on both dies, and one that was a retraining is reported with its reason (R188). -/
def State.bridgeTrained (s : State) : State :=
  let report (s : State) (d : Nat) (n : Option Nat) : State := match n with
    | some k => (s.raise d 0x1D 0x2060 k).warn d 3
    | none => s
  let a := (s.memd.get 0).bridge.start
  let b := (s.memd.get 1).bridge.start
  let s := (s.trainEnds.setBoth F.brg_stat_up 1).setBoth F.brg_stat_tries 0
  (report (report s 0 a) 1 b).memResume

end Sys2Proof.Machine
end

