-- ==== Sys2Proof/Machine/Crypto.lean ====
section
/-! DEFINITION. The cryptographic functions that the spec names: AES-256 (FIPS 197), GCM (SP 800-38D), AES key wrap (RFC 3394),
HKDF-SHA-256 (RFC 5869), SHA-384 (FIPS 180-4) and ECDSA over P-256 and P-384 (FIPS 186-5) (R414, R415, R423, R566, R586, R597). -/

namespace Sys2Proof.Machine

/-! ## AES-256 -/

/-- A byte times x in GF(2^8). -/
def aesDouble (a : Nat) : Nat := 2 * a % 256 ^^^ (if 128 ≤ a then 0x1B else 0)

/-- The product in GF(2^8), `n` bits of `b`. -/
def aesMulFrom : Nat → Nat → Nat → Nat
  | 0, _, _ => 0
  | n + 1, a, b => (if b % 2 = 1 then a else 0) ^^^ aesMulFrom n (aesDouble a) (b / 2)

/-- The product in GF(2^8). -/
def aesMul (a b : Nat) : Nat := aesMulFrom 8 a b

/-- The inverse in GF(2^8), 0 for 0: a^254, the product of a^2, a^4, …, a^128. -/
def aesInv (a : Nat) : Nat :=
  let p2 := aesMul a a
  let p4 := aesMul p2 p2
  let p8 := aesMul p4 p4
  let p16 := aesMul p8 p8
  let p32 := aesMul p16 p16
  let p64 := aesMul p32 p32
  let p128 := aesMul p64 p64
  aesMul p2 (aesMul p4 (aesMul p8 (aesMul p16 (aesMul p32 (aesMul p64 p128)))))

/-- Rotation left of a byte. -/
def byteRot (n a : Nat) : Nat := (a <<< n) % 256 + a >>> (8 - n)

/-- The S-box. -/
def aesSub (a : Nat) : Nat :=
  let x := aesInv a
  x ^^^ byteRot 1 x ^^^ byteRot 2 x ^^^ byteRot 3 x ^^^ byteRot 4 x ^^^ 0x63

/-- The inverse S-box. -/
def aesUnsub (a : Nat) : Nat := aesInv (byteRot 1 a ^^^ byteRot 3 a ^^^ byteRot 6 a ^^^ 0x05)

/-- Exclusive or, byte by byte. -/
def xorList (a b : List Nat) : List Nat := List.zipWith (· ^^^ ·) a b

/-- The words of the key schedule after the first eight, newest first: `n` more words from word number `i`. -/
def aesExpand : Nat → Nat → Nat → List (List Nat) → List (List Nat)
  | 0, _, _, w => w
  | n + 1, i, rcon, w =>
    let last := w.headD []
    let old := w.getD 7 []
    let t := if i % 8 = 0 then xorList (((last.drop 1) ++ last.take 1).map aesSub) [rcon, 0, 0, 0]
      else if i % 8 = 4 then last.map aesSub else last
    aesExpand n (i + 1) (if i % 8 = 0 then aesDouble rcon else rcon) (xorList old t :: w)

/-- The 15 round keys of a 32-byte key. -/
def aesKeys (key : List Byte) : List (List Nat) :=
  let w := aesExpand 52 8 1 (pieces 4 (key.map BitVec.toNat)).reverse
  (pieces 4 w.reverse).map List.flatten

/-- Byte `4c + r` of a state from column `c + k·r` of the same row. -/
def aesShift (k : Nat) (x : List Nat) : List Nat :=
  (List.range 16).map fun i => x.getD (i % 4 + 4 * ((i / 4 + k * (i % 4)) % 4)) 0

/-- The columns of a state times a circulant matrix whose first row is given. -/
def aesMix (m : List Nat) (x : List Nat) : List Nat :=
  (List.range 16).map fun i =>
    (List.range 4).foldl (fun a j => a ^^^ aesMul (m.getD ((j + 4 - i % 4) % 4) 0) (x.getD (i / 4 * 4 + j) 0)) 0

/-- One block encrypted. -/
def aesEncrypt (key : List Byte) (b : List Byte) : List Byte :=
  let ks := aesKeys key
  let round (x k : List Nat) : List Nat := xorList (aesMix [2, 3, 1, 1] (aesShift 1 (x.map aesSub))) k
  let x := ((ks.drop 1).take 13).foldl round (xorList (b.map BitVec.toNat) (ks.headD []))
  (xorList (aesShift 1 (x.map aesSub)) (ks.getD 14 [])).map (BitVec.ofNat 8)

/-- One block decrypted. -/
def aesDecrypt (key : List Byte) (b : List Byte) : List Byte :=
  let ks := (aesKeys key).reverse
  let round (x k : List Nat) : List Nat := aesMix [14, 11, 13, 9] (xorList ((aesShift 3 x).map aesUnsub) k)
  let x := ((ks.drop 1).take 13).foldl round (xorList (b.map BitVec.toNat) (ks.headD []))
  (xorList ((aesShift 3 x).map aesUnsub) (ks.getD 14 [])).map (BitVec.ofNat 8)

/-! ## GCM with a 96-bit IV and a 128-bit tag -/

/-- The product of GCM's field: bit 127 of a number stands for x^0. -/
def ghashMulFrom : Nat → Nat → Nat → Nat → Nat
  | 0, _, _, z => z
  | n + 1, x, v, z =>
    ghashMulFrom n x (if v % 2 = 1 then v / 2 ^^^ 0xE1000000000000000000000000000000 else v / 2) (if bit x n then z ^^^ v else z)

/-- GHASH of additional data and ciphertext under `h`. -/
def ghash (h : Nat) (aad ct : List Byte) : Nat :=
  let fill (b : List Byte) : List Byte := b ++ List.replicate ((16 - b.length % 16) % 16) 0
  let all := fill aad ++ fill ct ++ beBytes 8 (8 * aad.length) ++ beBytes 8 (8 * ct.length)
  (pieces 16 all).foldl (fun y b => ghashMulFrom 128 (y ^^^ beNat b) h 0) 0

/-- The key stream of counter mode over a text. -/
def gcmCtr (key iv text : List Byte) : List Byte :=
  (((pieces 16 text).zipIdx).map fun p => List.zipWith (· ^^^ ·) p.1 (aesEncrypt key (iv ++ beBytes 4 (p.2 + 2)))).flatten

/-- The tag of a ciphertext. -/
def gcmTag (key iv aad ct : List Byte) : List Byte :=
  let h := beNat (aesEncrypt key (List.replicate 16 0))
  beBytes 16 (ghash h aad ct ^^^ beNat (aesEncrypt key (iv ++ beBytes 4 1)))

/-- A text sealed: the ciphertext followed by its tag. -/
def gcmSeal (key iv aad text : List Byte) : List Byte :=
  let ct := gcmCtr key iv text
  ct ++ gcmTag key iv aad ct

/-- A ciphertext and its tag opened; none when the tag does not match. -/
def gcmOpen (key iv aad sealed : List Byte) : Option (List Byte) :=
  let ct := sealed.take (sealed.length - 16)
  if gcmTag key iv aad ct = sealed.drop (sealed.length - 16) then some (gcmCtr key iv ct) else none

/-! ## AES key wrap (RFC 3394) -/

/-- The unwrap of 40 bytes under a 32-byte key; none when the integrity check fails. -/
def keyUnwrap (kek wrapped : List Byte) : Option (List Byte) :=
  let step (x : List Byte × List (List Byte)) (t : Nat) : List Byte × List (List Byte) :=
    let i := (t - 1) % 4
    let b := aesDecrypt kek (beBytes 8 (beNat x.1 ^^^ t) ++ x.2.getD i [])
    (b.take 8, listSet x.2 i (b.drop 8))
  let r := ((List.range 24).reverse.map (· + 1)).foldl step (wrapped.take 8, pieces 8 (wrapped.drop 8))
  if r.1 = List.replicate 8 0xA6 then some r.2.flatten else none

/-! ## HKDF-SHA-256 (RFC 5869) -/

/-- 36 bytes derived from key material without a salt. -/
def hkdf36 (ikm info : List Byte) : List Byte :=
  let prk := hmac256 (List.replicate 32 0) ikm
  let t1 := hmac256 prk (info ++ [1])
  (t1 ++ hmac256 prk (t1 ++ info ++ [2])).take 36

/-! ## Elliptic curves y² = x³ − 3x + b -/

/-- A curve of FIPS 186-5: the field's prime, the group order, and the base point. -/
structure Curve where
  p : Nat
  n : Nat
  gx : Nat
  gy : Nat
deriving DecidableEq, Repr

/-- P-256. -/
def p256 : Curve where
  p := 0xffffffff00000001000000000000000000000000ffffffffffffffffffffffff
  n := 0xffffffff00000000ffffffffffffffffbce6faada7179e84f3b9cac2fc632551
  gx := 0x6b17d1f2e12c4247f8bce6e563a440f277037d812deb33a0f4a13945d898c296
  gy := 0x4fe342e2fe1a7f9b8ee7eb4a7c0f9e162bce33576b315ececbb6406837bf51f5

/-- P-384. -/
def p384 : Curve where
  p := 0xfffffffffffffffffffffffffffffffffffffffffffffffffffffffffffffffeffffffff0000000000000000ffffffff
  n := 0xffffffffffffffffffffffffffffffffffffffffffffffffc7634d81f4372ddf581a0db248b0a77aecec196accc52973
  gx := 0xaa87ca22be8b05378eb1c71ef320ad746e1d3b628ba79b9859f741e082542a385502f25dbf55296c3a545e3872760ab7
  gy := 0x3617de4a96262c6f5d9e98bf9292dc29f8f41dbd289a147ce9da3113b5f0b8c00a60b1ce1d7e819d7a431d7c90ea0e5f

/-- x^e modulo m, over the lowest `n` bits of e. -/
def powMod (m : Nat) : Nat → Nat → Nat → Nat → Nat
  | 0, _, _, acc => acc
  | n + 1, x, e, acc => powMod m n (x * x % m) (e / 2) (if e % 2 = 1 then acc * x % m else acc)

/-- The inverse modulo a prime of at most 384 bits. -/
def invMod (m x : Nat) : Nat := powMod m 384 (x % m) (m - 2) (1 % m)

/-- A point of a curve; none is the point at infinity. -/
abbrev Point := Option (Nat × Nat)

/-- The sum of two points. -/
def Curve.add (c : Curve) (a b : Point) : Point :=
  match a, b with
  | none, q => q
  | q, none => q
  | some (x1, y1), some (x2, y2) =>
    if x1 = x2 ∧ (y1 + y2) % c.p = 0 then none
    else
      let num := if x1 = x2 then 3 * x1 * x1 + (c.p - 3) else y2 + (c.p - y1)
      let den := if x1 = x2 then 2 * y1 else x2 + (c.p - x1)
      let l := num % c.p * invMod c.p den % c.p
      let x := (l * l + (c.p - x1) + (c.p - x2)) % c.p
      some (x, (l * (x1 + (c.p - x)) + (c.p - y1)) % c.p)

/-- A multiple of a point, over the lowest `n` bits of k. -/
def Curve.mulFrom (c : Curve) : Nat → Nat → Point → Point → Point
  | 0, _, _, acc => acc
  | n + 1, k, q, acc => c.mulFrom n (k / 2) (c.add q q) (if k % 2 = 1 then c.add acc q else acc)

/-- A multiple of a point. -/
def Curve.mul (c : Curve) (k : Nat) (q : Point) : Point := c.mulFrom 384 k q none

/-- Whether (r, s) signs the number `h` of a hash under public key `q`. -/
def Curve.verify (c : Curve) (q : Nat × Nat) (h r s : Nat) : Bool :=
  let ok (v : Nat) : Bool := 0 < v && v < c.n
  let w := invMod c.n s
  let x := c.add (c.mul (h * w % c.n) (some (c.gx, c.gy))) (c.mul (r * w % c.n) (some q))
  ok r && ok s && (x.any fun p => p.1 % c.n = r)

/-- The signature of the number `h` of a hash under private key `d` with the secret number `k`. -/
def Curve.sign (c : Curve) (d h k : Nat) : Nat × Nat :=
  let r := match c.mul k (some (c.gx, c.gy)) with
    | some p => p.1 % c.n
    | none => 0
  (r, invMod c.n k * ((h + r * d) % c.n) % c.n)

end Sys2Proof.Machine
end

