-- ==== Sys2Proof/Machine/Assay.lean ====
section
/-! DEFINITION. Assay, the sealed meter, and the `asy` unit that receives its mirror (R553 to R580). -/

namespace Sys2Proof.Machine

/-! ## Parts of the state -/

/-- Change the paths and memory of Assay. -/
def State.updAsy (s : State) (f : AssayState → AssayState) : State := { s with asy := f s.asy }

/-- Change Assay's running state. -/
def State.updRun (s : State) (f : AssayRun → AssayRun) : State := s.updAsy fun x => { x with run := x.run.map f }

/-- Something happens in Assay for the next mirror frame to report (R574). -/
def AssayRun.tell (x : AssayRun) (code detail : Nat) : AssayRun := { x with news := x.news ++ [(code, detail)] }

/-! ## Power-up (R553, R562, R565, R568, R569, R573) -/

/-- The value of a parameter. -/
def AssayParam.get (p : AssayParam) (pid : Nat) : Nat :=
  match pid with
  | 1 => p.interval
  | 2 => p.label
  | 3 => p.acct
  | _ => p.loop

/-- A parameter set. -/
def AssayParam.set (p : AssayParam) (pid v : Nat) : AssayParam :=
  match pid with
  | 1 => { p with interval := v }
  | 2 => { p with label := v }
  | 3 => { p with acct := v }
  | _ => { p with loop := v }

/-- The parameters after a Ledger entry: SEAL gives them all, PARAM one. -/
def AssayParam.replay (p : AssayParam) (e : List Byte) : AssayParam :=
  match leAt e 0 1 with
  | 1 => ⟨leAt e 0x28 2, leAt e 0x20 8, bits (leAt e 0x28 8) 16 1, bits (leAt e 0x28 8) 17 1⟩
  | 2 => p.set (leAt e 1 1) (leAt e 0x28 8)
  | _ => p

/-- The parameters that Assay rebuilds at power-up (R568, R569). -/
def AssayOtp.params (o : AssayOtp) : AssayParam :=
  if o.st = 0 then AssayParam.shipped else (o.ledger.map (·.2)).foldl AssayParam.replay AssayParam.shipped

/-- ASSAY_RESET (R553, R562, R565, R569): Assay powers up, or leaves reset: counters at 0, a boot nonce drawn at random, its parameters
rebuilt. -/
def execAssayReset (s : State) : Host.Outcome State Fault Refusal :=
  let boot := s.free % 2 ^ 64
  .next (s.drew.updAsy fun x => { x with run := some (AssayRun.start boot x.otp.params) })

/-- ASSAY_POWER_LOSS (R553, R573): Assay stops, and its volatile state is lost. A Ledger entry that was being written is complete, by the
command that wrote it, or (`torn`) absent: its index is skipped. -/
def execAssayPowerLoss (torn : Bool) (s : State) : Host.Outcome State Fault Refusal :=
  let skip (o : AssayOtp) : AssayOtp :=
    if torn ∧ o.st = 1 then { o with lcount := o.lcount + 1, st := if o.lcount + 1 = 1024 then 2 else 1 } else o
  .next (s.updAsy fun x => if x.run.isNone then x else { x with run := none, otp := skip x.otp })

/-- The first multiple of the interval after a time (R563). -/
def AssayRun.nextEnd (x : AssayRun) : Nat := (x.ns / (x.param.interval * 1000000000) + 1) * (x.param.interval * 1000000000)

/-- Assay time starts at a value (R562). -/
def AssayRun.begin_ (x : AssayRun) (ns : Nat) (site : Bool) : AssayRun :=
  let y := { x with ns, started := true, notSite := !site, t0 := ns }
  { y with endAt := y.nextEnd }

/-- ASSAY_TIME_TIMEOUT (R562): no time mark within 2 s of power-up. -/
def execAssayTimeTimeout (s : State) : Host.Outcome State Fault Refusal :=
  .next (s.updRun fun x => if x.started then x else x.begin_ 0 false)

/-! ## Energy and power (R555 to R558, R576) -/

/-- Energy of one sample, in pJ, enters the register (R556). -/
def AssayRun.addEnergy (x : AssayRun) (pj : Nat) : AssayRun :=
  let p := x.pj + pj
  let u := x.uj + p / 1000000
  let y := { x with pj := p % 1000000, uj := u % 2 ^ 64 }
  if u < 2 ^ 64 then y
  else
    let w := satAt 0xFFFF (y.wrap + 1)
    { y with wrap := w }.tell 0xA002 (w + 0xFFF * 2 ^ 16)

/-- A 1 ms window ends (R557, R558, R567). -/
def AssayRun.endWindow (x : AssayRun) : AssayRun :=
  let mw := x.winPj / (x.winN * 1000)
  let high := 4000000 < mw
  let y := { x with winPj := 0, winN := 0, lastMw := mw, pmax := max x.pmax mw, range := x.range || high }
  if high ∧ ¬ x.range then y.tell 0xA00A y.pmax else y

/-- One sample of all channels, 1 µs of Assay time. -/
def AssayRun.sample (x : AssayRun) (pj : Nat) : AssayRun :=
  let y := x.addEnergy pj
  let y := { y with
    winPj := y.winPj + pj, winN := y.winN + 1, expPj := y.expPj + pj, expN := y.expN + 1
    ns := if y.started then (y.ns + 1000) % 2 ^ 64 else y.ns }
  if (y.started ∧ y.ns % 1000000 < 1000) ∨ (¬ y.started ∧ y.winN = 1000) then y.endWindow else y

/-- ENERGY_SAMPLE (R555, R556): the energy that each of the 16 rails takes in one microsecond of Assay time, in pJ. -/
def execEnergySample (rails : List Nat) (s : State) : Host.Outcome State Fault Refusal :=
  .next (s.updRun fun x => x.sample (sumNat (rails.take 16)))

/-- POWER_EXPORT (R576): the mean power of the samples since the last word, in 0.1 W, goes to the power controller, `range` says that a
channel is over-range. -/
def execPowerExport (range : Bool) (s : State) : Host.Outcome State Fault Refusal :=
  match s.asy.run with
  | none => .next s
  | some x =>
    if x.expN = 0 then .next s
    else
      let p := min 0xFFFF (x.expPj / (x.expN * 100000))
      let s := s.updRun fun x => { x with expPj := 0, expN := 0, expSeq := (x.expSeq + 1) % 8 }
      .next { s with pwr := { s.pwr with export_ := some (p, !range, 0) } }

/-! ## Engine time (R559, R560) -/

/-- ENGINE_TIME_REPORT_SEND (R560): a compute die sends the engine time of its contexts in units of 2^10 cluster-clocks, up to 128 records;
what it does not send it carries on. -/
def execEngineTimeReportSend (d : Fin 2) (s : State) : Host.Outcome State Fault Refusal :=
  let units (n : Nat) : Nat := min (n / 1024) (2 ^ 20 - 1)
  let eng := (s.ctxd.get d).eng
  let recs := ((eng.filter fun e => units e.2 ≠ 0).take 128).map fun e => (e.1, units e.2)
  let take (l : List (Nat × Nat)) (r : Nat × Nat) : List (Nat × Nat) := assocPut r.1 ((assocGet r.1 l).getD 0 - 1024 * r.2) l
  let s := s.updCtx d fun x => { x with eng := recs.foldl take x.eng }
  let n := if d.val = 0 then s.asy.reportSeq0 else s.asy.reportSeq1
  .next (s.updAsy fun x =>
    let y := { x with reports := x.reports ++ [(d.val, n, recs)] }
    if d.val = 0 then { y with reportSeq0 := (n + 1) % 65536 } else { y with reportSeq1 := (n + 1) % 65536 })

/-- Account `a`. -/
def AssayRun.acct (x : AssayRun) (a : Nat) : Account := (assocGet a x.accts).getD ⟨0, 0, 0, 0⟩

/-- The number of the last report taken from a die. -/
def AssayRun.rseq (x : AssayRun) (d : Nat) : Option Nat := if d = 0 then x.rseq0 else x.rseq1

/-- Note the number of a report. -/
def AssayRun.setRseq (x : AssayRun) (d n : Nat) : AssayRun := if d = 0 then { x with rseq0 := some n } else { x with rseq1 := some n }

/-- Reports of a die are lost. -/
def AssayRun.lose (x : AssayRun) (d n : Nat) : AssayRun := { x with lost := x.lost + n }.tell 0xA009 (d + min n 0xFFFF * 2 ^ 16)

/-- A report arrives with its CRC correct or not (R560). -/
def AssayRun.report (x : AssayRun) (d n : Nat) (recs : List (Nat × Nat)) (good : Bool) : AssayRun :=
  let due := match x.rseq d with
    | some q => (q + 1) % 65536
    | none => n
  let missed := (n + 65536 - due) % 65536
  if ¬ good then (x.setRseq d due).lose d 1
  else if missed ≠ 0 then (x.setRseq d n).lose d (missed + 1)
  else recs.foldl
    (fun y r => { y with accts := assocPut r.1 { y.acct r.1 with eng := (y.acct r.1).eng + r.2 } y.accts }) (x.setRseq d n)

/-- ENGINE_TIME_REPORT (R560): the oldest report on its way arrives, with its CRC correct or not. -/
def execEngineTimeReport (good : Bool) (s : State) : Host.Outcome State Fault Refusal :=
  match s.asy.reports with
  | [] => .next s
  | (d, n, recs) :: rest => .next ((s.updAsy fun x => { x with reports := rest }).updRun fun x => x.report d n recs good)

/-! ## Hallmarks (R561, R565 to R567) -/

/-- The offset as a register shows it. -/
def AssayRun.offsetBits (x : AssayRun) : Nat := match x.offset with
  | some v => Sys2Proof.Machine.wrap 64 v
  | none => 2 ^ 63

/-- The flags of R567, but for bit 0. -/
def AssayRun.flags (x : AssayRun) (st : Nat) : Nat :=
  b2n x.first * 2 + b2n x.broken * 4 + b2n x.seen * 8 + b2n x.offset.isNone * 16 + b2n x.notSite * 32 + b2n x.range * 64 +
    b2n (x.lost ≠ 0) * 128 + b2n (st = 2) * 256 + b2n x.short * 512

/-- The first 64 bytes of a Hallmark (R566). -/
def hallHead (o : AssayOtp) (x : AssayRun) (kind flags seq : Nat) : List Byte :=
  [0x57, 0x59, 0x48, 0x4D] ++ leBytes 2 1 ++ leBytes 1 kind ++ leBytes 1 o.st ++ leBytes 4 flags ++ leBytes 2 x.wrap ++
    leBytes 2 o.lcount ++ leBytes 8 seq ++ leBytes 8 x.boot ++ leBytes 8 o.serial ++ leBytes 8 x.t0 ++ leBytes 8 x.ns ++
    leBytes 8 x.offsetBits

/-- The energy of the interval. -/
def AssayRun.eInt (x : AssayRun) : Nat := (x.uj + 2 ^ 64 - x.uj0) % 2 ^ 64

/-- The engine time of the interval, all accounts together. -/
def AssayRun.tTotal (x : AssayRun) : Nat := sumNat (x.accts.map fun a => a.2.eng)

/-- Energy is allocated to every account (R561). -/
def AssayRun.allocate (x : AssayRun) : AssayRun :=
  let e := x.eInt
  let t := x.tTotal
  x.accts.foldl
    (fun y a =>
      let part := if t = 0 then 0 else e * a.2.eng / t
      let c := a.2.cum + part
      let w := if c < 2 ^ 64 then a.2.wrap else satAt 0xFFFF (a.2.wrap + 1)
      let y := { y with accts := assocPut a.1 { a.2 with cum := c % 2 ^ 64, wrap := w, last := part } y.accts }
      if c < 2 ^ 64 then y else y.tell 0xA002 (w + a.1 % 4096 * 2 ^ 16)) x

/-- The body of the package Hallmark, its energy allocated. -/
def packageBody (o : AssayOtp) (x : AssayRun) (seq : Nat) : List Byte :=
  let unatt := x.eInt - sumNat (x.accts.map fun a => a.2.last)
  hallHead o x 1 (x.flags o.st) seq ++ leBytes 8 x.eInt ++ leBytes 8 x.uj ++ leBytes 4 x.pmax ++ leBytes 2 x.tamper ++
    leBytes 2 (satAt 0xFFFF x.lost) ++ leBytes 8 unatt ++ leBytes 8 x.tTotal ++ o.head ++ leBytes 8 x.param.label ++
    List.replicate 16 0

/-- The body of the account Hallmark of block `n`. -/
def accountBody (o : AssayOtp) (x : AssayRun) (n seq : Nat) : List Byte :=
  let ent (k : Nat) : List Byte :=
    let a := x.acct (16 * n + k)
    leBytes 8 a.eng ++ leBytes 8 a.last ++ leBytes 8 a.cum ++ leBytes 2 a.wrap ++ leBytes 6 0
  hallHead o x 2 (x.flags o.st + 1) seq ++ leBytes 2 n ++ leBytes 6 0 ++ ((List.range 16).map ent).flatten

/-- A body signed with Assay's key and a nonce from its random source (R566). -/
def signed_ (nonce : Nat) (body : List Byte) : List Byte :=
  let r := p256.sign (1 + Config.assayKey % (p256.n - 1)) (beNat (sha256 body)) (1 + nonce % (p256.n - 1))
  body ++ leBytes 32 r.1 ++ leBytes 32 r.2

/-- A Hallmark is issued: kept with the last 64, and queued for the mirror. -/
def State.issue (s : State) (body : Nat → List Byte) : State :=
  match s.asy.run with
  | none => s
  | some x =>
    let b := signed_ s.free (body x.seq)
    s.drew.updRun fun y => { y with
      seq := (y.seq + 1) % 2 ^ 64, halls := ((y.seq, b) :: y.halls).take 64, queue := y.queue ++ [(y.seq, b)] }

/-- An interval ends: energy is allocated, the Hallmarks are issued, and the next interval begins (R561, R563, R565). -/
def State.intervalEnd (s : State) (short : Bool) : State :=
  let s := s.updRun fun x => { x.allocate with short }
  match s.asy.run with
  | none => s
  | some x =>
    let o := s.asy.otp
    let s := s.issue (packageBody o x)
    let blocks := (List.range 256).filter fun n => x.accts.any fun a => a.1 / 16 = n && a.2.eng ≠ 0
    let s := if x.acct0 = 1 then blocks.foldl (fun s n => s.issue (accountBody o x n)) s else s
    s.updRun fun y => { y with
      accts := y.accts.map fun a => (a.1, { a.2 with eng := 0 })
      t0 := y.ns, uj0 := y.uj, acct0 := y.param.acct, endAt := y.nextEnd
      first := false, short := false, pmax := 0, range := false, lost := 0 }

/-- Whether Assay time has crossed the end of the interval. -/
def State.intervalDue (s : State) : Bool := s.asy.run.any fun x => x.started && x.endAt ≤ x.ns

/-- INTERVAL_END (R563): Assay time has crossed a whole multiple of the interval parameter. -/
def execIntervalEnd (s : State) : Host.Outcome State Fault Refusal := .next (if s.intervalDue then s.intervalEnd false else s)

/-! ## Time marks (R562, R564) -/

/-- TIME_MARK_FRAME (R564): the oldest time mark arrives, its frame valid or not, `sub` ns after the last sample; the first one after
power-up starts Assay time (R562). -/
def execTimeMarkFrame (good : Bool) (sub : Fin 1000) (s : State) : Host.Outcome State Fault Refusal :=
  match s.asy.marks with
  | [] => .next s
  | sec :: rest =>
    let tai := sec * 1000000000
    .next ((s.updAsy fun x => { x with marks := rest }).updRun fun x =>
      if ¬ good then x
      else if ¬ x.started then { x.begin_ tai true with offset := some 0 }
      else { x with offset := some ((tai : Int) - ((x.ns + sub.val : Nat) : Int)) })

/-- OFFSET_INVALID_TIMEOUT (R564): no valid time mark for 2.5 s. -/
def execOffsetInvalidTimeout (s : State) : Host.Outcome State Fault Refusal :=
  .next (s.updRun fun x => if x.offset.isNone then x else { x with offset := none }.tell 0xA008 x.ns)

/-! ## The Ledger and sealing (R568 to R573) -/

/-- The 64 bytes of a Ledger entry (R572). -/
def ledgerEntry (x : AssayRun) (kind pid index old new : Nat) : List Byte :=
  leBytes 1 kind ++ leBytes 1 pid ++ leBytes 2 index ++ leBytes 4 0 ++ leBytes 8 x.boot ++ leBytes 8 x.ns ++ leBytes 8 x.offsetBits ++
    leBytes 8 old ++ leBytes 8 new ++ leBytes 8 x.uj ++ leBytes 2 x.wrap ++ leBytes 6 0

/-- An entry is written in the next index, and the chain head takes it up; the entry of index 1,023 makes the state FULL. -/
def State.ledgerWrite (s : State) (kind pid old new : Nat) : State :=
  match s.asy.run with
  | none => s
  | some x =>
    let n := s.asy.otp.lcount
    let e := ledgerEntry x kind pid n old new
    let s := s.updAsy fun y => { y with otp := { y.otp with
      ledger := y.otp.ledger ++ [(n, e)], lcount := n + 1, head := sha256 (y.otp.head ++ e)
      st := if n + 1 = 1024 then 2 else y.otp.st } }
    s.updRun fun y => { y with newEnt := y.newEnt ++ [n] }.tell 0xA005 (n + kind * 2 ^ 16 + pid * 2 ^ 24)

/-- A command ends with a cause: 0 none, 1 state, 2 key, 3 loop, 4 range, 5 full (R577). -/
def State.cmdDone (s : State) (cause : Nat) : State := s.updRun fun x => { x with done := true, cause }

/-- A command is refused (R570): event 0xA006 for FULL, else 0xA00C, whose items have no stated places and make a free value (assumption
77). -/
def State.cmdRefused (s : State) (pid cause : Nat) : State :=
  if cause = 5 then (s.updRun fun x => x.tell 0xA006 pid).cmdDone cause
  else
    let v := s.free
    ((s.drew).updRun fun x => x.tell 0xA00C v).cmdDone cause

/-- SEAL (R570): with its key; Ledger entry 0 is written and the state is SEALED, or the command is refused. -/
def execSeal (key : Nat) (s : State) : Host.Outcome State Fault Refusal :=
  match s.asy.run with
  | none => .next s
  | some x =>
    if s.asy.otp.st ≠ 0 then .next (s.cmdRefused 0 1)
    else if key % 65536 ≠ 0x5345 then .next (s.cmdRefused 0 2)
    else if x.param.loop = 1 ∧ x.broken then .next (s.cmdRefused 0 3)
    else
      let p := x.param
      let s := s.updAsy fun y => { y with otp := { y.otp with st := 1 } }
      .next ((s.ledgerWrite 1 0 p.label (p.interval + p.acct * 2 ^ 16 + p.loop * 2 ^ 17)).cmdDone 0)

/-- Whether a parameter exists and takes a value (R569). -/
def paramLegal (pid v : Nat) : Bool :=
  match pid with
  | 1 => 10 ≤ v && v ≤ 3600
  | 2 => true
  | 3 | 4 => v < 2
  | _ => false

/-- A parameter takes a new value; a new interval ends the current one at once (R569, R573). -/
def State.applyParam (s : State) (pid v : Nat) : State :=
  let ending := s.intervalDue
  let s := if ending then s.intervalEnd false else s
  let started := s.asy.run.any (·.started)
  let s := if pid = 1 ∧ ¬ ending ∧ started then s.intervalEnd true else s
  s.updRun fun x =>
    let y := { x with param := x.param.set pid v }
    if pid = 1 ∧ started then { y with endAt := y.nextEnd } else y

/-- SETPARAM (R570): a parameter is set, in SEALED after its PARAM entry, or the command is refused. -/
def execSetparam (pid : Fin 256) (value : Nat) (s : State) : Host.Outcome State Fault Refusal :=
  let s := s.updRun fun x => { x with pid := pid.val, pval := value % 2 ^ 64 }
  let v := value % 2 ^ 64
  match s.asy.run with
  | none => .next s
  | some x =>
    if s.asy.otp.st = 2 then .next (s.cmdRefused pid 5)
    else if ¬ paramLegal pid v then .next (s.cmdRefused pid 4)
    else
      let s := if s.asy.otp.st = 1 then s.ledgerWrite 2 pid (x.param.get pid) v else s
      .next ((s.applyParam pid v).cmdDone 0)

/-- Assay's public key, x then y (R567). -/
def assayPub : List Byte :=
  (p256.mul (1 + Config.assayKey % (p256.n - 1)) (some (p256.gx, p256.gy))).elim (List.replicate 64 0) fun q =>
    leBytes 32 q.1 ++ leBytes 32 q.2

/-! ## Assay's own registers, as I3C reaches them (R577)

No command of the opcode table stands for such an access; SEAL and SETPARAM stand for a write of `asyd.cmd`. -/

/-- The 32 and 64-bit registers by offset: width in bytes and value; nothing at an unlisted offset. -/
def AssayRun.registerAt (x : AssayRun) (o : AssayOtp) (off : Nat) : Option (Nat × Nat) :=
  match off with
  | 0x00 => some (4, R.asyd_id.reset)
  | 0x04 => some (4, o.st + x.flags o.st % 1024 * 4)
  | 0x0C => some (4, b2n x.done * 2 ^ 30 + x.cause * 2 ^ 16 + o.lcount)
  | 0x10 => some (8, x.pval)
  | 0x18 => some (4, x.pid)
  | 0x20 => some (8, x.uj)
  | 0x28 => some (8, x.ns)
  | 0x30 => some (8, x.offsetBits)
  | 0x38 => some (8, x.param.interval + x.param.acct * 2 ^ 16 + x.param.loop * 2 ^ 17)
  | 0x40 => some (8, x.param.label)
  | 0x48 => some (8, x.hsel)
  | 0x50 => some (4, x.lsel)
  | 0x58 => some (8, o.serial)
  | _ => none

/-- The 32 or 64 bits (`n` bytes) at an offset: registers, key and certificate, the selected Hallmark and the selected Ledger entry; zeros at an
unlisted offset and past the end of a Hallmark. -/
def AssayRun.bytesAt (x : AssayRun) (o : AssayOtp) (off n : Nat) : List Byte :=
  let area (b : List Byte) (base size : Nat) : List Byte :=
    (((b ++ List.replicate size 0).take size).drop (off - base) ++ List.replicate n 0).take n
  if 0x80 ≤ off ∧ off < 0xC0 then area assayPub 0x80 64
  else if 0xC0 ≤ off ∧ off < 0x100 then area o.cert 0xC0 64
  else if 0x100 ≤ off ∧ off < 0x388 then area ((assocGet x.hsel x.halls).getD []) 0x100 648
  else if 0x400 ≤ off ∧ off < 0x440 then area ((assocGet x.lsel o.ledger).getD []) 0x400 64
  else match x.registerAt o off with
    | some r => (leBytes r.1 r.2 ++ List.replicate n 0).take n
    | none => List.replicate n 0

/-- A read of `n` bytes over Assay's I3C port, none while Assay does not run: reading `asyd.cres` clears done, and reading a Hallmark that is not
among the last 64 leaves cause 6. -/
def State.asydRead (s : State) (off n : Nat) : Option (List Byte × State) :=
  s.asy.run.map fun x =>
    let s := if off = 0x0C then s.updRun fun y => { y with done := false } else s
    let s := if 0x100 ≤ off ∧ off < 0x388 ∧ (assocGet x.hsel x.halls).isNone then s.updRun fun y => { y with cause := 6 } else s
    (x.bytesAt s.asy.otp off n, s)

/-- A write of a register that keeps its value, over Assay's I3C port: the operands of SETPARAM and the two selections. -/
def State.asydWrite (s : State) (off v : Nat) : State :=
  s.updRun fun x =>
    match off with
    | 0x10 => { x with pval := v % 2 ^ 64 }
    | 0x18 => { x with pid := v % 2 ^ 8 }
    | 0x48 => { x with hsel := v % 2 ^ 64 }
    | 0x50 => { x with lsel := v % 2 ^ 10 }
    | _ => x

/-! ## The tamper loop (R571) -/

/-- A happening of the loop: told, and written to the Ledger in SEALED. -/
def State.tamperEvent (s : State) (kind code : Nat) : State :=
  let s := s.updRun fun x => x.tell code x.tamper
  if s.asy.otp.st = 1 then s.ledgerWrite kind 0 0 0 else s

/-- TAMPER_CHECK (R571): the loop is measured, in order or not, while the loop parameter is 1; 1 s of good measurements restores it. -/
def execTamperCheck (ok : Bool) (s : State) : Host.Outcome State Fault Refusal :=
  match s.asy.run with
  | none => .next s
  | some x =>
    if x.param.loop = 0 then .next s
    else if ¬ ok then
      if x.broken then .next (s.updRun fun y => { y with okMs := 0 })
      else
        let s := s.updRun fun y => { y with broken := true, okMs := 0, seen := true, tamper := satAt 0xFFFF (y.tamper + 1) }
        .next (s.tamperEvent 3 0xA003)
    else if ¬ x.broken then .next s
    else if x.okMs < 999 then .next (s.updRun fun y => { y with okMs := y.okMs + 1 })
    else .next ((s.updRun fun y => { y with broken := false, okMs := 0 }).tamperEvent 4 0xA004)

/-! ## The mirror (R574) -/

/-- The Hallmarks that a frame takes: the package Hallmark alone, or up to 6 account Hallmarks (R575). -/
def frameHalls (q : List (Nat × List Byte)) : List (Nat × List Byte) :=
  match q with
  | [] => []
  | h :: _ => if h.2.length = 224 then [h] else (q.takeWhile fun e => e.2.length ≠ 224).take 6

/-- The Ledger entry that the next frame carries: a new one first, else the next of the cycle. -/
def AssayRun.nextEntry (x : AssayRun) (o : AssayOtp) : Option (Nat × List Byte) :=
  match x.newEnt with
  | n :: _ => (assocGet n o.ledger).map fun e => (n, e)
  | [] => o.ledger[x.cyc % max 1 o.ledger.length]?

/-- MIRROR_FRAME (R574): Assay sends a frame. -/
def execMirrorFrame (s : State) : Host.Outcome State Fault Refusal :=
  match s.asy.run with
  | none => .next s
  | some x =>
    let o := s.asy.otp
    let h := frameHalls x.queue
    let f : MirrorFrame :=
      ⟨o.st, x.flags o.st, o.lcount, x.uj, x.wrap, x.lastMw, x.ns, x.offsetBits, x.nextEntry o, h, x.news⟩
    let s := s.updRun fun y => { y with
      queue := y.queue.drop h.length, newEnt := y.newEnt.drop 1, cyc := if y.newEnt.isEmpty then y.cyc + 1 else y.cyc, news := [] }
    .next (s.updAsy fun y => { y with frames := y.frames ++ [f] })

/-- A Hallmark is dropped: counted, and the first drop after each read of `asy.drop` reported (R575). -/
def State.hallDrop (s : State) (seq : Nat) : State :=
  let s := s.count32 0 F.asy_drop_count
  if s.asy.dropSeen then s else (s.updAsy fun x => { x with dropSeen := true }).raise 0 0x17 0xA001 seq

/-- A Hallmark that has arrived complete goes into its ring, or is dropped (R575). -/
def State.hallArrives (s : State) (h : Nat × List Byte) : State :=
  let head := s.fld 0 F.asy_hptr_head
  let cap := s.fld 0 F.asy_hring_size + 1
  if ¬ s.flag 0 F.asy_ctl_en ∨ (head + 2 ^ 32 - s.fld 0 F.asy_hptr_tail) % 2 ^ 32 = cap then s.hallDrop h.1
  else
    let a := s.fld 0 F.asy_hring_base * 4096 + head % cap * 1024
    let s := s.writeRaw 0 a (h.2 ++ List.replicate (1024 - h.2.length) 0)
    ((s.setFld 0 F.asy_hptr_head (head + 1)).setReg 0 R.asy_seq h.1).tally 0 R.asy_t_hm

/-- Words of 64 bits into elements of a register. -/
def State.setBytesAt (s : State) (r : Reg) (first : Nat) (b : List Byte) : State :=
  (pieces 8 b).zipIdx.foldl (fun s w => s.setReg 0 r (leNat w.1) (first + w.2)) s

/-- The registers take a good frame's fields (R574, R578). -/
def State.frameFields (s : State) (f : MirrorFrame) : State :=
  let s := s.setReg 0 R.asy_stat (2 ^ 31 + f.st * 2 ^ 26 + f.flags % 1024 * 2 ^ 16 + f.lcount % 65536)
  let s := ((s.setReg 0 R.asy_energy f.energy).setReg 0 R.asy_power f.power).setReg 0 R.asy_wrap f.wrap
  let s := (s.setReg 0 R.asy_time f.time).setReg 0 R.asy_offs f.offset
  let s := ((s.setReg 0 R.asy_serial s.asy.otp.serial).setBytesAt R.asy_pub 0 assayPub).setBytesAt R.asy_cert 0 s.asy.otp.cert
  match f.entry with
  | some e => s.setBytesAt R.asy_ledger (8 * e.1) e.2
  | none => s

/-- MIRROR_FRAME_RECEIVE (R574, R575): the oldest frame arrives; with a bad CRC it is discarded with the Hallmarks that it carried. -/
def execMirrorFrameReceive (good : Bool) (s : State) : Host.Outcome State Fault Refusal :=
  match s.asy.frames with
  | [] => .next s
  | f :: rest =>
    let s := s.updAsy fun x => { x with frames := rest }
    if ¬ good then
      let s := (s.updAsy fun x => { x with bad := x.bad + 1 }).count32 0 F.asy_badf_count
      .next (f.halls.foldl (fun s h => s.hallDrop h.1) s)
    else
      let s := ((s.updAsy fun x => { x with bad := 0 }).tally 0 R.asy_t_frame).frameFields f
      let s := f.news.foldl (fun s e => s.raise 0 0x17 e.1 e.2) s
      .next (f.halls.foldl (fun s h => s.hallArrives h) s)

/-- MIRROR_LOST (R574): no good frame has arrived for 10 ms. -/
def execMirrorLost (s : State) : Host.Outcome State Fault Refusal :=
  .next (if s.flag 0 F.asy_stat_mlive then (s.setFld 0 F.asy_stat_mlive 0).raise 0 0x17 0xA007 s.asy.bad else s)

end Sys2Proof.Machine
end

