-- ==== Sys2Proof/Machine/Cip.lean ====
section
/-! DEFINITION. The cipher engine: pair secrets, transmit keys and their rotation, and receive keys (R414 to R422). -/

namespace Sys2Proof.Machine

/-! ## Parts of the state -/

/-- The cipher unit of die `d`. -/
def State.cp (s : State) (d : Nat) : CipDie := s.cip.get d

/-- Change the cipher unit of die `d`. -/
def State.updCip (s : State) (d : Nat) (f : CipDie → CipDie) : State := { s with cip := s.cip.upd d f }

/-- Pair `n` of die `d`. -/
def State.pair (s : State) (d n : Nat) : Pair := (s.cp d).pairs.getD n Pair.empty

/-- Change pair `n` of die `d`. -/
def State.updPair (s : State) (d n : Nat) (f : Pair → Pair) : State :=
  s.updCip d fun x => { x with pairs := listMod x.pairs n f }

/-- The transmit state of a pair (R417). -/
def State.pairSt (s : State) (d n : Nat) : Nat := s.fld d F.cip_pair_stat_state n

/-- Set the transmit state of a pair. -/
def State.setPairSt (s : State) (d n v : Nat) : State := s.setFld d F.cip_pair_stat_state v n

/-- The secret of a generation that a pair holds. -/
def Pair.secret (p : Pair) (gen : Nat) : Option Secret :=
  match p.a with
  | some x => if x.gen = gen then some x else p.b.filter fun y => y.gen = gen
  | none => p.b.filter fun y => y.gen = gen

/-- A key command is refused (R414, R418, R421): event 0x7006. -/
def State.keyRefused (s : State) (d n cmd : Nat) : State := s.raise d 0x11 0x7006 (n + cmd * 256)

/-- The sending port's source field (R409). -/
def State.ownSrc (s : State) (d : Nat) : Nat := (s.fld 0 F.boot_devid_site * 2 ^ 14 + s.actId d) * 2 + d

/-- The device's global id in a source field. -/
def srcSite (src : Nat) : Nat := bits src 15 6

/-- A traffic key: 32 bytes of AES key and 4 of IV salt (R415). -/
def Secret.traffic (x : Secret) (tx rx src sess epoch : Nat) : List Byte :=
  hkdf36 x.key (([0x46, 0x4C, 0x56, 0x52] : List Byte) ++ beBytes 1 x.gen ++ beBytes 1 tx ++ beBytes 1 rx ++ beBytes 1 0 ++
    beBytes 4 src ++ beBytes 4 sess ++ beBytes 4 epoch)

/-- The partner entry of a pair (R342): pair n belongs to entry n. -/
def State.entry (s : State) (n : Nat) : PEntry := entryOf n (s.entryBytes n)

/-- The transmit key of pair `n` for a secret, session and epoch. -/
def State.txKey (s : State) (d n : Nat) (x : Secret) (sess epoch : Nat) : List Byte :=
  x.traffic s.site (s.entry n).site (s.ownSrc d) sess epoch

/-! ## Loading pair secrets (R414) -/

/-- A write of 1 to `cip.ld.go`: refused while a load runs, else the load latches its words and begins; what two paths have written
fails (R620). -/
def State.onLoad (s : State) (d : Nat) : State :=
  let n := s.fld d F.cip_ld_pair
  if s.flag d F.cip_ld_busy then s.keyRefused d n 0
  else
    let w := ((List.range 5).map fun k => beBytes 8 (s.reg d R.cip_wrap k)).flatten
    let x : SecretLoad := ⟨n, s.fld d F.cip_ld_gen, s.fld d F.cip_ld_e0, s.reg d R.cip_ld_elim, w, (s.cip.get d).stagers.length ≠ 1⟩
    let s := (List.range 5).foldl (fun s k => s.setReg d R.cip_wrap 0 k) s
    let s := (s.setFld d F.cip_ld_go 1).setFld d F.cip_ld_busy 1
    s.updCip d fun y => { y with load := some x, stagers := [] }

/-- The receive keys of a generation of a pair are dropped. -/
def CipDie.dropRx (x : CipDie) (n gen : Nat) : CipDie :=
  { x with rx := x.rx.filter fun k => !(k.pair = n && k.gen = gen), tops := x.tops.filter fun t => !(t.1.take 1 = [n] && t.1.getD 2 0 = gen) }

/-- The generation of a pair in transmit use, or being taken into use. -/
def State.txGen (s : State) (d n : Nat) : Option Nat :=
  if (s.pair d n).inUse then some (s.fld d F.cip_pair_stat_txgen n) else (s.pair d n).prep.map (·.1)

/-- Whether slot A takes a loaded generation; else slot B does (R414). -/
def State.loadsA (s : State) (d n gen : Nat) : Bool :=
  match (s.pair d n).a, (s.pair d n).b with
  | none, none => true
  | none, some b => b.gen ≠ gen
  | some a, none => a.gen = gen
  | some a, some b =>
    if a.gen = gen then true
    else if b.gen = gen then false
    else match s.txGen d n with
      | some t => a.gen ≠ t
      | none => a.order < b.order

/-- The status register shows which slots hold secrets. -/
def State.showSlots (s : State) (d n : Nat) : State :=
  let p := s.pair d n
  let s := (s.setFld d F.cip_pair_stat_va (b2n p.a.isSome) n).setFld d F.cip_pair_stat_vb (b2n p.b.isSome) n
  (s.setFld d F.cip_pair_stat_gena ((p.a.map (·.gen)).getD 0) n).setFld d F.cip_pair_stat_genb ((p.b.map (·.gen)).getD 0) n

/-- A secret goes into its slot; the receive keys of the one replaced are dropped. -/
def State.placeSecret (s : State) (d : Nat) (l : SecretLoad) (key : List Byte) : State :=
  let x : Secret := ⟨key, l.gen, l.e0, l.elim, (s.cp d).loads⟩
  let inA := s.loadsA d l.pair l.gen
  let old := if inA then (s.pair d l.pair).a else (s.pair d l.pair).b
  let s := match old with
    | some o => s.updCip d fun y => y.dropRx l.pair o.gen
    | none => s
  let s := s.updPair d l.pair fun p => if inA then { p with a := some x } else { p with b := some x }
  (s.updCip d fun y => { y with loads := y.loads + 1 }).showSlots d l.pair

/-! ## Transmit keys (R416 to R419, R421) -/

/-- A write of 1 to `cip.pair[n].ctl.use`: a held generation is taken into use with a session drawn at random, else refused. -/
def State.onPairUse (s : State) (d n : Nat) : State :=
  let g := s.fld d F.cip_pair_ctl_ugen n
  let s := s.setFld d F.cip_pair_ctl_use 0 n
  if ((s.pair d n).secret g).isNone then s.keyRefused d n 2
  else
    let sess := s.free % 2 ^ 32
    (s.drew.updPair d n fun p => { p with prep := some (g, sess) }).setPairSt d n 1

/-- A write of 1 to dropold: the slot that does not hold the transmit generation is emptied; with none in use it is refused. -/
def State.onPairDrop (s : State) (d n : Nat) : State :=
  let s := s.setFld d F.cip_pair_ctl_dropold 0 n
  match s.txGen d n with
  | none => s.keyRefused d n 3
  | some t =>
    let p := s.pair d n
    let old := if p.a.any fun x => x.gen = t then p.b else p.a
    let s := match old with
      | some o => s.updCip d fun y => y.dropRx n o.gen
      | none => s
    (s.updPair d n fun p => if p.a.any fun x => x.gen = t then { p with b := none } else { p with a := none }).showSlots d n

/-- The current epoch of a pair. -/
def State.pairEpoch (s : State) (d n : Nat) : Nat := s.reg d R.cip_pair_epoch n

/-- The packets sealed under the current key. -/
def State.pairCount (s : State) (d n : Nat) : Nat := s.fld d F.cip_pair_count_count n

/-- The epoch limit of the transmit generation. -/
def State.pairElim (s : State) (d n : Nat) : Nat := s.fld d F.cip_pair_sess_elim n

/-- Packets under one key. -/
def keyLimit : Nat := 2 ^ 28

/-- A pair in use goes to another transmit state; while a generation is being taken into use it stays in KEYING (R417, R421). -/
def State.pairGoes (s : State) (d n v : Nat) : State := if s.pairSt d n = 1 then s else s.setPairSt d n v

/-- The next key becomes the current one (R418). -/
def State.roll (s : State) (d n : Nat) : State :=
  let e := s.pairEpoch d n
  let s := s.updPair d n fun p => { p with cur := p.next, next := none }
  let s := (s.setReg d R.cip_pair_epoch (e + 1) n).setReg d R.cip_pair_count 0 n
  (s.pairGoes d n 3).tally d R.cip_t_roll

/-- The current key has sealed its last packet (R418, R419); in KEYING the pair waits for the generation being taken into use (assumption
146). -/
def State.keyLimitReached (s : State) (d n : Nat) : State :=
  let e := s.pairEpoch d n
  if (s.pair d n).next.isSome then s.roll d n
  else if s.pairSt d n = 1 then s
  else if e = max32 then (s.setPairSt d n 5).raise d 0x11 0x7003 n
  else if s.pairElim d n ≤ e then (s.setPairSt d n 4).raise d 0x11 0x7002 (n + e * 2 ^ 32)
  else s

/-- A write of 1 to roll: in LIVE the key rolls, elsewhere it is refused. -/
def State.onPairRoll (s : State) (d n : Nat) : State :=
  let s := s.setFld d F.cip_pair_ctl_roll 0 n
  if s.pairSt d n = 2 then s.roll d n else s.keyRefused d n 1

/-- A write of a pair's elim (R418, R437): a PAUSED pair may go on, and a next key beyond the limit is not used. -/
def State.onPairElim (s : State) (d n : Nat) : State :=
  let beyond := s.pairElim d n ≤ s.pairEpoch d n
  if s.pairSt d n = 4 ∧ ¬ beyond then s.setPairSt d n 3
  else if s.pairSt d n = 2 ∧ beyond then (s.updPair d n fun p => { p with next := none }).setPairSt d n 3
  else s

/-- The generation being taken into use takes over at its starting epoch (R421). -/
def State.takeGen (s : State) (d n : Nat) (x : Secret) (sess : Nat) : State :=
  let more : Bool := x.e0 + 1 ≤ x.elim && x.e0 < max32
  let s := s.updPair d n fun p => { p with
    cur := some (s.txKey d n x sess x.e0), next := if more then some (s.txKey d n x sess (x.e0 + 1)) else none, prep := none, inUse := true }
  let s := ((s.setFld d F.cip_pair_stat_txgen x.gen n).setReg d R.cip_pair_epoch x.e0 n).setReg d R.cip_pair_count 0 n
  let s := (s.setReg d R.cip_pair_sess (sess * 2 ^ 32 + x.elim) n).tally d R.cip_t_derive 0 (1 + b2n more)
  s.setPairSt d n (if more then 2 else 3)

/-- The derivation for pair `n` ends: a generation taken into use, or the next key of the one in use. -/
def State.keyDerived (s : State) (d n : Nat) : State :=
  let p := s.pair d n
  match p.prep with
  | some (g, sess) =>
    match p.secret g with
    | some x => s.takeGen d n x sess
    | none => (s.updPair d n fun p => { p with prep := none }).setPairSt d n (if p.cur.isNone then 0 else if p.next.isSome then 2 else 3)
  | none =>
    let e := s.pairEpoch d n
    match p.secret (s.fld d F.cip_pair_stat_txgen n) with
    | some x =>
      if s.pairSt d n ≠ 3 ∨ p.next.isSome ∨ e = max32 ∨ s.pairElim d n ≤ e then s
      else
        let k := s.txKey d n x (s.fld d F.cip_pair_sess_sess n) (e + 1)
        let s := ((s.updPair d n fun p => { p with next := some k }).setPairSt d n 2).tally d R.cip_t_derive
        if s.pairCount d n = keyLimit then s.roll d n else s
    | none => s

/-! ## Sealing (R409, R412, R418, R422, R423) -/

/-- Whether a packet can be sealed for pair `n` now: the engine is enabled and the pair has a current key that is not used up. -/
def State.canSeal (s : State) (d n : Nat) : Bool :=
  let st := s.pairSt d n
  s.flag d F.cip_ctl_en && (s.pair d n).cur.isSome && (st = 1 || st = 2 || st = 3) && s.pairCount d n < keyLimit

/-- The Felvar header of the next packet of pair `n`: type 1 BULK, 2 CTL (R409). -/
def State.felvarHeader (s : State) (d n typ : Nat) : List Byte :=
  let e := s.pairEpoch d n
  beBytes 1 1 ++ beBytes 1 typ ++ beBytes 1 (e % 2) ++ beBytes 1 (s.fld d F.cip_pair_stat_txgen n) ++ beBytes 4 (s.ownSrc d) ++
    beBytes 1 (s.entry n).site ++ beBytes 3 0 ++ beBytes 4 (s.entry n).job ++ beBytes 8 (s.reg d R.cip_pair_pn n) ++ beBytes 4 e ++
    beBytes 4 (s.fld d F.cip_pair_sess_sess n)

/-! ### Message contexts (R423 to R425) -/

/-- Messages of a port that hold a context for sealing, or for opening, at once. -/
def cipContexts : Nat := 8

/-- The engine's clocks for the blocks of a message with `a` bytes of additional data and `c` of text. -/
def cipClocks (a c : Nat) : Nat := cdiv (cdiv a 16 + cdiv c 16 + 1) 8

/-- A message comes to a pipeline; its first block enters at once where the pipeline has nothing else to do. -/
def cipEnter (l : List CipMsg) (bulk : Bool) (clocks : Nat) : List CipMsg :=
  let idle := l.all fun m => m.left = 0
  l ++ [⟨bulk, idle && l.length < cipContexts, idle && l.length < cipContexts, clocks, 40, 0⟩]

/-- Whether a CTL message that is ready suspends this one: a BULK message whose blocks are entering, suspended fewer than 8 times. -/
def CipMsg.yields (m : CipMsg) : Bool := m.bulk && m.running && m.left ≠ 0 && m.susp < 8

/-- A message comes to the sealing pipeline of die `d`. A CTL message with a context suspends the BULK message that is being sealed. -/
def State.sealEnter (s : State) (d : Nat) (bulk : Bool) (clocks : Nat) : State :=
  let l := (s.cp d).seals
  let ready := !bulk && l.length < cipContexts && l.any CipMsg.yields
  let s := s.updCip d fun x => { x with
    seals := cipEnter (if ready then l.map fun m => if m.yields then { m with running := false, susp := m.susp + 1 } else m else l)
      bulk clocks }
  if ready then s.tally d R.cip_t_susp else s

/-- The message whose blocks enter a pipeline next, by its place: a BULK message suspended 8 times runs to its tag; else a CTL message
before a BULK one where `ctl` says so, and the oldest first. -/
def cipNext (l : List CipMsg) (ctl : Bool) : Option Nat :=
  let open_ (p : CipMsg → Bool) : Option Nat := indexWhere (fun m => m.left ≠ 0 && p m) (l.take cipContexts)
  ((open_ fun m => 8 ≤ m.susp).orElse fun _ => if ctl then open_ fun m => !m.bulk else none).orElse fun _ =>
    (open_ CipMsg.started).orElse fun _ => open_ fun _ => true

/-- One clock of a pipeline: the blocks of one message enter, those whose blocks have entered come closer to their tags, and those with
their tag give their contexts back. -/
def cipStep (l : List CipMsg) (ctl : Bool) : List CipMsg :=
  let k := cipNext l ctl
  let l := l.zipIdx.map fun p =>
    if some p.2 = k then { p.1 with started := true, running := true, left := p.1.left - 1 }
    else if p.1.left = 0 then { p.1 with tail := p.1.tail - 1 } else { p.1 with running := false }
  l.filter fun m => m.left ≠ 0 || m.tail ≠ 0

/-- The cipher engine of a die at the end of a clock. -/
def State.cipClock (s : State) (d : Nat) : State :=
  if (s.cp d).seals.isEmpty ∧ (s.cp d).opens.isEmpty then s
  else s.updCip d fun x => { x with seals := cipStep x.seals true, opens := cipStep x.opens false }

/-- A text is sealed as the next packet of pair `n`, BULK or CTL, with additional data: ciphertext and tag. -/
def State.seal (s : State) (d n : Nat) (bulk : Bool) (aad text : List Byte) : State × List Byte :=
  let key := (s.pair d n).cur.getD []
  let pn := s.reg d R.cip_pair_pn n
  let out := gcmSeal (key.take 32) (key.drop 32 ++ beBytes 8 pn) aad text
  let s := (s.setReg d R.cip_pair_pn (pn + 1) n).setFld d F.cip_pair_count_count (s.pairCount d n + 1) n
  let s := (s.tally d R.cip_t_seal).sealEnter d bulk (cipClocks aad.length text.length)
  let s := if s.pairCount d n = keyLimit then s.keyLimitReached d n else s
  if pn ≠ max64 then (s, out)
  else
    let s := (s.setPairSt d n 5).raise d 0x11 0x7004 n
    ((List.range 4).foldl (fun s j => if s.jobOn d j ∧ (s.job d j).jobId = (s.entry n).job then s.setJobSt d j 15 else s) s, out)

/-! ## Receive keys (R420) -/

/-- The sender of a packet: pair, source, generation and session. -/
def RxKey.sender (k : RxKey) : List Nat := [k.pair, k.src, k.gen, k.sess]

/-- A key enters the receive cache as the most recent of 512. -/
def CipDie.rxPut (x : CipDie) (k : RxKey) : CipDie :=
  let rx := (k :: x.rx.filter (· ≠ k)).take 512
  { x with rx, tops := x.tops.filter fun t => rx.any fun y => y.sender = t.1 }

/-- The highest epoch that has authenticated for a sender with a key in the cache. -/
def CipDie.top (x : CipDie) (sender : List Nat) : Option Nat := (x.tops.find? fun t => t.1 = sender).map (·.2)

/-- The cached key of a sender and epoch. -/
def CipDie.rxFind (x : CipDie) (sender : List Nat) (epoch : Nat) : Option RxKey :=
  x.rx.find? fun k => k.sender = sender && k.epoch = epoch

/-- A receive key is derived and cached (R415, R420). -/
def State.rxDerive (s : State) (d n src gen sess epoch : Nat) : State :=
  match (s.pair d n).secret gen with
  | none => s
  | some x =>
    let k := x.traffic (srcSite src) s.site src sess epoch
    (s.updCip d fun y => y.rxPut ⟨n, src, gen, sess, epoch, k⟩).tally d R.cip_t_derive

/-- A packet has authenticated under an epoch: a higher epoch than before is remembered, and the next key is derived. -/
def State.rxGood (s : State) (d : Nat) (k : RxKey) : State :=
  let old := (s.cp d).top k.sender
  if old.any fun e => k.epoch ≤ e then s
  else
    let s := s.updCip d fun x => { x with tops := (k.sender, k.epoch) :: x.tops.filter fun t => t.1 ≠ k.sender }
    if k.epoch = max32 ∨ ((s.cp d).rxFind k.sender (k.epoch + 1)).isSome then s
    else s.rxDerive d k.pair k.src k.gen k.sess (k.epoch + 1)

/-- An event at most once in any second of site time, by the time of the last one. -/
def State.onceASecond (s : State) (last : Option Nat) : Bool := last.all fun t => t + 1000000000 ≤ s.tai

end Sys2Proof.Machine
end

