-- ==== Sys2Proof/Machine/WanOut.lean ====
section
/-! DEFINITION. The sending side of a WAN port: frames, packets, the repair store, own fragments and traffic that is held or rerouted
(R405 to R412, R434 to R436). -/

namespace Sys2Proof.Machine

/-! ## Parts of the state -/

/-- The WAN gateway of die `d`. -/
def State.wn (s : State) (d : Nat) : WanDie := s.wan.get d

/-- Change the WAN gateway of die `d`. -/
def State.updWan (s : State) (d : Nat) (f : WanDie → WanDie) : State := { s with wan := s.wan.upd d f }

/-- The state code of a port (R406). -/
def State.portSt (s : State) (d : Nat) : Nat := s.fld d F.wan_stat_state

/-- Whether Felvar is open on port `d` (R600): a pair secret has been loaded since reset, and the engine is enabled. -/
def State.felvarOpen (s : State) (d : Nat) : Bool := 0 < (s.cp d).loads && s.flag d F.cip_ctl_en

/-- Whether port `d` seals and sends now. -/
def State.sends (s : State) (d : Nat) : Bool := s.portSt d = 3 && s.felvarOpen d

/-- Whether port `d` holds what it cannot send (R435, R600): in CAL entered from UP, or with Felvar closed, until 2 ms have passed. -/
def State.holds (s : State) (d : Nat) : Bool :=
  !(s.wn d).late && ((s.portSt d = 1 && (s.wn d).fromUp) || !s.felvarOpen d)

/-! ## Frames (R407) -/

/-- The ones' complement sum of 16-bit words of a byte list. -/
def onesSum (b : List Byte) : Nat :=
  let t := sumNat ((pieces 2 b).map fun p => beNat (p ++ List.replicate (2 - p.length) 0))
  let t := t % 0x10000 + t / 0x10000
  let t := t % 0x10000 + t / 0x10000
  t % 0x10000 + t / 0x10000

/-- The bytes that the UDP checksum covers before the UDP header: addresses, length and protocol. -/
def pseudoHeader (src dst : List Byte) (len : Nat) : List Byte := src ++ dst ++ beBytes 4 len ++ beBytes 4 17

/-- A UDP header with its checksum and the payload. -/
def udpBytes (src dst : List Byte) (sport dport : Nat) (data : List Byte) : List Byte :=
  let n := 8 + data.length
  let h := beBytes 2 sport ++ beBytes 2 dport ++ beBytes 2 n
  let c := 0xFFFF - onesSum (pseudoHeader src dst n ++ h ++ data)
  h ++ beBytes 2 (if c = 0 then 0xFFFF else c) ++ data

/-- The own address as bytes: IPv6, or IPv4 (R439, R437). -/
def State.ownIp (s : State) (d : Nat) (v4 : Bool) : List Byte :=
  if v4 then beBytes 4 (s.reg d R.wan_ip4) else beBytes 16 (s.wn d).ip6

/-- An IP packet with one UDP datagram; DSCP, flow label and identification as said in assumption 73. -/
def State.ipBytes (s : State) (d dscp : Nat) (dst udp : List Byte) : List Byte :=
  let v4 := s.flag d F.wan_ctl_v4
  let hop := s.fld d F.wan_ipo_hop
  if v4 then
    let h (c : Nat) : List Byte := beBytes 1 0x45 ++ beBytes 1 (4 * dscp) ++ beBytes 2 (20 + udp.length) ++ beBytes 2 0 ++
      beBytes 2 0x4000 ++ beBytes 1 hop ++ beBytes 1 17 ++ beBytes 2 c ++ s.ownIp d true ++ dst
    h (0xFFFF - onesSum (h 0)) ++ udp
  else beBytes 4 (6 * 2 ^ 28 + dscp * 2 ^ 22) ++ beBytes 2 udp.length ++ beBytes 1 17 ++ beBytes 1 hop ++ s.ownIp d false ++ dst ++ udp

/-- An Ethernet II frame without its FCS, with the tag that the port sends. -/
def State.etherBytes (s : State) (d : Nat) (dst : List Byte) (pcp typ : Nat) (data : List Byte) : List Byte :=
  let tag := if s.flag d F.wan_ctl_vlan then beBytes 2 0x8100 ++ beBytes 2 (pcp * 2 ^ 13 + s.fld d F.wan_vlan_vid) else []
  dst ++ beBytes 6 (s.fld d F.wan_mac_mac) ++ tag ++ beBytes 2 typ ++ data

/-- A frame leaves port `d`; its bytes count with the FCS (assumption 73). -/
def State.sendFrame (s : State) (d : Nat) (b : List Byte) : State :=
  (s.tally d R.wan_t_txb 0 (b.length + 4)).emit (.frame d b)

/-- The address of the partner's ingress port that this port sends an entry's packets to (R411). -/
def State.partnerAddr (s : State) (d : Nat) (e : PEntry) : List Byte :=
  let r := (2 * s.actId d + d) % e.rcnt
  e.rbase.take 8 ++ beBytes 8 ((beNat (e.rbase.drop 8) + r) % 2 ^ 64)

/-- A Felvar packet for entry `n` leaves port `d` (R407, R410): type 1 BULK, 2 CTL. -/
def State.sendFelvar (s : State) (d n typ : Nat) (packet : List Byte) : State :=
  let e := s.entry n
  let v4 := s.flag d F.wan_ctl_v4
  let addr := s.partnerAddr d e
  let dst := if v4 then addr.drop 12 else addr
  let dscp := s.fld d (if typ = 1 then F.wan_ipo_dscp_bulk else F.wan_ipo_dscp_ctl)
  let pcp := s.fld d (if typ = 1 then F.wan_vlan_pcp_bulk else F.wan_vlan_pcp_ctl)
  let udp := udpBytes (s.ownIp d v4) dst (s.fld d F.wan_udp_sport) e.rport packet
  let b := s.etherBytes d (beBytes 6 (s.fld d F.wan_nh_mac)) pcp (if v4 then 0x0800 else 0x86DD) (s.ipBytes d dscp dst udp)
  (s.tally d R.wan_t_tx).sendFrame d b

/-! ## Copies of fragments (R412) -/

/-- A copy of a fragment is sealed for entry `n` and sent; a PAUSED or CLOSED pair is skipped, one that has no key gets none. -/
def State.sendCopy (s : State) (d n : Nat) (f : Frag) : State :=
  if s.pairSt d n = 4 ∨ s.pairSt d n = 5 then s.tally d R.wan_t_pskip
  else if ¬ s.canSeal d n then s
  else
    let h := s.felvarHeader d n 1
    let a := f.hdr.toBytes
    let r := s.seal d n true a f.payload
    r.1.sendFelvar d n 1 (h ++ a ++ r.2)

/-- The entries that own fragments of a job go to (R343), but for those to which nothing is sent (R411). -/
def State.targets (s : State) (job : Nat) : List Nat := ((s.partners job).filter fun e => e.rcnt ≠ 0).map (·.idx)

/-! ## The repair store (R434) -/

/-- The devices whose halves port `d` carries for job slot `j`, in ascending local id. -/
def State.carried (s : State) (d j : Nat) : List Nat :=
  let x := s.job d j
  (List.range x.smap.length).filter fun n =>
    let e := x.smap.getD n (0, 0, 0)
    e.2.1 ≠ 0 && e.2.2 = s.actId d

/-- The bytes of a slot of the repair store. -/
def storeSlot : Nat := 8256

/-- The address of the repair-store slot of a fragment of device `dev`; none when it lies beyond fmax or the area. -/
def State.storeAddr (s : State) (d j dev t seq : Nat) : Option Nat :=
  let l := s.carried d j
  let fmax := s.fld d F.wan_rst_geo_fmax j
  match indexWhere (· = dev) l with
  | none => none
  | some i =>
    let k := (t % 2 * l.length + i) * fmax + seq
    if fmax ≤ seq ∨ s.fld d F.wan_rst_geo_size j * 2 ^ 20 < (k + 1) * storeSlot then none
    else some (s.fld d F.wan_rst_base_base j * 256 + k * storeSlot)

/-- A fragment that is not stored is counted, and reported once a trick. -/
def State.notStored (s : State) (d j t : Nat) : State :=
  let s := s.tally d R.wan_t_nost
  if (s.wn d).nostSeen.contains (j, t) then s
  else (s.updWan d fun x => { x with nostSeen := ((j, t) :: x.nostSeen).take 32 }).raise d 0x10 0x3007 (j + t % 2 ^ 32 * 2 ^ 32)

/-- An own fragment goes into the repair store of its job slot, where one is enabled. -/
def State.storeFrag (s : State) (d : Nat) (f : Frag) : State :=
  match s.jobOf d f.hdr.job with
  | none => s
  | some j =>
    if ¬ s.flag d F.wan_rst_base_en j then s
    else match s.storeAddr d j f.hdr.dev f.hdr.trick f.hdr.seq with
      | none => s.notStored d j f.hdr.trick
      | some a => s.writeRaw d a (f.hdr.toBytes ++ f.payload)

/-! ## Routes of a port that is down for sending (R436) -/

/-- Whether entry `n` can be served by the other port: that port sends, its pair can seal, and the bridge carries. -/
def State.otherPort (s : State) (d n : Nat) : Bool := s.sends (1 - d) && s.canSeal (1 - d) n && s.flag 0 F.brg_stat_up

/-- The node of the alternate Courier, when it is enabled and reachable. -/
def State.altNode (s : State) (d : Nat) : Option Nat :=
  let n := 2 * s.fld d F.wan_alt_alt + d
  if s.flag d F.wan_alt_en ∧ n ≠ s.node d ∧ (s.route d n 6 false).isSome then some n else none

/-- A fragment travels as OUT pieces to another node. -/
def State.outTo (s : State) (d node : Nat) (f : Frag) : State :=
  (outPieces f.hdr f.payload).foldl
    (fun s p => (s.send d ⟨6, node, s.node d, s.jobFixed d f.hdr.job, frgLow 0 (p.1 / 16) p.2.2, 0, p.2.1⟩).1) s

/-- A fragment goes by the first route that applies to each of its entries; the flag says that it was dropped for some. It crosses the
bridge once, as its header and payload (assumption 137). -/
def State.reroute (s : State) (d : Nat) (f : Frag) (ns : List Nat) : State × Bool :=
  let near := ns.filter (s.otherPort d)
  let far := ns.filter fun n => !s.otherPort d n
  let s := near.foldl (fun s n => s.sendCopy (1 - d) n f) s
  let s := if near.isEmpty then s else s.tally d R.brg_t_tx3 0 (288 + 256 * ((63 + f.payload.length) / 256))
  let s := if near.isEmpty then s else (s.tally d R.wan_t_rrt).raise d 0x10 0x3004 0
  if far.isEmpty then (s, false)
  else match s.altNode d with
    | some node =>
      let s := if near.isEmpty then s.tally d R.wan_t_rrt else s
      ((s.outTo d node f).raise d 0x10 0x3004 1, false)
    | none => (s.tally d R.wan_t_hdrop, true)

/-- Fragments go by their routes; a drop is reported once until the port sends again. -/
def State.rerouteAll (s : State) (d : Nat) (l : List (Frag × List Nat)) : State :=
  let r := l.foldl
    (fun (r : State × Nat) f =>
      let x := r.1.reroute d f.1 f.2
      (x.1, r.2 + b2n x.2)) (s, 0)
  if r.2 = 0 ∨ (r.1.wn d).hdropSeen then r.1
  else (r.1.updWan d fun x => { x with hdropSeen := true }).raise d 0x10 0x3005 r.2

/-! ## What a Courier's port knows of a trick (R432) -/

/-- The record of a half after a fragment of it. -/
def halfSeen (l : List (Nat × Nat × Nat × Bool)) (dev die seq : Nat) (last : Bool) : List (Nat × Nat × Nat × Bool) :=
  match l with
  | [] => [(dev, die, seq, last)]
  | e :: r => if e.1 = dev ∧ e.2.1 = die then (dev, die, max e.2.2.1 seq, e.2.2.2 || last) :: r else e :: halfSeen r dev die seq last

/-- The port notes a fragment for the SUMMARY of its trick; the last 32 tricks are kept. -/
def State.noteFrag (s : State) (d : Nat) (f : Frag) : State :=
  let h := f.hdr
  let new (x : SumTrick) : SumTrick := { x with halves := halfSeen x.halves h.dev d h.seq h.lastOfRange }
  s.updWan d fun x =>
    if x.sums.any fun t => t.job = h.job && t.trick = h.trick then
      { x with sums := x.sums.map fun t => if t.job = h.job ∧ t.trick = h.trick then new t else t }
    else { x with sums := (new ⟨h.job, h.trick, [], false⟩ :: x.sums).take 32 }

/-- The copies that a port holds. -/
def WanDie.copies (x : WanDie) : Nat := sumNat (x.held.map fun f => f.2.length)

/-- FRAGMENT_SEND (R412, R434 to R436): the Courier takes its oldest reassembled own fragment, stores it for repair, and seals one copy
for each eligible entry, in ascending index; a port that holds its traffic keeps up to 8 copies, and beyond that the fragment waits. -/
def execFragmentSend (d : Fin 2) (s : State) : Host.Outcome State Fault Refusal :=
  match (s.md d).outq with
  | [] => .next s
  | f :: rest =>
    let ns := s.targets f.hdr.job
    if s.holds d ∧ 8 < (s.wn d).copies + ns.length ∧ (s.wn d).held ≠ [] then .next s
    else
      let s := ((s.updMd d fun x => { x with outq := rest }).storeFrag d f).noteFrag d f
      if s.sends d then .next (ns.foldl (fun s n => s.sendCopy d n f) s)
      else if s.holds d then .next (s.updWan d fun x => { x with held := x.held ++ [(f, ns)] })
      else .next (s.rerouteAll d [(f, ns)])

end Sys2Proof.Machine
end

