-- ==== Sys2Proof/Machine/WanCtl.lean ====
section
/-! DEFINITION. The control sub-channel of a WAN port: connections, messages, SUMMARY and NACK records, and the receive tracker (R427 to
R434). -/

namespace Sys2Proof.Machine

/-! ## Connections (R428) -/

/-- A connection that has carried nothing. -/
def Conn.new (pair src sess now : Nat) : Conn := ⟨pair, src, sess, 1, 0, [], [], [], false, now⟩

/-- Whether a connection is idle. -/
def Conn.idle (c : Conn) : Bool := c.flight.isEmpty && c.queue.isEmpty && c.early.isEmpty

/-- Change connection `k`. -/
def State.updConn (s : State) (d k : Nat) (f : Conn → Conn) : State := s.updWan d fun x => { x with conns := listMod x.conns k f }

/-- The idle connection that has carried no message for the longest time. -/
def oldestIdle (l : List Conn) : Option Nat :=
  let idle := l.zipIdx.filter (·.1.idle)
  match idle with
  | [] => none
  | c :: r => some (r.foldl (fun a b => if b.1.last < a.1.last then b else a) c).2

/-- A connection is made: in a free entry, or in that of an idle one; none when there is neither. Its place is given. -/
def State.connect (s : State) (d n src sess : Nat) : Option (State × Nat) :=
  let l := (s.wn d).conns
  let c := Conn.new n src sess s.tai
  if l.length < 256 then some (s.updWan d fun x => { x with conns := l ++ [c] }, l.length)
  else (oldestIdle l).map fun k => (s.updConn d k fun _ => c, k)

/-- The connection of pair `n` that has carried a message last. -/
def State.pairConn (s : State) (d n : Nat) : Option Nat :=
  let l := (s.wn d).conns.zipIdx.filter fun c => c.1.pair = n
  match l with
  | [] => none
  | c :: r => some (r.foldl (fun a b => if a.1.last < b.1.last then b else a) c).2

/-! ## Records to be sent (R428) -/

/-- The records queued for pair `n`. -/
def State.queuedFor (s : State) (d n : Nat) : Nat :=
  (s.pair d n).waiting.length + sumNat (((s.wn d).conns.filter fun c => c.pair = n).map fun c => c.queue.length)

/-- A record is discarded (R428). -/
def State.dropRecord (s : State) (d n src : Nat) : State := (s.tally d R.wan_t_cdrop).raise d 0x10 0x3006 (n + src * 2 ^ 32)

/-- A record waits for pair `n`, on a connection where one is named; a full queue discards it. The flag says that it waits. -/
def State.queueRecord (s : State) (d n : Nat) (on : Option (Nat × Nat)) (b : List Byte) : State × Bool :=
  if 64 ≤ s.queuedFor d n then (s.dropRecord d n ((on.map (·.1)).getD 0), false)
  else
    let at_ := match on with
      | some q => indexWhere (fun c => c.pair = n && c.src = q.1 && c.sess = q.2) (s.wn d).conns
      | none => none
    match at_ with
    | some k => (s.updConn d k fun c => { c with queue := c.queue ++ [b] }, true)
    | none => (s.updPair d n fun p => { p with waiting := p.waiting ++ [b] }, true)

/-! ## Messages (R427) -/

/-- Whether control messages for pair `n` can be sent by port `d` now (R411, R412). -/
def State.ctlGoes (s : State) (d n : Nat) : Bool :=
  let e := s.entry n
  s.sends d && s.canSeal d n && e.state ≠ 0 && e.rcnt ≠ 0

/-- A message leaves on connection `k`; it carries the acknowledgement. -/
def State.sendMessage (s : State) (d k cseq : Nat) (recs : List (List Byte)) : State :=
  match (s.wn d).conns[k]? with
  | none => s
  | some c =>
    let text := beBytes 4 cseq ++ beBytes 4 c.cack ++ beBytes 8 s.tai ++ recs.flatten
    let h := s.felvarHeader d c.pair 2
    let r := s.seal d c.pair false h text
    (r.1.sendFelvar d c.pair 2 (h ++ r.2)).updConn d k fun c => { c with ackDue := false, last := s.tai }

/-- Queued records of connection `k` leave in messages of up to 16, while fewer than 64 are unacknowledged. -/
def State.pumpConn : Nat → State → Nat → Nat → State
  | 0, s, _, _ => s
  | fuel + 1, s, d, k =>
    match (s.wn d).conns[k]? with
    | none => s
    | some c =>
      if c.queue.isEmpty ∨ 64 ≤ c.flight.length ∨ ¬ s.ctlGoes d c.pair then s
      else
        let recs := c.queue.take 16
        let s := s.sendMessage d k c.cseq recs
        let s := s.updConn d k fun c =>
          { c with queue := c.queue.drop 16, cseq := (c.cseq + 1) % 2 ^ 32, flight := c.flight ++ [⟨c.cseq, recs, 0⟩] }
        s.pumpConn fuel d k

/-- The records that wait for pair `n` join its connection, which is made where there is none. -/
def State.joinConn (s : State) (d n : Nat) : State :=
  let w := (s.pair d n).waiting
  if w.isEmpty ∨ ¬ s.ctlGoes d n then s
  else
    let at_ := match s.pairConn d n with
      | some k => some (s, k)
      | none => s.connect d n 0 0
    match at_ with
    | none => s
    | some (s, k) => (s.updPair d n fun p => { p with waiting := [] }).updConn d k fun c => { c with queue := c.queue ++ w }

/-- The records of a port that is down for sending are queued on the other port, where that serves their pair (R436). -/
def State.moveRecords (s : State) (d n : Nat) : State :=
  if s.sends d ∨ s.holds d ∨ s.queuedFor d n = 0 ∨ ¬ s.otherPort d n then s
  else
    let recs := (s.pair d n).waiting ++ (((s.wn d).conns.filter fun c => c.pair = n).map fun c => c.queue).flatten
    let s := s.updPair d n fun p => { p with waiting := [] }
    let s := s.updWan d fun x => { x with conns := x.conns.map fun c => if c.pair = n then { c with queue := [] } else c }
    (recs.foldl (fun s b => (s.queueRecord (1 - d) n none b).1) s).raise d 0x10 0x3004 0

/-- Control records that Meld has handed to the port are queued for their pair; those for an EMPTY entry are discarded (R412). -/
def State.takeRecords (s : State) (d : Nat) : State :=
  let l := (s.md d).ctlq
  if l.isEmpty then s
  else l.foldl (fun s e => if (s.entry e.1).state = 0 then s.dropRecord d e.1 0 else (s.queueRecord d e.1 none e.2).1)
    (s.updMd d fun x => { x with ctlq := [] })

/-- The control sub-channel of a port sends what it can. -/
def State.ctlPump (s : State) (d : Nat) : State :=
  let s := s.takeRecords d
  let busy := (List.range 64).filter fun n => 0 < s.queuedFor d n
  let s := busy.foldl (fun s n => (s.moveRecords d n).joinConn d n) s
  (List.range (s.wn d).conns.length).foldl (fun s k => s.pumpConn 64 d k) s

/-- CONTROL_ACK_TIMER (R428): 100 µs after a message came, its acknowledgement has left with no other message: a pure one is sent. -/
def execControlAckTimer (d : Fin 2) (k : Fin 256) (s : State) : Host.Outcome State Fault Refusal :=
  match (s.wn d).conns[k.val]? with
  | none => .next s
  | some c => .next (if c.ackDue && s.ctlGoes d c.pair then s.sendMessage d k 0 [] else s)

/-- CONTROL_RETRANSMIT (R428): a message in flight is resent; after `wan.crto.cmax` resends the connection fails. -/
def execControlRetransmit (d : Fin 2) (k : Fin 256) (cseq : Nat) (s : State) : Host.Outcome State Fault Refusal :=
  match (s.wn d).conns[k.val]? with
  | none => .next s
  | some c =>
    match c.flight.find? fun m => m.cseq = cseq with
    | none => .next s
    | some m =>
      if ¬ s.ctlGoes d c.pair then .next s
      else if s.fld d F.wan_crto_cmax ≤ m.tries then
        let s := s.updWan d fun x => { x with conns := x.conns.eraseIdx k }
        .next ((s.tally d R.wan_t_cdrop 0 c.queue.length).raise d 0x10 0x3006 (c.pair + c.src * 2 ^ 32))
      else
        let s := (s.tally d R.wan_t_crtx).updConn d k fun c =>
          { c with flight := c.flight.map fun q => if q.cseq = cseq then { q with tries := q.tries + 1 } else q }
        .next (s.sendMessage d k cseq m.recs)

/-! ## Messages received (R427, R428) -/

/-- A record is delivered: SUMMARY and NACK to the gateway, every other to the site master's Meld (R427). -/
def State.deliver (s : State) (d n src sess : Nat) (b : List Byte) : State :=
  let t := beAt b 0 1
  if t = 0x10 ∨ t = 0x11 then s.updWan d fun x => { x with recs := x.recs ++ [(n, src, sess, b)] }
  else (s.send d ⟨6, s.masterNode, s.node d, s.jobFixed d (beAt b 4 4), frgLow 2 0 true, 0, b⟩).1

/-- Messages held beyond a gap are delivered once it is filled. -/
def State.drainEarly : Nat → State → Nat → Nat → State
  | 0, s, _, _ => s
  | fuel + 1, s, d, k =>
    match (s.wn d).conns[k]? with
    | none => s
    | some c =>
      match c.early.find? fun e => e.1 = c.cack + 1 with
      | none => s
      | some e =>
        let s := s.updConn d k fun c => { c with cack := e.1, early := c.early.filter fun x => x.1 ≠ e.1 }
        (e.2.foldl (fun s b => s.deliver d c.pair c.src c.sess b) s).drainEarly fuel d k

/-- A message of connection `k` takes its place in the sequence. -/
def State.inSequence (s : State) (d k cseq : Nat) (recs : List (List Byte)) : State :=
  match (s.wn d).conns[k]? with
  | none => s
  | some c =>
    let s := s.updConn d k fun c => { c with ackDue := true }
    if cseq ≤ c.cack then s
    else if cseq = c.cack + 1 then
      let s := s.updConn d k fun c => { c with cack := cseq }
      (recs.foldl (fun s b => s.deliver d c.pair c.src c.sess b) s).drainEarly 64 d k
    else if c.early.any fun e => e.1 = cseq then s
    else if c.early.length < 64 then s.updConn d k fun c => { c with early := c.early ++ [(cseq, recs)] }
    else s.tally d R.wan_t_cdrop

/-- The connection of a message: the one of its sender, one that waits to learn its sender (assumption 74), or a new one. -/
def State.connOf (s : State) (d n src sess : Nat) : Option (State × Nat) :=
  let l := (s.wn d).conns
  match indexWhere (fun c => c.pair = n && c.src = src && c.sess = sess) l with
  | some k => some (s, k)
  | none =>
    match indexWhere (fun c => c.pair = n && c.src = 0 && c.sess = 0) l with
    | some k => some (s.updConn d k fun c => { c with src, sess }, k)
    | none => s.connect d n src sess

/-- The body of an authenticated CTL packet of pair `n`: too old, it is dropped; else its acknowledgement is taken, and its records are
delivered, held or known (R427, R428). -/
def State.ctlBody (s : State) (d n src sess : Nat) (b : List Byte) : State :=
  let cseq := beAt b 0 4
  let cack := beAt b 4 4
  let recs := pieces 64 (b.drop 16)
  if beAt b 8 8 + s.fld d F.wan_crto_cage * 1000000000 < s.tai then s.tally d R.wan_t_cdrop
  else match s.connOf d n src sess with
    | none => s.tally d R.wan_t_cdrop
    | some (s, k) =>
      let s := s.updConn d k fun c => { c with
        flight := c.flight.filter fun m => cack < m.cseq, last := s.tai
        cack := if c.cack = 0 ∧ cseq ≠ 0 then cseq - 1 else c.cack }
      if cseq = 0 then s else s.inSequence d k cseq recs

/-! ## The receive tracker (R431) -/

/-- The tracker record of a fragment's half at entry `e`: its address, for a device that the tracker covers. -/
def trackerAddr (d : Nat) (e : PEntry) (dev die t : Nat) : Option Nat :=
  if e.tdev ≤ dev then none else some ((if d = 0 then e.tbase.1 else e.tbase.2) + ((2 * dev + die) * 2 + t % 2) * 1088)

/-- The trick that a tracker record holds: its private bytes keep the trick and a mark that it holds one (assumption 75). -/
def State.trackerTrick (s : State) (a : Nat) : Option Nat := if s.viewNat (a + 8) 1 = 1 then some (s.viewNat a 8) else none

/-- An authenticated fragment sets its bit; a record of an older trick is cleared first. -/
def State.track (s : State) (d : Nat) (e : PEntry) (die : Nat) (h : FragHdr) : State :=
  if 8192 ≤ h.seq then s
  else match trackerAddr d e h.dev die h.trick with
    | none => s
    | some a =>
      let held := s.trackerTrick a
      if held.any fun t => h.trick < t then s
      else
        let s := if held = some h.trick then s
          else s.writeRaw d a (leBytes 8 h.trick ++ leBytes 1 1 ++ List.replicate (55 + 1024) 0)
        let at_ := a + 64 + h.seq / 8
        s.writeRaw d at_ (leBytes 1 (s.viewNat at_ 1 ||| 2 ^ (h.seq % 8)))

/-- The bits below `count` of the tracker that are clear, as a mask of `frag_seq`. -/
def State.missingBits (s : State) (d : Nat) (e : PEntry) (dev die t count : Nat) : Nat :=
  match trackerAddr d e dev die t with
  | none => 0
  | some a =>
    let full := 2 ^ min count 8192 - 1
    match s.trackerTrick a with
    | none => full
    | some u => if u = t then full ^^^ (full &&& s.viewNat (a + 64) 1024) else if u < t then full else 0

/-! ## SUMMARY and NACK (R432, R433) -/

/-- A SUMMARY record (R432): at most 12 halves, each with its count. -/
def summaryRecord (job trick : Nat) (l : List (Nat × Nat × Nat × Bool)) : List Byte :=
  beBytes 1 0x10 ++ beBytes 1 l.length ++ beBytes 2 0 ++ beBytes 4 job ++ beBytes 8 trick ++
    (l.map fun h => beBytes 4 (h.1 * 2 ^ 18 + h.2.1 * 2 ^ 17 + min (h.2.2.1 + 1) 8192)).flatten ++
    List.replicate (4 * (12 - l.length)) 0

/-- SUMMARY_SEND (R432): every carried half has delivered its last fragment, or `wan.repw.sum` ms have passed since the first: SUMMARY
records go to each eligible entry, once a trick. -/
def execSummarySend (d : Fin 2) (job trick : Nat) (s : State) : Host.Outcome State Fault Refusal :=
  match (s.wn d).sums.find? fun t => t.job = job && t.trick = trick with
  | none => .next s
  | some t =>
    if t.sent then .next s
    else
      let recs := (pieces 12 t.halves).map (summaryRecord job trick)
      let to_ := (s.targets job).filter (s.canSeal d)
      let s := s.updWan d fun x => { x with sums := x.sums.map fun q => if q = t then { q with sent := true } else q }
      .next ((to_.foldl (fun s n => recs.foldl (fun s b => (s.queueRecord d n none b).1) s) s).ctlPump d)

/-- The time after which repaired fragments are no longer wanted (R433). -/
def State.until_ (s : State) (d j t : Nat) : Nat :=
  let st := s.jobSt d j
  if s.acc d j = t ∧ 4 ≤ st ∧ st ≤ 6 then s.reg d R.meld_job_tdl j - s.fld d F.wan_rep_margin * 1000000
  else s.tai + s.fld d F.wan_repw_win * 1000000

/-- A NACK record (R433). -/
def nackRecord (x : NackRun) (base mask : Nat) : List Byte :=
  beBytes 1 0x11 ++ beBytes 1 0 ++ beBytes 2 (x.dev * 4 + x.die * 2) ++ beBytes 4 x.job ++ beBytes 8 x.trick ++ beBytes 8 x.until_ ++
    beBytes 2 base ++ beBytes 6 0 ++ leBytes 32 mask

/-- One round of NACK records for a half: one for each 256 fragments with some bit clear. -/
def State.nackRound (s : State) (d : Nat) (x : NackRun) (bits_ : Nat) : State :=
  (List.range 32).foldl
    (fun s i =>
      let m := bits bits_ (256 * i) 256
      if m = 0 then s
      else
        let r := s.queueRecord d x.pair (some (x.src, x.sess)) (nackRecord x (256 * i) m)
        if r.2 then r.1.tally d R.wan_t_nack else r.1) s

/-- Whether a half is still to be repaired: its job slot accumulates the trick. -/
def State.wanted (s : State) (d : Nat) (x : NackRun) : Bool := (s.jobOf d x.job).any fun j => s.acc d j = x.trick

/-- One entry of a SUMMARY record against the tracker. -/
def State.summaryEntry (s : State) (d n src sess job t w : Nat) : State :=
  let u := match s.jobOf d job with
    | some j => s.until_ d j t
    | none => 0
  let x : NackRun := ⟨n, src, sess, job, t, bits w 18 14, bits w 17 1, w % 2 ^ 14, u, 1⟩
  let m := s.missingBits d (s.entry n) x.dev x.die t x.count
  if ¬ s.wanted d x ∨ m = 0 ∨ s.fld d F.wan_rep_max = 0 then s
  else
    let same (y : NackRun) : Bool := y.pair = n && y.job = job && y.trick = t && y.dev = x.dev && y.die = x.die
    (s.nackRound d x m).updWan d fun y => { y with nacks := (y.nacks.filter fun q => !same q) ++ [x] }

/-- The oldest waiting record of a type is taken. -/
def State.takeRec (s : State) (d typ : Nat) : Option (State × Nat × Nat × Nat × List Byte) :=
  match indexWhere (fun e => beAt e.2.2.2 0 1 = typ) (s.wn d).recs with
  | none => none
  | some k => ((s.wn d).recs[k]?).map fun e => (s.updWan d fun x => { x with recs := x.recs.eraseIdx k }, e)

/-- SUMMARY (R433): an ingress port compares the oldest SUMMARY record with its tracker and asks for what is missing. -/
def execSummary (d : Fin 2) (s : State) : Host.Outcome State Fault Refusal :=
  match s.takeRec d 0x10 with
  | none => .next s
  | some (s, n, src, sess, b) =>
    let ents := (List.range (min (beAt b 1 1) 12)).map fun i => beAt b (16 + 4 * i) 4
    .next ((ents.foldl (fun s w => s.summaryEntry d n src sess (beAt b 4 4) (beAt b 8 8) w) s).ctlPump d)

/-- NACK_REPEAT (R433): `wan.rep.ivl` ms after the last round for the half at place `k`, the bits still clear are asked for again, up to
`wan.rep.max` rounds, while acc = t and before until. -/
def execNackRepeat (d : Fin 2) (k : Nat) (s : State) : Host.Outcome State Fault Refusal :=
  match (s.wn d).nacks[k]? with
  | none => .next s
  | some x =>
    let m := s.missingBits d (s.entry x.pair) x.dev x.die x.trick x.count
    if m = 0 ∨ s.fld d F.wan_rep_max ≤ x.rounds ∨ ¬ s.wanted d x ∨ x.until_ ≤ s.tai then
      .next (s.updWan d fun y => { y with nacks := y.nacks.eraseIdx k })
    else
      let s := s.updWan d fun y => { y with nacks := listMod y.nacks k fun q => { q with rounds := q.rounds + 1 } }
      .next ((s.nackRound d x m).ctlPump d)

/-! ## Serving a NACK (R434) -/

/-- The stored fragment that a bit of a NACK names, when it passes the checks. -/
def State.storedFrag (s : State) (d n job dev t seq until_ : Nat) : State × Option Frag :=
  match s.jobOf d job with
  | none => (s, none)
  | some j =>
    match s.storeAddr d j dev t seq with
    | none => (s, none)
    | some a =>
      let r := s.read d a 64
      let h := FragHdr.ofBytes r.data
      let p := r.st.read d (a + 64) (min h.plen 8192)
      if r.poison ∨ p.poison ∨ ¬ s.flag d F.wan_rst_base_en j ∨ until_ < s.tai ∨ ¬ s.canSeal d n ∨ h.trick ≠ t ∨
          h.src ≠ s.site * 2 ^ 14 + dev ∨ h.seq ≠ seq ∨ 8192 < h.plen then (p.st, none)
      else (p.st, some ⟨2 * dev + d, h, p.data⟩)

/-- One set bit of a NACK is served, or counted. -/
def State.serveBit (s : State) (d n job dev t seq until_ : Nat) : State :=
  match s.storedFrag d n job dev t seq until_ with
  | (s, some f) => (s.tally d R.wan_t_rep).sendCopy d n { f with hdr := { f.hdr with flags := f.hdr.flags ||| 2 } }
  | (s, none) =>
    let s := s.tally d R.wan_t_replate
    if (s.wn d).lateSeen.contains (n, t) then s
    else (s.updWan d fun x => { x with lateSeen := ((n, t) :: x.lateSeen).take 256 }).raise d 0x10 0x3008 (n + t % 2 ^ 32 * 2 ^ 32)

/-- NACK (R434): the sending port serves the bits of the oldest NACK record, in ascending order; it waits while the port does not
send. -/
def execNack (d : Fin 2) (s : State) : Host.Outcome State Fault Refusal :=
  if ¬ s.sends d then .next s
  else match s.takeRec d 0x11 with
    | none => .next s
    | some (s, n, _, _, b) =>
      let src := beAt b 2 2
      let mask := leNat ((b.drop 32).take 32)
      let base := beAt b 24 2
      .next ((maskIdx 256 mask).foldl
        (fun s k =>
          if src / 2 % 2 = d then s.serveBit d n (beAt b 4 4) (src / 4) (beAt b 8 8) (base + k) (beAt b 16 8)
          else s.serveBit d n (beAt b 4 4) (2 ^ 14) (beAt b 8 8) (base + k) (beAt b 16 8)) s)

end Sys2Proof.Machine
end

