-- ==== Sys2Proof/Machine/WanIn.lean ====
section
/-! DEFINITION. The receiving side of a WAN port: frames, their checks and answers, Felvar packets and their opening (R407 to R413, R420,
R427). -/

namespace Sys2Proof.Machine

/-! ## Drops (R408, R442) -/

/-- A received packet is dropped: counted, and the first drop after each read of `wan.drop` is reported with a cause. -/
def State.countDrop (s : State) (d cause : Nat) : State :=
  let s := s.count32 d F.wan_drop_count
  if (s.wn d).dropSeen then s
  else (s.updWan d fun x => { x with dropSeen := true }).raise d 0x10 0x3003 cause

/-- A drop for a cause of R408 or R413 that the gateway counts: its tally's number, 4 or 5. -/
def State.dropWan (s : State) (d t : Nat) : State :=
  (s.tally d (if t = 4 then R.wan_t_dext else R.wan_t_dfmt)).countDrop d t

/-- A drop that the cipher unit counts; R450 gives no number for its cause, and the detail is a free value (assumption 76). -/
def State.dropCip (s : State) (d : Nat) (r : Reg) : State :=
  let v := s.free
  (s.drew.tally d r).countDrop d v

/-! ## Felvar packets (R409, R413, R420) -/

/-- The fields of a Felvar header that name the key: source, generation, session, epoch. -/
structure Felvar where
  typ : Nat
  gen : Nat
  src : Nat
  site : Nat
  job : Nat
  pn : Nat
  epoch : Nat
  sess : Nat
deriving DecidableEq, Repr

/-- A Felvar header from the first bytes of a packet. -/
def Felvar.ofBytes (b : List Byte) : Felvar :=
  ⟨beAt b 1 1, beAt b 3 1, beAt b 4 4, beAt b 8 1, beAt b 0x0C 4, beAt b 0x10 8, beAt b 0x18 4, beAt b 0x1C 4⟩

/-- Step 1 of R413: fixed fields and reserved bits. -/
def felvarGood (b : List Byte) : Bool :=
  let h := Felvar.ofBytes b
  48 ≤ b.length && beAt b 0 1 = 1 && (h.typ = 1 || h.typ = 2) && beAt b 2 1 = h.epoch % 2 && beAt b 9 3 = 0 && h.src < 2 ^ 21 &&
    h.site < 64

/-- Step 2 of R413: the entry of the packet's job and source site whose pair holds the generation. -/
def State.felvarEntry (s : State) (d : Nat) (h : Felvar) : Option PEntry :=
  if h.site ≠ s.site then none
  else (s.entries.find? fun e => e.state ≠ 0 && e.job = h.job && e.site = srcSite h.src).filter fun e =>
    ((s.pair d e.idx).secret h.gen).isSome

/-- Whether the lengths of a packet agree with its header (R410, R413 step 4). -/
def felvarLength (b : List Byte) : Bool :=
  if beAt b 1 1 = 1 then 112 ≤ b.length && b.length = 112 + (FragHdr.ofBytes ((b.drop 32).take 64)).plen
  else 64 ≤ b.length && b.length % 64 = 0 && b.length ≤ 64 + 64 * 16

/-- An opened packet: a fragment of the partner for Meld, or the body of a control message. -/
def State.felvarOpened (s : State) (d : Nat) (e : PEntry) (h : Felvar) (b text : List Byte) : State :=
  if h.typ = 2 then (s.ctlBody d e.idx h.src h.sess text).ctlPump d
  else
    let f := FragHdr.ofBytes ((b.drop 32).take 64)
    if f.job ≠ h.job then s.dropWan d 5
    else (s.track d e (h.src % 2) f).courierTake d (srcSite h.src) f text

/-- Steps 4 to 6 of R413 with the packet's key. -/
def State.felvarKeyed (s : State) (d : Nat) (e : PEntry) (h : Felvar) (k : RxKey) (b : List Byte) : State :=
  if ¬ felvarLength b then s.dropWan d 5
  else
    let n := if h.typ = 1 then 96 else 32
    let work := cipClocks (if h.typ = 1 then 64 else 32) (b.length - n - 16)
    let s := (s.tally d R.wan_t_rx).updCip d fun x => { x.rxPut k with opens := cipEnter x.opens (h.typ = 1) work }
    let aad := if h.typ = 1 then (b.drop 32).take 64 else b.take 32
    match gcmOpen (k.key.take 32) (k.key.drop 32 ++ beBytes 8 h.pn) aad (b.drop n) with
    | some text => ((s.tally d R.cip_t_open).rxGood d k).felvarOpened d e h b text
    | none =>
      let s := s.dropCip d R.cip_t_authfail
      if s.onceASecond (assocGet e.idx (s.cp d).authAt) then
        (s.updCip d fun x => { x with authAt := assocPut e.idx s.tai x.authAt }).raise d 0x11 0x7001 (e.idx + h.src * 2 ^ 32)
      else s

/-- A packet whose key is not cached waits in the miss buffer, or is dropped when that is full. -/
def State.felvarMiss (s : State) (d n src : Nat) (b : List Byte) : State :=
  if (s.cp d).miss.length < 64 then (s.updCip d fun x => { x with miss := x.miss ++ [b] }).tally d R.cip_t_miss
  else
    let s := s.dropCip d R.cip_t_mdrop
    if s.onceASecond (s.cp d).mdropAt then
      (s.updCip d fun x => { x with mdropAt := some s.tai }).raise d 0x11 0x7007 (n + src * 2 ^ 32)
    else s

/-- A Felvar packet is handled by R413; where its key is not cached, `miss` says what becomes of it. -/
def State.felvarWith (s : State) (d : Nat) (b : List Byte) (miss : State → PEntry → Felvar → State) : State :=
  let h := Felvar.ofBytes b
  if ¬ felvarGood b ∨ ¬ s.felvarOpen d then s.dropWan d 5
  else match s.felvarEntry d h with
    | none => s.dropWan d 5
    | some e =>
      let sender := [e.idx, h.src, h.gen, h.sess]
      let outside : Bool := match (s.cp d).top sender with
        | some t => h.epoch + 1 < t || t + 1 < h.epoch
        | none => false
      if outside then s.dropCip d R.cip_t_ewin
      else match (s.cp d).rxFind sender h.epoch with
        | some k => s.felvarKeyed d e h k b
        | none => miss s e h

/-- A Felvar packet that has passed R408. -/
def State.felvar (s : State) (d : Nat) (b : List Byte) : State := s.felvarWith d b fun s e h => s.felvarMiss d e.idx h.src b

/-- Whether two packets are opened by one key (R415). -/
def Felvar.sameKey (a b : Felvar) : Bool :=
  a.src = b.src && a.site = b.site && a.job = b.job && a.gen = b.gen && a.sess = b.sess && a.epoch = b.epoch

/-- KEY_MISS_DERIVED (R420): the key of the oldest packet in the miss buffer is derived, and the packets that wait for it are opened, in
their order. -/
def execKeyMissDerived (d : Fin 2) (s : State) : Host.Outcome State Fault Refusal :=
  match (s.cp d).miss with
  | [] => .next s
  | b :: rest =>
    let waits (p : List Byte) : Bool := (Felvar.ofBytes b).sameKey (Felvar.ofBytes p)
    let s := s.updCip d fun x => { x with miss := rest.filter fun p => !waits p }
    let s := s.felvarWith d b fun s e h =>
      let s := s.rxDerive d e.idx h.src h.gen h.sess h.epoch
      match (s.cp d).rxFind [e.idx, h.src, h.gen, h.sess] h.epoch with
      | some k => s.felvarKeyed d e h k b
      | none => s
    .next ((rest.filter waits).foldl (fun s p => s.felvarWith d p fun s _ _ => s) s)

/-- Whether port `d` receives: it is UP, or in CAL entered from UP (R406, R435). -/
def State.receives (s : State) (d : Nat) : Bool := s.portSt d = 3 || (s.portSt d = 1 && (s.wn d).fromUp)

/-- The bytes of the frame that carries a Felvar packet of `n` bytes, with its FCS. -/
def State.frameBytes (s : State) (d n : Nat) : Nat :=
  n + 26 + (if s.flag d F.wan_ctl_vlan then 4 else 0) + (if s.flag d F.wan_ctl_v4 then 20 else 40)

/-- A packet of a type that has passed R408 arrives; its frame is not spelled out. -/
def State.packetIn (s : State) (d typ : Nat) (b : List Byte) : State :=
  if ¬ s.receives d ∨ beAt b 1 1 ≠ typ then s else (s.tally d R.wan_t_rxb 0 (s.frameBytes d b.length)).felvar d b

/-- BULK (R413): a BULK packet arrives in a frame that has passed R408. -/
def execBulk (d : Fin 2) (packet : List Byte) (s : State) : Host.Outcome State Fault Refusal := .next (s.packetIn d 1 packet)

/-- CTL (R413, R427): a CTL packet arrives in a frame that has passed R408. -/
def execCtl (d : Fin 2) (packet : List Byte) (s : State) : Host.Outcome State Fault Refusal := .next (s.packetIn d 2 packet)

/-! ## Frames (R408) -/

/-- A received frame as read: destination and source MAC, the VID of a tag, EtherType, and what follows. -/
structure EthFrame where
  dst : Nat
  src : List Byte
  vid : Option Nat
  typ : Nat
  data : List Byte
deriving DecidableEq, Repr

/-- A frame without its FCS. -/
def EthFrame.ofBytes (b : List Byte) : EthFrame :=
  let dst := beAt b 0 6
  let src := (b.drop 6).take 6
  if beAt b 12 2 = 0x8100 then ⟨dst, src, some (beAt b 14 2 % 4096), beAt b 16 2, b.drop 18⟩
  else ⟨dst, src, none, beAt b 12 2, b.drop 14⟩

/-- The PTP multicast addresses (R457). -/
def isPtpMac (m : Nat) : Bool := m = 0x01005E000181 || m = 0x333300000181 || m = 0x011B19000000

/-- Step 1 of R408, but for the FCS: addresses and tag. -/
def State.frameFor (s : State) (d : Nat) (f : EthFrame) : Bool :=
  (f.dst = s.fld d F.wan_mac_mac || (f.dst = 0xFFFFFFFFFFFF && f.typ = 0x0806) || isPtpMac f.dst) &&
    (if s.flag d F.wan_ctl_vlan then f.vid = some (s.fld d F.wan_vlan_vid) else f.vid.isNone)

/-- Whether a frame is IPv6 (0x86DD) or IPv4 (0x0800). -/
def EthFrame.v4 (f : EthFrame) : Bool := f.typ = 0x0800

/-- The bytes of a frame's IP header. -/
def EthFrame.ipLen (f : EthFrame) : Nat := if f.v4 then 20 else 40

/-- The UDP datagram of a frame. -/
def EthFrame.udp (f : EthFrame) : List Byte := (f.data.drop f.ipLen).take (beAt f.data (f.ipLen + 4) 2)

/-- Whether a frame is a neighbour solicitation. -/
def EthFrame.isNs (f : EthFrame) : Bool := f.typ = 0x86DD && beAt f.data 6 1 = 58 && beAt f.data 40 1 = 135

/-- Whether a frame is one of PTP by its transport (R457): Ethernet, or UDP over IP; an IPv6 packet with extension headers is none, and an
IPv4 packet with options or a fragment is none (R3). -/
def EthFrame.isPtp (f : EthFrame) : Bool :=
  let port := beAt f.data (f.ipLen + 2) 2
  let udp : Bool := if f.v4 then beAt f.data 0 1 = 0x45 && beAt f.data 6 2 % 0x4000 = 0 && beAt f.data 9 1 = 17
    else beAt f.data 6 1 = 17
  f.typ = 0x88F7 || (isPtpMac f.dst && (f.typ = 0x0800 || f.typ = 0x86DD) && udp && (port = 319 || port = 320))

/-- Step 5 of R408: own address, lengths, and checksum. -/
def State.datagramGood (s : State) (d : Nat) (f : EthFrame) : Bool :=
  let b := f.data
  let src := if f.v4 then (b.drop 12).take 4 else (b.drop 8).take 16
  let dst := if f.v4 then (b.drop 16).take 4 else (b.drop 24).take 16
  let n := beAt b (f.ipLen + 4) 2
  let total := if f.v4 then beAt b 2 2 else 40 + beAt b 4 2
  dst = s.ownIp d f.v4 && 8 ≤ n && total = f.ipLen + n && total ≤ b.length &&
    onesSum (pseudoHeader src dst n ++ f.udp) = 0xFFFF

/-- The tally number of the first of steps 3 to 6 of R408 that an IP frame fails. -/
def State.ipFails (s : State) (d : Nat) (f : EthFrame) : Option Nat :=
  let b := f.data
  let port := beAt b (f.ipLen + 2) 2
  if ¬ f.v4 ∧ beAt b 6 1 ≠ 17 then some 4
  else if f.v4 ∧ (beAt b 0 1 ≠ 0x45 ∨ beAt b 6 2 % 0x4000 ≠ 0 ∨ beAt b 9 1 ≠ 17) then some 5
  else if ¬ s.datagramGood d f then some 5
  else if port ≠ s.fld d F.wan_udp_dport ∧ port ≠ 319 ∧ port ≠ 320 then some 5
  else none

/-! ## Answers (R407) -/

/-- The answer to an ARP request that names the own address. -/
def State.arpAnswer (s : State) (d : Nat) (f : EthFrame) : State :=
  let b := f.data
  let own := s.ownIp d true
  if s.portSt d ≠ 3 ∨ ¬ s.flag d F.wan_ctl_nd ∨ beAt b 0 6 ≠ 0x000108000604 ∨ beAt b 6 2 ≠ 1 ∨ (b.drop 24).take 4 ≠ own then s
  else
    let body := beBytes 6 0x000108000604 ++ beBytes 2 2 ++ beBytes 6 (s.fld d F.wan_mac_mac) ++ own ++ (b.drop 8).take 10
    s.sendFrame d (s.etherBytes d f.src (s.fld d F.wan_vlan_pcp_ctl) 0x0806 body)

/-- The answer to a neighbour solicitation that names the own address: solicited, with the link-layer address. -/
def State.nsAnswer (s : State) (d : Nat) (f : EthFrame) : State :=
  let b := f.data
  let own := s.ownIp d false
  if s.portSt d ≠ 3 ∨ ¬ s.flag d F.wan_ctl_nd ∨ (b.drop 48).take 16 ≠ own then s
  else
    let dst := (b.drop 8).take 16
    let body (c : Nat) : List Byte := beBytes 2 0x8800 ++ beBytes 2 c ++ beBytes 4 0x60000000 ++ own ++ beBytes 2 0x0201 ++
      beBytes 6 (s.fld d F.wan_mac_mac)
    let sum := onesSum (own ++ dst ++ beBytes 4 32 ++ beBytes 4 58 ++ body 0)
    let ip := beBytes 4 (6 * 2 ^ 28 + s.fld d F.wan_ipo_dscp_ctl * 2 ^ 22) ++ beBytes 2 32 ++ beBytes 1 58 ++
      beBytes 1 (s.fld d F.wan_ipo_hop) ++ own ++ dst ++ body (0xFFFF - sum)
    s.sendFrame d (s.etherBytes d f.src (s.fld d F.wan_vlan_pcp_ctl) 0x86DD ip)

/-- A frame that has passed step 1 is handled by steps 2 to 7 of R408; a PTP message is the time unit's own command. -/
def State.frameTaken (s : State) (d : Nat) (f : EthFrame) : State :=
  if f.typ = 0x0806 then s.arpAnswer d f
  else if f.isNs then s.nsAnswer d f
  else if f.isPtp then s
  else if f.typ ≠ 0x0800 ∧ f.typ ≠ 0x86DD then s.dropWan d 5
  else match s.ipFails d f with
    | some t => s.dropWan d t
    | none => if beAt f.udp 2 2 = s.fld d F.wan_udp_dport then s.felvar d (f.udp.drop 8) else s

/-- A frame reaches port `d`: its bytes without the FCS, and whether the FCS is correct. -/
def State.frameIn (s : State) (d : Nat) (b : List Byte) (fcs : Bool) : State :=
  if ¬ s.receives d then s
  else
    let f := EthFrame.ofBytes b
    let s := s.tally d R.wan_t_rxb 0 (b.length + 4)
    if ¬ fcs ∨ ¬ s.frameFor d f then s.dropWan d 5 else s.frameTaken d f

/-- ETHERNET_FRAME (R408): a frame is received and checked in order. -/
def execEthernetFrame (d : Fin 2) (frame : List Byte) (fcs : Bool) (s : State) : Host.Outcome State Fault Refusal :=
  .next (s.frameIn d frame fcs)

/-- ARP_REQUEST (R407): a good frame with an ARP request is received. -/
def execArpRequest (d : Fin 2) (frame : List Byte) (s : State) : Host.Outcome State Fault Refusal :=
  .next (if (EthFrame.ofBytes frame).typ = 0x0806 then s.frameIn d frame true else s)

/-- NEIGHBOR_SOLICITATION (R407): a good frame with a neighbour solicitation is received. -/
def execNeighborSolicitation (d : Fin 2) (frame : List Byte) (s : State) : Host.Outcome State Fault Refusal :=
  .next (if (EthFrame.ofBytes frame).isNs then s.frameIn d frame true else s)

end Sys2Proof.Machine
end

