-- ==== Sys2Proof/Machine/WanPort.lean ====
section
/-! DEFINITION. The states of a WAN port, its settings, and what a key that becomes ready lets go (R406, R415, R435 to R437, R600). -/

namespace Sys2Proof.Machine

/-- Traffic that is held is sent in order once the port sends (R435). -/
def State.sendHeld (s : State) (d : Nat) : State :=
  if ¬ s.sends d then s
  else
    let l := (s.wn d).held
    let s := s.updWan d fun x => { x with held := [], late := false, hdropSeen := false }
    (l.foldl (fun s f => f.2.foldl (fun s n => s.sendCopy d n f.1) s) s).ctlPump d

/-- Traffic that is held goes by the routes of R436. -/
def State.shedHeld (s : State) (d : Nat) : State :=
  let l := (s.wn d).held
  ((s.updWan d fun x => { x with held := [] }).rerouteAll d l).ctlPump d

/-- Felvar opens on port `d`: `boot.stat` shows it, and what waits is sent (R600). -/
def State.openFelvar (s : State) (d : Nat) : State :=
  if ¬ s.felvarOpen d then s
  else
    let s := s.setFld 0 (if d = 0 then F.boot_stat_wan0 else F.boot_stat_wan1) 1
    s.sendHeld d

/-- Port `d` enters UP: event 0x3001 with the state left. -/
def State.portUp (s : State) (d : Nat) : State :=
  let from_ := s.portSt d
  let s := (s.setFld d F.wan_stat_state 3).setFld d F.wan_stat_lanes 0xFF
  let s := s.updWan d fun x => { x with fromUp := false }
  (s.raise d 0x10 0x3001 from_).sendHeld d

/-- Port `d` is lost and goes DOWN: first recorded, event 0x3002 (R406, R442). -/
def State.portLost (s : State) (d cause : Nat) : State :=
  let st := s.portSt d
  let up := s.receives d
  let s := (s.recordFirst d F.wan_ff_valid (cause * 16 + st)).raise d 0x10 0x3002 (cause * 16 + st)
  let s := (s.setFld d F.wan_stat_state 0).setFld d F.wan_stat_lanes 0
  let s := s.updWan d fun x => { x with fromUp := false, late := true }
  ((if up then s.ptpPortDown d else s)).shedHeld d

/-- Port `d` starts: it leaves DOWN for CAL when it is enabled and run has been released (R406, R600). -/
def State.portStart (s : State) (d : Nat) : State :=
  if s.portSt d = 0 ∧ s.flag d F.wan_ctl_en ∧ s.released then
    (s.setFld d F.wan_stat_state 1).updWan d fun x => { x with fromUp := false }
  else s

/-- WAN_RETRY_TIMER (R406): 100 ms after a loss a port in DOWN with auto = 1 starts CAL. -/
def execWanRetryTimer (d : Fin 2) (s : State) : Host.Outcome State Fault Refusal :=
  .next (if s.flag d F.wan_ctl_auto then s.portStart d else s)

/-- WAN_CAL_DONE (R406, R435): the transmit PLL locks; a CAL from DOWN goes on to TRAIN, one from UP to UP. -/
def execWanCalDone (d : Fin 2) (s : State) : Host.Outcome State Fault Refusal :=
  if s.portSt d ≠ 1 then .next s
  else if (s.wn d).fromUp then .next (s.portUp d)
  else .next (s.setFld d F.wan_stat_state 2)

/-- WAN_CAL_TIMEOUT (R406): CAL lasts 20 ms. -/
def execWanCalTimeout (d : Fin 2) (s : State) : Host.Outcome State Fault Refusal :=
  .next (if s.portSt d = 1 then s.portLost d 0 else s)

/-- WAN_CAL_HOLD_TIMEOUT (R436, R600): traffic has been held for 2 ms, in CAL entered from UP or with Felvar closed. -/
def execWanCalHoldTimeout (d : Fin 2) (s : State) : Host.Outcome State Fault Refusal :=
  .next (if s.holds d then (s.updWan d fun x => { x with late := true }).shedHeld d else s)

/-- WAN_TRAIN_DONE (R406): the lanes are trained and the PCS has lock. -/
def execWanTrainDone (d : Fin 2) (s : State) : Host.Outcome State Fault Refusal :=
  .next (if s.portSt d = 2 then s.portUp d else s)

/-- WAN_TRAIN_TIMEOUT (R406): TRAIN lasts 50 ms. -/
def execWanTrainTimeout (d : Fin 2) (s : State) : Host.Outcome State Fault Refusal :=
  .next (if s.portSt d = 2 then s.portLost d 1 else s)

/-- WAN_PCS_LOSS (R406): an UP port has no PCS lock for 1 ms. -/
def execWanPcsLoss (d : Fin 2) (s : State) : Host.Outcome State Fault Refusal :=
  .next (if s.portSt d = 3 then s.portLost d 2 else s)

/-- WAN_TX_PLL_LOSS (R406, R435): an UP port enters CAL and holds what it has to send. -/
def execWanTxPllLoss (d : Fin 2) (s : State) : Host.Outcome State Fault Refusal :=
  if s.portSt d ≠ 3 then .next s
  else
    let s := (s.setFld d F.wan_stat_state 1).updWan d fun x => { x with fromUp := true, late := false }
    .next (s.ptpPortDown d)

/-- A write of `wan.ctl` has changed en (R406, R437): 1 to 0 takes the port DOWN, 0 to 1 starts it. -/
def State.onWanCtl (s : State) (d : Nat) : State :=
  if s.flag d F.wan_ctl_en then s.portStart d else if s.portSt d = 0 then s else s.portLost d 3

/-- A write of `wan.ip6_lo`: both halves take effect together (R437). -/
def State.onIp6Lo (s : State) (d : Nat) : State :=
  s.updWan d fun x => { x with ip6 := s.reg d R.wan_ip6_hi * 2 ^ 64 + s.reg d R.wan_ip6_lo }

/-- PAIR_SECRET_UNWRAP_DONE (R414): the unwrap ends; a wrong integrity check, or no key-encryption key in the fuses, sets fail; the first
secret of an enabled engine opens Felvar (R600). -/
def execPairSecretUnwrapDone (d : Fin 2) (s : State) : Host.Outcome State Fault Refusal :=
  match (s.cp d).load with
  | none => .next s
  | some l =>
    let s := (s.updCip d fun y => { y with load := none }).setFld d F.cip_ld_busy 0
    let s := s.setFld d F.cip_ld_go 0
    match if l.mixed then none else s.boot.fuses.kek.bind fun k => keyUnwrap k l.wrapped with
    | some key => .next (((s.setFld d F.cip_ld_fail 0).placeSecret d l key).openFelvar d)
    | none => .next ((s.setFld d F.cip_ld_fail 1).raise d 0x11 0x7005 (l.pair + l.gen * 256))

/-- KEY_DERIVATION_DONE (R415, R417, R418, R421): the derivation for pair `n` ends, and control messages that waited may go. -/
def execKeyDerivationDone (d : Fin 2) (n : Fin 64) (s : State) : Host.Outcome State Fault Refusal :=
  .next ((s.keyDerived d n).ctlPump d)

/-- Traffic held by a port counts its clocks (R435, R444). -/
def State.holdClock (s : State) (d : Nat) : State :=
  if s.holds d ∧ (s.wn d).held ≠ [] then s.tally d R.wan_t_hold else s

end Sys2Proof.Machine
end

