-- ==== Sys2Proof/Machine/Power.lean ====
section
/-! DEFINITION. The power controller: the cap loop, the filler, region clocks and rails, temperature and coolant (R650 to R665, R675). -/

namespace Sys2Proof.Machine

/-- Change the power controller. -/
def State.updPwr (s : State) (f : PowerState → PowerState) : State := { s with pwr := f s.pwr }

/-- The power controller raises an event of class 0xB, the first of which `pwr.ff` records (R677, R680). -/
def State.pwrRaise (s : State) (code detail : Nat) : State :=
  (s.recordFirst 0 F.pwr_ff_valid (code * 2 ^ 32 + detail % 2 ^ 32)).raise 0 0x18 code detail

/-! ## Throttling (R651, R653) -/

/-- θ of region `r`: the largest of the cap loop's, the thermal and the brake's. -/
def State.theta (s : State) (r : Nat) : Nat :=
  max (max s.pwr.thetaCap (s.pwr.therm.getD r 0)) (if s.flag 0 F.pwr_stat_brake then s.fld 0 F.pwr_brake_th else 0)

/-- The registers show θ. -/
def State.showTheta (s : State) : State :=
  let s := (List.range 16).foldl (fun s r => s.setFld 0 F.pwr_rclk_theta (s.theta r) r) s
  s.setFld 0 F.pwr_stat_theta ((List.range 16).foldl (fun m r => max m (s.theta r)) 0)

/-- BRAKE_ASSERT (R653, R656): PWR_BRAKE_N is held low for 1 µs; the filler stops. -/
def execBrakeAssert (s : State) : Host.Outcome State Fault Refusal :=
  .next ((s.setFld 0 F.pwr_stat_brake 1).updPwr fun x => { x with phi := 0 }).showTheta

/-- BRAKE_RELEASE (R653). -/
def execBrakeRelease (s : State) : Host.Outcome State Fault Refusal := .next (s.setFld 0 F.pwr_stat_brake 0).showTheta

/-! ## The cap loop and the filler (R650, R652, R654 to R656) -/

/-- The mean of the last millisecond's samples, in W. -/
def PowerState.mean (x : PowerState) : Nat :=
  if x.samples.isEmpty then 0 else sumNat (x.samples.map (·.1)) / (x.samples.length * 10)

/-- The ceiling in W: the cap, or the lower value of the ramp or of bad coolant (R652, R654, R665). -/
def State.ceiling (s : State) : Nat :=
  let c := s.fld 0 F.pwr_cap_cap
  let c := if s.flag 0 F.pwr_ctl_ramp then min c (s.pwr.mean + s.fld 0 F.pwr_ramp_up) else c
  if s.flag 0 F.pwr_ctl_cool ∧ s.flag 0 F.pwr_stat_cool_bad then min c (s.fld 0 F.pwr_cool_cap) else c

/-- The floor in W (R654, R655). -/
def State.floorW (s : State) : Nat :=
  let f := s.fld 0 F.pwr_floor_w
  if s.flag 0 F.pwr_ctl_ramp then max f (s.pwr.mean - s.fld 0 F.pwr_ramp_dn) else f

/-- The sample's source: Assay's power, when its last word is valid and came within 20 µs; else the reason why not, 0 invalid, 1
stopped. -/
def PowerState.source (x : PowerState) : Except Nat Nat :=
  match x.export_ with
  | some (p, true, age) => if age < 2 then .ok p else .error 1
  | some (_, false, age) => .error (if age < 2 then 0 else 1)
  | none => .error 1

/-- The source of the samples, with event 0xB004 at each change (R650). -/
def State.takeSource (s : State) (est : Nat) : State × Nat × Bool :=
  let was := s.flag 0 F.pwr_stat_src
  let age (s : State) : State := s.updPwr fun x => { x with export_ := x.export_.map fun e => (e.1, e.2.1, e.2.2 + 1) }
  match s.pwr.source with
  | .ok p =>
    let s := if was then s else s.pwrRaise 0xB004 2
    (age (s.setFld 0 F.pwr_stat_src 1), p, true)
  | .error why =>
    let s := if was then s.pwrRaise 0xB004 why else s
    ((age (s.setFld 0 F.pwr_stat_src 0)).tally 0 R.pwr_t_est, est, false)

/-- θ_cap and φ after a sample: `up` and `low` are what is compared with the ceiling and the floor, all in 0.01 W (R652, R655, R656). -/
def capStep (theta phi up low ceil floor hyst : Nat) (fill : Bool) : Nat × Nat :=
  let phi := if ¬ fill then 0
    else if ceil < floor ∧ ceil < up then 0
    else if low < floor then min (phi + 1) 16
    else if floor + hyst < low then phi - 1 else phi
  let theta := if ceil < up then min (theta + 2) 12 else if up + hyst < ceil then theta - 1 else theta
  (theta, phi)

/-- POWER_SAMPLE (R650, R652, R654, R655): a sample every 10 µs; `est` is the controller's own estimate in 0.1 W. While the filler still
runs with the floor above the ceiling, it stops before θ_cap rises (R656). -/
def execPowerSample (est : Nat) (s : State) : Host.Outcome State Fault Refusal :=
  let q := s.takeSource est
  let s := q.1
  let p := q.2.1
  let up := if q.2.2 then p * 10 else p * 11
  let low := if q.2.2 then p * 10 else p * 9
  let s := (s.setFld 0 F.pwr_stat_p p).updPwr fun x => { x with samples := ((p, x.thetaCap) :: x.samples).take 100 }
  let ceil := s.ceiling
  let x := s.pwr
  let fill := s.flag 0 F.pwr_ctl_floor && !s.flag 0 F.pwr_stat_brake
  let n := capStep x.thetaCap x.phi up low (100 * ceil) (100 * s.floorW) (100 * s.fld 0 F.pwr_cap_hyst) fill
  let theta := if 100 * ceil < up ∧ ceil < s.floorW ∧ fill ∧ x.phi ≠ 0 then x.thetaCap else n.1
  let s := if x.thetaCap = 0 ∧ theta ≠ 0 ∧ 100000 ≤ x.zeroN then s.pwrRaise 0xB001 (ceil + p / 10 * 2 ^ 16) else s
  let s := s.updPwr fun y => { y with thetaCap := theta, phi := n.2, zeroN := if theta = 0 then min 100000 (y.zeroN + 1) else 0 }
  let s := if theta = 0 then s else s.tally 0 R.pwr_t_cap
  let s := if s.flag 0 F.pwr_stat_brake then s.tally 0 R.pwr_t_brake else s
  .next s.showTheta

/-- Filler in one clock (R655): every matrix engine with no MMA in progress runs it in φ of 16 clocks. -/
def State.fillClock (s : State) : State :=
  if s.pwr.phi ≤ s.clk % 16 then s
  else
    let n := sumNat (s.clusters.map fun c => (c.engines.filter fun e => e.flight.isEmpty).length)
    if n = 0 then s else s.tally 0 R.pwr_t_fill 0 n

/-! ## Rails and region clocks (R657 to R660) -/

/-- The voltage of region `r` at step `n`, in mV (R657). -/
def State.regionMv (s : State) (r n : Nat) : Nat := ((560 + 5 * n : Nat) + signed 6 (s.fld 0 F.pwr_rclk_vofs r)).toNat

/-- The field of `pwr.avs` of a rail. -/
def avsFld (d : Nat) : Fld := if d = 0 then F.pwr_avs_v0 else F.pwr_avs_v1

/-- The highest step that the target of a region's rail allows. -/
def State.allowedStep (s : State) (r : Nat) : Nat :=
  let mv := s.fld 0 (avsFld (dieOfRegion r))
  let ok := (List.range 39).filter fun n => s.regionMv r n + 25 ≤ mv
  ok.getLast?.getD 10

/-- The step that a region may run at: the step asked for, its ceiling, and what its rail allows. -/
def State.stepOf (s : State) (r req : Nat) : Nat := min (min req (s.pwr.ceil.getD r 38)) (s.allowedStep r)

/-- A new target of a rail is written over PMBus (R658); the word leaves as millivolts (assumption 78). -/
def State.setRail (s : State) (d mv : Nat) : State :=
  let old := s.fld 0 (avsFld d)
  if mv = old then s
  else
    let s := (s.setFld 0 (avsFld d) mv).emit (.pmbus d mv)
    s.updPwr fun x => { x with retry := assocPut d (old, 0) x.retry }

/-- The voltage that the regions of a die need with region `r` at step `n`: with avs the largest of them and 25 mV, else 800 mV. -/
def State.railNeed (s : State) (d r n : Nat) : Nat :=
  if ¬ s.flag 0 F.pwr_ctl_avs then 800
  else (List.range 8).foldl
    (fun m i =>
      let q := 8 * d + i
      max m (s.regionMv q (if q = r then n else s.fld 0 F.pwr_rclk_eff q) + 25)) 0

/-- A change of a region's clock starts (R659): a rail that must rise is written first. -/
def State.dvfsStart (s : State) (r req : Nat) : State :=
  let d := dieOfRegion r
  let need := s.railNeed d r (min req (s.pwr.ceil.getD r 38))
  let s := if s.fld 0 (avsFld d) < need then s.setRail d need else s
  (s.setFld 0 F.pwr_rclk_busy 1 r).updPwr fun x => { x with dvfs := assocPut r ⟨req, none⟩ x.dvfs }

/-- A write of `pwr.rclk[r].req` (R659): the change starts, or is held while one runs. -/
def State.onRclk (s : State) (r : Nat) : State :=
  let req := s.fld 0 F.pwr_rclk_req r
  if s.flag 0 F.pwr_rclk_busy r then
    s.updPwr fun x => { x with dvfs := x.dvfs.map fun e => if e.1 = r then (r, { e.2 with held := some req }) else e }
  else s.dvfsStart r req

/-- A region runs at a step; its rail falls when no region needs its present voltage. -/
def State.runStep (s : State) (r n : Nat) : State :=
  let d := dieOfRegion r
  let s := s.setFld 0 F.pwr_rclk_eff n r
  s.setRail d (s.railNeed d r n)

/-- DVFS_DONE (R659): region `r`'s PLL has relocked at the new step, and a held write begins. -/
def execDvfsDone (r : Fin 16) (s : State) : Host.Outcome State Fault Refusal :=
  match assocGet r.val s.pwr.dvfs with
  | none => .next s
  | some x =>
    let s := (s.updPwr fun y => { y with dvfs := assocDel r y.dvfs }).setFld 0 F.pwr_rclk_busy 0 r
    let s := (s.runStep r (s.stepOf r x.step)).tally 0 R.pwr_t_dvfs
    .next (match x.held with
      | some n => s.dvfsStart r n
      | none => s)

/-- The ceiling step of every region moves, and the regions whose clock is not being changed follow (R652). -/
def State.moveCeil (s : State) (f : Nat → Nat → Nat) : State :=
  let s := s.updPwr fun x => { x with ceil := (List.range 16).map fun r => f r (x.ceil.getD r 38) }
  (List.range 16).foldl
    (fun s r =>
      if s.flag 0 F.pwr_rclk_busy r then s
      else
        let req := s.fld 0 F.pwr_rclk_req r
        let d := dieOfRegion r
        let need := s.railNeed d r (min req (s.pwr.ceil.getD r 38))
        let s := if s.fld 0 (avsFld d) < need then s.setRail d need else s
        s.runStep r (s.stepOf r req)) s

/-- CAP_SLOW_STEP (R652): every millisecond the ceiling steps fall while the mean θ_cap is 4 or more, and rise once it has been 0 for
10 ms, not above the requested step. -/
def execCapSlowStep (s : State) : Host.Outcome State Fault Refusal :=
  let l := s.pwr.samples
  let zero := l.all fun p => p.2 = 0
  let s := s.updPwr fun x => { x with zeroMs := if zero then min 10 (x.zeroMs + 1) else 0 }
  if 4 * l.length ≤ sumNat (l.map (·.2)) ∧ l ≠ [] then .next (s.moveCeil fun _ c => max 10 (c - 1))
  else if s.pwr.zeroMs = 10 then
    .next (s.moveCeil fun r c => if c < s.fld 0 F.pwr_rclk_req r then c + 1 else c)
  else .next s

/-- A write of `pwr.ctl` (R675): a filler that is disabled stops at the next sample by itself, and the rails follow avs. -/
def State.onPwrCtl (s : State) : State :=
  [0, 1].foldl (fun s d => s.setRail d (s.railNeed d (8 * d) (s.fld 0 F.pwr_rclk_eff (8 * d)))) s

/-- PMBUS_STATUS_POLL (R660): STATUS_WORD of both regulators; a fault bit not seen before raises event 0xB005. -/
def execPmbusStatusPoll (st0 st1 : Fin 65536) (s : State) : Host.Outcome State Fault Refusal :=
  let one (s : State) (d st : Nat) (addr : Fld) : State :=
    let old := (assocGet d s.pwr.faults).getD 0
    let s := if st - (st &&& old) = 0 then s else s.pwrRaise 0xB005 (s.fld 0 addr + st * 2 ^ 16)
    s.updPwr fun x => { x with faults := assocPut d st x.faults }
  .next (one (one s 0 st0 F.pwr_pmb_addr0) 1 st1 F.pwr_pmb_addr1)

/-- PMBUS_WRITE_RETRY (R660): the last write of a rail was not acknowledged and is sent again, now acknowledged or not; after three
retries the previous target is kept, and the regions stay at the steps that it allows. -/
def execPmbusWriteRetry (d : Fin 2) (ack : Bool) (s : State) : Host.Outcome State Fault Refusal :=
  match assocGet d.val s.pwr.retry with
  | none => .next s
  | some (old, n) =>
    let s := s.emit (.pmbus d (s.fld 0 (avsFld d)))
    if ack then .next (s.updPwr fun x => { x with retry := assocDel d x.retry })
    else if n < 2 then .next (s.updPwr fun x => { x with retry := assocPut d (old, n + 1) x.retry })
    else
      let addr := s.fld 0 (if d.val = 0 then F.pwr_pmb_addr0 else F.pwr_pmb_addr1)
      let s := (s.updPwr fun x => { x with retry := assocDel d x.retry }).setFld 0 (avsFld d) old
      let s := s.pwrRaise 0xB005 (addr + 128)
      .next ((List.range 8).foldl
        (fun s i =>
          let r := 8 * d.val + i
          s.setFld 0 F.pwr_rclk_eff (min (s.fld 0 F.pwr_rclk_eff r) (s.allowedStep r)) r) s)

/-! ## Temperature (R505, R661 to R663) -/

/-- The die of a sensor. -/
def sensorDie (i : Nat) : Nat := if i < 16 then i / 8 else (i - 16) / 8

/-- The hottest sensor of a die, in 0.125 °C. -/
def hottest (temps : List Int) (d : Nat) : Option Int :=
  (temps.zipIdx.filter fun t => sensorDie t.2 = d).foldl (fun m t => match m with
    | none => some t.1
    | some v => some (max v t.1)) none

/-- Whole degrees in a detail. -/
def degrees (t : Int) : Nat := wrap 8 (t / 8)

/-- θ_therm of a region after a reading. -/
def thermStep (thr : Nat) (t : Int) (n : Nat) : Nat :=
  if (8 * thr : Int) ≤ t then min (n + 1) 12 else if t ≤ 8 * ((thr : Int) - 2) then n - 1 else n

/-- The thermal margin of a die becomes too small (R505 source 4). -/
def State.warnThermal (s : State) (d : Nat) (old new : List Int) : State :=
  let lim : Int := 8 * (95 - (s.fld d F.rec_therm_margin : Int))
  let at_ (l : List Int) : Bool := (hottest l d).any fun t => lim ≤ t
  if at_ new ∧ ¬ at_ old then s.warn d 4 else s

/-- THERMAL_STEP (R661, R662, R505): the 32 sensors are read, in 0.125 °C: regions 0 to 15, then hotspots. -/
def execThermalStep (temps : List Int) (s : State) : Host.Outcome State Fault Refusal :=
  let temps := temps.take 32
  let old := s.pwr.temps
  let thr := s.fld 0 F.pwr_therm_thr
  let s := s.updPwr fun x => { x with
    temps, therm := (List.range 16).map fun r => match temps[r]? with
      | some t => thermStep thr t (x.therm.getD r 0)
      | none => x.therm.getD r 0 }
  let s := if s.pwr.therm.any (· ≠ 0) then s.tally 0 R.pwr_t_therm else s
  let s := match temps.zipIdx.find? fun t => (760 : Int) ≤ t.1 with
    | some t => if s.pwr.warned then s
      else (s.updPwr fun x => { x with warned := true }).pwrRaise 0xB002 (t.2 + degrees t.1 * 256)
    | none => if temps.all fun t => t ≤ (744 : Int) then s.updPwr fun x => { x with warned := false } else s
  .next ((s.warnThermal 0 old temps).warnThermal 1 old temps).showTheta

/-- Every link of a die, and its WAN port, is DOWN with no traffic settled (R663). -/
def State.cutPorts (s : State) (d : Nat) : State :=
  let s := (List.range 18).foldl
    (fun s i => (s.setLink d i 0).updLk d i fun l => { Lk.fresh with q := l.q }) s
  (s.setFld d F.wan_stat_state 0).setFld d F.wan_stat_lanes 0

/-- THERMAL_TRIP (R662, R663): a trip comparator fires for a sensor (0x80 + s for stack s) at a temperature: THERM_N is asserted, and the
device latches in its trip state until device reset. -/
def execThermalTrip (sensor : Fin 256) (deg : Fin 256) (s : State) : Host.Outcome State Fault Refusal :=
  if s.flag 0 F.pwr_stat_trip then .next s
  else
    let s := ((s.setFld 0 F.pwr_stat_trip 1).emit (.pin "THERM_N" false)).pwrRaise 0xB003 (sensor + deg * 256)
    .next ((((s.cutPorts 0).cutPorts 1).setBoth F.brg_stat_up 0).setBoth F.brg_stat_train 0)

/-! ## Coolant (R664, R665) -/

/-- COOLANT_READ (R665): inlet temperature in 0.125 °C, and pulses of the flow meter in a second. -/
def execCoolantRead (t : Int) (pulses : Nat) (s : State) : Host.Outcome State Fault Refusal :=
  let flow := min 0xFFFF (pulses * 6000 / s.fld 0 F.pwr_cool_kfac)
  let v := wrap 16 t * 2 ^ 16 + flow
  let s := s.setReg 0 R.pwr_coolst v
  if ¬ s.flag 0 F.pwr_ctl_cool then .next s
  else
    let hot : Bool := t < 120 || 320 < t
    let dry : Bool := flow < 400 || 800 < flow
    if hot ∨ dry then
      let s := (s.updPwr fun x => { x with coolGood := 0 }).setFld 0 F.pwr_stat_cool_bad 1
      .next (s.pwrRaise 0xB006 (v + (if hot ∧ dry then 2 else if dry then 1 else 0) * 2 ^ 32))
    else
      let s := s.updPwr fun x => { x with coolGood := min 100 (x.coolGood + 1) }
      .next (if s.pwr.coolGood = 100 then s.setFld 0 F.pwr_stat_cool_bad 0 else s)

end Sys2Proof.Machine
end

