-- ==== Sys2Proof/Machine/Boot.lean ====
section
/-! DEFINITION. Device reset, and the states of the loader up to the records: fuses, probe, stage, verify, failed copies, redo, run release
and the recovery load (R581 to R584, R588 to R598, R648, R649, R663, R673). -/

namespace Sys2Proof.Machine

/-- Change the loader. -/
def State.updBoot (s : State) (f : BootState → BootState) : State := { s with boot := f s.boot }

/-- The loader's state (R588). -/
def State.phase (s : State) : Nat := s.fld 0 F.boot_stat_phase

/-- The loader enters a state. -/
def State.setPhase (s : State) (n : Nat) : State := s.setFld 0 F.boot_stat_phase n

/-! ## Device reset (R593, R648, R649) -/

/-- The registers of some units, die 0 and die 1. -/
def keepUnits (us : List Nat) (l : List (Nat × Word64)) : List (Nat × Word64) :=
  l.filter fun e => us.contains (e.1 % 0x4000000 / 0x100000)

/-- Both compute dies at their reset values, but for the units `keep`: queue, clocks, free values, what has left the block, memory
(assumption 81), fuses and Assay stay. The quota epoch is drawn at random (R268). -/
def State.diesReset (s : State) (keep : List Nat) : State :=
  { State.reset with
    pending := s.pending, clk := s.clk, fresh := s.fresh + 1, relClk := s.relClk, epoch := s.free % 2 ^ 32, out := s.out
    csr := keepUnits keep s.csr
    err := if keep.contains 0x16 then s.err else State.reset.err
    mem := { s.mem with coh := [], memWait := [], cohWait := [], pathWait := [] }
    asy := { s.asy with reportSeq0 := 0, reportSeq1 := 0, bad := 0, dropSeen := false }
    boot := { s.boot with staged := 0, pos := 0, table := none, late := false } }

/-- Device reset with a cause (R649): 0 power-on, 1 SYS_RST_N, 2 undervoltage of `rail`, 3 reload. FAIL_N and THERM_N are released; a
power-on finds memory without contents. -/
def State.deviceReset (s : State) (cause rail : Nat) : State :=
  let pins (s : State) : State :=
    let s := if s.flag 0 F.rec_stat_fail ∨ s.flag 1 F.rec_stat_fail then s.emit (.pin "FAIL_N" true) else s
    if s.tripped then s.emit (.pin "THERM_N" true) else s
  let s := (pins s).diesReset []
  let s := if cause = 0 then { s with mem := { MemState.reset with repairs := ⟨[], s.mem.repairs.hard⟩ } } else s
  ((s.setFld 0 F.pwr_rcause_cause cause).setFld 0 F.pwr_rcause_rail (if cause = 2 then rail else 0)).updBoot fun x =>
    { x with hold := some cause }

/-- DEVICE_RESET (R593, R649): a cause applies device reset, which holds until reset release. -/
def execDeviceReset (cause : Fin 4) (rail : Fin 16) (s : State) : Host.Outcome State Fault Refusal := .next (s.deviceReset cause rail)

/-- UNDERVOLTAGE (R648): a rail stays below its window for 2 µs; without VDDA the part is powered off, and the next start is a power-on. -/
def execUndervoltage (rail : Fin 16) (s : State) : Host.Outcome State Fault Refusal :=
  .next (if rail = 14 then s.deviceReset 0 0 else s.deviceReset 2 rail)

/-- RESET_RELEASE (R649): the cause has ended and rails, references and PLLs stand; the loader begins at FUSE. -/
def execResetRelease (s : State) : Host.Outcome State Fault Refusal :=
  .next (if s.boot.hold.isNone then s else s.updBoot fun x => { x with hold := none, start := s.clk })

/-- Both dies have left reset: HBM training starts (R234, R588). -/
def State.diesStart (s : State) : State := [0, 1].foldl (fun s d => s.setFld d F.hbm_stat_train 15) s

/-- FUSE_DONE (R588): the fuses are read and both dies leave reset. -/
def execFuseDone (s : State) : Host.Outcome State Fault Refusal :=
  .next (if s.boot.hold.isSome ∨ s.phase ≠ 1 then s else (s.setPhase 2).diesStart)

/-! ## Fuses (R596, R597, R673) -/

/-- PKHPROG (R673): Update-DR of the 400-bit register, with SYS_RST_N low or not: the key hash is fused when the key is right and none is
fused. -/
def execPkhprog (dr : BitVec 400) (low : Bool) (s : State) : Host.Outcome State Fault Refusal :=
  .next (if bits dr.toNat 384 16 = 0x504B ∧ low ∧ s.boot.fuses.pkh.isNone then
    s.updBoot fun x => { x with fuses := { x.fuses with pkh := some (leBytes 48 dr.toNat) } }
  else s)

/-- A boot command is refused: event 0x9015 with its register's offset and the reason: 0 key, 1 state, 2 path, 3 limit (R608, R681). -/
def State.bootRefused (s : State) (off reason : Nat) : State := s.raise 0 0x01 0x9015 (off + reason * 2 ^ 32)

/-- A write of `boot.svnup` (R596). What is refused for want of a newer image is given no reason by R608: a free value (assumption 82). -/
def State.onSvnup (s : State) (key : Nat) : State :=
  let f := s.boot.fuses
  let img := s.fld 0 F.boot_svn_img
  if key ≠ 0x5356 then s.bootRefused 0x20 0
  else if s.phase ≠ 8 then s.bootRefused 0x20 1
  else if f.raises = 64 then s.bootRefused 0x20 3
  else if img ≤ f.svnMin then s.drew.bootRefused 0x20 (s.free % 4)
  else (s.updBoot fun x => { x with fuses := { f with svnMin := img, raises := f.raises + 1 } }).raise 0 0x01 0x9016 0

/-- A write of `boot.kekctl` with burn (R597): the four words are fused and cleared, or the burn fails for good: a free value says which. -/
def State.onKekctl (s : State) (host : Bool) (key : Nat) : State :=
  let f := s.boot.fuses
  if key ≠ 0x4B45 then s.bootRefused 0xA0 0
  else if host then s.bootRefused 0xA0 2
  else if f.kek.isSome ∨ f.kekBad then s.bootRefused 0xA0 1
  else
    let k := ((List.range 4).map fun i => leBytes 8 (s.reg 0 R.boot_kek i)).flatten
    let s := (List.range 4).foldl (fun s i => s.setReg 0 R.boot_kek 0 i) s
    if s.free % 2 = 0 then (s.drew.updBoot fun x => { x with fuses := { f with kek := some k } }).raise 0 0x01 0x9016 1
    else (s.drew.updBoot fun x => { x with fuses := { f with kekBad := true } }).raise 0 0x01 0x9016 0x101

/-- `boot.kcv` (R597): bits [31:0] of the encryption of a zero block under the key. -/
def Fuses.kcv (f : Fuses) : Nat :=
  match f.kek with
  | some k => leNat ((aesEncrypt k (List.replicate 16 0)).take 4)
  | none => 0

/-! ## Copies (R582 to R584, R588, R589) -/

/-- The start of the staging area, and its length (R589). -/
def stageBase : Nat := 0x8000100000
def stageLen : Nat := 0x2000000

/-- Whether the header is one of this part: constants, reserved fields and the range of ilen (R583). -/
def headerGood (h : List Byte) : Bool :=
  let ilen := leAt h 0x0C 4
  leAt h 0 4 = 0x4B4F5250 && leAt h 4 2 = 1 && leAt h 6 2 = 0x36 && leAt h 8 1 = 0xA0 && leAt h 9 3 = 0 && leAt h 0x14 4 = 0 &&
    leAt h 0x20 32 = 0 && ilen % 16 = 0 && 16 ≤ ilen && ilen ≤ 33554176

/-- The bytes of a copy that a header asks for: header and record area; the header alone when ilen is out of range. -/
def copyLen (h : List Byte) : Nat :=
  let ilen := leAt h 0x0C 4
  if 16 ≤ ilen ∧ ilen ≤ 33554176 then 256 + ilen else 256

/-- The staged copy. -/
def State.staged (s : State) : List Byte := s.peek stageBase s.boot.staged

/-- The checks of R584 after the first: none, or the failure cause. -/
def State.copyCause (s : State) (b : List Byte) : Option Nat :=
  let h := b.take 256
  let hash := beNat (sha384 (h.take 0xA0 ++ b.drop 256))
  if ¬ headerGood h then some 2
  else
    match s.boot.fuses.pkh with
    | none => some 11
    | some k =>
      if sha384 ((h.take 0xA0).drop 0x40) ≠ k then some 3
      else if leAt h 0x10 4 < s.boot.fuses.svnMin then some 4
      else if p384.verify (leAt h 0x40 48, leAt h 0x70 48) hash (leAt h 0xA0 48) (leAt h 0xD0 48) then none
      else some 5

/-- The loader enters FAILED: event 0x9012 (R588). -/
def State.bootFailed (s : State) : State :=
  (s.setPhase 15).raise 0 0x01 0x9012 (s.fld 0 F.boot_stat_causea + s.fld 0 F.boot_stat_causeb * 16)

/-- A copy's failure is recorded (R588, R605): its cause, `boot.ff` and event 0x9010. -/
def State.copyRecord (s : State) (copy cause roff : Nat) : State :=
  let s := s.setFld 0 (if copy = 2 then F.boot_stat_causeb else F.boot_stat_causea) cause
  let s := s.recordFirst 0 F.boot_ff_valid (copy * 2 ^ 56 + cause * 2 ^ 52 + roff)
  s.raise 0 0x01 0x9010 (copy + cause * 16 + roff * 2 ^ 32)

/-- The copy that the loader works on fails: copy A gives way to copy B, after REDO if its records have run; any other ends in FAILED. -/
def State.copyFails (s : State) (cause roff : Nat) : State :=
  let copy := s.fld 0 F.boot_stat_copy
  let was := s.phase
  let s := s.copyRecord copy cause roff
  if copy = 1 then if was = 5 then s.setPhase 6 else (s.setPhase 3).setFld 0 F.boot_stat_copy 2 else s.bootFailed

/-- PROBE_DONE (R581): the read mode that SFDP allows, 0 for a NOR that does not answer or has no good table; its size in MiB. -/
def execProbeDone (mode : Fin 4) (size : Nat) (s : State) : Host.Outcome State Fault Refusal :=
  if s.boot.hold.isSome ∨ s.phase ≠ 2 then .next s
  else if mode = 0 then .next ((s.copyRecord 1 1 0).copyRecord 2 1 0).bootFailed
  else
    let s := ((s.setFld 0 F.boot_nor_mode mode).setFld 0 F.boot_nor_clk (if mode = 3 then 200 else if mode = 2 then 100 else 50)).setFld
      0 F.boot_nor_size size
    .next ((s.setPhase 3).setFld 0 F.boot_stat_copy 1)

/-- STAGE_DONE (R584, R589): the bytes that the NOR gave from the start of the copy are staged; too few fail it with cause 1. -/
def execStageDone (nor : List Byte) (s : State) : Host.Outcome State Fault Refusal :=
  if s.boot.hold.isSome ∨ s.phase ≠ 3 then .next s
  else
    let n := copyLen nor
    if nor.length < 256 ∨ nor.length < n then .next (s.copyFails 1 0)
    else .next (((s.sramWrite stageBase (nor.take n) 0).updBoot fun x => { x with staged := n }).setPhase 4)

/-- VERIFY_DONE (R584, R588): the staged copy passes and its records begin, or it fails. -/
def execVerifyDone (s : State) : Host.Outcome State Fault Refusal :=
  if s.boot.hold.isSome ∨ s.phase ≠ 4 then .next s
  else
    match s.copyCause s.staged with
    | some c => .next (s.copyFails c 0)
    | none => .next ((s.updBoot fun x => { x with pos := 0 }).setPhase 5)

/-- REDO_DONE (R588): both dies are reset but for the `boot` and `err` units, and copy B is staged. -/
def execRedoDone (s : State) : Host.Outcome State Fault Refusal :=
  if s.boot.hold.isSome ∨ s.phase ≠ 6 then .next s
  else
    let c := s.fld 0 F.pwr_rcause_cause
    let r := s.fld 0 F.pwr_rcause_rail
    let s := s.diesReset [0x01, 0x16]
    let s := ((s.setFld 0 F.pwr_rcause_cause c).setFld 0 F.pwr_rcause_rail r).diesStart
    .next ((s.setPhase 3).setFld 0 F.boot_stat_copy 2)

/-! ## Run release (R588, R590, R598) -/

/-- The links and the bridge leave DOWN with the values that the records left, and so do the WAN ports (R590). -/
def State.runStarts (s : State) : State :=
  let s := (s.setBoth F.brg_stat_train 1).setBoth F.brg_stat_up 0
  let s := [0, 1].foldl
    (fun s d => (List.range 18).foldl (fun s i => if bit (s.fld d F.lnk_ctl_en) i then s.linkTrain d i else s) s) s
  (s.portStart 0).portStart 1

/-- RUN_RELEASE (R588, R590, R598): CLEAR has written zero over the staged bytes; the device proceeds. -/
def execRunRelease (s : State) : Host.Outcome State Fault Refusal :=
  if s.boot.hold.isSome ∨ s.phase ≠ 7 then .next s
  else
    let s := (s.sramWrite stageBase (List.replicate s.boot.staged 0) 0).updBoot fun x => { x with staged := 0 }
    let us := (s.clk - s.boot.start) / 1900
    let s := ({ s with relClk := s.clk }.setPhase 8).setFld 0 F.boot_tload_us us
    let s := s.stage F.boot_stat_loaded
    .next (s.raise 0 0x01 0x9011 (s.fld 0 F.boot_stat_copy + us % 2 ^ 32 * 2 ^ 32)).runStarts

/-- READY_TIMEOUT (R598): `boot.cfg.tmo` seconds after run release the device is not ready: event 0x9014 once, with the missing bits. -/
def execReadyTimeout (s : State) : Host.Outcome State Fault Refusal :=
  if ¬ s.released ∨ s.fld 0 F.boot_cfg_tmo = 0 ∨ s.flag 0 F.boot_stat_ready ∨ s.boot.late then .next s
  else .next ((s.updBoot fun x => { x with late := true }).raise 0 0x01 0x9014 (255 - s.reg 0 R.boot_stat % 256))

/-! ## The recovery load (R595) -/

/-- A write of `boot.ctl` with rload (R595): in FAILED the image at the start of the staging area is verified, and its records begin; in
any other state it is refused. -/
def State.onRload (s : State) : State :=
  if s.phase ≠ 15 then s.bootRefused 0x30 1
  else
    let h := s.peek stageBase 256
    let n := 256 + leAt h 0x0C 4
    if stageLen < n then s.copyRecord 3 1 0
    else
      match s.copyCause (s.peek stageBase n) with
      | some c => s.copyRecord 3 c 0
      | none => ((s.updBoot fun x => { x with staged := n, pos := 0 }).setFld 0 F.boot_stat_copy 3).setPhase 5

end Sys2Proof.Machine
end

