-- ==== Sys2Proof/Machine/Hbm.lean ====
section
/-! DEFINITION. Commands of the HBM controllers, the memory-side cache and write combining (R214 to R235, R241 to R250). -/

namespace Sys2Proof.Machine

/-! ## Scheduling (R216) -/

/-- The request that a controller serves next: one passed over 4 times, else the oldest whose row is open, else the oldest. -/
def pickRequest (rows : List (Nat × Nat)) (q : List HbmReq) : Option Nat :=
  match indexWhere (fun r => 4 ≤ r.passed) q with
  | some i => some i
  | none =>
    match indexWhere (fun r => assocGet (hbmLoc r.g).bank rows = some (hbmLoc r.g).row) q with
    | some i => some i
    | none => if q.isEmpty then none else some 0

/-- The queue without its request `i`; older ones have been passed over once more. -/
def takeRequest (i : Nat) (q : List HbmReq) : List HbmReq :=
  (q.take i).map (fun r => { r with passed := r.passed + 1 }) ++ q.drop (i + 1)

/-- The direction that a controller serves: the only queue with work, or batch by batch when both hold work. -/
def nextDirection (p : Pc) : Bool :=
  if p.wq.isEmpty then false
  else if p.rq.isEmpty then true
  else if p.left = 0 then !p.writing else p.writing

/-- A read request is served: its data comes from the cache if the granule has been filled meanwhile, which it then touches as its hint
gives, else from the queue of writes or the array, and allocates as its hint gives (R216, R229, R230). -/
def State.serveRead (s : State) (d : Nat) (q : HbmReq) (ecc : EccList) : State :=
  let x : State × List Byte × Nat := match s.lineOf d q.g with
    | some l => (s.readTouch d l q.hint, l.data, l.poison)
    | none =>
      let x := s.ctlGranule d q.g q.chunks ecc
      x.1.readFill d q.g q.hint q.chunks x.2.1 x.2.2
  let r := sliceOf x.2.1 x.2.2 q.off q.len
  x.1.emit (.memData (granuleAddr d q.g + q.off) r.1 (r.2 ≠ 0))

/-- Whether a stack has settled: trained and up, or down (R234). -/
def State.stackSettled (s : State) (d i : Nat) : Bool := bit (s.fld d F.hbm_stat_up) i || s.stackDown d i

/-- PC `p` of die `d` serves the request `r`, the `i`th of its write queue (`w`) or read queue (R216, R222). -/
def State.serveNext (s : State) (d p i : Nat) (w : Bool) (r : HbmReq) (ecc : EccList) : State :=
  let s := (s.serveTurn d p w).updPc d p fun x =>
    if w then { x with wq := takeRequest i x.wq }.refill d else { x with rq := takeRequest i x.rq }
  if w then s.serveWrite d r else (s.serveRead d r ecc).memResume

/-! ## Refresh, temperature, error windows (R217 to R225) -/

/-- The corrected chunk goes back to the array: stored check bytes that were wrong become right (R224). -/
def State.writeCorrected (s : State) (k : Nat) : State :=
  match assocGet k s.mem.oddCheck with
  | none => { s with mem := { s.mem with ce := markSet false k s.mem.ce } }
  | some c =>
    match Config.rsDecode k (s.peek (64 * k) 64) (leBytes 8 c) with
    | some fixed => (s.poke (64 * k) (fixed.take 64)).mark k false
    | none => s

/-- The granule at place `n` of a PC's scrub walk (R224). -/
def scrubGranule (p n : Nat) : Nat := n * 256 + (p ^^^ hashQ n)

/-- The maintenance access of a slot (R224): the oldest corrective write-back, else, when `scrub`, the scrubber's next granule,
whose chunks meet `ecc`. `hbm.scrub` acts at the start of a pass (R241). -/
def State.maintenance (s : State) (d p : Nat) (scrub : Bool) (ecc : EccList) : State :=
  match (s.pc d p).cwb with
  | k :: r => (s.updPc d p fun x => { x with cwb := r }).writeCorrected k
  | [] =>
    let n := (s.pc d p).scrub
    if scrub ∧ (n ≠ 0 ∨ s.flag d F.hbm_scrub_en) then
      let s := s.updPc d p fun x => { x with scrub := (n + 1) % 0x300000 }
      let k := granuleAddr d (scrubGranule p n) / 64
      (List.range 4).foldl (fun s c => (s.chunkRead (k + c) (ecc.at c)).1) s
    else s

/-- REFRESH_SLOT (R217, R219, R224): the slot refreshes the PC, closing its rows, and ends with one maintenance access;
`collisions` requests were delayed by it. -/
def execRefreshSlot (d : Fin 2) (p : Fin 256) (collisions : Nat) (scrub : Bool) (ecc : EccList) (s : State) :
    Host.Outcome State Fault Refusal :=
  if ¬ bit (s.fld d F.hbm_stat_up) (p.val / 64) then .next s
  else
    let s := (s.tally d R.hbm_t_ref (p.val / 64)).tally d R.hbm_t_refcol (p.val / 64) collisions
    .next ((s.updPc d p fun x => { x with rows := [] }).maintenance d p scrub ecc)

/-- HBM_TEMP_REPORT (R218): stack `i` reports `t` °C; from 86 °C it is hot, from 82 °C down cool. -/
def execHbmTempReport (d : Fin 2) (i : Fin 4) (t : Nat) (s : State) : Host.Outcome State Fault Refusal :=
  let hot := s.fld d F.hbm_stat_hot
  let was := bit hot i
  let now := if 86 ≤ t then true else if t ≤ 82 then false else was
  let s := s.setFld d ⟨R.hbm_temp, 8 * i.val, 8⟩ t
  if now = was then .next s
  else
    let s := s.setFld d F.hbm_stat_hot (if now then hot ||| 2 ^ i.val else hot - 2 ^ i.val)
    .next (s.raise d 0x08 0x1004 (4 * d.val + i.val + b2n now * 256 + t % 256 * 2 ^ 16))

/-- The corrected-error window of a die restarts (R225). -/
def State.cewRestart (s : State) (d : Nat) : State := s.updMem d fun m => { m with cewCount := [], cewDone := [] }

/-- CEW_WINDOW_END (R225): a window of `hbm.cew.win` seconds ends and a new one begins. -/
def execCewWindowEnd (d : Fin 2) (s : State) : Host.Outcome State Fault Refusal := .next (s.cewRestart d)

/-! ## The memory-side cache (R227 to R233) -/

/-- A read comes to the cache (R229 to R232): a hit is answered at once, and a miss enters the PC's read queue; a queue of 32 takes no
more (R216). It joins the queue, too, behind an earlier read of its granule (R231). -/
def State.cacheRead (s : State) (pa n tag : Nat) : State :=
  let d := ownerDie pa
  let g := granuleOf pa
  let p := (hbmLoc g).pc
  let h := s.hintOf d pa
  let behind := (s.pc d p).rq.any fun q => q.g = g
  match if behind then none else s.lineOf d g with
  | some x =>
    let r := sliceOf x.data x.poison (pa % 256) n
    (s.readHit d x h).emit (.memData pa r.1 (r.2 ≠ 0))
  | none =>
    if 32 ≤ (s.pc d p).rq.length then s
    else
      let q : HbmReq := ⟨g, s.missMask d h (pa % 256) n, 0, [], 0, h, pa % 256, n, tag⟩
      (s.tally d R.hcache_t_rmiss).updPc d p fun x => { x with rq := x.rq ++ [q] }

/-- HBM_CACHE_READ (R229 to R232): a read of `n` bytes at `pa`, within one granule. While its stack is out of service or its slice
changes it waits (R231, R235). -/
def execHbmCacheRead (pa n tag : Nat) (s : State) : Host.Outcome State Fault Refusal :=
  if s.tripped then .next s else
  let d := ownerDie pa
  let g := granuleOf pa
  if ¬ isHbm pa ∨ n = 0 ∨ 256 < pa % 256 + n then .fault (.noSuchAddress pa)
  else if s.owned d (hbmLoc g).stack ∨ s.sliceChanges d g then .next (s.memRequest ⟨d, false, pa, n, none, false, []⟩)
  else .next (s.cacheRead pa n tag)

/-- HBM_CACHE_WRITE (R229, R232): a write of bytes at `pa`, within one granule, is taken into the cache or the
write-combining buffer, or waits behind an earlier read of its granule (R231, R235). -/
def execHbmCacheWrite (pa : Nat) (data : List Byte) (poison : Bool) (s : State) : Host.Outcome State Fault Refusal :=
  if s.tripped then .next s else
  if ¬ isHbm pa ∨ data = [] ∨ 256 < pa % 256 + data.length then .fault (.noSuchAddress pa)
  else .next (s.memRequest ⟨ownerDie pa, false, pa, data.length, some data, poison, []⟩)

/-- WC_AGE_EXPIRE (R232): the entry of granule `g` reaches its age limit and is written to HBM. -/
def execWcAgeExpire (d : Fin 2) (g : Nat) (s : State) : Host.Outcome State Fault Refusal :=
  if s.tripped then .next s else
  match s.wcOf d g with
  | none => .next s
  | some e => .next ((s.wcFree d g).wcOut d e)

/-- Lines and entries that satisfy `p` are written back and leave (R232, R235, R248). -/
def State.flushGranules (s : State) (d : Nat) (p : Nat → Bool) : State :=
  let ls := (s.memd.get d).lines.filter fun l => p l.g
  let es := (s.memd.get d).wc.filter fun e => p e.g
  let s := ls.foldl (fun s l => (s.writeBack d l).lineDrop d l.g) s
  es.foldl (fun s e => (s.wcFree d e.g).wcOut d e) s

/-- A write of 1 to `hcache.flush.go` (R248): every line and entry is written back; the count of dirty lines is kept for the
event. -/
def State.onFlush (s : State) (d : Nat) : State :=
  if s.flag d F.hcache_flush_busy then s
  else
    let dirty := ((s.memd.get d).lines.filter (·.dirty)).length
    let s := (s.setFld d F.hcache_flush_go 1).setFld d F.hcache_flush_busy 1
    (s.updMem d fun m => { m with flushed := dirty }).flushGranules d fun _ => true

/-- HCACHE_FLUSH_DONE (R248): go and busy clear and event 0x1010 gives the lines written back. -/
def execHcacheFlushDone (d : Fin 2) (s : State) : Host.Outcome State Fault Refusal :=
  if ¬ s.flag d F.hcache_flush_busy then .next s
  else
    let n := (s.memd.get d).flushed
    .next (((s.setFld d F.hcache_flush_go 0).setFld d F.hcache_flush_busy 0).raise d 0x09 0x1010 n)

/-! ## Training and ownership (R234, R235) -/

/-- HBM_TRAIN_DONE (R234): a training attempt of stack `i` ends; after 3 failures the stack is down. -/
def execHbmTrainDone (d : Fin 2) (i : Fin 4) (ok : Bool) (s : State) : Host.Outcome State Fault Refusal :=
  let train := s.fld d F.hbm_stat_train
  if ¬ bit train i then .next s
  else if ok then .next ((s.setFld d F.hbm_stat_train (train - 2 ^ i.val)).orFld d F.hbm_stat_up (2 ^ i.val))
  else
    let n := (assocGet i.val (s.memd.get d).trainTries).getD 0 + 1
    let s := s.updMem d fun m => { m with trainTries := assocPut i.val n m.trainTries }
    if n < 3 then .next s
    else
      let s := (s.setFld d F.hbm_stat_train (train - 2 ^ i.val)).orFld d F.hbm_stat_down (2 ^ i.val)
      .next (s.raise d 0x08 0x1001 (4 * d.val + i.val))

/-- Stack `i` of die `d` writes back what it holds; if it is still wanted, ready is set and event 0x1006 raised (R235). -/
def State.stackReady (s : State) (d i : Nat) : State :=
  let s := s.flushGranules d fun g => (hbmLoc g).stack = i
  let s := (s.memd.get d).pcs.foldl
    (fun s p => if p.1 / 64 = i then
        ((s.pc d p.1).writes.foldl (fun s q => s.serveWrite d q) s).updPc d p.1 fun x => { x with wq := [], port := [] }
      else s) s
  let s := s.updMem d fun m => { m with flushOwn := m.flushOwn.filter fun x => x ≠ i }
  if s.owned d i then (s.orFld d F.hbm_own_ready (2 ^ i)).raise d 0x08 0x1006 (4 * d + i) else s.memResume

/-- HBM_OWN_READY (R235): the stack's lines and entries are written back and its admitted requests are complete; if it is
still wanted, ready is set and event 0x1006 raised. -/
def execHbmOwnReady (d : Fin 2) (i : Fin 4) (s : State) : Host.Outcome State Fault Refusal :=
  if ¬ (s.memd.get d).flushOwn.contains i.val then .next s
  else if (s.memd.get d).pcs.any fun p => p.1 / 64 = i.val ∧ p.2.rq ≠ [] then .next s
  else .next (s.stackReady d i)

end Sys2Proof.Machine
end

