-- ==== Sys2Proof/Machine/Tgen.lean ====
section
/-! DEFINITION. Traffic generators and checkers (R236, R237) and the repair window's commands (R238 to R240). -/

namespace Sys2Proof.Machine

/-! ## Traffic generators -/

/-- Write data and expected read data of a chunk (R236, R251 dpat). -/
def tgenBytes (seed P chunk dpat : Nat) : List Byte :=
  if dpat = 2 then List.replicate 64 0
  else if dpat = 3 then List.replicate 64 0xFF
  else
    let l := Config.tgenData seed P chunk dpat
    (l ++ List.replicate 64 0).take 64

/-- Place `n` of the space of an address pattern: chunk or granule, then bank, BG, SID, then row (R236 apat 0). -/
def tgenPlace (wide : Bool) (lo hi p n : Nat) : HbmLoc × Nat :=
  let u := if wide then 4 else 16
  let bank := n / u % 64
  let col := n % u
  let bankIdx := bank / 16 % 4 * 16 + bank / 4 % 4 * 4 + bank % 4
  let row := lo + n / (u * 64) % (hi - lo + 1)
  if wide then (⟨p / 64, p, row, bankIdx, col⟩, 0) else (⟨p / 64, p, row, bankIdx, col / 4⟩, col % 4)

/-- The place of access `n` of PC `p` (R236). -/
def tgenAccess (t : TgenRun) (P p n : Nat) : HbmLoc × Nat :=
  let wide := bit t.ctl 12
  let lo := bits t.range 0 14
  let hi := bits t.range 32 14
  match bits t.ctl 0 2 with
  | 0 => tgenPlace wide lo hi p n
  | 1 => tgenPlace wide lo hi p (Config.tgenRandom (t.seed ^^^ P) n)
  | _ => (⟨p / 64, p, if n % 2 = 0 then lo else hi, 0, 0⟩, 0)

/-- Whether access `n` reads: `rmix` of each group of 8 do (R236). -/
def tgenReads (t : TgenRun) (P n : Nat) : Bool :=
  (n % 8 + Config.tgenOrder t.seed P (n / 8)) % 8 < bits t.ctl 8 4

/-- The first bit at which two chunks differ. -/
def firstDiff (x y : List Byte) : Nat :=
  let v := leNat x ^^^ leNat y
  ((List.range 512).find? fun i => bit v i).getD 511

/-- A read is compared with the expected data; a failing chunk is counted and the first one recorded (R237, R255). -/
def State.tgenCheck (s : State) (d p : Nat) (l : HbmLoc) (chunk : Nat) (got : Chunk) (want : List Byte) : State :=
  if ¬ got.poison ∧ got.data = want then s
  else
    let s := s.count32 d F.tgen_err_count 1 p
    let b := if got.poison then 0x1FF else firstDiff got.data want
    let v := b2n got.poison * 2 ^ 57 + b * 2 ^ 48 + (l.bank / 16) * 2 ^ 22 + (l.bank / 4 % 4) * 2 ^ 20 + (l.bank % 4) * 2 ^ 18
      + l.row * 16 + chunk
    s.recordFirst d F.tgen_ffail_valid v p

/-- One access of a traffic generator: it goes to the array, past the interleave and the cache (R236); `errs` tells the error that a read
of a chunk meets there. -/
def State.tgenStep (d : Nat) (t : TgenRun) (errs : Nat → Ecc) (p : Nat) (s : State) (n : Nat) : State :=
  let P := 256 * d + p
  let x := tgenAccess t P p n
  let chunks := if bit t.ctl 12 then [0, 1, 2, 3] else [x.2]
  chunks.foldl
    (fun s c =>
      let k := granuleAddr d (hbmGranule x.1) / 64 + c
      let data := tgenBytes t.seed P k (bits t.ctl 4 4)
      if tgenReads t P n then
        let r := s.chunkRead k (errs k)
        if bit t.ctl 13 then r.1.tgenCheck d p x.1 (4 * x.1.gir + c) r.2 data else r.1
      else (s.updPc d p fun y => y.dropCwb d (hbmGranule x.1)).chunkWrite k data false)
    s

/-- The accesses that PC `p` has made through its read queue. -/
def TgenRun.done (t : TgenRun) (p : Nat) : Nat := (assocGet p t.made).getD 0

/-- PC `p` goes on to its access `n`. -/
def State.tgenRun (s : State) (d : Nat) (t : TgenRun) (errs : Nat → Ecc) (p n : Nat) : State :=
  ((List.range n).drop (t.done p)).foldl (State.tgenStep d t errs p) s

/-- The PCs that `tgen.en` enables (R253). -/
def State.tgenEnabled (s : State) (d : Nat) : List Nat :=
  (List.range 256).filter fun p => bit (s.reg d R.tgen_en (p / 64)) (p % 64)

/-- A run ends: done and, when stopped or released, aborted are set, and event 0x1020 gives the PCs with a non-zero `tgen.err` (R237,
R681). -/
def State.tgenEnd (s : State) (d : Nat) (aborted : Bool) : State :=
  let errs := ((List.range 256).filter fun p => s.fld d F.tgen_err_count p ≠ 0).length
  let s := s.updMem d fun m => { m with tgen := none }
  let s := (s.setFld d F.tgen_ctl_busy 0).orFld d F.tgen_done_done 1
  let s := if aborted then s.orFld d F.tgen_done_aborted 1 else s
  s.raise d 0x0A 0x1020 (b2n aborted + errs * 2 ^ 16)

/-- A run is cut short (R237): each of its PCs has made as many accesses as its progress, a free value, gives, and its
reads meet no error that is not in the array already. -/
def State.tgenCut (s : State) (d : Nat) : State :=
  match (s.memd.get d).tgen with
  | none => s
  | some t =>
    let cut (s : State) (p : Nat) : State :=
      s.drew.tgenRun d t (fun _ => .clean) p (t.done p + s.free % (t.cnt - t.done p + 1))
    (t.all.foldl cut s).tgenEnd d true

/-- A write of `tgen.ctl` with its new fields stored (R236, R237): stop ends a run at once; go latches the settings and
starts every enabled PC, or is refused. -/
def State.onTgenCtl (s : State) (d : Nat) (go stop : Bool) : State :=
  let s := if stop then s.tgenCut d else s
  if ¬ go then s
  else
    let ps := s.tgenEnabled d
    let ctl := s.reg d R.tgen_ctl
    let writes := bits ctl 8 4 < 8 || bit ctl 13
    let bad := if writes then ps.find? fun p => !bit (s.fld d F.hbm_own_ready) (p / 64) else none
    if (s.memd.get d).tgen.isSome then s.raise d 0x0A 0x1021 (ps.headD 0)
    else
      match bad with
      | some p => s.raise d 0x0A 0x1021 p
      | none =>
        let t : TgenRun := ⟨ctl, s.reg d R.tgen_cnt, s.reg d R.tgen_range, s.reg d R.tgen_seed, ps, []⟩
        (s.updMem d fun m => { m with tgen := some t }).setFld d F.tgen_ctl_busy 1

/-- Whether a run only reads and does not check, so that it may run on stacks in normal service (R236). -/
def TgenRun.reads (t : TgenRun) : Bool := 8 ≤ bits t.ctl 8 4 && !bit t.ctl 13

/-- PC `p`, whose queues are empty, serves the read of its generator that waits at the lowest age (R236); `ecc` are
the errors of its chunks. -/
def State.tgenServe (s : State) (d p : Nat) (ecc : EccList) : State :=
  match (s.memd.get d).tgen with
  | none => s
  | some t =>
    if t.reads ∧ p ∈ t.all ∧ t.done p < t.cnt ∧ ¬ bit (s.fld d F.hbm_own_ready) (p / 64) then
      (State.tgenStep d t (fun k => ecc.at (k % 4)) p (s.serveTurn d p false) (t.done p)).updMem d fun m =>
        { m with tgen := some { t with made := assocPut p (t.done p + 1) t.made } }
    else s

/-- HBM_REQUEST (R216, R222, R236, R247): the controller of PC `p` chooses direction and request and serves it, or, with both queues
empty, its generator's next read. -/
def execHbmRequest (d : Fin 2) (p : Fin 256) (m : ServeMeets) (s : State) : Host.Outcome State Fault Refusal :=
  if s.tripped then .next s else
  let c := s.pc d p
  if ¬ s.stackSettled d (p.val / 64) then .next s
  else if c.rq.isEmpty ∧ c.wq.isEmpty then .next (s.tgenServe d p m.ecc)
  else
    let s := s.tally d R.hbm_t_bconf (p.val / 64) (b2n m.waited)
    let w := nextDirection c
    let q := if w then c.wq else c.rq
    match pickRequest c.rows q with
    | none => .next s
    | some i =>
      match q[i]? with
      | none => .next s
      | some r => .next (s.serveNext d p i w r m.ecc)

/-- TGEN_RUN_END (R237): every enabled PC has made its accesses, and the run ends; `errs` are the errors, by
chunk, that its reads meet. -/
def execTgenRunEnd (d : Fin 2) (errs : List (Nat × Ecc)) (s : State) : Host.Outcome State Fault Refusal :=
  if s.tripped then .next s else
  match (s.memd.get d).tgen with
  | none => .next s
  | some t => .next ((t.all.foldl (fun s p => s.tgenRun d t (fun k => (assocGet k errs).getD .clean) p t.cnt) s).tgenEnd d false)

/-- A write of `hbm.own` (R235, R237): stacks newly owned start their flush; a stack released resumes service, unless its flush has yet
to finish, and loses ready; a traffic generator that runs on one ends at once. -/
def State.onOwn (s : State) (d v : Nat) : State :=
  let old := s.fld d F.hbm_own_own
  let ready := s.fld d F.hbm_own_ready
  let new := v % 16
  let free (p : Nat) : Bool := bit (ready &&& (15 - new)) (p / 64)
  let s := if (s.memd.get d).tgen.any fun t => t.all.any free then s.tgenCut d else s
  let s := (s.setFld d F.hbm_own_own new).setFld d F.hbm_own_ready (ready &&& new)
  let started := (List.range 4).filter fun i => bit new i && !bit old i
  (s.updMem d fun m => { m with flushOwn := m.flushOwn ++ started.filter fun i => !m.flushOwn.contains i }).memResume

/-! ## The repair window (R238 to R240) -/

/-- The row that `rw.sel` and `rw.addr` name: die, PC, bank and row. -/
structure RepairRow where
  stack : Nat
  pc : Nat
  bank : Nat
  row : Nat
deriving DecidableEq, Repr

/-- The row of latched select and address words (R239). -/
def repairRow (sel addr : Nat) : RepairRow :=
  ⟨bits sel 0 3, bits sel 0 2 * 64 + bits sel 3 5 * 2 + bits sel 8 1, bits addr 20 2 * 16 + bits addr 18 2 * 4 + bits addr 16 2,
    bits addr 0 16⟩

/-- The die that serves a row. -/
def RepairRow.die (r : RepairRow) : Nat := r.stack / 4

/-- The chunk (PA ÷ 64) at place `c` of a row. -/
def RepairRow.chunk (r : RepairRow) (c : Nat) : Nat :=
  granuleAddr r.die (hbmGranule ⟨r.stack % 4, r.pc, r.row, r.bank, c / 4⟩) / 64 + c % 4

/-- One number for a row, and for its bank. -/
def RepairRow.bankKey (r : RepairRow) : Nat := (r.stack * 256 + r.pc) * 64 + r.bank

/-- One number for a row. -/
def RepairRow.key (r : RepairRow) : Nat := r.bankKey * 65536 + r.row

/-- The check bytes stored with a chunk (R222, R223). -/
def State.storedCheck (s : State) (k : Nat) : List Byte :=
  let good := (Config.rsCheck k (s.peek (64 * k) 64) ++ List.replicate 8 0).take 8
  if s.poisoned k then good.map (· ^^^ 0xFF)
  else
    match assocGet k s.mem.oddCheck with
    | some c => leBytes 8 c
    | none => if s.bad k then s.freeBytes 8 else good

/-- Set a register array of the window from bytes. -/
def State.setWords (s : State) (r : Reg) (bs : List Byte) : State :=
  (List.range (bs.length / 4)).foldl (fun s i => s.setReg 0 r (leAt bs (4 * i) 4) i) s

/-- The bytes of a register array of the window. -/
def State.getWords (s : State) (r : Reg) (n : Nat) : List Byte :=
  (List.range n).foldl (fun l i => l ++ leBytes 4 (s.reg 0 r i)) []

/-- READ_ROW's effect (R240). -/
def State.readRow (s : State) (r : RepairRow) : State :=
  (List.range 16).foldl
    (fun s c =>
      let k := r.chunk c
      let data := s.peek (64 * k) 64
      let chk := s.storedCheck k
      let s := (List.range 16).foldl (fun s i => s.setReg 0 R.rw_row (leAt data (4 * i) 4) (16 * c + i)) s
      (List.range 2).foldl (fun s i => s.setReg 0 R.rw_chk (leAt chk (4 * i) 4) (2 * c + i)) s)
    s

/-- WRITE_ROW's effect (R240): data and check bytes as given. -/
def State.writeRow (s : State) (r : RepairRow) : State :=
  let row := s.getWords R.rw_row 256
  let chk := s.getWords R.rw_chk 32
  (List.range 16).foldl
    (fun s c =>
      let k := r.chunk c
      let data := (row.drop (64 * c)).take 64
      let w := (chk.drop (8 * c)).take 8
      let good := (Config.rsCheck k data ++ List.replicate 8 0).take 8
      let s := (s.poke (64 * k) data).updPc r.die r.pc fun y => y.dropCwb r.die (hbmGranule ⟨r.stack % 4, r.pc, r.row, r.bank, c / 4⟩)
      if w = good then s.mark k false
      else if w = good.map (· ^^^ 0xFF) then s.mark k true
      else
        let s := s.mark k false
        { s with mem := { s.mem with oddCheck := assocPut k (leNat w) s.mem.oddCheck } })
    s

/-- A row whose contents the spec leaves undefined holds free bytes (R240). -/
def State.loseRow (s : State) (r : RepairRow) : State :=
  (List.range 16).foldl (fun s c => ((s.poke (64 * r.chunk c) (s.freeBytes 64)).mark (r.chunk c) false).drew 64) s

/-- The spare rows left for a bank (R240). -/
def State.sparesLeft (s : State) (r : RepairRow) : Nat :=
  let used := (s.mem.repairs.soft ++ s.mem.repairs.hard).filter fun k => k / 65536 = r.bankKey
  Config.spareRows r.stack (r.pc % 64) r.bank - used.length

/-- A repair command ends without effect: fail and event 0x1032 with its cause (R240). -/
def State.repairFail (s : State) (d op stack cause : Nat) : State :=
  (s.orFld 0 F.rw_stat_fail 1).raise d 0x08 0x1032 (op + stack * 256 + cause * 2 ^ 16)

/-- A write of `rw.cmd` (R240): discarded with fail while busy; HARD_REPAIR needs its key; else the command runs with select
and address latched. -/
def State.onRwCmd (s : State) (v : Nat) : State :=
  let op := bits v 0 4
  let stack := s.fld 0 F.rw_sel_stack
  let d := stack / 4
  if s.flag 0 F.rw_stat_busy then s.repairFail d op stack 0
  else if op = 4 ∧ bits v 16 16 ≠ 0x4852 then s.repairFail d op stack 1
  else
    (s.updMem 0 fun m => { m with rw := some ⟨op, s.reg 0 R.rw_sel, s.reg 0 R.rw_addr⟩ }).setFld 0 F.rw_stat_busy 1

/-- The effect of a repair command (R240): none when a repair finds no spare row. -/
def State.repairEffect (s : State) (op : Nat) (r : RepairRow) : Option State :=
  match op with
  | 1 => some (s.readRow r)
  | 2 => some (s.writeRow r)
  | 3 =>
    if s.sparesLeft r = 0 then none
    else
      let s := s.loseRow r
      some { s with mem := { s.mem with repairs := { s.mem.repairs with soft := s.mem.repairs.soft ++ [r.key] } } }
  | 4 =>
    if s.sparesLeft r = 0 then none
    else
      let s := s.loseRow r
      some { s with mem := { s.mem with repairs := { s.mem.repairs with hard := s.mem.repairs.hard ++ [r.key] } } }
  | 5 =>
    let mine := s.mem.repairs.soft.filter fun k => k / 65536 = r.bankKey
    let s := mine.foldl (fun s k => s.loseRow { r with row := k % 65536 }) s
    some { s with mem := { s.mem with repairs :=
      { s.mem.repairs with soft := s.mem.repairs.soft.filter fun k => k / 65536 ≠ r.bankKey } } }
  | _ => some (s.setFld 0 F.rw_stat_spare (s.sparesLeft r))

/-- REPAIR_CMD_DONE (R240): the running command ends with its effect, done and event 0x1031, or fails for want of a spare. -/
def execRepairCmdDone (s : State) : Host.Outcome State Fault Refusal :=
  if s.tripped then .next s else
  match (s.memd.get 0).rw with
  | none => .next s
  | some c =>
    let r := repairRow c.sel c.addr
    let s := (s.updMem 0 fun m => { m with rw := none }).setFld 0 F.rw_stat_busy 0
    match s.repairEffect c.op r with
    | none => .next (s.repairFail r.die c.op r.stack 2)
    | some s => .next ((s.orFld 0 F.rw_stat_done 1).raise r.die 0x08 0x1031 (c.op + r.stack * 256))

end Sys2Proof.Machine
end

