-- ==== Sys2Proof/Machine/Csr.lean ====
section
/-! DEFINITION. Register accesses: what an address names, what a read returns and clears, what a write does (R7 to R14, R189, R206, R238,
R280, R323, R327, R592, R641), with the effect that each chapter gives a write of its registers. -/

namespace Sys2Proof.Machine

/-! ## What an address names (R8, R14, R238, R641) -/

/-- The element of a register array that offset `off` lies in, and the byte within it. -/
def Reg.hit (r : Reg) (off : Nat) : Option (Nat × Nat) :=
  let k := off - r.off
  let i := if r.stride = 0 then 0 else k / r.stride
  let sub := k - r.stride * i
  if r.off ≤ off ∧ i < r.count ∧ sub < r.w / 8 then some (i, sub) else none

/-- A place in register space: the register with its fields, the die half, the element and the byte within it. -/
structure CsrAt where
  spec : RegSpec
  d : Nat
  i : Nat
  sub : Nat
deriving DecidableEq, Repr

/-- The register of a unit at an offset. -/
def unitAt (u off : Nat) : Option (RegSpec × Nat × Nat) :=
  (unitRegs u).findSome? fun q => (q.reg.hit off).map fun h => (q, h.1, h.2)

/-- What a device-space address names; none at an offset that no register occupies. Package units exist in the die 0 half alone. -/
def csrAt (pa : Nat) : Option CsrAt :=
  if isRepair pa then (unitAt 0x20 (pa - rwBase)).map fun h => ⟨h.1, 0, h.2.1, h.2.2⟩
  else if isCsr pa then
    let o := pa - csrBase
    let d := o / 0x2000000
    match unitAt (o / 0x100000 % 32) (o % 0x100000) with
    | some h => if h.1.reg.kind = .pkg ∧ d = 1 then none else some ⟨h.1, d, h.2.1, h.2.2⟩
    | none => none
  else none

/-- The address of a register's element in a die half. -/
def Reg.pa (r : Reg) (d i : Nat) : Nat :=
  if r.unit = 0x20 then rwBase + r.off + r.stride * i else csrBase + d * 0x2000000 + r.unit * 0x100000 + r.off + r.stride * i

/-! ## What a read shows -/

/-- Lines with a request in progress at their home, and lines for which a die has one in progress (R206). -/
def State.trackers (s : State) (d : Nat) : Nat :=
  let busy (c : Coh) : Bool := c ≠ .I && c ≠ .S && c ≠ .M
  let home := (s.mem.coh.filter fun l => lineHome l.line = d && (l.snoop.isSome || !l.homeQ.isEmpty)).length
  let req := (s.mem.coh.filter fun l => lineHome l.line ≠ d && busy l.remote).length
  min 64 home * 2 ^ 16 + min 64 req

/-- `ctx.stat` (R278). -/
def State.ctxStat (s : State) : Nat :=
  let cached (d : Nat) : Nat := (s.ctxd.get d).cache.length
  let busy (d : Nat) : Nat := ((s.ctxd.get d).cache.filter fun e => s.ctxBusy d e.ctx).length
  busy 1 * 2 ^ 24 + cached 1 * 2 ^ 16 + busy 0 * 2 ^ 8 + cached 0

/-- `ctx.cdata` (R280). -/
def State.ctxData (s : State) : Nat :=
  let d := s.fld 0 F.ctx_csel_die
  match (s.ctxd.get d).cache.find? fun e => e.idx = s.fld 0 F.ctx_csel_entry with
  | some e =>
    2 ^ 63 + b2n (s.ctxBusy d e.ctx) * 2 ^ 62 + b2n (s.pending? d e.ctx) * 2 ^ 61 + e.quota / 2 ^ 20 % 2 ^ 32 * 2 ^ 12 + e.ctx
  | none => 0

/-- The registers of `dlr.slot` (R174). -/
def Slot.shown (k : Slot) (off : Nat) : Nat :=
  let st : Nat := match k.st with
    | .idle => 0
    | .running => 1
    | .completing => 2
  if off = 0x800 then k.ctx * 2 ^ 20 + k.loops.length % 8 * 2 ^ 17 + k.waitCode * 16 + st
  else if off = 0x808 then k.pc % 2 ^ 48 else if off = 0x810 then k.itemVa else k.entry % 4096

/-- `dlr.ddata` (R173). -/
def State.dlrData (s : State) (d : Nat) : Nat :=
  let k := s.slot (8 * d + s.fld d F.dlr_dsel_region) (s.fld d F.dlr_dsel_slot)
  let n := s.fld d F.dlr_dsel_index
  if s.flag d F.dlr_dsel_kind then (assocGet n k.flags).getD 0 else if n < 32 then (assocGet n k.sr).getD 0 else 0

/-- Flits that wait on a link: its messages' slots, 13 to a flit (R323). -/
def Lk.waiting (l : Lk) : Nat := min 4095 ((sumNat (l.q.map fun m => m.len + 1) + 12) / 13)

/-- `col.stat` (R327). -/
def State.colStat (s : State) (d : Nat) : Nat :=
  let f := s.fab.get d
  let store := sumNat (f.colls.map fun c => sumNat (c.sends.map fun x => (x.sent - x.mark + 4095) / 4096))
  min 15 f.colls.length * 2 ^ 24 + min 256 f.queue.length * 2 ^ 15 + min 32767 store

/-- The received steps that a source combines. -/
def Src.inputs : Src → List Nat
  | .sum _ _ rs _ _ => rs
  | _ => []

/-- Kitty cells that a running collective has in use (R310, R311): one for each element of which some inputs have arrived and been added
and others have not. An element with one input beside the node's own is added and read out at once. -/
def Coll.cells (c : Coll) : Nat :=
  let rs := (((c.sends.map fun x => x.src).flatten ++ (c.writes.map fun x => x.src).flatten).map Src.inputs).find? fun l =>
    1 < l.length
  match rs with
  | none => 0
  | some l =>
    let got := l.map fun i => match c.recvs[i]? with
      | some x => min x.n (8 * x.data.length / x.fmt.ebits)
      | none => 0
    if c.req.kitty ∧ c.req.sd.desc.fmt ≠ .int32 then got.foldl max 0 - got.foldl min (got.headD 0) else 0

/-- `kit.stat` (R331): cells in use; an element waits while none is free (R331). -/
def State.kitStat (s : State) (d : Nat) : Nat := min 16384 (sumNat ((s.fab.get d).colls.map Coll.cells))

/-- Whether a TRICK or BOUND of an enabled job slot is held on a die (R377). -/
def State.meldHeld (s : State) (d j : Nat) : Bool :=
  s.jobSt d j ≠ 0 && (List.range 8).any fun i => (s.rg (8 * d + i)).slots.any fun k =>
    k.st = .running && k.ctx = (s.job d j).ctx && (match k.wait with
      | .trick _ | .bound => true
      | _ => false)

/-- The value of a register as a read returns it, before its write-only fields are masked. -/
def State.regShown (s : State) (d : Nat) (r : Reg) (i : Nat) : Nat :=
  let v := s.reg d r i
  match r.unit with
  | 0x00 => v + d
  | 0x01 =>
    let f := s.boot.fuses
    if r = R.boot_svn then putBits v 0 32 f.svnMin
    else if r = R.boot_fuse then b2n f.pkh.isSome * 2 ^ 31 + (if f.kekBad then 2 else b2n f.kek.isSome) * 2 ^ 29 + f.raises
    else if r = R.boot_pkh then leNat (((f.pkh.getD []).drop (8 * i)).take 8)
    else if r = R.boot_kcv then f.kcv else v
  | 0x02 =>
    if r = R.ctx_stat then s.ctxStat else if r = R.ctx_cdata then s.ctxData
    else if r = R.ctx_fillq then (s.ctxd.get 1).fillq.length * 2 ^ 16 + (s.ctxd.get 0).fillq.length else v
  | 0x04 => if r = R.dlr_ddata then s.dlrData d else if 0x800 ≤ r.off ∧ r.off < 0xC00 then (s.slot (8 * d + i / 4) (i % 4)).shown r.off else v
  | 0x05 => if r = R.mxe_mode then putBits v 8 1 (s.fld 0 F.det_ctl_strict) else v
  | 0x06 =>
    if r = R.vxe_ch_data then
      (s.cl (64 * d + s.fld d F.vxe_ch_sel_cluster)).chain.getD (16 * s.fld d F.vxe_ch_sel_chain + s.fld d F.vxe_ch_sel_word) 0 else v
  | 0x0B => if r = R.lnk_stat then putBits v 12 12 (s.lk d i).waiting else v
  | 0x0C => if r = R.col_stat then s.colStat d else v
  | 0x0D => if r = R.kit_stat then s.kitStat d else v
  | 0x0E => if r = R.meld_job_st then putBits v 24 1 (b2n (s.meldHeld d i)) else v
  | 0x12 => if r = R.time_now then s.tai % 2 ^ 64 else v
  | 0x1C =>
    if r = R.dbg_tptr then s.dbg.trace.length
    else if r = R.dbg_tdata then leAt (s.dbg.trace.getD (s.fld 0 F.dbg_tsel_entry) []) (8 * s.fld 0 F.dbg_tsel_word) 8 else v
  | 0x1D => if r = R.brg_trk then s.trackers d else v
  | _ => v

/-- Write-only fields read as zero (R7). -/
def RegSpec.masked (q : RegSpec) (v : Nat) : Nat :=
  q.flds.foldl (fun v f => if f.acc = .wo then putBits v f.fld.lo f.fld.n 0 else v) v

/-! ## What a read clears (R7) -/

/-- A read of a counter of losses lets the next loss be reported (R181, R442, R521, R575, R619, R625, R638). -/
def State.lossRead (s : State) (d : Nat) (r : Reg) : State :=
  if r = R.err_lost then { s with err := s.err.upd d fun e => { e with report := .idle } }
  else if r = R.pcie_evlost then { s with host := { s.host with evSeen := false } }
  else if r = R.wan_drop then s.updWan d fun x => { x with dropSeen := false }
  else if r = R.asy_drop then s.updAsy fun x => { x with dropSeen := false }
  else if r = R.mgmt_err then { s with mgmt := { s.mgmt with errSeen := false } }
  else if r = R.tele_drop then { s with tele := { s.tele with dropSeen := false } }
  else if r = R.sram_carve_hit then s.updMem d fun m => { m with carveSeen := false }
  else s

/-- The RC fields that a read touches are cleared. -/
def State.clearRead (s : State) (a : CsrAt) (lo n : Nat) : State :=
  let hit := a.spec.flds.filter fun f => f.acc = .rc && f.fld.lo < lo + n && lo < f.fld.lo + f.fld.n
  if hit.isEmpty then s
  else (hit.foldl (fun s f => s.setFld a.d f.fld 0 a.i) s).lossRead a.d a.spec.reg

/-! ## What a write asks (R7, R10) -/

/-- A field after a write of the bits `m` of `v`, from its value `o`. -/
def Access.next (a : Access) (o v m : Nat) : Nat :=
  match a with
  | .rw => (o - (o &&& m)) ||| (v &&& m)
  | .ro | .rc | .wo => o
  | .w1c => o - (o &&& (v &&& m))
  | .w1s => o ||| (v &&& m)

/-- How a write changes a field: the words of the next pair secret, which no read shows, are held all the same (R446). -/
def FieldSpec.takes (f : FieldSpec) : Access := if f.fld.reg = R.cip_wrap then .rw else f.acc

/-- A register after a write. -/
def RegSpec.next (q : RegSpec) (old v m : Nat) : Nat :=
  q.flds.foldl
    (fun w f => putBits w f.fld.lo f.fld.n (f.takes.next (bits old f.fld.lo f.fld.n) (bits v f.fld.lo f.fld.n) (bits m f.fld.lo f.fld.n))) old

/-- The bits of a register that belong to a field; the others are reserved (R9). -/
def RegSpec.used (q : RegSpec) : Nat := q.flds.foldl (fun w f => w ||| (2 ^ f.fld.n - 1) * 2 ^ f.fld.lo) 0

/-- Whether a write would place a reserved encoding in a field (R10). -/
def RegSpec.reserved (q : RegSpec) (old v m : Nat) : Bool :=
  q.flds.any fun f =>
    let mk := bits m f.fld.lo f.fld.n
    let x := if f.acc = .wo then bits v f.fld.lo f.fld.n &&& mk else f.acc.next (bits old f.fld.lo f.fld.n) (bits v f.fld.lo f.fld.n) mk
    mk ≠ 0 && (f.acc = .rw || f.acc = .wo || f.acc = .w1s) && f.bad.any fun b => b.1 ≤ x && x ≤ b.2

/-- Whether the register is a first-fault register, which a 1 written to its valid bit clears as a whole (R89); `pcie.ff` is none, whose
valid bit alone is cleared (R7, R630). -/
def RegSpec.first (q : RegSpec) : Bool :=
  q.reg.w = 64 && q.reg ≠ R.det_tw_mm && q.reg ≠ R.pcie_ff && q.flds.any fun f => f.acc = .w1c && f.fld.lo = 63 && f.fld.n = 1

/-! ## Writes that are refused (R10) -/

/-- Whether a new tail of a ring passes its head (R498, R579, R629). -/
def passes (old new : Nat) : Bool :=
  let head := old / 2 ^ 32
  let tail := old % 2 ^ 32
  (head + 2 ^ 32 - tail) % 2 ^ 32 < (new % 2 ^ 32 + 2 ^ 32 - tail) % 2 ^ 32

/-- Whether bits of a register other than those of `free` would change. -/
def changes (old new free : Nat) : Bool := (old ||| free) ≠ (new ||| free)

/-- Whether an enabled window of `size` + 1 units of 2 MiB at unit `base` lies wholly within an area. -/
def inArea (base size lo hi : Nat) : Bool := lo ≤ base * 0x200000 && (base + size + 1) * 0x200000 ≤ hi

/-- Whether `brg.cwin[n]` may take a value (R189). -/
def State.cwinLegal (s : State) (n v : Nat) : Bool :=
  let span (w : Nat) : Nat × Nat := (bits w 16 31, bits w 47 16 + 1)
  let x := span v
  !bit v 63 || (inArea x.1 (x.2 - 1) 0 (2 * hbmHalf) &&
    (List.range 8).all fun k =>
      let w := s.reg 0 R.brg_cwin k
      k = n || !bit w 63 || !rangesMeet x.1 x.2 (span w).1 (span w).2)

/-- Whether a write of a register with the new value `new` is a reserved encoding by a rule of its chapter, or is not allowed in the
present state with event 0x9002. -/
def State.refuses (s : State) (d : Nat) (r : Reg) (i old new : Nat) : Bool :=
  match r.unit with
  | 0x02 => r = R.ctx_base && ((List.range 2).any fun k => !isMemory (new + k * 0xFFFFF))
  | 0x09 => r = R.hcache_hw && !inArea (bits new 26 18) (bits new 44 17) (d * hbmHalf) ((d + 1) * hbmHalf)
  | 0x0A => r = R.tgen_range && bits new 32 14 < bits new 0 14
  | 0x0F => (r = R.codec_ww && bit new 63 && !s.wwLegal d i new) || (r = R.codec_wm && s.flag d F.codec_ww_en i)
  | 0x10 => (r = R.wan_rst_base || r = R.wan_rst_geo) && s.jobSt d i ≠ 0
  | 0x12 => r = R.time_ctl && ((List.range 4).any fun k => 4 < bits new (4 * k) 4)
  | 0x13 =>
    (r = R.det_tw && s.fld 0 F.det_stat_tw = 1) || ((r = R.det_dr || r = R.det_tr) && bit old 63 && changes old new (2 ^ 63)) ||
      ((r = R.det_dr_ptr || r = R.det_tr_ptr) && passes old new)
  | 0x14 => r = R.ckp_desc && (let n := s.fld 0 F.ckp_stat_state; 2 ≤ n && n ≤ 4)
  | 0x17 => (r = R.asy_hring && s.flag 0 F.asy_ctl_en) || (r = R.asy_hptr && passes old new)
  | 0x18 => r = R.pwr_pmb && s.flag 0 F.pwr_ctl_avs
  | 0x19 =>
    let on := s.flag 0 F.tele_ctl_en
    ((r = R.tele_ring || r = R.tele_rsz) && on && old ≠ new) ||
      (r = R.tele_ctl && on && bit old 30 ≠ bit new 30) || (r = R.tele_ptr && passes old new) ||
      (r = R.tele_list && ((on && old ≠ new) || !isCsr (bits new 0 52)))
  | 0x1A =>
    (r = R.pcie_win && new % 2 ^ s.host.bar2 ≠ 0) || (r = R.pcie_evq_base && s.flag 0 F.pcie_evq_ctl_en && old ≠ new) ||
      (r = R.pcie_evq_ctl && bit old 31 && changes old new (2 ^ 31)) || (r = R.pcie_evq_ptr && passes old new)
  | 0x1C => (r = R.dbg_tctl && s.flag 0 F.dbg_tctl_busy && changes old new (3 * 2 ^ 30)) ||
      (r = R.dbg_tmask && s.flag 0 F.dbg_tctl_busy && old ≠ new)
  | 0x1D => r = R.brg_cwin && !s.cwinLegal i new
  | _ => false

/-! ## What a write does beyond storing its fields -/

/-- Every Meld slot of both dies is OFF (R372). -/
def State.meldOff (s : State) : Bool := (List.range 8).all fun i => s.jobSt (i / 4) (i % 4) = 0

/-- A capture starts (R628): with no trigger it records at once. -/
def State.traceGo (s : State) : State :=
  let s := ((s.setFld 0 F.dbg_tctl_go 0).setFld 0 F.dbg_tctl_full 0).setFld 0 F.dbg_tctl_busy 1
  { s with dbg := { s.dbg with trace := [], armed := s.fld 0 F.dbg_tctl_trig = 0 } }

/-- A capture ends (R628). -/
def State.traceStop (s : State) : State := (s.setFld 0 F.dbg_tctl_stop 0).setFld 0 F.dbg_tctl_busy 0

/-- The path is noted that writes a word or field of the next pair secret (R620). -/
def State.stager (s : State) (d : Nat) (p : Path) : State :=
  s.updCip d fun x => { x with stagers := if x.stagers.contains p then x.stagers else p :: x.stagers }

/-- A write of `cip.pair[n].ctl` (R418, R421, R447). -/
def State.pairCtl (s : State) (d n v : Nat) : State :=
  let s := if bit v 31 then s.onPairRoll d n else s
  let s := if bit v 30 then s.onPairUse d n else s
  if bit v 29 then s.onPairDrop d n else s

/-- What a write does in its unit: `s` holds the stored fields, `old` is the register's value before and `v` the bits written. -/
def State.written (s : State) (p : Path) (d : Nat) (r : Reg) (i old v : Nat) : State :=
  match r.unit with
  | 0x02 =>
    if r = R.ctx_ctl then if bit v 1 then (s.setFld 0 F.ctx_ctl_drop 0).onCtxDrop else s
    else if r = R.ctx_refresh then s.onRefresh (v % 4096) else s
  | 0x03 =>
    if r = R.mmu_inv then if bit v 63 then (s.setFld d F.mmu_inv_go 0).onInv d else s
    else if r = R.mmu_ff ∧ bit v 63 then s.setReg d R.mmu_ff_det 0 else s
  | 0x04 =>
    if r = R.dlr_db then s.onDoorbell d v
    else if r = R.dlr_kill then s.onKill d v
    else if r = R.dlr_pbinv then if bit v 31 then s.onPbinv d (s.reg d R.dlr_pbinv) else s
    else if r = R.dlr_ff_id ∧ bit v 63 then (s.setReg d R.dlr_ff_pc 0).setReg d R.dlr_ff_det 0 else s
  | 0x08 => if r = R.hbm_cew then s.cewRestart d else s
  | 0x09 => if r = R.hcache_flush ∧ bit v 0 then s.onFlush d else s
  | 0x0A =>
    if r = R.tgen_ctl then ((s.setFld d F.tgen_ctl_go 0).setFld d F.tgen_ctl_stop 0).onTgenCtl d (bit v 31) (bit v 30) else s
  | 0x0B => if r = R.lnk_ctl then s.onLnkCtl d (bits old 0 18) else s
  | 0x0E => if r = R.meld_job_desc then s.onMeldDesc i (bit old 63) else s
  | 0x0F => if r = R.codec_ctl ∧ bit v 0 then (s.setFld d F.codec_ctl_inval 0).onInval d else s
  | 0x10 =>
    if r = R.wan_ctl then if bit old 0 = s.flag d F.wan_ctl_en then s else s.onWanCtl d
    else if r = R.wan_ip6_lo then s.onIp6Lo d else s
  | 0x11 =>
    if r = R.cip_ctl then if bit old 0 then s else s.openFelvar d
    else if r = R.cip_wrap then s.stager d p
    else if r = R.cip_ld then
      let s := s.stager d p
      if bit v 63 then (s.setFld d F.cip_ld_go 0).onLoad d else s
    else if r = R.cip_pair_ctl then s.pairCtl d i v
    else if r = R.cip_pair_sess then s.onPairElim d i else s
  | 0x12 => if r = R.time_ctl then s.onTimeCtl else if r = R.time_step then s.onTimeStep v else s
  | 0x13 =>
    if r = R.det_ctl then
      let s := s.onDetStrict
      if bit old 2 ∧ ¬ s.flag 0 F.det_ctl_rp then s.onReplayOff else s
    else if r = R.det_tw then s.onDetTw
    else if r = R.det_tw_mm ∧ bit v 63 then s.onTwinRelease
    else if r = R.det_dr ∧ bit v 63 ∧ ¬ bit old 63 then s.setReg 0 R.det_dr_ptr 0 i
    else if r = R.det_tr ∧ bit v 63 ∧ ¬ bit old 63 then s.setReg 0 R.det_tr_ptr 0 i else s
  | 0x14 =>
    if r = R.ckp_desc then { s with ckp := { s.ckp with top := none } }
    else if r = R.ckp_cut then if bit v 63 then s.onCkpCut d else s
    else if r = R.ckp_dray then if bit v 31 then s.onDray d else s
    else if r = R.ckp_rst then if bit v 31 then s.onRst d else s
    else s
  | 0x15 =>
    if r = R.rec_rank then if bit old 31 ∧ ¬ s.flag d F.rec_rank_elig then s.withdraw else s
    else if r = R.rec_win then s.updRec d fun x => { x with sramCount := 0 }
    else if r = R.rec_lwin then s.updRec d fun x => { x with linkCount := 0 } else s
  | 0x16 =>
    if r = R.err_ctl then s.reportLoss d
    else if r = R.err_first ∧ bit v 63 then (s.setReg d R.err_first_ts 0).setReg d R.err_first_det 0 else s
  | 0x18 => if r = R.pwr_ctl then s.onPwrCtl else if r = R.pwr_rclk then s.onRclk i else s
  | 0x19 => if r = R.tele_ctl ∧ bit v 31 ∧ ¬ bit old 31 then { s with tele := { s.tele with seq := 0, skipped := false } } else s
  | 0x1A => if r = R.pcie_evq_ctl ∧ bit v 31 ∧ ¬ bit old 31 then s.setReg 0 R.pcie_evq_ptr 0 else s
  | 0x1C =>
    if r = R.dbg_tctl then
      let s := if bit v 31 then s.traceGo else s
      if bit v 30 then s.traceStop else s
    else s
  | 0x1D => if r = R.brg_ctl ∧ bit v 0 then s.onRetrain d s.released else s
  | 0x20 => if r = R.rw_cmd then s.onRwCmd v else s
  | _ => s

/-- A write of a register of the `boot` unit (R587, R596, R597, R603 to R607). -/
def State.bootWrite (s : State) (p : Path) (q : RegSpec) (i old v m : Nat) : State :=
  let r := q.reg
  if p = .loader then s.setReg 0 r ((old - (old &&& (m &&& q.used))) ||| (v &&& (m &&& q.used))) i
  else if r = R.boot_svnup then s.onSvnup (bits v 16 16)
  else if r = R.boot_ctl then
    if bits v 16 16 ≠ 0x524C then s.bootRefused 0x30 0
    else if bit v 0 then s.deviceReset 3 0 else if bit v 1 then s.onRload else s
  else if r = R.boot_kek then if p = .host then s else s.setReg 0 R.boot_kek ((old - (old &&& m)) ||| (v &&& m)) i
  else if r = R.boot_kekctl then if bit v 0 then s.onKekctl (p = .host) (bits v 16 16) else s
  else if q.first ∧ bit v 63 then s.setReg 0 r 0 i
  else s.setReg 0 r (q.next old v m) i

/-- Registers whose write is wholly the business of their unit: their new value is not simply stored. -/
def State.ownWrite (s : State) (d : Nat) (r : Reg) (i new : Nat) : Option State :=
  if r = R.ctx_base then some (s.onCtxBase new)
  else if r = R.mxe_bq_ctl then some (s.onBqCtl d i new)
  else if r = R.sram_carve then some (s.onCarve d (new % 8))
  else if r = R.hbm_own then some (s.onOwn d new)
  else if r = R.brg_cwin then some (s.onCwin i new)
  else if r = R.codec_ww then some (s.onWw d i new)
  else if r = R.codec_wm then some (s.onWm d i new)
  else if (r = R.meld_cfg ∨ r = R.meld_pt_base) ∧ ¬ s.meldOff then some (s.raise 0 0x0E 0x6003 (2 * 2 ^ 8 + r.off * 2 ^ 16))
  else none

/-- A write of the bits `m` of `v` to a register; none when R10 discards it. In the die 1 half a mirrored register is read-only (R641). -/
def State.regWrite (s : State) (p : Path) (a : CsrAt) (v m : Nat) : Option State :=
  let q := a.spec
  let r := q.reg
  let old := s.reg a.d r a.i
  let new := q.next old v m
  if r.kind = .mirror ∧ a.d = 1 then some s
  else if q.reserved old v m ∨ s.refuses a.d r a.i old new then none
  else if r.unit = 0x01 then some (s.bootWrite p q a.i old (v &&& m) m)
  else
    match s.ownWrite a.d r a.i new with
    | some t => some t
    | none =>
      let new := if q.first ∧ bit (v &&& m) 63 then 0 else new
      some ((s.setReg a.d r new a.i).written p a.d r a.i old (v &&& m))

end Sys2Proof.Machine
end

