-- ==== Sys2Proof/Machine/Access.lean ====
section
/-! DEFINITION. Register accesses over the access paths: widths and alignment, the read latch, accesses before run release, the repair
window's ownership, the order of the host's accesses, accesses to die 1's half over the bridge and the end of a training that they wait for, and the commands that are
reads and writes of registers (R7 to R15, R187, R188, R238, R592, R610, R614, R615). -/

namespace Sys2Proof.Machine

/-! ## Accesses (R8) -/

/-- The unit of an access path; the loader has none, and the telemetry unit reads on its own behalf. -/
def Path.unit : Path → Nat
  | .host => 0x1A
  | .mgmt => 0x1B
  | .dbg => 0x1C
  | .loader => 0x01

/-- What one access touches: one register, or two 32-bit registers, with the first bit of each that it reaches and its bits; none under
R8. -/
def csrTouch (pa width : Nat) : Option (List (CsrAt × Nat × Nat)) :=
  if width = 32 ∧ pa % 4 = 0 then (csrAt pa).map fun a => [(a, 8 * a.sub, 32)]
  else if width = 64 ∧ pa % 8 = 0 then
    match csrAt pa, csrAt (pa + 4) with
    | some a, some b =>
      if a.spec.reg.w = 64 ∧ a.sub = 0 then some [(a, 0, 64)]
      else if a.spec.reg.w = 32 ∧ b.spec.reg.w = 32 then some [(a, 0, 32), (b, 0, 32)] else none
    | _, _ => none
  else none

/-- The value of one touched part. -/
def State.partValue (s : State) (x : CsrAt × Nat × Nat) : Nat :=
  bits (x.1.spec.masked (s.regShown x.1.d x.1.spec.reg x.1.i)) x.2.1 x.2.2

/-- A read of the touched parts, lower address first, with what it clears. -/
def State.partsRead : List (CsrAt × Nat × Nat) → State → Nat × State
  | [], s => (0, s)
  | x :: r, s =>
    let v := s.partValue x
    let q := State.partsRead r (s.clearRead x.1 x.2.1 x.2.2)
    (v + q.1 * 2 ^ x.2.2, q.2)

/-- A write of the touched parts, lower address first; none as soon as R10 discards one. -/
def State.partsWrite (p : Path) : List (CsrAt × Nat × Nat) → Nat → State → Option State
  | [], _, s => some s
  | x :: r, v, s =>
    let m := (2 ^ x.2.2 - 1) * 2 ^ x.2.1
    (s.regWrite p x.1 (v % 2 ^ x.2.2 * 2 ^ x.2.1) m).bind fun t => State.partsWrite p r (v / 2 ^ x.2.2) t

/-! ## The read latch (R12) -/

/-- The latch of a path. -/
def Latches.get (l : Latches) : Path → Option (Nat × Nat)
  | .host => l.host
  | .mgmt => l.mgmt
  | .dbg => l.dbg
  | .loader => none

/-- The latches with that of a path set. -/
def Latches.set (l : Latches) (p : Path) (v : Option (Nat × Nat)) : Latches :=
  match p with
  | .host => { l with host := v }
  | .mgmt => { l with mgmt := v }
  | .dbg => { l with dbg := v }
  | .loader => l

/-- A read over a path with the latch: the low half of a counter captures its high half, and the high half of the captured counter
comes from the latch. -/
def State.latchRead (s : State) (p : Path) (pa width : Nat) (l : List (CsrAt × Nat × Nat)) : Nat × State :=
  let q := State.partsRead l s
  match l with
  | [x] =>
    if width = 32 ∧ x.1.spec.counter then
      if x.2.1 = 0 then (q.1, { q.2 with latch := q.2.latch.set p (some (pa, s.partValue (x.1, 32, 32))) })
      else
        match s.latch.get p with
        | some (a, v) => if a + 4 = pa then (v, q.2) else q
        | none => q
    else q
  | _ => q

/-! ## Accesses from outside the part (R8, R10, R238, R592) -/

/-- Whether a read of an address is served before run release: `top`, `boot` and `err` (R592). -/
def servedEarly (pa : Nat) : Bool :=
  let u := (pa - csrBase) / 0x100000 % 32
  isCsr pa && (u = 0x00 || u = 0x01 || u = 0x16)

/-- Whether the repair window's selected stack is not owned (R238). -/
def State.unowned (s : State) : Bool :=
  let k := s.fld 0 F.rw_sel_stack
  !bit (s.fld (k / 4) F.hbm_own_ready) (k % 4)

/-- Event 0x1030 (R238), by the die that serves the selected stack. -/
def State.rwDenied (s : State) (pa : Nat) : State := s.raise (s.fld 0 F.rw_sel_stack / 4) 0x08 0x1030 pa

/-- An access under R8: event 0x9001 by the unit of the path; R10: event 0x9002. -/
def State.misaccess (s : State) (p : Path) (code pa : Nat) : State := s.raise 0 p.unit code pa

/-- Whether no access comes over a path: while device reset holds the part; and the loader sends no command, its records are commands of
their own. -/
def State.shut (s : State) (p : Path) : Bool := s.boot.hold.isSome || p = .loader

/-- Whether an access from a path, which stands on die 0, crosses the bridge: to a unit of die 1's half, where package units are not
(R14), or in the repair window to a stack that die 1 serves (R187, R238). -/
def State.csrFar (s : State) (pa : Nat) : Bool :=
  (isCsr pa && 0x2000000 ≤ pa - csrBase && !isPackageUnit ((pa - csrBase) / 0x100000 % 32)) ||
    (isRepair pa && 4 ≤ s.fld 0 F.rw_sel_stack)

/-- An access that crosses the bridge is counted there: a request and its data (R187). -/
def State.readCross (s : State) (pa : Nat) : State :=
  if s.csrFar pa then (s.tally 0 R.brg_t_tx3 0 32).tally 1 R.brg_t_tx3 0 288 else s

/-- A write that crosses the bridge is counted there with its data (R187). -/
def State.writeCross (s : State) (pa : Nat) : State := if s.csrFar pa then s.tally 0 R.brg_t_tx3 0 288 else s

/-- A read of device space over a path. One that a bridge that is down keeps from its target returns poison: a free value (R188;
assumption 130). -/
def State.pathRead (s : State) (p : Path) (pa width : Nat) : Nat × State :=
  if s.shut p then (0, s)
  else if ¬ s.released ∧ ¬ servedEarly pa then (0, s)
  else
    match csrTouch pa width with
    | none => (0, s.misaccess p 0x9001 pa)
    | some l =>
      if isRepair pa ∧ s.unowned ∧ ¬ (pa = rwBase ∧ width = 32) then (0, s.rwDenied pa)
      else if s.csrFar pa ∧ s.bridgeDown then (s.free % 2 ^ width, s.drew)
      else (s.readCross pa).latchRead p pa width l

/-- The touched parts take the value `v`. A write over two 32-bit registers is one to each: where R10 refuses both, each raises event
0x9002, with the address of the access (DESIGN CHOICE, assumption 131). -/
def State.touchWrite (s : State) (p : Path) (pa v : Nat) (l : List (CsrAt × Nat × Nat)) : State :=
  let one (s : State) (l : List (CsrAt × Nat × Nat)) (v : Nat) : State := match State.partsWrite p l v s with
    | some t => t
    | none => s.misaccess p 0x9002 pa
  match l with
  | [x, y] => one (one s [x] (v % 2 ^ 32)) [y] (v / 2 ^ 32)
  | l => one s l v

/-- A write of device space over a path. -/
def State.pathWrite (s : State) (p : Path) (pa width v : Nat) : State :=
  if s.shut p then s
  else if ¬ s.released ∧ (pa - csrBase) / 0x100000 ≠ 0x01 then s
  else
    match csrTouch pa width with
    | none => s.misaccess p 0x9001 pa
    | some l =>
      if isRepair pa ∧ s.unowned then s.rwDenied pa
      else if s.csrFar pa ∧ s.bridgeDown then s.count32 0 F.brg_crc_count
      else (s.writeCross pa).touchWrite p pa v l

/-- A write by the loader (R587): none for an access that R8 or R10 would discard. -/
def State.loaderWrite (s : State) (pa width v : Nat) : Option State :=
  (csrTouch pa width).bind fun l => State.partsWrite .loader l v s

/-! ## The commands -/

/-- Whether an access over a path waits behind a posted write that waits: the host port applies posted writes in arrival order, no read passes
one, and no access of BAR0 an earlier write of BAR2 (R614). -/
def State.behind (s : State) (p : Path) : Bool := p = .host && s.host.inbound.any HostReq.posted

/-- Whether an access waits: behind a posted write, or for the bridge to be trained (R188, R196, R614). -/
def State.pathHeld (s : State) (p : Path) (pa : Nat) : Bool := s.behind p || (s.released && s.csrFar pa && s.bridgeTrains)

/-- Whether an access is made at once: nothing stands before it, and it does not cross the bridge, or the bridge is neither in training nor
down. -/
def State.pathOpen (s : State) (p : Path) (pa : Nat) : Bool := !s.behind p && (!s.csrFar pa || (!s.bridgeTrains && !s.bridgeDown))

/-- An access of the host waits in the port. -/
def State.hostQueue (s : State) (q : HostReq) : State := { s with host := { s.host with inbound := s.host.inbound ++ [q] } }

/-- An access waits. -/
def State.pathQueue (s : State) (q : PathReq) : State :=
  if q.path = .host then s.hostQueue (.dev q.pa q.width q.wdata)
  else { s with mem := { s.mem with pathWait := s.mem.pathWait ++ [q] } }

/-- A read over a path is answered. -/
def State.readServe (s : State) (p : Path) (pa width : Nat) : State :=
  let q := s.pathRead p pa width
  (q.2.emit (.readData p pa width q.1)).tally 0 R.pcie_t_inrd 0 (if p = .host then width / 8 else 0)

/-- A read over a path: answered, or it waits. -/
def State.readOut (s : State) (p : Path) (pa width : Nat) : State :=
  if s.shut p then s else if s.pathHeld p pa then s.pathQueue ⟨p, pa, width, none⟩ else s.readServe p pa width

/-- A write over a path is made, or waits for the bridge. -/
def State.writeServe (s : State) (p : Path) (pa width v : Nat) : State :=
  if s.pathHeld p pa then s.pathQueue ⟨p, pa, width, some v⟩ else s.pathWrite p pa width (v % 2 ^ width)

/-- The 64-bit word of `pcie.tally_ovf`. -/
def ovfWord (pa : Nat) : Bool := pa / 8 = R.pcie_tally_ovf.pa 0 0 / 8

/-- A write over a path; the host's bytes are counted, after a write that clears the bit which the count may set (R11). -/
def State.writeIn (s : State) (p : Path) (pa width v : Nat) : State :=
  let n := if p = .host then width / 8 else 0
  if s.shut p then s
  else if ovfWord pa then (s.writeServe p pa width v).tally 0 R.pcie_t_inwr 0 n
  else (s.tally 0 R.pcie_t_inwr 0 n).writeServe p pa width v

/-- A write of a whole register over a path. -/
def State.regIn (s : State) (p : Path) (d : Nat) (r : Reg) (v : Nat) (i : Nat := 0) : State := s.writeIn p (r.pa d i) r.w v

/-- CSR_WRITE (R7, R8, R10, R13): a write from a path to an address of device space. -/
def execCsrWrite (path : Path) (pa width value : Nat) (s : State) : Host.Outcome State Fault Refusal := .next (s.writeIn path pa width value)

/-- RC_READ (R7): a read of a register; RC fields are cleared. -/
def execRcRead (path : Path) (pa width : Nat) (s : State) : Host.Outcome State Fault Refusal := .next (s.readOut path pa width)

/-- COUNTER_LOW_READ (R12): a 32-bit read; of the low half of a counter it captures the high half. -/
def execCounterLowRead (path : Path) (pa : Nat) (s : State) : Host.Outcome State Fault Refusal := .next (s.readOut path pa 32)

/-- BAR0_READ (R610): a host read of BAR0. Offsets to 0x3FF_FFFF are CSR space and those from 0x400_0000 to 0x4FF_FFFF the repair window;
any other offset or length is handled as R8 states. An offset from 0x500_0000 up maps to no PA: event 0x9001 names the base of CSR space plus
the offset (DESIGN CHOICE, assumption 132). -/
def execBar0Read (off len : Nat) (s : State) : Host.Outcome State Fault Refusal :=
  let pa := if off < 0x4000000 then csrBase + off else if off < 0x5000000 then rwBase + (off - 0x4000000) else csrBase + off
  .next (s.readOut .host pa (8 * len))

/-- FIRST_RECORD_CLEAR (R89): a 1 is written to valid of the first-fault register at an address, as one 64-bit access. -/
def execFirstRecordClear (path : Path) (pa : Nat) (s : State) : Host.Outcome State Fault Refusal := .next (s.writeIn path pa 64 (2 ^ 63))

/-- DET_STRICT_WRITE (R478): a write of `det.ctl`. -/
def execDetStrictWrite (path : Path) (value : Nat) (s : State) : Host.Outcome State Fault Refusal := .next (s.regIn path 0 R.det_ctl value)

/-- BQ_CTL_WRITE (R83, R92): a write of `mxe.bq_ctl[j]`. -/
def execBqCtlWrite (path : Path) (d : Fin 2) (j : Fin 64) (value : Nat) (s : State) : Host.Outcome State Fault Refusal :=
  .next (s.regIn path d R.mxe_bq_ctl value j)

/-- FREEZE_LIM_WRITE (R83, R86): a write of `mxe.freeze_lim`; the die-local engines whose freeze is already longer than the new limit
raise their event at once. -/
def execFreezeLimWrite (path : Path) (d : Fin 2) (value : Nat) (frozen : List (Fin 256)) (s : State) : Host.Outcome State Fault Refusal :=
  let s := s.regIn path d R.mxe_freeze_lim value
  .next (frozen.foldl (fun s e => s.freezeEvent (64 * d + e.val / 4) (e.val % 4)) s)

/-- DOORBELL (R128, R167): a write of `dlr.db`. -/
def execDoorbell (path : Path) (d : Fin 2) (value : Nat) (s : State) : Host.Outcome State Fault Refusal :=
  .next (s.regIn path d R.dlr_db value)

/-- KILL (R158, R168): a write of `dlr.kill`. -/
def execKill (path : Path) (d : Fin 2) (value : Nat) (s : State) : Host.Outcome State Fault Refusal := .next (s.regIn path d R.dlr_kill value)

/-- PBINV (R170): a write of `dlr.pbinv` with go = 1. -/
def execPbinv (path : Path) (d : Fin 2) (value : Nat) (s : State) : Host.Outcome State Fault Refusal :=
  .next (s.regIn path d R.dlr_pbinv (value ||| 2 ^ 31))

/-- CARVE_WRITE (R182): a write of `sram.carve.size`. -/
def execCarveWrite (path : Path) (d : Fin 2) (size : Fin 8) (s : State) : Host.Outcome State Fault Refusal :=
  .next (s.regIn path d R.sram_carve size)

/-- BRIDGE_RETRAIN_CMD (R188): a write of 1 to `brg.ctl.retrain`. -/
def execBridgeRetrainCmd (path : Path) (d : Fin 2) (s : State) : Host.Outcome State Fault Refusal := .next (s.regIn path d R.brg_ctl 1)

/-- CWIN_WRITE (R195): a write of `brg.cwin[n]` in the die 0 half. -/
def execCwinWrite (path : Path) (n : Fin 8) (value : Nat) (s : State) : Host.Outcome State Fault Refusal :=
  .next (s.regIn path 0 R.brg_cwin value n)

/-- HBM_OWN_WRITE (R235): a write of `hbm.own`. -/
def execHbmOwnWrite (path : Path) (d : Fin 2) (own : Fin 16) (s : State) : Host.Outcome State Fault Refusal :=
  .next (s.regIn path d R.hbm_own own)

/-- TGEN_GO (R236): a write of `tgen.ctl` with go = 1. -/
def execTgenGo (path : Path) (d : Fin 2) (value : Nat) (s : State) : Host.Outcome State Fault Refusal :=
  .next (s.regIn path d R.tgen_ctl (putBits value 30 2 2))

/-- TGEN_STOP (R237): a write of `tgen.ctl` with stop = 1. -/
def execTgenStop (path : Path) (d : Fin 2) (value : Nat) (s : State) : Host.Outcome State Fault Refusal :=
  .next (s.regIn path d R.tgen_ctl (putBits value 30 2 1))

/-- READ_ROW (R240): a write of `rw.cmd` with op 1. -/
def execReadRow (path : Path) (s : State) : Host.Outcome State Fault Refusal := .next (s.regIn path 0 R.rw_cmd 1)

/-- WRITE_ROW (R240): a write of `rw.cmd` with op 2. -/
def execWriteRow (path : Path) (s : State) : Host.Outcome State Fault Refusal := .next (s.regIn path 0 R.rw_cmd 2)

/-- SOFT_REPAIR (R240): a write of `rw.cmd` with op 3. -/
def execSoftRepair (path : Path) (s : State) : Host.Outcome State Fault Refusal := .next (s.regIn path 0 R.rw_cmd 3)

/-- HARD_REPAIR (R240): a write of `rw.cmd` with op 4 and a key. -/
def execHardRepair (path : Path) (key : Fin 65536) (s : State) : Host.Outcome State Fault Refusal :=
  .next (s.regIn path 0 R.rw_cmd (4 + key.val * 2 ^ 16))

/-- CLEAR_SOFT (R240): a write of `rw.cmd` with op 5. -/
def execClearSoft (path : Path) (s : State) : Host.Outcome State Fault Refusal := .next (s.regIn path 0 R.rw_cmd 5)

/-- SPARE_QUERY (R240): a write of `rw.cmd` with op 6. -/
def execSpareQuery (path : Path) (s : State) : Host.Outcome State Fault Refusal := .next (s.regIn path 0 R.rw_cmd 6)

/-- HCACHE_FLUSH (R248): a write of 1 to `hcache.flush.go`. -/
def execHcacheFlush (path : Path) (d : Fin 2) (s : State) : Host.Outcome State Fault Refusal := .next (s.regIn path d R.hcache_flush 1)

/-- CTX_REFRESH (R278): a write of `ctx.refresh`. -/
def execCtxRefresh (path : Path) (c : Fin 4096) (s : State) : Host.Outcome State Fault Refusal := .next (s.regIn path 0 R.ctx_refresh c)

/-- CTX_DROP (R278): a write of `ctx.ctl` with drop = 1. -/
def execCtxDrop (path : Path) (en : Bool) (s : State) : Host.Outcome State Fault Refusal := .next (s.regIn path 0 R.ctx_ctl (2 + b2n en))

/-- CTX_BASE_WRITE (R277): a write of `ctx.base`. -/
def execCtxBaseWrite (path : Path) (value : Nat) (s : State) : Host.Outcome State Fault Refusal := .next (s.regIn path 0 R.ctx_base value)

/-- MMU_INV (R276): a write of `mmu.inv` with go = 1. -/
def execMmuInv (path : Path) (d : Fin 2) (value : Nat) (s : State) : Host.Outcome State Fault Refusal :=
  .next (s.regIn path d R.mmu_inv (putBits value 63 1 1))

/-- LNK_CTL_WRITE (R320, R321): a write of `lnk.ctl`. -/
def execLnkCtlWrite (path : Path) (d : Fin 2) (value : Nat) (s : State) : Host.Outcome State Fault Refusal :=
  .next (s.regIn path d R.lnk_ctl value)

/-- MELD_ENABLE (R344, R377): a write of `meld.job[j].desc` with en = 1. -/
def execMeldEnable (path : Path) (j : Fin 4) (value : Nat) (s : State) : Host.Outcome State Fault Refusal :=
  .next (s.regIn path 0 R.meld_job_desc (putBits value 63 1 1) j)

/-- MELD_DISABLE (R372, R377): a write of `meld.job[j].desc` with en = 0. -/
def execMeldDisable (path : Path) (j : Fin 4) (value : Nat) (s : State) : Host.Outcome State Fault Refusal :=
  .next (s.regIn path 0 R.meld_job_desc (putBits value 63 1 0) j)

/-- CODEC_WW_WRITE (R396, R401): a write of `codec.ww[n]`. -/
def execCodecWwWrite (path : Path) (d : Fin 2) (n : Fin 8) (value : Nat) (s : State) : Host.Outcome State Fault Refusal :=
  .next (s.regIn path d R.codec_ww value n)

/-- CODEC_WM_WRITE (R398, R401): a write of `codec.wm[n]`. -/
def execCodecWmWrite (path : Path) (d : Fin 2) (n : Fin 8) (value : Nat) (s : State) : Host.Outcome State Fault Refusal :=
  .next (s.regIn path d R.codec_wm value n)

/-- CODEC_INVAL (R399): a write of 1 to `codec.ctl.inval`. -/
def execCodecInval (path : Path) (d : Fin 2) (s : State) : Host.Outcome State Fault Refusal := .next (s.regIn path d R.codec_ctl 1)

/-- WAN_CTL_WRITE (R437, R438): a write of `wan.ctl`. -/
def execWanCtlWrite (path : Path) (d : Fin 2) (value : Nat) (s : State) : Host.Outcome State Fault Refusal :=
  .next (s.regIn path d R.wan_ctl value)

/-- WAN_IP6_LO_WRITE (R437, R439): a write of `wan.ip6_lo`. -/
def execWanIp6LoWrite (path : Path) (d : Fin 2) (value : Nat) (s : State) : Host.Outcome State Fault Refusal :=
  .next (s.regIn path d R.wan_ip6_lo value)

/-- PAIR_SECRET_LOAD (R414, R445): a write of `cip.ld` with go = 1. -/
def execPairSecretLoad (path : Path) (d : Fin 2) (value : Nat) (s : State) : Host.Outcome State Fault Refusal :=
  .next (s.regIn path d R.cip_ld (putBits value 63 1 1))

/-- PAIR_ROLL (R418, R447): a write of `cip.pair[n].ctl` with roll = 1. -/
def execPairRoll (path : Path) (d : Fin 2) (n : Fin 64) (gen : Fin 256) (s : State) : Host.Outcome State Fault Refusal :=
  .next (s.regIn path d R.cip_pair_ctl (2 ^ 31 + gen.val * 2 ^ 8) n)

/-- PAIR_USE (R421, R447): a write of `cip.pair[n].ctl` with use = 1 and the generation in ugen. -/
def execPairUse (path : Path) (d : Fin 2) (n : Fin 64) (gen : Fin 256) (s : State) : Host.Outcome State Fault Refusal :=
  .next (s.regIn path d R.cip_pair_ctl (2 ^ 30 + gen.val * 2 ^ 8) n)

/-- PAIR_DROPOLD (R421, R447): a write of `cip.pair[n].ctl` with dropold = 1. -/
def execPairDropold (path : Path) (d : Fin 2) (n : Fin 64) (gen : Fin 256) (s : State) : Host.Outcome State Fault Refusal :=
  .next (s.regIn path d R.cip_pair_ctl (2 ^ 29 + gen.val * 2 ^ 8) n)

/-- PAIR_ELIM_WRITE (R437, R447): a write of `cip.pair[n].sess`, of which elim is taken. -/
def execPairElimWrite (path : Path) (d : Fin 2) (n : Fin 64) (elim : Nat) (s : State) : Host.Outcome State Fault Refusal :=
  .next (s.regIn path d R.cip_pair_sess (elim % 2 ^ 32) n)

/-- TIME_STEP (R460): a write of `time.step`. -/
def execTimeStep (path : Path) (delta : Nat) (s : State) : Host.Outcome State Fault Refusal := .next (s.regIn path 0 R.time_step delta)

/-- TIME_CTL_WRITE (R468, R469): a write of `time.ctl`. -/
def execTimeCtlWrite (path : Path) (value : Nat) (s : State) : Host.Outcome State Fault Refusal := .next (s.regIn path 0 R.time_ctl value)

/-- TWIN_RELEASE (R493, R500): a 1 is written to `det.tw_mm.valid`. -/
def execTwinRelease (path : Path) (s : State) : Host.Outcome State Fault Refusal := .next (s.regIn path 0 R.det_tw_mm (2 ^ 63))

/-- REPLAY_RELEASE (R497): a write of `det.ctl` with rp = 0. -/
def execReplayRelease (path : Path) (value : Nat) (s : State) : Host.Outcome State Fault Refusal :=
  .next (s.regIn path 0 R.det_ctl (putBits value 2 1 0))

/-- CKP_CUT (R516, R543): a write of `ckp.cut` with go = 1. -/
def execCkpCut (path : Path) (d : Fin 2) (value : Nat) (s : State) : Host.Outcome State Fault Refusal :=
  .next (s.regIn path d R.ckp_cut (putBits value 63 1 1))

/-- DRAIN_START (R517, R544): a write of `ckp.dray` with go = 1. -/
def execDrainStart (path : Path) (d : Fin 2) (value : Nat) (s : State) : Host.Outcome State Fault Refusal :=
  .next (s.regIn path d R.ckp_dray (putBits value 31 1 1))

/-- RESTORE (R519, R544): a write of `ckp.rst` with go = 1. -/
def execRestore (path : Path) (d : Fin 2) (value : Nat) (s : State) : Host.Outcome State Fault Refusal :=
  .next (s.regIn path d R.ckp_rst (putBits value 31 1 1))

/-- RECOVERY_LOAD (R595, R606): a write of `boot.ctl` with rload = 1 and a key. -/
def execRecoveryLoad (path : Path) (key : Fin 65536) (s : State) : Host.Outcome State Fault Refusal :=
  .next (s.regIn path 0 R.boot_ctl (key.val * 2 ^ 16 + 2))

/-- RELOAD (R603, R606): a write of `boot.ctl` with reload = 1 and a key. -/
def execReload (path : Path) (key : Fin 65536) (s : State) : Host.Outcome State Fault Refusal :=
  .next (s.regIn path 0 R.boot_ctl (key.val * 2 ^ 16 + 1))

/-- SVN_RAISE (R596, R605): a write of `boot.svnup` with a key. -/
def execSvnRaise (path : Path) (key : Fin 65536) (s : State) : Host.Outcome State Fault Refusal :=
  .next (s.regIn path 0 R.boot_svnup (key.val * 2 ^ 16))

/-- KEK_BURN (R597, R607): a write of `boot.kekctl` with burn = 1 and a key. -/
def execKekBurn (path : Path) (key : Fin 65536) (s : State) : Host.Outcome State Fault Refusal :=
  .next (s.regIn path 0 R.boot_kekctl (key.val * 2 ^ 16 + 1))

/-- DBG_DISABLE (R627, R636): a write of 1 to `dbg.ctl.dis`. -/
def execDbgDisable (path : Path) (s : State) : Host.Outcome State Fault Refusal := .next (s.regIn path 0 R.dbg_ctl 1)

/-- TRACE_GO (R628, R636): a write of `dbg.tctl` with go = 1. -/
def execTraceGo (path : Path) (value : Nat) (s : State) : Host.Outcome State Fault Refusal :=
  .next (s.regIn path 0 R.dbg_tctl (putBits value 30 2 2))

/-- TRACE_STOP (R628, R636): a write of `dbg.tctl` with stop = 1. -/
def execTraceStop (path : Path) (value : Nat) (s : State) : Host.Outcome State Fault Refusal :=
  .next (s.regIn path 0 R.dbg_tctl (putBits value 30 2 1))

/-- DVFS_REQUEST (R659, R678): a write of `pwr.rclk[r].req`. -/
def execDvfsRequest (path : Path) (r : Fin 16) (req : Fin 64) (s : State) : Host.Outcome State Fault Refusal :=
  .next (s.regIn path 0 R.pwr_rclk req r)

/-- PWR_CTL_WRITE (R675, R676): a write of `pwr.ctl`. -/
def execPwrCtlWrite (path : Path) (value : Nat) (s : State) : Host.Outcome State Fault Refusal := .next (s.regIn path 0 R.pwr_ctl value)

/-! ## The end of a bridge training (R188) -/

/-- Accesses that waited for the bridge are made, in their order. -/
def State.pathResume (s : State) : State :=
  s.mem.pathWait.foldl
    (fun s q => match q.wdata with
      | some v => s.writeServe q.path q.pa q.width v
      | none => if s.pathHeld q.path q.pa then s.pathQueue q else s.readServe q.path q.pa q.width)
    { s with mem := { s.mem with pathWait := [] } }

/-- BRIDGE_RETRAIN_DONE (R188): a training of the bridge succeeds, with event 0x2060 where it is a retraining, or fails; after three
failures the bridge is down. -/
def execBridgeRetrainDone (ok : Bool) (s : State) : Host.Outcome State Fault Refusal :=
  if ¬ s.flag 0 F.brg_stat_train then .next s
  else if ok then .next s.bridgeTrained.pathResume
  else
    let n := s.fld 0 F.brg_stat_tries
    if n = 3 then .next s.trainEnds.pathResume
    else if n = 2 then .next s.bridgeFalls.pathResume
    else .next (s.setBoth F.brg_stat_tries (n + 1))

end Sys2Proof.Machine
end

