-- ==== Sys2Proof/Machine/HandRun.lean ====
section
/-! DEFINITION. The life of a hand in its cluster: start, chain set, completion (R19, R79, R81, R99, R155). -/

namespace Sys2Proof.Machine

/-- Whether a cluster is out of service (R81). -/
def State.outOfService (s : State) (c : Nat) : Bool := bit (s.fld (dieOfCluster c) F.mxe_cl_svc_off) (c % 64)

/-- Whether region `r` runs its next hand in bubble mode (R19, R84). -/
def State.bubbleNow (s : State) (r : Nat) : Bool :=
  bit (s.fld (dieOfRegion r) F.mxe_ctl_bubble) (r % 8) && !s.flag 0 F.det_ctl_strict

/-- A hand returns to its item: OK, FAULT or POISON (R155), with the counts of its words (R115) and, for a twin context, its
compare record (R491). -/
def State.handReturns (s : State) (c : Nat) (h : Hand) : State :=
  let s := if h.stopped then s.sendPoisoned h else s
  let s := s.updSlot h.region h.slot fun k =>
    h.words.foldl (fun k w => k.addCounts w.nan w.inf w.ovf)
      { k with hands := k.hands - 1, poisoned := k.poisoned + b2n (h.poison && !h.fault) }
  if h.twin then
    s.twinSend h.region h.ctx
      ⟨h.seq % 2 ^ 32, h.item % 2 ^ 32, if h.fault then 1 else if h.poison then 2 else 0, c % 8, h.nblk % 2 ^ 32, h.digest⟩
  else s

/-- Hand `h` of cluster `c` begins to run, bubbling as R19 states, with the reserve of `vxe.ctl` (R117). -/
def State.handBegins (s : State) (c : Nat) (h : Hand) : State :=
  let b := s.bubbleNow h.region
  let d := dieOfCluster c
  let eff := s.fld d F.mxe_mode_bubble_eff
  (s.setFld d F.mxe_mode_bubble_eff (putBits eff (h.region % 8) 1 (b2n b))).updCl c fun y =>
    { y with
      run := some { h with bubble := b, startClk := s.clk }
      loaded := h.cset.isNone
      written := []
      res := s.fld d F.vxe_ctl_res (c % 64) }

/-- HAND_START (R19, R81, R155): the oldest hand of the cluster's queue starts once the one before it has completed, or
completes POISON at once when the cluster is out of service. -/
def execHandStart (c : Fin 128) (s : State) : Host.Outcome State Fault Refusal :=
  if s.tripped then .next s else
  let x := s.cl c
  match x.run, x.queue with
  | none, h :: rest =>
    let s := s.updCl c fun y => { y with queue := rest }
    .next (if s.outOfService c then s.handReturns c { h with poison := true } else s.handBegins c h)
  | _, _ => .next s

/-- The chain set of the starting hand `h` is read at `va` and checked, and replaces the cluster's chain table (R99). -/
def State.loadChain (s : State) (c : Nat) (h : Hand) (va : Nat) : State :=
  let d := dieOfCluster c
  let t := s.translate d (some (h.region % 8)) h.ctx va .read 1
  match t.2 with
  | .error f => t.1.faultHand c h h.va f
  | .ok pa =>
    let q := t.1.read d pa 1024
    let ws := chainWords q.data
    match chainSetFault ws with
    | some f => q.st.faultHand c h h.va f
    | none => q.st.updCl c fun y => { y with chain := ws, badChain := [], loaded := true }

/-- CHAIN_SET_LOAD (R99): the 1 KiB chain set of the starting hand is read and checked, and its eight entries replace the
cluster's chain table together; an illegal entry or a translation fault stops the hand. -/
def execChainSetLoad (c : Fin 128) (s : State) : Host.Outcome State Fault Refusal :=
  if s.tripped then .next s else
  let x := s.cl c
  match x.run with
  | none => .next s
  | some h =>
    match h.cset with
    | none => .next s
    | some va => .next (if x.loaded ∨ h.stopped then s else s.loadChain c h va)

/-- Whether a write of the hand that runs in cluster `c` is held at another cluster, so not acknowledged yet (R186). -/
def State.writesHeld (s : State) (c : Nat) : Bool := s.clusters.any fun x => x.held.any fun w => w.src = some c

/-- HAND_COMPLETE (R79, R155, R186): every word of the running hand has completed and its writes are acknowledged, or a fault has stopped
it; it returns, and the writes held for it are applied in order of arrival. -/
def execHandComplete (c : Fin 128) (s : State) : Host.Outcome State Fault Refusal :=
  if s.tripped then .next s else
  let x := s.cl c
  match x.run with
  | none => .next s
  | some h =>
    if (¬ h.stopped ∧ ¬ (x.loaded ∧ h.words.all fun w => w.st = .done)) ∨ s.writesHeld c then .next s
    else
      let s := s.updCl c fun y => { y with run := none, loaded := false, written := [], held := [] }
      let s := x.held.foldl (fun s w => s.sramWrite w.pa w.data w.poison) s
      .next (s.memResume.handReturns c h)

/-! ## The cluster's clock (R268) -/

/-- A cluster that holds a hand counts one cluster-clock of the hand's context: its quota counter and Assay's engine time. -/
def State.engineClock (s : State) (c : Nat) : State :=
  match (s.cl c).run with
  | none => s
  | some h =>
    let d := dieOfCluster c
    let s := s.updCached d h.ctx fun e => { e with quota := e.quota + 1 }
    s.updCtx d fun x => { x with eng := assocPut h.ctx ((assocGet h.ctx x.eng).getD 0 + 1) x.eng }

end Sys2Proof.Machine
end

