-- ==== Sys2Proof/Machine/DigestUnit.lean ====
section
/-! DEFINITION. The digest units: streams, roots, records and their rings (R482 to R488). -/

namespace Sys2Proof.Machine

/-! ## Streams (R483) -/

/-- The physical pieces of `n` bytes at a VA, as a digest unit reads them: the DMA agent's code stands for it (assumption 60). -/
def State.digestPieces (s : State) (r ctx va n : Nat) : State × Except FaultInfo (List (Nat × Nat)) :=
  s.translateRange (dieOfRegion r) (some (r % 8)) ctx (va % 2 ^ 48) n .read 2

/-- What a digest unit has read so far: elements or scales, and whether poison or a fault was met. -/
abbrev DigestRead := State × List Nat × Bool

/-- One more row of elements of the tensor. -/
def State.digestRow (ctx r : Nat) (x : Tile) (q : DigestRead) (row : Nat × Nat × Nat) : DigestRead :=
  let b := x.elemBit [0, row.1, row.2.1, row.2.2]
  let n := dim x.v 0
  let w := x.desc.fmt.ebits
  let t := q.1.digestPieces r ctx (b / 8) ((b % 8 + n * w + 7) / 8)
  match t.2 with
  | .error _ => (t.1, q.2.1, true)
  | .ok ps =>
    let y := t.1.readPieces (dieOfRegion r) ps
    (y.1, q.2.1 ++ elemsAt w (b % 8) (y.2.map (·.1)) n, q.2.2 || y.2.any (·.2))

/-- The blocks of 32 elements along mxdim that hold a valid element, in flattened order, as the coordinates of their first
element. -/
def Tile.mxBlocks (x : Tile) : List (List Nat) :=
  let n (i : Nat) : Nat := if i = x.desc.mxdim then cdiv (dim x.v i) 32 else dim x.v i
  let c (i v : Nat) : Nat := if i = x.desc.mxdim then 32 * v else v
  (List.range (n 0 * n 1 * n 2 * n 3)).map fun j =>
    [c 0 (j % n 0), c 1 (j / n 0 % n 1), c 2 (j / n 0 / n 1 % n 2), c 3 (j / n 0 / n 1 / n 2)]

/-- One more scale of an MX tensor. -/
def State.digestScale (ctx r : Nat) (x : Tile) (q : DigestRead) (c : List Nat) : DigestRead :=
  let t := q.1.digestPieces r ctx (x.scaleAddr c) 1
  match t.2 with
  | .error _ => (t.1, q.2.1, true)
  | .ok ps =>
    let y := t.1.readPieces (dieOfRegion r) ps
    (y.1, q.2.1 ++ y.2.map (·.1.toNat), q.2.2 || y.2.any (·.2))

/-- A stream filled to whole blocks of 16 bytes. -/
def padBlock (bs : List Byte) : List Byte := bs ++ List.replicate ((16 - bs.length % 16) % 16) 0

/-- The byte stream of a tensor over its valid extents, and whether poison was met (R483). -/
def State.digestStream (s : State) (r ctx : Nat) (x : Tile) : State × List Byte × Bool :=
  let q := x.rows.foldl (State.digestRow ctx r x) (s, [], false)
  let elems := packElems x.desc.fmt.ebits q.2.1
  let q := if x.desc.fmt.isMx then x.mxBlocks.foldl (State.digestScale ctx r x) (q.1, [], q.2.2) else (q.1, [], q.2.2)
  (q.1, padBlock (elems ++ packElems 8 q.2.1), q.2.2)

/-! ## Records (R487, R488) -/

/-- The 64 bytes of a digest record for slot `k` of region `r`. -/
def State.digestRecord (s : State) (r k kind dslot flags count : Nat) (root : List Byte) : List Byte :=
  let x := s.slot r k
  [BitVec.ofNat 8 kind, BitVec.ofNat 8 dslot] ++ leBytes 2 flags ++ leBytes 4 (s.ctxField x.ctx 4 4) ++ leBytes 8 x.step ++
    leBytes 4 x.tag ++ leBytes 2 x.ctx ++ leBytes 1 r ++ leBytes 1 0 ++ leBytes 8 count ++ root

/-- A record joins those that wait for region `r`'s ring; the item waits for all but input records. -/
def State.queueDigest (s : State) (r k kind : Nat) (bytes : List Byte) : State :=
  s.updRg r fun g => { g with digests := g.digests ++ [⟨if kind = 2 then none else some k, bytes⟩] }

/-- The digest of task `t` of slot `k` over extents `v` (R483 to R488). A tensor in cluster space names no cluster to read, so its
root is a free value (assumption 61). -/
def State.digestTensor (s : State) (r k kind : Nat) (t : DigestTask) (v : List Nat) : State :=
  let ctx := (s.slot r k).ctx
  let key := s.ctxField ctx 0x28 16
  let fin (s : State) (flags count : Nat) (root : List Byte) : State :=
    (s.tally 0 R.det_t_dbyte 0 count).queueDigest r k kind (s.digestRecord r k kind t.dslot (flags + b2n (key = 0)) count root)
  if t.desc.cluster then fin (s.drew 32) 0 0 (s.freeBytes 32)
  else
    let q := s.digestStream r ctx ⟨t.desc, [0, 0, 0, 0], v⟩
    let n := q.2.1.length
    if q.2.2 then fin q.1 2 n (List.replicate 32 255)
    else fin q.1 0 n (digestRoot kind t.desc.fmt.code t.desc.rank v t.desc.gorg n (digestTree key q.2.1))

/-- Whether slot `k`'s item has ended and its writes are acknowledged: output and program digests are taken (R482). -/
def State.digestsDue (s : State) (r k : Nat) : Bool := (s.slot r k).endDone && s.quiet r k

/-- Change task `n` of a slot. -/
def State.updTask (s : State) (r k n : Nat) (f : DigestTask → DigestTask) : State :=
  s.updSlot r k fun x => { x with digests := listMod x.digests n f }

/-- DIGEST_DONE (R482 to R488): the digest unit of region `r` finishes task `n` of slot `k` — its input digest, or at END its
output digest — or, for the number after the last task, the item's program digest. -/
def execDigestDone (r : Fin 16) (k : Fin 4) (n : Nat) (s : State) : Host.Outcome State Fault Refusal :=
  if s.tripped then .next s else
  let x := s.slot r k
  match x.digests[n]? with
  | some t =>
    if t.input then .next ((s.digestTensor r k 2 t t.v).updTask r k n fun t => { t with input := false })
    else if t.output ∧ s.digestsDue r k then
      .next ((s.digestTensor r k 3 t ((List.range 4).map (t.desc.extent x))).updTask r k n fun t => { t with output := false })
    else .next s
  | none =>
    match x.progDig with
    | some p =>
      if n = x.digests.length ∧ s.digestsDue r k then
        let root := digestRoot 1 0 0 [0, 0, 0, 0] [0, 0, 0, 0] x.words p
        let s := s.queueDigest r k 1 (s.digestRecord r k 1 0xFF 0 x.words root)
        .next (s.updSlot r k fun y => { y with progDig := none })
      else .next s
    | none => .next s

/-- Whether region `r`'s digest ring has room (R487, R502). -/
def State.digestRoom (s : State) (r : Nat) : Bool :=
  s.flag 0 F.det_dr_en r &&
    (s.fld 0 F.det_dr_ptr_head r + 2 ^ 32 - s.fld 0 F.det_dr_ptr_tail r) % 2 ^ 32 < (s.fld 0 F.det_dr_size r + 1) * 64

/-- DIGEST_RECORD_WRITE (R487): the oldest record that waits is written at head once the ring has room. -/
def execDigestRecordWrite (r : Fin 16) (s : State) : Host.Outcome State Fault Refusal :=
  if s.tripped then .next s else
  match (s.rg r).digests with
  | [] => .next s
  | x :: rest =>
    if ¬ s.digestRoom r then .next s
    else
      let head := s.fld 0 F.det_dr_ptr_head r
      let a := s.fld 0 F.det_dr_base r * 4096 + head % ((s.fld 0 F.det_dr_size r + 1) * 64) * 64
      let s := s.writeRaw (dieOfRegion r) a x.bytes
      let s := s.updRg r fun g => { g with digests := rest }
      .next ((s.setFld 0 F.det_dr_ptr_head ((head + 1) % 2 ^ 32) r).tally 0 R.det_t_dig)

/-- Whether slot `k`'s item still waits for a digest of its own (R482, R487). -/
def State.digestsWait (s : State) (r k : Nat) : Bool :=
  let x := s.slot r k
  x.digests.any (·.input) || (x.endDone && (x.digests.any (·.output) || x.progDig.isSome)) ||
    (s.rg r).digests.any fun d => d.slot = some k

/-- A region's clock in which items wait for room in its digest ring is counted once for each item (R487, R503). -/
def State.digestClock (s : State) (r : Nat) : State :=
  let n := ((List.range 4).filter fun k => (s.rg r).digests.any fun d => d.slot = some k).length
  if n = 0 ∨ s.digestRoom r then s else s.tally 0 R.det_t_dwait 0 n

end Sys2Proof.Machine
end

