-- ==== Sys2Proof/Machine/Complete.lean ====
section
/-! DEFINITION. The end of a work item and its completion record (R133), and the table reads of walks (R273, R274). -/

namespace Sys2Proof.Machine

/-! ## Completion (R133) -/

/-- The 32 bytes of slot `x`'s completion record at clock `now`. -/
def Slot.record (x : Slot) (now : Nat) : List Byte :=
  let status := if x.code ≠ 0 then 1 else if x.poisoned ≠ 0 then 2 else 0
  let sat := max32 < x.nan || max32 < x.inf || max32 < x.ovf || 0xFFFF < x.poisoned || 0xFFFF < x.skipped
  leBytes 1 status ++ leBytes 1 (b2n (!x.dealt && !x.collWork) + 2 * b2n sat) ++ leBytes 2 x.code ++ leBytes 4 x.tag ++
    leBytes 8 (if x.words = 0 then 0 else now - x.firstClk) ++ leBytes 4 (satAt max32 x.nan) ++ leBytes 4 (satAt max32 x.inf) ++
    leBytes 4 (satAt max32 x.ovf) ++ leBytes 2 (satAt 0xFFFF x.poisoned) ++ leBytes 2 (satAt 0xFFFF x.skipped)

/-- Whether every hand of a twin item has compared equal, as its END awaits (R492). -/
def State.twinAgreed (s : State) (r k : Nat) : Bool :=
  let x := s.slot r k
  let g := s.rg r
  !x.endDone || !s.isTwin r x.ctx || x.handNo = 0 || (g.twItem = x.item && x.handNo ≤ g.twDone)

/-- The VA of the completion record: that of the item, taken down to a multiple of 32, at which a misaligned one is written too (R129, R133;
assumption 32). -/
def Slot.recordVa (x : Slot) : Nat := x.cpl % 2 ^ 48 / 32 * 32

/-- Whether the item of slot `k` may complete now: nothing that it issued is outstanding, and its record's place takes a write (R133, R482,
R492). -/
def State.completes (s : State) (r k : Nat) : Bool :=
  (s.slot r k).st = .completing && (s.slot r k).wait = .none && s.quiet r k && !s.digestsWait r k && s.twinAgreed r k &&
    !s.vaStalls r (s.slot r k).ctx (s.slot r k).recordVa 32 .write 3

/-- The completion record is written, unless its translation faults (R129, R133, R274). -/
def State.writeRecord (s : State) (r k : Nat) : State :=
  let x := s.slot r k
  let d := dieOfRegion r
  let t := s.translate d (some (r % 8)) x.ctx x.recordVa .write 3
  match t.2 with
  | .error _ => t.1
  | .ok pa => t.1.writeRaw d pa (x.record s.clk) false .outside

/-- The queue header's done count is incremented (R127, R133). -/
def State.countDone (s : State) (r c : Nat) : State :=
  let a := s.queueAddr c r
  let q := s.read (dieOfRegion r) a 8
  q.st.writeRaw (dieOfRegion r) a (q.data.take 4 ++ leBytes 4 (leAt q.data 4 4 + 1) ++ List.replicate 56 0)

/-- ITEM_COMPLETE (R133): everything that the item of slot `k` issued has completed, so that no open batch holds a request of it; its
record is written, done is incremented, MSI-X raised if asked, and the slot freed. -/
def execItemComplete (r : Fin 16) (k : Fin 4) (s : State) : Host.Outcome State Fault Refusal :=
  if s.tripped then .next s else
  if ¬ s.completes r k then .next s
  else
    let x := s.slot r k
    let s := (s.writeRecord r k).countDone r x.ctx
    let s := s.tally (dieOfRegion r) R.dlr_t_item (r.val % 8)
    let s := if bit x.iflags 0 then s.msixRaise (s.ctxField x.ctx 0x0A 1) else s
    .next (s.updSlot r k fun _ => Slot.reset)

/-! ## Walks (R273, R274) -/

/-- An access that waited for a walk meets its fault (R274). The access of a completion record reports its own. -/
def State.walkFault (s : State) (d c : Nat) (w : WalkWaiter) (f : XFault) : State :=
  let r := 8 * d + w.region
  let x := s.slot r w.slot
  let det := xfaultDetail w.va w.ty w.agent w.region f
  let info : FaultInfo := ⟨f.code, det⟩
  if w.agent = 4 then
    match (s.fb d).colls.find? fun y => y.req.ctx = c with
    | some y => (s.xfault d c w.va w.ty 4 0 f).collFault d (bits y.req.w 112 8) f.code 0 (some det)
    | none => s.xfault d c w.va w.ty 4 0 f
  else if x.ctx ≠ c ∨ x.st = .idle ∨ (w.agent = 3 ∧ x.st = .completing) then s
  else if w.agent = 2 then
    let s := s.xfault d c w.va w.ty 2 w.region f
    match (List.range 8).find? fun j => (s.cl (8 * r + j)).run.any fun h => h.slot = w.slot && h.ctx = c with
    | none => s
    | some j =>
      match (s.cl (8 * r + j)).run with
      | none => s
      | some h => s.faultHand (8 * r + j) h h.va info
  else (s.xfault d c w.va w.ty w.agent w.region f).itemFault r w.slot (if w.agent = 0 then x.pc else x.pc - 16) info

/-- What the step `r` of walk `n`, which was `w`, leads to: it descends, or it ends for all that it serves (R273). -/
def State.walkStep (d n : Nat) (w : Walk) (r : State × WalkOut) : State :=
  match r.2 with
  | .more u => r.1.updCtx d fun x => { x with walks := listMod x.walks n fun _ => u }
  | .fault f => w.waiters.foldl (fun s q => s.walkFault d w.ctx q f) (r.1.walkEnd d n)
  | .leaf e =>
    let fails (s : State) (q : WalkWaiter) : State := match leafAccess e.size e.pte q.va q.ty with
      | .ok _ => s
      | .error f => s.walkFault d w.ctx q f
    w.waiters.foldl fails (r.1.walkEnd d n)

/-- WALK_READ_RETURN (R273): the next table read of walk `n` of die `d` returns, with what the array's check finds; the walk descends,
completes for the accesses that it serves, or faults them. -/
def execWalkReadReturn (d : Fin 2) (n : Fin 8) (ecc : Ecc) (s : State) : Host.Outcome State Fault Refusal :=
  match (s.ctxd.get d).walks[n.val]? with
  | none => .next s
  | some w => .next (State.walkStep d n w (s.walkReturn d w ecc))

end Sys2Proof.Machine
end

