-- ==== Sys2Proof/Machine/Load.lean ====
section
/-! DEFINITION. The records of an image, which the loader runs from the staged bytes in LOAD (R585 to R587, R591). A command runs the next
record when that record is its own. -/

namespace Sys2Proof.Machine

/-! ## Records (R585, R586) -/

/-- A record: its header fields and its data bytes, and its offset in the record area. -/
structure Rec where
  op : Nat
  flags : Nat
  len : Nat
  addr : Nat
  data : List Byte
  pos : Nat
deriving DecidableEq, Repr

/-- The data bytes that an operation takes. -/
def dlen (op len : Nat) : Nat :=
  match op with
  | 1 | 2 | 5 => len
  | 3 => 8
  | 4 => 16
  | _ => 0

/-- The length of the record area of the staged copy. -/
def State.recArea (s : State) : Nat := minus s.boot.staged 256

/-- The next record, as far as the record area reaches. -/
def State.nextRec (s : State) : Rec :=
  let p := s.boot.pos
  let b := s.peek (stageBase + 256 + p) 16
  let op := leAt b 0 2
  let len := leAt b 4 4
  ⟨op, leAt b 2 2, len, leAt b 8 8, s.peek (stageBase + 256 + p + 16) (min (dlen op len) (s.recArea - p - 16)), p⟩

/-- The bytes that one write of a record has: 4 for WRITE32, 8 for WRITE64 and FILL, 64 for COPY_TO_HBM. -/
def Rec.unit (r : Rec) : Nat :=
  match r.op with
  | 1 => 4
  | 2 | 3 => 8
  | 5 => 64
  | _ => 1

/-- Whether every word goes to the one address (flag fixed). -/
def Rec.fixed (r : Rec) : Bool := bit r.flags 0

/-- Whether a record is well formed (R586): flags of its own operation, len and addr in their ranges, its data within the record area;
an END stands at the end of it. -/
def Rec.good (r : Rec) (area : Nat) : Bool :=
  let whole := r.len ≠ 0 && r.len % r.unit = 0 && r.addr % r.unit = 0
  r.pos + 16 + dlen r.op r.len ≤ area &&
    (match r.op with
    | 1 | 2 => r.flags < 2 && whole
    | 3 | 5 => r.flags = 0 && whole
    | 4 => (r.flags &&& 1 = 0 && r.flags < 8) && 1 ≤ r.len && r.len ≤ 10000000
    | 6 => r.flags = 0 && r.addr = 0 && r.len = 0 && r.pos + 16 = area
    | _ => false)

/-- The loader stands at a record: in LOAD, with bytes of the record area left. -/
def State.loads (s : State) (op : Nat) : Bool :=
  s.boot.hold.isNone && s.phase = 5 && s.boot.pos + 16 ≤ s.recArea && s.nextRec.op = op

/-- The record at hand fails the copy with a cause. -/
def State.recFails (s : State) (r : Rec) (cause : Nat) : State := s.copyFails cause (256 + r.pos)

/-- On to the next record. -/
def State.recDone (s : State) (r : Rec) : State :=
  s.updBoot fun x => { x with pos := r.pos + 16 + (dlen r.op r.len + 15) / 16 * 16 }

/-! ## Targets (R587) -/

/-- The bytes that a record writes: from its address, as many. -/
def Rec.span (r : Rec) : Nat := if r.fixed then r.unit else r.len

/-- Whether two ranges of bytes meet. -/
def spansMeet (a n b m : Nat) : Bool := a < b + m && b < a + n

/-- Whether a range of memory may be written: it lies in memory, and outside the reserved areas and the staging area. -/
def loadsMemory (a n : Nat) : Bool :=
  inMemory a n && !spansMeet a n (sramBase 0) 0x100000 && !spansMeet a n (sramBase 1) 0x100000 && !spansMeet a n stageBase stageLen

/-- Whether a range of CSR space may be written: of unit `boot`, `boot.devid` and `boot.cfg` alone. -/
def loadsCsr (a n : Nat) : Bool :=
  isCsr a && isCsr (a + n - 1) &&
    (List.range ((n + 3) / 4)).all fun k =>
      let w := a + 4 * k
      (w - csrBase) / 0x100000 % 32 ≠ 1 || w = R.boot_devid.pa 0 0 || w = R.boot_cfg.pa 0 0

/-- Whether a record may write its target. -/
def Rec.allowed (r : Rec) : Bool :=
  if r.op = 5 then isHbm r.addr && isHbm (r.addr + r.len - 1) else loadsMemory r.addr r.span || loadsCsr r.addr r.span

/-! ## HBM targets (R591) -/

/-- The dies in whose HBM a record's range lies. -/
def Rec.hbmDies (r : Rec) : List Nat :=
  [0, 1].filter fun d => spansMeet r.addr r.span (d * hbmHalf) hbmHalf

/-- Whether every stack of the target die is up or down. -/
def State.targetSettled (s : State) (r : Rec) : Bool := r.hbmDies.all fun d => (List.range 4).all fun i => s.stackSettled d i

/-- Whether a granule of the range maps to a down stack. -/
def State.targetDown (s : State) (r : Rec) : Bool :=
  (blocks 256 r.addr r.span).any fun b => isHbm b.1 && s.stackDown (ownerDie b.1) (hbmLoc (granuleOf b.1)).stack

/-! ## The writes of a record -/

/-- The writes of a record in order: address and bytes. -/
def Rec.writes (r : Rec) : List (Nat × List Byte) :=
  (List.range (r.len / r.unit)).map fun k =>
    (if r.fixed then r.addr else r.addr + r.unit * k, if r.op = 3 then r.data else (r.data.drop (r.unit * k)).take r.unit)

/-- One write of the loader; none for an access that R8 or R10 would discard. -/
def State.loadWrite (s : State) (w : Nat × List Byte) : Option State :=
  if isCsr w.1 then s.loaderWrite w.1 (8 * w.2.length) (leNat w.2) else some (s.writeRaw (ownerDie w.1) w.1 w.2)

/-- The writes of a record, one at a time; the first that is not made ends them. -/
def State.loadWrites : List (Nat × List Byte) → State → State × Bool
  | [], s => (s, true)
  | w :: r, s =>
    match s.loadWrite w with
    | some t => State.loadWrites r t
    | none => (s, false)

/-- A record that writes is run (R586, R587, R591): a write to HBM waits until the stacks of the target die are settled. -/
def State.runWrite (s : State) (r : Rec) : State :=
  if ¬ r.good s.recArea then s.recFails r 6
  else if ¬ r.allowed then s.recFails r 7
  else if ¬ s.targetSettled r then s
  else if s.targetDown r then s.recFails r 10
  else
    let q := State.loadWrites r.writes s
    if q.2 then q.1.recDone r else q.1.recFails r 8

/-- The command of a record that writes: it acts when the loader stands at a record of this operation. -/
def State.writeRec (s : State) (op : Nat) : State := if s.loads op then s.runWrite s.nextRec else s

/-- WRITE32 (R586): the record writes 32-bit words. -/
def execWrite32 (s : State) : Host.Outcome State Fault Refusal := .next (s.writeRec 1)

/-- WRITE64 (R586): the record writes 64-bit words. -/
def execWrite64 (s : State) : Host.Outcome State Fault Refusal := .next (s.writeRec 2)

/-- FILL (R586): the record writes an 8-byte pattern over a range. -/
def execFill (s : State) : Host.Outcome State Fault Refusal := .next (s.writeRec 3)

/-- COPY_TO_HBM (R586, R591): the record writes its data into HBM. -/
def execCopyToHbm (s : State) : Host.Outcome State Fault Refusal := .next (s.writeRec 5)

/-! ## WAIT_BIT (R586, R591) -/

/-- The bits that a WAIT_BIT reads. -/
def Rec.width (r : Rec) : Nat := if bit r.flags 1 then 64 else 32

/-- Whether a WAIT_BIT may read its address (R587). -/
def Rec.readable (r : Rec) : Bool := isCsr r.addr || inMemory r.addr (r.width / 8)

/-- One read of a WAIT_BIT: its value, none when R8 would discard it. -/
def State.waitRead (s : State) (r : Rec) : Option (Nat × State) :=
  if isCsr r.addr then (csrTouch r.addr r.width).map fun l => State.partsRead l s
  else
    let x := s.read (ownerDie r.addr) r.addr (r.width / 8)
    some (leNat x.data, x.st)

/-- A WAIT_BIT reads once: with a match the loader goes on, else it stays at the record. -/
def State.runWait (s : State) (r : Rec) : State :=
  if ¬ r.good s.recArea then s.recFails r 6
  else if ¬ r.readable then s.recFails r 7
  else
    match s.waitRead r with
    | none => s.recFails r 8
    | some (v, t) => if v &&& leAt r.data 0 8 = leAt r.data 8 8 then t.recDone r else t

/-- WAIT_BIT (R586): the record polls its address once. -/
def execWaitBit (s : State) : Host.Outcome State Fault Refusal := .next (if s.loads 4 then s.runWait s.nextRec else s)

/-- WAIT_BIT_TIMEOUT (R591): the time of the record at hand has passed: it fails the copy, or is counted and passed over. -/
def execWaitBitTimeout (s : State) : Host.Outcome State Fault Refusal :=
  let r := s.nextRec
  .next (if ¬ s.loads 4 then s
    else if ¬ r.good s.recArea then s.recFails r 6
    else if ¬ r.readable then s.recFails r 7
    else if bit r.flags 2 then (s.count32 0 F.boot_stat_soft).recDone r
    else s.recFails r 9)

/-! ## END (R586, R588) -/

/-- RECORD_END (R585, R586, R588): the record area ends with END, and the loader enters CLEAR with the image's build and version shown;
an area that runs out without END, or an operation that does not exist, fails the copy. -/
def execRecordEnd (s : State) : Host.Outcome State Fault Refusal :=
  let r := s.nextRec
  .next (if s.boot.hold.isSome ∨ s.phase ≠ 5 then s
    else if s.recArea < s.boot.pos + 16 then s.copyFails 6 (256 + s.boot.pos)
    else if 1 ≤ r.op ∧ r.op ≤ 5 then s
    else if ¬ r.good s.recArea then s.recFails r 6
    else
      let h := s.peek stageBase 256
      ((s.setReg 0 R.boot_img (leAt h 0x18 8)).setFld 0 F.boot_svn_img (leAt h 0x10 4)).setPhase 7)

end Sys2Proof.Machine
end

