-- ==== Sys2Proof/Machine/Host.lean ====
section
/-! DEFINITION. The host port: its link and resets, configuration, and accesses to memory through BAR2 (R609 to R616, R629). -/

namespace Sys2Proof.Machine

/-- Change the host port. -/
def State.updHost (s : State) (f : HostState → HostState) : State := { s with host := f s.host }

/-! ## Memory from outside (R592, R595, R663) -/

/-- Whether an access from outside to memory is served: from run release on, and in FAILED to the staging area. -/
def State.serves (s : State) (pa n : Nat) : Bool :=
  s.released || (s.phase = 15 && stageBase ≤ pa && pa + n ≤ stageBase + stageLen)

/-- Whether an access of the management bus or the debug port does not complete: for HBM that performs refresh only, or for its target
(R188, R195, R231, R235, R663). -/
def State.memHeld (s : State) (pa n : Nat) (w : Bool) : Bool := s.serves pa n && s.memBlocked ⟨0, w, pa, n, if w then some [] else none, false, []⟩

/-- Whether an access waits for HBM that performs refresh only (R663). -/
def State.hbmStops (s : State) (pa n : Nat) : Bool := s.tripped && (blocks 64 pa n).any fun b => isHbm b.1

/-- Bytes of memory read by a package unit, which stands on die 0. -/
def State.memRead (s : State) (pa n : Nat) : Rd := if s.serves pa n then s.read 0 pa n else ⟨s, List.replicate n 0, 0⟩

/-- Bytes of memory written from outside. -/
def State.memWrite (s : State) (pa : Nat) (data : List Byte) : State :=
  if s.serves pa data.length then s.writeRaw 0 pa data false .outside else s

/-! ## BAR2 (R611) -/

/-- A failure of the host port is recorded in `pcie.ff`, and an event reports it (R611, R616, R630). -/
def State.hostFault (s : State) (code kind source addr : Nat) : State :=
  let v := kind * 2 ^ 60 + source * 2 ^ 56 + addr % 2 ^ 48
  (s.recordFirst 0 F.pcie_ff_valid v).raise 0 0x1A code (if code = 0xC003 then addr else v)

/-- The device physical address of an offset in BAR2. -/
def State.bar2Pa (s : State) (off : Nat) : Nat := s.fld 0 F.pcie_win_base * 2 ^ 34 + off

/-- An access outside memory: event 0xC003; before run release R592 answers it. -/
def State.bar2Miss (s : State) (pa : Nat) : State := if s.released then s.hostFault 0xC003 4 3 pa else s

/-- An access to memory through BAR2 is made, or waits: behind a posted write, or while its target does (R614). -/
def State.hostMem (s : State) (pa n : Nat) (b : Option (List Byte)) : State :=
  let q : MemReq := ⟨0, b.isSome, pa, n, b, false, []⟩
  if s.behind .host ∨ s.memBlocked q then s.hostQueue (.mem pa n b) else s.memServe q

/-- An access that has waited in the port comes again. -/
def State.hostAgain (s : State) (q : HostReq) : State :=
  match q with
  | .dev pa w (some v) => s.writeServe .host pa w v
  | .dev pa w none => s.readOut .host pa w
  | .mem pa n b => s.hostMem pa n b

/-- The host port tries the accesses that wait in it, in arrival order. -/
def State.hostClock (s : State) : State := s.host.inbound.foldl State.hostAgain (s.updHost fun h => { h with inbound := [] })

/-- A reset of the host port discards the writes that it has not yet applied, and completes no read (R613): how many writes there are. -/
def State.posted (s : State) : Nat := (s.host.inbound.filter HostReq.posted).length

/-- BAR2_ACCESS (R592, R595, R611, R614): a read of `n` bytes, or a write of `data`; it waits while its target does or behind a posted write.
What is no TLP of this endpoint (an offset past the BAR, a length of 0 or beyond the largest payload or read request) does not come. -/
def execBar2Access (off n : Nat) (data : Option (List Byte)) (s : State) : Host.Outcome State Fault Refusal :=
  let pa := s.bar2Pa off
  let n := match data with
    | some b => b.length
    | none => n
  if s.boot.hold.isSome ∨ n = 0 ∨ (if data.isSome then 512 else 4096) < n ∨ 2 ^ s.host.bar2 < off + n then .next s
  else
    match data with
    | some b =>
      let s := s.tally 0 R.pcie_t_inwr 0 n
      .next (if ¬ inMemory pa n then s.bar2Miss pa
        else if s.hbmStops pa n ∨ ¬ s.serves pa n then s
        else s.hostMem pa n (some b))
    | none =>
      if ¬ inMemory pa n then
        .next (((s.bar2Miss pa).emit (.memData pa (List.replicate n 0) false)).tally 0 R.pcie_t_inrd 0 n)
      else if s.hbmStops pa n then .next s
      else
        let t := if s.serves pa n then s.hostMem pa n none
          else s.emit (.memData pa (List.replicate n 0) false)
        .next (t.tally 0 R.pcie_t_inrd 0 n)

/-! ## Configuration (R609, R612, R629) -/

/-- Device-issued requests may no longer be sent: a drain in progress ends with event 0x8007 (R613, R616). -/
def State.drainEnds (s : State) : State := s.drainFails 0 0


/-- CONFIG_REQUEST (R609, R612): Request Retry Status until the loader has left FUSE, and a normal answer from then on. `op` 0 reads the
low word of the serial number, which holds the global device id in its low bits, 1 another register; 2 and 3 write Bus Master Enable, 4
and 5 the MSI-X enable, clear and set. What the spec does not give is a free value. -/
def execConfigRequest (op : Fin 6) (s : State) : Host.Outcome State Fault Refusal :=
  if s.boot.hold.isSome ∨ s.phase = 1 then .next (s.emit (.config true 0))
  else
    match op with
    | 0 => .next (s.drew.emit (.config false (s.reg 0 R.boot_devid % 2 ^ 20 + s.free % 2 ^ 12 * 2 ^ 20)))
    | 1 => .next (s.drew.emit (.config false (s.free % 2 ^ 32)))
    | 2 => .next ((s.setFld 0 F.pcie_stat_bme 0).drainEnds.emit (.config false 0))
    | 3 => .next ((s.setFld 0 F.pcie_stat_bme 1).emit (.config false 0))
    | 4 => .next ((s.updHost fun h => { h with msixEn := false }).emit (.config false 0))
    | 5 => .next ((s.updHost fun h => { h with msixEn := true }).emit (.config false 0))

/-- RESIZABLE_BAR_WRITE (R610, R629): BAR2 takes 2^`size` bytes; a base that it leaves misaligned is cleared. -/
def execResizableBarWrite (size : Fin 64) (s : State) : Host.Outcome State Fault Refusal :=
  if s.boot.hold.isSome ∨ s.phase = 1 ∨ size < 34 ∨ 40 < size then .next s
  else
    let s := s.updHost fun h => { h with bar2 := size }
    .next (if s.reg 0 R.pcie_win % 2 ^ size.val = 0 then s
      else (s.setReg 0 R.pcie_win 0).raise 0 0x1A 0x9002 (R.pcie_win.pa 0 0))

/-! ## Link and resets (R612, R613) -/

/-- HOST_LINK_L0 (R609, R612): the link reaches L0 at a generation and width; from L0 it has passed RECOVERY. -/
def execHostLinkL0 (gen : Fin 8) (width : Fin 17) (flit : Bool) (s : State) : Host.Outcome State Fault Refusal :=
  if s.boot.hold.isSome ∨ gen = 0 ∨ gen = 7 ∨ ¬ [1, 2, 4, 8, 16].contains width.val then .next s
  else
    let s := if s.fld 0 F.pcie_stat_ltssm = 3 then s.tally 0 R.pcie_t_rcv else s
    let s := (s.setFld 0 F.pcie_stat_ltssm 3).setFld 0 F.pcie_stat_gen gen
    let s := (s.setFld 0 F.pcie_stat_width width).setFld 0 F.pcie_stat_flit (b2n flit)
    .next (s.raise 0 0x1A 0xC001 (gen + width * 2 ^ 8))

/-- The MSI-X table reads as every vector masked, and no vector is pending or holds. -/
def State.msixReset (s : State) : State :=
  s.updHost fun h => { h with table := [], pba := [], holding := [], deferred := [] }

/-- PCIE_PERST (R613): link and configuration space are reset; the `pcie` registers keep their values but for the link's status. -/
def execPciePerst (s : State) : Host.Outcome State Fault Refusal :=
  if s.boot.hold.isSome then .next s
  else
    let left := s.fld 0 F.pcie_stat_ltssm
    let s := s.setReg 0 R.pcie_stat 0
    let s := (s.updHost fun h => { h with inbound := [], msixEn := false, bar2 := 40 }).msixReset
    .next (s.raise 0 0x1A 0xC002 left).drainEnds

/-- FLR (R613): the host port's registers return to reset; event 0xC006 reports the inbound writes discarded. -/
def execFlr (s : State) : Host.Outcome State Fault Refusal :=
  if s.boot.hold.isSome ∨ s.phase = 1 then .next s
  else
    let s := [R.pcie_ctl, R.pcie_win, R.pcie_evq_base, R.pcie_evq_ctl, R.pcie_msix].foldl (fun s r => s.setReg 0 r r.reset) s
    let s := if s.flag 0 F.tele_ctl_dst then s else s.setFld 0 F.tele_ctl_en 0
    .next ((s.updHost fun h => { h with inbound := [] }).msixReset.raise 0 0x1A 0xC006 s.posted).drainEnds

/-- DEVICE_REQUEST_TIMEOUT (R616): Drayman's read of its list fails at an entry: kind 0 Unsupported Request, 1 Completer Abort, 2 no
completion within 50 ms, 3 poisoned data. -/
def execDeviceRequestTimeout (kind : Fin 4) (entry : Nat) (s : State) : Host.Outcome State Fault Refusal :=
  if s.ckp.drain.isNone then .next s
  else .next ((s.hostFault 0xC004 kind 0 (s.reg 0 R.ckp_dlist + 16 * entry)).drainFails entry 0)

end Sys2Proof.Machine
end

