-- ==== Sys2Proof/Machine/Manage.lean ====
section
/-! DEFINITION. The management bus, telemetry, and the debug port (R621 to R628, R632 to R636, R640). -/

namespace Sys2Proof.Machine

/-! ## Accesses by address (R622, R626, R640) -/

/-- A read over the management bus or the debug port; none while the access does not complete. -/
def State.busRead (s : State) (p : Path) (pa width : Nat) : Option (Nat × State) :=
  if inMemory pa (width / 8) then
    if s.hbmStops pa (width / 8) ∨ s.memHeld pa (width / 8) false then none
    else
      let r := s.memRead pa (width / 8)
      some (leNat r.data, r.st)
  else if s.pathHeld p pa then none
  else some (s.pathRead p pa width)

/-- A write over the management bus or the debug port; none while the access does not complete. -/
def State.busWrite (s : State) (p : Path) (pa width v : Nat) : Option State :=
  if inMemory pa (width / 8) then
    if s.hbmStops pa (width / 8) ∨ s.memHeld pa (width / 8) true then none else some (s.memWrite pa (leBytes (width / 8) v))
  else if s.pathHeld p pa then none
  else some (s.pathWrite p pa width (v % 2 ^ width))

/-! ## The management bus -/

/-- Whether a transfer's fault counts: an illegal command byte, a wrong length, a parity or framing error, or a bad PEC where one is
required (R622). -/
def State.mgmtBad (s : State) (cause : Fin 4) (byte : Fin 256) : Bool :=
  if cause = 0 then byte = 0 || 4 < byte else cause ≠ 3 || (s.flag 0 F.mgmt_ctl_pec && !s.flag 0 F.mgmt_stat_i3c)

/-- A transfer with status 3: counted, and event 0xC007 for the first after each read of `mgmt.err` (R638). -/
def State.mgmtErr (s : State) (cause : Fin 4) (byte : Nat) : State :=
  let s := s.count32 0 F.mgmt_err_count
  if s.mgmt.errSeen then s
  else { s with mgmt := { s.mgmt with errSeen := true } }.raise 0 0x1B 0xC007 (byte + cause.val * 2 ^ 8)

/-- The command byte of a faulty transfer: as sent, or the one that the command has. -/
def errByte (e : Fin 4 × Fin 256) (cmd : Nat) : Nat := if e.1 = 0 then e.2 else cmd

/-- A read over the management bus: status byte and data. -/
def State.mgmtRead (s : State) (cmd width pa : Nat) (err : Option (Fin 4 × Fin 256)) : State :=
  let zero := List.replicate (width / 8) (0 : Byte)
  match err.filter fun e => s.mgmtBad e.1 e.2 with
  | some e => (s.mgmtErr e.1 (errByte e cmd)).emit (.i3c 3 zero)
  | none =>
    match s.busRead .mgmt pa width with
    | some (v, t) => t.emit (.i3c 0 (leBytes (width / 8) v))
    | none => s.emit (.i3c 2 zero)

/-- A write over the management bus. -/
def State.mgmtWrite (s : State) (cmd width pa v : Nat) (err : Option (Fin 4 × Fin 256)) : State :=
  match err.filter fun e => s.mgmtBad e.1 e.2 with
  | some e => s.mgmtErr e.1 (errByte e cmd)
  | none => (s.busWrite .mgmt pa width v).getD s

/-- MGMT_READ_32 (R622): `err` is a fault of the transfer: cause (0 command, 1 length, 2 parity or framing, 3 PEC) and command byte. -/
def execMgmtRead32 (pa : Fin (2 ^ 56)) (err : Option (Fin 4 × Fin 256)) (s : State) : Host.Outcome State Fault Refusal :=
  .next (if s.boot.hold.isSome then s else s.mgmtRead 1 32 pa err)

/-- MGMT_WRITE_32 (R622). -/
def execMgmtWrite32 (pa : Fin (2 ^ 56)) (value : Nat) (err : Option (Fin 4 × Fin 256)) (s : State) : Host.Outcome State Fault Refusal :=
  .next (if s.boot.hold.isSome then s else s.mgmtWrite 2 32 pa value err)

/-- MGMT_READ_64 (R622). -/
def execMgmtRead64 (pa : Fin (2 ^ 56)) (err : Option (Fin 4 × Fin 256)) (s : State) : Host.Outcome State Fault Refusal :=
  .next (if s.boot.hold.isSome then s else s.mgmtRead 3 64 pa err)

/-- MGMT_WRITE_64 (R622). -/
def execMgmtWrite64 (pa : Fin (2 ^ 56)) (value : Nat) (err : Option (Fin 4 × Fin 256)) (s : State) : Host.Outcome State Fault Refusal :=
  .next (if s.boot.hold.isSome then s else s.mgmtWrite 4 64 pa value err)

/-- DYNAMIC_ADDRESS_ASSIGN (R621, R623): the target takes a dynamic address and enters I3C mode; `ibi` tells whether the controller
enables in-band interrupts. A target that has an address answers no assignment. -/
def execDynamicAddressAssign (addr : Fin 128) (ibi : Bool) (s : State) : Host.Outcome State Fault Refusal :=
  if s.boot.hold.isSome ∨ s.flag 0 F.mgmt_stat_i3c then .next s
  else
    let s := (s.setFld 0 F.mgmt_stat_i3c 1).setFld 0 F.mgmt_stat_daddr addr
    .next { s with mgmt := { s.mgmt with ibiOn := ibi } }

/-- RSTDAA (R621): back to SMBus-compatible mode, which has no in-band interrupts. -/
def execRstdaa (s : State) : Host.Outcome State Fault Refusal :=
  if s.boot.hold.isSome then .next s
  else
    let s := (s.setFld 0 F.mgmt_stat_i3c 0).setFld 0 F.mgmt_stat_daddr 0
    .next { s with mgmt := { s.mgmt with ibiOn := false } }

/-! ## Telemetry -/

/-- A temperature as the sensor registers hold it. -/
def tempBits (t : Int) : Nat := (t % 65536).toNat

/-- The hottest sensor of die `d`: its regions and its hotspots. -/
def State.dieTemp (s : State) (d : Nat) : Int :=
  let l := ((s.pwr.temps.drop (8 * d)).take 8) ++ ((s.pwr.temps.drop (16 + 8 * d)).take 8)
  l.foldl max (l.headD 0)

/-- SENSOR_REFRESH (R624, R634): the sensor registers take the power controller's sensors, its package power, and the rails as read
(mA, mV). -/
def execSensorRefresh (rails : List (Nat × Nat)) (s : State) : Host.Outcome State Fault Refusal :=
  if s.boot.hold.isSome then .next s
  else
    let s :=
      if s.pwr.temps.isEmpty then s
      else
        let s := (List.range 16).foldl (fun s r => s.setReg 0 R.tele_tj (2 ^ 31 + tempBits (s.pwr.temps.getD r 0)) r) s
        [0, 1].foldl (fun s d => s.setReg 0 R.tele_tdie (2 ^ 31 + tempBits (s.dieTemp d)) d) s
    let s := (s.setFld 0 F.tele_ppkg_src (s.fld 0 F.pwr_stat_src)).setFld 0 F.tele_ppkg_p (s.fld 0 F.pwr_stat_p)
    .next ((List.range 16).foldl
      (fun s k =>
        match rails[k]? with
        | some (i, v) => (s.setFld 0 F.tele_rail_i i k).setFld 0 F.tele_rail_v v k
        | none => s) s)

/-- The telemetry unit reads one entry of its list. -/
def State.listRead (s : State) (k : Nat) : Nat × State :=
  let pa := s.fld 0 F.tele_list_pa k
  match csrTouch pa (if s.flag 0 F.tele_list_w64 k then 64 else 32) with
  | some l => State.partsRead l s
  | none => (0, s.raise 0 0x19 0x9001 pa)

/-- The values of the list, in order. -/
def State.listReads : List Nat → State → List Nat × State
  | [], s => ([], s)
  | k :: r, s =>
    let x := s.listRead k
    let y := State.listReads r x.2
    (x.1 :: y.1, y.2)

/-- A record is dropped (R625, R638). -/
def State.teleDrop (s : State) (seq : Nat) : State :=
  let s := s.count32 0 F.tele_drop_count
  if s.tele.dropSeen then s
  else { s with tele := { s.tele with dropSeen := true } }.raise 0 0x19 0xC008 (seq % 2 ^ 32)

/-- A record goes to its slot of the ring, or is dropped: the ring is full, or R616 forbids the request. -/
def State.telePut (s : State) (seq : Nat) (b : List Byte) : State :=
  let head := s.fld 0 F.tele_ptr_head
  let cap := 4 * 2 ^ s.fld 0 F.tele_rsz_size
  let a := s.fld 0 F.tele_ring_addr * 4096 + 1024 * (head % cap)
  let dev := s.flag 0 F.tele_ctl_dst
  if (head + 2 ^ 32 - s.fld 0 F.tele_ptr_tail) % 2 ^ 32 = cap ∨ (¬ dev ∧ ¬ s.hostReady) ∨ (dev ∧ s.hbmStops a b.length) then
    s.teleDrop seq
  else
    let s := if dev then s.writeRaw 0 a b else s.hostPut a b
    (s.setFld 0 F.tele_ptr_head (head + 1)).tally 0 R.tele_t_rec

/-- The reads of a telemetry period are made, and its record goes out (R625). -/
def State.telemetry (s : State) : State :=
  let seq := s.tele.seq
  let n := s.fld 0 F.tele_ctl_n + 1
  let t := s.tai
  let flags := b2n s.tele.skipped
  let x := State.listReads (List.range n) s
  let b := leBytes 8 seq ++ leBytes 8 t ++ leBytes 8 t ++ leBytes 1 n ++ leBytes 1 flags ++ leBytes 6 0 ++
    (x.1.map (leBytes 8)).flatten
  { x.2 with tele := { x.2.tele with seq := seq + 1, skipped := false } }.telePut seq b

/-- TELEMETRY_PERIOD (R625): a period of the stream begins; one that finds the reads of the previous period still running is skipped. -/
def execTelemetryPeriod (running : Bool) (s : State) : Host.Outcome State Fault Refusal :=
  if s.boot.hold.isSome ∨ ¬ s.flag 0 F.tele_ctl_en then .next s
  else if running then .next ({ s with tele := { s.tele with skipped := true } }.tally 0 R.tele_t_skip)
  else .next s.telemetry

/-! ## The debug port -/

/-- The data register is shifted out: status and read data of the previous access. -/
def State.jtagOut (s : State) : State := s.emit (.jtag (s.dbg.status * 2 ^ 124 + s.dbg.data))

/-- The status and data of an access. -/
def State.dbgEnds (s : State) (status data : Nat) : State := { s with dbg := { s.dbg with status := status, data := data } }

/-- DBGACC (R626, R627): the previous access is shifted out; a command is discarded while one is busy, refused while the port is closed,
and made otherwise. -/
def State.dbgacc (s : State) (cmd : Nat) (f : State → Option (Nat × State)) : State :=
  if s.boot.hold.isSome then s
  else
    let s := s.jtagOut
    if s.dbg.status = 1 then s
    else if s.flag 0 F.dbg_ctl_dis then
      let t := s.dbgEnds 2 0
      if s.dbg.refused then t else { t with dbg := { t.dbg with refused := true } }.raise 0 0x1C 0xC00C cmd
    else
      match f s with
      | some (v, t) => t.dbgEnds 0 v
      | none => s.dbgEnds 1 0

/-- DBG_READ_32 (R626): DBGACC command 1. -/
def execDbgRead32 (pa : Fin (2 ^ 52)) (s : State) : Host.Outcome State Fault Refusal :=
  .next (s.dbgacc 1 fun s => s.busRead .dbg pa 32)

/-- DBG_WRITE_32 (R626): DBGACC command 2. -/
def execDbgWrite32 (pa : Fin (2 ^ 52)) (value : Nat) (s : State) : Host.Outcome State Fault Refusal :=
  .next (s.dbgacc 2 fun s => (s.busWrite .dbg pa 32 value).map fun t => (0, t))

/-- DBG_READ_64 (R626): DBGACC command 3. -/
def execDbgRead64 (pa : Fin (2 ^ 52)) (s : State) : Host.Outcome State Fault Refusal :=
  .next (s.dbgacc 3 fun s => s.busRead .dbg pa 64)

/-- DBG_WRITE_64 (R626): DBGACC command 4. -/
def execDbgWrite64 (pa : Fin (2 ^ 52)) (value : Nat) (s : State) : Host.Outcome State Fault Refusal :=
  .next (s.dbgacc 4 fun s => (s.busWrite .dbg pa 64 value).map fun t => (0, t))

end Sys2Proof.Machine
end

