-- ==== Sys2Proof/Machine/Dispatch.lean ====
section
/-! DEFINITION. The one arm of each command (the meanings stand in the family files). -/

namespace Sys2Proof.Machine

/-- The effect of a command on everything but the queue. -/
def exec (i : Instr) (s : State) : Host.Outcome State Fault Refusal :=
  match i with
  | .csrWrite path pa width value => Sys2Proof.Machine.execCsrWrite path pa width value s
  | .rcRead path pa width => Sys2Proof.Machine.execRcRead path pa width s
  | .counterLowRead path pa => Sys2Proof.Machine.execCounterLowRead path pa s
  | .firstRecordClear path pa => Sys2Proof.Machine.execFirstRecordClear path pa s
  | .detStrictWrite path value => Sys2Proof.Machine.execDetStrictWrite path value s
  | .strictSettled => Sys2Proof.Machine.execStrictSettled s
  | .mma c e => Sys2Proof.Machine.execMma c e s
  | .mmaResultWrite c e frz bub => Sys2Proof.Machine.execMmaResultWrite c e frz bub s
  | .kSplitCombine c => Sys2Proof.Machine.execKSplitCombine c s
  | .freezeLimitExceeded c e => Sys2Proof.Machine.execFreezeLimitExceeded c e s
  | .thinRequest c => Sys2Proof.Machine.execThinRequest c s
  | .batchWaitExpire c n => Sys2Proof.Machine.execBatchWaitExpire c n s
  | .batchRun c => Sys2Proof.Machine.execBatchRun c s
  | .externalSramWrite pa data poison => Sys2Proof.Machine.execExternalSramWrite pa data poison s
  | .handPoison c cause engine offset => Sys2Proof.Machine.execHandPoison c cause engine offset s
  | .idleClusterFault c f => Sys2Proof.Machine.execIdleClusterFault c f s
  | .bqCtlWrite path d j value => Sys2Proof.Machine.execBqCtlWrite path d j value s
  | .freezeLimWrite path d value frozen => Sys2Proof.Machine.execFreezeLimWrite path d value frozen s
  | .chainSetLoad c => Sys2Proof.Machine.execChainSetLoad c s
  | .drainRowAdmit c => Sys2Proof.Machine.execDrainRowAdmit c s
  | .vrunRowAdmit c => Sys2Proof.Machine.execVrunRowAdmit c s
  | .rowWrite c n => Sys2Proof.Machine.execRowWrite c n s
  | .vrun c => Sys2Proof.Machine.execVrun c s
  | .vectorPoison c f => Sys2Proof.Machine.execVectorPoison c f s
  | .doorbell path d value => Sys2Proof.Machine.execDoorbell path d value s
  | .itemTake r => Sys2Proof.Machine.execItemTake r s
  | .nop r k => Sys2Proof.Machine.execNop r k s
  | .endProgram r k => Sys2Proof.Machine.execEndProgram r k s
  | .itemComplete r k => Sys2Proof.Machine.execItemComplete r k s
  | .fence r k => Sys2Proof.Machine.execFence r k s
  | .fenceRelease r k => Sys2Proof.Machine.execFenceRelease r k s
  | .sync r k => Sys2Proof.Machine.execSync r k s
  | .syncRelease r k => Sys2Proof.Machine.execSyncRelease r k s
  | .waitf r k => Sys2Proof.Machine.execWaitf r k s
  | .waitfRelease r k => Sys2Proof.Machine.execWaitfRelease r k s
  | .postf r k => Sys2Proof.Machine.execPostf r k s
  | .flushq r k => Sys2Proof.Machine.execFlushq r k s
  | .trap r k => Sys2Proof.Machine.execTrap r k s
  | .hand r k => Sys2Proof.Machine.execHand r k s
  | .handDeal r k => Sys2Proof.Machine.execHandDeal r k s
  | .handStart c => Sys2Proof.Machine.execHandStart c s
  | .handComplete c => Sys2Proof.Machine.execHandComplete c s
  | .load c => Sys2Proof.Machine.execLoad c s
  | .store c => Sys2Proof.Machine.execStore c s
  | .copyin c => Sys2Proof.Machine.execCopyin c s
  | .copyout c => Sys2Proof.Machine.execCopyout c s
  | .dmaComplete c done => Sys2Proof.Machine.execDmaComplete c done s
  | .reduceScatter r k => Sys2Proof.Machine.execReduceScatter r k s
  | .allGather r k => Sys2Proof.Machine.execAllGather r k s
  | .allReduce r k => Sys2Proof.Machine.execAllReduce r k s
  | .broadcast r k => Sys2Proof.Machine.execBroadcast r k s
  | .permute r k => Sys2Proof.Machine.execPermute r k s
  | .loopBegin r k => Sys2Proof.Machine.execLoopBegin r k s
  | .loopEnd r k => Sys2Proof.Machine.execLoopEnd r k s
  | .li r k => Sys2Proof.Machine.execLi r k s
  | .add r k => Sys2Proof.Machine.execAdd r k s
  | .sub r k => Sys2Proof.Machine.execSub r k s
  | .mul r k => Sys2Proof.Machine.execMul r k s
  | .and r k => Sys2Proof.Machine.execAnd r k s
  | .or r k => Sys2Proof.Machine.execOr r k s
  | .shl r k => Sys2Proof.Machine.execShl r k s
  | .shr r k => Sys2Proof.Machine.execShr r k s
  | .min r k => Sys2Proof.Machine.execMin r k s
  | .max r k => Sys2Proof.Machine.execMax r k s
  | .ld r k => Sys2Proof.Machine.execLd r k s
  | .ldComplete r k => Sys2Proof.Machine.execLdComplete r k s
  | .st r k => Sys2Proof.Machine.execSt r k s
  | .ldd r k => Sys2Proof.Machine.execLdd r k s
  | .lddComplete r k => Sys2Proof.Machine.execLddComplete r k s
  | .rdt r k => Sys2Proof.Machine.execRdt r k s
  | .test r k => Sys2Proof.Machine.execTest r k s
  | .trick r k => Sys2Proof.Machine.execTrick r k s
  | .trickRelease r k => Sys2Proof.Machine.execTrickRelease r k s
  | .bound r k => Sys2Proof.Machine.execBound r k s
  | .boundRelease r k => Sys2Proof.Machine.execBoundRelease r k s
  | .waita r k => Sys2Proof.Machine.execWaita r k s
  | .waitaRelease r k => Sys2Proof.Machine.execWaitaRelease r k s
  | .kill path d value => Sys2Proof.Machine.execKill path d value s
  | .waitWatchdog r k => Sys2Proof.Machine.execWaitWatchdog r k s
  | .programFetch r k => Sys2Proof.Machine.execProgramFetch r k s
  | .pbinv path d value => Sys2Proof.Machine.execPbinv path d value s
  | .pbinvDone d => Sys2Proof.Machine.execPbinvDone d s
  | .memoryWrite d outside pa data meets => Sys2Proof.Machine.execMemoryWrite d outside pa data meets s
  | .memoryRead d pa n meets => Sys2Proof.Machine.execMemoryRead d pa n meets s
  | .sramScrubPass d ce ue => Sys2Proof.Machine.execSramScrubPass d ce ue s
  | .carveWrite path d size => Sys2Proof.Machine.execCarveWrite path d size s
  | .carveTransitionDone d => Sys2Proof.Machine.execCarveTransitionDone d s
  | .bridgeBeatReceive d seq beat => Sys2Proof.Machine.execBridgeBeatReceive d seq beat s
  | .bridgeNak d seq beats => Sys2Proof.Machine.execBridgeNak d seq beats s
  | .bridgeRetrainDone ok => Sys2Proof.Machine.execBridgeRetrainDone ok s
  | .bridgeRetrainCmd path d => Sys2Proof.Machine.execBridgeRetrainCmd path d s
  | .coherentAccess d pa len wdata tag => Sys2Proof.Machine.execCoherentAccess d pa len wdata tag s
  | .rds line seq => Sys2Proof.Machine.execRds line seq s
  | .rdm line seq => Sys2Proof.Machine.execRdm line seq s
  | .upg line seq => Sys2Proof.Machine.execUpg line seq s
  | .evs line seq => Sys2Proof.Machine.execEvs line seq s
  | .evm line seq => Sys2Proof.Machine.execEvm line seq s
  | .snps line seq => Sys2Proof.Machine.execSnps line seq s
  | .snpi line seq => Sys2Proof.Machine.execSnpi line seq s
  | .dats line seq => Sys2Proof.Machine.execDats line seq s
  | .datm line seq => Sys2Proof.Machine.execDatm line seq s
  | .gntm line seq => Sys2Proof.Machine.execGntm line seq s
  | .evack line seq => Sys2Proof.Machine.execEvack line seq s
  | .rspi line seq => Sys2Proof.Machine.execRspi line seq s
  | .rsps line seq => Sys2Proof.Machine.execRsps line seq s
  | .rspd line seq => Sys2Proof.Machine.execRspd line seq s
  | .rspev line seq ev => Sys2Proof.Machine.execRspev line seq ev s
  | .cwinWrite path n value => Sys2Proof.Machine.execCwinWrite path n value s
  | .cwinFlushDone n => Sys2Proof.Machine.execCwinFlushDone n s
  | .hbmRequest d p meets => Sys2Proof.Machine.execHbmRequest d p meets s
  | .refreshSlot d p collisions scrub ecc => Sys2Proof.Machine.execRefreshSlot d p collisions scrub ecc s
  | .hbmTempReport d ix t => Sys2Proof.Machine.execHbmTempReport d ix t s
  | .cewWindowEnd d => Sys2Proof.Machine.execCewWindowEnd d s
  | .hbmCacheRead pa n tag => Sys2Proof.Machine.execHbmCacheRead pa n tag s
  | .hbmCacheWrite pa data poison => Sys2Proof.Machine.execHbmCacheWrite pa data poison s
  | .wcAgeExpire d g => Sys2Proof.Machine.execWcAgeExpire d g s
  | .hbmTrainDone d ix ok => Sys2Proof.Machine.execHbmTrainDone d ix ok s
  | .hbmOwnWrite path d own => Sys2Proof.Machine.execHbmOwnWrite path d own s
  | .hbmOwnReady d ix => Sys2Proof.Machine.execHbmOwnReady d ix s
  | .tgenGo path d value => Sys2Proof.Machine.execTgenGo path d value s
  | .tgenStop path d value => Sys2Proof.Machine.execTgenStop path d value s
  | .tgenRunEnd d errs => Sys2Proof.Machine.execTgenRunEnd d errs s
  | .readRow path => Sys2Proof.Machine.execReadRow path s
  | .writeRow path => Sys2Proof.Machine.execWriteRow path s
  | .softRepair path => Sys2Proof.Machine.execSoftRepair path s
  | .hardRepair path key => Sys2Proof.Machine.execHardRepair path key s
  | .clearSoft path => Sys2Proof.Machine.execClearSoft path s
  | .spareQuery path => Sys2Proof.Machine.execSpareQuery path s
  | .repairCmdDone => Sys2Proof.Machine.execRepairCmdDone s
  | .hcacheFlush path d => Sys2Proof.Machine.execHcacheFlush path d s
  | .hcacheFlushDone d => Sys2Proof.Machine.execHcacheFlushDone d s
  | .weightSlotRead d pa n ecc => Sys2Proof.Machine.execWeightSlotRead d pa n ecc s
  | .contextFill d => Sys2Proof.Machine.execContextFill d s
  | .ctxRefresh path c => Sys2Proof.Machine.execCtxRefresh path c s
  | .ctxDrop path en => Sys2Proof.Machine.execCtxDrop path en s
  | .ctxBaseWrite path value => Sys2Proof.Machine.execCtxBaseWrite path value s
  | .quotaPeriodEnd => Sys2Proof.Machine.execQuotaPeriodEnd s
  | .translationMiss d c w => Sys2Proof.Machine.execTranslationMiss d c w s
  | .walkReadReturn d n ecc => Sys2Proof.Machine.execWalkReadReturn d n ecc s
  | .mmuInv path d value => Sys2Proof.Machine.execMmuInv path d value s
  | .mmuInvDone d => Sys2Proof.Machine.execMmuInvDone d s
  | .flitReceive d ix hdr slots => Sys2Proof.Machine.execFlitReceive d ix hdr slots s
  | .linkRetryTimer d ix => Sys2Proof.Machine.execLinkRetryTimer d ix s
  | .linkCalDone d ix => Sys2Proof.Machine.execLinkCalDone d ix s
  | .linkCalTimeout d ix => Sys2Proof.Machine.execLinkCalTimeout d ix s
  | .linkEqDone d ix => Sys2Proof.Machine.execLinkEqDone d ix s
  | .linkEqTimeout d ix => Sys2Proof.Machine.execLinkEqTimeout d ix s
  | .linkAlignDone d ix => Sys2Proof.Machine.execLinkAlignDone d ix s
  | .linkAlignTimeout d ix => Sys2Proof.Machine.execLinkAlignTimeout d ix s
  | .peerExchange d ix node link => Sys2Proof.Machine.execPeerExchange d ix node link s
  | .linkReceiveSilence d ix => Sys2Proof.Machine.execLinkReceiveSilence d ix s
  | .txPllLockLoss d ix => Sys2Proof.Machine.execTxPllLockLoss d ix s
  | .retrainDone d ix => Sys2Proof.Machine.execRetrainDone d ix s
  | .retrainTimeout d ix => Sys2Proof.Machine.execRetrainTimeout d ix s
  | .lnkCtlWrite path d value => Sys2Proof.Machine.execLnkCtlWrite path d value s
  | .rd d via m => Sys2Proof.Machine.execRd d via m s
  | .wr d via m => Sys2Proof.Machine.execWr d via m s
  | .rsp d via m => Sys2Proof.Machine.execRsp d via m s
  | .seg d via m => Sys2Proof.Machine.execSeg d via m s
  | .sack d via m => Sys2Proof.Machine.execSack d via m s
  | .collStart d => Sys2Proof.Machine.execCollStart d s
  | .stepTimeout d rt step => Sys2Proof.Machine.execStepTimeout d rt step s
  | .collComplete d rt => Sys2Proof.Machine.execCollComplete d rt s
  | .meldEnable path j value => Sys2Proof.Machine.execMeldEnable path j value s
  | .initDone d j => Sys2Proof.Machine.execInitDone d j s
  | .meldDisable path j value => Sys2Proof.Machine.execMeldDisable path j value s
  | .snapDone d j => Sys2Proof.Machine.execSnapDone d j s
  | .encDone d j => Sys2Proof.Machine.execEncDone d j s
  | .trickClose d j => Sys2Proof.Machine.execTrickClose d j s
  | .applyDone d j => Sys2Proof.Machine.execApplyDone d j s
  | .frgOut d via m => Sys2Proof.Machine.execFrgOut d via m s
  | .frgIn d via m => Sys2Proof.Machine.execFrgIn d via m s
  | .frgCtl d via m => Sys2Proof.Machine.execFrgCtl d via m s
  | .joinReq => Sys2Proof.Machine.execJoinReq s
  | .joinAck => Sys2Proof.Machine.execJoinAck s
  | .joinRefuse => Sys2Proof.Machine.execJoinRefuse s
  | .joinReady => Sys2Proof.Machine.execJoinReady s
  | .joinDone => Sys2Proof.Machine.execJoinDone s
  | .joinTimeout ix => Sys2Proof.Machine.execJoinTimeout ix s
  | .codecWwWrite path d n value => Sys2Proof.Machine.execCodecWwWrite path d n value s
  | .codecWmWrite path d n value => Sys2Proof.Machine.execCodecWmWrite path d n value s
  | .codecInval path d => Sys2Proof.Machine.execCodecInval path d s
  | .wanRetryTimer d => Sys2Proof.Machine.execWanRetryTimer d s
  | .wanCalDone d => Sys2Proof.Machine.execWanCalDone d s
  | .wanCalTimeout d => Sys2Proof.Machine.execWanCalTimeout d s
  | .wanCalHoldTimeout d => Sys2Proof.Machine.execWanCalHoldTimeout d s
  | .wanTrainDone d => Sys2Proof.Machine.execWanTrainDone d s
  | .wanTrainTimeout d => Sys2Proof.Machine.execWanTrainTimeout d s
  | .wanPcsLoss d => Sys2Proof.Machine.execWanPcsLoss d s
  | .wanTxPllLoss d => Sys2Proof.Machine.execWanTxPllLoss d s
  | .wanCtlWrite path d value => Sys2Proof.Machine.execWanCtlWrite path d value s
  | .wanIp6LoWrite path d value => Sys2Proof.Machine.execWanIp6LoWrite path d value s
  | .ethernetFrame d frame fcs => Sys2Proof.Machine.execEthernetFrame d frame fcs s
  | .arpRequest d frame => Sys2Proof.Machine.execArpRequest d frame s
  | .neighborSolicitation d frame => Sys2Proof.Machine.execNeighborSolicitation d frame s
  | .bulk d packet => Sys2Proof.Machine.execBulk d packet s
  | .ctl d packet => Sys2Proof.Machine.execCtl d packet s
  | .keyMissDerived d => Sys2Proof.Machine.execKeyMissDerived d s
  | .fragmentSend d => Sys2Proof.Machine.execFragmentSend d s
  | .pairSecretLoad path d value => Sys2Proof.Machine.execPairSecretLoad path d value s
  | .pairSecretUnwrapDone d => Sys2Proof.Machine.execPairSecretUnwrapDone d s
  | .keyDerivationDone d n => Sys2Proof.Machine.execKeyDerivationDone d n s
  | .pairRoll path d n gen => Sys2Proof.Machine.execPairRoll path d n gen s
  | .pairUse path d n gen => Sys2Proof.Machine.execPairUse path d n gen s
  | .pairDropold path d n gen => Sys2Proof.Machine.execPairDropold path d n gen s
  | .pairElimWrite path d n elim => Sys2Proof.Machine.execPairElimWrite path d n elim s
  | .controlAckTimer d k => Sys2Proof.Machine.execControlAckTimer d k s
  | .controlRetransmit d k cseq => Sys2Proof.Machine.execControlRetransmit d k cseq s
  | .summarySend d job trick => Sys2Proof.Machine.execSummarySend d job trick s
  | .summary d => Sys2Proof.Machine.execSummary d s
  | .nack d => Sys2Proof.Machine.execNack d s
  | .nackRepeat d k => Sys2Proof.Machine.execNackRepeat d k s
  | .ppsEdge interval => Sys2Proof.Machine.execPpsEdge interval s
  | .zdaSentence text ms => Sys2Proof.Machine.execZdaSentence text ms s
  | .ptpSync p m => Sys2Proof.Machine.execPtpSync p m s
  | .followUp p m => Sys2Proof.Machine.execFollowUp p m s
  | .delayResp p m => Sys2Proof.Machine.execDelayResp p m s
  | .announce p a => Sys2Proof.Machine.execAnnounce p a s
  | .sourceLossTimeout src => Sys2Proof.Machine.execSourceLossTimeout src s
  | .ref10mQualify => Sys2Proof.Machine.execRef10mQualify s
  | .timeStep path delta => Sys2Proof.Machine.execTimeStep path delta s
  | .holdoverLimit => Sys2Proof.Machine.execHoldoverLimit s
  | .timeMark => Sys2Proof.Machine.execTimeMark s
  | .timeCtlWrite path value => Sys2Proof.Machine.execTimeCtlWrite path value s
  | .digestDone r k n => Sys2Proof.Machine.execDigestDone r k n s
  | .digestRecordWrite r => Sys2Proof.Machine.execDigestRecordWrite r s
  | .twinRecord r seq => Sys2Proof.Machine.execTwinRecord r seq s
  | .twinRelease path => Sys2Proof.Machine.execTwinRelease path s
  | .twinPeerTimeout => Sys2Proof.Machine.execTwinPeerTimeout s
  | .replayRelease path value => Sys2Proof.Machine.execReplayRelease path value s
  | .warningWindowEnd d w => Sys2Proof.Machine.execWarningWindowEnd d w s
  | .preqPoll => Sys2Proof.Machine.execPreqPoll s
  | .ckpCut path d value => Sys2Proof.Machine.execCkpCut path d value s
  | .cutQuiesced => Sys2Proof.Machine.execCutQuiesced s
  | .cutQuiesceTimeout => Sys2Proof.Machine.execCutQuiesceTimeout s
  | .cutCopyDone => Sys2Proof.Machine.execCutCopyDone s
  | .cutManifestDone => Sys2Proof.Machine.execCutManifestDone s
  | .drainStart path d value => Sys2Proof.Machine.execDrainStart path d value s
  | .drainDone list err => Sys2Proof.Machine.execDrainDone list err s
  | .restore path d value => Sys2Proof.Machine.execRestore path d value s
  | .restoreDone => Sys2Proof.Machine.execRestoreDone s
  | .logRingWrite d => Sys2Proof.Machine.execLogRingWrite d s
  | .rcSelftestDone d ok => Sys2Proof.Machine.execRcSelftestDone d ok s
  | .rcSelftestFail d cause => Sys2Proof.Machine.execRcSelftestFail d cause s
  | .rcTwinSignal d paths => Sys2Proof.Machine.execRcTwinSignal d paths s
  | .rcTwinLost d => Sys2Proof.Machine.execRcTwinLost d s
  | .failNAssert => Sys2Proof.Machine.execFailNAssert s
  | .heartbeatSend d => Sys2Proof.Machine.execHeartbeatSend d s
  | .hb d ix m => Sys2Proof.Machine.execHb d ix m s
  | .electionPeriod d => Sys2Proof.Machine.execElectionPeriod d s
  | .hbSilenceTimeout d ix => Sys2Proof.Machine.execHbSilenceTimeout d ix s
  | .failureNotice failed reporter cause ts => Sys2Proof.Machine.execFailureNotice failed reporter cause ts s
  | .takeoverRecord f => Sys2Proof.Machine.execTakeoverRecord f s
  | .wrReissue d => Sys2Proof.Machine.execWrReissue d s
  | .assayReset => Sys2Proof.Machine.execAssayReset s
  | .assayTimeTimeout => Sys2Proof.Machine.execAssayTimeTimeout s
  | .energySample rails => Sys2Proof.Machine.execEnergySample rails s
  | .engineTimeReportSend d => Sys2Proof.Machine.execEngineTimeReportSend d s
  | .engineTimeReport good => Sys2Proof.Machine.execEngineTimeReport good s
  | .intervalEnd => Sys2Proof.Machine.execIntervalEnd s
  | .timeMarkFrame good sub => Sys2Proof.Machine.execTimeMarkFrame good sub s
  | .offsetInvalidTimeout => Sys2Proof.Machine.execOffsetInvalidTimeout s
  | .seal key => Sys2Proof.Machine.execSeal key s
  | .setparam pid value => Sys2Proof.Machine.execSetparam pid value s
  | .tamperCheck ok => Sys2Proof.Machine.execTamperCheck ok s
  | .mirrorFrame => Sys2Proof.Machine.execMirrorFrame s
  | .mirrorFrameReceive good => Sys2Proof.Machine.execMirrorFrameReceive good s
  | .mirrorLost => Sys2Proof.Machine.execMirrorLost s
  | .powerExport range => Sys2Proof.Machine.execPowerExport range s
  | .deviceReset cause rail => Sys2Proof.Machine.execDeviceReset cause rail s
  | .fuseDone => Sys2Proof.Machine.execFuseDone s
  | .probeDone mode size => Sys2Proof.Machine.execProbeDone mode size s
  | .stageDone nor => Sys2Proof.Machine.execStageDone nor s
  | .verifyDone => Sys2Proof.Machine.execVerifyDone s
  | .write32 => Sys2Proof.Machine.execWrite32 s
  | .write64 => Sys2Proof.Machine.execWrite64 s
  | .fill => Sys2Proof.Machine.execFill s
  | .waitBit => Sys2Proof.Machine.execWaitBit s
  | .waitBitTimeout => Sys2Proof.Machine.execWaitBitTimeout s
  | .copyToHbm => Sys2Proof.Machine.execCopyToHbm s
  | .recordEnd => Sys2Proof.Machine.execRecordEnd s
  | .redoDone => Sys2Proof.Machine.execRedoDone s
  | .runRelease => Sys2Proof.Machine.execRunRelease s
  | .recoveryLoad path key => Sys2Proof.Machine.execRecoveryLoad path key s
  | .reload path key => Sys2Proof.Machine.execReload path key s
  | .svnRaise path key => Sys2Proof.Machine.execSvnRaise path key s
  | .kekBurn path key => Sys2Proof.Machine.execKekBurn path key s
  | .readyTimeout => Sys2Proof.Machine.execReadyTimeout s
  | .pkhprog dr low => Sys2Proof.Machine.execPkhprog dr low s
  | .bar2Access off n data => Sys2Proof.Machine.execBar2Access off n data s
  | .configRequest op => Sys2Proof.Machine.execConfigRequest op s
  | .hostLinkL0 gen width flit => Sys2Proof.Machine.execHostLinkL0 gen width flit s
  | .pciePerst => Sys2Proof.Machine.execPciePerst s
  | .flr => Sys2Proof.Machine.execFlr s
  | .resizableBarWrite size => Sys2Proof.Machine.execResizableBarWrite size s
  | .deviceRequestTimeout kind entry => Sys2Proof.Machine.execDeviceRequestTimeout kind entry s
  | .msixHoldExpire v => Sys2Proof.Machine.execMsixHoldExpire v s
  | .msixUnmask v addr data => Sys2Proof.Machine.execMsixUnmask v addr data s
  | .mgmtRead32 pa err => Sys2Proof.Machine.execMgmtRead32 pa err s
  | .mgmtWrite32 pa value err => Sys2Proof.Machine.execMgmtWrite32 pa value err s
  | .mgmtRead64 pa err => Sys2Proof.Machine.execMgmtRead64 pa err s
  | .mgmtWrite64 pa value err => Sys2Proof.Machine.execMgmtWrite64 pa value err s
  | .dynamicAddressAssign addr ibi => Sys2Proof.Machine.execDynamicAddressAssign addr ibi s
  | .rstdaa => Sys2Proof.Machine.execRstdaa s
  | .ibiHoldExpire => Sys2Proof.Machine.execIbiHoldExpire s
  | .sensorRefresh rails => Sys2Proof.Machine.execSensorRefresh rails s
  | .telemetryPeriod running => Sys2Proof.Machine.execTelemetryPeriod running s
  | .dbgRead32 pa => Sys2Proof.Machine.execDbgRead32 pa s
  | .dbgWrite32 pa value => Sys2Proof.Machine.execDbgWrite32 pa value s
  | .dbgRead64 pa => Sys2Proof.Machine.execDbgRead64 pa s
  | .dbgWrite64 pa value => Sys2Proof.Machine.execDbgWrite64 pa value s
  | .dbgDisable path => Sys2Proof.Machine.execDbgDisable path s
  | .traceGo path value => Sys2Proof.Machine.execTraceGo path value s
  | .traceStop path value => Sys2Proof.Machine.execTraceStop path value s
  | .powerSample est => Sys2Proof.Machine.execPowerSample est s
  | .capSlowStep => Sys2Proof.Machine.execCapSlowStep s
  | .brakeAssert => Sys2Proof.Machine.execBrakeAssert s
  | .brakeRelease => Sys2Proof.Machine.execBrakeRelease s
  | .undervoltage rail => Sys2Proof.Machine.execUndervoltage rail s
  | .dvfsRequest path r req => Sys2Proof.Machine.execDvfsRequest path r req s
  | .dvfsDone r => Sys2Proof.Machine.execDvfsDone r s
  | .pwrCtlWrite path value => Sys2Proof.Machine.execPwrCtlWrite path value s
  | .pmbusStatusPoll st0 st1 => Sys2Proof.Machine.execPmbusStatusPoll st0 st1 s
  | .pmbusWriteRetry d ack => Sys2Proof.Machine.execPmbusWriteRetry d ack s
  | .thermalStep temps => Sys2Proof.Machine.execThermalStep temps s
  | .thermalTrip sensor deg => Sys2Proof.Machine.execThermalTrip sensor deg s
  | .coolantRead t pulses => Sys2Proof.Machine.execCoolantRead t pulses s
  | .resetRelease => Sys2Proof.Machine.execResetRelease s
  | .assayPowerLoss torn => Sys2Proof.Machine.execAssayPowerLoss torn s
  | .ref10mOutOfRange => Sys2Proof.Machine.execRef10mOutOfRange s
  | .bar0Read off len => Sys2Proof.Machine.execBar0Read off len s

end Sys2Proof.Machine
end

