-- ==== Sys2Proof/Machine/Tick.lean ====
section
/-! DEFINITION. One clock of the block, in which no command comes: what its counters count and what its units do by themselves. -/

namespace Sys2Proof.Machine

/-- The clusters and regions in one clock; none runs while a thermal trip is latched (R663). -/
def State.computeClock (s : State) : State :=
  if s.tripped then s
  else
    let s := (List.range 128).foldl (fun s c => (s.clusterClock c).engineClock c) s
    (List.range 16).foldl (fun s r => (s.regionClock r).digestClock r) s

/-- The units of a die outside the regions in one clock. -/
def State.dieClock (s : State) (d : Nat) : State := (((((s.linkClock d).meldClock d).ctlPump d).holdClock d).cipClock d).fillWaitClock d

/-- One clock: time, regions, dies and filler. While device reset holds the part nothing runs. -/
def State.tick (s : State) : State :=
  let s := { s with clk := s.clk + 1 }
  if s.boot.hold.isSome then s
  else ((((s.timeTick.computeClock.dieClock 0).dieClock 1).transitClock).fillClock).hostClock

end Sys2Proof.Machine
end

