-- ==== Sys2Proof/Safety.lean ====
section
/-! DEFINITION. What statements say of a state and of two states: canonical stores, what a command leaves as it was, and a command that
completes. -/

namespace Sys2Proof.Machine

/-- The register store is canonical: keys strictly rising, so that equal registers are equal data. -/
abbrev CsrStore.wf (l : List (Nat × Word64)) : Prop := l.Pairwise fun x y => x.1 < y.1

/-- The invariant that every step keeps: both stores of a state are canonical, and it has the 128 clusters and 16 regions of R16. -/
def State.sound (s : State) : Prop :=
  Memory.wf s.mem.cells ∧ CsrStore.wf s.csr ∧ s.clusters.length = 128 ∧ s.regions.length = 16

/-- What the log of R520 to R523 and a trace capture of R628 may write on die `d` when an event is raised: the keys of `err.stat`,
`err.lost`, `err.first`, `err.first_ts`, `err.first_det` and `dbg.tctl`. -/
def logKeys (d : Nat) : List Nat :=
  [R.err_stat.key d 0, R.err_lost.key d 0, R.err_first.key d 0, R.err_first_ts.key d 0, R.err_first_det.key d 0, R.dbg_tctl.key 0 0]

/-- `t` is `s` but for registers: those with a key in `ks` may differ, and nothing else. -/
def State.sameBut (s t : State) (ks : List Nat) : Prop :=
  t = { s with csr := t.csr } ∧ ∀ k, k ∉ ks → assocGet k t.csr = assocGet k s.csr

/-- `t` is `s` but for registers with a key in `ks` and what raising events writes: the error log and a trace capture. -/
def State.sameButLog (s t : State) (ks : List Nat) : Prop :=
  t = { s with csr := t.csr, err := t.err, dbg := t.dbg } ∧
    ∀ k, k ∉ ks → k ∉ logKeys 0 → k ∉ logKeys 1 → assocGet k t.csr = assocGet k s.csr

/-- Every byte of memory reads as before. -/
def State.sameMemory (s t : State) : Prop := ∀ a, t.byte a = s.byte a

/-- Every byte of memory outside the `n` bytes at `a` reads as before. -/
def State.sameMemoryOutside (s t : State) (a n : Nat) : Prop := ∀ b, (b < a ∨ a + n ≤ b) → t.byte b = s.byte b

/-- The newest entry of the intake FIFO of die `d` has this code and detail. -/
def State.logged (t : State) (d code detail : Nat) : Prop :=
  ∃ e, (t.err.get d).fifo.getLast? = some e ∧ e.code = code ∧ e.detail = detail

/-- The error log of die `d` takes events: it is enabled, its FIFO has room, and no trace capture is recording. -/
def State.logOpen (s : State) (d : Nat) : Prop :=
  s.flag d F.err_ctl_en = true ∧ (s.err.get d).fifo.length < 64 ∧ s.flag 0 F.dbg_tctl_busy = false

/-! ## Register writes over a path -/

/-- Accesses over path `p` are served: device reset does not hold the part, it is released (R592), and the path comes from outside
(R615). -/
def State.listening (s : State) (p : Path) : Prop := s.boot.hold = none ∧ s.released = true ∧ p ≠ .loader

/-- Accesses to an address over path `p` reach its register: the path is served, no posted write of the host waits before one of its own
(R614), and a bridge that the access crosses is neither in training nor down (R188). -/
def State.taking (s : State) (p : Path) (pa : Nat) : Prop := s.listening p ∧ s.pathOpen p pa = true

/-- A write of `n` bytes comes over a path: the host port counts its bytes (R619). -/
def State.heard (s : State) (p : Path) (n : Nat) : State := s.tally 0 R.pcie_t_inwr 0 (if p = .host then n else 0)

/-- A write of `n` bytes comes over a path to a register at an address: the host port and a bridge that it crosses count it (R187,
R619). -/
def State.came (s : State) (p : Path) (pa n : Nat) : State := (s.heard p n).writeCross pa

/-- A register as its unit's table lists it: its fields with their access types. -/
def regSpec (r : Reg) : RegSpec := ((unitAt r.unit r.off).map (·.1)).getD ⟨"", r, false, []⟩

/-- All bits of a register. -/
def Reg.ones (r : Reg) : Nat := 2 ^ r.w - 1

/-- The value that a write of the whole register leaves in it by the access types of R7. -/
def State.after (s : State) (d : Nat) (r : Reg) (v : Nat) (i : Nat := 0) : Nat := (regSpec r).next (s.reg d r i) v r.ones

/-- Whether R10, or a rule of the register's chapter, lets a write of the whole register take effect. -/
def State.accepts (s : State) (d : Nat) (r : Reg) (v : Nat) (i : Nat := 0) : Bool :=
  !(regSpec r).reserved (s.reg d r i) v r.ones && !s.refuses d r i (s.reg d r i) (s.after d r v i)

/-- The write stores the register's fields. -/
def State.stored (s : State) (d : Nat) (r : Reg) (v : Nat) (i : Nat := 0) : State := s.setReg d r (s.after d r v i) i

/-- What a write of `n` bytes that does `f` leaves: the host's bytes are counted before it, or after it at the word whose bit the count
may set (R11, R619). -/
def State.pathWritten (s : State) (p : Path) (pa n : Nat) (f : State → State) : State :=
  if ovfWord pa then (f s).heard p n else f (s.heard p n)

/-! ## Links -/

/-- Nothing waits for link `i` of die `d`: no message in its queues, no request and no step of a collective under way on it. -/
def State.linkIdle (s : State) (d i : Nat) : Prop :=
  (s.lk d i).q = [] ∧ (s.lk d i).back = [] ∧ (∀ x ∈ (s.fb d).reqs, x.link = i → x.status.isSome = true) ∧
    ∀ c ∈ (s.fb d).colls, ∀ x ∈ c.sends, x.begun = true → x.via = i → x.acked = true

/-- Every field of `lnk.stat` of a link but its state and its lanes is as before. -/
def State.sameLnkStat (s t : State) (d i : Nat) : Prop :=
  ∀ f : Fld, f.reg = R.lnk_stat → f ≠ F.lnk_stat_state → f ≠ F.lnk_stat_lanes →
    f.lo + f.n ≤ F.lnk_stat_lanes.lo ∨ F.lnk_stat_lanes.lo + F.lnk_stat_lanes.n ≤ f.lo →
    f.lo + f.n ≤ F.lnk_stat_state.lo ∨ F.lnk_stat_state.lo + F.lnk_stat_state.n ≤ f.lo → f.lo + f.n ≤ 32 → t.fld d f i = s.fld d f i

/-! ## Words of a program -/

/-- Slot `k` of region `r` decodes now, outside a hand, and the word `w` at its pc is in the program buffer and is operation `o`. -/
def State.fetched (s : State) (r k : Nat) (o : Op) (w : Nat) : Prop :=
  s.decodes r k = true ∧ (s.slot r k).hand = none ∧ (s.rg r).wordAt (s.slot r k).ctx (s.slot r k).pc = some w ∧ opOf w = some o

/-- A safe step: the machine goes on. -/
def State.goesOn (s : State) : Prop := ∃ t, step s = .next t

end Sys2Proof.Machine
end

