-- ==== Sys2Proof/Certificates/Slice0/Obligations.lean ====
section
/-! DEFINITION. The statements about the part that the provers settle: which command completes and with what effect, the
frames, the whole-machine rules, and the invariant every step keeps. A statement that rests on a choice of the model says so. -/

open Sys2Proof Sys2Proof.Machine

/-- For every command c, queue rest and state s: step of s with c at the front of its queue is exec of c on s with
the rest of the queue. -/
def Obligations.StepRunsFrontCommand : Prop :=
∀ (c : Instr) (rest : List Instr) (s : State), step { s with pending := c :: rest } = exec c { s with pending := rest }

/-- Step on an empty queue is one clock, and while the part is held in reset a clock only advances the model's clock
counter. This is the choice of the model that assumption 8 names. -/
def Obligations.EmptyQueueIsOneClock : Prop :=
(∀ s : State, s.pending = [] → step s = .next s.tick) ∧ ∀ s : State, s.boot.hold ≠ none → s.tick = { s with clk := s.clk + 1 }

/-- Whatever the command and the state, exec answers a next state, or it faults with noSuchAddress of the address in
the command, and then the command is one of MEMORY_WRITE, MEMORY_READ, EXTERNAL_SRAM_WRITE, HBM_CACHE_READ,
HBM_CACHE_WRITE and WEIGHT_SLOT_READ. No command is refused. -/
def Obligations.EveryCommandAnswers : Prop :=
  ∀ (c : Instr) (s : State), (∃ t, exec c s = .next t) ∨ ∃ pa, exec c s = .fault (.noSuchAddress pa) ∧
  ((∃ d o b m, c = .memoryWrite d o pa b m) ∨ (∃ d n m, c = .memoryRead d pa n m) ∨ (∃ b p, c = .externalSramWrite pa b
    p) ∨ (∃ n e, c = .hbmCacheRead pa n e) ∨ (∃ b p, c = .hbmCacheWrite pa b p) ∨ ∃ d n e, c = .weightSlotRead d pa n e)

/-- Whatever the command and the state, the next state that exec answers has the queue of the state before. -/
def Obligations.ExecLeavesQueue : Prop :=
∀ (c : Instr) (s t : State), exec c s = .next t → t.pending = s.pending

/-- After reset the queue, the outputs and memory are empty, the clock is 0, there are 128 clusters of 4 matrix
engines and 16 regions of 4 slots, every register holds its reset value, and top.id reads 0x0036A010 on die 0
and 0x0036A011 on die 1. Register values that the spec leaves open are choices of the model (assumption 5). -/
def Obligations.ResetState : Prop :=
State.reset.pending = [] ∧ State.reset.out = [] ∧ State.reset.mem.cells = [] ∧ State.reset.clk = 0 ∧
  State.reset.clusters.length = 128 ∧ (∀ c ∈ State.reset.clusters, c.engines.length = 4) ∧ State.reset.regions.length = 16 ∧
  (∀ g ∈ State.reset.regions, g.slots.length = 4) ∧
  (∀ (d : Nat) (r : Reg) (i : Nat), State.reset.reg d r i = r.reset) ∧
  ((regSpec R.top_id).reg = R.top_id ∧ State.reset.regShown 0 R.top_id 0 = 0x0036A010 ∧ State.reset.regShown 1 R.top_id 0 = 0x0036A011)

/-- The state after reset meets State.sound: memory in its canonical form, the register store in its canonical form,
128 clusters and 16 regions. -/
def Obligations.ResetIsSound : Prop :=
State.reset.sound

/-- For every state that meets State.sound (memory in canonical form: addresses strictly rising and no listed byte
equal to what an unlisted address reads as; the register store in the same form with values within 64 bits;
128 clusters and 16 regions), the next state that step answers meets it, whatever the front command or the
clock does. -/
def Obligations.StepKeepsSound : Prop :=
∀ s t : State, s.sound → step s = .next t → t.sound

/-- For every state and operands that meet the named conditions on the state and the operands alone, exec answers
the next state with the named effect: an MMA accepted and started on its engine, an MMA result written and its
flight ended, a K-split group combined by its owner, a freeze-limit tally, a thin request queued, an open
batch closed by its wait, a closed batch run, a Hand poisoned by a fault, and a fault of a cluster that runs
no Hand. -/
def Obligations.MatrixCommandsComplete : Prop :=
  (∀ (s : State) (c : Fin 128) (e : Fin 4) (h : Hand) (i : Nat) (w : HandWord), s.tripped = false → (s.cl c).nextWord = some (h, i,
    w) → wordClass w.w = 2 → bit w.w 107 = false → bits w.w 114 2 = e → (h.doneBefore i (fun y => isLoadWord y.w) = true) → (s.cl
    c).drainFault h w.w = none → exec (.mma c e) s = .next ((s.setWord c i .started).accept c e i w.w (b2n (bit w.w 113)) [⟨w.w, 0⟩]
    (h.rowMask w.w) (h.colMask w.w) [])) ∧
  (∀ (s : State) (c : Fin 128) (e : Fin 4) (frz bub : Nat) (h : Hand) (f : Flight) (rest : List Flight), s.tripped = false → (s.eng
    c e).flight = f :: rest → (s.cl c).run = some h → (s.eng c e).blocked f = false → exec (.mmaResultWrite c e frz bub) s = .next
    (s.resultWritten c e frz bub h f rest)) ∧
  (∀ (s : State) (c : Fin 128) (n : Nat) (y : KSplit) (p : Partial) (ps : List Partial), s.tripped = false → (indexWhere (fun y =>
    y.complete && y.owner = some c.val) s.ksplits = some n) → s.ksplits[n]? = some y → y.sorted = p :: ps → exec (.kSplitCombine c)
    s = .next (s.combineSplit c n y p (p :: ps))) ∧
  (∀ (s : State) (c : Fin 128) (e : Fin 4), s.tripped = false → exec (.freezeLimitExceeded c e) s = .next (s.freezeEvent c e)) ∧
  (∀ (s : State) (c : Fin 128) (h : Hand) (i : Nat) (w : HandWord) (q : BatReq) (u : State), s.tripped = false → (s.cl c).nextWord =
    some (h, i, w) → isThin w.w = true → (h.doneBefore i (fun y => isLoadWord y.w) = true) → (s.cl c).queued < 64 → (s.cl
    c).drainFault h w.w = none → q = ⟨i, w.w, mmaRows w.w⟩ → u = s.setWord c i .started → exec (.thinRequest c) s = .next (if u.flag
    (dieOfCluster c) F.mxe_bq_ctl_en (c % 64) then u.updBatches c fun y => { y with bqWait := y.bqWait ++ [q] } else u.thinDirect c
    q)) ∧
  (∀ (s : State) (c : Fin 128) (n : Nat), s.tripped = false → n < (s.cl c).bqOpen.length → exec (.batchWaitExpire c n) s = .next
    (s.updBatches c fun y => y.closeBatch n)) ∧
  (∀ (s : State) (c : Fin 128) (b : Batch) (rest : List Batch) (h : Hand) (e : Nat) (q : BatReq) (qs : List BatReq), s.tripped =
    false → (s.cl c).bqClosed = b :: rest → (s.cl c).run = some h → (((List.range 4).find? fun e => (s.eng c e).batchBank.isSome) =
    some e) → b.reqs = q :: qs → exec (.batchRun c) s = .next (s.runBatch c e h b q rest)) ∧
  (∀ (s : State) (c : Fin 128) (f : Fin 3) (e : Fin 4) (o : Fin 0x400000) (h : Hand), (s.cl c).run = some h → exec (.handPoison c f
    e o) s = .next ((if f = 0 then (s.lineFails c o).recordMatrix c 1 0 o else s.recordMatrix c (f.val + 1) e 0).poisonHand c)) ∧
  (∀ (s : State) (c : Fin 128) (f : IdleFault), s.tripped = false → (s.cl c).run = none → exec (.idleClusterFault c f) s = .next
    (s.idleFault c f))

/-- For every state and operands that meet the named conditions on the state and the operands alone, exec answers
the next state with the named effect: a chain set loaded, a drain row admitted, a vector run accepted, a row
of a run admitted, a row written, and a vector fault (masked, or poisoning). -/
def Obligations.VectorCommandsComplete : Prop :=
  (∀ (s : State) (c : Fin 128) (h : Hand) (va pa : Nat) (t : State × Except FaultInfo Nat) (q : Rd), s.tripped = false → (s.cl
    c).run = some h → h.cset = some va → (s.cl c).loaded = false → h.stopped = false → t = s.translate (dieOfCluster c) (some
    (h.region % 8)) h.ctx va .read 1 → t.2 = .ok pa → q = t.1.read (dieOfCluster c) pa 1024 → chainSetFault (chainWords q.data) =
    none → exec (.chainSetLoad c) s = .next (q.st.updCl c fun y =>
    { y with chain := chainWords q.data, badChain := [], loaded := true })) ∧
  (∀ (s : State) (c : Fin 128) (n : Nat) (q : PortRow), s.tripped = false → (s.cl c).stop = false → s.drainOffer c = some (n, q) →
    exec (.drainRowAdmit c) s = .next (s.admitDrain c n q)) ∧
  (∀ (s : State) (c : Fin 128) (h : Hand) (i : Nat) (w : HandWord), s.tripped = false → (s.cl c).nextWord = some (h, i, w) →
    wordClass w.w = 3 → (h.doneBefore i (fun y => isLoadWord y.w) = true) → vrunFits (chainEntry (s.cl c).chain (bits w.w 121 3))
    w.w = true → exec (.vrun c) s = .next ((s.setWord c i .started).updCl c fun y => { y with vruns := y.vruns ++ [⟨i, w.w, 0⟩] })) ∧
  (∀ (s : State) (c : Fin 128) (h : Hand) (q : VRun) (rest : List VRun), s.tripped = false → (s.cl c).vruns = q :: rest → (s.cl
    c).run = some h → s.runHeld c q = false → exec (.vrunRowAdmit c) s = .next (s.admitRun c h q rest)) ∧
  (∀ (s : State) (c : Fin 128) (n : Nat) (q : PipeRow), s.tripped = false → (s.cl c).pipe[n]? = some q → (((s.cl c).pipe.take n).any
    (fun y => y.src.word = q.src.word) = false) → exec (.rowWrite c n) s = .next (s.rowOut c n q)) ∧
  (∀ (s : State) (c : Fin 128) (f : VectorFault) (u : State), s.tripped = false → f.masked = true → f.cause ≠ 2 → (u = if f.cause =
    0 then s.lineFails c f.offset else s) → exec (.vectorPoison c f) s = .next (u.count32 (dieOfCluster c) F.vxe_masked_err_count)) ∧
  (∀ (s : State) (c : Fin 128) (f : VectorFault) (u : State), s.tripped = false → (f.masked = false ∨ f.cause = 2) → (u = if f.cause
    = 0 then s.lineFails c f.offset else s) → (f.comb = true ∨ (u.cl c).run.isSome = true) → exec (.vectorPoison c f) s = .next
    (u.vectorFault c (f.cause.val + 1) (if f.cause = 0 then f.offset else 0) f.chain f.run f.comb))

/-- For every state and operands that meet the named conditions on the state and the operands alone, exec answers
the next state with the named effect: NOP, END, FENCE, SYNC, WAITF, POSTF, FLUSHQ, TRAP, LOOP begin and end
(again, and for the last time) and TEST as decoded words, and the releases of the waits and the wait watchdog. -/
def Obligations.ControlWordsComplete : Prop :=
  (∀ (s : State) (r : Fin 16) (k : Fin 4) (w : Nat) (u : State), s.fetched r k .nop w → u = s.decoded r k w → ctrlClean w false
    false false = true → exec (.nop r k) s = .next (u)) ∧
  (∀ (s : State) (r : Fin 16) (k : Fin 4) (w : Nat) (u : State) (x : Slot) (v : State), s.fetched r k .end_ w → u = s.decoded r k w
    → x = u.slot r k → ctrlClean w false false false = true → x.sched = none → v = u.trace r k 6 (u.clk - x.firstClk) → (v.slot r
    k).wait ≠ .stopped → exec (.endProgram r k) s = .next (v.updSlot r k fun y => { y with st := .completing, endDone := true })) ∧
  (∀ (s : State) (r : Fin 16) (k : Fin 4) (w : Nat) (u : State), s.fetched r k .fence w → u = s.decoded r k w → ctrlClean w false
    false false = true → exec (.fence r k) s = .next (if u.quiet r k then u else u.waitFor r k .fence)) ∧
  (∀ (s : State) (r : Fin 16) (k : Fin 4), s.tripped = false → (s.slot r k).wait = .fence → s.quiet r k = true → exec (.fenceRelease
    r k) s = .next (s.resume r k)) ∧
  (∀ (s : State) (r : Fin 16) (k : Fin 4) (w : Nat) (u : State), s.fetched r k .sync w → u = s.decoded r k w → ctrlClean w false
    true true = true → bit (bits w 96 16) r = true → exec (.sync r k) s = .next (u.waitFor r k (.sync (bits w 64 32) (bits w 96
    16)))) ∧
  (∀ (s : State) (r : Fin 16) (k : Fin 4) (id mask : Nat), s.tripped = false → (s.slot r k).wait = .sync id mask → ((maskIdx 16
    mask).all (fun q => s.arrived q (s.slot r k).ctx id mask) = true) → exec (.syncRelease r k) s = .next (s.releaseBarrier (s.slot
    r k).ctx id mask)) ∧
  (∀ (s : State) (r : Fin 16) (k : Fin 4) (w : Nat) (u : State), s.fetched r k .waitf w → u = s.decoded r k w → ctrlClean w true
    false true = true → exec (.waitf r k) s = .next (u.waitFor r k (.waitf (bits w 114 6) (bits w 64 32)))) ∧
  (∀ (s : State) (r : Fin 16) (k : Fin 4) (f a : Nat), s.tripped = false → (s.slot r k).wait = .waitf f a → a ≤ (s.slot r k).flag f
    → exec (.waitfRelease r k) s = .next (s.resume r k)) ∧
  (∀ (s : State) (r : Fin 16) (k : Fin 4) (w : Nat) (u : State), s.fetched r k .postf w → u = s.decoded r k w → ctrlClean w true
    false true = true → exec (.postf r k) s = .next (u.updSlot r k fun y => y.addFlag (bits w 114 6) (bits w 64 32))) ∧
  (∀ (s : State) (r : Fin 16) (k : Fin 4) (w : Nat) (u : State), s.fetched r k .flushq w → u = s.decoded r k w → ctrlClean w false
    true false = true → bits w 104 8 = 0 → exec (.flushq r k) s = .next ((maskIdx 8 (bits w 96 8)).foldl (fun s j => s.updBatches (8
    * r + j) Cluster.closeAll) u)) ∧
  (∀ (s : State) (r : Fin 16) (k : Fin 4) (w : Nat) (u : State), s.fetched r k .trap w → u = s.decoded r k w → ctrlClean w false
    false true = true → exec (.trap r k) s = .next (u.itemFault r k (s.slot r k).pc ⟨0x4006, bits w 64 32⟩)) ∧
  (∀ (s : State) (r : Fin 16) (k : Fin 4) (x : Slot), s.tripped = false → x = s.slot r k → ((∃ f a, x.wait = .waitf f a) ∨ (∃ id
    mask, x.wait = .sync id mask) ∨ x.wait = .fence ∨ x.wait = .bound ∨ ∃ t, x.wait = .waita t) → x.wdSeen = false → x.wdLim ≠ 0 →
    exec (.waitWatchdog r k) s = .next ((s.updSlot r k fun y => { y with wdSeen := true }).raise (dieOfRegion r) 0x04 0x4008
    (x.waitCode + r % 8 * 16 + k * 256) { ctx := x.ctx, region := r % 8 })) ∧
  (∀ (s : State) (r : Fin 16) (k : Fin 4) (w : Nat) (u : State) (x : Slot) (n skip : Nat), s.fetched r k .loopBegin w → s.endToFetch
    r k = none → u = s.decoded r k w → x = u.slot r k → bits w 120 3 ≠ 0 → bits w 120 3 ≠ 7 → bits w 120 3 = x.loops.length + 1 →
    (((u.rg r).wordAt x.ctx (loopEndVa (s.slot r k).pc w)).any (fun e => isLoopEnd e (bits w 120 3)) = true) → loopClean w = true →
    loopCount x w = some (n, skip) → exec (.loopBegin r k) s = .next (u.loopOpen r k (s.slot r k).pc w n skip)) ∧
  (∀ (s : State) (r : Fin 16) (k : Fin 4) (w : Nat) (u : State) (x : Slot) (l : Loop), s.fetched r k .loopEnd w → u = s.decoded r k
    w → x = u.slot r k → x.loops.getLast? = some l → bits w 120 3 = l.lvl → (s.slot r k).pc = (l.va + 16 * (l.nb + 1)) % 2 ^ 48 →
    bits w 0 120 = 0 → l.i + 1 < l.n → exec (.loopEnd r k) s = .next (u.updSlot r k fun y =>
    { (y.setSreg l.ix (l.i + 1)) with loops := y.loops.dropLast ++ [{ l with i := l.i + 1 }], pc := (l.va + 16) % 2 ^ 48 })) ∧
  (∀ (s : State) (r : Fin 16) (k : Fin 4) (w : Nat) (u : State) (x : Slot) (l : Loop), s.fetched r k .loopEnd w → u = s.decoded r k
    w → x = u.slot r k → x.loops.getLast? = some l → bits w 120 3 = l.lvl → (s.slot r k).pc = (l.va + 16 * (l.nb + 1)) % 2 ^ 48 →
    bits w 0 120 = 0 → l.n ≤ l.i + 1 → exec (.loopEnd r k) s = .next (u.updSlot r k fun y =>
    { y with loops := y.loops.dropLast, emptyLoop := false })) ∧
  (∀ (s : State) (r : Fin 16) (k : Fin 4) (w : Nat) (u : State) (x : Slot) (b : Bool) (dst : Int), s.fetched r k .test w → u =
    s.decoded r k w → x = u.slot r k → testClean w = true → (testCond (bits w 121 3) (x.sreg (bits w 116 5)) (if bit w 110 then bits
    w 0 64 else x.sreg (bits w 111 5)) = some b) → dst = (s.slot r k).pc + 16 * signed 32 (bits w 64 32) → u.targetOk r k dst = true
    → exec (.test r k) s = .next (if b then u.updSlot r k fun y => { y with pc := wrap 48 dst } else u))

/-- For every state and operands that meet the named conditions on the state and the operands alone, exec answers
the next state with the named effect: an item taken into the lowest idle slot, an item completed with its
record and its count, a program block fetched, a program buffer invalidation ended, an input, output or
program digest finished, and a digest record written at its ring place. -/
def Obligations.ItemCommandsComplete : Prop :=
  (∀ (s : State) (r : Fin 16) (n c : Nat), s.tripped = false → (((List.range 4).find? fun k => (s.slot r k).st = .idle) = some n) →
    s.takesItems r = true → (s.candidates r).1.chooseCtx r (s.candidates r).2 = some c → exec (.itemTake r) s = .next ((s.candidates
    r).1.takeItem r n c)) ∧
  (∀ (s : State) (r : Fin 16) (k : Fin 4) (x : Slot) (u : State), s.tripped = false → s.completes r k = true → x = s.slot r k → u =
    ((s.writeRecord r k).countDone r x.ctx).tally (dieOfRegion r) R.dlr_t_item (r % 8) → exec (.itemComplete r k) s = .next ((if bit
    x.iflags 0 then u.msixRaise (u.ctxField x.ctx 0x0A 1) else u).updSlot r k fun _ => Slot.reset)) ∧
  (∀ (s : State) (r : Fin 16) (k : Fin 4) (x : Slot) (a va pa : Nat) (t : State × Except FaultInfo Nat) (q : Rd), s.tripped = false
    → x = s.slot r k → x.wait = .fetch a → (s.ctxd.get (dieOfRegion r)).pbRun = none → va = a / 4096 * 4096 → s.vaStalls r x.ctx va
    4096 .fetch 0 = false → t = s.translate (dieOfRegion r) (some (r % 8)) x.ctx va .fetch 0 → t.2 = .ok pa → q = t.1.read
    (dieOfRegion r) pa 4096 → exec (.programFetch r k) s = .next ((q.st.updRg r fun y =>
    { y with pbuf := (⟨x.ctx, va, q.data⟩ :: y.pbuf).take 16 }).resume r k)) ∧
  (∀ (s : State) (d : Fin 2) (a : Nat) (b : Option Nat) (u : State), s.tripped = false → (s.ctxd.get d).pbRun = some a → (s.ctxd.get
    d).pbHeld = b → (u = (s.updCtx d fun y => { y with pbRun := none, pbHeld := none }).setFld d F.dlr_pbinv_go 0) → exec
    (.pbinvDone d) s = .next (b.elim u (u.pbStart d))) ∧
  (∀ (s : State) (r : Fin 16) (k : Fin 4) (n : Nat) (q : DigestTask), s.tripped = false → (s.slot r k).digests[n]? = some q →
    q.input = true → exec (.digestDone r k n) s = .next ((s.digestTensor r k 2 q q.v).updTask r k n fun t =>
    { t with input := false })) ∧
  (∀ (s : State) (r : Fin 16) (k : Fin 4) (n : Nat) (q : DigestTask), s.tripped = false → (s.slot r k).digests[n]? = some q →
    q.input = false → q.output = true → s.digestsDue r k = true → exec (.digestDone r k n) s = .next ((s.digestTensor r k 3 q
    ((List.range 4).map (q.desc.extent (s.slot r k)))).updTask r k n fun t => { t with output := false })) ∧
  (∀ (s : State) (r : Fin 16) (k : Fin 4) (n a : Nat), s.tripped = false → n = (s.slot r k).digests.length → (s.slot r k).progDig =
    some a → s.digestsDue r k = true → exec (.digestDone r k n) s = .next ((s.queueDigest r k 1 (s.digestRecord r k 1 0xFF 0 (s.slot
    r k).words (digestRoot 1 0 0 [0, 0, 0, 0] [0, 0, 0, 0] (s.slot r k).words a))).updSlot r k fun y => { y with progDig := none })) ∧
  (∀ (s : State) (r : Fin 16) (q : DigestRec) (rest : List DigestRec) (a head : Nat) (u : State), s.tripped = false → (s.rg
    r).digests = q :: rest → s.digestRoom r = true → head = s.fld 0 F.det_dr_ptr_head r → a = s.fld 0 F.det_dr_base r * 4096 + head
    % ((s.fld 0 F.det_dr_size r + 1) * 64) * 64 → (u = (s.writeRaw (dieOfRegion r) a q.bytes).updRg r fun y =>
    { y with digests := rest }) → exec (.digestRecordWrite r) s = .next ((u.setFld 0 F.det_dr_ptr_head ((head + 1) % 2 ^ 32)
    r).tally 0 R.det_t_dig))

/-- For every state and operands that meet the named conditions on the state and the operands alone, exec answers
the next state with the named effect: LI, ADD, SUB, MUL, AND, OR, SHL, SHR, MIN and MAX, decoded from a clean
word, write the value named on the right to the destination scalar register of the slot. -/
def Obligations.ScalarWordsComplete : Prop :=
  (∀ (s : State) (r : Fin 16) (k : Fin 4) (w : Nat) (u : State), s.fetched r k .li w → u = s.decoded r k w → bits w 64
    51 = 0 → exec (.li r k) s = .next (u.updSlot r k fun y => y.setSreg (bits w 115 5) (bits w 0 64))) ∧
  (∀ (s : State) (r : Fin 16) (k : Fin 4) (w : Nat) (u : State) (x : Slot) (a b : Nat), s.fetched r k .add w → u =
    s.decoded r k w → x = u.slot r k → sregClean w = true → a = x.sreg (bits w 110 5) → b = sregB x w → exec (.add r
    k) s = .next (u.updSlot r k fun y => y.setSreg (bits w 115 5) (a + b))) ∧
  (∀ (s : State) (r : Fin 16) (k : Fin 4) (w : Nat) (u : State) (x : Slot) (a b : Nat), s.fetched r k .sub w → u =
    s.decoded r k w → x = u.slot r k → sregClean w = true → a = x.sreg (bits w 110 5) → b = sregB x w → exec (.sub r
    k) s = .next (u.updSlot r k fun y => y.setSreg (bits w 115 5) (a + 2 ^ 64 - b))) ∧
  (∀ (s : State) (r : Fin 16) (k : Fin 4) (w : Nat) (u : State) (x : Slot) (a b : Nat), s.fetched r k .mul w → u =
    s.decoded r k w → x = u.slot r k → sregClean w = true → a = x.sreg (bits w 110 5) → b = sregB x w → exec (.mul r
    k) s = .next (u.updSlot r k fun y => y.setSreg (bits w 115 5) (a * b))) ∧
  (∀ (s : State) (r : Fin 16) (k : Fin 4) (w : Nat) (u : State) (x : Slot) (a b : Nat), s.fetched r k .and w → u =
    s.decoded r k w → x = u.slot r k → sregClean w = true → a = x.sreg (bits w 110 5) → b = sregB x w → exec (.and r
    k) s = .next (u.updSlot r k fun y => y.setSreg (bits w 115 5) (a &&& b))) ∧
  (∀ (s : State) (r : Fin 16) (k : Fin 4) (w : Nat) (u : State) (x : Slot) (a b : Nat), s.fetched r k .or w → u =
    s.decoded r k w → x = u.slot r k → sregClean w = true → a = x.sreg (bits w 110 5) → b = sregB x w → exec (.or r k)
    s = .next (u.updSlot r k fun y => y.setSreg (bits w 115 5) (a ||| b))) ∧
  (∀ (s : State) (r : Fin 16) (k : Fin 4) (w : Nat) (u : State) (x : Slot) (a b : Nat), s.fetched r k .shl w → u =
    s.decoded r k w → x = u.slot r k → sregClean w = true → a = x.sreg (bits w 110 5) → b = sregB x w → exec (.shl r
    k) s = .next (u.updSlot r k fun y => y.setSreg (bits w 115 5) (a <<< (b % 64)))) ∧
  (∀ (s : State) (r : Fin 16) (k : Fin 4) (w : Nat) (u : State) (x : Slot) (a b : Nat), s.fetched r k .shr w → u =
    s.decoded r k w → x = u.slot r k → sregClean w = true → a = x.sreg (bits w 110 5) → b = sregB x w → exec (.shr r
    k) s = .next (u.updSlot r k fun y => y.setSreg (bits w 115 5) (a >>> (b % 64)))) ∧
  (∀ (s : State) (r : Fin 16) (k : Fin 4) (w : Nat) (u : State) (x : Slot) (a b : Nat), s.fetched r k .min w → u =
    s.decoded r k w → x = u.slot r k → sregClean w = true → a = x.sreg (bits w 110 5) → b = sregB x w → exec (.min r
    k) s = .next (u.updSlot r k fun y => y.setSreg (bits w 115 5) (min a b))) ∧
  (∀ (s : State) (r : Fin 16) (k : Fin 4) (w : Nat) (u : State) (x : Slot) (a b : Nat), s.fetched r k .max w → u =
    s.decoded r k w → x = u.slot r k → sregClean w = true → a = x.sreg (bits w 110 5) → b = sregB x w → exec (.max r
    k) s = .next (u.updSlot r k fun y => y.setSreg (bits w 115 5) (max a b)))

/-- For every state and operands that meet the named conditions on the state and the operands alone, exec answers
the next state with the named effect: LD, ST, LDD with their completions, RDT, and TRICK, BOUND and WAITA with
the releases of their waits. -/
def Obligations.MemoryAndMeldWordsComplete : Prop :=
  (∀ (s : State) (r : Fin 16) (k : Fin 4) (w : Nat) (u : State) (x : Slot) (a : Nat), s.fetched r k .ld w → u = s.decoded r k w → x
    = u.slot r k → sregClean w = true → a = (x.sreg (bits w 110 5) + sregB x w) % 2 ^ 48 → a % 8 = 0 → exec (.ld r k) s = .next
    (u.waitFor r k (.ld (bits w 115 5) a))) ∧
  (∀ (s : State) (r : Fin 16) (k : Fin 4) (rd va pa : Nat) (t : State × Except FaultInfo Nat) (q : Rd), s.tripped = false → (s.slot
    r k).wait = .ld rd va → s.vaStalls r (s.slot r k).ctx va 8 .read 1 = false → t = s.translate (dieOfRegion r) (some (r % 8))
    (s.slot r k).ctx va .read 1 → t.2 = .ok pa → q = t.1.read (dieOfRegion r) pa 8 → exec (.ldComplete r k) s = .next
    (((q.st.updSlot r k fun y => y.setSreg rd (leNat q.data)).resume r k).trace r k 2 (leNat q.data))) ∧
  (∀ (s : State) (r : Fin 16) (k : Fin 4) (w : Nat) (u : State) (x : Slot) (a pa : Nat) (t : State × Except FaultInfo Nat),
    s.fetched r k .st w → s.stStalls r k = false → u = s.decoded r k w → x = u.slot r k → sregClean w = true → a = (x.sreg (bits w
    110 5) + sregB x w) % 2 ^ 48 → a % 8 = 0 → t = u.translate (dieOfRegion r) (some (r % 8)) x.ctx a .write 1 → t.2 = .ok pa → exec
    (.st r k) s = .next (t.1.writeRaw (dieOfRegion r) pa (leBytes 8 (x.sreg (bits w 115 5))) false .outside)) ∧
  (∀ (s : State) (r : Fin 16) (k : Fin 4) (w : Nat) (u : State) (x : Slot) (a : Nat), s.fetched r k .ldd w → u = s.decoded r k w → x
    = u.slot r k → sregClean w = true → bit w 119 = false → a = (x.sreg (bits w 110 5) + sregB x w) % 2 ^ 48 → a % 128 = 0 → exec
    (.ldd r k) s = .next (u.waitFor r k (.ldd (bits w 115 4) a))) ∧
  (∀ (s : State) (r : Fin 16) (k : Fin 4) (ds va pa : Nat) (y : Desc) (t : State × Except FaultInfo Nat) (q : Rd), s.tripped = false
    → (s.slot r k).wait = .ldd ds va → s.vaStalls r (s.slot r k).ctx va 128 .read 1 = false → t = s.translate (dieOfRegion r) (some
    (r % 8)) (s.slot r k).ctx va .read 1 → t.2 = .ok pa → q = t.1.read (dieOfRegion r) pa 128 → checkDesc q.data = some y → exec
    (.lddComplete r k) s = .next (q.st.fillDesc r k ds ((s.slot r k).pc - 16) y)) ∧
  (∀ (s : State) (r : Fin 16) (k : Fin 4) (w : Nat) (u : State) (x : Slot) (a : Nat), s.fetched r k .rdt w → u = s.decoded r k w → x
    = u.slot r k → bits w 14 101 = 0 → (bits w 0 14 % 256 = 5 ∨ bits (bits w 0 14) 8 6 = 0) → rdtSource u x (bits w 0 14) = some a →
    x.replay = false → exec (.rdt r k) s = .next ((u.updSlot r k fun y => y.setSreg (bits w 115 5) a).trace r k 3 a)) ∧
  (∀ (s : State) (r : Fin 16) (k : Fin 4) (w : Nat) (u : State) (x : Slot) (j : Nat), s.fetched r k .trick w → u = s.decoded r k w →
    x = u.slot r k → r.val % 8 = 0 → bits w 0 115 = 0 → u.meldSlot (dieOfRegion r) x.ctx = some j → u.jobSt (dieOfRegion r) j = 3 →
    x.sreg (bits w 115 5) = u.acc (dieOfRegion r) j → x.sreg (bits w 115 5) ≠ 2 ^ 64 - 1 → exec (.trick r k) s = .next ((u.openTrick
    (dieOfRegion r) j).resume r k)) ∧
  (∀ (s : State) (r : Fin 16) (k : Fin 4) (w : Nat) (u : State) (x : Slot) (j : Nat), s.fetched r k .bound w → u = s.decoded r k w →
    x = u.slot r k → r.val % 8 = 0 → bits w 0 115 = 0 → bits w 115 5 = 0 → u.meldSlot (dieOfRegion r) x.ctx = some j → u.jobSt
    (dieOfRegion r) j = 3 → exec (.bound r k) s = .next (u.resume r k)) ∧
  (∀ (s : State) (r : Fin 16) (k : Fin 4) (w : Nat) (u : State) (x : Slot) (j : Nat), s.fetched r k .waita w → u = s.decoded r k w →
    x = u.slot r k → r.val % 8 = 0 → bits w 0 115 = 0 → u.meldSlot (dieOfRegion r) x.ctx = some j → u.jobSt (dieOfRegion r) j ≠ 1 →
    u.jobSt (dieOfRegion r) j ≠ 15 → x.sreg (bits w 115 5) ≤ u.applied (dieOfRegion r) j → exec (.waita r k) s = .next (u.resume r
    k)) ∧
  (∀ (s : State) (r : Fin 16) (k : Fin 4) (t j : Nat) (x : Slot), s.tripped = false → x = s.slot r k → x.wait = .trick t →
    s.meldSlot (dieOfRegion r) x.ctx = some j → s.jobSt (dieOfRegion r) j = 3 → t = s.acc (dieOfRegion r) j → t ≠ 2 ^ 64 - 1 → exec
    (.trickRelease r k) s = .next ((s.openTrick (dieOfRegion r) j).resume r k)) ∧
  (∀ (s : State) (r : Fin 16) (k : Fin 4) (j : Nat) (x : Slot), s.tripped = false → x = s.slot r k → x.wait = .bound → s.meldSlot
    (dieOfRegion r) x.ctx = some j → s.jobSt (dieOfRegion r) j = 8 → exec (.boundRelease r k) s = .next ((s.localUpdate (dieOfRegion
    r) j).resume r k)) ∧
  (∀ (s : State) (r : Fin 16) (k : Fin 4) (t j : Nat) (x : Slot), s.tripped = false → x = s.slot r k → x.wait = .waita t →
    s.meldSlot (dieOfRegion r) x.ctx = some j → s.jobSt (dieOfRegion r) j ≠ 1 → s.jobSt (dieOfRegion r) j ≠ 15 → t ≤ s.applied
    (dieOfRegion r) j → exec (.waitaRelease r k) s = .next (s.resume r k))

/-- For every state and operands that meet the named conditions on the state and the operands alone, exec answers
the next state with the named effect: HAND opens a Hand, a Hand is dealt to its clusters, started on a cluster
and completed, and the LOAD, STORE, COPYIN and COPYOUT transfers start and finish. -/
def Obligations.HandCommandsComplete : Prop :=
  (∀ (s : State) (r : Fin 16) (k : Fin 4) (w : Nat) (u : State), s.fetched r k .hand w → u = s.decoded r k w → handClean w = true →
    exec (.hand r k) s = .next ((u.updSlot r k fun y => { y with hand := some ⟨w, (s.slot r k).pc, []⟩ }).collectWords 65 r k)) ∧
  (∀ (s : State) (r : Fin 16) (k : Fin 4) (h : OpenHand) (x : Slot), s.tripped = false → x = s.slot r k → x.hand = some h →
    x.collecting = false → x.st = .running → (x.wait = .none ∨ x.wait = .handFull) → exec (.handDeal r k) s = .next (s.dealHand r k
    h)) ∧
  (∀ (s : State) (c : Fin 128) (h : Hand) (rest : List Hand) (u : State), s.tripped = false → (s.cl c).run = none → (s.cl c).queue =
    h :: rest → (u = s.updCl c fun y => { y with queue := rest }) → u.outOfService c = false → exec (.handStart c) s = .next
    (u.handBegins c h)) ∧
  (∀ (s : State) (c : Fin 128) (h : Hand) (u : State), s.tripped = false → (s.cl c).run = some h → (h.stopped = true ∨ ((s.cl
    c).loaded = true ∧ h.words.all (fun w => w.st = .done) = true)) → s.writesHeld c = false → (u = s.updCl c fun y =>
    { y with run := none, loaded := false, written := [], held := [] }) → exec (.handComplete c) s = .next (((s.cl c).held.foldl
    (fun s w => s.sramWrite w.pa w.data w.poison) u).memResume.handReturns c h)) ∧
  (∀ (s : State) (c : Fin 128) (h : Hand) (i : Nat) (w : HandWord) (q : DmaJob), s.tripped = false → (s.cl c).nextWord = some (h, i,
    w) → w.dma = some q → isDma w.w 0 = true → s.dmaReady c h i q = true → exec (.load c) s = .next (s.setWord c i .started)) ∧
  (∀ (s : State) (c : Fin 128) (h : Hand) (i : Nat) (w : HandWord) (q : DmaJob), s.tripped = false → (s.cl c).nextWord = some (h, i,
    w) → w.dma = some q → isDma w.w 1 = true → s.dmaReady c h i q = true → exec (.store c) s = .next (s.setWord c i .started)) ∧
  (∀ (s : State) (c : Fin 128) (h : Hand) (i : Nat) (w : HandWord) (q : DmaJob), s.tripped = false → (s.cl c).nextWord = some (h, i,
    w) → w.dma = some q → isDma w.w 2 = true → s.dmaReady c h i q = true → exec (.copyin c) s = .next (s.setWord c i .started)) ∧
  (∀ (s : State) (c : Fin 128) (h : Hand) (i : Nat) (w : HandWord) (q : DmaJob), s.tripped = false → (s.cl c).nextWord = some (h, i,
    w) → w.dma = some q → isDma w.w 3 = true → s.dmaReady c h i q = true → exec (.copyout c) s = .next (s.setWord c i .started)) ∧
  (∀ (s : State) (c : Fin 128) (n : Nat) (errs : List (Nat × Ecc)) (h : Hand) (w : HandWord) (q : DmaJob) (x : State × Except
    FaultInfo Unit), s.tripped = false → (s.cl c).run = some h → h.words[n]? = some w → w.dma = some q → h.stopped = false → w.st =
    .started → s.dmaStalls c h.ctx q = false → x = s.dmaRun c h.ctx q errs → x.2 = .ok () → exec (.dmaComplete c ⟨n, errs⟩) s = .next
    (x.1.setWord c n .done))

/-- For every state and operands that meet the named conditions on the state and the operands alone, exec answers
the next state with the named effect: REDUCE_SCATTER, ALL_GATHER, ALL_REDUCE, BROADCAST and PERMUTE queue a
collective, a queued collective starts, an overdue step faults, and a finished collective completes. -/
def Obligations.CollectiveCommandsComplete : Prop :=
  (∀ (s : State) (r : Fin 16) (k : Fin 4) (w : Nat) (u : State) (x : Slot) (a b : Tile), s.fetched r k .reduceScatter w → u =
    s.decoded r k w → x = u.slot r k → (s.fb (dieOfRegion r)).queue.length < 256 → collClean w = true → collTile x (bits w 107 4) =
    .ok a → collTile x (bits w 103 4) = .ok b → a.exceeds (bits w 107 4) = none → b.exceeds (bits w 103 4) = none → exec
    (.reduceScatter r k) s = .next (u.queueColl r k (s.slot r k).pc w a b false)) ∧
  (∀ (s : State) (r : Fin 16) (k : Fin 4) (w : Nat) (u : State) (x : Slot) (a b : Tile), s.fetched r k .allGather w → u = s.decoded
    r k w → x = u.slot r k → (s.fb (dieOfRegion r)).queue.length < 256 → collClean w = true → collTile x (bits w 107 4) = .ok a →
    collTile x (bits w 103 4) = .ok b → a.exceeds (bits w 107 4) = none → b.exceeds (bits w 103 4) = none → exec (.allGather r k) s
    = .next (u.queueColl r k (s.slot r k).pc w a b false)) ∧
  (∀ (s : State) (r : Fin 16) (k : Fin 4) (w : Nat) (u : State) (x : Slot) (a b : Tile), s.fetched r k .allReduce w → u = s.decoded
    r k w → x = u.slot r k → (s.fb (dieOfRegion r)).queue.length < 256 → collClean w = true → collTile x (bits w 107 4) = .ok a →
    collTile x (bits w 103 4) = .ok b → a.exceeds (bits w 107 4) = none → b.exceeds (bits w 103 4) = none → exec (.allReduce r k) s
    = .next (u.queueColl r k (s.slot r k).pc w a b false)) ∧
  (∀ (s : State) (r : Fin 16) (k : Fin 4) (w : Nat) (u : State) (x : Slot) (a b : Tile), s.fetched r k .broadcast w → u = s.decoded
    r k w → x = u.slot r k → (s.fb (dieOfRegion r)).queue.length < 256 → collClean w = true → collTile x (bits w 107 4) = .ok a →
    collTile x (bits w 103 4) = .ok b → a.exceeds (bits w 107 4) = none → b.exceeds (bits w 103 4) = none → exec (.broadcast r k) s
    = .next (u.queueColl r k (s.slot r k).pc w a b false)) ∧
  (∀ (s : State) (r : Fin 16) (k : Fin 4) (w : Nat) (u : State) (x : Slot) (a b : Tile), s.fetched r k .permute w → u = s.decoded r
    k w → x = u.slot r k → (s.fb (dieOfRegion r)).queue.length < 256 → collClean w = true → collTile x (bits w 107 4) = .ok a →
    collTile x (bits w 103 4) = .ok b → a.exceeds (bits w 107 4) = none → b.exceeds (bits w 103 4) = none → exec (.permute r k) s =
    .next (u.queueColl r k (s.slot r k).pc w a b false)) ∧
  (∀ (s : State) (d : Fin 2) (n : Nat) (q : CollReq), s.flag d F.col_ctl_en = true → (s.fb d).colls.length < 16 → s.nextColl d =
    some n → (s.fb d).queue[n]? = some q → exec (.collStart d) s = .next (s.collStarts d n q)) ∧
  (∀ (s : State) (d : Fin 2) (rt : Fin 256) (n a : Nat) (c : Coll), s.coll d rt = some c → ((((c.recvs.find? fun x => x.step = n &&
    !x.done && x.tmo ≠ 0).map fun x => x.src).orElse fun _ => (c.sends.find? fun x => x.step = n && x.begun && !x.acked && x.tmo ≠
    0).map fun x => x.dst) = some a) → exec (.stepTimeout d rt n) s = .next (s.collFault d rt 0x2014 a)) ∧
  (∀ (s : State) (d : Fin 2) (rt : Fin 256) (c : Coll) (u : State), s.coll d rt = some c → c.complete = true → u = s.collEnd d rt c
    false → exec (.collComplete d rt) s = .next (if bit c.req.w 96 then u.updSlot c.req.region c.req.slot fun y => y.addFlag (bits
    c.req.w 97 6) 1 else u))

/-- For every state and operands that meet the named conditions on the state and the operands alone, exec answers the
next state with the named effect: a memory write and read, a write of cluster memory from outside its cluster (each of
the three done at once, or put at the end of the waiting requests), a scrubber pass, a carve change, a bridge beat (in
sequence, out of sequence is not claimed here, or bad), a NAK (replayed, or forcing a retrain), a retrain ended (good,
bad, bad for the last time) and a window flush. -/
def Obligations.OnChipMemoryCommandsComplete : Prop :=
  (∀ (s : State) (d : Fin 2) (b : Bool) (a : Nat) (l : List Byte) (po : Bool) (e : EccList) (be : List Nat) (u : State), inMemory a
    l.length = true → u = s.bankWait a be → u.memBlocked ⟨d, b, a, l.length, some l, po, e⟩ = false → exec (.memoryWrite d b a l
    ⟨po, e, be⟩) s = .next (u.writeRaw d a l po (if b then .outside else .unit) none e)) ∧
  (∀ (s : State) (d : Fin 2) (a n : Nat) (e : EccList) (be : List Nat) (u : State) (q : Rd), inMemory a n = true → u = s.bankWait a
    be → u.memBlocked ⟨d, false, a, n, none, false, e⟩ = false → q = u.read d a n e → exec (.memoryRead d a n ⟨e, be⟩) s = .next
    (q.st.emit (.memData a q.data q.poison))) ∧
  (∀ (s : State) (a : Nat) (l : List Byte) (po : Bool), isClusterSram a = true → isClusterSram (a + l.length - 1) = true →
    s.memBlocked ⟨ownerDie a, true, a, l.length, some l, po, []⟩ = false → exec (.externalSramWrite a l po) s = .next (s.writeRaw
    (ownerDie a) a l po .outside none [])) ∧
  (∀ (s : State) (d : Fin 2) (b : Bool) (a : Nat) (l : List Byte) (po : Bool) (e : EccList) (be : List Nat) (u : State) (q :
    MemReq), inMemory a l.length = true → u = s.bankWait a be → q = ⟨d, b, a, l.length, some l, po, e⟩ → u.memBlocked q = true →
    exec (.memoryWrite d b a l ⟨po, e, be⟩) s = .next { u with mem := { u.mem with memWait := u.mem.memWait ++ [q] } }) ∧
  (∀ (s : State) (d : Fin 2) (a n : Nat) (e : EccList) (be : List Nat) (u : State) (q : MemReq), inMemory a n = true → u =
    s.bankWait a be → q = ⟨d, false, a, n, none, false, e⟩ → u.memBlocked q = true → exec (.memoryRead d a n ⟨e, be⟩) s = .next
    { u with mem := { u.mem with memWait := u.mem.memWait ++ [q] } }) ∧
  (∀ (s : State) (a : Nat) (l : List Byte) (po : Bool) (q : MemReq), isClusterSram a = true → isClusterSram (a + l.length - 1) =
    true → q = ⟨ownerDie a, true, a, l.length, some l, po, []⟩ → s.memBlocked q = true → exec (.externalSramWrite a l po) s = .next
    { s with mem := { s.mem with memWait := s.mem.memWait ++ [q] } }) ∧
  (∀ (s : State) (d : Fin 2) (ce ue : List Nat), s.flag d F.sram_scrub_en = true → exec (.sramScrubPass d ce ue) s = .next
    (s.scrubPass d ce ue)) ∧
  (∀ (s : State) (d : Fin 2), s.flag d F.sram_carve_busy = true → exec (.carveTransitionDone d) s = .next (s.carveEnds d)) ∧
  (∀ (s : State) (d : Fin 2) (n : Nat) (b : Bool) (st me : Nat) (u : State), (u = (s.tally (1 - d) R.brg_t_stall 0 st).tally d
    R.brg_t_mesh 0 me) → u.flag d F.brg_stat_up = true → b = true → n = (u.memd.get d).bridge.rxSeq → exec (.bridgeBeatReceive d n
    ⟨b, st, me⟩) s = .next (u.updBridge d fun x => { x with rxSeq := n + 1 })) ∧
  (∀ (s : State) (d : Fin 2) (n : Nat) (b : Bool) (st me : Nat) (u : State), (u = (s.tally (1 - d) R.brg_t_stall 0 st).tally d
    R.brg_t_mesh 0 me) → u.flag d F.brg_stat_up = true → b = false → exec (.bridgeBeatReceive d n ⟨b, st, me⟩) s = .next ((u.count32 d
    F.brg_crc_count).emit (.link d 18 [2, n]))) ∧
  (∀ (s : State) (d : Fin 2) (n a f : Nat) (x : Bridge), s.flag d F.brg_stat_up = true → x = (s.memd.get d).bridge → (f = if
    x.nakSeq = some n then x.naks else 0) → f < 8 → exec (.bridgeNak d n a) s = .next ((s.count32 d F.brg_replay_count (min a
    512)).updBridge d fun y => { y with nakSeq := some n, naks := f + 1 })) ∧
  (∀ (s : State) (d : Fin 2) (n a f : Nat) (x : Bridge), s.flag d F.brg_stat_up = true → x = (s.memd.get d).bridge → (f = if
    x.nakSeq = some n then x.naks else 0) → 8 ≤ f → exec (.bridgeNak d n a) s = .next (s.bridgeTrain d f)) ∧
  (∀ (s : State) (b : Bool), s.flag 0 F.brg_stat_train = true → b = true → exec (.bridgeRetrainDone b) s = .next
    (s.bridgeTrained.pathResume)) ∧
  (∀ (s : State) (b : Bool), s.flag 0 F.brg_stat_train = true → b = false → s.fld 0 F.brg_stat_tries < 2 → exec (.bridgeRetrainDone
    b) s = .next (s.setBoth F.brg_stat_tries (s.fld 0 F.brg_stat_tries + 1))) ∧
  (∀ (s : State) (b : Bool), s.flag 0 F.brg_stat_train = true → b = false → s.fld 0 F.brg_stat_tries = 2 → exec (.bridgeRetrainDone
    b) s = .next (s.bridgeFalls.pathResume)) ∧
  (∀ (s : State) (i : Fin 8) (c : CwinChange), (((s.memd.get 0).cwins.find? fun c => c.n = i.val) = some c) → exec (.cwinFlushDone
    i) s = .next (s.windowChanges i c))

/-- For every state and operands that meet the named conditions on the state and the operands alone, exec answers the
next state with the named effect: each message of the coherence protocol taken out of its channel and given to the
home or to the remote side, and a coherent access begun at its home or at the other die, one outside the coherent
windows made as a plain access, and one that must wait put at the end of those that wait. -/
def Obligations.CoherenceCommandsComplete : Prop :=
  (∀ (s : State) (ln n : Nat) (l : CohLn) (y : State × CohLn), s.flag 0 F.brg_stat_up = true → l = s.coh ln → s.homeFull .RDS l =
    false → (y = State.homeArrive (l.earlyH.length + 2) s
    { l with toHome := l.toHome.filter fun y => ¬ (y.msg = .RDS ∧ y.seq = n % 16) } ⟨.RDS, n % 16, 0⟩) → exec (.rds ln n) s = .next
    (((y.1.setCoh y.2).dirRetry ln).cohResume)) ∧
  (∀ (s : State) (ln n : Nat) (l : CohLn) (y : State × CohLn), s.flag 0 F.brg_stat_up = true → l = s.coh ln → s.homeFull .RDM l =
    false → (y = State.homeArrive (l.earlyH.length + 2) s
    { l with toHome := l.toHome.filter fun y => ¬ (y.msg = .RDM ∧ y.seq = n % 16) } ⟨.RDM, n % 16, 0⟩) → exec (.rdm ln n) s = .next
    (((y.1.setCoh y.2).dirRetry ln).cohResume)) ∧
  (∀ (s : State) (ln n : Nat) (l : CohLn) (y : State × CohLn), s.flag 0 F.brg_stat_up = true → l = s.coh ln → s.homeFull .UPG l =
    false → (y = State.homeArrive (l.earlyH.length + 2) s
    { l with toHome := l.toHome.filter fun y => ¬ (y.msg = .UPG ∧ y.seq = n % 16) } ⟨.UPG, n % 16, 0⟩) → exec (.upg ln n) s = .next
    (((y.1.setCoh y.2).dirRetry ln).cohResume)) ∧
  (∀ (s : State) (ln n : Nat) (l : CohLn) (y : State × CohLn), s.flag 0 F.brg_stat_up = true → l = s.coh ln → s.homeFull .EVS l =
    false → (y = State.homeArrive (l.earlyH.length + 2) s
    { l with toHome := l.toHome.filter fun y => ¬ (y.msg = .EVS ∧ y.seq = n % 16) } ⟨.EVS, n % 16, 0⟩) → exec (.evs ln n) s = .next
    (((y.1.setCoh y.2).dirRetry ln).cohResume)) ∧
  (∀ (s : State) (ln n : Nat) (l : CohLn) (y : State × CohLn), s.flag 0 F.brg_stat_up = true → l = s.coh ln → s.homeFull .EVM l =
    false → (y = State.homeArrive (l.earlyH.length + 2) s
    { l with toHome := l.toHome.filter fun y => ¬ (y.msg = .EVM ∧ y.seq = n % 16) } ⟨.EVM, n % 16, 0⟩) → exec (.evm ln n) s = .next
    (((y.1.setCoh y.2).dirRetry ln).cohResume)) ∧
  (∀ (s : State) (ln n : Nat) (l : CohLn) (y : State × CohLn), s.flag 0 F.brg_stat_up = true → l = s.coh ln → s.homeFull .RSPI l =
    false → (y = State.homeArrive (l.earlyH.length + 2) s
    { l with toHome := l.toHome.filter fun y => ¬ (y.msg = .RSPI ∧ y.seq = n % 16) } ⟨.RSPI, n % 16, 0⟩) → exec (.rspi ln n) s =
    .next (((y.1.setCoh y.2).dirRetry ln).cohResume)) ∧
  (∀ (s : State) (ln n : Nat) (l : CohLn) (y : State × CohLn), s.flag 0 F.brg_stat_up = true → l = s.coh ln → s.homeFull .RSPS l =
    false → (y = State.homeArrive (l.earlyH.length + 2) s
    { l with toHome := l.toHome.filter fun y => ¬ (y.msg = .RSPS ∧ y.seq = n % 16) } ⟨.RSPS, n % 16, 0⟩) → exec (.rsps ln n) s =
    .next (((y.1.setCoh y.2).dirRetry ln).cohResume)) ∧
  (∀ (s : State) (ln n : Nat) (l : CohLn) (y : State × CohLn), s.flag 0 F.brg_stat_up = true → l = s.coh ln → s.homeFull .RSPD l =
    false → (y = State.homeArrive (l.earlyH.length + 2) s
    { l with toHome := l.toHome.filter fun y => ¬ (y.msg = .RSPD ∧ y.seq = n % 16) } ⟨.RSPD, n % 16, 0⟩) → exec (.rspd ln n) s =
    .next (((y.1.setCoh y.2).dirRetry ln).cohResume)) ∧
  (∀ (s : State) (ln n ev : Nat) (l : CohLn) (y : State × CohLn), s.flag 0 F.brg_stat_up = true → l = s.coh ln → s.homeFull .RSPEV l
    = false → (y = State.homeArrive (l.earlyH.length + 2) s
    { l with toHome := l.toHome.filter fun y => ¬ (y.msg = .RSPEV ∧ y.seq = n % 16) } ⟨.RSPEV, n % 16, ev % 16⟩) → exec (.rspev ln n
    ev) s = .next (((y.1.setCoh y.2).dirRetry ln).cohResume)) ∧
  (∀ (s : State) (ln n : Nat) (l : CohLn) (y : State × CohLn), s.flag 0 F.brg_stat_up = true → l = s.coh ln → (y =
    State.remoteArrive (l.earlyR.length + 2) s { l with toRemote := l.toRemote.filter fun y => ¬ (y.msg = .SNPS ∧ y.seq = n % 16) }
    ⟨.SNPS, n % 16, 0⟩) → exec (.snps ln n) s = .next ((y.1.setCoh y.2).cohResume)) ∧
  (∀ (s : State) (ln n : Nat) (l : CohLn) (y : State × CohLn), s.flag 0 F.brg_stat_up = true → l = s.coh ln → (y =
    State.remoteArrive (l.earlyR.length + 2) s { l with toRemote := l.toRemote.filter fun y => ¬ (y.msg = .SNPI ∧ y.seq = n % 16) }
    ⟨.SNPI, n % 16, 0⟩) → exec (.snpi ln n) s = .next ((y.1.setCoh y.2).cohResume)) ∧
  (∀ (s : State) (ln n : Nat) (l : CohLn) (y : State × CohLn), s.flag 0 F.brg_stat_up = true → l = s.coh ln → (y =
    State.remoteArrive (l.earlyR.length + 2) s { l with toRemote := l.toRemote.filter fun y => ¬ (y.msg = .DATS ∧ y.seq = n % 16) }
    ⟨.DATS, n % 16, 0⟩) → exec (.dats ln n) s = .next ((y.1.setCoh y.2).cohResume)) ∧
  (∀ (s : State) (ln n : Nat) (l : CohLn) (y : State × CohLn), s.flag 0 F.brg_stat_up = true → l = s.coh ln → (y =
    State.remoteArrive (l.earlyR.length + 2) s { l with toRemote := l.toRemote.filter fun y => ¬ (y.msg = .DATM ∧ y.seq = n % 16) }
    ⟨.DATM, n % 16, 0⟩) → exec (.datm ln n) s = .next ((y.1.setCoh y.2).cohResume)) ∧
  (∀ (s : State) (ln n : Nat) (l : CohLn) (y : State × CohLn), s.flag 0 F.brg_stat_up = true → l = s.coh ln → (y =
    State.remoteArrive (l.earlyR.length + 2) s { l with toRemote := l.toRemote.filter fun y => ¬ (y.msg = .GNTM ∧ y.seq = n % 16) }
    ⟨.GNTM, n % 16, 0⟩) → exec (.gntm ln n) s = .next ((y.1.setCoh y.2).cohResume)) ∧
  (∀ (s : State) (ln n : Nat) (l : CohLn) (y : State × CohLn), s.flag 0 F.brg_stat_up = true → l = s.coh ln → (y =
    State.remoteArrive (l.earlyR.length + 2) s { l with toRemote := l.toRemote.filter fun y => ¬ (y.msg = .EVACK ∧ y.seq = n % 16) }
    ⟨.EVACK, n % 16, 0⟩) → exec (.evack ln n) s = .next ((y.1.setCoh y.2).cohResume)) ∧
  (∀ (s : State) (d : Fin 2) (pa len : Nat) (wd : Option (List Byte)) (tag : Nat) (a : CohAccess) (l : CohLn) (y : State × CohLn), a
    = ⟨d, pa, len, wd, tag⟩ → s.cohBlocked a = false → s.coherent pa = true → lineHome (pa / 256) = d → l = s.coh (pa / 256) → y =
    State.homeServe (l.homeQ.length + 2) (s.clcRoom d (pa / 256)) { l with homeQ := l.homeQ ++ [.here a] } → exec (.coherentAccess d
    pa len wd tag) s = .next (y.1.setCoh y.2)) ∧
  (∀ (s : State) (d : Fin 2) (pa len : Nat) (wd : Option (List Byte)) (tag : Nat) (a : CohAccess) (l : CohLn) (y : State × CohLn), a
    = ⟨d, pa, len, wd, tag⟩ → s.cohBlocked a = false → s.coherent pa = true → lineHome (pa / 256) ≠ d → s.bridgeDown = false → l =
    s.coh (pa / 256) → y = State.remoteServe (l.wait.length + 2) (s.clcRoom d (pa / 256)) { l with wait := l.wait ++ [a] } → exec
    (.coherentAccess d pa len wd tag) s = .next (y.1.setCoh y.2)) ∧
  (∀ (s : State) (d : Fin 2) (pa len : Nat) (wd : Option (List Byte)) (tag : Nat) (a : CohAccess), a = ⟨d, pa, len, wd, tag⟩ →
    s.cohBlocked a = false → s.coherent pa = false → exec (.coherentAccess d pa len wd tag) s = .next (s.memRequest ⟨d, false, pa,
    (wd.getD (List.replicate len 0)).length, wd, false, []⟩)) ∧
  (∀ (s : State) (d : Fin 2) (pa len : Nat) (wd : Option (List Byte)) (tag : Nat) (a : CohAccess), a = ⟨d, pa, len, wd, tag⟩ →
    s.cohBlocked a = true → exec (.coherentAccess d pa len wd tag) s = .next
    { s with mem := { s.mem with cohWait := s.mem.cohWait ++ [a] } })

/-- For every state and operands that meet the named conditions on the state and the operands alone, exec answers the
next state with the named effect: a queued request served, or with none queued a traffic generator read in its turn, a
refresh, a temperature report that turns a stack hot, a corrected-error window ended, a cache read that hits or
misses, a cache write, a write-combining entry aged out, a flush, a training result, an ownership change, a traffic
run, a repair command and a weight slot read. -/
def Obligations.HbmCommandsComplete : Prop :=
  (∀ (s : State) (d : Fin 2) (n : Fin 256) (ecc : EccList) (wt : Bool) (c : Pc) (i : Nat) (q : HbmReq) (b : Bool) (u : State),
    s.tripped = false → c = s.pc d n → u = s.tally d R.hbm_t_bconf (n / 64) (b2n wt) → (c.rq ≠ [] ∨ c.wq ≠ []) → s.stackSettled d (n
    / 64) = true → b = nextDirection c → (pickRequest c.rows (if b then c.wq else c.rq) = some i) → ((if b then c.wq else c.rq)[i]?
    = some q) → exec (.hbmRequest d n ⟨ecc, wt⟩) s = .next (u.serveNext d n i b q ecc)) ∧
  (∀ (s : State) (d : Fin 2) (n : Fin 256) (ecc : EccList) (wt : Bool), s.tripped = false → (s.pc d n).rq = [] → (s.pc d n).wq = []
    → s.stackSettled d (n / 64) = true → exec (.hbmRequest d n ⟨ecc, wt⟩) s = .next (s.tgenServe d n ecc)) ∧
  (∀ (s : State) (d : Fin 2) (n : Fin 256) (a : Nat) (b : Bool) (ecc : EccList) (u : State), bit (s.fld d F.hbm_stat_up) (n / 64) =
    true → u = (s.tally d R.hbm_t_ref (n / 64)).tally d R.hbm_t_refcol (n / 64) a → exec (.refreshSlot d n a b ecc) s = .next
    ((u.updPc d n fun x => { x with rows := [] }).maintenance d n b ecc)) ∧
  (∀ (s : State) (d : Fin 2) (i : Fin 4) (t : Nat) (u : State), bit (s.fld d F.hbm_stat_hot) i = false → 86 ≤ t → u = s.setFld d
    ⟨R.hbm_temp, 8 * i.val, 8⟩ t → exec (.hbmTempReport d i t) s = .next ((u.setFld d F.hbm_stat_hot (s.fld d F.hbm_stat_hot ||| 2 ^
    i.val)).raise d 0x08 0x1004 (4 * d.val + i.val + 1 * 256 + t % 256 * 2 ^ 16))) ∧
  (∀ (s : State) (d : Fin 2), exec (.cewWindowEnd d) s = .next (s.updMem d fun m => { m with cewCount := [], cewDone := [] })) ∧
  (∀ (s : State) (a n tag d : Nat) (y : CLine) (q : List Byte × Nat), s.tripped = false → d = ownerDie a → isHbm a = true → n ≠ 0 →
    a % 256 + n ≤ 256 → s.owned d (hbmLoc (granuleOf a)).stack = false → s.sliceChanges d (granuleOf a) = false → ((s.pc d (hbmLoc
    (granuleOf a)).pc).rq.any (fun q => q.g = granuleOf a) = false) → s.lineOf d (granuleOf a) = some y → q = sliceOf y.data
    y.poison (a % 256) n → exec (.hbmCacheRead a n tag) s = .next ((s.readHit d y (s.hintOf d a)).emit (.memData a q.1 (q.2 ≠ 0)))) ∧
  (∀ (s : State) (a n tag d g : Nat) (q : HbmReq), s.tripped = false → d = ownerDie a → g = granuleOf a → isHbm a = true → n ≠ 0 → a
    % 256 + n ≤ 256 → s.owned d (hbmLoc g).stack = false → s.sliceChanges d g = false → ((s.pc d (hbmLoc g).pc).rq.any (fun q => q.g
    = g) = true ∨ s.lineOf d g = none) → (s.pc d (hbmLoc g).pc).rq.length < 32 → q = ⟨g, s.missMask d (s.hintOf d a) (a % 256) n, 0,
    [], 0, s.hintOf d a, a % 256, n, tag⟩ → exec (.hbmCacheRead a n tag) s = .next ((s.tally d R.hcache_t_rmiss).updPc d (hbmLoc
    g).pc fun x => { x with rq := x.rq ++ [q] })) ∧
  (∀ (s : State) (a : Nat) (l : List Byte) (po : Bool), s.tripped = false → isHbm a = true → l ≠ [] → a % 256 + l.length ≤ 256 →
    s.memBlocked ⟨ownerDie a, false, a, l.length, some l, po, []⟩ = false → exec (.hbmCacheWrite a l po) s = .next (s.writeRaw
    (ownerDie a) a l po .unit none [])) ∧
  (∀ (s : State) (d : Fin 2) (g : Nat) (y : WcEntry), s.tripped = false → s.wcOf d g = some y → exec (.wcAgeExpire d g) s = .next
    ((s.wcFree d g).wcOut d y)) ∧
  (∀ (s : State) (d : Fin 2), s.flag d F.hcache_flush_busy = true → exec (.hcacheFlushDone d) s = .next (((s.setFld d
    F.hcache_flush_go 0).setFld d F.hcache_flush_busy 0).raise d 0x09 0x1010 (s.memd.get d).flushed)) ∧
  (∀ (s : State) (d : Fin 2) (i : Fin 4) (b : Bool), bit (s.fld d F.hbm_stat_train) i = true → b = true → exec (.hbmTrainDone d i b)
    s = .next ((s.setFld d F.hbm_stat_train (s.fld d F.hbm_stat_train - 2 ^ i.val)).orFld d F.hbm_stat_up (2 ^ i.val))) ∧
  (∀ (s : State) (d : Fin 2) (i : Fin 4) (b : Bool) (n : Nat) (u : State), bit (s.fld d F.hbm_stat_train) i = true → b = false → n =
    (assocGet i.val (s.memd.get d).trainTries).getD 0 + 1 → 3 ≤ n → (u = s.updMem d fun m =>
    { m with trainTries := assocPut i.val n m.trainTries }) → exec (.hbmTrainDone d i b) s = .next (((u.setFld d F.hbm_stat_train
    (s.fld d F.hbm_stat_train - 2 ^ i.val)).orFld d F.hbm_stat_down (2 ^ i.val)).raise d 0x08 0x1001 (4 * d.val + i.val))) ∧
  (∀ (s : State) (d : Fin 2) (i : Fin 4), (s.memd.get d).flushOwn.contains i.val = true → ((s.memd.get d).pcs.any (fun p => p.1 / 64
    = i.val ∧ p.2.rq ≠ []) = false) → exec (.hbmOwnReady d i) s = .next (s.stackReady d i)) ∧
  (∀ (s : State) (d : Fin 2) (errs : List (Nat × Ecc)) (t : TgenRun), s.tripped = false → (s.memd.get d).tgen = some t → exec (.tgenRunEnd d errs) s = .next
    ((t.all.foldl (fun s p => s.tgenRun d t (fun k => (assocGet k errs).getD .clean) p t.cnt) s).tgenEnd d false)) ∧
  (∀ (s : State) (c : RwRun) (u v : State) (q : RepairRow), s.tripped = false → (s.memd.get 0).rw = some c → q = repairRow c.sel
    c.addr → (u = (s.updMem 0 fun m => { m with rw := none }).setFld 0 F.rw_stat_busy 0) → u.repairEffect c.op q = some v → exec
    (.repairCmdDone) s = .next ((v.orFld 0 F.rw_stat_done 1).raise q.die 0x08 0x1031 (c.op + q.stack * 256))) ∧
  (∀ (s : State) (d : Fin 2) (a n : Nat) (ecc : EccList) (q : Rd), s.tripped = false → isHbm a = true → isHbm (a + n - 1) = true → q
    = s.read d a n ecc → exec (.weightSlotRead d a n ecc) s = .next (q.st.emit (.memData a q.data q.poison)))

/-- For every state and operands that meet the named conditions on the state and the operands alone, exec answers
the next state with the named effect: a context filled into a free entry or over a victim, a quota period
ended, a translation miss that joins or starts a walk, a walk read returned and an invalidation ended. -/
def Obligations.ContextCommandsComplete : Prop :=
  (∀ (s : State) (d : Fin 2) (c i : Nat) (rest : List Nat) (u : State), (s.ctxd.get d).fillq = c :: rest → s.flag 0 F.ctx_ctl_en =
    true → s.cached d c = none → s.freeEntry d = some i → (u = s.updCtx d fun x => { x with fillq := rest }) → exec (.contextFill d)
    s = .next (u.fillAt d c i)) ∧
  (∀ (s : State) (d : Fin 2) (c : Nat) (rest : List Nat) (y : CtxEntry) (u v : State), (s.ctxd.get d).fillq = c :: rest → s.flag 0
    F.ctx_ctl_en = true → s.cached d c = none → s.freeEntry d = none → s.ctxVictim d = some y → (u = (s.updCtx d fun x =>
    { x with fillq := rest }).evictCtx d y) → (v = if s.pending? d y.ctx then u.joinFill d y.ctx else u) → exec (.contextFill d) s =
    .next (v.fillAt d c y.idx)) ∧
  (∀ (s : State) (f : CtxDie → CtxDie), (f = fun x => { x with cache := x.cache.map (fun e => { e with quota := 0 }), qSeen := [] })
    → exec (.quotaPeriodEnd) s = .next ((({ s with epoch := (s.epoch + 1) % 2 ^ 32 } : State).updCtx 0 f).updCtx 1 f)) ∧
  (∀ (s : State) (d : Fin 2) (c : Fin 4096) (w : WalkWaiter) (n : Nat) (u : State), ((s.ctxd.get d).dtlb.any (fun e => e.covers c
    w.va) = false) → (indexWhere (fun k => k.ctx = c.val ∧ k.va / 0x200000 = w.va / 0x200000) (s.ctxd.get d).walks = some n) → u =
    s.tally d R.mmu_t_dmiss → exec (.translationMiss d c w) s = .next (u.updCtx d fun y =>
    { y with walks := listMod y.walks n fun k => { k with waiters := k.waiters ++ [w] } })) ∧
  (∀ (s : State) (d : Fin 2) (c : Fin 4096) (w : WalkWaiter) (u : State), ((s.ctxd.get d).dtlb.any (fun e => e.covers c w.va) =
    false) → (indexWhere (fun k => k.ctx = c.val ∧ k.va / 0x200000 = w.va / 0x200000) (s.ctxd.get d).walks = none) → (s.ctxd.get
    d).walks.length < 8 → u = s.tally d R.mmu_t_dmiss → exec (.translationMiss d c w) s = .next (u.updCtx d fun y =>
    { y with walks := y.walks ++ [u.newWalk d c w] })) ∧
  (∀ (s : State) (d : Fin 2) (i : Fin 8) (ecc : Ecc) (w : Walk), (s.ctxd.get d).walks[i.val]? = some w → exec (.walkReadReturn d i
    ecc) s = .next (State.walkStep d i w (s.walkReturn d w ecc))) ∧
  (∀ (s : State) (d : Fin 2) (q : InvReq) (b : Option InvReq) (u : State), (s.ctxd.get d).inv = some q → ((s.ctxd.get d).walks.any
    (fun w => !w.fill) = false) → b = (s.ctxd.get d).invHeld → (u = ((s.updCtx d fun y =>
    { y with inv := none, invHeld := none }).setFld d F.mmu_inv_busy 0).tally d R.mmu_t_inv) → exec (.mmuInvDone d) s = .next
    (b.elim u (u.invStart d)))

/-- For every state and operands that meet the named conditions on the state and the operands alone, exec answers
the next state with the named effect: every training, timeout, peer exchange, retrain and silence event of a
link in the state that the event acts in, and a flit that is a head-only flit, accepted, or refused. -/
def Obligations.LinkCommandsComplete : Prop :=
  (∀ (s : State) (d : Fin 2) (i : Fin 18), s.released = true → s.linkState d i = 0 → bit (s.fld d F.lnk_ctl_en) i = true → s.flag d
    F.lnk_ctl_auto = true → exec (.linkRetryTimer d i) s = .next (s.linkTrain d i)) ∧
  (∀ (s : State) (d : Fin 2) (i : Fin 18), s.linkState d i = 1 → (s.lk d i).fromUp = false → exec (.linkCalDone d i) s = .next
    (s.setLink d i 2)) ∧
  (∀ (s : State) (d : Fin 2) (i : Fin 18), s.linkState d i = 1 → (s.lk d i).fromUp = true → exec (.linkCalDone d i) s = .next
    (s.linkUp d i)) ∧
  (∀ (s : State) (d : Fin 2) (i : Fin 18), s.linkState d i = 1 → (s.lk d i).fromUp = false → exec (.linkCalTimeout d i) s = .next
    (s.trainFails d i)) ∧
  (∀ (s : State) (d : Fin 2) (i : Fin 18), s.linkState d i = 1 → (s.lk d i).fromUp = true → exec (.linkCalTimeout d i) s = .next
    (s.linkLost d i 1)) ∧
  (∀ (s : State) (d : Fin 2) (i : Fin 18), s.linkState d i = 2 → exec (.linkEqDone d i) s = .next ((s.setLink d i 3).setFld d
    F.lnk_stat_lanes 0xFFF i)) ∧
  (∀ (s : State) (d : Fin 2) (i : Fin 18), s.linkState d i = 2 → exec (.linkEqTimeout d i) s = .next (s.trainFails d i)) ∧
  (∀ (s : State) (d : Fin 2) (i : Fin 18), s.linkState d i = 3 → exec (.linkAlignDone d i) s = .next ((s.setLink d i 4).enterPeer d
    i)) ∧
  (∀ (s : State) (d : Fin 2) (i : Fin 18), s.linkState d i = 6 → exec (.linkAlignDone d i) s = .next (s.enterPeer d i)) ∧
  (∀ (s : State) (d : Fin 2) (i : Fin 18), s.linkState d i = 3 → exec (.linkAlignTimeout d i) s = .next (s.trainFails d i)) ∧
  (∀ (s : State) (d : Fin 2) (i : Fin 18) (a : Fin 32768) (l : Fin 32) (p : Nat) (u : State), s.inPeer d i = true → p = (s.lk d
    i).peer → u = (s.setFld d F.lnk_peer_obs_node a i).setFld d F.lnk_peer_obs_link l i → (bit p 63 = false ∨ (bits p 43 15 = a ∧
    bits p 38 5 = l)) → exec (.peerExchange d i a l) s = .next (u.linkUp d i)) ∧
  (∀ (s : State) (d : Fin 2) (i : Fin 18) (a : Fin 32768) (l : Fin 32) (p : Nat) (u : State), s.inPeer d i = true → p = (s.lk d
    i).peer → u = (s.setFld d F.lnk_peer_obs_node a i).setFld d F.lnk_peer_obs_link l i → bit p 63 = true → (bits p 43 15 ≠ a ∨ bits
    p 38 5 ≠ l) → exec (.peerExchange d i a l) s = .next ((u.setLink d i 7).raise d 0x0B 0x2004 (i + a * 2 ^ 16 + l * 2 ^ 32))) ∧
  (∀ (s : State) (d : Fin 2) (i : Fin 18), s.linkState d i = 5 → exec (.linkReceiveSilence d i) s = .next (s.enterRetrain d i)) ∧
  (∀ (s : State) (d : Fin 2) (i : Fin 18), s.linkState d i = 5 → exec (.txPllLockLoss d i) s = .next (((s.setLink d i 1).updLk d i
    fun l => { l.stop with fromUp := true }).tally d R.lnk_t_rtr i)) ∧
  (∀ (s : State) (d : Fin 2) (i : Fin 18), s.linkState d i = 6 → (s.lk d i).atPeer = true → exec (.retrainDone d i) s = .next
    (s.linkUp d i)) ∧
  (∀ (s : State) (d : Fin 2) (i : Fin 18), s.linkState d i = 6 → (s.lk d i).atPeer = false → exec (.retrainDone d i) s = .next
    ((s.enterPeer d i).linkUp d i)) ∧
  (∀ (s : State) (d : Fin 2) (i : Fin 18), (s.linkState d i = 6 ∨ (s.linkState d i = 7 ∧ (s.lk d i).atPeer = true)) → exec
    (.retrainTimeout d i) s = .next (s.linkLost d i 0)) ∧
  (∀ (s : State) (d : Fin 2) (i : Fin 18) (hd : Nat) (sl : List Nat), s.linkState d i = 5 → bit hd 32 = true → flitGood hd sl = true
    → exec (.flitReceive d i hd sl) s = .next ((s.tally d R.lnk_t_rx i).flitHead d i hd)) ∧
  (∀ (s : State) (d : Fin 2) (i : Fin 18) (hd : Nat) (sl : List Nat), s.linkState d i = 5 → bit hd 32 = false → flitGood hd sl =
    true → bits hd 52 12 = (s.lk d i).rxSeq → exec (.flitReceive d i hd sl) s = .next (s.flitAccepted d i hd (flitSlots sl))) ∧
  (∀ (s : State) (d : Fin 2) (i : Fin 18) (hd : Nat) (sl : List Nat), s.linkState d i = 5 → bit hd 32 = false → (flitGood hd sl =
    false ∨ bits hd 52 12 ≠ (s.lk d i).rxSeq) → exec (.flitReceive d i hd sl) s = .next (s.flitRefused d i (bits hd 52 12)))

/-- For every state and operands that meet the named conditions on the state and the operands alone, exec answers the
next state with the named effect: RD, WR, RSP, SEG, SACK and the OUT, IN and CTL fragments of a Meld message, once the
message has arrived at this chip; a segment of a later instance, and an OUT or IN piece, for which its buffer has no
room waits and keeps its credits. -/
def Obligations.FabricMessagesComplete : Prop :=
  (∀ (s : State) (d : Fin 2) (a : Nat) (m : Msg) (u : State), s.arrives d a m 1 = some u → exec (.rd d a m) s = .next (u.serveRd d
    m)) ∧
  (∀ (s : State) (d : Fin 2) (a : Nat) (m : Msg) (u : State), s.arrives d a m 2 = some u → exec (.wr d a m) s = .next (u.serveWr d
    m)) ∧
  (∀ (s : State) (d : Fin 2) (a : Nat) (m : Msg) (u : State), s.arrives d a m 3 = some u → exec (.rsp d a m) s = .next (u.serveRsp d
    m)) ∧
  (∀ (s : State) (d : Fin 2) (a : Nat) (m : Msg) (u : State), s.arrives d a m 4 = some u → ¬ (u.segEarly d m = true ∧ u.earlyFull d
    = true) → exec (.seg d a m) s = .next (u.segArrive d m)) ∧
  (∀ (s : State) (d : Fin 2) (a : Nat) (m : Msg) (u : State), s.arrives d a m 5 = some u → exec (.sack d a m) s = .next
    (u.sackArrive d m)) ∧
  (∀ (s : State) (d : Fin 2) (a : Nat) (m : Msg) (u : State), bits m.low 80 2 = 0 → s.outsFull d = false → s.arrives d a m 6 = some
    u → exec (.frgOut d a m) s = .next (u.outPiece d m.src (bits m.low 67 13) (bit m.low 66) m.data)) ∧
  (∀ (s : State) (d : Fin 2) (a : Nat) (m : Msg) (u : State), bits m.low 80 2 = 1 → s.intakeFull d = false → s.arrives d a m 6 =
    some u → exec (.frgIn d a m) s = .next (u.inPiece d m.src (16 * bits m.low 67 13) (bit m.low 66) m.data)) ∧
  (∀ (s : State) (d : Fin 2) (a : Nat) (m : Msg) (u : State), bits m.low 80 2 = 2 → s.arrives d a m 6 = some u → exec (.frgCtl d a
    m) s = .next (u.ctlPiece d m.src (bits m.low 67 13 % 64) m.data)) ∧
  (∀ (s : State) (d : Fin 2) (a : Nat) (m : Msg) (u : State), s.arrives d a m 4 = some u → u.segEarly d m = true → u.earlyFull d =
    true → exec (.seg d a m) s = .next (s.parked d a m)) ∧
  (∀ (s : State) (d : Fin 2) (a : Nat) (m : Msg) (u : State), bits m.low 80 2 = 0 → s.outsFull d = true → s.arrives d a m 6 = some u
    → exec (.frgOut d a m) s = .next (s.parked d a m)) ∧
  (∀ (s : State) (d : Fin 2) (a : Nat) (m : Msg) (u : State), bits m.low 80 2 = 1 → s.intakeFull d = true → s.arrives d a m 6 = some
    u → exec (.frgIn d a m) s = .next (s.parked d a m))

/-- For every state and operands that meet the named conditions on the state and the operands alone, exec answers
the next state with the named effect: the ends of initialisation, snapshot, encoding and applying, a trick
closed late or early, and the join request, acknowledgement, refusal, ready and done records and the join
timeout. -/
def Obligations.MeldCommandsComplete : Prop :=
  (∀ (s : State) (d : Fin 2) (j : Fin 4), s.jobSt d j = 1 → exec (.initDone d j) s = .next (s.initEnds d j)) ∧
  (∀ (s : State) (d : Fin 2) (j : Fin 4), s.jobSt d j = 4 → exec (.snapDone d j) s = .next (s.snapEnds d j)) ∧
  (∀ (s : State) (d : Fin 2) (j : Fin 4), s.jobSt d j = 5 → exec (.encDone d j) s = .next (s.encEnds d j)) ∧
  (∀ (s : State) (d : Fin 2) (j : Fin 4), s.jobSt d j = 6 → s.reg d R.meld_job_tdl j ≤ s.tai → exec (.trickClose d j)
    s = .next (s.closeTrick d j false)) ∧
  (∀ (s : State) (d : Fin 2) (j : Fin 4), s.jobSt d j = 6 → s.tai < s.reg d R.meld_job_tdl j → s.flag d
    F.meld_ctl_early = true → s.flag 0 F.det_ctl_strict = false → s.allMerged d j = true → exec (.trickClose d j) s =
    .next (s.closeTrick d j true)) ∧
  (∀ (s : State) (d : Fin 2) (j : Fin 4), s.jobSt d j = 7 → exec (.applyDone d j) s = .next ((((s.applyEnd d
    j).jobSettle d j).mergeHeld d j).donate d j)) ∧
  (∀ (s : State) (a b : Nat) (l : List Byte) (q : JoinRec) (u : State), s.nextRecord 1 = some (a, b, l) → q =
    JoinRec.ofBytes l → u = { s with master := { s.master with inbox := s.master.inbox.erase (a, b, l) } } → exec
    (.joinReq) s = .next (u.joinReq q)) ∧
  (∀ (s : State) (a b : Nat) (l : List Byte) (q : JoinRec) (u : State) (j : Nat), s.nextRecord 2 = some (a, b, l) → q
    = JoinRec.ofBytes l → u = { s with master := { s.master with inbox := s.master.inbox.erase (a, b, l) } } → u.jobOf
    0 q.job = some j → exec (.joinAck) s = .next (u.joinAck j q)) ∧
  (∀ (s : State) (a b : Nat) (l : List Byte) (q : JoinRec) (u : State), s.nextRecord 3 = some (a, b, l) → q =
    JoinRec.ofBytes l → u = { s with master := { s.master with inbox := s.master.inbox.erase (a, b, l) } } → exec
    (.joinRefuse) s = .next (u.meldRaise 0 0x600D (q.site + q.reason * 256))) ∧
  (∀ (s : State) (a b : Nat) (l : List Byte) (q : JoinRec) (u : State) (j : Nat), s.nextRecord 5 = some (a, b, l) → q
    = JoinRec.ofBytes l → u = { s with master := { s.master with inbox := s.master.inbox.erase (a, b, l) } } → u.jobOf
    0 q.job = some j → exec (.joinReady) s = .next (u.halfReady b q j)) ∧
  (∀ (s : State) (a b : Nat) (l : List Byte) (q : JoinRec) (u : State) (j : Nat) (y : PEntry) (v : State),
    s.nextRecord 4 = some (a, b, l) → q = JoinRec.ofBytes l → u =
    { s with master := { s.master with inbox := s.master.inbox.erase (a, b, l) } } → u.jobOf 0 q.job = some j →
    u.partner q.job q.site = some y → y.state = 1 → (v =
    { u with master := { u.master with joins := u.master.joins.filter fun p => p.1 ≠ y.idx } }) → exec (.joinDone) s =
    .next (v.writeEntry j y.idx (putAt (v.entryBytes y.idx) 0 1 2))) ∧
  (∀ (s : State) (i : Fin 64) (q : Nat × Nat) (y : PEntry) (j : Nat) (u : State), ((s.master.joins.find? fun p => p.1
    = i.val) = some q) → y = entryOf i (s.entryBytes i) → u =
    { s with master := { s.master with joins := s.master.joins.erase q } } → u.jobOf 0 y.job = some j → exec
    (.joinTimeout i) s = .next ((u.writeEntry j i (putAt (u.entryBytes i) 0 1 3)).meldRaise 0 0x600D (y.site + 5 *
    256)))

/-- For every state and operands that meet the named conditions on the state and the operands alone, exec answers
the next state with the named effect: the calibration, training and loss events of a port, an Ethernet frame
taken or dropped, an ARP request, a neighbour solicitation, BULK and CTL frames, a frame whose key was
derived, and a fragment sent. -/
def Obligations.WanCommandsComplete : Prop :=
  (∀ (s : State) (d : Fin 2), s.flag d F.wan_ctl_auto = true → exec (.wanRetryTimer d) s = .next (s.portStart d)) ∧
  (∀ (s : State) (d : Fin 2), s.portSt d = 1 → (s.wn d).fromUp = false → exec (.wanCalDone d) s = .next (s.setFld d
    F.wan_stat_state 2)) ∧
  (∀ (s : State) (d : Fin 2), s.portSt d = 1 → (s.wn d).fromUp = true → exec (.wanCalDone d) s = .next (s.portUp d)) ∧
  (∀ (s : State) (d : Fin 2), s.portSt d = 1 → exec (.wanCalTimeout d) s = .next (s.portLost d 0)) ∧
  (∀ (s : State) (d : Fin 2), s.holds d = true → exec (.wanCalHoldTimeout d) s = .next ((s.updWan d fun x =>
    { x with late := true }).shedHeld d)) ∧
  (∀ (s : State) (d : Fin 2), s.portSt d = 2 → exec (.wanTrainDone d) s = .next (s.portUp d)) ∧
  (∀ (s : State) (d : Fin 2), s.portSt d = 2 → exec (.wanTrainTimeout d) s = .next (s.portLost d 1)) ∧
  (∀ (s : State) (d : Fin 2), s.portSt d = 3 → exec (.wanPcsLoss d) s = .next (s.portLost d 2)) ∧
  (∀ (s : State) (d : Fin 2), s.portSt d = 3 → exec (.wanTxPllLoss d) s = .next (((s.setFld d F.wan_stat_state
    1).updWan d fun x => { x with fromUp := true, late := false }).ptpPortDown d)) ∧
  (∀ (s : State) (d : Fin 2) (l : List Byte) (b : Bool) (f : EthFrame) (u : State), s.receives d = true → f =
    EthFrame.ofBytes l → u = s.tally d R.wan_t_rxb 0 (l.length + 4) → b = true → u.frameFor d f = true → exec
    (.ethernetFrame d l b) s = .next (u.frameTaken d f)) ∧
  (∀ (s : State) (d : Fin 2) (l : List Byte) (b : Bool) (f : EthFrame) (u : State), s.receives d = true → f =
    EthFrame.ofBytes l → u = s.tally d R.wan_t_rxb 0 (l.length + 4) → (b = false ∨ u.frameFor d f = false) → exec
    (.ethernetFrame d l b) s = .next (u.dropWan d 5)) ∧
  (∀ (s : State) (d : Fin 2) (l : List Byte) (f : EthFrame) (u : State), s.receives d = true → f = EthFrame.ofBytes l
    → f.typ = 0x0806 → u = s.tally d R.wan_t_rxb 0 (l.length + 4) → u.frameFor d f = true → exec (.arpRequest d l) s =
    .next (u.frameTaken d f)) ∧
  (∀ (s : State) (d : Fin 2) (l : List Byte) (f : EthFrame) (u : State), s.receives d = true → f = EthFrame.ofBytes l
    → f.isNs = true → u = s.tally d R.wan_t_rxb 0 (l.length + 4) → u.frameFor d f = true → exec (.neighborSolicitation
    d l) s = .next (u.frameTaken d f)) ∧
  (∀ (s : State) (d : Fin 2) (l : List Byte), s.receives d = true → beAt l 1 1 = 1 → exec (.bulk d l) s = .next
    ((s.tally d R.wan_t_rxb 0 (s.frameBytes d l.length)).felvar d l)) ∧
  (∀ (s : State) (d : Fin 2) (l : List Byte), s.receives d = true → beAt l 1 1 = 2 → exec (.ctl d l) s = .next
    ((s.tally d R.wan_t_rxb 0 (s.frameBytes d l.length)).felvar d l)) ∧
  (∀ (s : State) (d : Fin 2) (b : List Byte) (rest : List (List Byte)) (u : State), (s.cp d).miss = b :: rest → (u =
    s.updCip d fun x => { x with miss := rest }) → exec (.keyMissDerived d) s = .next (u.felvarWith d b fun s e h =>
    match (s.rxDerive d e.idx h.src h.gen h.sess h.epoch), ((s.rxDerive d e.idx h.src h.gen h.sess h.epoch).cp
    d).rxFind [e.idx, h.src, h.gen, h.sess] h.epoch with | s, some k => s.felvarKeyed d e h k b | s, none => s)) ∧
  (∀ (s : State) (d : Fin 2) (f : Frag) (rest : List Frag) (u : State), (s.md d).outq = f :: rest → s.holds d = false
    → (u = ((s.updMd d fun x => { x with outq := rest }).storeFrag d f).noteFrag d f) → u.sends d = true → exec
    (.fragmentSend d) s = .next ((s.targets f.hdr.job).foldl (fun s n => s.sendCopy d n f) u))

/-- For every state and operands that meet the named conditions on the state and the operands alone, exec answers
the next state with the named effect: a pair secret unwrapped or refused, a key derivation, a control
acknowledgement, a retransmission or the loss of a connection, and summaries and negative acknowledgements
sent and received. -/
def Obligations.PairAndControlCommandsComplete : Prop :=
  (∀ (s : State) (d : Fin 2) (l : SecretLoad) (u : State) (b key : List Byte), (s.cp d).load = some l → (u =
    ((s.updCip d fun y => { y with load := none }).setFld d F.cip_ld_busy 0).setFld d F.cip_ld_go 0) → l.mixed = false
    → u.boot.fuses.kek = some b → keyUnwrap b l.wrapped = some key → exec (.pairSecretUnwrapDone d) s = .next
    (((u.setFld d F.cip_ld_fail 0).placeSecret d l key).openFelvar d)) ∧
  (∀ (s : State) (d : Fin 2) (l : SecretLoad) (u : State), (s.cp d).load = some l → (u = ((s.updCip d fun y =>
    { y with load := none }).setFld d F.cip_ld_busy 0).setFld d F.cip_ld_go 0) → (l.mixed = true ∨
    u.boot.fuses.kek.bind (fun k => keyUnwrap k l.wrapped) = none) → exec (.pairSecretUnwrapDone d) s = .next
    ((u.setFld d F.cip_ld_fail 1).raise d 0x11 0x7005 (l.pair + l.gen * 256))) ∧
  (∀ (s : State) (d : Fin 2) (i : Fin 64) (g a : Nat) (q : Secret), (s.pair d i).prep = some (g, a) → (s.pair d
    i).secret g = some q → exec (.keyDerivationDone d i) s = .next ((s.takeGen d i q a).ctlPump d)) ∧
  (∀ (s : State) (d : Fin 2) (i : Fin 256) (c : Conn), (s.wn d).conns[i.val]? = some c → c.ackDue = true → s.ctlGoes d
    c.pair = true → exec (.controlAckTimer d i) s = .next (s.sendMessage d i 0 [])) ∧
  (∀ (s : State) (d : Fin 2) (i : Fin 256) (a : Nat) (c : Conn) (m : CtlMsg) (u : State), (s.wn d).conns[i.val]? =
    some c → ((c.flight.find? fun m => m.cseq = a) = some m) → s.ctlGoes d c.pair = true → m.tries < s.fld d
    F.wan_crto_cmax → (u = (s.tally d R.wan_t_crtx).updConn d i fun c =>
    { c with flight := c.flight.map fun q => if q.cseq = a then { q with tries := q.tries + 1 } else q }) → exec
    (.controlRetransmit d i a) s = .next (u.sendMessage d i a m.recs)) ∧
  (∀ (s : State) (d : Fin 2) (i : Fin 256) (a : Nat) (c : Conn) (m : CtlMsg) (u : State), (s.wn d).conns[i.val]? =
    some c → ((c.flight.find? fun m => m.cseq = a) = some m) → s.ctlGoes d c.pair = true → s.fld d F.wan_crto_cmax ≤
    m.tries → (u = s.updWan d fun x => { x with conns := x.conns.eraseIdx i }) → exec (.controlRetransmit d i a) s =
    .next ((u.tally d R.wan_t_cdrop 0 c.queue.length).raise d 0x10 0x3006 (c.pair + c.src * 2 ^ 32))) ∧
  (∀ (s : State) (d : Fin 2) (a b : Nat) (t : SumTrick) (u : State), (((s.wn d).sums.find? fun t => t.job = a &&
    t.trick = b) = some t) → t.sent = false → (u = s.updWan d fun x =>
    { x with sums := x.sums.map fun q => if q = t then { q with sent := true } else q }) → exec (.summarySend d a b) s
    = .next ((((s.targets a).filter (s.canSeal d)).foldl (fun s n => ((pieces 12 t.halves).map (summaryRecord a
    b)).foldl (fun s b => (s.queueRecord d n none b).1) s) u).ctlPump d)) ∧
  (∀ (s : State) (d : Fin 2) (n a z : Nat) (b : List Byte) (u : State), s.takeRec d 0x10 = some (u, n, a, z, b) → exec
    (.summary d) s = .next ((((List.range (min (beAt b 1 1) 12)).map fun i => beAt b (16 + 4 * i) 4).foldl (fun s w =>
    s.summaryEntry d n a z (beAt b 4 4) (beAt b 8 8) w) u).ctlPump d)) ∧
  (∀ (s : State) (d : Fin 2) (n m : Nat) (x : NackRun) (u : State), (s.wn d).nacks[n]? = some x → m = s.missingBits d
    (s.entry x.pair) x.dev x.die x.trick x.count → m ≠ 0 → x.rounds < s.fld d F.wan_rep_max → s.wanted d x = true →
    s.tai < x.until_ → (u = s.updWan d fun y =>
    { y with nacks := listMod y.nacks n fun q => { q with rounds := q.rounds + 1 } }) → exec (.nackRepeat d n) s =
    .next ((u.nackRound d x m).ctlPump d)) ∧
  (∀ (s : State) (d : Fin 2) (n a z : Nat) (b : List Byte) (u : State), s.sends d = true → s.takeRec d 0x11 = some (u,
    n, a, z, b) → beAt b 2 2 / 2 % 2 = d → exec (.nack d) s = .next ((maskIdx 256 (leNat ((b.drop 32).take 32))).foldl
    (fun s k => s.serveBit d n (beAt b 4 4) (beAt b 2 2 / 4) (beAt b 8 8) (beAt b 24 2 + k) (beAt b 16 8)) u))

/-- For every state and operands that meet the named conditions on the state and the operands alone, exec answers
the next state with the named effect: a pulse edge, a ZDA sentence, the PTP messages, an announcement that
changes the grandmaster, source losses, the reference clock, the holdover limit and a time mark. -/
def Obligations.TimeCommandsComplete : Prop :=
  (∀ (s : State) (a : Nat) (u : State), (u = (s.updGnss fun g =>
    { g with ppsGood := if 999999000 ≤ a ∧ a ≤ 1000001000 then g.ppsGood + 1 else 0, edge := s.time.ns, sec := (match g.next with | some n => some n | none => g.sec.map (· + 1)), next := none }).gnssTest)
    → u.qualified 1 = false → exec (.ppsEdge a) s = .next (u)) ∧
  (∀ (s : State) (a : Nat) (u : State) (n : Nat), (u = (s.updGnss fun g =>
    { g with ppsGood := if 999999000 ≤ a ∧ a ≤ 1000001000 then g.ppsGood + 1 else 0, edge := s.time.ns, sec := (match g.next with | some n => some n | none => g.sec.map (· + 1)), next := none }).gnssTest)
    → u.qualified 1 = true → (u.tally 0 R.time_t_pps).time.gnss.sec = some n → exec (.ppsEdge a) s = .next ((u.tally 0
    R.time_t_pps).measured 1 ((n * 4000000000 : Nat) - s.quarters))) ∧
  (∀ (s : State) (l : List Byte) (a b : Nat), zdaParse l = some (some b) → 100 ≤ a → a ≤ 900 → exec (.zdaSentence l a)
    s = .next (s.zdaLabel (b + s.fld 0 F.time_utc_off) (s.flag 0 F.time_utc_zda_next))) ∧
  (∀ (s : State) (l : List Byte) (a : Nat), zdaParse l = some none → exec (.zdaSentence l a) s = .next (s.tally 0
    R.time_t_zbad)) ∧
  (∀ (s : State) (i : Fin 2) (m : PtpMsg), s.ptpTakes i m = true → exec (.ptpSync i m) s = .next ((s.updPtp i fun x =>
    { x with sync := some (m.seq, s.time.ns), req := some (m.seq, s.time.ns) }).emit (.delayReq i m.seq))) ∧
  (∀ (s : State) (i : Fin 2) (m : PtpMsg) (a b : Nat) (u : State), (s.ptp i).sync = some (a, b) → s.ptpTakes i m =
    true → a = m.seq → (u = ((s.updPtp i fun x =>
    { x with sync := none, pair := some ((m.t : Int) + m.corr, b), pairs := x.pairs + 1 }).tally 0
    R.time_t_sync).ptpTest i) → exec (.followUp i m) s = .next (if u.qualified (2 + i) then u.measured (2 + i) (4 *
    ((m.t : Int) + m.corr - b) + (u.ptp i).delay) else u)) ∧
  (∀ (s : State) (i : Fin 2) (m : PtpMsg) (a b : Nat) (y : Int × Nat), (s.ptp i).req = some (a, b) → (s.ptp i).pair =
    some y → s.ptpTakes i m = true → a = m.seq → exec (.delayResp i m) s = .next ((s.updPtp i fun x =>
    { x with req := none, resps := x.resps + 1, delays := (((y.2 - y.1) + (m.t - m.corr - b)) / 2 :: x.delays).take 8 }).ptpTest
    i)) ∧
  (∀ (s : State) (i : Fin 2) (a b : Announce) (l : List Announce) (u : State), s.ptpOn i = true → a.domain = s.fld 0
    F.time_ptp_domain → a.scale = true → (l = a :: (s.ptp i).heard.filter fun x => x.src ≠ a.src) → (b = l.foldl (fun
    b x => if keyLess x.key b.key then x else b) a) → (u = s.updPtp i fun x => { x with heard := l }) → ((u.ptp
    i).gm.map (fun g => (g.gm, g.src)) ≠ some (b.gm, b.src)) → exec (.announce i a) s = .next (((u.updPtp i fun x =>
    { PtpPort.reset with heard := x.heard, gm := some b }).setReg 0 R.time_ptp_gm b.gm).loseSource (2 + i) 4)) ∧
  (∀ (s : State), s.flag 0 F.time_stat_ref10 = true → exec (.sourceLossTimeout 0) s = .next ((s.setFld 0
    F.time_stat_ref10 0).recordFirst 0 F.time_ff_valid 0)) ∧
  (∀ (s : State), exec (.sourceLossTimeout 1) s = .next ((s.updGnss fun _ => Gnss.reset).loseSource 1 0)) ∧
  (∀ (s : State) (i : Fin 5), (i = 2 ∨ i = 3) → exec (.sourceLossTimeout i) s = .next ((s.updPtp (i - 2) fun x =>
    { x with pairs := 0, resps := 0, sync := none, req := none }).loseSource i 0)) ∧
  (∀ (s : State), exec (.sourceLossTimeout 4) s = .next ((s.updTime fun x => { x with hbs := [] }).loseSource 4 0)) ∧
  (∀ (s : State), exec (.ref10mQualify) s = .next (s.setFld 0 F.time_stat_ref10 1)) ∧
  (∀ (s : State), s.flag 0 F.time_stat_ref10 = true → exec (.ref10mOutOfRange) s = .next ((s.setFld 0
    F.time_stat_ref10 0).recordFirst 0 F.time_ff_valid 1)) ∧
  (∀ (s : State), s.timeSt = 3 → s.time.long = false → exec (.holdoverLimit) s = .next (((s.updTime fun x =>
    { x with long := true }).raise 0 0x12 0x3014 (s.fld 0 F.time_hold_max)).timeReport)) ∧
  (∀ (s : State), exec (.timeMark) s = .next
    ({ s with asy := { s.asy with marks := s.asy.marks ++ [s.tai / 1000000000] } }))

/-- For every state and operands that meet the named conditions on the state and the operands alone, exec answers
the next state with the named effect: the strict setting settled, a twin record compared, a twin peer timeout,
and the polls and ends of a cut, a drain and a restore. -/
def Obligations.DeterminismAndCheckpointCommandsComplete : Prop :=
  (∀ (s : State), s.det.hands.any (s.begun.hands.contains ·) = false → s.det.colls.any (s.begun.colls.contains ·) =
    false → exec (.strictSettled) s = .next ({ s.setFld 0 F.det_stat_settled 1 with det := DetState.reset })) ∧
  (∀ (s : State) (r : Fin 16) (n : Nat) (y : TwinRec), (((s.rg r).twIn.find? fun x => x.seq = n) = some y) → (s.fld 0
    F.det_tw_mode ≠ 1 ∨ s.bridgeDown = false) → exec (.twinRecord r n) s = .next ((s.updRg r fun g =>
    { g with twIn := g.twIn.erase y, twPeer := g.twPeer ++ [y] }).twinCompare r)) ∧
  (∀ (s : State), s.fld 0 F.det_stat_tw = 1 → s.twinWaiting.isSome = true → exec (.twinPeerTimeout) s = .next
    (s.twinLost)) ∧
  (∀ (s : State) (a : Nat) (u : State), s.released = true → a = s.viewNat (s.ckpDesc + 8) 8 → u =
    { s with ckp := { s.ckp with preq := a } } → s.ckp.preq < a → exec (.preqPoll) s = .next (u.requestCut)) ∧
  (∀ (s : State) (q : CutRun) (i : Nat), s.ckp.run = some q → s.fld 0 F.ckp_stat_state = 1 → s.cutQuiet q.req.ctx =
    true → s.freeImage (ckpSlots q.desc) = some i → exec (.cutQuiesced) s = .next
    ({ s.setCut 3 with ckp := { s.ckp with run := some { q with slot := some i } } })) ∧
  (∀ (s : State) (q : CutRun), s.ckp.run = some q → s.fld 0 F.ckp_stat_state = 1 → exec (.cutQuiesceTimeout) s = .next
    ((s.cutFails q.req 1).cutNext)) ∧
  (∀ (s : State) (q : CutRun), s.ckp.run = some q → s.fld 0 F.ckp_stat_state = 3 → s.applying q.req.ctx = false → exec
    (.cutCopyDone) s = .next (s.copyEnds q)) ∧
  (∀ (s : State) (q : CutRun), s.ckp.run = some q → s.fld 0 F.ckp_stat_state = 4 → exec (.cutManifestDone) s = .next
    (s.cutEnds q)) ∧
  (∀ (s : State) (l : List (Nat × Nat)) (o : Option Nat) (q : DrainRun), s.ckp.drain = some q → s.hostReady = true →
    exec (.drainDone l o) s = .next (s.drainEnd q l o)) ∧
  (∀ (s : State), s.flag 0 F.ckp_rst_busy = true → exec (.restoreDone) s = .next (s.restoreEnds))

/-- For every state and operands that meet the named conditions on the state and the operands alone, exec answers
the next state with the named effect: a log ring entry written, a warning window ended, the recovery
controllers' self-tests and twin signals, the FAIL_N pin, heartbeats, elections, silence, failure notices,
takeover records and warning reissues. -/
def Obligations.RecoveryCommandsComplete : Prop :=
  (∀ (s : State) (d : Fin 2) (y : EvEntry) (rest : List EvEntry), (s.err.get d).fifo = y :: rest → (s.ringFull d = false ∨ s.flag d
    F.err_ctl_stop = false) → exec (.logRingWrite d) s = .next (s.ringWrite d y rest)) ∧
  (∀ (s : State) (d i : Fin 2), exec (.warningWindowEnd d i) s = .next (s.updRec d fun x => if i = 0 then { x with sramCount := 0 }
    else { x with linkCount := 0 })) ∧
  (∀ (s : State) (d : Fin 2) (b : Bool) (t : Nat) (u : State), s.rc d = 0 → s.fld 0 F.boot_stat_phase ≠ 1 → b = true → t = 1 - d.val
    → u = s.setFld d F.rec_stat_rc 1 → exec (.rcSelftestDone d b) s = .next (if u.rc t = 2 then (u.setFld t F.rec_stat_rc 1).setFld
    t F.rec_stat_twin 0 else u)) ∧
  (∀ (s : State) (d : Fin 2) (b : Bool), s.rc d = 0 → s.fld 0 F.boot_stat_phase ≠ 1 → b = false → exec (.rcSelftestDone d b) s =
    .next ((s.setFld d F.rec_stat_rc 3).raise (1 - d) 0x15 0x8010 d { other := true })) ∧
  (∀ (s : State) (d : Fin 2) (a : Fin 4), s.rcUp d = true → exec (.rcSelftestFail d a) s = .next (((s.setFld d F.rec_stat_rc
    3).raise (1 - d) 0x15 0x8010 (d + a * 256) { other := true }).withdraw.actionFails)) ∧
  (∀ (s : State) (d : Fin 2) (a : Fin 4) (v u : State), (v = if bit a 0 then s.tally d R.brg_t_tx0 0 32 else s) → v.rcUp (1 - d) =
    true → a ≠ 0 → v.rc d = 3 → u = v.setFld (1 - d) F.rec_stat_twin 1 → exec (.rcTwinSignal d a) s = .next (u.goSolo (1 - d) a)) ∧
  (∀ (s : State) (d : Fin 2) (a : Fin 4) (v u : State), (v = if bit a 0 then s.tally d R.brg_t_tx0 0 32 else s) → v.rcUp (1 - d) =
    true → a ≠ 0 → v.rc d ≠ 3 → (u = v.setFld (1 - d) F.rec_stat_twin (if v.rc d = 0 then 3 else 0)) → exec (.rcTwinSignal d a) s =
    .next (if u.rcUp d ∧ u.rc (1 - d) = 2 then u.setFld (1 - d) F.rec_stat_rc 1 else u)) ∧
  (∀ (s : State) (d : Fin 2), s.rcUp d = true → exec (.rcTwinLost d) s = .next ((s.setFld d F.rec_stat_twin 2).goSolo d 0)) ∧
  (∀ (s u : State), s.flag 0 F.rec_stat_fail = false → u = ((s.setFld 0 F.rec_stat_fail 1).setFld 1 F.rec_stat_fail 1).emit (.pin
    "FAIL_N" false) → exec (.failNAssert) s = .next (u.raise 0 0x15 0x8012 (u.rc 0 + u.rc 1 * 16))) ∧
  (∀ (s : State) (d : Fin 2) (b : Beat), s.flag 0 F.boot_stat_loaded = true → b = s.beat d → exec (.heartbeatSend d) s = .next
    (((List.range 18).filter fun i => s.linkState d i = 5).foldl (fun s i => (s.enqueue d i ⟨7, s.fld d F.lnk_peer_obs_node i,
    s.ownNode d, false, b.low, 0, b.data⟩).tally d R.rec_t_hbtx) s)) ∧
  (∀ (s : State) (d : Fin 2) (i : Fin 18) (m : Msg), s.linkState d i = 5 → m.kind = 7 → exec (.hb d i m) s = .next (s.beatArrives d
    i (beatOf m))) ∧
  (∀ (s : State) (d : Fin 2), s.flag 0 F.boot_stat_loaded = true → d = 0 → exec (.electionPeriod d) s = .next (((s.rankPeriod
    d).electRank d).masterPeriod)) ∧
  (∀ (s : State) (d : Fin 2), s.flag 0 F.boot_stat_loaded = true → d = 1 → exec (.electionPeriod d) s = .next ((s.rankPeriod
    d).electRank d)) ∧
  (∀ (s : State) (d : Fin 2) (i : Fin 18), s.linkState d i = 5 → exec (.hbSilenceTimeout d i) s = .next ((s.tell d i 2).timeHbLost
    (18 * d + i))) ∧
  (∀ (s : State) (f a : Fin 16384) (b : Fin 5) (t : Nat), s.isMaster = true → exec (.failureNotice f a b t) s = .next (s.takeNotice
    f a b t)) ∧
  (∀ (s : State) (f : Fin 16384), exec (.takeoverRecord f) s = .next ((s.writeRaw 0 (s.fld 0 F.rec_mbox_base * 256) (leBytes 2 f ++
    List.replicate 62 0)).takeMail f)) ∧
  (∀ (s : State) (d : Fin 2), exec (.wrReissue d) s = .next (((s.fb d).reqs.filter fun q => q.write && q.status.isSome && q.status ≠
    some .ok).foldl (fun s q => s.reissueOne d q) s))

/-- For every state and operands that meet the named conditions on the state and the operands alone, exec answers
the next state with the named effect: its reset, power loss, time timeout, samples, engine reports, intervals,
time marks, sealing, parameters, the tamper loop, mirror frames sent, received and lost, and power export. -/
def Obligations.AssayCommandsComplete : Prop :=
  (∀ (s : State), exec (.assayReset) s = .next (s.drew.updAsy fun x =>
    { x with run := some (AssayRun.start (s.free % 2 ^ 64) x.otp.params) })) ∧
  (∀ (s : State) (b : Bool) (y : AssayRun) (o : AssayOtp) (n : Nat), s.asy.run = some y → o = s.asy.otp → n = o.lcount
    + 1 → exec (.assayPowerLoss b) s = .next (s.updAsy fun x =>
    { x with run := none, otp := if b ∧ o.st = 1 then { o with lcount := n, st := if n = 1024 then 2 else 1 } else o })) ∧
  (∀ (s : State) (y : AssayRun), s.asy.run = some y → y.started = false → exec (.assayTimeTimeout) s = .next (s.updAsy
    fun x => { x with run := some (y.begin_ 0 false) })) ∧
  (∀ (s : State) (l : List Nat) (y : AssayRun), s.asy.run = some y → exec (.energySample l) s = .next (s.updAsy fun x
    => { x with run := some (y.sample (sumNat (l.take 16))) })) ∧
  (∀ (s : State) (b : Bool) (d n : Nat) (l : List (Nat × Nat)) (rest : List (Nat × Nat × List (Nat × Nat))),
    s.asy.reports = (d, n, l) :: rest → exec (.engineTimeReport b) s = .next ((s.updAsy fun x =>
    { x with reports := rest }).updRun fun x => x.report d n l b)) ∧
  (∀ (s : State), s.intervalDue = true → exec (.intervalEnd) s = .next (s.intervalEnd false)) ∧
  (∀ (s : State) (b : Bool) (i : Fin 1000) (a : Nat) (rest : List Nat) (y : AssayRun), s.asy.marks = a :: rest →
    s.asy.run = some y → b = true → y.started = true → exec (.timeMarkFrame b i) s = .next (s.updAsy fun x =>
    { x with marks := rest, run := some { y with offset := some (((a * 1000000000 : Nat) : Int) - ((y.ns + i.val : Nat) : Int)) } })) ∧
  (∀ (s : State) (b : Bool) (i : Fin 1000) (a : Nat) (rest : List Nat) (y : AssayRun), s.asy.marks = a :: rest →
    s.asy.run = some y → b = true → y.started = false → exec (.timeMarkFrame b i) s = .next (s.updAsy fun x =>
    { x with marks := rest, run := some { y.begin_ (a * 1000000000) true with offset := some 0 } })) ∧
  (∀ (s : State) (y : AssayRun), s.asy.run = some y → y.offset.isSome = true → exec (.offsetInvalidTimeout) s = .next
    (s.updAsy fun x => { x with run := some (AssayRun.tell { y with offset := none } 0xA008 y.ns) })) ∧
  (∀ (s : State) (n : Nat) (y : AssayRun) (u : State), s.asy.run = some y → s.asy.otp.st = 0 → n % 65536 = 0x5345 →
    (y.param.loop = 0 ∨ y.broken = false) → (u = s.updAsy fun x => { x with otp := { x.otp with st := 1 } }) → exec
    (.seal n) s = .next ((u.ledgerWrite 1 0 y.param.label (y.param.interval + y.param.acct * 2 ^ 16 + y.param.loop * 2
    ^ 17)).cmdDone 0)) ∧
  (∀ (s : State) (i : Fin 256) (n : Nat) (y : AssayRun) (u : State), (u = s.updRun fun x =>
    { x with pid := i.val, pval := n % 2 ^ 64 }) → u.asy.run = some y → u.asy.otp.st ≠ 2 → paramLegal i (n % 2 ^ 64) =
    true → exec (.setparam i n) s = .next (((if u.asy.otp.st = 1 then u.ledgerWrite 2 i (y.param.get i) (n % 2 ^ 64)
    else u).applyParam i (n % 2 ^ 64)).cmdDone 0)) ∧
  (∀ (s : State) (b : Bool) (y : AssayRun), s.asy.run = some y → y.param.loop ≠ 0 → y.broken = false → b = false →
    exec (.tamperCheck b) s = .next ((s.updRun fun y =>
    { y with broken := true, okMs := 0, seen := true, tamper := satAt 0xFFFF (y.tamper + 1) }).tamperEvent 3 0xA003)) ∧
  (∀ (s : State) (b : Bool) (y : AssayRun), s.asy.run = some y → y.param.loop ≠ 0 → y.broken = true → b = true → 999 ≤
    y.okMs → exec (.tamperCheck b) s = .next ((s.updRun fun y => { y with broken := false, okMs := 0 }).tamperEvent 4
    0xA004)) ∧
  (∀ (s : State) (y : AssayRun) (f : MirrorFrame) (u : State), s.asy.run = some y → f = ⟨s.asy.otp.st, y.flags
    s.asy.otp.st, s.asy.otp.lcount, y.uj, y.wrap, y.lastMw, y.ns, y.offsetBits, y.nextEntry s.asy.otp, frameHalls
    y.queue, y.news⟩ → (u = s.updRun fun y =>
    { y with queue := y.queue.drop f.halls.length, newEnt := y.newEnt.drop 1, cyc := if y.newEnt.isEmpty then y.cyc + 1 else y.cyc, news := [] })
    → exec (.mirrorFrame) s = .next (u.updAsy fun x => { x with frames := x.frames ++ [f] })) ∧
  (∀ (s : State) (b : Bool) (f : MirrorFrame) (rest : List MirrorFrame) (u : State), s.asy.frames = f :: rest → b =
    true → (u = ((s.updAsy fun x => { x with frames := rest, bad := 0 }).tally 0 R.asy_t_frame).frameFields f) → exec
    (.mirrorFrameReceive b) s = .next (f.halls.foldl (fun s h => s.hallArrives h) (f.news.foldl (fun s e => s.raise 0
    0x17 e.1 e.2) u))) ∧
  (∀ (s : State) (b : Bool) (f : MirrorFrame) (rest : List MirrorFrame) (u : State), s.asy.frames = f :: rest → b =
    false → (u = s.updAsy fun x => { x with frames := rest, bad := x.bad + 1 }) → exec (.mirrorFrameReceive b) s =
    .next (f.halls.foldl (fun s h => s.hallDrop h.1) (u.count32 0 F.asy_badf_count))) ∧
  (∀ (s : State), s.flag 0 F.asy_stat_mlive = true → exec (.mirrorLost) s = .next ((s.setFld 0 F.asy_stat_mlive
    0).raise 0 0x17 0xA007 s.asy.bad)) ∧
  (∀ (s : State) (b : Bool) (y : AssayRun) (u : State), s.asy.run = some y → y.expN ≠ 0 → (u = s.updRun fun x =>
    { x with expPj := 0, expN := 0, expSeq := (x.expSeq + 1) % 8 }) → exec (.powerExport b) s = .next
    ({ u with pwr := { u.pwr with export_ := some (min 0xFFFF (y.expPj / (y.expN * 100000)), !b, 0) } }))

/-- For every state and operands that meet the named conditions on the state and the operands alone, exec answers
the next state with the named effect: every phase of start-up in the phase that it ends, a key hash
programmed, and the WRITE32, WRITE64, FILL, COPY_TO_HBM and WAIT_BIT records and the end of the records. -/
def Obligations.BootCommandsComplete : Prop :=
  (∀ (s : State) (i : Fin 4) (a : Fin 16), exec (.deviceReset i a) s = .next (s.deviceReset i a)) ∧
  (∀ (s : State) (a : Fin 16), a ≠ 14 → exec (.undervoltage a) s = .next (s.deviceReset 2 a)) ∧
  (∀ (s : State), exec (.undervoltage 14) s = .next (s.deviceReset 0 0)) ∧
  (∀ (s : State) (a : Nat), s.boot.hold = some a → exec (.resetRelease) s = .next (s.updBoot fun x =>
    { x with hold := none, start := s.clk })) ∧
  (∀ (s : State), s.boot.hold = none → s.phase = 1 → exec (.fuseDone) s = .next ((s.setPhase 2).diesStart)) ∧
  (∀ (s : State) (i : Fin 4) (n : Nat) (u : State), s.boot.hold = none → s.phase = 2 → i ≠ 0 → (u = ((s.setFld 0 F.boot_nor_mode
    i).setFld 0 F.boot_nor_clk (if i = 3 then 200 else if i = 2 then 100 else 50)).setFld 0 F.boot_nor_size n) → exec (.probeDone i
    n) s = .next ((u.setPhase 3).setFld 0 F.boot_stat_copy 1)) ∧
  (∀ (s : State) (i : Fin 4) (n : Nat), s.boot.hold = none → s.phase = 2 → i = 0 → exec (.probeDone i n) s = .next (((s.copyRecord 1
    1 0).copyRecord 2 1 0).bootFailed)) ∧
  (∀ (s : State) (l : List Byte), s.boot.hold = none → s.phase = 3 → 256 ≤ l.length → copyLen l ≤ l.length → exec (.stageDone l) s =
    .next (((s.sramWrite stageBase (l.take (copyLen l)) 0).updBoot fun x => { x with staged := copyLen l }).setPhase 4)) ∧
  (∀ (s : State) (l : List Byte), s.boot.hold = none → s.phase = 3 → (l.length < 256 ∨ l.length < copyLen l) → exec (.stageDone l) s
    = .next (s.copyFails 1 0)) ∧
  (∀ (s : State), s.boot.hold = none → s.phase = 4 → s.copyCause s.staged = none → exec (.verifyDone) s = .next ((s.updBoot fun x =>
    { x with pos := 0 }).setPhase 5)) ∧
  (∀ (s : State) (a : Nat), s.boot.hold = none → s.phase = 4 → s.copyCause s.staged = some a → exec (.verifyDone) s = .next
    (s.copyFails a 0)) ∧
  (∀ (s u : State), s.boot.hold = none → s.phase = 6 → u = (((s.diesReset [0x01, 0x16]).setFld 0 F.pwr_rcause_cause (s.fld 0
    F.pwr_rcause_cause)).setFld 0 F.pwr_rcause_rail (s.fld 0 F.pwr_rcause_rail)).diesStart → exec (.redoDone) s = .next ((u.setPhase
    3).setFld 0 F.boot_stat_copy 2)) ∧
  (∀ (s u v : State) (a : Nat), s.boot.hold = none → s.phase = 7 → (u = (s.sramWrite stageBase (List.replicate s.boot.staged 0)
    0).updBoot fun x => { x with staged := 0 }) → a = (u.clk - u.boot.start) / 1900 → v = ((({ u with relClk := u.clk } :
    State).setPhase 8).setFld 0 F.boot_tload_us a).stage F.boot_stat_loaded → exec (.runRelease) s = .next ((v.raise 0 0x01 0x9011
    (v.fld 0 F.boot_stat_copy + a % 2 ^ 32 * 2 ^ 32)).runStarts)) ∧
  (∀ (s : State), s.released = true → s.fld 0 F.boot_cfg_tmo ≠ 0 → s.flag 0 F.boot_stat_ready = false → s.boot.late = false → exec
    (.readyTimeout) s = .next ((s.updBoot fun x => { x with late := true }).raise 0 0x01 0x9014 (255 - s.reg 0 R.boot_stat % 256))) ∧
  (∀ (s : State) (q : BitVec 400), bits q.toNat 384 16 = 0x504B → s.boot.fuses.pkh = none → exec (.pkhprog q true) s = .next
    (s.updBoot fun x => { x with fuses := { x.fuses with pkh := some (leBytes 48 q.toNat) } })) ∧
  (∀ (s : State), s.loads 1 = true → exec (.write32) s = .next (s.runWrite s.nextRec)) ∧
  (∀ (s : State), s.loads 2 = true → exec (.write64) s = .next (s.runWrite s.nextRec)) ∧
  (∀ (s : State), s.loads 3 = true → exec (.fill) s = .next (s.runWrite s.nextRec)) ∧
  (∀ (s : State), s.loads 5 = true → exec (.copyToHbm) s = .next (s.runWrite s.nextRec)) ∧
  (∀ (s : State), s.loads 4 = true → exec (.waitBit) s = .next (s.runWait s.nextRec)) ∧
  (∀ (s : State) (q : Rec), s.loads 4 = true → q = s.nextRec → q.good s.recArea = true → q.readable = true → exec (.waitBitTimeout)
    s = .next (if bit q.flags 2 then (s.count32 0 F.boot_stat_soft).recDone q else s.recFails q 9)) ∧
  (∀ (s : State) (l : List Byte), s.boot.hold = none → s.phase = 5 → s.boot.pos + 16 ≤ s.recArea → (¬ (1 ≤ s.nextRec.op ∧
    s.nextRec.op ≤ 5)) → s.nextRec.good s.recArea = true → l = s.peek stageBase 256 → exec (.recordEnd) s = .next (((s.setReg 0
    R.boot_img (leAt l 0x18 8)).setFld 0 F.boot_svn_img (leAt l 0x10 4)).setPhase 7))

/-- For every state and operands that meet the named conditions on the state and the operands alone, exec answers the
next state with the named effect: a BAR2 access to memory (done at once, or waiting for its target or behind a
posted write), configuration
requests, link and reset events, a function-level reset, a window resize, a lost device request and the interrupt
table. -/
def Obligations.HostCommandsComplete : Prop :=
  (∀ (s : State) (o n : Nat) (b : List Byte) (a : Nat) (u : State), s.boot.hold = none → b ≠ [] → b.length ≤ 512 → o + b.length ≤ 2
    ^ s.host.bar2 → a = s.bar2Pa o → u = s.tally 0 R.pcie_t_inwr 0 b.length → inMemory a b.length = true → u.hbmStops a b.length =
    false → u.serves a b.length = true → exec (.bar2Access o n (some b)) s = .next (u.hostMem a b.length (some b))) ∧
  (∀ (s : State) (o n a : Nat), s.boot.hold = none → n ≠ 0 → n ≤ 4096 → o + n ≤ 2 ^ s.host.bar2 → a = s.bar2Pa o → inMemory a n =
    true → s.hbmStops a n = false → s.serves a n = true → exec (.bar2Access o n none) s = .next ((s.hostMem a n none).tally 0 R.pcie_t_inrd 0 n)) ∧
  (∀ (s : State), s.boot.hold = none → s.phase ≠ 1 → exec (.configRequest 0) s = .next (s.drew.emit (.config false (s.reg 0
    R.boot_devid % 2 ^ 20 + s.free % 2 ^ 12 * 2 ^ 20)))) ∧
  (∀ (s : State), s.boot.hold = none → s.phase ≠ 1 → exec (.configRequest 1) s = .next (s.drew.emit (.config false (s.free % 2 ^
    32)))) ∧
  (∀ (s : State), s.boot.hold = none → s.phase ≠ 1 → exec (.configRequest 2) s = .next ((s.setFld 0 F.pcie_stat_bme
    0).drainEnds.emit (.config false 0))) ∧
  (∀ (s : State), s.boot.hold = none → s.phase ≠ 1 → exec (.configRequest 3) s = .next ((s.setFld 0 F.pcie_stat_bme 1).emit (.config
    false 0))) ∧
  (∀ (s : State), s.boot.hold = none → s.phase ≠ 1 → exec (.configRequest 4) s = .next ((s.updHost fun h =>
    { h with msixEn := false }).emit (.config false 0))) ∧
  (∀ (s : State), s.boot.hold = none → s.phase ≠ 1 → exec (.configRequest 5) s = .next ((s.updHost fun h =>
    { h with msixEn := true }).emit (.config false 0))) ∧
  (∀ (s : State) (a : Fin 8) (w : Fin 17) (b : Bool) (u : State), s.boot.hold = none → a ≠ 0 → a ≠ 7 → [1, 2, 4, 8, 16].contains
    w.val = true → (u = if s.fld 0 F.pcie_stat_ltssm = 3 then s.tally 0 R.pcie_t_rcv else s) → exec (.hostLinkL0 a w b) s = .next
    (((((u.setFld 0 F.pcie_stat_ltssm 3).setFld 0 F.pcie_stat_gen a).setFld 0 F.pcie_stat_width w).setFld 0 F.pcie_stat_flit (b2n
    b)).raise 0 0x1A 0xC001 (a + w * 2 ^ 8))) ∧
  (∀ (s : State), s.boot.hold = none → exec (.pciePerst) s = .next (((((s.setReg 0 R.pcie_stat 0).updHost fun h =>
    { h with inbound := [], msixEn := false, bar2 := 40 }).msixReset).raise 0 0x1A 0xC002 (s.fld 0 F.pcie_stat_ltssm)).drainEnds)) ∧
  (∀ (s u : State), s.boot.hold = none → s.phase ≠ 1 → (u = [R.pcie_ctl, R.pcie_win, R.pcie_evq_base, R.pcie_evq_ctl,
    R.pcie_msix].foldl (fun s r => s.setReg 0 r r.reset) s) → exec (.flr) s = .next ((((if u.flag 0 F.tele_ctl_dst then u else
    u.setFld 0 F.tele_ctl_en 0).updHost fun h => { h with inbound := [] }).msixReset.raise 0 0x1A 0xC006 (if u.flag 0
    F.tele_ctl_dst then u else u.setFld 0 F.tele_ctl_en 0).posted).drainEnds)) ∧
  (∀ (s : State) (a : Fin 64) (u : State), s.boot.hold = none → s.phase ≠ 1 → 34 ≤ a.val → a.val ≤ 40 → (u = s.updHost fun h =>
    { h with bar2 := a }) → exec (.resizableBarWrite a) s = .next (if u.reg 0 R.pcie_win % 2 ^ a.val = 0 then u else (u.setReg 0
    R.pcie_win 0).raise 0 0x1A 0x9002 (R.pcie_win.pa 0 0))) ∧
  (∀ (s : State) (a : Fin 4) (n : Nat) (q : DrainRun), s.ckp.drain = some q → exec (.deviceRequestTimeout a n) s = .next
    ((s.hostFault 0xC004 a 0 (s.reg 0 R.ckp_dlist + 16 * n)).drainFails n 0)) ∧
  (∀ (s : State) (a : Fin 256) (u : State), s.host.holding.contains a.val = true → u =
    { s with host := { s.host with holding := markSet false a s.host.holding, deferred := markSet false a s.host.deferred } } → exec
    (.msixHoldExpire a) s = .next (if s.host.deferred.contains a.val then u.msixRaise a else u)) ∧
  (∀ (s : State) (a : Fin 256) (n m : Nat) (u : State), u =
    { s with host := { s.host with table := assocPut a ⟨n, m, 0⟩ s.host.table, pba := markSet false a s.host.pba } } → exec
    (.msixUnmask a n m) s = .next (if s.host.pba.contains a.val then u.msixRaise a else u)) ∧
  (∀ (s : State) (a n : Nat) (b : Option (List Byte)), s.behind .host = true ∨ s.memBlocked ⟨0, b.isSome, a, n, b, false, []⟩ = true
    → s.hostMem a n b = s.hostQueue (.mem a n b)) ∧
  (∀ (s : State) (a : Nat) (b : List Byte), s.behind .host = false → s.memBlocked ⟨0, true, a, b.length, some b, false, []⟩ = false →
    s.hostMem a b.length (some b) = s.writeRaw 0 a b false .outside none []) ∧
  (∀ (s : State) (a n : Nat) (q : Rd), s.behind .host = false → s.memBlocked ⟨0, false, a, n, none, false, []⟩ = false → q = s.read 0 a
    n [] → s.hostMem a n none = q.st.emit (.memData a q.data q.poison))

/-- For every state and operands that meet the named conditions on the state and the operands alone, exec answers
the next state with the named effect: 32-bit and 64-bit reads and writes of the management bus and of the
debug port, address assignment and its reset, a held in-band interrupt and a telemetry period. -/
def Obligations.ManagementAndDebugCommandsComplete : Prop :=
  (∀ (s : State) (a : Fin (2 ^ 56)) (n : Nat) (u : State), s.boot.hold = none → s.busRead .mgmt a 32 = some (n, u) →
    exec (.mgmtRead32 a none) s = .next (u.emit (.i3c 0 (leBytes 4 n)))) ∧
  (∀ (s : State) (a : Fin (2 ^ 56)) (n : Nat) (u : State), s.boot.hold = none → s.busRead .mgmt a 64 = some (n, u) →
    exec (.mgmtRead64 a none) s = .next (u.emit (.i3c 0 (leBytes 8 n)))) ∧
  (∀ (s : State) (a : Fin (2 ^ 56)) (n : Nat) (u : State), s.boot.hold = none → s.busWrite .mgmt a 32 n = some u →
    exec (.mgmtWrite32 a n none) s = .next (u)) ∧
  (∀ (s : State) (a : Fin (2 ^ 56)) (n : Nat) (u : State), s.boot.hold = none → s.busWrite .mgmt a 64 n = some u →
    exec (.mgmtWrite64 a n none) s = .next (u)) ∧
  (∀ (s : State) (a : Fin 128) (b : Bool) (u : State), s.boot.hold = none → s.flag 0 F.mgmt_stat_i3c = false → u =
    (s.setFld 0 F.mgmt_stat_i3c 1).setFld 0 F.mgmt_stat_daddr a → exec (.dynamicAddressAssign a b) s = .next
    ({ u with mgmt := { u.mgmt with ibiOn := b } })) ∧
  (∀ (s u : State), s.boot.hold = none → u = (s.setFld 0 F.mgmt_stat_i3c 0).setFld 0 F.mgmt_stat_daddr 0 → exec
    (.rstdaa) s = .next ({ u with mgmt := { u.mgmt with ibiOn := false } })) ∧
  (∀ (s : State) (a n : Nat) (u : State), s.mgmt.holding = true → s.mgmt.deferred = some (a, n) → u =
    { s with mgmt := { s.mgmt with holding := false, deferred := none } } → exec (.ibiHoldExpire) s = .next (if u.flag
    0 F.mgmt_ibi_en ∧ u.mgmt.ibiOn then u.ibiSend n else u)) ∧
  (∀ (s : State), s.mgmt.holding = true → s.mgmt.deferred = none → exec (.ibiHoldExpire) s = .next
    ({ s with mgmt := { s.mgmt with holding := false, deferred := none } })) ∧
  (∀ (s : State) (b : Bool), s.boot.hold = none → s.flag 0 F.tele_ctl_en = true → b = false → exec (.telemetryPeriod
    b) s = .next (s.telemetry)) ∧
  (∀ (s : State) (b : Bool) (u : State), s.boot.hold = none → s.flag 0 F.tele_ctl_en = true → b = true → u =
    { s with tele := { s.tele with skipped := true } } → exec (.telemetryPeriod b) s = .next (u.tally 0
    R.tele_t_skip)) ∧
  (∀ (s : State) (a : Fin (2 ^ 52)) (n : Nat) (u v : State), s.boot.hold = none → u = s.jtagOut → u.dbg.status ≠ 1 →
    u.flag 0 F.dbg_ctl_dis = false → u.busRead .dbg a 32 = some (n, v) → exec (.dbgRead32 a) s = .next (v.dbgEnds 0
    n)) ∧
  (∀ (s : State) (a : Fin (2 ^ 52)) (n : Nat) (u v : State), s.boot.hold = none → u = s.jtagOut → u.dbg.status ≠ 1 →
    u.flag 0 F.dbg_ctl_dis = false → u.busRead .dbg a 64 = some (n, v) → exec (.dbgRead64 a) s = .next (v.dbgEnds 0
    n)) ∧
  (∀ (s : State) (a : Fin (2 ^ 52)) (n : Nat) (u v : State), s.boot.hold = none → u = s.jtagOut → u.dbg.status ≠ 1 →
    u.flag 0 F.dbg_ctl_dis = false → u.busWrite .dbg a 32 n = some v → exec (.dbgWrite32 a n) s = .next (v.dbgEnds 0
    0)) ∧
  (∀ (s : State) (a : Fin (2 ^ 52)) (n : Nat) (u v : State), s.boot.hold = none → u = s.jtagOut → u.dbg.status ≠ 1 →
    u.flag 0 F.dbg_ctl_dis = false → u.busWrite .dbg a 64 n = some v → exec (.dbgWrite64 a n) s = .next (v.dbgEnds 0
    0))

/-- For every state and operands that meet the named conditions on the state and the operands alone, exec answers
the next state with the named effect: a slow step of the power cap, the brake asserted and released, a clock
change ended, a regulator write tried again and a thermal trip. -/
def Obligations.PowerCommandsComplete : Prop :=
  (∀ (s : State) (l : List (Nat × Nat)) (u : State), l = s.pwr.samples → l ≠ [] → 4 * l.length ≤ sumNat (l.map (·.2))
    → (u = s.updPwr fun x => { x with zeroMs := if l.all (fun p => p.2 = 0) then min 10 (x.zeroMs + 1) else 0 }) →
    exec (.capSlowStep) s = .next (u.moveCeil fun _ c => max 10 (c - 1))) ∧
  (∀ (s : State), exec (.brakeAssert) s = .next (((s.setFld 0 F.pwr_stat_brake 1).updPwr fun x =>
    { x with phi := 0 }).showTheta)) ∧
  (∀ (s : State), exec (.brakeRelease) s = .next ((s.setFld 0 F.pwr_stat_brake 0).showTheta)) ∧
  (∀ (s : State) (r : Fin 16) (q : DvfsRun) (u v : State), assocGet r.val s.pwr.dvfs = some q → (u = (s.updPwr fun y
    => { y with dvfs := assocDel r y.dvfs }).setFld 0 F.pwr_rclk_busy 0 r) → v = (u.runStep r (u.stepOf r
    q.step)).tally 0 R.pwr_t_dvfs → exec (.dvfsDone r) s = .next (q.held.elim v (v.dvfsStart r))) ∧
  (∀ (s : State) (d : Fin 2) (b : Bool) (a n : Nat) (u : State), assocGet d.val s.pwr.retry = some (a, n) → u = s.emit
    (.pmbus d (s.fld 0 (avsFld d))) → b = true → exec (.pmbusWriteRetry d b) s = .next (u.updPwr fun x =>
    { x with retry := assocDel d x.retry })) ∧
  (∀ (s : State) (d : Fin 2) (b : Bool) (a n : Nat) (u : State), assocGet d.val s.pwr.retry = some (a, n) → u = s.emit
    (.pmbus d (s.fld 0 (avsFld d))) → b = false → n < 2 → exec (.pmbusWriteRetry d b) s = .next (u.updPwr fun x =>
    { x with retry := assocPut d (a, n + 1) x.retry })) ∧
  (∀ (s : State) (a b : Fin 256) (u : State), s.flag 0 F.pwr_stat_trip = false → u = ((s.setFld 0 F.pwr_stat_trip
    1).emit (.pin "THERM_N" false)).pwrRaise 0xB003 (a + b * 256) → exec (.thermalTrip a b) s = .next ((((u.cutPorts
    0).cutPorts 1).setBoth F.brg_stat_up 0).setBoth F.brg_stat_train 0))

/-- For every state and operands that meet the named conditions on the state and the operands alone, exec answers
the next state with the named effect: writes of det.ctl (strict, replay release), det.tw_mm, mxe.bq_ctl,
mxe.freeze_lim, dlr.db, dlr.kill and dlr.pbinv. A write row is served on every path that is taking accesses:
the register takes the value its field types give, and then the named action of that register happens. -/
def Obligations.ComputeRegisterWrites : Prop :=
  (∀ (s : State) (p : Path) (v : Nat) (u t : State), s.taking p (R.det_ctl.pa 0 0) → v < 2 ^ 32 → u = s.came p (R.det_ctl.pa 0 0) 4
    → t = u.stored 0 R.det_ctl v → exec (.detStrictWrite p v) s = .next (if bit (u.reg 0 R.det_ctl) 2 ∧ ¬ t.onDetStrict.flag 0
    F.det_ctl_rp then t.onDetStrict.onReplayOff else t.onDetStrict)) ∧
  (∀ (s : State) (p : Path) (v : Nat) (u t : State), s.taking p (R.det_ctl.pa 0 0) → v < 2 ^ 32 → u = s.came p (R.det_ctl.pa 0 0) 4
    → t = u.stored 0 R.det_ctl (putBits v 2 1 0) → exec (.replayRelease p v) s = .next (if bit (u.reg 0 R.det_ctl) 2 ∧ ¬
    t.onDetStrict.flag 0 F.det_ctl_rp then t.onDetStrict.onReplayOff else t.onDetStrict)) ∧
  (∀ (s : State) (p : Path) (u t : State), s.taking p (R.det_tw_mm.pa 0 0) → u = s.came p (R.det_tw_mm.pa 0 0) 8 → t = u.stored 0
    R.det_tw_mm (2 ^ 63) → exec (.twinRelease p) s = .next (t.onTwinRelease)) ∧
  (∀ (s : State) (p : Path) (d : Fin 2) (j : Fin 64) (v : Nat) (u : State) (n' : Nat), s.taking p (R.mxe_bq_ctl.pa d j) → v < 2 ^ 32
    → u = s.came p (R.mxe_bq_ctl.pa d j) 4 → n' = u.after d R.mxe_bq_ctl v j → exec (.bqCtlWrite p d j v) s = .next (u.onBqCtl d j
    n')) ∧
  (∀ (s : State) (p : Path) (d : Fin 2) (v : Nat) (es : List (Fin 256)) (u t : State), s.taking p (R.mxe_freeze_lim.pa d 0) → v < 2
    ^ 32 → u = s.came p (R.mxe_freeze_lim.pa d 0) 4 → t = u.stored d R.mxe_freeze_lim v → exec (.freezeLimWrite p d v es) s = .next
    (es.foldl (fun s e => s.freezeEvent (64 * d + e.val / 4) (e.val % 4)) t)) ∧
  (∀ (s : State) (p : Path) (d : Fin 2) (v : Nat) (u t : State), s.taking p (R.dlr_db.pa d 0) → v < 2 ^ 32 → u = s.came p
    (R.dlr_db.pa d 0) 4 → t = u.stored d R.dlr_db v → exec (.doorbell p d v) s = .next (t.onDoorbell d v)) ∧
  (∀ (s : State) (p : Path) (d : Fin 2) (v : Nat) (u t : State), s.taking p (R.dlr_kill.pa d 0) → v < 2 ^ 32 → u = s.came p
    (R.dlr_kill.pa d 0) 4 → t = u.stored d R.dlr_kill v → exec (.kill p d v) s = .next (t.onKill d v)) ∧
  (∀ (s : State) (p : Path) (d : Fin 2) (v : Nat) (u t : State), s.taking p (R.dlr_pbinv.pa d 0) → v < 2 ^ 32 → u = s.came p
    (R.dlr_pbinv.pa d 0) 4 → t = u.stored d R.dlr_pbinv (v ||| 2 ^ 31) → exec (.pbinv p d v) s = .next (t.onPbinv d (t.reg d
    R.dlr_pbinv)))

/-- For every state and operands that meet the named conditions on the state and the operands alone, exec answers
the next state with the named effect: writes of sram.carve, brg.ctl, brg.cwin, hbm.own, hcache.flush, tgen.ctl
and the six commands of rw.cmd while the selected stack is owned. A write row is served on every path that is
taking accesses: the register takes the value its field types give, and then the named action of that register
happens. -/
def Obligations.MemoryRegisterWrites : Prop :=
  (∀ (s : State) (p : Path) (d : Fin 2) (n : Fin 8) (u : State) (n' : Nat), s.taking p (R.sram_carve.pa d 0) → u = s.came p
    (R.sram_carve.pa d 0) 4 → u.accepts d R.sram_carve n → n' = u.after d R.sram_carve n → exec (.carveWrite p d n) s = .next
    (u.onCarve d (n' % 8))) ∧
  (∀ (s : State) (p : Path) (d : Fin 2) (u t : State), s.taking p (R.brg_ctl.pa d 0) → u = s.came p (R.brg_ctl.pa d 0) 4 → t =
    u.stored d R.brg_ctl 1 → exec (.bridgeRetrainCmd p d) s = .next (t.onRetrain d t.released)) ∧
  (∀ (s : State) (p : Path) (n : Fin 8) (v : Nat) (u : State) (n' : Nat), s.taking p (R.brg_cwin.pa 0 n) → v < 2 ^ 64 → u = s.came p
    (R.brg_cwin.pa 0 n) 8 → u.accepts 0 R.brg_cwin v n → n' = u.after 0 R.brg_cwin v n → exec (.cwinWrite p n v) s = .next (u.onCwin
    n n')) ∧
  (∀ (s : State) (p : Path) (d : Fin 2) (own : Fin 16) (u : State) (n' : Nat), s.taking p (R.hbm_own.pa d 0) → u = s.came p
    (R.hbm_own.pa d 0) 4 → n' = u.after d R.hbm_own own → exec (.hbmOwnWrite p d own) s = .next (u.onOwn d n')) ∧
  (∀ (s : State) (p : Path) (d : Fin 2) (u t : State), s.taking p (R.hcache_flush.pa d 0) → u = s.came p (R.hcache_flush.pa d 0) 4 →
    t = u.stored d R.hcache_flush 1 → exec (.hcacheFlush p d) s = .next (t.onFlush d)) ∧
  (∀ (s : State) (p : Path) (d : Fin 2) (v : Nat) (u t : State), s.taking p (R.tgen_ctl.pa d 0) → v < 2 ^ 32 → u = s.came p
    (R.tgen_ctl.pa d 0) 4 → u.accepts d R.tgen_ctl (putBits v 30 2 2) → t = u.stored d R.tgen_ctl (putBits v 30 2 2) → exec (.tgenGo
    p d v) s = .next (((t.setFld d F.tgen_ctl_go 0).setFld d F.tgen_ctl_stop 0).onTgenCtl d true false)) ∧
  (∀ (s : State) (p : Path) (d : Fin 2) (v : Nat) (u t : State), s.taking p (R.tgen_ctl.pa d 0) → v < 2 ^ 32 → u = s.came p
    (R.tgen_ctl.pa d 0) 4 → u.accepts d R.tgen_ctl (putBits v 30 2 1) → t = u.stored d R.tgen_ctl (putBits v 30 2 1) → exec
    (.tgenStop p d v) s = .next (((t.setFld d F.tgen_ctl_go 0).setFld d F.tgen_ctl_stop 0).onTgenCtl d false true)) ∧
  (∀ (s : State) (p : Path) (u t : State), s.taking p (R.rw_cmd.pa 0 0) → u = s.came p (R.rw_cmd.pa 0 0) 4 → (s.heard p 4).unowned =
    false → t = u.stored 0 R.rw_cmd 1 → exec (.readRow p) s = .next (t.onRwCmd 1)) ∧
  (∀ (s : State) (p : Path) (u t : State), s.taking p (R.rw_cmd.pa 0 0) → u = s.came p (R.rw_cmd.pa 0 0) 4 → (s.heard p 4).unowned =
    false → t = u.stored 0 R.rw_cmd 2 → exec (.writeRow p) s = .next (t.onRwCmd 2)) ∧
  (∀ (s : State) (p : Path) (u t : State), s.taking p (R.rw_cmd.pa 0 0) → u = s.came p (R.rw_cmd.pa 0 0) 4 → (s.heard p 4).unowned =
    false → t = u.stored 0 R.rw_cmd 3 → exec (.softRepair p) s = .next (t.onRwCmd 3)) ∧
  (∀ (s : State) (p : Path) (key : Fin 65536) (u t : State), s.taking p (R.rw_cmd.pa 0 0) → u = s.came p (R.rw_cmd.pa 0 0) 4 →
    (s.heard p 4).unowned = false → t = u.stored 0 R.rw_cmd (4 + key.val * 2 ^ 16) → exec (.hardRepair p key) s = .next (t.onRwCmd
    (4 + key.val * 2 ^ 16))) ∧
  (∀ (s : State) (p : Path) (u t : State), s.taking p (R.rw_cmd.pa 0 0) → u = s.came p (R.rw_cmd.pa 0 0) 4 → (s.heard p 4).unowned =
    false → t = u.stored 0 R.rw_cmd 5 → exec (.clearSoft p) s = .next (t.onRwCmd 5)) ∧
  (∀ (s : State) (p : Path) (u t : State), s.taking p (R.rw_cmd.pa 0 0) → u = s.came p (R.rw_cmd.pa 0 0) 4 → (s.heard p 4).unowned =
    false → t = u.stored 0 R.rw_cmd 6 → exec (.spareQuery p) s = .next (t.onRwCmd 6))

/-- For every state and operands that meet the named conditions on the state and the operands alone, exec answers
the next state with the named effect: writes of ctx.refresh, ctx.ctl, ctx.base, mmu.inv, lnk.ctl,
meld.job.desc, codec.ww, codec.wm and codec.ctl. A write row is served on every path that is taking accesses:
the register takes the value its field types give, and then the named action of that register happens. -/
def Obligations.ContextAndFabricRegisterWrites : Prop :=
  (∀ (s : State) (p : Path) (c : Fin 4096) (u t : State), s.taking p (R.ctx_refresh.pa 0 0) → u = s.came p (R.ctx_refresh.pa 0 0) 4
    → t = u.stored 0 R.ctx_refresh c → exec (.ctxRefresh p c) s = .next (t.onRefresh c)) ∧
  (∀ (s : State) (p : Path) (en : Bool) (u t : State), s.taking p (R.ctx_ctl.pa 0 0) → u = s.came p (R.ctx_ctl.pa 0 0) 4 → t =
    u.stored 0 R.ctx_ctl (2 + b2n en) → exec (.ctxDrop p en) s = .next ((t.setFld 0 F.ctx_ctl_drop 0).onCtxDrop)) ∧
  (∀ (s : State) (p : Path) (v : Nat) (u : State) (n' : Nat), s.taking p (R.ctx_base.pa 0 0) → v < 2 ^ 64 → u = s.came p
    (R.ctx_base.pa 0 0) 8 → u.accepts 0 R.ctx_base v → n' = u.after 0 R.ctx_base v → exec (.ctxBaseWrite p v) s = .next (u.onCtxBase
    n')) ∧
  (∀ (s : State) (p : Path) (d : Fin 2) (v : Nat) (u t : State), s.taking p (R.mmu_inv.pa d 0) → v < 2 ^ 64 → u = s.came p
    (R.mmu_inv.pa d 0) 8 → u.accepts d R.mmu_inv (putBits v 63 1 1) → t = u.stored d R.mmu_inv (putBits v 63 1 1) → exec (.mmuInv p
    d v) s = .next ((t.setFld d F.mmu_inv_go 0).onInv d)) ∧
  (∀ (s : State) (p : Path) (d : Fin 2) (v : Nat) (u t : State), s.taking p (R.lnk_ctl.pa d 0) → v < 2 ^ 32 → u = s.came p
    (R.lnk_ctl.pa d 0) 4 → t = u.stored d R.lnk_ctl v → exec (.lnkCtlWrite p d v) s = .next (t.onLnkCtl d (bits (u.reg d R.lnk_ctl)
    0 18))) ∧
  (∀ (s : State) (p : Path) (j : Fin 4) (v : Nat) (u t : State), s.taking p (R.meld_job_desc.pa 0 j) → v < 2 ^ 64 → u = s.came p
    (R.meld_job_desc.pa 0 j) 8 → t = u.stored 0 R.meld_job_desc (putBits v 63 1 1) j → exec (.meldEnable p j v) s = .next
    (t.onMeldDesc j (bit (u.reg 0 R.meld_job_desc j) 63))) ∧
  (∀ (s : State) (p : Path) (j : Fin 4) (v : Nat) (u t : State), s.taking p (R.meld_job_desc.pa 0 j) → v < 2 ^ 64 → u = s.came p
    (R.meld_job_desc.pa 0 j) 8 → t = u.stored 0 R.meld_job_desc (putBits v 63 1 0) j → exec (.meldDisable p j v) s = .next
    (t.onMeldDesc j (bit (u.reg 0 R.meld_job_desc j) 63))) ∧
  (∀ (s : State) (p : Path) (d : Fin 2) (n : Fin 8) (v : Nat) (u : State) (n' : Nat), s.taking p (R.codec_ww.pa d n) → v < 2 ^ 64 →
    u = s.came p (R.codec_ww.pa d n) 8 → u.accepts d R.codec_ww v n → n' = u.after d R.codec_ww v n → exec (.codecWwWrite p d n v) s
    = .next (u.onWw d n n')) ∧
  (∀ (s : State) (p : Path) (d : Fin 2) (n : Fin 8) (v : Nat) (u : State) (n' : Nat), s.taking p (R.codec_wm.pa d n) → v < 2 ^ 64 →
    u = s.came p (R.codec_wm.pa d n) 8 → u.accepts d R.codec_wm v n → n' = u.after d R.codec_wm v n → exec (.codecWmWrite p d n v) s
    = .next (u.onWm d n n')) ∧
  (∀ (s : State) (p : Path) (d : Fin 2) (u t : State), s.taking p (R.codec_ctl.pa d 0) → u = s.came p (R.codec_ctl.pa d 0) 4 → t =
    u.stored d R.codec_ctl 1 → exec (.codecInval p d) s = .next ((t.setFld d F.codec_ctl_inval 0).onInval d))

/-- For every state and operands that meet the named conditions on the state and the operands alone, exec answers
the next state with the named effect: writes of wan.ctl, wan.ip6_lo, cip.ld, cip.pair_ctl (roll, use, drop)
and cip.pair_sess. A write row is served on every path that is taking accesses: the register takes the value
its field types give, and then the named action of that register happens. -/
def Obligations.WanRegisterWrites : Prop :=
  (∀ (s : State) (p : Path) (d : Fin 2) (v : Nat) (u t : State), s.taking p (R.wan_ctl.pa d 0) → v < 2 ^ 32 → u = s.came p
    (R.wan_ctl.pa d 0) 4 → t = u.stored d R.wan_ctl v → exec (.wanCtlWrite p d v) s = .next (if bit (u.reg d R.wan_ctl) 0 = t.flag d
    F.wan_ctl_en then t else t.onWanCtl d)) ∧
  (∀ (s : State) (p : Path) (d : Fin 2) (v : Nat) (u t : State), s.taking p (R.wan_ip6_lo.pa d 0) → v < 2 ^ 64 → u = s.came p
    (R.wan_ip6_lo.pa d 0) 8 → t = u.stored d R.wan_ip6_lo v → exec (.wanIp6LoWrite p d v) s = .next (t.onIp6Lo d)) ∧
  (∀ (s : State) (p : Path) (d : Fin 2) (v : Nat) (u t : State), s.taking p (R.cip_ld.pa d 0) → v < 2 ^ 64 → u = s.came p
    (R.cip_ld.pa d 0) 8 → u.accepts d R.cip_ld (putBits v 63 1 1) → t = u.stored d R.cip_ld (putBits v 63 1 1) → exec
    (.pairSecretLoad p d v) s = .next (((t.stager d p).setFld d F.cip_ld_go 0).onLoad d)) ∧
  (∀ (s : State) (p : Path) (d : Fin 2) (n : Fin 64) (g : Fin 256) (u t : State), s.taking p (R.cip_pair_ctl.pa d n) → u = s.came p
    (R.cip_pair_ctl.pa d n) 4 → t = u.stored d R.cip_pair_ctl (2 ^ 31 + g.val * 2 ^ 8) n → exec (.pairRoll p d n g) s = .next
    (t.onPairRoll d n)) ∧
  (∀ (s : State) (p : Path) (d : Fin 2) (n : Fin 64) (g : Fin 256) (u t : State), s.taking p (R.cip_pair_ctl.pa d n) → u = s.came p
    (R.cip_pair_ctl.pa d n) 4 → t = u.stored d R.cip_pair_ctl (2 ^ 30 + g.val * 2 ^ 8) n → exec (.pairUse p d n g) s = .next
    (t.onPairUse d n)) ∧
  (∀ (s : State) (p : Path) (d : Fin 2) (n : Fin 64) (g : Fin 256) (u t : State), s.taking p (R.cip_pair_ctl.pa d n) → u = s.came p
    (R.cip_pair_ctl.pa d n) 4 → t = u.stored d R.cip_pair_ctl (2 ^ 29 + g.val * 2 ^ 8) n → exec (.pairDropold p d n g) s = .next
    (t.onPairDrop d n)) ∧
  (∀ (s : State) (p : Path) (d : Fin 2) (n : Fin 64) (v : Nat) (u t : State), s.taking p (R.cip_pair_sess.pa d n) → v < 2 ^ 32 → u =
    s.came p (R.cip_pair_sess.pa d n) 8 → t = u.stored d R.cip_pair_sess v n → exec (.pairElimWrite p d n v) s = .next (t.onPairElim
    d n))

/-- For every state and operands that meet the named conditions on the state and the operands alone, exec answers
the next state with the named effect: writes of time.step, time.ctl, ckp.cut, ckp.dray, ckp.rst, dbg.ctl,
dbg.tctl, pwr.rclk and pwr.ctl. A write row is served on every path that is taking accesses: the register
takes the value its field types give, and then the named action of that register happens. -/
def Obligations.SystemRegisterWrites : Prop :=
  (∀ (s : State) (p : Path) (v : Nat) (u t : State), s.taking p (R.time_step.pa 0 0) → v < 2 ^ 64 → u = s.came p (R.time_step.pa 0
    0) 8 → t = u.stored 0 R.time_step v → exec (.timeStep p v) s = .next (t.onTimeStep v)) ∧
  (∀ (s : State) (p : Path) (v : Nat) (u t : State), s.taking p (R.time_ctl.pa 0 0) → v < 2 ^ 32 → u = s.came p (R.time_ctl.pa 0 0)
    4 → u.accepts 0 R.time_ctl v → t = u.stored 0 R.time_ctl v → exec (.timeCtlWrite p v) s = .next (t.onTimeCtl)) ∧
  (∀ (s : State) (p : Path) (d : Fin 2) (v : Nat) (u t : State), s.taking p (R.ckp_cut.pa d 0) → v < 2 ^ 64 → u = s.came p
    (R.ckp_cut.pa d 0) 8 → t = u.stored d R.ckp_cut (putBits v 63 1 1) → exec (.ckpCut p d v) s = .next (t.onCkpCut d)) ∧
  (∀ (s : State) (p : Path) (d : Fin 2) (v : Nat) (u t : State), s.taking p (R.ckp_dray.pa d 0) → v < 2 ^ 32 → u = s.came p
    (R.ckp_dray.pa d 0) 4 → t = u.stored d R.ckp_dray (putBits v 31 1 1) → exec (.drainStart p d v) s = .next (t.onDray d)) ∧
  (∀ (s : State) (p : Path) (d : Fin 2) (v : Nat) (u t : State), s.taking p (R.ckp_rst.pa d 0) → v < 2 ^ 32 → u = s.came p
    (R.ckp_rst.pa d 0) 4 → t = u.stored d R.ckp_rst (putBits v 31 1 1) → exec (.restore p d v) s = .next (t.onRst d)) ∧
  (∀ (s : State) (p : Path) (u t : State), s.taking p (R.dbg_ctl.pa 0 0) → u = s.came p (R.dbg_ctl.pa 0 0) 4 → t = u.stored 0
    R.dbg_ctl 1 → exec (.dbgDisable p) s = .next t) ∧
  (∀ (s : State) (p : Path) (v : Nat) (u t : State), s.taking p (R.dbg_tctl.pa 0 0) → v < 2 ^ 32 → u = s.came p (R.dbg_tctl.pa 0 0)
    4 → u.accepts 0 R.dbg_tctl (putBits v 30 2 2) → t = u.stored 0 R.dbg_tctl (putBits v 30 2 2) → exec (.traceGo p v) s = .next
    (t.traceGo)) ∧
  (∀ (s : State) (p : Path) (v : Nat) (u t : State), s.taking p (R.dbg_tctl.pa 0 0) → v < 2 ^ 32 → u = s.came p (R.dbg_tctl.pa 0 0)
    4 → u.accepts 0 R.dbg_tctl (putBits v 30 2 1) → t = u.stored 0 R.dbg_tctl (putBits v 30 2 1) → exec (.traceStop p v) s = .next
    (t.traceStop)) ∧
  (∀ (s : State) (p : Path) (r : Fin 16) (n : Fin 64) (u t : State), s.taking p (R.pwr_rclk.pa 0 r) → u = s.came p (R.pwr_rclk.pa 0
    r) 4 → u.accepts 0 R.pwr_rclk n r → t = u.stored 0 R.pwr_rclk n r → exec (.dvfsRequest p r n) s = .next (t.onRclk r)) ∧
  (∀ (s : State) (p : Path) (v : Nat) (u t : State), s.taking p (R.pwr_ctl.pa 0 0) → v < 2 ^ 32 → u = s.came p (R.pwr_ctl.pa 0 0) 4
    → t = u.stored 0 R.pwr_ctl v → exec (.pwrCtlWrite p v) s = .next (t.onPwrCtl))

/-- A register write, read, counter read, first-record clear and BAR0 read on a path that is not shut, and that do not
wait (for a bridge in training, or in the host port behind a posted write), answer the next state with the write done
or the read data delivered and the host tallies counted, the count of a write at the word of pcie.tally_ovf after the
write; a host read behind a posted write that waits joins the accesses that wait; on a shut path (the part held in
reset, or the loader) the four register commands leave the state as it is. -/
def Obligations.RegisterAccessesComplete : Prop :=
  (∀ (s : State) (p : Path) (pa w v : Nat), s.shut p = false → s.pathHeld p pa = false → exec (.csrWrite p pa w v) s = .next
    (s.pathWritten p pa (w / 8) fun s => s.pathWrite p pa w (v % 2 ^ w))) ∧
  (∀ (s u : State) (p : Path) (pa w x : Nat), s.shut p = false → s.pathHeld p pa = false → s.pathRead p pa w = (x, u) → exec (.rcRead
    p pa w) s = .next ((u.emit (.readData p pa w x)).tally 0 R.pcie_t_inrd 0 (if p = .host then w / 8 else 0))) ∧
  (∀ (s u : State) (p : Path) (pa x : Nat), s.shut p = false → s.pathHeld p pa = false → s.pathRead p pa 32 = (x, u) → exec
    (.counterLowRead p pa) s = .next ((u.emit (.readData p pa 32 x)).tally 0 R.pcie_t_inrd 0 (if p = .host then 4 else 0))) ∧
  (∀ (s : State) (p : Path) (pa : Nat), s.shut p = false → s.pathHeld p pa = false → exec (.firstRecordClear p pa) s = .next
    (s.pathWritten p pa 8 fun s => s.pathWrite p pa 64 (2 ^ 63))) ∧
  (∀ (s u : State) (off len x : Nat), s.boot.hold = none → off < 0x4000000 → s.pathHeld .host (csrBase + off) = false → s.pathRead .host
    (csrBase + off) (8 * len) = (x, u) → exec (.bar0Read off len) s = .next ((u.emit (.readData .host (csrBase + off) (8 * len)
    x)).tally 0 R.pcie_t_inrd 0 len)) ∧
  (∀ (s u : State) (off len x : Nat), s.boot.hold = none → 0x4000000 ≤ off → off < 0x5000000 → s.pathHeld .host (rwBase + (off -
    0x4000000)) = false → s.pathRead .host (rwBase + (off - 0x4000000)) (8 * len) = (x, u) → exec (.bar0Read off len) s = .next
    ((u.emit (.readData .host (rwBase + (off - 0x4000000)) (8 * len) x)).tally 0 R.pcie_t_inrd 0 len)) ∧
  (∀ (s : State) (pa w : Nat), s.shut .host = false → s.behind .host = true → exec (.rcRead .host pa w) s = .next (s.hostQueue (.dev pa w
    none))) ∧
  (∀ (s : State) (c : Instr) (p : Path), s.shut p = true → (∃ pa w v, c = .csrWrite p pa w v) ∨ (∃ pa w, c = .rcRead p pa w) ∨ (∃
    pa, c = .counterLowRead p pa) ∨ (∃ pa, c = .firstRecordClear p pa) → exec c s = .next s)

/-- An access of a width other than 32 or 64 bits, a misaligned one, or one at no register reaches no register; on a
path that is served, where it does not wait (for a bridge in training, or behind a posted write), the write only raises event 0x9001 with the
address by the unit of the path, logged on die 0, and the read delivers zero and raises the same event. The units are
0x1A, 0x1B and 0x1C for the host port, the management bus and the debug port. The tallies of the host port count as
for any access. -/
def Obligations.MisshapedAccess : Prop :=
  (∀ pa w : Nat, (w ≠ 32 ∧ w ≠ 64) ∨ pa % (w / 8) ≠ 0 ∨ csrAt pa = none → csrTouch pa w = none) ∧
  (∀ (s : State) (p : Path) (pa w v : Nat), s.listening p → s.pathHeld p pa = false → csrTouch pa w = none → exec (.csrWrite p pa w v)
    s = .next (s.pathWritten p pa (w / 8) fun s => s.raise 0 p.unit 0x9001 pa)) ∧
  (∀ (s : State) (p : Path) (pa w : Nat), s.listening p → s.pathHeld p pa = false → csrTouch pa w = none → exec (.rcRead p pa w) s =
    .next (((s.raise 0 p.unit 0x9001 pa).emit (.readData p pa w 0)).tally 0 R.pcie_t_inrd 0 (if p = .host then w / 8 else 0))) ∧
  (Path.unit .host = 0x1A ∧ Path.unit .mgmt = 0x1B ∧ Path.unit .dbg = 0x1C)

/-- A write that reaches one register (whole, or a half of it), behind no posted write that waits and over no bridge in
training or down, and places a reserved encoding in a field of it answers the state after the access was heard with event 0x9002 raised by the unit
of the path with the address, logged on die 0, and no register outside the error log changes. -/
def Obligations.ReservedEncodingDiscardsWrite : Prop :=
  ∀ (s u : State) (p : Path) (pa w v : Nat) (a : CsrAt) (lo n : Nat), s.shut p = false → s.released = true ∨ (pa - csrBase) /
    0x100000 = 1 → s.pathOpen p pa = true → ovfWord pa = false → u = s.came p pa (w / 8) → isRepair pa = false ∨ (s.heard p (w /
    8)).unowned = false → csrTouch pa w = some [(a, lo, n)] → ¬ (a.spec.reg.kind = .mirror ∧ a.d = 1) → a.spec.reserved (u.reg a.d
    a.spec.reg a.i) (v % 2 ^ w % 2 ^ n * 2 ^ lo) ((2 ^ n - 1) * 2 ^ lo) = true → ∃ t, exec (.csrWrite p pa w v) s = .next t ∧
  t = u.raise 0 p.unit 0x9002 pa ∧
  ∀ (d : Nat) (r : Reg) (i : Nat), r.key d i ∉ logKeys 0 → r.key d i ∉ logKeys 1 → t.reg d r i = u.reg d r i

/-- No register answers at an offset of a package unit in the die 1 half; an access there that does not wait behind a
posted write of the host raises event 0x9001 with the address, a write doing nothing else and a read delivering
zero. -/
def Obligations.PackageUnitsInDieOneHalf : Prop :=
  (∀ u o : Nat, isPackageUnit u = true → o < 0x100000 → csrAt (csrBase + 0x2000000 + u * 0x100000 + o) = none) ∧
  (∀ (s : State) (p : Path) (u o w v : Nat), isPackageUnit u = true → o < 0x100000 → s.listening p → s.behind p = false → exec (.csrWrite p (csrBase +
    0x2000000 + u * 0x100000 + o) w v) s = .next ((s.heard p (w / 8)).raise 0 p.unit 0x9001 (csrBase + 0x2000000 + u * 0x100000 +
    o))) ∧
  (∀ (s : State) (p : Path) (u o w : Nat), isPackageUnit u = true → o < 0x100000 → s.listening p → s.behind p = false → exec (.rcRead p (csrBase +
    0x2000000 + u * 0x100000 + o) w) s = .next (((s.raise 0 p.unit 0x9001 (csrBase + 0x2000000 + u * 0x100000 + o)).emit (.readData
    p (csrBase + 0x2000000 + u * 0x100000 + o) w 0)).tally 0 R.pcie_t_inrd 0 (if p = .host then w / 8 else 0)))

/-- Before run release, with no access behind a posted write of the host that waits: a read of the top, boot or err units that a register answers, and that no bridge that is down
keeps from it, delivers its value; every other read delivers zero and raises nothing; a write outside the boot unit
changes nothing and raises nothing. That an unoccupied offset of a served unit still falls under the rule for
unoccupied offsets is a reading of the model (assumption 84). -/
def Obligations.AccessesBeforeRelease : Prop :=
  (∀ (s u : State) (p : Path) (pa w x : Nat) (l : List (CsrAt × Nat × Nat)), s.shut p = false → s.released = false → s.behind p = false → servedEarly pa
    = true → csrTouch pa w = some l → s.csrFar pa = false ∨ s.bridgeDown = false → (s.readCross pa).latchRead p pa w l = (x, u) →
    exec (.rcRead p pa w) s = .next ((u.emit (.readData p pa w x)).tally 0 R.pcie_t_inrd 0 (if p = .host then w / 8 else 0))) ∧
  (∀ (s : State) (p : Path) (pa w : Nat), s.shut p = false → s.released = false → s.behind p = false → servedEarly pa = false → exec (.rcRead p pa w) s =
    .next ((s.emit (.readData p pa w 0)).tally 0 R.pcie_t_inrd 0 (if p = .host then w / 8 else 0))) ∧
  (∀ (s : State) (p : Path) (pa w v : Nat), s.shut p = false → s.released = false → s.behind p = false → (pa - csrBase) / 0x100000 ≠ 1 → exec (.csrWrite
    p pa w v) s = .next (s.heard p (w / 8)))

/-- A 32-bit read of the low half of a counter puts the high half and its address into the latch of its path; a
32-bit read of the high half of that counter on that path delivers the latched value and leaves the latch; a
64-bit read leaves the latch; and setting the latch of one path leaves the latches of the others. -/
def Obligations.CounterLatch : Prop :=
  (∀ (s : State) (p : Path) (pa : Nat) (a : CsrAt), s.taking p pa → (isRepair pa = false) → csrTouch pa 32 = some [(a, 0, 32)] →
    a.spec.counter = true → ∃ t, exec (.counterLowRead p pa) s = .next t ∧ t.latch = s.latch.set p (some (pa, (s.readCross
    pa).partValue (a, 32, 32)))) ∧
  (∀ (s : State) (p : Path) (pa v : Nat) (a : CsrAt), s.taking p (pa + 4) → (isRepair (pa + 4) = false) → csrTouch (pa + 4) 32 =
    some [(a, 32, 32)] → a.spec.counter = true → s.latch.get p = some (pa, v) → ∃ t, exec (.rcRead p (pa + 4) 32) s = .next t ∧
    t.out = .readData p (pa + 4) 32 v :: s.out ∧ t.latch = s.latch) ∧
  (∀ (s t : State) (p : Path) (pa : Nat), exec (.rcRead p pa 64) s = .next t → t.latch = s.latch) ∧
  (∀ (s : State) (p q : Path) (v : Option (Nat × Nat)), q ≠ p → (s.latch.set p v).get q = s.latch.get q)

/-- A tally that does not pass 2^64 - 1 counts; one that passes it stays at 2^64 - 1, and raises the overflow event
of its unit with its register offset only where its overflow bit was clear, setting that bit. -/
def Obligations.TalliesSaturate : Prop :=
∀ (s : State) (d : Nat) (r : Reg) (i n : Nat),
    (s.reg d r i + n ≤ 2 ^ 64 - 1 → s.tally d r i n = s.setReg d r (s.reg d r i + n) i) ∧
    (∀ f code, 2 ^ 64 - 1 < s.reg d r i + n → tallyUnit r.unit = some (f, code) →
      bit ((s.setReg d r (2 ^ 64 - 1) i).fld d f) (tallyBit r i) = true → s.tally d r i n = s.setReg d r (2 ^ 64 - 1) i) ∧
    (∀ f code, 2 ^ 64 - 1 < s.reg d r i + n → tallyUnit r.unit = some (f, code) →
      bit ((s.setReg d r (2 ^ 64 - 1) i).fld d f) (tallyBit r i) = false →
      s.tally d r i n = ((s.setReg d r (2 ^ 64 - 1) i).orFld d f (2 ^ tallyBit r i)).raise d r.unit code (r.off + r.stride * i))

/-- A write that lies in stacked SRAM and touches no carved byte, with the bridge not down and nothing to wait for, stores each of its bytes at its
address and leaves every other byte of memory; one from outside that lies in the reserved area, and one that lies in
carved memory, leave every byte of memory as it was. -/
def Obligations.SramWriteStores : Prop :=
  (∀ (s u : State) (d : Fin 2) (pa : Nat) (data : List Byte) (poison : Bool) (e : EccList) (be : List Nat), data ≠ [] → isSram pa =
    true → isSram (pa + data.length - 1) = true → (∀ a, pa ≤ a → a < pa + data.length → s.isCarved a = false) → s.bridgeDown = false
    → u = s.bankWait pa be → u.memBlocked ⟨d, false, pa, data.length, some data, poison, e⟩ = false → ∃ t, exec (.memoryWrite d
    false pa data ⟨poison, e, be⟩) s = .next t ∧ (∀ a, pa ≤ a → a < pa + data.length → t.byte a = data.getD (a - pa) 0) ∧
    s.sameMemoryOutside t pa data.length) ∧
  (∀ (s : State) (d : Fin 2) (pa : Nat) (data : List Byte) (poison : Bool) (e : EccList) (be : List Nat), data ≠ [] → (∀ a, pa ≤ a →
    a < pa + data.length → isReserved a = true) → ∃ t, exec (.memoryWrite d true pa data ⟨poison, e, be⟩) s = .next t ∧ s.sameMemory t) ∧
  (∀ (s : State) (d : Fin 2) (o : Bool) (pa : Nat) (data : List Byte) (poison : Bool) (e : EccList) (be : List Nat), data ≠ [] → (∀
    a, pa ≤ a → a < pa + data.length → s.isCarved a = true) → ∃ t, exec (.memoryWrite d o pa data ⟨poison, e, be⟩) s = .next t ∧
    s.sameMemory t)

/-- While the brake is asserted the throttle of every region is the largest of the cap level, its thermal level and
pwr.brake.th and the filler stops; after its release it is the larger of the cap level and its thermal level;
the throttle registers show it. The time limits of the rule are not claimed: the model gives an event no
duration (assumption 1). -/
def Obligations.BrakeThrottlesEveryRegion : Prop :=
(∀ s : State, ∃ t, exec .brakeAssert s = .next t ∧ t.flag 0 F.pwr_stat_brake = true ∧ t.pwr = { s.pwr with phi := 0 } ∧
    (∀ r, t.theta r = max (max s.pwr.thetaCap (s.pwr.therm.getD r 0)) (s.fld 0 F.pwr_brake_th)) ∧
    (∀ r < 16, t.fld 0 F.pwr_rclk_theta r = t.theta r % 2 ^ F.pwr_rclk_theta.n)) ∧
  (∀ s : State, ∃ t, exec .brakeRelease s = .next t ∧ t.flag 0 F.pwr_stat_brake = false ∧ t.pwr = s.pwr ∧
    (∀ r, t.theta r = max s.pwr.thetaCap (s.pwr.therm.getD r 0)) ∧
    (∀ r < 16, t.fld 0 F.pwr_rclk_theta r = t.theta r % 2 ^ F.pwr_rclk_theta.n))

/-- ADD, SUB, MUL, AND, OR, SHL, SHR, MIN and MAX, decoded from a clean word while no trace is armed, leave every
byte of memory, every cluster, every other slot, every scalar register of the slot but the destination in bits
119:115 of the word (scalar register 0 reads zero whatever is written), its flags, descriptors and loops, and
every register but the word tally, its overflow field and the error log. -/
def Obligations.WordFrame : Prop :=
∀ (s t : State) (r : Fin 16) (k : Fin 4) (c : Instr) (o : Op) (w : Nat), s.fetched r k o w → sregClean w = true → s.dbg.armed = false →
    (c, o) ∈ [(Instr.add r k, Op.add), (.sub r k, .sub), (.mul r k, .mul), (.and r k, .and), (.or r k, .or), (.shl r k, .shl),
      (.shr r k, .shr), (.min r k, .min), (.max r k, .max)] → exec c s = .next t →
    s.sameMemory t ∧ t.clusters = s.clusters ∧ t.mem = s.mem ∧
    (∀ q l : Nat, (q, l) ≠ (r.val, k.val) → t.slot q l = s.slot q l) ∧
    (∀ n, n ≠ bits w 115 5 → (t.slot r k).sreg n = (s.slot r k).sreg n) ∧
    ((t.slot r k).sreg 0 = 0) ∧ (t.slot r k).flags = (s.slot r k).flags ∧ (t.slot r k).desc = (s.slot r k).desc ∧
    (t.slot r k).loops = (s.slot r k).loops ∧
    s.sameButLog { t with regions := s.regions } [R.dlr_t_word.key (dieOfRegion r) (r % 8), F.dlr_tally_ovf_ovf.reg.key (dieOfRegion r) 0]

/-- The equalisation and alignment events of a link leave every byte of memory, and of lnk.stat every field of the
link other than the state and the lanes. The end of equalisation leaves everything else of the state; the end of
alignment may also latch the expected peer and send this end's pair; a timeout on a link that nothing waits for may
also make the link's buffers fresh. -/
def Obligations.LinkTrainingFrame : Prop :=
  (∀ (s t : State) (d : Fin 2) (i : Fin 18), exec (.linkEqDone d i) s = .next t → s.sameMemory t ∧ s.sameBut t [R.lnk_stat.key d i]
    ∧ s.sameLnkStat t d i) ∧
  (∀ (s t : State) (d : Fin 2) (i : Fin 18), exec (.linkAlignDone d i) s = .next t → s.sameMemory t ∧ s.sameBut
    { t with fab := s.fab, out := s.out } [R.lnk_stat.key d i] ∧ s.sameLnkStat t d i ∧ ((t.fab = s.fab ∧ t.out = s.out) ∨ ∃ p, t.fab
    = (s.updLk d i fun l => { l with atPeer := p, peer := s.reg d R.lnk_peer i }).fab ∧ t.out = .peer d i (s.ownNode d) :: s.out)) ∧
  (∀ (s t : State) (d : Fin 2) (i : Fin 18) (c : Instr), c ∈ [Instr.linkEqTimeout d i, .linkAlignTimeout d i] → s.linkIdle d i →
    exec c s = .next t → s.sameMemory t ∧ s.sameBut { t with fab := s.fab } [R.lnk_stat.key d i] ∧ s.sameLnkStat t d i ∧ (t.fab =
    s.fab ∨ t.fab = (s.updLk d i fun _ => Lk.fresh).fab))

/-- A sensor refresh shows the current power and its source in telemetry, a power sample shows the sample, a
regulator poll keeps both status words, a thermal step moves the thermal level of each region whose
temperature it carries, a coolant reading sets pwr.coolst and the bad-reading flag of a temperature outside
its range, and an engine time report sends at most 128 records with non-zero times. -/
def Obligations.PeriodicReadingsComplete : Prop :=
(∀ (s : State) (l : List (Nat × Nat)), s.boot.hold = none →
    ∃ t, exec (.sensorRefresh l) s = .next t ∧ t.fld 0 F.tele_ppkg_p = s.fld 0 F.pwr_stat_p % 2 ^ F.tele_ppkg_p.n ∧
      t.fld 0 F.tele_ppkg_src = s.fld 0 F.pwr_stat_src % 2 ^ F.tele_ppkg_src.n ∧ (s.sameMemory t)) ∧
  (∀ (s : State) (est : Nat), ∃ t, exec (.powerSample est) s = .next t ∧
    t.fld 0 F.pwr_stat_p = (s.takeSource est).2.1 % 2 ^ F.pwr_stat_p.n ∧ t.fld 0 F.pwr_stat_src = b2n (s.takeSource est).2.2) ∧
  (∀ (s : State) (a b : Fin 65536), ∃ t, exec (.pmbusStatusPoll a b) s = .next t ∧ assocGet 0 t.pwr.faults = some a.val ∧
    assocGet 1 t.pwr.faults = some b.val) ∧
  (∀ (s : State) (l : List Int), ∃ t, exec (.thermalStep l) s = .next t ∧ t.pwr.temps = l.take 32 ∧
    ∀ (r : Nat) (x : Int), r < 16 → l[r]? = some x →
      t.pwr.therm.getD r 0 = thermStep (s.fld 0 F.pwr_therm_thr) x (s.pwr.therm.getD r 0)) ∧
  (∀ (s : State) (x : Int) (n : Nat), ∃ t, exec (.coolantRead x n) s = .next t ∧
    t.reg 0 R.pwr_coolst = wrap 16 x * 2 ^ 16 + min 0xFFFF (n * 6000 / s.fld 0 F.pwr_cool_kfac) ∧
    (s.flag 0 F.pwr_ctl_cool = true → x < 120 ∨ 320 < x → t.flag 0 F.pwr_stat_cool_bad = true)) ∧
  (∀ (s : State) (d : Fin 2), ∃ t recs, exec (.engineTimeReportSend d) s = .next t ∧
    t.asy.reports = s.asy.reports ++ [(d.val, if d.val = 0 then s.asy.reportSeq0 else s.asy.reportSeq1, recs)] ∧ recs.length ≤ 128 ∧
    ∀ q ∈ recs, 0 < q.2 ∧ q.2 < 2 ^ 20)

/-- RECOVERY_LOAD and RELOAD with the key 0x524C start the recovery load and the reset with cause 3, and with
another key are refused with reason 0x30; SVN_RAISE and KEK_BURN give the key to the unit's own check. -/
def Obligations.BootWritesComplete : Prop :=
(∀ (s : State) (p : Path) (key : Fin 65536), s.shut p = false → key ≠ 0x524C →
    exec (.recoveryLoad p key) s = .next ((s.heard p 4).bootRefused 0x30 0)) ∧
  (∀ (s : State) (p : Path), s.shut p = false → exec (.recoveryLoad p 0x524C) s = .next (s.heard p 4).onRload) ∧
  (∀ (s : State) (p : Path) (key : Fin 65536), s.shut p = false → key ≠ 0x524C →
    exec (.reload p key) s = .next ((s.heard p 4).bootRefused 0x30 0)) ∧
  (∀ (s : State) (p : Path), s.shut p = false → exec (.reload p 0x524C) s = .next ((s.heard p 4).deviceReset 3 0)) ∧
  (∀ (s : State) (p : Path) (key : Fin 65536), s.shut p = false → exec (.svnRaise p key) s = .next ((s.heard p 4).onSvnup key)) ∧
  (∀ (s : State) (p : Path) (key : Fin 65536), s.shut p = false →
    exec (.kekBurn p key) s = .next ((s.heard p 4).onKekctl (p = .host) key))

/-- The counter block of an element holds its group n >> 3, its purpose, its step and its stream, and its 16 bits
are the low half (n even) or the high half (n odd) of output word (n mod 8) >> 1 of the evaluation of that
block. -/
def Obligations.RandomBitsOfElements : Prop :=
∀ (seed stream step : Nat) (u : Purpose) (n : Nat),
    bits (philoxCtr stream step u n) 0 45 = (n >>> 3) % 2 ^ 45 ∧ bits (philoxCtr stream step u n) 45 3 = u.code ∧
    bits (philoxCtr stream step u n) 48 48 = step % 2 ^ 48 ∧ bits (philoxCtr stream step u n) 96 32 = stream % 2 ^ 32 ∧
    (n % 8 % 2 = 0 → randBits seed stream step u n = bits (philox seed (philoxCtr stream step u n) ((n % 8) >>> 1)) 0 16) ∧
    (n % 8 % 2 = 1 → randBits seed stream step u n = bits (philox seed (philoxCtr stream step u n) ((n % 8) >>> 1)) 16 16)

/-- Bit a of the row mask of a dealt Hand is 1 exactly when a is below the tile size of dimension 1, the coordinate
times that size plus a is below the valid extent of the dimension, and bit a of the row predicate is 1 (all
ones for predicate 0); the column mask is the same over dimension 0; a word whose msk bit is 1 uses these
masks. -/
def Obligations.HandMasks : Prop :=
(∀ (s : State) (r k : Nat) (x : Slot) (h : OpenHand) (ws : List HandWord) (y : Desc) (a : Nat), a < 32 →
    assocGet (bits h.w 92 4) x.desc = some y →
    (bit (s.dealtHand r k x h true ws).rmask a = true ↔
      a < dim y.tsz 1 ∧ y.coord x 1 * dim y.tsz 1 + a < y.extent x 1 ∧
        bit (if bits h.w 109 5 = 0 then 2 ^ 32 - 1 else x.sreg (bits h.w 109 5) % 2 ^ 32) a = true) ∧
    (bit (s.dealtHand r k x h true ws).cmask a = true ↔
      a < dim y.tsz 0 ∧ y.coord x 0 * dim y.tsz 0 + a < y.extent x 0 ∧
        bit (if bits h.w 104 5 = 0 then 2 ^ 32 - 1 else x.sreg (bits h.w 104 5) % 2 ^ 32) a = true)) ∧
  ∀ (h : Hand) (w : Nat), (bit w 109 = true → isThin w = false → h.rowMask w = h.rmask) ∧ (bit w 109 = true → h.colMask w = h.cmask)

/-- A write of dlr.kill for a running slot completes its item with code 0x400B: the slot is completing, waits for
nothing, decodes nothing and has no open Hand, and its code is 0x400B unless it already had one; aimed at an
idle slot it has no effect beyond the register access. -/
def Obligations.KillEndsItem : Prop :=
  (∀ (s u : State) (p : Path) (d : Fin 2) (v : Nat), s.taking p (R.dlr_kill.pa d 0) → v < 2 ^ 32 → u = (s.came p (R.dlr_kill.pa d 0)
    4).stored d R.dlr_kill v → (u.slot (8 * d + bits v 2 3) (v % 4)).st = .running → ∃ t, exec (.kill p d v) s = .next t ∧ t =
    u.itemFault (8 * d + bits v 2 3) (v % 4) (u.slot (8 * d + bits v 2 3) (v % 4)).pc ⟨0x400B, v % 4⟩ ∧ (t.slot (8 * d + bits v 2 3)
    (v % 4)).st = .completing ∧ (t.slot (8 * d + bits v 2 3) (v % 4)).wait = .none ∧ (t.slot (8 * d + bits v 2 3) (v % 4)).hand =
    none ∧ ((u.slot (8 * d + bits v 2 3) (v % 4)).code = 0 → (t.slot (8 * d + bits v 2 3) (v % 4)).code = 0x400B)) ∧
  (∀ (s u : State) (p : Path) (d : Fin 2) (v : Nat), s.taking p (R.dlr_kill.pa d 0) → v < 2 ^ 32 → u = (s.came p (R.dlr_kill.pa d 0)
    4).stored d R.dlr_kill v → (u.slot (8 * d + bits v 2 3) (v % 4)).st = .idle → exec (.kill p d v) s = .next u)

/-- An access in no enabled window of hcache.hw has no hint; otherwise the window with the lowest number gives KEEP,
STREAM or LAST, and LAST on a coherent address acts as STREAM. -/
def Obligations.HintOfWindow : Prop :=
∀ (s : State) (d a : Nat) (inWindow : Nat → Prop),
    (∀ n, inWindow n ↔ s.flag d F.hcache_hw_en n = true ∧ s.fld d F.hcache_hw_base n * 0x200000 ≤ a % 2 ^ 39 ∧
      a % 2 ^ 39 < (s.fld d F.hcache_hw_base n + s.fld d F.hcache_hw_size n + 1) * 0x200000) →
    ((∀ n < 16, ¬ inWindow n) → s.hintOf d a = .none) ∧
    ∀ n < 16, inWindow n → (∀ m < n, ¬ inWindow m) →
      (s.fld d F.hcache_hw_hint n = 0 → s.hintOf d a = .keep) ∧ (s.fld d F.hcache_hw_hint n = 1 → s.hintOf d a = .stream) ∧
      (s.fld d F.hcache_hw_hint n = 2 → s.hintOf d a = if s.coherent a then .stream else .last)

/-- When the timeout of a step expires, and col.tmo was not 0 when the step started, the collective faults with code
0x2014 and names the source it waits for, or else the destination whose SACK is missing; where it was 0 for each of
them nothing happens. The time itself is the event: the model gives it no duration (assumption 1). -/
def Obligations.StepTimeout : Prop :=
  ∀ (s : State) (d : Fin 2) (rt : Fin 256) (step : Nat) (c : Coll), s.coll d rt = some c → ((∀ x ∈ c.recvs, x.step = step → x.done =
    false → x.tmo = 0) → (∀ x ∈ c.sends, x.step = step → x.begun = true → x.acked = false → x.tmo = 0) → exec (.stepTimeout d rt
    step) s = .next s) ∧
  (∀ x, (c.recvs.find? fun x => x.step = step && !x.done && x.tmo ≠ 0) = some x → exec (.stepTimeout d rt step) s = .next
    (s.collFault d rt 0x2014 x.src)) ∧
  ((∀ x ∈ c.recvs, x.step = step → x.done = false → x.tmo = 0) → ∀ x, (c.sends.find? fun x => x.step = step && x.begun && !x.acked
    && x.tmo ≠ 0) = some x → exec (.stepTimeout d rt step) s = .next (s.collFault d rt 0x2014 x.dst))

/-- Of a share of count blocks from first, die 0 has the first ⌈count / 2⌉ and die 1 the remaining ones: the two
halves count to the share, and every block of the share lies in exactly one of them. -/
def Obligations.BlocksOfHalves : Prop :=
∀ (x : MeldSlot) (n first count : Nat), x.share n = (first, count) →
    x.half n 0 = (first, (count + 1) / 2) ∧ x.half n 1 = (first + (count + 1) / 2, count - (count + 1) / 2) ∧
    (x.half n 0).2 + (x.half n 1).2 = count ∧
    ∀ b, first ≤ b → b < first + count →
      ((x.half n 0).1 ≤ b ∧ b < (x.half n 0).1 + (x.half n 0).2 ↔ ¬ ((x.half n 1).1 ≤ b ∧ b < (x.half n 1).1 + (x.half n 1).2))

/-- In every floating format a NaN converts to the canonical NaN, which is a NaN; in FP32, BF16, FP16 and E5M2 an
infinity converts to the infinity of its sign; in E4M3 it becomes the canonical NaN; saturation and rounding
do not matter. A NaN converts to 0 in INT8 and an infinity to the end of its range. -/
def Obligations.NonFiniteConversions : Prop :=
∀ (ns b : Bool) (rnd : Rnd),
    (∀ f ∈ [Fmt.fp32, .bf16, .fp16, .e4m3, .e5m2], f.encodeFloat ns rnd .nan = ⟨f.canonNan, false⟩ ∧ f.decode f.canonNan = .nan) ∧
    (∀ f ∈ [Fmt.fp32, .bf16, .fp16, .e5m2], f.decode (f.encodeFloat ns rnd (.inf b)).w = .inf b ∧ (f.encodeFloat ns rnd (.inf b)).ovf = false) ∧
    Fmt.e4m3.encodeFloat ns rnd (.inf b) = ⟨Fmt.e4m3.canonNan, false⟩ ∧
    encodeInt8 rnd .nan = ⟨0, false⟩ ∧ encodeInt8 rnd (.inf b) = ⟨if b then 0x80 else 0x7F, false⟩

/-- For every floating format, every finite bit pattern decodes to a value that encodes back to that same bit
pattern with no overflow, whatever the saturation and the rounding. -/
def Obligations.ExactValuesNeverChange : Prop :=
∀ (f : Fmt) (ns : Bool) (rnd : Rnd) (w : Nat), f.isInt = false → w < 2 ^ f.ebits → (f.decode w).isFin = true →
    f.encodeFloat ns rnd (f.decode w) = ⟨w, false⟩

/-- In every register of every unit the fields lie inside the register and do not overlap; for any such fields, a
write changes a bit of a RW field to the bit written where the access covers it, leaves bits of RO, RC and WO
fields and bits of no field, clears a W1C bit and sets a W1S bit where a covered 1 is written. -/
def Obligations.AccessTypes : Prop :=
(∀ u < 0x40, ∀ q ∈ unitRegs u, (q.flds.Pairwise fun f g => f.fld.lo + f.fld.n ≤ g.fld.lo ∨ g.fld.lo + g.fld.n ≤ f.fld.lo) ∧
    ∀ f ∈ q.flds, f.fld.lo + f.fld.n ≤ q.reg.w) ∧
  ∀ (q : RegSpec) (old v m j : Nat), (q.flds.Pairwise fun f g => f.fld.lo + f.fld.n ≤ g.fld.lo ∨ g.fld.lo + g.fld.n ≤ f.fld.lo) →
    ((∀ f ∈ q.flds, ¬ (f.fld.lo ≤ j ∧ j < f.fld.lo + f.fld.n)) → (q.next old v m).testBit j = old.testBit j) ∧
    ∀ f ∈ q.flds, f.fld.lo ≤ j → j < f.fld.lo + f.fld.n →
      (f.acc = .rw → (q.next old v m).testBit j = if m.testBit j then v.testBit j else old.testBit j) ∧
      (f.acc = .ro ∨ f.acc = .rc ∨ f.acc = .wo → (q.next old v m).testBit j = old.testBit j) ∧
      (f.acc = .w1c → (q.next old v m).testBit j = (old.testBit j && !(v.testBit j && m.testBit j))) ∧
      (f.acc = .w1s → (q.next old v m).testBit j = (old.testBit j || (v.testBit j && m.testBit j)))

/-- With the log of the die open, a die unit's event is put at the end of the intake FIFO of its die with its code,
detail, time stamp, source, context and a repetition count of 1, and a package unit's event goes to die 0;
with the log off, the lost count rises by one, up to its maximum, the lost flag is set and the FIFO stays. -/
def Obligations.LogIntake : Prop :=
(∀ (s : State) (d u code det : Nat) (i : EvInfo), d < 2 → isPackageUnit u = false → s.logOpen d →
    ∃ e, ((s.raise d u code det i).err.get d).fifo = (s.err.get d).fifo ++ [e] ∧ e.code = code ∧ e.detail = det % 2 ^ 64 ∧ e.ts = s.tai ∧
      e.source = eventSource d u i.region i.cluster ∧ e.rep = 1 ∧ e.ctx = i.ctx) ∧
  (∀ (s : State) (d u code det : Nat) (i : EvInfo), isPackageUnit u = true → s.logOpen 0 →
    ∃ e, ((s.raise d u code det i).err.get 0).fifo = (s.err.get 0).fifo ++ [e] ∧ e.code = code ∧ e.detail = det % 2 ^ 64) ∧
  (∀ (s : State) (d u code det : Nat) (i : EvInfo), d < 2 → isPackageUnit u = false → s.flag d F.err_ctl_en = false →
    s.flag 0 F.dbg_tctl_busy = false →
    (s.raise d u code det i).fld d F.err_lost_count = min (2 ^ 32 - 1) (s.fld d F.err_lost_count + 1) ∧
      (s.raise d u code det i).flag d F.err_stat_lost = true ∧ ((s.raise d u code det i).err.get d).fifo = (s.err.get d).fifo)
end

