-- ==== Sys2Proof/Laws/Bits.lean ====
section
/-! SUPPORT. Laws of bit fields, byte lists and association lists. -/

namespace Sys2Proof.Machine

/-- A field is smaller than its top. -/
theorem bits_lt (w lo n : Nat) : bits w lo n < 2 ^ n := Nat.mod_lt _ (Nat.two_pow_pos n)

@[simp] theorem bits_zero (lo n : Nat) : bits 0 lo n = 0 := by simp [bits]

/-- Bit `j` of a number with a field replaced. -/
theorem testBit_putBits (w lo n v j : Nat) :
    (putBits w lo n v).testBit j = if lo ≤ j ∧ j < lo + n then v.testBit (j - lo) else w.testBit j := by
  have e : putBits w lo n v = 2 ^ (lo + n) * (w >>> (lo + n)) + (2 ^ lo * (v % 2 ^ n) + w % 2 ^ lo) := by
    simp only [putBits, Nat.shiftLeft_eq]; ring
  have h1 : w % 2 ^ lo < 2 ^ lo := Nat.mod_lt _ (Nat.two_pow_pos lo)
  have h2 : v % 2 ^ n < 2 ^ n := Nat.mod_lt _ (Nat.two_pow_pos n)
  have h3 : 2 ^ lo * (v % 2 ^ n) + w % 2 ^ lo < 2 ^ (lo + n) := by
    rw [Nat.pow_add]; nlinarith [Nat.two_pow_pos lo]
  rw [e, Nat.testBit_two_pow_mul_add _ h3, Nat.testBit_two_pow_mul_add _ h1]
  simp only [Nat.testBit_mod_two_pow, Nat.testBit_shiftRight]
  split
  · next h =>
    split
    · simp_all
    · next h' =>
      have : lo ≤ j ∧ j < lo + n := by omega
      have : j - lo < n := by omega
      simp_all
  · next h =>
    have : ¬ (lo ≤ j ∧ j < lo + n) := by omega
    simp only [this, if_false]
    congr 1; omega

/-- Bit `j` of a field. -/
theorem testBit_bits (w lo n j : Nat) : (bits w lo n).testBit j = (decide (j < n) && w.testBit (lo + j)) := by
  simp [bits, Nat.testBit_mod_two_pow, Nat.testBit_shiftRight]

/-- A field just written reads as the low bits of what was written. -/
@[simp] theorem bits_putBits_same (w lo n v : Nat) : bits (putBits w lo n v) lo n = v % 2 ^ n := by
  apply Nat.eq_of_testBit_eq; intro j
  simp only [testBit_bits, testBit_putBits, Nat.testBit_mod_two_pow]
  by_cases h : j < n <;> simp [h]

/-- A field apart from the one written reads as before. -/
theorem bits_putBits_apart (w lo n v lo' n' : Nat) (h : lo' + n' ≤ lo ∨ lo + n ≤ lo') :
    bits (putBits w lo n v) lo' n' = bits w lo' n' := by
  apply Nat.eq_of_testBit_eq; intro j
  simp only [testBit_bits, testBit_putBits]
  by_cases hj : j < n'
  · have : ¬ (lo ≤ lo' + j ∧ lo' + j < lo + n) := by omega
    simp [hj, this]
  · simp [hj]

/-- A field within the low `w` bits is not touched by a reduction to them. -/
theorem bits_mod (v w lo n : Nat) (h : lo + n ≤ w) : bits (v % 2 ^ w) lo n = bits v lo n := by
  apply Nat.eq_of_testBit_eq; intro j
  simp only [testBit_bits, Nat.testBit_mod_two_pow]
  by_cases hj : j < n
  · simp [hj, show lo + j < w by omega]
  · simp [hj]

/-- What an association list holds after a filter on keys. -/
theorem assocGet_filter {α : Type} (p : Nat → Bool) (k : Nat) (l : List (Nat × α)) :
    assocGet k (l.filter fun e => p e.1) = if p k then assocGet k l else none := by
  induction l with
  | nil => simp [assocGet]
  | cons x r ih =>
    by_cases hx : p x.1 <;> simp only [List.filter_cons, hx, if_true, assocGet, ih] <;> by_cases hk : x.1 = k <;> simp_all

/-- What two association lists in a row hold. -/
theorem assocGet_append {α : Type} (k : Nat) (l r : List (Nat × α)) :
    assocGet k (l ++ r) = (assocGet k l).or (assocGet k r) := by
  induction l with
  | nil => simp [assocGet]
  | cons x l ih => by_cases hk : x.1 = k <;> simp [assocGet, hk, ih]

/-- Nothing is changed in the elements of a list but one. -/
theorem listMod_getD {α : Type} (l : List α) (i j : Nat) (f : α → α) (x : α) (h : i < l.length) :
    (listMod l i f).getD j x = if j = i then f (l.getD i x) else l.getD j x := by
  induction l generalizing i j with
  | nil => simp at h
  | cons a l ih =>
    cases i with
    | zero => cases j <;> simp [listMod]
    | succ i =>
      cases j with
      | zero => simp [listMod]
      | succ j => simpa [listMod] using ih i j (by simpa using h)

@[simp] theorem listMod_length {α : Type} (l : List α) (i : Nat) (f : α → α) : (listMod l i f).length = l.length := by
  induction l generalizing i with
  | nil => rfl
  | cons a l ih => cases i <;> simp [listMod, ih]

@[simp] theorem leBytes_length (n v : Nat) : (leBytes n v).length = n := by
  induction n generalizing v with
  | zero => rfl
  | succ n ih => simp [leBytes, ih]

end Sys2Proof.Machine
end

