-- ==== Sys2Proof/Laws/Regs.lean ====
section
/-! SUPPORT. Laws of the register store: a register written reads as its new value, and every other as before. -/

namespace Sys2Proof.Machine

/-- What the store holds after a write. -/
theorem assocGet_csrPut (j k v rst : Nat) (l : List (Nat × Word64)) :
    assocGet j (csrPut k v rst l) = if j = k then (if v = rst then none else some (BitVec.ofNat 64 v)) else assocGet j l := by
  rw [csrPut, assocGet_append, assocGet_append, assocGet_filter (fun x => decide (x < k)), assocGet_filter (fun x => decide (k < x))]
  rcases Nat.lt_trichotomy j k with h | h | h
  · have h2 : ¬ k < j := by omega
    have h3 : j ≠ k := by omega
    by_cases hv : v = rst <;> cases assocGet j l <;> simp [h, h2, h3, hv, assocGet, Ne.symm h3]
  · subst h
    by_cases hv : v = rst <;> simp [hv, assocGet]
  · have h2 : ¬ j < k := by omega
    have h3 : j ≠ k := by omega
    by_cases hv : v = rst <;> cases assocGet j l <;> simp [h, h2, h3, hv, assocGet, Ne.symm h3]

/-- A register written reads as the bits of the value that it holds. -/
theorem reg_setReg (s : State) (d : Nat) (r : Reg) (v i : Nat) (h : r.w ≤ 64) : (s.setReg d r v i).reg d r i = v % 2 ^ r.w := by
  have hv : v % 2 ^ r.w < 2 ^ 64 := lt_of_lt_of_le (Nat.mod_lt _ (Nat.two_pow_pos _)) (Nat.pow_le_pow_right (by decide) h)
  simp only [State.reg, State.setReg, assocGet_csrPut]
  by_cases e : v % 2 ^ r.w = r.reset
  · simp [e]
  · simp only [e, if_false, if_true]
    rw [BitVec.toNat_ofNat, Nat.mod_eq_of_lt hv]

/-- A register with another key reads as before. -/
theorem reg_setReg_apart (s : State) (d : Nat) (r : Reg) (v i d' : Nat) (r' : Reg) (i' : Nat) (h : r'.key d' i' ≠ r.key d i) :
    (s.setReg d r v i).reg d' r' i' = s.reg d' r' i' := by
  simp [State.reg, State.setReg, assocGet_csrPut, h]

/-- A field written reads as the low bits of what was written. -/
theorem fld_setFld (s : State) (d : Nat) (f : Fld) (v i : Nat) (h : f.lo + f.n ≤ f.reg.w) (w : f.reg.w ≤ 64) :
    (s.setFld d f v i).fld d f i = v % 2 ^ f.n := by
  simp only [State.fld, State.setFld, reg_setReg _ _ _ _ _ w, bits_mod _ _ _ _ h, bits_putBits_same]

/-- A field of another register reads as before. -/
theorem fld_setFld_apart (s : State) (d : Nat) (f : Fld) (v i d' : Nat) (g : Fld) (i' : Nat)
    (h : g.reg.key d' i' ≠ f.reg.key d i) : (s.setFld d f v i).fld d' g i' = s.fld d' g i' := by
  simp only [State.fld, State.setFld, reg_setReg_apart _ _ _ _ _ _ _ _ h]

/-- A field of the same register apart from the one written reads as before. -/
theorem fld_setFld_beside (s : State) (d : Nat) (f : Fld) (v i : Nat) (g : Fld) (e : g.reg = f.reg)
    (h : g.lo + g.n ≤ f.lo ∨ f.lo + f.n ≤ g.lo) (hg : g.lo + g.n ≤ f.reg.w) (w : f.reg.w ≤ 64) :
    (s.setFld d f v i).fld d g i = s.fld d g i := by
  simp only [State.fld, State.setFld, e, reg_setReg _ _ _ _ _ w, bits_mod _ _ _ _ hg, bits_putBits_apart _ _ _ _ _ _ h]

/-- A field of a register written whole. -/
theorem fld_setReg (s : State) (d : Nat) (r : Reg) (v i : Nat) (g : Fld) (e : g.reg = r) (hg : g.lo + g.n ≤ r.w) (w : r.w ≤ 64) :
    (s.setReg d r v i).fld d g i = bits v g.lo g.n := by
  simp only [State.fld, e, reg_setReg _ _ _ _ _ w, bits_mod _ _ _ _ hg]

theorem fld_setReg_apart (s : State) (d : Nat) (r : Reg) (v i d' : Nat) (g : Fld) (i' : Nat) (h : g.reg.key d' i' ≠ r.key d i) :
    (s.setReg d r v i).fld d' g i' = s.fld d' g i' := by
  simp only [State.fld, reg_setReg_apart _ _ _ _ _ _ _ _ h]

theorem reg_setFld_apart (s : State) (d : Nat) (f : Fld) (v i d' : Nat) (r : Reg) (i' : Nat) (h : r.key d' i' ≠ f.reg.key d i) :
    (s.setFld d f v i).reg d' r i' = s.reg d' r i' := reg_setReg_apart _ _ _ _ _ _ _ _ h

/-- A write keeps the register store canonical. -/
theorem csrPut_wf (k v rst : Nat) (l : List (Nat × Word64)) (h : CsrStore.wf l) : CsrStore.wf (csrPut k v rst l) := by
  unfold csrPut
  refine List.pairwise_append.2 ⟨h.filter _, List.pairwise_append.2 ⟨?_, h.filter _, ?_⟩, ?_⟩
  · by_cases e : v = rst <;> simp [e]
  · intro a ha b hb
    by_cases e : v = rst
    · simp [e] at ha
    · simp only [e, if_false, List.mem_singleton] at ha
      subst ha; simpa using (List.mem_filter.1 hb).2
  · intro a ha b hb
    have ha2 : a.1 < k := by simpa using (List.mem_filter.1 ha).2
    rcases List.mem_append.1 hb with hb | hb
    · by_cases e : v = rst
      · simp [e] at hb
      · simp only [e, if_false, List.mem_singleton] at hb
        subst hb; exact ha2
    · have hb2 : k < b.1 := by simpa using (List.mem_filter.1 hb).2
      omega

end Sys2Proof.Machine
end

