-- ==== Sys2Proof/Laws/Frames.lean ====
section
/-! SUPPORT. Frame laws: what writing registers, raising events and counting leave as it was. -/

namespace Sys2Proof.Machine

/-! ## The frame relation -/

theorem sameButLog_refl (s : State) (ks : List Nat) : s.sameButLog s ks := ⟨rfl, fun _ _ _ _ => rfl⟩

theorem sameButLog_trans {s t u : State} {ks : List Nat} (h : s.sameButLog t ks) (g : t.sameButLog u ks) : s.sameButLog u ks := by
  refine ⟨?_, fun k h1 h2 h3 => (g.2 k h1 h2 h3).trans (h.2 k h1 h2 h3)⟩
  rw [g.1]; conv_lhs => rw [h.1]

theorem sameButLog_mono {s t : State} {ks js : List Nat} (h : s.sameButLog t ks) (e : ∀ k ∈ ks, k ∈ js) : s.sameButLog t js :=
  ⟨h.1, fun k h1 => h.2 k fun hk => h1 (e k hk)⟩

/-- A register outside the frame's keys and the log's reads as before. -/
theorem sameButLog_reg {s t : State} {ks : List Nat} (h : s.sameButLog t ks) (d : Nat) (r : Reg) (i : Nat) (h1 : r.key d i ∉ ks)
    (h2 : r.key d i ∉ logKeys 0) (h3 : r.key d i ∉ logKeys 1) : t.reg d r i = s.reg d r i := by
  simp only [State.reg, h.2 _ h1 h2 h3]

theorem setReg_sameButLog (s : State) (d : Nat) (r : Reg) (v i : Nat) (ks : List Nat)
    (h : r.key d i ∈ ks ∨ r.key d i ∈ logKeys 0 ∨ r.key d i ∈ logKeys 1) : s.sameButLog (s.setReg d r v i) ks := by
  refine ⟨rfl, fun k h1 h2 h3 => ?_⟩
  have : k ≠ r.key d i := by rintro rfl; tauto
  simp only [State.setReg, assocGet_csrPut, this, if_false]

theorem setFld_sameButLog (s : State) (d : Nat) (f : Fld) (v i : Nat) (ks : List Nat)
    (h : f.reg.key d i ∈ ks ∨ f.reg.key d i ∈ logKeys 0 ∨ f.reg.key d i ∈ logKeys 1) : s.sameButLog (s.setFld d f v i) ks :=
  setReg_sameButLog _ _ _ _ _ _ h

theorem orFld_sameButLog (s : State) (d : Nat) (f : Fld) (v i : Nat) (ks : List Nat)
    (h : f.reg.key d i ∈ ks ∨ f.reg.key d i ∈ logKeys 0 ∨ f.reg.key d i ∈ logKeys 1) : s.sameButLog (s.orFld d f v i) ks :=
  setReg_sameButLog _ _ _ _ _ _ h

theorem count32_sameButLog (s : State) (d : Nat) (f : Fld) (n i : Nat) (ks : List Nat)
    (h : f.reg.key d i ∈ ks ∨ f.reg.key d i ∈ logKeys 0 ∨ f.reg.key d i ∈ logKeys 1) : s.sameButLog (s.count32 d f n i) ks :=
  setReg_sameButLog _ _ _ _ _ _ h

theorem recordFirst_sameButLog (s : State) (d : Nat) (f : Fld) (v i : Nat) (ks : List Nat)
    (h : f.reg.key d i ∈ ks ∨ f.reg.key d i ∈ logKeys 0 ∨ f.reg.key d i ∈ logKeys 1) : s.sameButLog (s.recordFirst d f v i) ks := by
  unfold State.recordFirst
  split
  · exact sameButLog_refl _ _
  · exact setReg_sameButLog _ _ _ _ _ _ h

theorem log_sameButLog (s : State) (e : PerDie ErrDie) (b : DbgState) (ks : List Nat) : s.sameButLog { s with err := e, dbg := b } ks :=
  ⟨rfl, fun _ _ _ _ => rfl⟩

/-! ## Events -/

theorem loseEvent_sameButLog (s : State) (d : Nat) (ks : List Nat) (hd : d < 2) : s.sameButLog (s.loseEvent d) ks := by
  unfold State.loseEvent
  refine sameButLog_trans (sameButLog_trans (count32_sameButLog _ _ _ _ _ _ ?_) (setFld_sameButLog _ _ _ _ _ _ ?_))
    (log_sameButLog _ _ _ _)
  all_goals rcases d with _ | _ | d <;> first | (right; simp [logKeys, F.err_lost_count, F.err_stat_lost]; done) | omega

theorem captureFirst_sameButLog (s : State) (d : Nat) (e : EvEntry) (ks : List Nat) (hd : d < 2) : s.sameButLog (s.captureFirst d e) ks := by
  unfold State.captureFirst
  split
  · exact sameButLog_refl _ _
  · refine sameButLog_trans (sameButLog_trans (setReg_sameButLog _ _ _ _ _ _ ?_) (setReg_sameButLog _ _ _ _ _ _ ?_))
      (setReg_sameButLog _ _ _ _ _ _ ?_)
    all_goals rcases d with _ | _ | d <;> first | (right; simp [logKeys]; done) | omega

theorem intake_sameButLog (s : State) (d : Nat) (e : EvEntry) (ks : List Nat) (hd : d < 2) : s.sameButLog (s.intake d e) ks := by
  unfold State.intake
  dsimp only
  split
  · exact loseEvent_sameButLog _ _ _ hd
  · split
    · refine sameButLog_trans (log_sameButLog _ _ _ _)
        (sameButLog_trans (setFld_sameButLog _ _ _ _ _ _ ?_) (captureFirst_sameButLog _ _ _ _ hd))
      rcases d with _ | _ | d <;> first | (right; simp [logKeys, F.err_stat_level]; done) | omega
    · split
      · exact log_sameButLog _ _ _ _
      · exact loseEvent_sameButLog _ _ _ hd

theorem traceTake_sameButLog (s : State) (b : List Byte) (ks : List Nat) : s.sameButLog (s.traceTake b) ks := by
  unfold State.traceTake
  dsimp only
  split
  · exact log_sameButLog _ _ _ _
  · split
    · exact log_sameButLog _ _ _ _
    · refine sameButLog_trans (log_sameButLog _ _ { s.dbg with trace := s.dbg.trace ++ [b] } _)
        (sameButLog_trans (sameButLog_trans (setFld_sameButLog _ _ _ _ _ _ ?_) (setFld_sameButLog _ _ _ _ _ _ ?_))
          (intake_sameButLog _ _ _ _ (by omega)))
      all_goals right; simp [logKeys, F.dbg_tctl_full, F.dbg_tctl_busy]

theorem traceEvent_sameButLog (s : State) (e : EvEntry) (ks : List Nat) : s.sameButLog (s.traceEvent e) ks := by
  unfold State.traceEvent
  dsimp only
  split
  · exact sameButLog_refl _ _
  · split
    · exact sameButLog_trans (log_sameButLog _ _ _ _) (traceTake_sameButLog _ _ _)
    · exact log_sameButLog _ _ _ _

/-- Raising an event changes the error log and a trace capture, and nothing else. -/
theorem raise_sameButLog (s : State) (d u code det : Nat) (i : EvInfo) (ks : List Nat) (hd : d < 2) :
    s.sameButLog (s.raise d u code det i) ks := by
  unfold State.raise
  dsimp only
  exact sameButLog_trans (traceEvent_sameButLog _ _ _) (intake_sameButLog _ _ _ _ (by split <;> omega))

/-- Counting changes the tally, its unit's overflow bit, and what the event of its saturation writes. -/
theorem tally_sameButLog (s : State) (d : Nat) (r : Reg) (i n : Nat) (ks : List Nat) (hd : d < 2) (h : r.key d i ∈ ks)
    (ho : ∀ f c, tallyUnit r.unit = some (f, c) → f.reg.key d 0 ∈ ks) : s.sameButLog (s.tally d r i n) ks := by
  unfold State.tally
  dsimp only
  split
  · exact setReg_sameButLog _ _ _ _ _ _ (.inl h)
  · split
    · exact setReg_sameButLog _ _ _ _ _ _ (.inl h)
    · next f c e =>
      split
      · exact setReg_sameButLog _ _ _ _ _ _ (.inl h)
      · exact sameButLog_trans (setReg_sameButLog _ _ _ _ _ _ (.inl h))
          (sameButLog_trans (orFld_sameButLog _ _ _ _ _ _ (.inl (ho f c e))) (raise_sameButLog _ _ _ _ _ _ _ hd))

theorem sameMemory_of_sameButLog {s t : State} {ks : List Nat} (h : s.sameButLog t ks) : s.sameMemory t := by
  intro a; rw [h.1]; rfl

end Sys2Proof.Machine
end

