-- ==== Sys2Proof/Laws/Access.lean ====
section
/-! SUPPORT. Laws of register accesses over a path: what a write of a whole register does, said once. -/

namespace Sys2Proof.Machine

theorem heard_sameButLog (s : State) (p : Path) (n : Nat) :
    s.sameButLog (s.heard p n) [R.pcie_t_inwr.key 0 0, F.pcie_tally_ovf_ovf.reg.key 0 0] := by
  refine tally_sameButLog _ _ _ _ _ _ (by decide) (by simp) ?_
  intro f c h
  have : tallyUnit R.pcie_t_inwr.unit = some (F.pcie_tally_ovf_ovf, 0xC009) := rfl
  rw [this] at h; cases h; simp

@[simp] theorem heard_boot (s : State) (p : Path) (n : Nat) : (s.heard p n).boot = s.boot := by
  rw [(heard_sameButLog s p n).1]

theorem heard_reg (s : State) (p : Path) (n d : Nat) (r : Reg) (i : Nat) (h1 : r.key d i ∉ [R.pcie_t_inwr.key 0 0, F.pcie_tally_ovf_ovf.reg.key 0 0])
    (h2 : r.key d i ∉ logKeys 0) (h3 : r.key d i ∉ logKeys 1) : (s.heard p n).reg d r i = s.reg d r i :=
  sameButLog_reg (heard_sameButLog s p n) d r i h1 h2 h3

theorem heard_released (s : State) (p : Path) (n : Nat) : (s.heard p n).released = s.released := by
  simp only [State.released, State.flag, State.fld]
  rw [heard_reg] <;> decide

theorem heard_csrFar (s : State) (p : Path) (n pa : Nat) : (s.heard p n).csrFar pa = s.csrFar pa := by
  have h : (s.heard p n).fld 0 F.rw_sel_stack = s.fld 0 F.rw_sel_stack := by
    unfold State.fld
    rw [heard_reg] <;> decide
  simp only [State.csrFar, h]

theorem heard_bridge (s : State) (p : Path) (n : Nat) : (s.heard p n).bridgeDown = s.bridgeDown ∧ (s.heard p n).bridgeTrains = s.bridgeTrains := by
  have h (f : Fld) (e : f.reg = R.brg_stat) : (s.heard p n).fld 0 f = s.fld 0 f := by
    unfold State.fld
    rw [e, heard_reg] <;> decide
  have g : (s.heard p n).fld 0 F.pwr_stat_trip = s.fld 0 F.pwr_stat_trip := by
    unfold State.fld
    rw [heard_reg] <;> decide
  simp only [State.bridgeTrains, State.bridgeDown, State.tripped, State.flag, g, h F.brg_stat_up rfl, h F.brg_stat_train rfl, h F.brg_stat_tries rfl, and_self]

theorem heard_behind (s : State) (p q : Path) (n : Nat) : (s.heard p n).behind q = s.behind q := by
  unfold State.behind
  rw [(heard_sameButLog s p n).1]

theorem heard_pathOpen (s : State) (p q : Path) (n pa : Nat) : (s.heard p n).pathOpen q pa = s.pathOpen q pa := by
  simp only [State.pathOpen, heard_csrFar, heard_bridge, heard_behind]

theorem pathOpen_held {s : State} {p : Path} {pa : Nat} (h : s.pathOpen p pa = true) : s.pathHeld p pa = false := by
  simp only [State.pathOpen, Bool.or_eq_true, Bool.not_eq_true', Bool.and_eq_true] at h
  rcases h with ⟨b, h | h⟩ <;> simp [State.pathHeld, h, b]

theorem pathOpen_far {s : State} {p : Path} {pa : Nat} (h : s.pathOpen p pa = true) : ¬ (s.csrFar pa = true ∧ s.bridgeDown = true) := by
  simp only [State.pathOpen, Bool.or_eq_true, Bool.not_eq_true', Bool.and_eq_true] at h
  rcases h.2 with h | h <;> simp [h]

/-- A write of a whole register of a unit other than `boot` over a path: R10 discards it with event 0x9002, or its unit takes it. -/
theorem regIn_eq (s : State) (p : Path) (d : Nat) (r : Reg) (v i : Nat) (h : s.taking p (r.pa d i)) (ho : ovfWord (r.pa d i) = false)
    (ht : csrTouch (r.pa d i) r.w = some [(⟨regSpec r, d, i, 0⟩, 0, r.w)]) (hq : (regSpec r).reg = r)
    (hr : isRepair (r.pa d i) = false ∨ (s.heard p (r.w / 8)).unowned = false) (hu : r.unit ≠ 1) (hm : r.kind ≠ .mirror ∨ d ≠ 1) (hv : v < 2 ^ r.w) :
    s.regIn p d r v i =
      if (s.came p (r.pa d i) (r.w / 8)).accepts d r v i then
        ((s.came p (r.pa d i) (r.w / 8)).ownWrite d r i ((s.came p (r.pa d i) (r.w / 8)).after d r v i)).getD
          (((s.came p (r.pa d i) (r.w / 8)).setReg d r
              (if (regSpec r).first && bit v 63 then 0 else (s.came p (r.pa d i) (r.w / 8)).after d r v i) i).written p d r i
            ((s.came p (r.pa d i) (r.w / 8)).reg d r i) v)
      else (s.came p (r.pa d i) (r.w / 8)).misaccess p 0x9002 (r.pa d i) := by
  obtain ⟨⟨h1, h2, h3⟩, h4⟩ := h
  have e1 : s.shut p = false := by simp [State.shut, h1, h3]
  have e2 : (s.heard p (r.w / 8)).shut p = false := by simp [State.shut, h1, h3]
  have e3 : (s.heard p (r.w / 8)).released = true := by rw [heard_released, h2]
  have h5 : (s.heard p (r.w / 8)).pathOpen p (r.pa d i) = true := by rw [heard_pathOpen, h4]
  have hv2 : v % 2 ^ r.w = v := Nat.mod_eq_of_lt hv
  have hand : v &&& (2 ^ r.w - 1) = v := by rw [Nat.and_two_pow_sub_one_eq_mod, hv2]
  simp only [State.regIn, State.writeIn, e1, ho, Bool.false_eq_true, if_false]
  change (s.heard p (r.w / 8)).writeServe p (r.pa d i) r.w v = _
  have e4 := pathOpen_held h5
  have e5 := pathOpen_far h5
  unfold State.came
  generalize s.heard p (r.w / 8) = u at e2 e3 e4 e5 hr ⊢
  have hr' : ¬ (isRepair (r.pa d i) = true ∧ u.unowned = true) := by rcases hr with hr | hr <;> simp [hr]
  simp only [State.writeServe, State.pathWrite, e2, e3, e4, e5, hv2, Bool.false_eq_true, if_false, not_true_eq_false, false_and, ht, hr']
  generalize u.writeCross (r.pa d i) = t
  simp only [State.touchWrite, State.partsWrite, State.regWrite, hv2, Nat.pow_zero, Nat.mul_one, hq, hand]
  have hm' : ¬ (r.kind = .mirror ∧ d = 1) := by tauto
  simp only [hm', if_false]
  by_cases ha : (regSpec r).reserved (t.reg d r i) v (2 ^ r.w - 1) = true ∨
      t.refuses d r i (t.reg d r i) ((regSpec r).next (t.reg d r i) v (2 ^ r.w - 1)) = true
  · rw [if_pos ha]
    have : t.accepts d r v i = false := by
      rcases ha with ha | ha <;> simp [State.accepts, State.after, Reg.ones, ha]
    rw [if_neg (by simp [this])]
    rfl
  · rw [if_neg ha]
    have : t.accepts d r v i = true := by
      simp only [not_or, Bool.not_eq_true] at ha; simp [State.accepts, State.after, Reg.ones, ha.1, ha.2]
    rw [if_pos this, if_neg hu]
    simp only [State.after, Reg.ones]
    cases t.ownWrite d r i ((regSpec r).next (t.reg d r i) v (2 ^ r.w - 1)) <;> simp

/-- A register none of whose fields has a reserved encoding refuses no write for one. -/
theorem reserved_none (q : RegSpec) (h : (q.flds.all fun f => f.bad.isEmpty) = true) (o v m : Nat) : q.reserved o v m = false := by
  simp only [List.all_eq_true, List.isEmpty_iff] at h
  simp only [RegSpec.reserved, List.any_eq_false]
  intro f hf; simp [h f hf]

/-- A register without reserved encodings whose chapter refuses nothing accepts every write. -/
theorem accepts_of (s : State) (d : Nat) (r : Reg) (v i : Nat) (h : ((regSpec r).flds.all fun f => f.bad.isEmpty) = true)
    (hr : ∀ o n, s.refuses d r i o n = false) : s.accepts d r v i = true := by
  simp [State.accepts, reserved_none _ h, hr]

end Sys2Proof.Machine
end

