-- ==== Sys2Proof/Laws/Dealer.lean ====
section
/-! SUPPORT. Laws of decoding: what a word that a slot has fetched does, said once for every operation. -/

namespace Sys2Proof.Machine

/-- A fetched word of the operation asked for is decoded, and the operation acts on the state after decoding. -/
theorem onWord_fetched {s : State} {r k : Nat} {o : Op} {w : Nat} (h : s.fetched r k o w) (f : State → Nat → Nat → State) :
    s.onWord r k o f = .next (f (s.decoded r k w) w (s.slot r k).pc) := by
  obtain ⟨h1, h2, h3, h4⟩ := h
  simp [State.onWord, h1, h2, h3, h4]

/-- What a slot's decoding answers, whatever word it meets: the machine goes on. -/
theorem onWord_next (s : State) (r k : Nat) (o : Op) (f : State → Nat → Nat → State) : ∃ t, s.onWord r k o f = .next t := by
  simp only [State.onWord]
  split
  · exact ⟨_, rfl⟩
  · split
    · exact ⟨_, rfl⟩
    · split
      · exact ⟨_, rfl⟩
      · split <;> exact ⟨_, rfl⟩

end Sys2Proof.Machine
end

