-- ==== Sys2Proof/Laws/Memory.lean ====
section
/-! SUPPORT. Laws of memory: the canonical form, and reads after writes. -/

namespace Sys2Proof.Machine

theorem listedCells_mem (bs : List Byte) (a : Nat) (e : Host.Cell) (h : e ∈ listedCells a bs) :
    a ≤ e.1 ∧ e.1 < a + bs.length ∧ e.2 ≠ 0 := by
  induction bs generalizing a with
  | nil => simp [listedCells] at h
  | cons b bs ih =>
    simp only [listedCells] at h
    by_cases hb : b = 0
    · simp only [hb, if_true] at h
      obtain ⟨h1, h2, h3⟩ := ih (a + 1) h
      exact ⟨by omega, by simp only [List.length_cons]; omega, h3⟩
    · simp only [hb, if_false, List.mem_cons] at h
      rcases h with h | h
      · subst h; exact ⟨Nat.le_refl _, by simp, hb⟩
      · obtain ⟨h1, h2, h3⟩ := ih (a + 1) h
        exact ⟨by omega, by simp only [List.length_cons]; omega, h3⟩

theorem listedCells_pairwise (bs : List Byte) (a : Nat) : (listedCells a bs).Pairwise fun x y => x.1 < y.1 := by
  induction bs generalizing a with
  | nil => simp [listedCells]
  | cons b bs ih =>
    simp only [listedCells]
    by_cases hb : b = 0
    · simpa only [hb, if_true] using ih (a + 1)
    · simp only [hb, if_false, List.pairwise_cons]
      exact ⟨fun e he => by have := (listedCells_mem bs (a + 1) e he).1; omega, ih (a + 1)⟩

/-- A write keeps memory in its canonical form. -/
theorem cellsPut_wf (a : Nat) (bs : List Byte) (l : List Host.Cell) (h : Memory.wf l) : Memory.wf (cellsPut a bs l) := by
  unfold cellsPut
  refine ⟨List.pairwise_append.2 ⟨h.1.filter _, List.pairwise_append.2 ⟨listedCells_pairwise bs a, h.1.filter _, ?_⟩, ?_⟩, ?_⟩
  · intro x hx y hy
    have := listedCells_mem bs a x hx
    have : a + bs.length ≤ y.1 := by simpa using (List.mem_filter.1 hy).2
    omega
  · intro x hx y hy
    have hx2 : x.1 < a := by simpa using (List.mem_filter.1 hx).2
    rcases List.mem_append.1 hy with hy | hy
    · have := listedCells_mem bs a y hy; omega
    · have : a + bs.length ≤ y.1 := by simpa using (List.mem_filter.1 hy).2
      omega
  · intro x hx
    rcases List.mem_append.1 hx with hx | hx
    · exact h.2 x (List.mem_filter.1 hx).1
    · rcases List.mem_append.1 hx with hx | hx
      · exact (listedCells_mem bs a x hx).2.2
      · exact h.2 x (List.mem_filter.1 hx).1

/-- Removing entries keeps the canonical form. -/
theorem memory_filter_wf (p : Host.Cell → Bool) (l : List Host.Cell) (h : Memory.wf l) : Memory.wf (l.filter p) :=
  ⟨h.1.filter _, fun x hx => h.2 x (List.mem_filter.1 hx).1⟩

theorem assocGet_listedCells (bs : List Byte) (a k : Nat) :
    (assocGet k (listedCells a bs)).getD 0 = if a ≤ k ∧ k < a + bs.length then bs.getD (k - a) 0 else 0 := by
  induction bs generalizing a with
  | nil => simp [listedCells, assocGet]
  | cons b bs ih =>
    have step : (assocGet k (listedCells (a + 1) bs)).getD 0 = if a + 1 ≤ k ∧ k < a + 1 + bs.length then bs.getD (k - (a + 1)) 0 else 0 := ih (a + 1)
    by_cases hk : a = k
    · subst hk
      by_cases hb : b = 0
      · simp only [listedCells, hb, if_true, step]; simp
      · simp only [listedCells, hb, if_false, assocGet, if_true, Option.getD_some]; simp
    · have e : (assocGet k (listedCells a (b :: bs))).getD 0 = (assocGet k (listedCells (a + 1) bs)).getD 0 := by
        by_cases hb : b = 0 <;> simp only [listedCells, hb, if_true, if_false, assocGet, hk]
      rw [e, step]
      by_cases h : a + 1 ≤ k ∧ k < a + 1 + bs.length
      · have h' : a ≤ k ∧ k < a + (b :: bs).length := by simp only [List.length_cons]; omega
        rw [if_pos h, if_pos h']
        obtain ⟨m, rfl⟩ : ∃ m, k = a + 1 + m := ⟨k - (a + 1), by omega⟩
        rw [show a + 1 + m - (a + 1) = m by omega, show a + 1 + m - a = m + 1 by omega, List.getD_cons_succ]
      · have h' : ¬ (a ≤ k ∧ k < a + (b :: bs).length) := by simp only [List.length_cons]; omega
        rw [if_neg h, if_neg h']

/-- An entry with a key outside the range listed is none. -/
theorem assocGet_listedCells_none (bs : List Byte) (a k : Nat) (h : ¬ (a ≤ k ∧ k < a + bs.length)) :
    assocGet k (listedCells a bs) = none := by
  induction bs generalizing a with
  | nil => rfl
  | cons b bs ih =>
    have hk : a ≠ k := by rintro rfl; simp at h
    have h2 : ¬ (a + 1 ≤ k ∧ k < a + 1 + bs.length) := by simp only [List.length_cons] at h; omega
    by_cases hb : b = 0 <;> simp only [listedCells, hb, if_true, if_false, assocGet, hk, ih (a + 1) h2]

/-- The byte at an address after a write: the byte written there, or the byte before outside the range. -/
theorem cellAt_cellsPut (a : Nat) (bs : List Byte) (l : List Host.Cell) (k : Nat) :
    cellAt k (cellsPut a bs l) = if a ≤ k ∧ k < a + bs.length then bs.getD (k - a) 0 else cellAt k l := by
  rw [cellAt, cellsPut, assocGet_append, assocGet_append, assocGet_filter (fun x => decide (x < a)),
    assocGet_filter (fun x => decide (a + bs.length ≤ x))]
  by_cases h : a ≤ k ∧ k < a + bs.length
  · have h1 : ¬ k < a := by omega
    have h2 : ¬ a + bs.length ≤ k := by omega
    simp only [h1, h2, decide_false, Bool.false_eq_true, if_false, if_pos h, Option.none_or, Option.or_none]
    rw [assocGet_listedCells, if_pos h]
  · rw [if_neg h, assocGet_listedCells_none _ _ _ h]
    by_cases h1 : k < a
    · have h2 : ¬ a + bs.length ≤ k := by omega
      simp [h1, h2, cellAt]
    · have h2 : a + bs.length ≤ k := by omega
      simp [h1, h2, cellAt]

/-- A byte read after a write. -/
theorem byte_poke (s : State) (a : Nat) (bs : List Byte) (k : Nat) :
    (s.poke a bs).byte k = if a ≤ k ∧ k < a + bs.length then bs.getD (k - a) 0 else s.byte k := cellAt_cellsPut a bs _ k

/-- The bytes of a range are the bytes at its addresses. -/
theorem cellsGet_eq (a n : Nat) (l : List Host.Cell) : cellsGet a n l = (List.range n).map fun i => cellAt (a + i) l := by
  unfold cellsGet
  apply List.map_congr_left
  intro i hi
  have hi : i < n := List.mem_range.1 hi
  simp only [cellAt]
  rw [assocGet_filter (fun x => decide (a ≤ x ∧ x < a + n))]
  simp [hi]

theorem peek_eq (s : State) (a n : Nat) : s.peek a n = (List.range n).map fun i => s.byte (a + i) := cellsGet_eq a n _

/-- A range read after it was written gives the bytes written. -/
theorem peek_poke (s : State) (a : Nat) (bs : List Byte) : (s.poke a bs).peek a bs.length = bs := by
  rw [peek_eq]
  apply List.ext_getElem
  · simp
  · intro i h1 h2
    have h2' : i < bs.length := h2
    simp [byte_poke, h2']

end Sys2Proof.Machine
end

