-- ==== Sys2Proof/Laws/State.lean ====
section
/-! SUPPORT. Laws of `State`: for each update of a state, the field it changes and every field it leaves, so that no proof unfolds a
record update. A conjunction tagged simp gives simp one rule for each of its parts. -/

namespace Sys2Proof.Machine

/-- A write of a register changes `csr`. -/
@[simp] theorem setReg_csr (s : State) (d : Nat) (r : Reg) (v i : Nat) : (s.setReg d r v i).csr = csrPut (r.key d i) (v % 2 ^ r.w) r.reset s.csr := rfl

/-- A write of a register leaves every other field. -/
@[simp] theorem setReg_others (s : State) (d : Nat) (r : Reg) (v i : Nat) :
    (s.setReg d r v i).pending = s.pending ∧ (s.setReg d r v i).clk = s.clk ∧ (s.setReg d r v i).fresh = s.fresh ∧
    (s.setReg d r v i).relClk = s.relClk ∧ (s.setReg d r v i).latch = s.latch ∧ (s.setReg d r v i).err = s.err ∧
    (s.setReg d r v i).mem = s.mem ∧ (s.setReg d r v i).memd = s.memd ∧ (s.setReg d r v i).ctxd = s.ctxd ∧
    (s.setReg d r v i).epoch = s.epoch ∧ (s.setReg d r v i).clusters = s.clusters ∧ (s.setReg d r v i).regions = s.regions ∧
    (s.setReg d r v i).ksplits = s.ksplits ∧ (s.setReg d r v i).fab = s.fab ∧ (s.setReg d r v i).transit = s.transit ∧
    (s.setReg d r v i).meld = s.meld ∧ (s.setReg d r v i).master = s.master ∧ (s.setReg d r v i).recd = s.recd ∧
    (s.setReg d r v i).ckp = s.ckp ∧ (s.setReg d r v i).det = s.det ∧ (s.setReg d r v i).time = s.time ∧
    (s.setReg d r v i).wan = s.wan ∧ (s.setReg d r v i).cip = s.cip ∧ (s.setReg d r v i).asy = s.asy ∧
    (s.setReg d r v i).boot = s.boot ∧ (s.setReg d r v i).host = s.host ∧ (s.setReg d r v i).mgmt = s.mgmt ∧
    (s.setReg d r v i).dbg = s.dbg ∧ (s.setReg d r v i).tele = s.tele ∧ (s.setReg d r v i).pwr = s.pwr ∧
    (s.setReg d r v i).out = s.out := by
  refine ⟨rfl, rfl, rfl, rfl, rfl, rfl, rfl, rfl, rfl, rfl, rfl, rfl, rfl, rfl, rfl, rfl, rfl, rfl, rfl, rfl, rfl, rfl, rfl, rfl, rfl, rfl, rfl, rfl, rfl, rfl, rfl⟩

/-- An output changes `out`. -/
@[simp] theorem emit_out (s : State) (o : Output) : (s.emit o).out = o :: s.out := rfl

/-- An output leaves every other field. -/
@[simp] theorem emit_others (s : State) (o : Output) :
    (s.emit o).pending = s.pending ∧ (s.emit o).clk = s.clk ∧ (s.emit o).fresh = s.fresh ∧ (s.emit o).relClk = s.relClk ∧
    (s.emit o).csr = s.csr ∧ (s.emit o).latch = s.latch ∧ (s.emit o).err = s.err ∧ (s.emit o).mem = s.mem ∧
    (s.emit o).memd = s.memd ∧ (s.emit o).ctxd = s.ctxd ∧ (s.emit o).epoch = s.epoch ∧ (s.emit o).clusters = s.clusters ∧
    (s.emit o).regions = s.regions ∧ (s.emit o).ksplits = s.ksplits ∧ (s.emit o).fab = s.fab ∧
    (s.emit o).transit = s.transit ∧ (s.emit o).meld = s.meld ∧ (s.emit o).master = s.master ∧ (s.emit o).recd = s.recd ∧
    (s.emit o).ckp = s.ckp ∧ (s.emit o).det = s.det ∧ (s.emit o).time = s.time ∧ (s.emit o).wan = s.wan ∧
    (s.emit o).cip = s.cip ∧ (s.emit o).asy = s.asy ∧ (s.emit o).boot = s.boot ∧ (s.emit o).host = s.host ∧
    (s.emit o).mgmt = s.mgmt ∧ (s.emit o).dbg = s.dbg ∧ (s.emit o).tele = s.tele ∧ (s.emit o).pwr = s.pwr := by
  refine ⟨rfl, rfl, rfl, rfl, rfl, rfl, rfl, rfl, rfl, rfl, rfl, rfl, rfl, rfl, rfl, rfl, rfl, rfl, rfl, rfl, rfl, rfl, rfl, rfl, rfl, rfl, rfl, rfl, rfl, rfl, rfl⟩

/-- A store of bytes changes `mem`. -/
@[simp] theorem poke_mem (s : State) (a : Nat) (b : List Byte) : (s.poke a b).mem = { s.mem with cells := cellsPut a b s.mem.cells } := rfl

/-- A store of bytes leaves every other field. -/
@[simp] theorem poke_others (s : State) (a : Nat) (b : List Byte) :
    (s.poke a b).pending = s.pending ∧ (s.poke a b).clk = s.clk ∧ (s.poke a b).fresh = s.fresh ∧
    (s.poke a b).relClk = s.relClk ∧ (s.poke a b).csr = s.csr ∧ (s.poke a b).latch = s.latch ∧ (s.poke a b).err = s.err ∧
    (s.poke a b).memd = s.memd ∧ (s.poke a b).ctxd = s.ctxd ∧ (s.poke a b).epoch = s.epoch ∧
    (s.poke a b).clusters = s.clusters ∧ (s.poke a b).regions = s.regions ∧ (s.poke a b).ksplits = s.ksplits ∧
    (s.poke a b).fab = s.fab ∧ (s.poke a b).transit = s.transit ∧ (s.poke a b).meld = s.meld ∧
    (s.poke a b).master = s.master ∧ (s.poke a b).recd = s.recd ∧ (s.poke a b).ckp = s.ckp ∧ (s.poke a b).det = s.det ∧
    (s.poke a b).time = s.time ∧ (s.poke a b).wan = s.wan ∧ (s.poke a b).cip = s.cip ∧ (s.poke a b).asy = s.asy ∧
    (s.poke a b).boot = s.boot ∧ (s.poke a b).host = s.host ∧ (s.poke a b).mgmt = s.mgmt ∧ (s.poke a b).dbg = s.dbg ∧
    (s.poke a b).tele = s.tele ∧ (s.poke a b).pwr = s.pwr ∧ (s.poke a b).out = s.out := by
  refine ⟨rfl, rfl, rfl, rfl, rfl, rfl, rfl, rfl, rfl, rfl, rfl, rfl, rfl, rfl, rfl, rfl, rfl, rfl, rfl, rfl, rfl, rfl, rfl, rfl, rfl, rfl, rfl, rfl, rfl, rfl, rfl⟩

/-- A change of a cluster changes `clusters`. -/
@[simp] theorem updCl_clusters (s : State) (c : Nat) (f : Cluster → Cluster) : (s.updCl c f).clusters = listMod s.clusters c f := rfl

/-- A change of a cluster leaves every other field. -/
@[simp] theorem updCl_others (s : State) (c : Nat) (f : Cluster → Cluster) :
    (s.updCl c f).pending = s.pending ∧ (s.updCl c f).clk = s.clk ∧ (s.updCl c f).fresh = s.fresh ∧
    (s.updCl c f).relClk = s.relClk ∧ (s.updCl c f).csr = s.csr ∧ (s.updCl c f).latch = s.latch ∧ (s.updCl c f).err = s.err ∧
    (s.updCl c f).mem = s.mem ∧ (s.updCl c f).memd = s.memd ∧ (s.updCl c f).ctxd = s.ctxd ∧ (s.updCl c f).epoch = s.epoch ∧
    (s.updCl c f).regions = s.regions ∧ (s.updCl c f).ksplits = s.ksplits ∧ (s.updCl c f).fab = s.fab ∧
    (s.updCl c f).transit = s.transit ∧ (s.updCl c f).meld = s.meld ∧ (s.updCl c f).master = s.master ∧
    (s.updCl c f).recd = s.recd ∧ (s.updCl c f).ckp = s.ckp ∧ (s.updCl c f).det = s.det ∧ (s.updCl c f).time = s.time ∧
    (s.updCl c f).wan = s.wan ∧ (s.updCl c f).cip = s.cip ∧ (s.updCl c f).asy = s.asy ∧ (s.updCl c f).boot = s.boot ∧
    (s.updCl c f).host = s.host ∧ (s.updCl c f).mgmt = s.mgmt ∧ (s.updCl c f).dbg = s.dbg ∧ (s.updCl c f).tele = s.tele ∧
    (s.updCl c f).pwr = s.pwr ∧ (s.updCl c f).out = s.out := by
  refine ⟨rfl, rfl, rfl, rfl, rfl, rfl, rfl, rfl, rfl, rfl, rfl, rfl, rfl, rfl, rfl, rfl, rfl, rfl, rfl, rfl, rfl, rfl, rfl, rfl, rfl, rfl, rfl, rfl, rfl, rfl, rfl⟩

/-- A change of a region changes `regions`. -/
@[simp] theorem updRg_regions (s : State) (r : Nat) (f : Region → Region) : (s.updRg r f).regions = listMod s.regions r f := rfl

/-- A change of a region leaves every other field. -/
@[simp] theorem updRg_others (s : State) (r : Nat) (f : Region → Region) :
    (s.updRg r f).pending = s.pending ∧ (s.updRg r f).clk = s.clk ∧ (s.updRg r f).fresh = s.fresh ∧
    (s.updRg r f).relClk = s.relClk ∧ (s.updRg r f).csr = s.csr ∧ (s.updRg r f).latch = s.latch ∧ (s.updRg r f).err = s.err ∧
    (s.updRg r f).mem = s.mem ∧ (s.updRg r f).memd = s.memd ∧ (s.updRg r f).ctxd = s.ctxd ∧ (s.updRg r f).epoch = s.epoch ∧
    (s.updRg r f).clusters = s.clusters ∧ (s.updRg r f).ksplits = s.ksplits ∧ (s.updRg r f).fab = s.fab ∧
    (s.updRg r f).transit = s.transit ∧ (s.updRg r f).meld = s.meld ∧ (s.updRg r f).master = s.master ∧
    (s.updRg r f).recd = s.recd ∧ (s.updRg r f).ckp = s.ckp ∧ (s.updRg r f).det = s.det ∧ (s.updRg r f).time = s.time ∧
    (s.updRg r f).wan = s.wan ∧ (s.updRg r f).cip = s.cip ∧ (s.updRg r f).asy = s.asy ∧ (s.updRg r f).boot = s.boot ∧
    (s.updRg r f).host = s.host ∧ (s.updRg r f).mgmt = s.mgmt ∧ (s.updRg r f).dbg = s.dbg ∧ (s.updRg r f).tele = s.tele ∧
    (s.updRg r f).pwr = s.pwr ∧ (s.updRg r f).out = s.out := by
  refine ⟨rfl, rfl, rfl, rfl, rfl, rfl, rfl, rfl, rfl, rfl, rfl, rfl, rfl, rfl, rfl, rfl, rfl, rfl, rfl, rfl, rfl, rfl, rfl, rfl, rfl, rfl, rfl, rfl, rfl, rfl, rfl⟩

/-- A change of a die's memory units changes `memd`. -/
@[simp] theorem updMem_memd (s : State) (d : Nat) (f : MemDie → MemDie) : (s.updMem d f).memd = s.memd.upd d f := rfl

/-- A change of a die's memory units leaves every other field. -/
@[simp] theorem updMem_others (s : State) (d : Nat) (f : MemDie → MemDie) :
    (s.updMem d f).pending = s.pending ∧ (s.updMem d f).clk = s.clk ∧ (s.updMem d f).fresh = s.fresh ∧
    (s.updMem d f).relClk = s.relClk ∧ (s.updMem d f).csr = s.csr ∧ (s.updMem d f).latch = s.latch ∧
    (s.updMem d f).err = s.err ∧ (s.updMem d f).mem = s.mem ∧ (s.updMem d f).ctxd = s.ctxd ∧ (s.updMem d f).epoch = s.epoch ∧
    (s.updMem d f).clusters = s.clusters ∧ (s.updMem d f).regions = s.regions ∧ (s.updMem d f).ksplits = s.ksplits ∧
    (s.updMem d f).fab = s.fab ∧ (s.updMem d f).transit = s.transit ∧ (s.updMem d f).meld = s.meld ∧
    (s.updMem d f).master = s.master ∧ (s.updMem d f).recd = s.recd ∧ (s.updMem d f).ckp = s.ckp ∧
    (s.updMem d f).det = s.det ∧ (s.updMem d f).time = s.time ∧ (s.updMem d f).wan = s.wan ∧ (s.updMem d f).cip = s.cip ∧
    (s.updMem d f).asy = s.asy ∧ (s.updMem d f).boot = s.boot ∧ (s.updMem d f).host = s.host ∧ (s.updMem d f).mgmt = s.mgmt ∧
    (s.updMem d f).dbg = s.dbg ∧ (s.updMem d f).tele = s.tele ∧ (s.updMem d f).pwr = s.pwr ∧ (s.updMem d f).out = s.out := by
  refine ⟨rfl, rfl, rfl, rfl, rfl, rfl, rfl, rfl, rfl, rfl, rfl, rfl, rfl, rfl, rfl, rfl, rfl, rfl, rfl, rfl, rfl, rfl, rfl, rfl, rfl, rfl, rfl, rfl, rfl, rfl, rfl⟩

/-- A change of a die's context units changes `ctxd`. -/
@[simp] theorem updCtx_ctxd (s : State) (d : Nat) (f : CtxDie → CtxDie) : (s.updCtx d f).ctxd = s.ctxd.upd d f := rfl

/-- A change of a die's context units leaves every other field. -/
@[simp] theorem updCtx_others (s : State) (d : Nat) (f : CtxDie → CtxDie) :
    (s.updCtx d f).pending = s.pending ∧ (s.updCtx d f).clk = s.clk ∧ (s.updCtx d f).fresh = s.fresh ∧
    (s.updCtx d f).relClk = s.relClk ∧ (s.updCtx d f).csr = s.csr ∧ (s.updCtx d f).latch = s.latch ∧
    (s.updCtx d f).err = s.err ∧ (s.updCtx d f).mem = s.mem ∧ (s.updCtx d f).memd = s.memd ∧ (s.updCtx d f).epoch = s.epoch ∧
    (s.updCtx d f).clusters = s.clusters ∧ (s.updCtx d f).regions = s.regions ∧ (s.updCtx d f).ksplits = s.ksplits ∧
    (s.updCtx d f).fab = s.fab ∧ (s.updCtx d f).transit = s.transit ∧ (s.updCtx d f).meld = s.meld ∧
    (s.updCtx d f).master = s.master ∧ (s.updCtx d f).recd = s.recd ∧ (s.updCtx d f).ckp = s.ckp ∧
    (s.updCtx d f).det = s.det ∧ (s.updCtx d f).time = s.time ∧ (s.updCtx d f).wan = s.wan ∧ (s.updCtx d f).cip = s.cip ∧
    (s.updCtx d f).asy = s.asy ∧ (s.updCtx d f).boot = s.boot ∧ (s.updCtx d f).host = s.host ∧ (s.updCtx d f).mgmt = s.mgmt ∧
    (s.updCtx d f).dbg = s.dbg ∧ (s.updCtx d f).tele = s.tele ∧ (s.updCtx d f).pwr = s.pwr ∧ (s.updCtx d f).out = s.out := by
  refine ⟨rfl, rfl, rfl, rfl, rfl, rfl, rfl, rfl, rfl, rfl, rfl, rfl, rfl, rfl, rfl, rfl, rfl, rfl, rfl, rfl, rfl, rfl, rfl, rfl, rfl, rfl, rfl, rfl, rfl, rfl, rfl⟩

/-- A change of a die's fabric changes `fab`. -/
@[simp] theorem updFab_fab (s : State) (d : Nat) (f : FabDie → FabDie) : (s.updFab d f).fab = s.fab.upd d f := rfl

/-- A change of a die's fabric leaves every other field. -/
@[simp] theorem updFab_others (s : State) (d : Nat) (f : FabDie → FabDie) :
    (s.updFab d f).pending = s.pending ∧ (s.updFab d f).clk = s.clk ∧ (s.updFab d f).fresh = s.fresh ∧
    (s.updFab d f).relClk = s.relClk ∧ (s.updFab d f).csr = s.csr ∧ (s.updFab d f).latch = s.latch ∧
    (s.updFab d f).err = s.err ∧ (s.updFab d f).mem = s.mem ∧ (s.updFab d f).memd = s.memd ∧ (s.updFab d f).ctxd = s.ctxd ∧
    (s.updFab d f).epoch = s.epoch ∧ (s.updFab d f).clusters = s.clusters ∧ (s.updFab d f).regions = s.regions ∧
    (s.updFab d f).ksplits = s.ksplits ∧ (s.updFab d f).transit = s.transit ∧ (s.updFab d f).meld = s.meld ∧
    (s.updFab d f).master = s.master ∧ (s.updFab d f).recd = s.recd ∧ (s.updFab d f).ckp = s.ckp ∧
    (s.updFab d f).det = s.det ∧ (s.updFab d f).time = s.time ∧ (s.updFab d f).wan = s.wan ∧ (s.updFab d f).cip = s.cip ∧
    (s.updFab d f).asy = s.asy ∧ (s.updFab d f).boot = s.boot ∧ (s.updFab d f).host = s.host ∧ (s.updFab d f).mgmt = s.mgmt ∧
    (s.updFab d f).dbg = s.dbg ∧ (s.updFab d f).tele = s.tele ∧ (s.updFab d f).pwr = s.pwr ∧ (s.updFab d f).out = s.out := by
  refine ⟨rfl, rfl, rfl, rfl, rfl, rfl, rfl, rfl, rfl, rfl, rfl, rfl, rfl, rfl, rfl, rfl, rfl, rfl, rfl, rfl, rfl, rfl, rfl, rfl, rfl, rfl, rfl, rfl, rfl, rfl, rfl⟩

/-- A change of a die's Meld unit changes `meld`. -/
@[simp] theorem updMd_meld (s : State) (d : Nat) (f : MeldDie → MeldDie) : (s.updMd d f).meld = s.meld.upd d f := rfl

/-- A change of a die's Meld unit leaves every other field. -/
@[simp] theorem updMd_others (s : State) (d : Nat) (f : MeldDie → MeldDie) :
    (s.updMd d f).pending = s.pending ∧ (s.updMd d f).clk = s.clk ∧ (s.updMd d f).fresh = s.fresh ∧
    (s.updMd d f).relClk = s.relClk ∧ (s.updMd d f).csr = s.csr ∧ (s.updMd d f).latch = s.latch ∧ (s.updMd d f).err = s.err ∧
    (s.updMd d f).mem = s.mem ∧ (s.updMd d f).memd = s.memd ∧ (s.updMd d f).ctxd = s.ctxd ∧ (s.updMd d f).epoch = s.epoch ∧
    (s.updMd d f).clusters = s.clusters ∧ (s.updMd d f).regions = s.regions ∧ (s.updMd d f).ksplits = s.ksplits ∧
    (s.updMd d f).fab = s.fab ∧ (s.updMd d f).transit = s.transit ∧ (s.updMd d f).master = s.master ∧
    (s.updMd d f).recd = s.recd ∧ (s.updMd d f).ckp = s.ckp ∧ (s.updMd d f).det = s.det ∧ (s.updMd d f).time = s.time ∧
    (s.updMd d f).wan = s.wan ∧ (s.updMd d f).cip = s.cip ∧ (s.updMd d f).asy = s.asy ∧ (s.updMd d f).boot = s.boot ∧
    (s.updMd d f).host = s.host ∧ (s.updMd d f).mgmt = s.mgmt ∧ (s.updMd d f).dbg = s.dbg ∧ (s.updMd d f).tele = s.tele ∧
    (s.updMd d f).pwr = s.pwr ∧ (s.updMd d f).out = s.out := by
  refine ⟨rfl, rfl, rfl, rfl, rfl, rfl, rfl, rfl, rfl, rfl, rfl, rfl, rfl, rfl, rfl, rfl, rfl, rfl, rfl, rfl, rfl, rfl, rfl, rfl, rfl, rfl, rfl, rfl, rfl, rfl, rfl⟩

/-- A change of a die's recovery controller changes `recd`. -/
@[simp] theorem updRec_recd (s : State) (d : Nat) (f : RecDie → RecDie) : (s.updRec d f).recd = s.recd.upd d f := rfl

/-- A change of a die's recovery controller leaves every other field. -/
@[simp] theorem updRec_others (s : State) (d : Nat) (f : RecDie → RecDie) :
    (s.updRec d f).pending = s.pending ∧ (s.updRec d f).clk = s.clk ∧ (s.updRec d f).fresh = s.fresh ∧
    (s.updRec d f).relClk = s.relClk ∧ (s.updRec d f).csr = s.csr ∧ (s.updRec d f).latch = s.latch ∧
    (s.updRec d f).err = s.err ∧ (s.updRec d f).mem = s.mem ∧ (s.updRec d f).memd = s.memd ∧ (s.updRec d f).ctxd = s.ctxd ∧
    (s.updRec d f).epoch = s.epoch ∧ (s.updRec d f).clusters = s.clusters ∧ (s.updRec d f).regions = s.regions ∧
    (s.updRec d f).ksplits = s.ksplits ∧ (s.updRec d f).fab = s.fab ∧ (s.updRec d f).transit = s.transit ∧
    (s.updRec d f).meld = s.meld ∧ (s.updRec d f).master = s.master ∧ (s.updRec d f).ckp = s.ckp ∧
    (s.updRec d f).det = s.det ∧ (s.updRec d f).time = s.time ∧ (s.updRec d f).wan = s.wan ∧ (s.updRec d f).cip = s.cip ∧
    (s.updRec d f).asy = s.asy ∧ (s.updRec d f).boot = s.boot ∧ (s.updRec d f).host = s.host ∧ (s.updRec d f).mgmt = s.mgmt ∧
    (s.updRec d f).dbg = s.dbg ∧ (s.updRec d f).tele = s.tele ∧ (s.updRec d f).pwr = s.pwr ∧ (s.updRec d f).out = s.out := by
  refine ⟨rfl, rfl, rfl, rfl, rfl, rfl, rfl, rfl, rfl, rfl, rfl, rfl, rfl, rfl, rfl, rfl, rfl, rfl, rfl, rfl, rfl, rfl, rfl, rfl, rfl, rfl, rfl, rfl, rfl, rfl, rfl⟩

/-- A change of a die's WAN port changes `wan`. -/
@[simp] theorem updWan_wan (s : State) (d : Nat) (f : WanDie → WanDie) : (s.updWan d f).wan = s.wan.upd d f := rfl

/-- A change of a die's WAN port leaves every other field. -/
@[simp] theorem updWan_others (s : State) (d : Nat) (f : WanDie → WanDie) :
    (s.updWan d f).pending = s.pending ∧ (s.updWan d f).clk = s.clk ∧ (s.updWan d f).fresh = s.fresh ∧
    (s.updWan d f).relClk = s.relClk ∧ (s.updWan d f).csr = s.csr ∧ (s.updWan d f).latch = s.latch ∧
    (s.updWan d f).err = s.err ∧ (s.updWan d f).mem = s.mem ∧ (s.updWan d f).memd = s.memd ∧ (s.updWan d f).ctxd = s.ctxd ∧
    (s.updWan d f).epoch = s.epoch ∧ (s.updWan d f).clusters = s.clusters ∧ (s.updWan d f).regions = s.regions ∧
    (s.updWan d f).ksplits = s.ksplits ∧ (s.updWan d f).fab = s.fab ∧ (s.updWan d f).transit = s.transit ∧
    (s.updWan d f).meld = s.meld ∧ (s.updWan d f).master = s.master ∧ (s.updWan d f).recd = s.recd ∧
    (s.updWan d f).ckp = s.ckp ∧ (s.updWan d f).det = s.det ∧ (s.updWan d f).time = s.time ∧ (s.updWan d f).cip = s.cip ∧
    (s.updWan d f).asy = s.asy ∧ (s.updWan d f).boot = s.boot ∧ (s.updWan d f).host = s.host ∧ (s.updWan d f).mgmt = s.mgmt ∧
    (s.updWan d f).dbg = s.dbg ∧ (s.updWan d f).tele = s.tele ∧ (s.updWan d f).pwr = s.pwr ∧ (s.updWan d f).out = s.out := by
  refine ⟨rfl, rfl, rfl, rfl, rfl, rfl, rfl, rfl, rfl, rfl, rfl, rfl, rfl, rfl, rfl, rfl, rfl, rfl, rfl, rfl, rfl, rfl, rfl, rfl, rfl, rfl, rfl, rfl, rfl, rfl, rfl⟩

/-- A change of a die's cipher unit changes `cip`. -/
@[simp] theorem updCip_cip (s : State) (d : Nat) (f : CipDie → CipDie) : (s.updCip d f).cip = s.cip.upd d f := rfl

/-- A change of a die's cipher unit leaves every other field. -/
@[simp] theorem updCip_others (s : State) (d : Nat) (f : CipDie → CipDie) :
    (s.updCip d f).pending = s.pending ∧ (s.updCip d f).clk = s.clk ∧ (s.updCip d f).fresh = s.fresh ∧
    (s.updCip d f).relClk = s.relClk ∧ (s.updCip d f).csr = s.csr ∧ (s.updCip d f).latch = s.latch ∧
    (s.updCip d f).err = s.err ∧ (s.updCip d f).mem = s.mem ∧ (s.updCip d f).memd = s.memd ∧ (s.updCip d f).ctxd = s.ctxd ∧
    (s.updCip d f).epoch = s.epoch ∧ (s.updCip d f).clusters = s.clusters ∧ (s.updCip d f).regions = s.regions ∧
    (s.updCip d f).ksplits = s.ksplits ∧ (s.updCip d f).fab = s.fab ∧ (s.updCip d f).transit = s.transit ∧
    (s.updCip d f).meld = s.meld ∧ (s.updCip d f).master = s.master ∧ (s.updCip d f).recd = s.recd ∧
    (s.updCip d f).ckp = s.ckp ∧ (s.updCip d f).det = s.det ∧ (s.updCip d f).time = s.time ∧ (s.updCip d f).wan = s.wan ∧
    (s.updCip d f).asy = s.asy ∧ (s.updCip d f).boot = s.boot ∧ (s.updCip d f).host = s.host ∧ (s.updCip d f).mgmt = s.mgmt ∧
    (s.updCip d f).dbg = s.dbg ∧ (s.updCip d f).tele = s.tele ∧ (s.updCip d f).pwr = s.pwr ∧ (s.updCip d f).out = s.out := by
  refine ⟨rfl, rfl, rfl, rfl, rfl, rfl, rfl, rfl, rfl, rfl, rfl, rfl, rfl, rfl, rfl, rfl, rfl, rfl, rfl, rfl, rfl, rfl, rfl, rfl, rfl, rfl, rfl, rfl, rfl, rfl, rfl⟩

/-- A change of Assay changes `asy`. -/
@[simp] theorem updAsy_asy (s : State) (f : AssayState → AssayState) : (s.updAsy f).asy = f s.asy := rfl

/-- A change of Assay leaves every other field. -/
@[simp] theorem updAsy_others (s : State) (f : AssayState → AssayState) :
    (s.updAsy f).pending = s.pending ∧ (s.updAsy f).clk = s.clk ∧ (s.updAsy f).fresh = s.fresh ∧
    (s.updAsy f).relClk = s.relClk ∧ (s.updAsy f).csr = s.csr ∧ (s.updAsy f).latch = s.latch ∧ (s.updAsy f).err = s.err ∧
    (s.updAsy f).mem = s.mem ∧ (s.updAsy f).memd = s.memd ∧ (s.updAsy f).ctxd = s.ctxd ∧ (s.updAsy f).epoch = s.epoch ∧
    (s.updAsy f).clusters = s.clusters ∧ (s.updAsy f).regions = s.regions ∧ (s.updAsy f).ksplits = s.ksplits ∧
    (s.updAsy f).fab = s.fab ∧ (s.updAsy f).transit = s.transit ∧ (s.updAsy f).meld = s.meld ∧
    (s.updAsy f).master = s.master ∧ (s.updAsy f).recd = s.recd ∧ (s.updAsy f).ckp = s.ckp ∧ (s.updAsy f).det = s.det ∧
    (s.updAsy f).time = s.time ∧ (s.updAsy f).wan = s.wan ∧ (s.updAsy f).cip = s.cip ∧ (s.updAsy f).boot = s.boot ∧
    (s.updAsy f).host = s.host ∧ (s.updAsy f).mgmt = s.mgmt ∧ (s.updAsy f).dbg = s.dbg ∧ (s.updAsy f).tele = s.tele ∧
    (s.updAsy f).pwr = s.pwr ∧ (s.updAsy f).out = s.out := by
  refine ⟨rfl, rfl, rfl, rfl, rfl, rfl, rfl, rfl, rfl, rfl, rfl, rfl, rfl, rfl, rfl, rfl, rfl, rfl, rfl, rfl, rfl, rfl, rfl, rfl, rfl, rfl, rfl, rfl, rfl, rfl, rfl⟩

/-- A change of the loader changes `boot`. -/
@[simp] theorem updBoot_boot (s : State) (f : BootState → BootState) : (s.updBoot f).boot = f s.boot := rfl

/-- A change of the loader leaves every other field. -/
@[simp] theorem updBoot_others (s : State) (f : BootState → BootState) :
    (s.updBoot f).pending = s.pending ∧ (s.updBoot f).clk = s.clk ∧ (s.updBoot f).fresh = s.fresh ∧
    (s.updBoot f).relClk = s.relClk ∧ (s.updBoot f).csr = s.csr ∧ (s.updBoot f).latch = s.latch ∧ (s.updBoot f).err = s.err ∧
    (s.updBoot f).mem = s.mem ∧ (s.updBoot f).memd = s.memd ∧ (s.updBoot f).ctxd = s.ctxd ∧ (s.updBoot f).epoch = s.epoch ∧
    (s.updBoot f).clusters = s.clusters ∧ (s.updBoot f).regions = s.regions ∧ (s.updBoot f).ksplits = s.ksplits ∧
    (s.updBoot f).fab = s.fab ∧ (s.updBoot f).transit = s.transit ∧ (s.updBoot f).meld = s.meld ∧
    (s.updBoot f).master = s.master ∧ (s.updBoot f).recd = s.recd ∧ (s.updBoot f).ckp = s.ckp ∧ (s.updBoot f).det = s.det ∧
    (s.updBoot f).time = s.time ∧ (s.updBoot f).wan = s.wan ∧ (s.updBoot f).cip = s.cip ∧ (s.updBoot f).asy = s.asy ∧
    (s.updBoot f).host = s.host ∧ (s.updBoot f).mgmt = s.mgmt ∧ (s.updBoot f).dbg = s.dbg ∧ (s.updBoot f).tele = s.tele ∧
    (s.updBoot f).pwr = s.pwr ∧ (s.updBoot f).out = s.out := by
  refine ⟨rfl, rfl, rfl, rfl, rfl, rfl, rfl, rfl, rfl, rfl, rfl, rfl, rfl, rfl, rfl, rfl, rfl, rfl, rfl, rfl, rfl, rfl, rfl, rfl, rfl, rfl, rfl, rfl, rfl, rfl, rfl⟩

/-- A change of the host port changes `host`. -/
@[simp] theorem updHost_host (s : State) (f : HostState → HostState) : (s.updHost f).host = f s.host := rfl

/-- A change of the host port leaves every other field. -/
@[simp] theorem updHost_others (s : State) (f : HostState → HostState) :
    (s.updHost f).pending = s.pending ∧ (s.updHost f).clk = s.clk ∧ (s.updHost f).fresh = s.fresh ∧
    (s.updHost f).relClk = s.relClk ∧ (s.updHost f).csr = s.csr ∧ (s.updHost f).latch = s.latch ∧ (s.updHost f).err = s.err ∧
    (s.updHost f).mem = s.mem ∧ (s.updHost f).memd = s.memd ∧ (s.updHost f).ctxd = s.ctxd ∧ (s.updHost f).epoch = s.epoch ∧
    (s.updHost f).clusters = s.clusters ∧ (s.updHost f).regions = s.regions ∧ (s.updHost f).ksplits = s.ksplits ∧
    (s.updHost f).fab = s.fab ∧ (s.updHost f).transit = s.transit ∧ (s.updHost f).meld = s.meld ∧
    (s.updHost f).master = s.master ∧ (s.updHost f).recd = s.recd ∧ (s.updHost f).ckp = s.ckp ∧ (s.updHost f).det = s.det ∧
    (s.updHost f).time = s.time ∧ (s.updHost f).wan = s.wan ∧ (s.updHost f).cip = s.cip ∧ (s.updHost f).asy = s.asy ∧
    (s.updHost f).boot = s.boot ∧ (s.updHost f).mgmt = s.mgmt ∧ (s.updHost f).dbg = s.dbg ∧ (s.updHost f).tele = s.tele ∧
    (s.updHost f).pwr = s.pwr ∧ (s.updHost f).out = s.out := by
  refine ⟨rfl, rfl, rfl, rfl, rfl, rfl, rfl, rfl, rfl, rfl, rfl, rfl, rfl, rfl, rfl, rfl, rfl, rfl, rfl, rfl, rfl, rfl, rfl, rfl, rfl, rfl, rfl, rfl, rfl, rfl, rfl⟩

/-- A change of the time unit changes `time`. -/
@[simp] theorem updTime_time (s : State) (f : TimeState → TimeState) : (s.updTime f).time = f s.time := rfl

/-- A change of the time unit leaves every other field. -/
@[simp] theorem updTime_others (s : State) (f : TimeState → TimeState) :
    (s.updTime f).pending = s.pending ∧ (s.updTime f).clk = s.clk ∧ (s.updTime f).fresh = s.fresh ∧
    (s.updTime f).relClk = s.relClk ∧ (s.updTime f).csr = s.csr ∧ (s.updTime f).latch = s.latch ∧ (s.updTime f).err = s.err ∧
    (s.updTime f).mem = s.mem ∧ (s.updTime f).memd = s.memd ∧ (s.updTime f).ctxd = s.ctxd ∧ (s.updTime f).epoch = s.epoch ∧
    (s.updTime f).clusters = s.clusters ∧ (s.updTime f).regions = s.regions ∧ (s.updTime f).ksplits = s.ksplits ∧
    (s.updTime f).fab = s.fab ∧ (s.updTime f).transit = s.transit ∧ (s.updTime f).meld = s.meld ∧
    (s.updTime f).master = s.master ∧ (s.updTime f).recd = s.recd ∧ (s.updTime f).ckp = s.ckp ∧ (s.updTime f).det = s.det ∧
    (s.updTime f).wan = s.wan ∧ (s.updTime f).cip = s.cip ∧ (s.updTime f).asy = s.asy ∧ (s.updTime f).boot = s.boot ∧
    (s.updTime f).host = s.host ∧ (s.updTime f).mgmt = s.mgmt ∧ (s.updTime f).dbg = s.dbg ∧ (s.updTime f).tele = s.tele ∧
    (s.updTime f).pwr = s.pwr ∧ (s.updTime f).out = s.out := by
  refine ⟨rfl, rfl, rfl, rfl, rfl, rfl, rfl, rfl, rfl, rfl, rfl, rfl, rfl, rfl, rfl, rfl, rfl, rfl, rfl, rfl, rfl, rfl, rfl, rfl, rfl, rfl, rfl, rfl, rfl, rfl, rfl⟩

/-- A change of the power controller changes `pwr`. -/
@[simp] theorem updPwr_pwr (s : State) (f : PowerState → PowerState) : (s.updPwr f).pwr = f s.pwr := rfl

/-- A change of the power controller leaves every other field. -/
@[simp] theorem updPwr_others (s : State) (f : PowerState → PowerState) :
    (s.updPwr f).pending = s.pending ∧ (s.updPwr f).clk = s.clk ∧ (s.updPwr f).fresh = s.fresh ∧
    (s.updPwr f).relClk = s.relClk ∧ (s.updPwr f).csr = s.csr ∧ (s.updPwr f).latch = s.latch ∧ (s.updPwr f).err = s.err ∧
    (s.updPwr f).mem = s.mem ∧ (s.updPwr f).memd = s.memd ∧ (s.updPwr f).ctxd = s.ctxd ∧ (s.updPwr f).epoch = s.epoch ∧
    (s.updPwr f).clusters = s.clusters ∧ (s.updPwr f).regions = s.regions ∧ (s.updPwr f).ksplits = s.ksplits ∧
    (s.updPwr f).fab = s.fab ∧ (s.updPwr f).transit = s.transit ∧ (s.updPwr f).meld = s.meld ∧
    (s.updPwr f).master = s.master ∧ (s.updPwr f).recd = s.recd ∧ (s.updPwr f).ckp = s.ckp ∧ (s.updPwr f).det = s.det ∧
    (s.updPwr f).time = s.time ∧ (s.updPwr f).wan = s.wan ∧ (s.updPwr f).cip = s.cip ∧ (s.updPwr f).asy = s.asy ∧
    (s.updPwr f).boot = s.boot ∧ (s.updPwr f).host = s.host ∧ (s.updPwr f).mgmt = s.mgmt ∧ (s.updPwr f).dbg = s.dbg ∧
    (s.updPwr f).tele = s.tele ∧ (s.updPwr f).out = s.out := by
  refine ⟨rfl, rfl, rfl, rfl, rfl, rfl, rfl, rfl, rfl, rfl, rfl, rfl, rfl, rfl, rfl, rfl, rfl, rfl, rfl, rfl, rfl, rfl, rfl, rfl, rfl, rfl, rfl, rfl, rfl, rfl, rfl⟩

/-- A write of a field changes `csr` alone. -/
theorem setFld_eq (s : State) (d : Nat) (f : Fld) (v i : Nat) : s.setFld d f v i = { s with csr := (s.setFld d f v i).csr } := rfl

/-- A change of a slot changes `regions` alone. -/
theorem updSlot_eq (s : State) (r k : Nat) (f : Slot → Slot) : s.updSlot r k f = { s with regions := (s.updSlot r k f).regions } := rfl

end Sys2Proof.Machine
end

