-- ==== Sys2Proof/Laws/Stays.lean ====
section
/-! SUPPORT. What every operation of the model keeps: the queue of commands, and that a sound state stays sound. The relation, and how it
passes through conditionals, loops and results. -/

namespace Sys2Proof.Machine

set_option linter.unusedTactic false
set_option linter.unusedSimpArgs false
set_option linter.unreachableTactic false

/-- `s` was made from `b` by the model's operations: the queue is `b`'s, and `s` is sound if `b` is. -/
def State.stays (b s : State) : Prop := s.pending = b.pending ∧ (b.sound → s.sound)

variable {b₀ : State}

/-- What may come out of an optional result stays. -/
structure State.opts (b : State) (o : Option State) : Prop where
  stays : ∀ t, o = some t → b.stays t
structure State.opts1 {α : Type} (b : State) (o : Option (State × α)) : Prop where
  stays : ∀ t, o = some t → b.stays t.1
/-- The next state of a command, if it answers one, stays. -/
structure State.outs (b : State) (o : Host.Outcome State Fault Refusal) : Prop where
  stays : ∀ t, o = .next t → b.stays t
structure State.opts2 {α : Type} (b : State) (o : Option (α × State)) : Prop where
  stays : ∀ t, o = some t → b.stays t.2
theorem opts_some {s : State} (h : b₀.stays s) : b₀.opts (some s) := ⟨by rintro t ⟨⟩; exact h⟩
theorem opts_none : b₀.opts none := ⟨by rintro t ⟨⟩⟩
theorem opts1_some {α : Type} {s : State} {a : α} (h : b₀.stays s) : b₀.opts1 (some (s, a)) := ⟨by rintro t ⟨⟩; exact h⟩
theorem opts1_none {α : Type} : b₀.opts1 (none : Option (State × α)) := ⟨by rintro t ⟨⟩⟩
theorem outs_next {s : State} (h : b₀.stays s) : b₀.outs (.next s) := ⟨by rintro t ⟨⟩; exact h⟩
theorem outs_fault {f : Fault} : b₀.outs (.fault f) := ⟨by rintro t ⟨⟩⟩
theorem opts_ite {c : Prop} [Decidable c] {a b : Option State} (ha : c → b₀.opts a) (hb : ¬c → b₀.opts b) : b₀.opts (if c then a else b) := by
  split <;> simp_all
theorem opts1_ite {α : Type} {c : Prop} [Decidable c] {a b : Option (State × α)} (ha : c → b₀.opts1 a) (hb : ¬c → b₀.opts1 b) : b₀.opts1 (if c then a else b) := by
  split <;> simp_all
theorem outs_ite {c : Prop} [Decidable c] {a b : Host.Outcome State Fault Refusal} (ha : c → b₀.outs a) (hb : ¬c → b₀.outs b) : b₀.outs (if c then a else b) := by
  split <;> simp_all
theorem opts_map {α : Type} {o : Option α} {f : α → State} (h : ∀ x, b₀.stays (f x)) : b₀.opts (o.map f) := by
  refine ⟨fun t e => ?_⟩
  cases o <;> simp at e; subst e; exact h _
theorem opts_bind {p : Option State} {f : State → Option State} (h : b₀.opts p) (hf : ∀ s, b₀.stays s → b₀.opts (f s)) : b₀.opts (p.bind f) := by
  refine ⟨fun t e => ?_⟩
  cases p with
  | none => cases e
  | some x => exact (hf x (h.stays x rfl)).stays t e
theorem stays_refl (s : State) : s.stays s := ⟨rfl, id⟩
/-- The parts of a state that `stays` is about. -/
def State.core (b : State) (p : List Instr) (csr : List (Nat × Word64)) (cells : List Host.Cell) (n m : Nat) : Prop :=
  p = b.pending ∧ (b.sound → Memory.wf cells ∧ CsrStore.wf csr ∧ n = 128 ∧ m = 16)
theorem stays_mk {p c f r csr l e me mm cx ep cl rg ks fa tr ml ma rc ck dt ti wa cp as bo ho mg db te pw ou} : b₀.stays (State.mk p c f r csr l e me mm cx ep cl rg ks fa tr ml ma rc ck dt ti wa cp as bo ho mg db te pw ou) = b₀.core p csr me.cells cl.length rg.length := rfl
theorem stays_core {X : State} (h : b₀.stays X) : b₀.core X.pending X.csr X.mem.cells X.clusters.length X.regions.length := h
theorem stays_ite {c : Prop} [Decidable c] {a b : State} (ha : c → b₀.stays a) (hb : ¬c → b₀.stays b) : b₀.stays (if c then a else b) := by
  split <;> simp_all
theorem stays_of_fst {α : Type} {a : State} {b : α} {p : State × α} (e : p = (a, b)) (h : b₀.stays p.1) : b₀.stays a := by subst e; exact h
theorem stays_of_snd {α : Type} {a : State} {b : α} {p : α × State} (e : p = (b, a)) (h : b₀.stays p.2) : b₀.stays a := by subst e; exact h
theorem stays_of_some {a : State} {p : Option State} (e : p = some a) (h : b₀.opts p) : b₀.stays a := h.stays a e
theorem stays_of_some1 {α : Type} {a : State} {b : α} {p : Option (State × α)} (e : p = some (a, b)) (h : b₀.opts1 p) : b₀.stays a := h.stays _ e
theorem stays_rd {a : State} {b c} (h : b₀.stays a) : b₀.stays (Rd.mk a b c).st := h
theorem stays_iterd {c : Prop} [Decidable c] {a b : Rd} (ha : c → b₀.stays a.st) (hb : ¬c → b₀.stays b.st) : b₀.stays (if c then a else b).st := by
  split <;> simp_all
theorem stays_foldlrd {α : Type} {f : Rd → α → Rd} {l : List α} {s : Rd} (hf : ∀ s x, b₀.stays s.st → b₀.stays (f s x).st) (h : b₀.stays s.st) :
    b₀.stays (l.foldl f s).st := by
  induction l generalizing s with
  | nil => exact h
  | cons x l ih => exact ih (hf _ _ h)
theorem stays_pair {α : Type} {a : State} {b : α} (h : b₀.stays a) : b₀.stays (a, b).1 := h
theorem stays_pair2 {α : Type} {a : State} {b : α} (h : b₀.stays a) : b₀.stays (b, a).2 := h
theorem stays_ite1 {α : Type} {c : Prop} [Decidable c] {a b : State × α} (ha : c → b₀.stays a.1) (hb : ¬c → b₀.stays b.1) : b₀.stays (if c then a else b).1 := by
  split <;> simp_all
theorem stays_ite2 {α : Type} {c : Prop} [Decidable c] {a b : α × State} (ha : c → b₀.stays a.2) (hb : ¬c → b₀.stays b.2) : b₀.stays (if c then a else b).2 := by
  split <;> simp_all
theorem stays_foldl {α : Type} {f : State → α → State} {l : List α} {s : State} (hf : ∀ s x, b₀.stays s → b₀.stays (f s x)) (h : b₀.stays s) :
    b₀.stays (l.foldl f s) := by
  induction l generalizing s with
  | nil => exact h
  | cons x l ih => exact ih (hf _ _ h)
theorem stays_foldl1 {α β : Type} {f : State × β → α → State × β} {l : List α} {s : State × β} (hf : ∀ s x, b₀.stays s.1 → b₀.stays (f s x).1) (h : b₀.stays s.1) :
    b₀.stays (l.foldl f s).1 := by
  induction l generalizing s with
  | nil => exact h
  | cons x l ih => exact ih (hf _ _ h)
theorem stays_foldl2 {α β : Type} {f : β × State → α → β × State} {l : List α} {s : β × State} (hf : ∀ s x, b₀.stays s.2 → b₀.stays (f s x).2) (h : b₀.stays s.2) :
    b₀.stays (l.foldl f s).2 := by
  induction l generalizing s with
  | nil => exact h
  | cons x l ih => exact ih (hf _ _ h)
theorem stays_foldl11 {α β γ : Type} {f : (State × β) × γ → α → (State × β) × γ} {l : List α} {s : (State × β) × γ}
    (hf : ∀ s x, b₀.stays s.1.1 → b₀.stays (f s x).1.1) (h : b₀.stays s.1.1) : b₀.stays (l.foldl f s).1.1 := by
  induction l generalizing s with
  | nil => exact h
  | cons x l ih => exact ih (hf _ _ h)
theorem stays_of_some2 {α : Type} {a : State} {b : α} {p : Option (α × State)} (e : p = some (b, a)) (h : b₀.opts2 p) : b₀.stays a := h.stays _ e
theorem opts2_some {α : Type} {s : State} {a : α} (h : b₀.stays s) : b₀.opts2 (some (a, s)) := ⟨by rintro t ⟨⟩; exact h⟩
theorem opts2_none {α : Type} : b₀.opts2 (none : Option (α × State)) := ⟨by rintro t ⟨⟩⟩
theorem opts2_ite {α : Type} {c : Prop} [Decidable c] {a b : Option (α × State)} (ha : c → b₀.opts2 a) (hb : ¬c → b₀.opts2 b) : b₀.opts2 (if c then a else b) := by
  split <;> simp_all
theorem opts1_map {α β : Type} {o : Option β} {f : β → State × α} (h : ∀ x, b₀.stays (f x).1) : b₀.opts1 (o.map f) := by
  refine ⟨fun t e => ?_⟩
  cases o <;> simp at e; subst e; exact h _
theorem opts2_map {α β : Type} {o : Option β} {f : β → α × State} (h : ∀ x, b₀.stays (f x).2) : b₀.opts2 (o.map f) := by
  refine ⟨fun t e => ?_⟩
  cases o <;> simp at e; subst e; exact h _
theorem opts_bind_any {α : Type} {p : Option α} {f : α → Option State} (hf : ∀ a, b₀.opts (f a)) : b₀.opts (p.bind f) := by
  refine ⟨fun t e => ?_⟩
  cases p with
  | none => cases e
  | some x => exact (hf x).stays t e
theorem stays_elim {α : Type} {p : Option α} {s : State} {f : α → State} (h : b₀.stays s) (hf : ∀ a, b₀.stays (f a)) : b₀.stays (p.elim s f) := by
  cases p; exacts [h, hf _]
theorem stays_getD {p : Option State} {s : State} (h : b₀.opts p) (hs : b₀.stays s) : b₀.stays (p.getD s) := by
  cases p; exacts [hs, h.stays _ rfl]
theorem opts2_map_state {α : Type} {a : α} {p : Option State} (h : b₀.opts p) : b₀.opts2 (p.map fun t => (a, t)) := by
  refine ⟨fun t e => ?_⟩
  cases p <;> simp at e; subst e; exact h.stays _ rfl
theorem stays_cleared {X : State} {m : MemState} (h : b₀.stays X) (hm : m.cells = []) : b₀.stays { X with mem := m } :=
  ⟨h.1, fun g => ⟨by rw [hm]; exact ⟨List.Pairwise.nil, by simp⟩, (h.2 g).2⟩⟩

end Sys2Proof.Machine
end

