-- ==== Sys2Proof/Laws/StaysMemory.lean ====
section
/-! SUPPORT. Every operation of registers, events, memory, contexts and translation keeps the queue and the soundness of the state: one lemma for each. -/

namespace Sys2Proof.Machine

set_option linter.unusedTactic false
set_option linter.unusedSimpArgs false
set_option linter.unreachableTactic false

/-! ## Ops -/

theorem updCl_stays {b₀ s : State} {c : Nat} {f : Cluster → Cluster} (hs : b₀.stays s) :
    b₀.stays (State.updCl s c f) := ⟨hs.1, fun h => ⟨(hs.2 h).1, (hs.2 h).2.1, by simpa [State.updCl] using (hs.2 h).2.2.1, (hs.2 h).2.2.2⟩⟩

theorem updRg_stays {b₀ s : State} {r : Nat} {f : Region → Region} (hs : b₀.stays s) :
    b₀.stays (State.updRg s r f) := ⟨hs.1, fun h => ⟨(hs.2 h).1, (hs.2 h).2.1, (hs.2 h).2.2.1, by simpa [State.updRg] using (hs.2 h).2.2.2⟩⟩

theorem updSlot_stays {b₀ s : State} {r k : Nat} {f : Slot → Slot} (hs : b₀.stays s) :
    b₀.stays (State.updSlot s r k f) := by
  unfold State.updSlot
  with_reducible repeat' (first
    | assumption | apply updRg_stays)

theorem updMem_stays {b₀ s : State} {d : Nat} {f : MemDie → MemDie} (hs : b₀.stays s) :
    b₀.stays (State.updMem s d f) := by
  unfold State.updMem
  with_reducible repeat' (first
    | assumption | (simp only [stays_mk]; refine stays_core ?_))

theorem updCtx_stays {b₀ s : State} {d : Nat} {f : CtxDie → CtxDie} (hs : b₀.stays s) :
    b₀.stays (State.updCtx s d f) := by
  unfold State.updCtx
  with_reducible repeat' (first
    | assumption | (simp only [stays_mk]; refine stays_core ?_))

theorem emit_stays {b₀ s : State} {o : Output} (hs : b₀.stays s) :
    b₀.stays (State.emit s o) := by
  unfold State.emit
  with_reducible repeat' (first
    | assumption | (simp only [stays_mk]; refine stays_core ?_))

theorem drew_stays {b₀ s : State} {n : Nat} (hs : b₀.stays s) :
    b₀.stays (State.drew s n) := by
  unfold State.drew
  with_reducible repeat' (first
    | assumption | (simp only [stays_mk]; refine stays_core ?_))

theorem setReg_stays {b₀ s : State} {d : Nat} {r : Reg} {v i : Nat} (hs : b₀.stays s) :
    b₀.stays (State.setReg s d r v i) := ⟨hs.1, fun h => ⟨(hs.2 h).1, csrPut_wf _ _ _ _ (hs.2 h).2.1, (hs.2 h).2.2⟩⟩

theorem setFld_stays {b₀ s : State} {d : Nat} {f : Fld} {v i : Nat} (hs : b₀.stays s) :
    b₀.stays (State.setFld s d f v i) := by
  unfold State.setFld
  with_reducible repeat' (first
    | assumption | apply setReg_stays)

theorem orFld_stays {b₀ s : State} {d : Nat} {f : Fld} {m i : Nat} (hs : b₀.stays s) :
    b₀.stays (State.orFld s d f m i) := by
  unfold State.orFld
  with_reducible repeat' (first
    | assumption | apply setFld_stays)

theorem count32_stays {b₀ s : State} {d : Nat} {f : Fld} {n i : Nat} (hs : b₀.stays s) :
    b₀.stays (State.count32 s d f n i) := by
  unfold State.count32
  with_reducible repeat' (first
    | assumption | apply setFld_stays)

theorem recordFirst_stays {b₀ s : State} {d : Nat} {valid : Fld} {v i : Nat} (hs : b₀.stays s) :
    b₀.stays (State.recordFirst s d valid v i) := by
  unfold State.recordFirst
  with_reducible repeat' (first
    | assumption | apply stays_ite | apply setReg_stays | intro _)

theorem loseEvent_stays {b₀ s : State} {d : Nat} (hs : b₀.stays s) :
    b₀.stays (State.loseEvent s d) := by
  unfold State.loseEvent
  with_reducible repeat' (first
    | assumption | apply stays_ite | apply count32_stays | apply setFld_stays | intro _ | (simp only [stays_mk]; refine stays_core ?_))

theorem captureFirst_stays {b₀ s : State} {d : Nat} {e : EvEntry} (hs : b₀.stays s) :
    b₀.stays (State.captureFirst s d e) := by
  unfold State.captureFirst
  with_reducible repeat' (first
    | assumption | apply stays_ite | apply setReg_stays | intro _)

theorem intake_stays {b₀ s : State} {d : Nat} {e : EvEntry} (hs : b₀.stays s) :
    b₀.stays (State.intake s d e) := by
  unfold State.intake
  with_reducible repeat' (first
    | assumption | apply stays_ite | apply loseEvent_stays | apply setFld_stays | apply captureFirst_stays | intro _
    | (simp only [stays_mk]; refine stays_core ?_) | split)

theorem traceTake_stays {b₀ s : State} {b : List Byte} (hs : b₀.stays s) :
    b₀.stays (State.traceTake s b) := by
  unfold State.traceTake
  with_reducible repeat' (first
    | assumption | apply stays_ite | apply setFld_stays | apply intake_stays | intro _ | (simp only [stays_mk]; refine stays_core ?_))

theorem traceEvent_stays {b₀ s : State} {e : EvEntry} (hs : b₀.stays s) :
    b₀.stays (State.traceEvent s e) := by
  unfold State.traceEvent
  with_reducible repeat' (first
    | assumption | apply stays_ite | apply traceTake_stays | intro _ | (simp only [stays_mk]; refine stays_core ?_))

theorem raise_stays {b₀ s : State} {d u code detail : Nat} {i : EvInfo} (hs : b₀.stays s) :
    b₀.stays (State.raise s d u code detail i) := by
  unfold State.raise
  with_reducible repeat' (first
    | assumption | apply stays_ite | apply traceEvent_stays | apply intake_stays)

theorem reportLoss_stays {b₀ s : State} {d : Nat} (hs : b₀.stays s) :
    b₀.stays (State.reportLoss s d) := by
  unfold State.reportLoss
  with_reducible repeat' (first
    | assumption | apply stays_ite | apply raise_stays | intro _ | (simp only [stays_mk]; refine stays_core ?_))

theorem tally_stays {b₀ s : State} {d : Nat} {r : Reg} {i n : Nat} (hs : b₀.stays s) :
    b₀.stays (State.tally s d r i n) := by
  unfold State.tally
  with_reducible repeat' (first
    | assumption | apply stays_ite | apply setReg_stays | apply orFld_stays | apply raise_stays | intro _
    | (simp only [stays_mk]; refine stays_core ?_) | split)

theorem poke_stays {b₀ s : State} {a : Nat} {bs : List Byte} (hs : b₀.stays s) :
    b₀.stays (State.poke s a bs) := ⟨hs.1, fun h => ⟨cellsPut_wf _ _ _ (hs.2 h).1, (hs.2 h).2⟩⟩

/-! ## Memory -/

theorem updRec_stays {b₀ s : State} {d : Nat} {f : RecDie → RecDie} (hs : b₀.stays s) :
    b₀.stays (State.updRec s d f) := by
  unfold State.updRec
  with_reducible repeat' (first
    | assumption | (simp only [stays_mk]; refine stays_core ?_))

theorem requestCut_stays {b₀ s : State} (hs : b₀.stays s) :
    b₀.stays (State.requestCut s) := by
  unfold State.requestCut
  with_reducible repeat' (first
    | assumption | (simp only [stays_mk]; refine stays_core ?_))

theorem warn_stays {b₀ s : State} {d code : Nat} (hs : b₀.stays s) :
    b₀.stays (State.warn s d code) := by
  unfold State.warn
  with_reducible repeat' (first
    | assumption | apply stays_ite | apply tally_stays | apply raise_stays | apply updRec_stays | apply requestCut_stays | intro _
    | (simp only [stays_mk]; refine stays_core ?_))

theorem warnSram_stays {b₀ s : State} {d n : Nat} (hs : b₀.stays s) :
    b₀.stays (State.warnSram s d n) := by
  unfold State.warnSram
  with_reducible repeat' (first
    | assumption | apply stays_ite | apply updRec_stays | apply warn_stays | intro _)

theorem warnReplay_stays {b₀ s : State} {d n : Nat} (hs : b₀.stays s) :
    b₀.stays (State.warnReplay s d n) := by
  unfold State.warnReplay
  with_reducible repeat' (first
    | assumption | apply stays_ite | apply updRec_stays | apply warn_stays | intro _)

theorem copyRestart_stays {b₀ s : State} {ctx : Nat} (hs : b₀.stays s) :
    b₀.stays (State.copyRestart s ctx) := by
  unfold State.copyRestart
  with_reducible repeat' (first
    | assumption | apply stays_ite | apply tally_stays | intro _ | (simp only [stays_mk]; refine stays_core ?_) | split)

theorem State_mark_stays {b₀ : State} {s : State} {k : Nat} {poison : Bool} (hs : b₀.stays s) :
    b₀.stays (State.mark s k poison) := by
  unfold State.mark
  with_reducible repeat' (first
    | assumption | intro _ | (simp only [stays_mk]; refine stays_core ?_))

theorem bankWait_stays {b₀ : State} {s : State} {a : Nat} {beside : List Nat} (hs : b₀.stays s) :
    b₀.stays (State.bankWait s a beside) := by
  unfold State.bankWait
  with_reducible repeat' (first
    | assumption | apply stays_ite | apply tally_stays | intro _)

theorem sramUe_stays {b₀ s : State} {a : Nat} (hs : b₀.stays s) :
    b₀.stays (State.sramUe s a) := by
  unfold State.sramUe
  with_reducible repeat' (first
    | assumption | apply stays_ite | apply count32_stays | apply recordFirst_stays | apply raise_stays | intro _)

theorem sramCe_stays {b₀ s : State} {a : Nat} (hs : b₀.stays s) :
    b₀.stays (State.sramCe s a) := by
  unfold State.sramCe
  with_reducible repeat' (first
    | assumption | apply stays_ite | apply count32_stays | apply warnSram_stays)

theorem sramDecode_stays {b₀ : State} {s : State} {a : Nat} {ecc : Ecc} (hs : b₀.stays s) :
    b₀.stays (State.sramDecode s a ecc).1 := by
  unfold State.sramDecode
  with_reducible repeat' (first
    | assumption | refine stays_of_fst (by assumption) ?_ | apply stays_ite | apply stays_ite1 | apply sramUe_stays
    | apply sramCe_stays | intro _ | (simp only [stays_mk]; refine stays_core ?_) | split | dsimp only)

theorem carveHit_stays {b₀ s : State} {a : Nat} (hs : b₀.stays s) :
    b₀.stays (State.carveHit s a) := by
  unfold State.carveHit
  with_reducible repeat' (first
    | assumption | apply stays_ite | apply count32_stays | apply updMem_stays | apply raise_stays | intro _)

theorem sramStore_stays {b₀ : State} {s : State} {a : Nat} {bs : List Byte} {poison : Bool} {ecc : Ecc} (hs : b₀.stays s) :
    b₀.stays (State.sramStore s a bs poison ecc) := by
  unfold State.sramStore
  with_reducible repeat' (first
    | assumption | apply stays_ite | apply stays_ite1 | apply poke_stays | apply State_mark_stays | apply sramDecode_stays | intro _)

theorem sramWrite_stays {b₀ : State} {s : State} {a : Nat} {bs : List Byte} {poison : Nat} {ecc : EccList} (hs : b₀.stays s) :
    b₀.stays (State.sramWrite s a bs poison ecc) := by
  unfold State.sramWrite
  with_reducible repeat' (first
    | assumption | apply stays_foldl | apply stays_foldl1 | apply stays_foldl2 | apply sramStore_stays | intro _)

theorem updPc_stays {b₀ s : State} {d p : Nat} {f : Pc → Pc} (hs : b₀.stays s) :
    b₀.stays (State.updPc s d p f) := by
  unfold State.updPc
  with_reducible repeat' (first
    | assumption | apply stays_getD | apply updMem_stays)

theorem openRow_stays {b₀ s : State} {d g : Nat} (hs : b₀.stays s) :
    b₀.stays (State.openRow s d g) := by
  unfold State.openRow
  with_reducible repeat' (first
    | assumption | apply stays_ite | apply updPc_stays | apply tally_stays | intro _)

theorem hbmCe_stays {b₀ s : State} {d i : Nat} (hs : b₀.stays s) :
    b₀.stays (State.hbmCe s d i) := by
  unfold State.hbmCe
  with_reducible repeat' (first
    | assumption | apply stays_ite | apply stays_getD | apply count32_stays | apply updMem_stays | apply raise_stays | apply warn_stays
    | intro _)

theorem queueCwb_stays {b₀ s : State} {d p k : Nat} (hs : b₀.stays s) :
    b₀.stays (State.queueCwb s d p k) := by
  unfold State.queueCwb
  with_reducible repeat' (first
    | assumption | apply stays_ite | apply updPc_stays | apply count32_stays | intro _)

theorem hbmUe_stays {b₀ s : State} {d k : Nat} (hs : b₀.stays s) :
    b₀.stays (State.hbmUe s d k) := by
  unfold State.hbmUe
  with_reducible repeat' (first
    | assumption | apply count32_stays | apply recordFirst_stays | apply raise_stays)

theorem chunkFixed_stays {b₀ : State} {s : State} {d k : Nat} {l : HbmLoc} (hs : b₀.stays s) :
    b₀.stays (State.chunkFixed s d k l) := by
  unfold State.chunkFixed
  with_reducible repeat' (first
    | assumption | apply hbmCe_stays | apply queueCwb_stays | intro _ | (simp only [stays_mk]; refine stays_core ?_))

theorem chunkRead_stays {b₀ : State} {s : State} {k : Nat} {ecc : Ecc} (hs : b₀.stays s) :
    b₀.stays (State.chunkRead s k ecc).1 := by
  unfold State.chunkRead
  with_reducible repeat' (first
    | assumption | refine stays_of_fst (by assumption) ?_ | apply stays_ite | apply stays_ite1 | apply openRow_stays
    | apply tally_stays | apply count32_stays | apply hbmUe_stays | apply hbmCe_stays | apply queueCwb_stays
    | apply chunkFixed_stays | intro _ | (simp only [stays_mk]; refine stays_core ?_) | split | dsimp only)

theorem chunkWrite_stays {b₀ s : State} {k : Nat} {data : List Byte} {poison : Bool} (hs : b₀.stays s) :
    b₀.stays (State.chunkWrite s k data poison) := by
  unfold State.chunkWrite
  with_reducible repeat' (first
    | assumption | apply stays_ite | apply count32_stays | apply openRow_stays | apply tally_stays | apply poke_stays
    | apply State_mark_stays | intro _)

theorem serveWrite_stays {b₀ s : State} {d : Nat} {q : HbmReq} (hs : b₀.stays s) :
    b₀.stays (State.serveWrite s d q) := by
  unfold State.serveWrite
  with_reducible repeat' (first
    | assumption | apply stays_foldl | apply stays_foldl1 | apply stays_foldl2 | apply chunkWrite_stays | intro _)

theorem pushWrite_stays {b₀ : State} {s : State} {d g chunks : Nat} {data : List Byte} {poison : Nat} (hs : b₀.stays s) :
    b₀.stays (State.pushWrite s d g chunks data poison) := by
  unfold State.pushWrite
  with_reducible repeat' (first
    | assumption | apply updPc_stays | intro _)

theorem ctlChunk_stays {b₀ : State} {s : State} {d g c : Nat} {ecc : Ecc} (hs : b₀.stays s) :
    b₀.stays (State.ctlChunk s d g c ecc).1 := by
  unfold State.ctlChunk
  with_reducible repeat' (first
    | assumption | refine stays_of_fst (by assumption) ?_ | apply chunkRead_stays | intro _ | split | dsimp only)

theorem ctlGranule_stays {b₀ : State} {s : State} {d g chunks : Nat} {ecc : EccList} (hs : b₀.stays s) :
    b₀.stays (State.ctlGranule s d g chunks ecc).1 := by
  unfold State.ctlGranule
  with_reducible repeat' (first
    | assumption | apply stays_ite | apply stays_ite1 | apply stays_foldl | apply stays_foldl1 | apply stays_foldl2
    | apply ctlChunk_stays | intro _)

theorem serveTurn_stays {b₀ : State} {s : State} {d p : Nat} {w : Bool} (hs : b₀.stays s) :
    b₀.stays (State.serveTurn s d p w) := by
  unfold State.serveTurn
  with_reducible repeat' (first
    | assumption | apply stays_ite | apply tally_stays | apply updPc_stays | intro _ | (simp only [stays_mk]; refine stays_core ?_))

theorem wcOut_stays {b₀ s : State} {d : Nat} {e : WcEntry} (hs : b₀.stays s) :
    b₀.stays (State.wcOut s d e) := by
  unfold State.wcOut
  with_reducible repeat' (first
    | assumption | apply stays_ite | apply stays_ite1 | apply stays_foldl | apply stays_foldl1 | apply stays_foldl2 | apply tally_stays
    | apply pushWrite_stays | apply ctlChunk_stays | intro _)

theorem wcFree_stays {b₀ s : State} {d g : Nat} (hs : b₀.stays s) :
    b₀.stays (State.wcFree s d g) := by
  unfold State.wcFree
  with_reducible repeat' (first
    | assumption | apply updMem_stays)

theorem wcWrite_stays {b₀ : State} {s : State} {d g o : Nat} {bs : List Byte} {poison : Nat} (hs : b₀.stays s) :
    b₀.stays (State.wcWrite s d g o bs poison) := by
  unfold State.wcWrite
  with_reducible repeat' (first
    | assumption | apply stays_ite | apply wcOut_stays | apply wcFree_stays | apply tally_stays | apply updMem_stays | intro _
    | (simp only [stays_mk]; refine stays_core ?_) | split | dsimp only)

theorem lineDrop_stays {b₀ s : State} {d g : Nat} (hs : b₀.stays s) :
    b₀.stays (State.lineDrop s d g) := by
  unfold State.lineDrop
  with_reducible repeat' (first
    | assumption | apply updMem_stays)

theorem writeBack_stays {b₀ s : State} {d : Nat} {l : CLine} (hs : b₀.stays s) :
    b₀.stays (State.writeBack s d l) := by
  unfold State.writeBack
  with_reducible repeat' (first
    | assumption | apply stays_ite | apply tally_stays | apply pushWrite_stays | intro _)

theorem lineAlloc_stays {b₀ s : State} {d : Nat} {l : CLine} (hs : b₀.stays s) :
    b₀.stays (State.lineAlloc s d l) := by
  unfold State.lineAlloc
  with_reducible repeat' (first
    | assumption | apply writeBack_stays | apply lineDrop_stays | apply updMem_stays | intro _
    | (simp only [stays_mk]; refine stays_core ?_) | split)

theorem linePut_stays {b₀ s : State} {d : Nat} {l : CLine} {recent : Bool} (hs : b₀.stays s) :
    b₀.stays (State.linePut s d l recent) := by
  unfold State.linePut
  with_reducible repeat' (first
    | assumption | apply stays_ite | apply updMem_stays)

theorem discard_stays {b₀ s : State} {d g : Nat} (hs : b₀.stays s) :
    b₀.stays (State.discard s d g) := by
  unfold State.discard
  with_reducible repeat' (first
    | assumption | apply stays_ite | apply tally_stays | apply lineDrop_stays | apply wcFree_stays | intro _
    | (simp only [stays_mk]; refine stays_core ?_) | split)

theorem readTouch_stays {b₀ : State} {s : State} {d : Nat} {l : CLine} {h : Hint} (hs : b₀.stays s) :
    b₀.stays (State.readTouch s d l h) := by
  unfold State.readTouch
  with_reducible repeat' (first
    | assumption | apply linePut_stays | apply discard_stays | intro _ | (simp only [stays_mk]; refine stays_core ?_) | split
    | dsimp only)

theorem readHit_stays {b₀ : State} {s : State} {d : Nat} {l : CLine} {h : Hint} (hs : b₀.stays s) :
    b₀.stays (State.readHit s d l h) := by
  unfold State.readHit
  with_reducible repeat' (first
    | assumption | apply tally_stays | apply readTouch_stays | intro _)

theorem readFill_stays {b₀ s : State} {d g : Nat} {h : Hint} {mask : Nat} {data : List Byte} {poison : Nat} (hs : b₀.stays s) :
    b₀.stays (State.readFill s d g h mask data poison).1 := by
  unfold State.readFill
  with_reducible repeat' (first
    | assumption | refine stays_of_fst (by assumption) ?_ | apply stays_ite | apply stays_ite1 | apply stays_foldl | apply stays_foldl1
    | apply stays_foldl2 | apply wcFree_stays | apply lineAlloc_stays | apply discard_stays | intro _)

theorem hbmRead_stays {b₀ : State} {s : State} {a n : Nat} {ecc : EccList} (hs : b₀.stays s) :
    b₀.stays (State.hbmRead s a n ecc).1 := by
  unfold State.hbmRead
  with_reducible repeat' (first
    | assumption | refine stays_of_fst (by assumption) ?_ | apply readHit_stays | apply tally_stays | apply serveTurn_stays
    | apply ctlGranule_stays | apply readFill_stays | intro _ | split | dsimp only)

theorem hbmWrite_stays {b₀ : State} {s : State} {a : Nat} {bs : List Byte} {poison : Nat} (hs : b₀.stays s) :
    b₀.stays (State.hbmWrite s a bs poison) := by
  unfold State.hbmWrite
  with_reducible repeat' (first
    | assumption | apply stays_ite | apply updMem_stays | apply count32_stays | apply tally_stays | apply linePut_stays
    | apply wcFree_stays | apply lineAlloc_stays | apply wcWrite_stays | intro _ | (simp only [stays_mk]; refine stays_core ?_)
    | split | dsimp only)

theorem crossed_stays {b₀ : State} {s : State} {d a n : Nat} (hs : b₀.stays s) :
    b₀.stays (State.crossed s d a n) := by
  unfold State.crossed
  with_reducible repeat' (first
    | assumption | apply stays_ite | apply tally_stays | intro _)

theorem readPiece_stays {b₀ : State} {s : State} {d a n : Nat} {ecc : EccList} {paid : Bool} (hs : b₀.stays s) :
    b₀.stays (State.readPiece s d a n ecc paid).st := by
  unfold State.readPiece
  with_reducible repeat' (first
    | assumption | apply stays_ite | apply stays_ite1 | apply stays_iterd | apply stays_foldl | apply stays_foldl1
    | apply stays_foldl2 | apply stays_foldlrd | apply crossed_stays | apply hbmRead_stays | apply tally_stays
    | apply sramDecode_stays | intro _)

theorem carveNote_stays {b₀ : State} {s : State} {d : Nat} {l : List (Nat × Nat)} (hs : b₀.stays s) :
    b₀.stays (State.carveNote s d l) := by
  unfold State.carveNote
  with_reducible repeat' (first
    | assumption | apply carveHit_stays | intro _ | split | dsimp only)

theorem readRaw_stays {b₀ : State} {s : State} {d a n : Nat} {ecc : EccList} {paid : Bool} (hs : b₀.stays s) :
    b₀.stays (State.readRaw s d a n ecc paid).st := by
  unfold State.readRaw
  with_reducible repeat' (first
    | assumption | apply stays_foldl | apply stays_foldl1 | apply stays_foldl2 | apply stays_foldlrd | apply readPiece_stays
    | apply carveNote_stays | intro _)

theorem writePiece_stays {b₀ : State} {s : State} {d a : Nat} {bs : List Byte} {poison : Nat} {own : Option Nat} {ecc : EccList} {paid : Bool} (hs : b₀.stays s) :
    b₀.stays (State.writePiece s d a bs poison own ecc paid) := by
  unfold State.writePiece
  with_reducible repeat' (first
    | assumption | apply stays_ite | apply count32_stays | apply crossed_stays | apply hbmWrite_stays | apply updCl_stays
    | apply tally_stays | apply sramWrite_stays | intro _ | (simp only [stays_mk]; refine stays_core ?_))

theorem writeNote_stays {b₀ : State} {s : State} {d : Nat} {l : List (Nat × Nat)} {org : Origin} (hs : b₀.stays s) :
    b₀.stays (State.writeNote s d l org) := by
  unfold State.writeNote
  with_reducible repeat' (first
    | assumption | apply carveNote_stays | apply count32_stays | apply raise_stays | intro _ | split | dsimp only)

theorem writeBody_stays {b₀ : State} {s : State} {d a : Nat} {bs : List Byte} {poison : Nat → Nat} {org : Origin} {own : Option Nat} {ecc : EccList} {paid : Bool} (hs : b₀.stays s) :
    b₀.stays (State.writeBody s d a bs poison org own ecc paid) := by
  unfold State.writeBody
  with_reducible repeat' (first
    | assumption | apply stays_ite | apply stays_foldl | apply stays_foldl1 | apply stays_foldl2 | apply writePiece_stays | intro _)

theorem writeRaw_stays {b₀ : State} {s : State} {d a : Nat} {bs : List Byte} {poison : Bool} {org : Origin} {own : Option Nat} {ecc : EccList} {paid : Bool} (hs : b₀.stays s) :
    b₀.stays (State.writeRaw s d a bs poison org own ecc paid) := by
  unfold State.writeRaw
  with_reducible repeat' (first
    | assumption | apply stays_ite | apply writeNote_stays | apply writeBody_stays | intro _)

/-! ## Weights -/

theorem wtMap_stays {b₀ : State} {s : State} {d n a : Nat} (hs : b₀.stays s) :
    b₀.stays (State.wtMap s d n a).1 := by
  unfold State.wtMap
  with_reducible repeat' (first
    | assumption | refine stays_of_fst (by assumption) ?_ | apply updMem_stays | apply readPiece_stays | apply tally_stays | intro _
    | (simp only [stays_mk]; refine stays_core ?_) | split | dsimp only)

theorem wtFail_stays {b₀ s : State} {d n a cause : Nat} (hs : b₀.stays s) :
    b₀.stays (State.wtFail s d n a cause) := by
  unfold State.wtFail
  with_reducible repeat' (first
    | assumption | apply stays_ite | apply count32_stays | apply recordFirst_stays | apply raise_stays | intro _)

theorem expInsert_stays {b₀ s : State} {d : Nat} {b : ExpBlock} (hs : b₀.stays s) :
    b₀.stays (State.expInsert s d b) := by
  unfold State.expInsert
  with_reducible repeat' (first
    | assumption | apply updMem_stays)

theorem wtBlock_stays {b₀ : State} {s : State} {d n a entry : Nat} {ecc : EccList} (hs : b₀.stays s) :
    b₀.stays (State.wtBlock s d n a entry ecc).1 := by
  unfold State.wtBlock
  with_reducible repeat' (first
    | assumption | refine stays_of_fst (by assumption) ?_ | apply stays_ite | apply stays_ite1 | apply stays_iterd
    | apply stays_foldl | apply stays_foldl1 | apply stays_foldl2 | apply stays_foldlrd | apply wtFail_stays | apply tally_stays
    | apply readPiece_stays | apply expInsert_stays | intro _ | split | dsimp only)

theorem readWeight_stays {b₀ : State} {s : State} {d a n : Nat} {ecc : EccList} (hs : b₀.stays s) :
    b₀.stays (State.readWeight s d a n ecc).st := by
  unfold State.readWeight
  with_reducible repeat' (first
    | assumption | refine stays_of_fst (by assumption) ?_ | apply stays_ite | apply stays_ite1 | apply stays_iterd
    | apply readPiece_stays | apply wtMap_stays | apply wtBlock_stays | apply tally_stays | intro _ | split | dsimp only)

theorem read_stays {b₀ : State} {s : State} {d a n : Nat} {ecc : EccList} (hs : b₀.stays s) :
    b₀.stays (State.read s d a n ecc).st := by
  unfold State.read
  with_reducible repeat' (first
    | assumption | apply stays_foldl | apply stays_foldl1 | apply stays_foldl2 | apply stays_foldlrd | apply readWeight_stays
    | apply carveNote_stays | intro _)

theorem memServe_stays {b₀ : State} {s : State} {q : MemReq} (hs : b₀.stays s) :
    b₀.stays (State.memServe s q) := by
  unfold State.memServe
  with_reducible repeat' (first
    | assumption | apply stays_ite | apply stays_iterd | apply writeRaw_stays | apply read_stays | apply emit_stays | intro _
    | split | dsimp only)

theorem memRequest_stays {b₀ : State} {s : State} {q : MemReq} (hs : b₀.stays s) :
    b₀.stays (State.memRequest s q) := by
  unfold State.memRequest
  with_reducible repeat' (first
    | assumption | apply stays_ite | apply memServe_stays | intro _ | (simp only [stays_mk]; refine stays_core ?_))

theorem memResume_stays {b₀ : State} {s : State} (hs : b₀.stays s) :
    b₀.stays (State.memResume s) := by
  unfold State.memResume
  with_reducible repeat' (first
    | assumption | apply stays_foldl | apply stays_foldl1 | apply stays_foldl2 | apply memRequest_stays | intro _
    | (simp only [stays_mk]; refine stays_core ?_))

theorem execWeightSlotRead_stays {b₀ : State} {d : Fin 2} {pa n : Nat} {ecc : EccList} {s : State} (hs : b₀.stays s) :
    b₀.outs (execWeightSlotRead d pa n ecc s) := by
  unfold execWeightSlotRead
  with_reducible repeat' (first
    | assumption | apply stays_ite | apply stays_iterd | apply read_stays | apply emit_stays | apply outs_next | apply outs_fault
    | apply outs_ite | intro _)

theorem onInval_stays {b₀ s : State} {d : Nat} (hs : b₀.stays s) :
    b₀.stays (State.onInval s d) := by
  unfold State.onInval
  with_reducible repeat' (first
    | assumption | apply updMem_stays)

theorem onWw_stays {b₀ s : State} {d n v : Nat} (hs : b₀.stays s) :
    b₀.stays (State.onWw s d n v) := by
  unfold State.onWw
  with_reducible repeat' (first
    | assumption | apply setReg_stays | apply onInval_stays)

theorem onWm_stays {b₀ s : State} {d n v : Nat} (hs : b₀.stays s) :
    b₀.stays (State.onWm s d n v) := by
  unfold State.onWm
  with_reducible repeat' (first
    | assumption | apply setReg_stays | apply onInval_stays)

/-! ## Sram -/

theorem execMemoryWrite_stays {b₀ : State} {d : Fin 2} {outside : Bool} {pa : Nat} {data : List Byte} {m : WriteMeets} {s : State} (hs : b₀.stays s) :
    b₀.outs (execMemoryWrite d outside pa data m s) := by
  unfold execMemoryWrite
  with_reducible repeat' (first
    | assumption | apply stays_ite | apply bankWait_stays | apply memRequest_stays | apply outs_next | apply outs_fault
    | apply outs_ite | intro _)

theorem execMemoryRead_stays {b₀ : State} {d : Fin 2} {pa n : Nat} {m : ReadMeets} {s : State} (hs : b₀.stays s) :
    b₀.outs (execMemoryRead d pa n m s) := by
  unfold execMemoryRead
  with_reducible repeat' (first
    | assumption | apply stays_ite | apply bankWait_stays | apply memRequest_stays | apply outs_next | apply outs_fault
    | apply outs_ite | intro _)

theorem execExternalSramWrite_stays {b₀ : State} {pa : Nat} {data : List Byte} {poison : Bool} {s : State} (hs : b₀.stays s) :
    b₀.outs (execExternalSramWrite pa data poison s) := by
  unfold execExternalSramWrite
  with_reducible repeat' (first
    | assumption | apply stays_ite | apply memRequest_stays | apply outs_next | apply outs_fault | apply outs_ite | intro _)

theorem scrubPass_stays {b₀ s : State} {d : Nat} {ce ue : List Nat} (hs : b₀.stays s) :
    b₀.stays (State.scrubPass s d ce ue) := by
  unfold State.scrubPass
  with_reducible repeat' (first
    | assumption | apply stays_ite | apply stays_ite1 | apply stays_foldl | apply stays_foldl1 | apply stays_foldl2
    | apply sramDecode_stays | apply tally_stays | intro _)

theorem execSramScrubPass_stays {b₀ : State} {d : Fin 2} {ce ue : List Nat} {s : State} (hs : b₀.stays s) :
    b₀.outs (execSramScrubPass d ce ue s) := by
  unfold execSramScrubPass
  with_reducible repeat' (first
    | assumption | apply stays_ite | apply scrubPass_stays | apply outs_next | apply outs_ite | intro _)

theorem carveStart_stays {b₀ s : State} {d n : Nat} (hs : b₀.stays s) :
    b₀.stays (State.carveStart s d n) := by
  unfold State.carveStart
  with_reducible repeat' (first
    | assumption | apply setFld_stays)

theorem onCarve_stays {b₀ s : State} {d n : Nat} (hs : b₀.stays s) :
    b₀.stays (State.onCarve s d n) := by
  unfold State.onCarve
  with_reducible repeat' (first
    | assumption | apply stays_ite | apply updMem_stays | apply carveStart_stays | intro _)

theorem rehash_stays {b₀ s : State} {d n : Nat} (hs : b₀.stays s) :
    b₀.stays (State.rehash s d n) := by
  unfold State.rehash
  with_reducible repeat' (first
    | assumption | apply stays_foldl | apply stays_foldl1 | apply stays_foldl2 | apply writeBack_stays | apply lineDrop_stays | intro _)

theorem clearSram_stays {b₀ s : State} {d lo hi : Nat} (hs : b₀.stays s) :
    b₀.stays (State.clearSram s d lo hi) := ⟨hs.1, fun h => ⟨memory_filter_wf _ _ (hs.2 h).1, (hs.2 h).2⟩⟩

theorem carveEnds_stays {b₀ : State} {s : State} {d : Nat} (hs : b₀.stays s) :
    b₀.stays (State.carveEnds s d) := by
  unfold State.carveEnds
  with_reducible repeat' (first
    | assumption | apply rehash_stays | apply clearSram_stays | apply updMem_stays | apply setFld_stays | apply raise_stays
    | apply carveStart_stays | apply memResume_stays | intro _ | (simp only [stays_mk]; refine stays_core ?_) | split | dsimp only)

theorem execCarveTransitionDone_stays {b₀ : State} {d : Fin 2} {s : State} (hs : b₀.stays s) :
    b₀.outs (execCarveTransitionDone d s) := by
  unfold execCarveTransitionDone
  with_reducible repeat' (first
    | assumption | apply stays_ite | apply carveEnds_stays | apply outs_next | apply outs_ite | intro _)

theorem updBridge_stays {b₀ s : State} {d : Nat} {f : Bridge → Bridge} (hs : b₀.stays s) :
    b₀.stays (State.updBridge s d f) := by
  unfold State.updBridge
  with_reducible repeat' (first
    | assumption | apply updMem_stays)

theorem bridgeTrain_stays {b₀ s : State} {d fails : Nat} (hs : b₀.stays s) :
    b₀.stays (State.bridgeTrain s d fails) := by
  unfold State.bridgeTrain
  with_reducible repeat' (first
    | assumption | apply setFld_stays | apply updBridge_stays)

theorem execBridgeBeatReceive_stays {b₀ : State} {d : Fin 2} {seq : Nat} {b : BeatIn} {s : State} (hs : b₀.stays s) :
    b₀.outs (execBridgeBeatReceive d seq b s) := by
  unfold execBridgeBeatReceive
  with_reducible repeat' (first
    | assumption | apply stays_ite | apply tally_stays | apply count32_stays | apply emit_stays | apply updBridge_stays
    | apply outs_next | apply outs_fault | apply outs_ite | intro _ | (simp only [stays_mk]; refine stays_core ?_))

theorem execBridgeNak_stays {b₀ : State} {d : Fin 2} {seq beats : Nat} {s : State} (hs : b₀.stays s) :
    b₀.outs (execBridgeNak d seq beats s) := by
  unfold execBridgeNak
  with_reducible repeat' (first
    | assumption | apply stays_ite | apply bridgeTrain_stays | apply count32_stays | apply updBridge_stays | apply outs_next
    | apply outs_ite | intro _)

theorem onRetrain_stays {b₀ : State} {s : State} {d : Nat} {released : Bool} (hs : b₀.stays s) :
    b₀.stays (State.onRetrain s d released) := by
  unfold State.onRetrain
  with_reducible repeat' (first
    | assumption | apply stays_ite | apply setFld_stays | apply bridgeTrain_stays | intro _)

/-! ## Coherence -/

theorem clcTouch_stays {b₀ : State} {s : State} {d line : Nat} (hs : b₀.stays s) :
    b₀.stays (State.clcTouch s d line) := by
  unfold State.clcTouch
  with_reducible repeat' (first
    | assumption | apply updMem_stays | intro _ | (simp only [stays_mk]; refine stays_core ?_))

theorem clcDrop_stays {b₀ : State} {s : State} {d line : Nat} (hs : b₀.stays s) :
    b₀.stays (State.clcDrop s d line) := by
  unfold State.clcDrop
  with_reducible repeat' (first
    | assumption | apply updMem_stays | intro _ | (simp only [stays_mk]; refine stays_core ?_))

theorem setCoh_stays {b₀ : State} {s : State} {l : CohLn} (hs : b₀.stays s) :
    b₀.stays (State.setCoh s l) := by
  unfold State.setCoh
  with_reducible repeat' (first
    | assumption | apply stays_ite | apply clcDrop_stays | intro _ | (simp only [stays_mk]; refine stays_core ?_))

theorem sendRemote_stays {b₀ s : State} {l : CohLn} {m : CohMsg} (hs : b₀.stays s) :
    b₀.stays (State.sendRemote s l m).1 := by
  unfold State.sendRemote
  with_reducible repeat' (first
    | assumption | apply tally_stays)

theorem sendHome_stays {b₀ s : State} {l : CohLn} {m : CohMsg} {ev : Nat} (hs : b₀.stays s) :
    b₀.stays (State.sendHome s l m ev).1 := by
  unfold State.sendHome
  with_reducible repeat' (first
    | assumption | apply tally_stays)

theorem unexpected_stays {b₀ s : State} {d : Nat} {m : CohMsg} {seq : Nat} {st : Coh} {line : Nat} (hs : b₀.stays s) :
    b₀.stays (State.unexpected s d m seq st line) := by
  unfold State.unexpected
  with_reducible repeat' (first
    | assumption | apply recordFirst_stays | apply raise_stays)

theorem serveFar_stays {b₀ : State} {s : State} {a : CohAccess} (hs : b₀.stays s) :
    b₀.stays (State.serveFar s a) := by
  unfold State.serveFar
  with_reducible repeat' (first
    | assumption | apply count32_stays | apply emit_stays | intro _ | split | dsimp only)

theorem serve_stays {b₀ : State} {s : State} {a : CohAccess} (hs : b₀.stays s) :
    b₀.stays (State.serve s a) := by
  unfold State.serve
  with_reducible repeat' (first
    | assumption | apply stays_ite | apply stays_iterd | apply serveFar_stays | apply writeRaw_stays | apply readRaw_stays
    | apply emit_stays | intro _ | split | dsimp only)

theorem serveLost_stays {b₀ : State} {s : State} {a : CohAccess} (hs : b₀.stays s) :
    b₀.stays (State.serveLost s a) := by
  unfold State.serveLost
  with_reducible repeat' (first
    | assumption | apply serve_stays | apply serveFar_stays | intro _ | split | dsimp only)

theorem dirEvict_stays {b₀ : State} {s : State} {line : Nat} (hs : b₀.stays s) :
    b₀.stays (State.dirEvict s line) := by
  unfold State.dirEvict
  with_reducible repeat' (first
    | assumption | refine stays_of_fst (by assumption) ?_ | apply stays_ite | apply stays_ite1 | apply tally_stays
    | apply sendRemote_stays | apply setCoh_stays | intro _ | (simp only [stays_mk]; refine stays_core ?_) | split | dsimp only)

theorem grant_stays {b₀ : State} {s : State} {l : CohLn} {m : CohMsg} {dir : Coh} (hs : b₀.stays s) :
    b₀.stays (State.grant s l m dir).1 := by
  unfold State.grant
  with_reducible repeat' (first
    | assumption | apply stays_ite | apply stays_ite1 | apply clcDrop_stays | apply sendRemote_stays | intro _
    | (simp only [stays_mk]; refine stays_core ?_))

theorem homeServe_stays {b₀ : State} {x0 : Nat} {x1 : State} {x2 : CohLn} (hx1 : b₀.stays x1) :
    b₀.stays (State.homeServe x0 x1 x2).1 := by
  induction x0 generalizing x1 x2 with
  | zero =>
    unfold State.homeServe
    with_reducible repeat' (first
      | assumption | refine stays_of_fst (by assumption) ?_ | apply stays_ite | apply stays_ite1 | apply dirEvict_stays
      | apply grant_stays | apply serve_stays | apply serveLost_stays | apply sendRemote_stays | intro _
      | (simp only [stays_mk]; refine stays_core ?_) | split | dsimp only)
  | succ k ih =>
    unfold State.homeServe
    with_reducible repeat' (first
      | apply ih | assumption | refine stays_of_fst (by assumption) ?_ | apply stays_ite | apply stays_ite1 | apply dirEvict_stays
      | apply grant_stays | apply serve_stays | apply serveLost_stays | apply sendRemote_stays | intro _
      | (simp only [stays_mk]; refine stays_core ?_) | split | dsimp only)

theorem snoopDone_stays {b₀ s : State} {l : CohLn} {dir : Coh} (hs : b₀.stays s) :
    b₀.stays (State.snoopDone s l dir).1 := by
  unfold State.snoopDone
  with_reducible repeat' (first
    | assumption | apply homeServe_stays)

theorem crossing_stays {b₀ s : State} {l : CohLn} (hs : b₀.stays s) :
    b₀.stays (State.crossing s l).1 := by
  unfold State.crossing
  with_reducible repeat' (first
    | assumption | refine stays_of_fst (by assumption) ?_ | apply stays_ite | apply stays_ite1 | apply tally_stays
    | apply sendRemote_stays | apply snoopDone_stays | intro _ | (simp only [stays_mk]; refine stays_core ?_) | split)

theorem homeApply_stays {b₀ s : State} {l : CohLn} {p : CohPkt} (hs : b₀.stays s) :
    b₀.stays (State.homeApply s l p).1 := by
  unfold State.homeApply
  with_reducible repeat' (first
    | assumption | refine stays_of_fst (by assumption) ?_ | apply stays_ite | apply stays_ite1 | apply unexpected_stays
    | apply homeServe_stays | apply crossing_stays | apply sendRemote_stays | apply snoopDone_stays | intro _
    | (simp only [stays_mk]; refine stays_core ?_) | split)

theorem evictLine_stays {b₀ s : State} {l : CohLn} (hs : b₀.stays s) :
    b₀.stays (State.evictLine s l).1 := by
  unfold State.evictLine
  with_reducible repeat' (first
    | assumption | apply stays_ite | apply stays_ite1 | apply sendHome_stays)

theorem clcRoom_stays {b₀ : State} {s : State} {d line : Nat} (hs : b₀.stays s) :
    b₀.stays (State.clcRoom s d line) := by
  unfold State.clcRoom
  with_reducible repeat' (first
    | assumption | refine stays_of_fst (by assumption) ?_ | apply stays_ite | apply stays_ite1 | apply clcDrop_stays
    | apply evictLine_stays | apply setCoh_stays | apply clcTouch_stays | intro _ | split | dsimp only)

theorem clcHold_stays {b₀ : State} {s : State} {d line : Nat} (hs : b₀.stays s) :
    b₀.stays (State.clcHold s d line) := by
  unfold State.clcHold
  with_reducible repeat' (first
    | assumption | apply stays_ite | apply clcRoom_stays | apply tally_stays | apply setCoh_stays | intro _
    | (simp only [stays_mk]; refine stays_core ?_))

theorem remoteServe_stays {b₀ : State} {x0 : Nat} {x1 : State} {x2 : CohLn} (hx1 : b₀.stays x1) :
    b₀.stays (State.remoteServe x0 x1 x2).1 := by
  induction x0 generalizing x1 x2 with
  | zero =>
    unfold State.remoteServe
    with_reducible repeat' (first
      | assumption)
  | succ k ih =>
    unfold State.remoteServe
    with_reducible repeat' (first
      | apply ih | assumption | refine stays_of_fst (by assumption) ?_ | apply stays_ite | apply stays_ite1 | apply sendHome_stays
      | apply serve_stays | intro _ | (simp only [stays_mk]; refine stays_core ?_) | split)

theorem answerSnoop_stays {b₀ s : State} {l : CohLn} {m : CohMsg} (hs : b₀.stays s) :
    b₀.stays (State.answerSnoop s l m).1 := by
  unfold State.answerSnoop
  with_reducible repeat' (first
    | assumption | refine stays_of_fst (by assumption) ?_ | apply stays_ite | apply stays_ite1 | apply sendHome_stays | intro _
    | (simp only [stays_mk]; refine stays_core ?_) | split)

theorem granted_stays {b₀ s : State} {l : CohLn} {st : Coh} (hs : b₀.stays s) :
    b₀.stays (State.granted s l st).1 := by
  unfold State.granted
  with_reducible repeat' (first
    | assumption | refine stays_of_fst (by assumption) ?_ | apply remoteServe_stays | apply answerSnoop_stays | intro _
    | (simp only [stays_mk]; refine stays_core ?_) | split | dsimp only)

theorem remoteApply_stays {b₀ s : State} {l : CohLn} {p : CohPkt} (hs : b₀.stays s) :
    b₀.stays (State.remoteApply s l p).1 := by
  unfold State.remoteApply
  with_reducible repeat' (first
    | assumption | refine stays_of_fst (by assumption) ?_ | apply stays_ite | apply stays_ite1 | apply unexpected_stays
    | apply answerSnoop_stays | apply granted_stays | apply remoteServe_stays | intro _ | (simp only [stays_mk]; refine stays_core ?_)
    | split)

theorem homeArrive_stays {b₀ : State} {x0 : Nat} {x1 : State} {x2 : CohLn} {x3 : CohPkt} (hx1 : b₀.stays x1) :
    b₀.stays (State.homeArrive x0 x1 x2 x3).1 := by
  induction x0 generalizing x1 x2 x3 with
  | zero =>
    unfold State.homeArrive
    with_reducible repeat' (first
      | assumption)
  | succ k ih =>
    unfold State.homeArrive
    with_reducible repeat' (first
      | apply ih | assumption | refine stays_of_fst (by assumption) ?_ | apply stays_ite | apply stays_ite1 | apply homeApply_stays
      | apply unexpected_stays | intro _ | (simp only [stays_mk]; refine stays_core ?_) | split | dsimp only)

theorem remoteArrive_stays {b₀ : State} {x0 : Nat} {x1 : State} {x2 : CohLn} {x3 : CohPkt} (hx1 : b₀.stays x1) :
    b₀.stays (State.remoteArrive x0 x1 x2 x3).1 := by
  induction x0 generalizing x1 x2 x3 with
  | zero =>
    unfold State.remoteArrive
    with_reducible repeat' (first
      | assumption)
  | succ k ih =>
    unfold State.remoteArrive
    with_reducible repeat' (first
      | apply ih | assumption | refine stays_of_fst (by assumption) ?_ | apply stays_ite | apply stays_ite1 | apply remoteApply_stays
      | apply unexpected_stays | intro _ | (simp only [stays_mk]; refine stays_core ?_) | split | dsimp only)

theorem cohStart_stays {b₀ : State} {s : State} {a : CohAccess} (hs : b₀.stays s) :
    b₀.stays (State.cohStart s a) := by
  unfold State.cohStart
  with_reducible repeat' (first
    | assumption | apply stays_ite | apply stays_ite1 | apply homeServe_stays | apply clcRoom_stays | apply setCoh_stays
    | apply serve_stays | apply serveFar_stays | apply remoteServe_stays | intro _ | (simp only [stays_mk]; refine stays_core ?_))

theorem cohAdmit_stays {b₀ : State} {s : State} {a : CohAccess} (hs : b₀.stays s) :
    b₀.stays (State.cohAdmit s a) := by
  unfold State.cohAdmit
  with_reducible repeat' (first
    | assumption | apply stays_ite | apply stays_getD | apply cohStart_stays | apply memRequest_stays | intro _
    | (simp only [stays_mk]; refine stays_core ?_))

theorem cohResume_stays {b₀ : State} {s : State} (hs : b₀.stays s) :
    b₀.stays (State.cohResume s) := by
  unfold State.cohResume
  with_reducible repeat' (first
    | assumption | apply stays_foldl | apply stays_foldl1 | apply stays_foldl2 | apply cohAdmit_stays | intro _
    | (simp only [stays_mk]; refine stays_core ?_))

theorem execCoherentAccess_stays {b₀ : State} {d : Fin 2} {pa len : Nat} {wdata : Option (List Byte)} {tag : Nat} {s : State} (hs : b₀.stays s) :
    b₀.outs (execCoherentAccess d pa len wdata tag s) := by
  unfold execCoherentAccess
  with_reducible repeat' (first
    | assumption | apply cohAdmit_stays | apply outs_next | apply outs_fault | apply outs_ite | intro _)

theorem dirRetry_stays {b₀ : State} {s : State} {line : Nat} (hs : b₀.stays s) :
    b₀.stays (State.dirRetry s line) := by
  unfold State.dirRetry
  with_reducible repeat' (first
    | assumption | apply stays_foldl | apply stays_foldl1 | apply stays_foldl2 | apply homeServe_stays | apply setCoh_stays
    | intro _)

theorem atHome_stays {b₀ : State} {s : State} {m : CohMsg} {line seq ev : Nat} (hs : b₀.stays s) :
    b₀.stays (State.atHome s m line seq ev) := by
  unfold State.atHome
  with_reducible repeat' (first
    | assumption | apply stays_ite | apply stays_ite1 | apply homeArrive_stays | apply setCoh_stays | apply dirRetry_stays
    | apply cohResume_stays | intro _ | (simp only [stays_mk]; refine stays_core ?_))

theorem atRemote_stays {b₀ : State} {s : State} {m : CohMsg} {line seq : Nat} (hs : b₀.stays s) :
    b₀.stays (State.atRemote s m line seq) := by
  unfold State.atRemote
  with_reducible repeat' (first
    | assumption | apply stays_ite | apply stays_ite1 | apply remoteArrive_stays | apply setCoh_stays | apply cohResume_stays
    | intro _ | (simp only [stays_mk]; refine stays_core ?_))

theorem execRds_stays {b₀ : State} {line seq : Nat} {s : State} (hs : b₀.stays s) :
    b₀.outs (execRds line seq s) := by
  unfold execRds
  with_reducible repeat' (first
    | assumption | apply atHome_stays | apply outs_next)

theorem execRdm_stays {b₀ : State} {line seq : Nat} {s : State} (hs : b₀.stays s) :
    b₀.outs (execRdm line seq s) := by
  unfold execRdm
  with_reducible repeat' (first
    | assumption | apply atHome_stays | apply outs_next)

theorem execUpg_stays {b₀ : State} {line seq : Nat} {s : State} (hs : b₀.stays s) :
    b₀.outs (execUpg line seq s) := by
  unfold execUpg
  with_reducible repeat' (first
    | assumption | apply atHome_stays | apply outs_next)

theorem execEvs_stays {b₀ : State} {line seq : Nat} {s : State} (hs : b₀.stays s) :
    b₀.outs (execEvs line seq s) := by
  unfold execEvs
  with_reducible repeat' (first
    | assumption | apply atHome_stays | apply outs_next)

theorem execEvm_stays {b₀ : State} {line seq : Nat} {s : State} (hs : b₀.stays s) :
    b₀.outs (execEvm line seq s) := by
  unfold execEvm
  with_reducible repeat' (first
    | assumption | apply atHome_stays | apply outs_next)

theorem execRspi_stays {b₀ : State} {line seq : Nat} {s : State} (hs : b₀.stays s) :
    b₀.outs (execRspi line seq s) := by
  unfold execRspi
  with_reducible repeat' (first
    | assumption | apply atHome_stays | apply outs_next)

theorem execRsps_stays {b₀ : State} {line seq : Nat} {s : State} (hs : b₀.stays s) :
    b₀.outs (execRsps line seq s) := by
  unfold execRsps
  with_reducible repeat' (first
    | assumption | apply atHome_stays | apply outs_next)

theorem execRspd_stays {b₀ : State} {line seq : Nat} {s : State} (hs : b₀.stays s) :
    b₀.outs (execRspd line seq s) := by
  unfold execRspd
  with_reducible repeat' (first
    | assumption | apply atHome_stays | apply outs_next)

theorem execRspev_stays {b₀ : State} {line seq ev : Nat} {s : State} (hs : b₀.stays s) :
    b₀.outs (execRspev line seq ev s) := by
  unfold execRspev
  with_reducible repeat' (first
    | assumption | apply atHome_stays | apply outs_next)

theorem execSnps_stays {b₀ : State} {line seq : Nat} {s : State} (hs : b₀.stays s) :
    b₀.outs (execSnps line seq s) := by
  unfold execSnps
  with_reducible repeat' (first
    | assumption | apply atRemote_stays | apply outs_next)

theorem execSnpi_stays {b₀ : State} {line seq : Nat} {s : State} (hs : b₀.stays s) :
    b₀.outs (execSnpi line seq s) := by
  unfold execSnpi
  with_reducible repeat' (first
    | assumption | apply atRemote_stays | apply outs_next)

theorem execDats_stays {b₀ : State} {line seq : Nat} {s : State} (hs : b₀.stays s) :
    b₀.outs (execDats line seq s) := by
  unfold execDats
  with_reducible repeat' (first
    | assumption | apply atRemote_stays | apply outs_next)

theorem execDatm_stays {b₀ : State} {line seq : Nat} {s : State} (hs : b₀.stays s) :
    b₀.outs (execDatm line seq s) := by
  unfold execDatm
  with_reducible repeat' (first
    | assumption | apply atRemote_stays | apply outs_next)

theorem execGntm_stays {b₀ : State} {line seq : Nat} {s : State} (hs : b₀.stays s) :
    b₀.outs (execGntm line seq s) := by
  unfold execGntm
  with_reducible repeat' (first
    | assumption | apply atRemote_stays | apply outs_next)

theorem execEvack_stays {b₀ : State} {line seq : Nat} {s : State} (hs : b₀.stays s) :
    b₀.outs (execEvack line seq s) := by
  unfold execEvack
  with_reducible repeat' (first
    | assumption | apply atRemote_stays | apply outs_next)

theorem cohBridgeDown_stays {b₀ : State} {s : State} (hs : b₀.stays s) :
    b₀.stays (State.cohBridgeDown s) := by
  unfold State.cohBridgeDown
  with_reducible repeat' (first
    | assumption | apply stays_ite | apply stays_foldl | apply stays_foldl1 | apply stays_foldl2 | apply serveFar_stays
    | apply serveLost_stays | apply serve_stays | apply setCoh_stays | apply cohResume_stays | intro _
    | (simp only [stays_mk]; refine stays_core ?_) | split | dsimp only)

theorem onCwin_stays {b₀ s : State} {n v : Nat} (hs : b₀.stays s) :
    b₀.stays (State.onCwin s n v) := by
  unfold State.onCwin
  with_reducible repeat' (first
    | assumption | apply stays_ite | apply updMem_stays | apply setReg_stays | apply orFld_stays | intro _
    | (simp only [stays_mk]; refine stays_core ?_) | split)

theorem windowChanges_stays {b₀ : State} {s : State} {n : Nat} {c : CwinChange} (hs : b₀.stays s) :
    b₀.stays (State.windowChanges s n c) := by
  unfold State.windowChanges
  with_reducible repeat' (first
    | assumption | apply updMem_stays | apply setFld_stays | apply raise_stays | apply onCwin_stays | apply cohResume_stays
    | apply memResume_stays | intro _ | (simp only [stays_mk]; refine stays_core ?_) | split | dsimp only)

theorem execCwinFlushDone_stays {b₀ : State} {n : Fin 8} {s : State} (hs : b₀.stays s) :
    b₀.outs (execCwinFlushDone n s) := by
  unfold execCwinFlushDone
  with_reducible repeat' (first
    | assumption | apply windowChanges_stays | apply outs_next | intro _ | (simp only [stays_mk]; refine stays_core ?_) | split)

/-! ## Contexts -/

theorem checkEntry_stays {b₀ s : State} {d c : Nat} (hs : b₀.stays s) :
    b₀.stays (State.checkEntry s d c).1 := by
  unfold State.checkEntry
  with_reducible repeat' (first
    | assumption | refine stays_of_fst (by assumption) ?_ | apply stays_ite | apply stays_ite1 | apply updCtx_stays
    | apply recordFirst_stays | apply raise_stays | intro _ | (simp only [stays_mk]; refine stays_core ?_) | split)

theorem updCached_stays {b₀ s : State} {d c : Nat} {f : CtxEntry → CtxEntry} (hs : b₀.stays s) :
    b₀.stays (State.updCached s d c f) := by
  unfold State.updCached
  with_reducible repeat' (first
    | assumption | apply stays_ite | apply updCtx_stays)

theorem setDoorbell_stays {b₀ s : State} {d : Nat} {x : Doorbell} (hs : b₀.stays s) :
    b₀.stays (State.setDoorbell s d x) := by
  unfold State.setDoorbell
  with_reducible repeat' (first
    | assumption | apply stays_ite | apply updCtx_stays)

theorem joinFill_stays {b₀ s : State} {d c : Nat} (hs : b₀.stays s) :
    b₀.stays (State.joinFill s d c) := by
  unfold State.joinFill
  with_reducible repeat' (first
    | assumption | apply stays_ite | apply updCtx_stays | intro _)

theorem evictCtx_stays {b₀ s : State} {d : Nat} {e : CtxEntry} (hs : b₀.stays s) :
    b₀.stays (State.evictCtx s d e) := by
  unfold State.evictCtx
  with_reducible repeat' (first
    | assumption | apply writeRaw_stays | apply updCtx_stays | apply tally_stays)

theorem fillAt_stays {b₀ : State} {s : State} {d c i : Nat} (hs : b₀.stays s) :
    b₀.stays (State.fillAt s d c i) := by
  unfold State.fillAt
  with_reducible repeat' (first
    | assumption | apply stays_ite | apply stays_ite1 | apply checkEntry_stays | apply updCtx_stays | apply tally_stays
    | apply clcHold_stays | intro _ | (simp only [stays_mk]; refine stays_core ?_))

theorem execContextFill_stays {b₀ : State} {d : Fin 2} {s : State} (hs : b₀.stays s) :
    b₀.outs (execContextFill d s) := by
  unfold execContextFill
  with_reducible repeat' (first
    | assumption | apply stays_ite | apply updCtx_stays | apply fillAt_stays | apply evictCtx_stays | apply joinFill_stays
    | apply outs_next | apply outs_fault | apply outs_ite | intro _ | (simp only [stays_mk]; refine stays_core ?_) | split
    | dsimp only)

theorem fillWaitClock_stays {b₀ : State} {s : State} {d : Nat} (hs : b₀.stays s) :
    b₀.stays (State.fillWaitClock s d) := by
  unfold State.fillWaitClock
  with_reducible repeat' (first
    | assumption | apply stays_ite | apply tally_stays | intro _ | split | dsimp only)

theorem onRefresh_stays {b₀ s : State} {c : Nat} (hs : b₀.stays s) :
    b₀.stays (State.onRefresh s c) := by
  unfold State.onRefresh
  with_reducible repeat' (first
    | assumption | apply joinFill_stays)

theorem dropIdle_stays {b₀ s : State} {d : Nat} (hs : b₀.stays s) :
    b₀.stays (State.dropIdle s d) := by
  unfold State.dropIdle
  with_reducible repeat' (first
    | assumption | apply stays_ite | apply stays_foldl | apply stays_foldl1 | apply stays_foldl2 | apply evictCtx_stays
    | apply joinFill_stays | intro _)

theorem onCtxDrop_stays {b₀ s : State} (hs : b₀.stays s) :
    b₀.stays (State.onCtxDrop s) := by
  unfold State.onCtxDrop
  with_reducible repeat' (first
    | assumption | apply dropIdle_stays)

theorem onCtxBase_stays {b₀ s : State} {v : Nat} (hs : b₀.stays s) :
    b₀.stays (State.onCtxBase s v) := by
  unfold State.onCtxBase
  with_reducible repeat' (first
    | assumption | apply stays_ite | apply raise_stays | apply setReg_stays | intro _)

theorem execQuotaPeriodEnd_stays {b₀ : State} {s : State} (hs : b₀.stays s) :
    b₀.outs (execQuotaPeriodEnd s) := by
  unfold execQuotaPeriodEnd
  with_reducible repeat' (first
    | assumption | apply updCtx_stays | apply outs_next | apply outs_fault | apply outs_ite | intro _
    | (simp only [stays_mk]; refine stays_core ?_))

/-! ## Translate -/

theorem rtlbInsert_stays {b₀ s : State} {d i : Nat} {e : TlbEntry} (hs : b₀.stays s) :
    b₀.stays (State.rtlbInsert s d i e) := by
  unfold State.rtlbInsert
  with_reducible repeat' (first
    | assumption | apply stays_getD | apply updCtx_stays)

theorem wcacheInsert_stays {b₀ s : State} {d : Nat} {e : WalkEntry} (hs : b₀.stays s) :
    b₀.stays (State.wcacheInsert s d e) := by
  unfold State.wcacheInsert
  with_reducible repeat' (first
    | assumption | apply updCtx_stays)

theorem tableRead_stays {b₀ : State} {s : State} {d t level va : Nat} {ecc : Ecc} (hs : b₀.stays s) :
    b₀.stays (State.tableRead s d t level va ecc).1 := by
  unfold State.tableRead
  with_reducible repeat' (first
    | assumption | apply stays_ite | apply stays_ite1 | apply stays_iterd | apply read_stays | apply tally_stays | intro _)

theorem walkFrom_stays {b₀ : State} {x0 : Nat} {x1 : State} {x2 x3 x4 x5 x6 x7 : Nat} (hx1 : b₀.stays x1) :
    b₀.stays (State.walkFrom x0 x1 x2 x3 x4 x5 x6 x7).1 := by
  induction x0 generalizing x1 x2 x3 x4 x5 x6 x7 with
  | zero =>
    unfold State.walkFrom
    with_reducible repeat' (first
      | assumption)
  | succ k ih =>
    unfold State.walkFrom
    with_reducible repeat' (first
      | apply ih | assumption | refine stays_of_fst (by assumption) ?_ | apply tableRead_stays | apply wcacheInsert_stays | intro _
      | (simp only [stays_mk]; refine stays_core ?_) | split | dsimp only)

theorem walk_stays {b₀ s : State} {d c va : Nat} (hs : b₀.stays s) :
    b₀.stays (State.walk s d c va).1 := by
  unfold State.walk
  with_reducible repeat' (first
    | assumption | apply stays_ite | apply stays_ite1 | apply walkFrom_stays | intro _)

theorem lookup_stays {b₀ : State} {s : State} {d : Nat} {i : Option Nat} {c va : Nat} (hs : b₀.stays s) :
    b₀.stays (State.lookup s d i c va).1 := by
  unfold State.lookup
  with_reducible repeat' (first
    | assumption | refine stays_of_fst (by assumption) ?_ | apply tally_stays | apply walk_stays | intro _ | split | dsimp only)

theorem keepLeaf_stays {b₀ : State} {s : State} {d : Nat} {i : Option Nat} {c va : Nat} {e : TlbEntry} (hs : b₀.stays s) :
    b₀.stays (State.keepLeaf s d i c va e) := by
  unfold State.keepLeaf
  with_reducible repeat' (first
    | assumption | apply stays_ite | apply updCtx_stays | apply rtlbInsert_stays | intro _
    | (simp only [stays_mk]; refine stays_core ?_) | split | dsimp only)

theorem xfault_stays {b₀ s : State} {d c va : Nat} {ty : AccTy} {agent i : Nat} {f : XFault} (hs : b₀.stays s) :
    b₀.stays (State.xfault s d c va ty agent i f) := by
  unfold State.xfault
  with_reducible repeat' (first
    | assumption | apply stays_ite | apply count32_stays | apply setReg_stays | apply raise_stays | intro _)

theorem translate_stays {b₀ : State} {s : State} {d : Nat} {i : Option Nat} {c va : Nat} {ty : AccTy} {agent : Nat} (hs : b₀.stays s) :
    b₀.stays (State.translate s d i c va ty agent).1 := by
  unfold State.translate
  with_reducible repeat' (first
    | assumption | refine stays_of_fst (by assumption) ?_ | apply stays_getD | apply lookup_stays | apply keepLeaf_stays
    | apply xfault_stays | intro _ | split | dsimp only)

theorem translateRange_stays {b₀ s : State} {d : Nat} {i : Option Nat} {c va n : Nat} {ty : AccTy} {agent : Nat} (hs : b₀.stays s) :
    b₀.stays (State.translateRange s d i c va n ty agent).1 := by
  unfold State.translateRange
  with_reducible repeat' (first
    | assumption | refine stays_of_fst (by assumption) ?_ | apply stays_foldl | apply stays_foldl1 | apply stays_foldl2
    | apply translate_stays | intro _ | (simp only [stays_mk]; refine stays_core ?_) | split | dsimp only)

theorem execTranslationMiss_stays {b₀ : State} {d : Fin 2} {c : Fin 4096} {w : WalkWaiter} {s : State} (hs : b₀.stays s) :
    b₀.outs (execTranslationMiss d c w s) := by
  unfold execTranslationMiss
  with_reducible repeat' (first
    | assumption | apply stays_ite | apply tally_stays | apply updCtx_stays | apply outs_next | apply outs_ite | intro _
    | (simp only [stays_mk]; refine stays_core ?_) | split)

theorem walkReturn_stays {b₀ : State} {s : State} {d : Nat} {w : Walk} {ecc : Ecc} (hs : b₀.stays s) :
    b₀.stays (State.walkReturn s d w ecc).1 := by
  unfold State.walkReturn
  with_reducible repeat' (first
    | assumption | refine stays_of_fst (by assumption) ?_ | apply stays_ite | apply stays_ite1 | apply stays_foldl
    | apply stays_foldl1 | apply stays_foldl2 | apply tableRead_stays | apply wcacheInsert_stays | apply updCtx_stays
    | apply rtlbInsert_stays | intro _ | (simp only [stays_mk]; refine stays_core ?_) | split | dsimp only)

theorem walkEnd_stays {b₀ s : State} {d n : Nat} (hs : b₀.stays s) :
    b₀.stays (State.walkEnd s d n) := by
  unfold State.walkEnd
  with_reducible repeat' (first
    | assumption | apply updCtx_stays | intro _ | (simp only [stays_mk]; refine stays_core ?_) | split | dsimp only)

theorem invStart_stays {b₀ s : State} {d : Nat} {q : InvReq} (hs : b₀.stays s) :
    b₀.stays (State.invStart s d q) := by
  unfold State.invStart
  with_reducible repeat' (first
    | assumption | apply stays_foldl | apply stays_foldl1 | apply stays_foldl2 | apply updCtx_stays | apply updRg_stays
    | apply setFld_stays | intro _)

theorem onInv_stays {b₀ s : State} {d : Nat} (hs : b₀.stays s) :
    b₀.stays (State.onInv s d) := by
  unfold State.onInv
  with_reducible repeat' (first
    | assumption | apply stays_ite | apply updCtx_stays | apply invStart_stays | intro _)

theorem execMmuInvDone_stays {b₀ : State} {d : Fin 2} {s : State} (hs : b₀.stays s) :
    b₀.outs (execMmuInvDone d s) := by
  unfold execMmuInvDone
  with_reducible repeat' (first
    | assumption | apply stays_ite | apply updCtx_stays | apply setFld_stays | apply tally_stays | apply invStart_stays | apply outs_next
    | apply outs_ite | intro _ | (simp only [stays_mk]; refine stays_core ?_) | split)

end Sys2Proof.Machine
end

