-- ==== Sys2Proof/Laws/StaysEngines.lean ====
section
/-! SUPPORT. Every operation of the matrix and vector engines and the DMA keeps the queue and the soundness of the state: one lemma for each. -/

namespace Sys2Proof.Machine

set_option linter.unusedTactic false
set_option linter.unusedSimpArgs false
set_option linter.unreachableTactic false

/-! ## Tiles -/

theorem dealerFirst_stays {b₀ s : State} {r k code va det : Nat} (hs : b₀.stays s) :
    b₀.stays (State.dealerFirst s r k code va det) := by
  unfold State.dealerFirst
  with_reducible repeat' (first
    | assumption | apply stays_ite | apply setReg_stays | intro _)

theorem itemFault_stays {b₀ s : State} {r k va : Nat} {f : FaultInfo} (hs : b₀.stays s) :
    b₀.stays (State.itemFault s r k va f) := by
  unfold State.itemFault
  with_reducible repeat' (first
    | assumption | apply stays_ite | apply updSlot_stays | apply raise_stays | apply dealerFirst_stays | apply orFld_stays
    | apply setDoorbell_stays | intro _)

theorem readMarked_stays {b₀ : State} {s : State} {d a n : Nat} {ecc : EccList} (hs : b₀.stays s) :
    b₀.stays (State.readMarked s d a n ecc).1 := by
  unfold State.readMarked
  with_reducible repeat' (first
    | assumption | apply stays_foldl | apply stays_foldl1 | apply stays_foldl2 | apply stays_foldlrd | apply readWeight_stays
    | intro _)

theorem writeMarked_stays {b₀ : State} {s : State} {d a : Nat} {l : List PByte} {org : Origin} {own : Option Nat} (hs : b₀.stays s) :
    b₀.stays (State.writeMarked s d a l org own) := by
  unfold State.writeMarked
  with_reducible repeat' (first
    | assumption | apply writeBody_stays | intro _)

theorem readPieces_stays {b₀ s : State} {d : Nat} {l : List (Nat × Nat)} {ecc : EccList} (hs : b₀.stays s) :
    b₀.stays (State.readPieces s d l ecc).1 :=
  stays_foldl11 (fun _ _ h => readMarked_stays h) (carveNote_stays hs)

theorem writePieces_stays {b₀ : State} {s : State} {d : Nat} {l : List (Nat × Nat)} {data : List PByte} {org : Origin} {own : Option Nat} (hs : b₀.stays s) :
    b₀.stays (State.writePieces s d l data org own) := by
  unfold State.writePieces
  with_reducible repeat' (first
    | assumption | apply stays_foldl | apply stays_foldl1 | apply stays_foldl2 | apply writeMarked_stays | apply writeNote_stays
    | intro _)

/-! ## Hands -/

theorem updHand_stays {b₀ s : State} {c : Nat} {f : Hand → Hand} (hs : b₀.stays s) :
    b₀.stays (State.updHand s c f) := by
  unfold State.updHand
  with_reducible repeat' (first
    | assumption | apply updCl_stays)

theorem updWord_stays {b₀ s : State} {c i : Nat} {f : HandWord → HandWord} (hs : b₀.stays s) :
    b₀.stays (State.updWord s c i f) := by
  unfold State.updWord
  with_reducible repeat' (first
    | assumption | apply updHand_stays)

theorem setWord_stays {b₀ s : State} {c i : Nat} {p : WordSt} (hs : b₀.stays s) :
    b₀.stays (State.setWord s c i p) := by
  unfold State.setWord
  with_reducible repeat' (first
    | assumption | apply updWord_stays)

theorem hashWrite_stays {b₀ s : State} {c hi x : Nat} {bs : List Byte} (hs : b₀.stays s) :
    b₀.stays (State.hashWrite s c hi x bs) := by
  unfold State.hashWrite
  with_reducible repeat' (first
    | assumption | apply stays_ite | apply updHand_stays)

theorem handWrite_stays {b₀ s : State} {c i o : Nat} {bs : List Byte} (hs : b₀.stays s) :
    b₀.stays (State.handWrite s c i o bs) := by
  unfold State.handWrite
  with_reducible repeat' (first
    | assumption | apply stays_foldl | apply stays_foldl1 | apply stays_foldl2 | apply writeRaw_stays | apply updCl_stays
    | apply hashWrite_stays | intro _)

theorem sendPartial_stays {b₀ : State} {s : State} {h : Hand} {w : Nat} {b : Bank} {isInt poisoned : Bool} (hs : b₀.stays s) :
    b₀.stays (State.sendPartial s h w b isInt poisoned) := by
  unfold State.sendPartial
  with_reducible repeat' (first
    | assumption | intro _ | (simp only [stays_mk]; refine stays_core ?_) | split | dsimp only)

theorem sendPoisoned_stays {b₀ s : State} {h : Hand} (hs : b₀.stays s) :
    b₀.stays (State.sendPoisoned s h) := by
  unfold State.sendPoisoned
  with_reducible repeat' (first
    | assumption | apply stays_foldl | apply stays_foldl1 | apply stays_foldl2 | apply sendPartial_stays | intro _)

theorem abandonOne_stays {b₀ : State} {s : State} {c e chunks : Nat} {bubble : Bool} (hs : b₀.stays s) :
    b₀.stays (State.abandonOne s c e chunks bubble) := by
  unfold State.abandonOne
  with_reducible repeat' (first
    | assumption | apply stays_ite | apply drew_stays | apply tally_stays | intro _)

theorem abandonWork_stays {b₀ : State} {s : State} {c : Nat} (hs : b₀.stays s) :
    b₀.stays (State.abandonWork s c) := by
  unfold State.abandonWork
  with_reducible repeat' (first
    | assumption | apply stays_foldl | apply stays_foldl1 | apply stays_foldl2 | apply stays_getD | apply abandonOne_stays
    | apply updCl_stays | intro _)

theorem poisonHand_stays {b₀ : State} {s : State} {c : Nat} (hs : b₀.stays s) :
    b₀.stays (State.poisonHand s c) := by
  unfold State.poisonHand
  with_reducible repeat' (first
    | assumption | apply updHand_stays | apply abandonWork_stays | apply updCl_stays | intro _
    | (simp only [stays_mk]; refine stays_core ?_))

theorem faultHand_stays {b₀ : State} {s : State} {c : Nat} {h : Hand} {va : Nat} {f : FaultInfo} (hs : b₀.stays s) :
    b₀.stays (State.faultHand s c h va f) := by
  unfold State.faultHand
  with_reducible repeat' (first
    | assumption | apply itemFault_stays | apply updHand_stays | apply abandonWork_stays | intro _
    | (simp only [stays_mk]; refine stays_core ?_))

theorem recordMatrix_stays {b₀ s : State} {c cause engine offset : Nat} (hs : b₀.stays s) :
    b₀.stays (State.recordMatrix s c cause engine offset) := by
  unfold State.recordMatrix
  with_reducible repeat' (first
    | assumption | apply orFld_stays | apply recordFirst_stays | apply raise_stays)

theorem recordVector_stays {b₀ s : State} {c cause offset chain : Nat} {run : Bool} {comb : Option Nat} (hs : b₀.stays s) :
    b₀.stays (State.recordVector s c cause offset chain run comb) := by
  unfold State.recordVector
  with_reducible repeat' (first
    | assumption | apply stays_getD | apply orFld_stays | apply recordFirst_stays | apply raise_stays)

theorem badGranules_stays {b₀ s : State} {c o n : Nat} (hs : b₀.stays s) :
    b₀.stays (State.badGranules s c o n).1 := by
  unfold State.badGranules
  with_reducible repeat' (first
    | assumption | apply stays_ite | apply stays_ite1 | apply stays_foldl | apply stays_foldl1 | apply stays_foldl2 | apply sramUe_stays
    | intro _)

theorem lineFails_stays {b₀ : State} {s : State} {c o : Nat} (hs : b₀.stays s) :
    b₀.stays (State.lineFails s c o) := by
  unfold State.lineFails
  with_reducible repeat' (first
    | assumption | apply sramDecode_stays | intro _)

/-! ## Matrix -/

theorem feedErrors_stays {b₀ s : State} {c base n : Nat} {rowsOf : Nat → List Nat} {mask : Nat} (hs : b₀.stays s) :
    b₀.stays (State.feedErrors s c base n rowsOf mask).1 := by
  unfold State.feedErrors
  with_reducible repeat' (first
    | assumption | apply stays_ite | apply stays_ite1 | apply badGranules_stays | apply count32_stays)

theorem rowErrors_stays {b₀ s : State} {c : Nat} {q : RowSource} {rmask : Nat} (hs : b₀.stays s) :
    b₀.stays (State.rowErrors s c q rmask).1 := by
  unfold State.rowErrors
  with_reducible repeat' (first
    | assumption | apply stays_ite | apply stays_ite1 | apply feedErrors_stays | intro _)

theorem colErrors_stays {b₀ s : State} {c w cmask : Nat} (hs : b₀.stays s) :
    b₀.stays (State.colErrors s c w cmask).1 := by
  unfold State.colErrors
  with_reducible repeat' (first
    | assumption | apply stays_ite | apply stays_ite1 | apply feedErrors_stays | intro _)

theorem mmaFeed_stays {b₀ s : State} {c : Nat} {qs : List RowSource} {rmask cmask : Nat} (hs : b₀.stays s) :
    b₀.stays (State.mmaFeed s c qs rmask cmask).1 := by
  unfold State.mmaFeed
  with_reducible repeat' (first
    | assumption | refine stays_of_fst (by assumption) ?_ | apply stays_foldl | apply stays_foldl1 | apply stays_foldl2
    | apply rowErrors_stays | apply colErrors_stays | intro _ | (simp only [stays_mk]; refine stays_core ?_) | split | dsimp only)

theorem updEng_stays {b₀ s : State} {c e : Nat} {f : Engine → Engine} (hs : b₀.stays s) :
    b₀.stays (State.updEng s c e f) := by
  unfold State.updEng
  with_reducible repeat' (first
    | assumption | apply updCl_stays)

theorem poisonFeed_stays {b₀ s : State} {c o : Nat} (hs : b₀.stays s) :
    b₀.stays (State.poisonFeed s c o) := by
  unfold State.poisonFeed
  with_reducible repeat' (first
    | assumption | apply recordMatrix_stays | apply poisonHand_stays)

theorem accept_stays {b₀ s : State} {c e widx w bank : Nat} {rs : List RowSource} {rmask cmask : Nat} {reqs : List BatReq} (hs : b₀.stays s) :
    b₀.stays (State.accept s c e widx w bank rs rmask cmask reqs) := by
  unfold State.accept
  with_reducible repeat' (first
    | assumption | refine stays_of_fst (by assumption) ?_ | apply mmaFeed_stays | apply poisonFeed_stays | apply updEng_stays | intro _
    | (simp only [stays_mk]; refine stays_core ?_) | split | dsimp only)

theorem startMma_stays {b₀ s : State} {c e : Nat} {h : Hand} {i w : Nat} (hs : b₀.stays s) :
    b₀.stays (State.startMma s c e h i w) := by
  unfold State.startMma
  with_reducible repeat' (first
    | assumption | apply faultHand_stays | apply setWord_stays | apply accept_stays | intro _
    | (simp only [stays_mk]; refine stays_core ?_) | split)

theorem execMma_stays {b₀ : State} {c : Fin 128} {e : Fin 4} {s : State} (hs : b₀.stays s) :
    b₀.outs (execMma c e s) := by
  unfold execMma
  with_reducible repeat' (first
    | assumption | apply stays_ite | apply startMma_stays | apply outs_next | apply outs_ite | intro _
    | (simp only [stays_mk]; refine stays_core ?_) | split)

theorem routeResult_stays {b₀ s : State} {c e : Nat} {h : Hand} {f : Flight} {b : Bank} (hs : b₀.stays s) :
    b₀.stays (State.routeResult s c e h f b) := by
  unfold State.routeResult
  with_reducible repeat' (first
    | assumption | apply updEng_stays | apply sendPartial_stays | apply setWord_stays | intro _
    | (simp only [stays_mk]; refine stays_core ?_) | split)

theorem resultWritten_stays {b₀ s : State} {c e frz bub : Nat} {h : Hand} {f : Flight} {rest : List Flight} (hs : b₀.stays s) :
    b₀.stays (State.resultWritten s c e frz bub h f rest) := by
  unfold State.resultWritten
  with_reducible repeat' (first
    | assumption | apply stays_ite | apply updEng_stays | apply tally_stays | apply routeResult_stays | intro _)

theorem execMmaResultWrite_stays {b₀ : State} {c : Fin 128} {e : Fin 4} {frz bub : Nat} {s : State} (hs : b₀.stays s) :
    b₀.outs (execMmaResultWrite c e frz bub s) := by
  unfold execMmaResultWrite
  with_reducible repeat' (first
    | assumption | apply stays_ite | apply resultWritten_stays | apply outs_next | apply outs_ite | intro _
    | (simp only [stays_mk]; refine stays_core ?_) | split)

theorem freezeEvent_stays {b₀ s : State} {c e : Nat} (hs : b₀.stays s) :
    b₀.stays (State.freezeEvent s c e) := by
  unfold State.freezeEvent
  with_reducible repeat' (first
    | assumption | apply stays_ite | apply updEng_stays | apply raise_stays | intro _ | (simp only [stays_mk]; refine stays_core ?_)
    | split)

theorem execFreezeLimitExceeded_stays {b₀ : State} {c : Fin 128} {e : Fin 4} {s : State} (hs : b₀.stays s) :
    b₀.outs (execFreezeLimitExceeded c e s) := by
  unfold execFreezeLimitExceeded
  with_reducible repeat' (first
    | assumption | apply stays_ite | apply freezeEvent_stays | apply outs_next | apply outs_ite | intro _)

theorem combineSplit_stays {b₀ : State} {s : State} {c n : Nat} {k : KSplit} {p : Partial} {ps : List Partial} (hs : b₀.stays s) :
    b₀.stays (State.combineSplit s c n k p ps) := by
  unfold State.combineSplit
  with_reducible repeat' (first
    | assumption | apply stays_ite | apply updSlot_stays | apply itemFault_stays | apply updCl_stays | intro _
    | (simp only [stays_mk]; refine stays_core ?_) | split | dsimp only)

theorem execKSplitCombine_stays {b₀ : State} {c : Fin 128} {s : State} (hs : b₀.stays s) :
    b₀.outs (execKSplitCombine c s) := by
  unfold execKSplitCombine
  with_reducible repeat' (first
    | assumption | apply stays_ite | apply combineSplit_stays | apply outs_next | apply outs_ite | intro _
    | (simp only [stays_mk]; refine stays_core ?_) | split)

theorem updBatches_stays {b₀ s : State} {c : Nat} {f : Cluster → Cluster} (hs : b₀.stays s) :
    b₀.stays (State.updBatches s c f) := by
  unfold State.updBatches
  with_reducible repeat' (first
    | assumption | apply updCl_stays)

theorem thinDirect_stays {b₀ s : State} {c : Nat} {q : BatReq} (hs : b₀.stays s) :
    b₀.stays (State.thinDirect s c q) := by
  unfold State.thinDirect
  with_reducible repeat' (first
    | assumption | apply updCl_stays)

theorem execThinRequest_stays {b₀ : State} {c : Fin 128} {s : State} (hs : b₀.stays s) :
    b₀.outs (execThinRequest c s) := by
  unfold execThinRequest
  with_reducible repeat' (first
    | assumption | apply stays_ite | apply faultHand_stays | apply setWord_stays | apply updBatches_stays | apply thinDirect_stays
    | apply outs_next | apply outs_fault | apply outs_ite | intro _ | (simp only [stays_mk]; refine stays_core ?_) | split
    | dsimp only)

theorem execBatchWaitExpire_stays {b₀ : State} {c : Fin 128} {n : Nat} {s : State} (hs : b₀.stays s) :
    b₀.outs (execBatchWaitExpire c n s) := by
  unfold execBatchWaitExpire
  with_reducible repeat' (first
    | assumption | apply stays_ite | apply updBatches_stays | apply outs_next | apply outs_ite | intro _)

theorem runBatch_stays {b₀ s : State} {c e : Nat} {h : Hand} {b : Batch} {q : BatReq} {rest : List Batch} (hs : b₀.stays s) :
    b₀.stays (State.runBatch s c e h b q rest) := by
  unfold State.runBatch
  with_reducible repeat' (first
    | assumption | apply stays_ite | apply stays_getD | apply updCl_stays | apply tally_stays | apply accept_stays | intro _)

theorem execBatchRun_stays {b₀ : State} {c : Fin 128} {s : State} (hs : b₀.stays s) :
    b₀.outs (execBatchRun c s) := by
  unfold execBatchRun
  with_reducible repeat' (first
    | assumption | apply stays_ite | apply updCl_stays | apply runBatch_stays | apply outs_next | apply outs_ite | intro _
    | (simp only [stays_mk]; refine stays_core ?_) | split | dsimp only)

theorem execHandPoison_stays {b₀ : State} {c : Fin 128} {cause : Fin 3} {engine : Fin 4} {offset : Fin 0x400000} {s : State} (hs : b₀.stays s) :
    b₀.outs (execHandPoison c cause engine offset s) := by
  unfold execHandPoison
  with_reducible repeat' (first
    | assumption | apply stays_ite | apply lineFails_stays | apply recordMatrix_stays | apply poisonHand_stays | apply outs_next
    | apply outs_fault | apply outs_ite | intro _ | split | dsimp only)

theorem idleFault_stays {b₀ : State} {s : State} {c : Nat} {f : IdleFault} (hs : b₀.stays s) :
    b₀.stays (State.idleFault s c f) := by
  unfold State.idleFault
  with_reducible repeat' (first
    | assumption | apply stays_ite | apply lineFails_stays | apply recordMatrix_stays | apply updEng_stays
    | apply recordVector_stays | apply updCl_stays | intro _ | (simp only [stays_mk]; refine stays_core ?_) | split | dsimp only)

theorem execIdleClusterFault_stays {b₀ : State} {c : Fin 128} {f : IdleFault} {s : State} (hs : b₀.stays s) :
    b₀.outs (execIdleClusterFault c f s) := by
  unfold execIdleClusterFault
  with_reducible repeat' (first
    | assumption | apply stays_ite | apply idleFault_stays | apply outs_next | apply outs_ite | intro _
    | (simp only [stays_mk]; refine stays_core ?_) | split)

theorem onBqCtl_stays {b₀ s : State} {d j v : Nat} (hs : b₀.stays s) :
    b₀.stays (State.onBqCtl s d j v) := by
  unfold State.onBqCtl
  with_reducible repeat' (first
    | assumption | apply stays_ite | apply setReg_stays | apply updCl_stays | intro _)

/-! ## Vector -/

theorem laneErrors_stays {b₀ s : State} {c o ebits lanes mask : Nat} (hs : b₀.stays s) :
    b₀.stays (State.laneErrors s c o ebits lanes mask).1 := by
  unfold State.laneErrors
  with_reducible repeat' (first
    | assumption | apply badGranules_stays | apply count32_stays)

theorem operandErrors_stays {b₀ : State} {s : State} {c : Nat} {x0 : List Operand} (hs : b₀.stays s) :
    b₀.stays (State.operandErrors s c x0).1 := by
  induction x0 generalizing s with
  | nil =>
    unfold State.operandErrors
    with_reducible repeat' (first
      | assumption | apply laneErrors_stays | intro _ | split | dsimp only)
  | cons y ys ih =>
    unfold State.operandErrors
    with_reducible repeat' (first
      | apply ih | assumption | apply laneErrors_stays | intro _ | split | dsimp only)

theorem advancePort_stays {b₀ s : State} {c p : Nat} (hs : b₀.stays s) :
    b₀.stays (State.advancePort s c p) := by
  unfold State.advancePort
  with_reducible repeat' (first
    | assumption | apply stays_ite | apply updCl_stays | apply updEng_stays | intro _)

theorem combFail_stays {b₀ s : State} {c : Nat} (hs : b₀.stays s) :
    b₀.stays (State.combFail s c) := by
  unfold State.combFail
  with_reducible repeat' (first
    | assumption | apply updCl_stays | apply updSlot_stays | intro _ | (simp only [stays_mk]; refine stays_core ?_) | split)

theorem vectorFault_stays {b₀ s : State} {c cause offset chain : Nat} {run comb : Bool} (hs : b₀.stays s) :
    b₀.stays (State.vectorFault s c cause offset chain run comb) := by
  unfold State.vectorFault
  with_reducible repeat' (first
    | assumption | apply stays_ite | apply recordVector_stays | apply combFail_stays | apply poisonHand_stays | intro _
    | (simp only [stays_mk]; refine stays_core ?_) | split)

theorem admitRow_stays {b₀ : State} {s : State} {c p : Nat} {r : PortRow} (hs : b₀.stays s) :
    b₀.stays (State.admitRow s c p r) := by
  unfold State.admitRow
  with_reducible repeat' (first
    | assumption | refine stays_of_fst (by assumption) ?_ | apply stays_ite | apply stays_ite1 | apply vectorFault_stays
    | apply operandErrors_stays | apply tally_stays | apply advancePort_stays | apply updCl_stays | intro _
    | (simp only [stays_mk]; refine stays_core ?_) | split | dsimp only)

theorem admitDrain_stays {b₀ s : State} {c p : Nat} {r : PortRow} (hs : b₀.stays s) :
    b₀.stays (State.admitDrain s c p r) := by
  unfold State.admitDrain
  with_reducible repeat' (first
    | assumption | apply stays_ite | apply updCl_stays | apply admitRow_stays | intro _)

theorem execDrainRowAdmit_stays {b₀ : State} {c : Fin 128} {s : State} (hs : b₀.stays s) :
    b₀.outs (execDrainRowAdmit c s) := by
  unfold execDrainRowAdmit
  with_reducible repeat' (first
    | assumption | apply stays_ite | apply admitDrain_stays | apply outs_next | apply outs_ite | intro _
    | (simp only [stays_mk]; refine stays_core ?_) | split)

theorem execVrun_stays {b₀ : State} {c : Fin 128} {s : State} (hs : b₀.stays s) :
    b₀.outs (execVrun c s) := by
  unfold execVrun
  with_reducible repeat' (first
    | assumption | apply stays_ite | apply setWord_stays | apply updCl_stays | apply faultHand_stays | apply outs_next | apply outs_fault
    | apply outs_ite | intro _ | (simp only [stays_mk]; refine stays_core ?_) | split)

theorem admitRun_stays {b₀ : State} {s : State} {c : Nat} {h : Hand} {v : VRun} {rest : List VRun} (hs : b₀.stays s) :
    b₀.stays (State.admitRun s c h v rest) := by
  unfold State.admitRun
  with_reducible repeat' (first
    | assumption | refine stays_of_fst (by assumption) ?_ | apply stays_ite | apply stays_ite1 | apply updCl_stays
    | apply vectorFault_stays | apply operandErrors_stays | apply tally_stays | intro _
    | (simp only [stays_mk]; refine stays_core ?_) | split | dsimp only)

theorem execVrunRowAdmit_stays {b₀ : State} {c : Fin 128} {s : State} (hs : b₀.stays s) :
    b₀.outs (execVrunRowAdmit c s) := by
  unfold execVrunRowAdmit
  with_reducible repeat' (first
    | assumption | apply stays_ite | apply admitRun_stays | apply outs_next | apply outs_ite | intro _
    | (simp only [stays_mk]; refine stays_core ?_) | split)

theorem tallyCounts_stays {b₀ s : State} {c nan inf ovf : Nat} (hs : b₀.stays s) :
    b₀.stays (State.tallyCounts s c nan inf ovf) := by
  unfold State.tallyCounts
  with_reducible repeat' (first
    | assumption | apply stays_ite | apply tally_stays | intro _)

theorem combWrite_stays {b₀ s : State} {c : Nat} {p : PipeRow} (hs : b₀.stays s) :
    b₀.stays (State.combWrite s c p) := by
  unfold State.combWrite
  with_reducible repeat' (first
    | assumption | apply stays_ite | apply stays_foldl | apply stays_foldl1 | apply stays_foldl2 | apply writeRaw_stays
    | apply updCl_stays | apply updSlot_stays | intro _ | (simp only [stays_mk]; refine stays_core ?_) | split | dsimp only)

theorem wordWrite_stays {b₀ s : State} {c i : Nat} {p : PipeRow} (hs : b₀.stays s) :
    b₀.stays (State.wordWrite s c i p) := by
  unfold State.wordWrite
  with_reducible repeat' (first
    | assumption | apply stays_ite | apply stays_foldl | apply stays_foldl1 | apply stays_foldl2 | apply handWrite_stays
    | apply updWord_stays | intro _)

theorem rowOut_stays {b₀ s : State} {c n : Nat} {p : PipeRow} (hs : b₀.stays s) :
    b₀.stays (State.rowOut s c n p) := by
  unfold State.rowOut
  with_reducible repeat' (first
    | assumption | apply updCl_stays | apply tallyCounts_stays | apply combWrite_stays | apply wordWrite_stays | intro _
    | (simp only [stays_mk]; refine stays_core ?_) | split)

theorem execRowWrite_stays {b₀ : State} {c : Fin 128} {n : Nat} {s : State} (hs : b₀.stays s) :
    b₀.outs (execRowWrite c n s) := by
  unfold execRowWrite
  with_reducible repeat' (first
    | assumption | apply stays_ite | apply rowOut_stays | apply outs_next | apply outs_ite | intro _
    | (simp only [stays_mk]; refine stays_core ?_) | split | dsimp only)

theorem execVectorPoison_stays {b₀ : State} {c : Fin 128} {f : VectorFault} {s : State} (hs : b₀.stays s) :
    b₀.outs (execVectorPoison c f s) := by
  unfold execVectorPoison
  with_reducible repeat' (first
    | assumption | apply stays_ite | apply lineFails_stays | apply count32_stays | apply vectorFault_stays | apply outs_next
    | apply outs_fault | apply outs_ite | intro _)

theorem clusterClock_stays {b₀ s : State} {c : Nat} (hs : b₀.stays s) :
    b₀.stays (State.clusterClock s c) := by
  unfold State.clusterClock
  with_reducible repeat' (first
    | assumption | apply stays_ite | apply tally_stays | apply updCl_stays | intro _)

/-! ## Dma -/

theorem placeOf_stays {b₀ s : State} {c ctx : Nat} {cluster : Bool} {a n : Nat} {ty : AccTy} (hs : b₀.stays s) :
    b₀.stays (State.placeOf s c ctx cluster a n ty).1 := by
  unfold State.placeOf
  with_reducible repeat' (first
    | assumption | apply stays_ite | apply stays_ite1 | apply translateRange_stays | intro _)

theorem fetchBytes_stays {b₀ s : State} {c ctx : Nat} {cluster : Bool} {a n : Nat} (hs : b₀.stays s) :
    b₀.stays (State.fetchBytes s c ctx cluster a n).1 := by
  unfold State.fetchBytes
  with_reducible repeat' (first
    | assumption | refine stays_of_fst (by assumption) ?_ | apply placeOf_stays | apply read_stays | apply readPieces_stays | intro _
    | (simp only [stays_mk]; refine stays_core ?_) | split | dsimp only)

theorem storeBytes_stays {b₀ s : State} {c ctx : Nat} {cluster : Bool} {a : Nat} {l : List PByte} (hs : b₀.stays s) :
    b₀.stays (State.storeBytes s c ctx cluster a l).1 := by
  unfold State.storeBytes
  with_reducible repeat' (first
    | assumption | refine stays_of_fst (by assumption) ?_ | apply stays_ite | apply stays_ite1 | apply placeOf_stays
    | apply writePieces_stays | apply hashWrite_stays | intro _ | (simp only [stays_mk]; refine stays_core ?_) | split | dsimp only)

theorem forEach_stays {b₀ : State} {α : Type} {f : State → α → DmaRes Unit} {x0 : State} {x1 : List α} (hf : ∀ y0 y1, b₀.stays y0 → b₀.stays (f y0 y1).1) (hx0 : b₀.stays x0) :
    b₀.stays (forEach f x0 x1).1 := by
  induction x1 generalizing x0 with
  | nil =>
    unfold forEach
    with_reducible repeat' (first
      | assumption)
  | cons y ys ih =>
    unfold forEach
    with_reducible repeat' (first
      | apply ih | assumption | refine stays_of_fst (by assumption) ?_ | apply hf | apply opts2_some | apply opts2_none | intro _
      | (simp only [stays_mk]; refine stays_core ?_) | split | dsimp only)

theorem collect_stays {b₀ : State} {α β : Type} {f : State → α → DmaRes β} {x0 : State} {x1 : List α} (hf : ∀ y0 y1, b₀.stays y0 → b₀.stays (f y0 y1).1) (hx0 : b₀.stays x0) :
    b₀.stays (collect f x0 x1).1 := by
  induction x1 generalizing x0 with
  | nil =>
    unfold collect
    with_reducible repeat' (first
      | assumption)
  | cons y ys ih =>
    unfold collect
    with_reducible repeat' (first
      | apply ih | assumption | refine stays_of_fst (by assumption) ?_ | apply hf | apply opts2_some | apply opts2_none | intro _
      | (simp only [stays_mk]; refine stays_core ?_) | split | dsimp only)

theorem loadRow_stays {b₀ s : State} {c ctx : Nat} {t : Tile} {c1 c2 c3 : Nat} (hs : b₀.stays s) :
    b₀.stays (State.loadRow s c ctx t c1 c2 c3).1 := by
  unfold State.loadRow
  with_reducible repeat' (first
    | assumption | refine stays_of_fst (by assumption) ?_ | apply stays_ite | apply stays_ite1 | apply fetchBytes_stays | intro _
    | (simp only [stays_mk]; refine stays_core ?_) | split | dsimp only)

theorem putCluster_stays {b₀ s : State} {c o : Nat} {l : List PByte} (hs : b₀.stays s) :
    b₀.stays (State.putCluster s c o l) := by
  unfold State.putCluster
  with_reducible repeat' (first
    | assumption | apply writeMarked_stays)

theorem loadBlock_stays {b₀ : State} {s : State} {c ctx : Nat} {t : Tile} {e : List Nat} {rows : List (List PElem)} (hs : b₀.stays s) :
    b₀.stays (State.loadBlock s c ctx t e rows).1 := by
  unfold State.loadBlock
  with_reducible repeat' (first
    | assumption | refine stays_of_fst (by assumption) ?_ | apply stays_ite | apply stays_ite1 | apply stays_foldl
    | apply stays_foldl1 | apply stays_foldl2 | apply stays_getD | apply fetchBytes_stays | intro _ | split | dsimp only)

theorem loadBlocks_stays {b₀ : State} {s : State} {c ctx : Nat} {t : Tile} {x0 : List (Nat × List Nat)} {x1 : List (List PElem)} (hs : b₀.stays s) :
    b₀.stays (State.loadBlocks s c ctx t x0 x1).1 := by
  induction x0 generalizing x1 s with
  | nil =>
    unfold State.loadBlocks
    with_reducible repeat' (first
      | assumption | refine stays_of_fst (by assumption) ?_ | apply loadBlock_stays | intro _ | split | dsimp only)
  | cons y ys ih =>
    unfold State.loadBlocks
    with_reducible repeat' (first
      | apply ih | assumption | refine stays_of_fst (by assumption) ?_ | apply loadBlock_stays | intro _ | split | dsimp only)

theorem putPlane_stays {b₀ : State} {s : State} {c : Nat} {j : DmaJob} {x : Desc} {p : Nat} {rows : List (List PElem)} (hs : b₀.stays s) :
    b₀.stays (State.putPlane s c j x p rows) := by
  unfold State.putPlane
  with_reducible repeat' (first
    | assumption | apply stays_ite | apply stays_foldl | apply stays_foldl1 | apply stays_foldl2 | apply putCluster_stays | intro _)

theorem doLoad_stays {b₀ : State} {s : State} {c ctx : Nat} {j : DmaJob} {t : Tile} (hs : b₀.stays s) :
    b₀.stays (State.doLoad s c ctx j t).1 := by
  unfold State.doLoad
  with_reducible repeat' (first
    | assumption | refine stays_of_fst (by assumption) ?_ | apply stays_foldl | apply stays_foldl1 | apply stays_foldl2
    | apply collect_stays | apply loadRow_stays | apply loadBlocks_stays | apply putPlane_stays | apply putCluster_stays | intro _
    | split | dsimp only)

theorem storeRow_stays {b₀ : State} {s : State} {c ctx : Nat} {j : DmaJob} {t : Tile} {c1 c2 c3 : Nat} (hs : b₀.stays s) :
    b₀.stays (State.storeRow s c ctx j t c1 c2 c3).1 := by
  unfold State.storeRow
  with_reducible repeat' (first
    | assumption | refine stays_of_fst (by assumption) ?_ | apply stays_ite | apply stays_ite1 | apply storeBytes_stays
    | apply fetchBytes_stays | intro _ | split | dsimp only)

theorem storeScale_stays {b₀ : State} {c ctx : Nat} {t : Tile} {s : State} {b : Nat × List Nat} (hs : b₀.stays s) :
    b₀.stays (State.storeScale c ctx t s b).1 := by
  unfold State.storeScale
  with_reducible repeat' (first
    | assumption | apply storeBytes_stays | intro _)

theorem storeScales_stays {b₀ s : State} {c ctx : Nat} {j : DmaJob} {t : Tile} (hs : b₀.stays s) :
    b₀.stays (State.storeScales s c ctx j t).1 :=
  forEach_stays (fun _ _ h => storeScale_stays h) hs

theorem doStore_stays {b₀ s : State} {c ctx : Nat} {j : DmaJob} {t : Tile} (hs : b₀.stays s) :
    b₀.stays (State.doStore s c ctx j t).1 := by
  unfold State.doStore
  with_reducible repeat' (first
    | assumption | refine stays_of_fst (by assumption) ?_ | apply stays_ite | apply stays_ite1 | apply forEach_stays
    | apply storeRow_stays | apply storeScales_stays | apply opts2_some | apply opts2_none | apply opts2_ite | intro _
    | (simp only [stays_mk]; refine stays_core ?_) | split | dsimp only)

theorem arrayError_stays {b₀ : State} {s : State} {e : Nat × Ecc} (hs : b₀.stays s) :
    b₀.stays (State.arrayError s e) := by
  unfold State.arrayError
  with_reducible repeat' (first
    | assumption | apply stays_ite | apply sramCe_stays | intro _ | (simp only [stays_mk]; refine stays_core ?_) | split
    | dsimp only)

theorem sourceDecode_stays {b₀ : State} {s : State} {c : Nat} {j : DmaJob} (hs : b₀.stays s) :
    b₀.stays (State.sourceDecode s c j) := by
  unfold State.sourceDecode
  with_reducible repeat' (first
    | assumption | apply stays_foldl | apply stays_foldl1 | apply stays_foldl2 | apply sramDecode_stays | intro _)

theorem dmaMove_stays {b₀ : State} {s : State} {c ctx : Nat} {j : DmaJob} (hs : b₀.stays s) :
    b₀.stays (State.dmaMove s c ctx j).1 := by
  unfold State.dmaMove
  with_reducible repeat' (first
    | assumption | refine stays_of_fst (by assumption) ?_ | apply doLoad_stays | apply doStore_stays | apply fetchBytes_stays
    | apply putCluster_stays | apply storeBytes_stays | intro _ | split | dsimp only)

theorem dmaRun_stays {b₀ : State} {s : State} {c ctx : Nat} {j : DmaJob} {errs : List (Nat × Ecc)} (hs : b₀.stays s) :
    b₀.stays (State.dmaRun s c ctx j errs).1 := by
  unfold State.dmaRun
  with_reducible repeat' (first
    | assumption | apply stays_foldl | apply stays_foldl1 | apply stays_foldl2 | apply arrayError_stays | apply sourceDecode_stays
    | apply dmaMove_stays | intro _)

theorem dmaStart_stays {b₀ s : State} {c op : Nat} (hs : b₀.stays s) :
    b₀.stays (State.dmaStart s c op) := by
  unfold State.dmaStart
  with_reducible repeat' (first
    | assumption | apply stays_ite | apply setWord_stays | intro _ | (simp only [stays_mk]; refine stays_core ?_) | split)

theorem execLoad_stays {b₀ : State} {c : Fin 128} {s : State} (hs : b₀.stays s) :
    b₀.outs (execLoad c s) := by
  unfold execLoad
  with_reducible repeat' (first
    | assumption | apply stays_ite | apply dmaStart_stays | apply outs_next | apply outs_ite | intro _)

theorem execStore_stays {b₀ : State} {c : Fin 128} {s : State} (hs : b₀.stays s) :
    b₀.outs (execStore c s) := by
  unfold execStore
  with_reducible repeat' (first
    | assumption | apply stays_ite | apply dmaStart_stays | apply outs_next | apply outs_ite | intro _)

theorem execCopyin_stays {b₀ : State} {c : Fin 128} {s : State} (hs : b₀.stays s) :
    b₀.outs (execCopyin c s) := by
  unfold execCopyin
  with_reducible repeat' (first
    | assumption | apply stays_ite | apply dmaStart_stays | apply outs_next | apply outs_ite | intro _)

theorem execCopyout_stays {b₀ : State} {c : Fin 128} {s : State} (hs : b₀.stays s) :
    b₀.outs (execCopyout c s) := by
  unfold execCopyout
  with_reducible repeat' (first
    | assumption | apply stays_ite | apply dmaStart_stays | apply outs_next | apply outs_ite | intro _)

theorem execDmaComplete_stays {b₀ : State} {c : Fin 128} {e : DmaDone} {s : State} (hs : b₀.stays s) :
    b₀.outs (execDmaComplete c e s) := by
  unfold execDmaComplete
  with_reducible repeat' (first
    | assumption | refine stays_of_fst (by assumption) ?_ | apply stays_ite | apply stays_ite1 | apply dmaRun_stays
    | apply setWord_stays | apply faultHand_stays | apply outs_next | apply outs_fault | apply outs_ite | intro _ | split
    | dsimp only)

end Sys2Proof.Machine
end

