-- ==== Sys2Proof/Laws/StaysDealer.lean ====
section
/-! SUPPORT. Every operation of the Dealer keeps the queue and the soundness of the state: one lemma for each. -/

namespace Sys2Proof.Machine

set_option linter.unusedTactic false
set_option linter.unusedSimpArgs false
set_option linter.unreachableTactic false

/-! ## Dealer -/

theorem traceWord_stays {b₀ s : State} {r k va ctx w : Nat} (hs : b₀.stays s) :
    b₀.stays (State.traceWord s r k va ctx w) := by
  unfold State.traceWord
  with_reducible repeat' (first
    | assumption | apply stays_ite | apply traceTake_stays | intro _)

theorem decoded_stays {b₀ : State} {s : State} {r k w : Nat} (hs : b₀.stays s) :
    b₀.stays (State.decoded s r k w) := by
  unfold State.decoded
  with_reducible repeat' (first
    | assumption | apply stays_ite | apply updRg_stays | apply updSlot_stays | apply tally_stays | apply traceWord_stays | intro _
    | (simp only [stays_mk]; refine stays_core ?_))

theorem illegal_stays {b₀ s : State} {r k va w : Nat} (hs : b₀.stays s) :
    b₀.stays (State.illegal s r k va w) := by
  unfold State.illegal
  with_reducible repeat' (first
    | assumption | apply itemFault_stays)

theorem onWord_stays {b₀ : State} {s : State} {r k : Nat} {o : Op} {f : State → Nat → Nat → State} (hf : ∀ y0 y1 y2, b₀.stays y0 → b₀.stays (f y0 y1 y2)) (hs : b₀.stays s) :
    b₀.outs (State.onWord s r k o f) := by
  unfold State.onWord
  with_reducible repeat' (first
    | assumption | apply stays_ite | apply hf | apply updSlot_stays | apply decoded_stays | apply illegal_stays | apply outs_next
    | apply outs_fault | apply outs_ite | intro _ | (simp only [stays_mk]; refine stays_core ?_) | split | dsimp only)

theorem traceAppend_stays {b₀ s : State} {r : Nat} {e : List Byte} (hs : b₀.stays s) :
    b₀.stays (State.traceAppend s r e) := by
  unfold State.traceAppend
  with_reducible repeat' (first
    | assumption | apply stays_ite | apply count32_stays | apply raise_stays | apply writeRaw_stays | apply setFld_stays
    | apply tally_stays | intro _)

theorem replayEntry_stays {b₀ : State} {s : State} {r : Nat} (hs : b₀.stays s) :
    b₀.stays (State.replayEntry s r).1 := by
  unfold State.replayEntry
  with_reducible repeat' (first
    | assumption | apply stays_ite | apply stays_ite1 | apply stays_iterd | apply read_stays | intro _)

theorem replayNext_stays {b₀ s : State} {r : Nat} (hs : b₀.stays s) :
    b₀.stays (State.replayNext s r) := by
  unfold State.replayNext
  with_reducible repeat' (first
    | assumption | apply setFld_stays)

theorem diverge_stays {b₀ s : State} {r k : Nat} (hs : b₀.stays s) :
    b₀.stays (State.diverge s r k) := by
  unfold State.diverge
  with_reducible repeat' (first
    | assumption | apply raise_stays | apply updSlot_stays)

theorem trace_stays {b₀ : State} {s : State} {r k kind value : Nat} (hs : b₀.stays s) :
    b₀.stays (State.trace s r k kind value) := by
  unfold State.trace
  with_reducible repeat' (first
    | assumption | refine stays_of_fst (by assumption) ?_ | apply stays_ite | apply stays_ite1 | apply replayEntry_stays
    | apply replayNext_stays | apply diverge_stays | apply traceAppend_stays | intro _ | split | dsimp only)

theorem resume_stays {b₀ s : State} {r k : Nat} (hs : b₀.stays s) :
    b₀.stays (State.resume s r k) := by
  unfold State.resume
  with_reducible repeat' (first
    | assumption | apply updSlot_stays)

theorem waitFor_stays {b₀ : State} {s : State} {r k : Nat} {w : Wait} (hs : b₀.stays s) :
    b₀.stays (State.waitFor s r k w) := by
  unfold State.waitFor
  with_reducible repeat' (first
    | assumption | apply updSlot_stays | intro _ | (simp only [stays_mk]; refine stays_core ?_))

theorem execNop_stays {b₀ : State} {r : Fin 16} {k : Fin 4} {s : State} (hs : b₀.stays s) :
    b₀.outs (execNop r k s) := by
  unfold execNop
  with_reducible repeat' (first
    | assumption | apply stays_ite | apply onWord_stays | apply illegal_stays | apply outs_next | apply outs_ite | apply opts2_some
    | apply opts2_none | apply opts2_ite | intro _)

theorem execFence_stays {b₀ : State} {r : Fin 16} {k : Fin 4} {s : State} (hs : b₀.stays s) :
    b₀.outs (execFence r k s) := by
  unfold execFence
  with_reducible repeat' (first
    | assumption | apply stays_ite | apply onWord_stays | apply illegal_stays | apply waitFor_stays | apply outs_next | apply outs_ite
    | apply opts2_some | apply opts2_none | apply opts2_ite | intro _)

theorem execFenceRelease_stays {b₀ : State} {r : Fin 16} {k : Fin 4} {s : State} (hs : b₀.stays s) :
    b₀.outs (execFenceRelease r k s) := by
  unfold execFenceRelease
  with_reducible repeat' (first
    | assumption | apply stays_ite | apply resume_stays | apply outs_next | apply outs_ite | intro _)

theorem execSync_stays {b₀ : State} {r : Fin 16} {k : Fin 4} {s : State} (hs : b₀.stays s) :
    b₀.outs (execSync r k s) := by
  unfold execSync
  with_reducible repeat' (first
    | assumption | apply stays_ite | apply onWord_stays | apply illegal_stays | apply waitFor_stays | apply outs_next | apply outs_ite
    | apply opts2_some | apply opts2_none | apply opts2_ite | intro _)

theorem releaseBarrier_stays {b₀ s : State} {c id mask : Nat} (hs : b₀.stays s) :
    b₀.stays (State.releaseBarrier s c id mask) := ⟨hs.1, fun h => ⟨(hs.2 h).1, (hs.2 h).2.1, (hs.2 h).2.2.1, by simpa [State.releaseBarrier] using (hs.2 h).2.2.2⟩⟩

theorem execSyncRelease_stays {b₀ : State} {r : Fin 16} {k : Fin 4} {s : State} (hs : b₀.stays s) :
    b₀.outs (execSyncRelease r k s) := by
  unfold execSyncRelease
  with_reducible repeat' (first
    | assumption | apply stays_ite | apply releaseBarrier_stays | apply outs_next | apply outs_ite | intro _
    | (simp only [stays_mk]; refine stays_core ?_) | split)

theorem execWaitf_stays {b₀ : State} {r : Fin 16} {k : Fin 4} {s : State} (hs : b₀.stays s) :
    b₀.outs (execWaitf r k s) := by
  unfold execWaitf
  with_reducible repeat' (first
    | assumption | apply stays_ite | apply onWord_stays | apply illegal_stays | apply waitFor_stays | apply outs_next | apply outs_ite
    | apply opts2_some | apply opts2_none | apply opts2_ite | intro _)

theorem execWaitfRelease_stays {b₀ : State} {r : Fin 16} {k : Fin 4} {s : State} (hs : b₀.stays s) :
    b₀.outs (execWaitfRelease r k s) := by
  unfold execWaitfRelease
  with_reducible repeat' (first
    | assumption | apply stays_ite | apply resume_stays | apply outs_next | apply outs_ite | intro _
    | (simp only [stays_mk]; refine stays_core ?_) | split)

theorem execPostf_stays {b₀ : State} {r : Fin 16} {k : Fin 4} {s : State} (hs : b₀.stays s) :
    b₀.outs (execPostf r k s) := by
  unfold execPostf
  with_reducible repeat' (first
    | assumption | apply stays_ite | apply onWord_stays | apply illegal_stays | apply updSlot_stays | apply outs_next | apply outs_ite
    | apply opts2_some | apply opts2_none | apply opts2_ite | intro _)

theorem execFlushq_stays {b₀ : State} {r : Fin 16} {k : Fin 4} {s : State} (hs : b₀.stays s) :
    b₀.outs (execFlushq r k s) := by
  unfold execFlushq
  with_reducible repeat' (first
    | assumption | apply stays_ite | apply stays_foldl | apply stays_foldl1 | apply stays_foldl2 | apply onWord_stays
    | apply illegal_stays | apply updBatches_stays | apply outs_next | apply outs_ite | apply opts2_some | apply opts2_none
    | apply opts2_ite | intro _)

theorem execTrap_stays {b₀ : State} {r : Fin 16} {k : Fin 4} {s : State} (hs : b₀.stays s) :
    b₀.outs (execTrap r k s) := by
  unfold execTrap
  with_reducible repeat' (first
    | assumption | apply stays_ite | apply onWord_stays | apply illegal_stays | apply itemFault_stays | apply outs_next | apply outs_ite
    | apply opts2_some | apply opts2_none | apply opts2_ite | intro _)

theorem loopError_stays {b₀ s : State} {r k va lvl : Nat} (hs : b₀.stays s) :
    b₀.stays (State.loopError s r k va lvl) := by
  unfold State.loopError
  with_reducible repeat' (first
    | assumption | apply itemFault_stays)

theorem loopOpen_stays {b₀ s : State} {r k va w n skip : Nat} (hs : b₀.stays s) :
    b₀.stays (State.loopOpen s r k va w n skip) := by
  unfold State.loopOpen
  with_reducible repeat' (first
    | assumption | apply stays_ite | apply updSlot_stays | apply tally_stays | apply trace_stays | intro _)

theorem execLoopBegin_stays {b₀ : State} {r : Fin 16} {k : Fin 4} {s : State} (hs : b₀.stays s) :
    b₀.outs (execLoopBegin r k s) := by
  unfold execLoopBegin
  with_reducible repeat' (first
    | assumption | apply stays_ite | apply updSlot_stays | apply onWord_stays | apply loopError_stays | apply illegal_stays
    | apply itemFault_stays | apply loopOpen_stays | apply outs_next | apply outs_fault | apply outs_ite | intro _
    | (simp only [stays_mk]; refine stays_core ?_) | split | dsimp only)

theorem execLoopEnd_stays {b₀ : State} {r : Fin 16} {k : Fin 4} {s : State} (hs : b₀.stays s) :
    b₀.outs (execLoopEnd r k s) := by
  unfold execLoopEnd
  with_reducible repeat' (first
    | assumption | apply stays_ite | apply onWord_stays | apply loopError_stays | apply illegal_stays | apply updSlot_stays
    | apply outs_next | apply outs_ite | apply opts2_some | apply opts2_none | apply opts2_ite | intro _
    | (simp only [stays_mk]; refine stays_core ?_) | split | dsimp only)

theorem sregOp_stays {b₀ s : State} {r k : Nat} {o : Op} {f : Nat → Nat → Nat} (hs : b₀.stays s) :
    b₀.outs (State.sregOp s r k o f) := by
  unfold State.sregOp
  with_reducible repeat' (first
    | assumption | apply stays_ite | apply onWord_stays | apply illegal_stays | apply updSlot_stays | apply outs_next | apply outs_ite
    | apply opts2_some | apply opts2_none | apply opts2_ite | intro _)

theorem execLi_stays {b₀ : State} {r : Fin 16} {k : Fin 4} {s : State} (hs : b₀.stays s) :
    b₀.outs (execLi r k s) := by
  unfold execLi
  with_reducible repeat' (first
    | assumption | apply stays_ite | apply onWord_stays | apply illegal_stays | apply updSlot_stays | apply outs_next | apply outs_ite
    | apply opts2_some | apply opts2_none | apply opts2_ite | intro _)

theorem execAdd_stays {b₀ : State} {r : Fin 16} {k : Fin 4} {s : State} (hs : b₀.stays s) :
    b₀.outs (execAdd r k s) := by
  unfold execAdd
  with_reducible repeat' (first
    | assumption | apply sregOp_stays)

theorem execSub_stays {b₀ : State} {r : Fin 16} {k : Fin 4} {s : State} (hs : b₀.stays s) :
    b₀.outs (execSub r k s) := by
  unfold execSub
  with_reducible repeat' (first
    | assumption | apply sregOp_stays)

theorem execMul_stays {b₀ : State} {r : Fin 16} {k : Fin 4} {s : State} (hs : b₀.stays s) :
    b₀.outs (execMul r k s) := by
  unfold execMul
  with_reducible repeat' (first
    | assumption | apply sregOp_stays)

theorem execAnd_stays {b₀ : State} {r : Fin 16} {k : Fin 4} {s : State} (hs : b₀.stays s) :
    b₀.outs (execAnd r k s) := by
  unfold execAnd
  with_reducible repeat' (first
    | assumption | apply sregOp_stays)

theorem execOr_stays {b₀ : State} {r : Fin 16} {k : Fin 4} {s : State} (hs : b₀.stays s) :
    b₀.outs (execOr r k s) := by
  unfold execOr
  with_reducible repeat' (first
    | assumption | apply sregOp_stays)

theorem execShl_stays {b₀ : State} {r : Fin 16} {k : Fin 4} {s : State} (hs : b₀.stays s) :
    b₀.outs (execShl r k s) := by
  unfold execShl
  with_reducible repeat' (first
    | assumption | apply sregOp_stays)

theorem execShr_stays {b₀ : State} {r : Fin 16} {k : Fin 4} {s : State} (hs : b₀.stays s) :
    b₀.outs (execShr r k s) := by
  unfold execShr
  with_reducible repeat' (first
    | assumption | apply sregOp_stays)

theorem execMin_stays {b₀ : State} {r : Fin 16} {k : Fin 4} {s : State} (hs : b₀.stays s) :
    b₀.outs (execMin r k s) := by
  unfold execMin
  with_reducible repeat' (first
    | assumption | apply sregOp_stays)

theorem execMax_stays {b₀ : State} {r : Fin 16} {k : Fin 4} {s : State} (hs : b₀.stays s) :
    b₀.outs (execMax r k s) := by
  unfold execMax
  with_reducible repeat' (first
    | assumption | apply sregOp_stays)

theorem execLd_stays {b₀ : State} {r : Fin 16} {k : Fin 4} {s : State} (hs : b₀.stays s) :
    b₀.outs (execLd r k s) := by
  unfold execLd
  with_reducible repeat' (first
    | assumption | apply stays_ite | apply onWord_stays | apply illegal_stays | apply waitFor_stays | apply outs_next | apply outs_ite
    | apply opts2_some | apply opts2_none | apply opts2_ite | intro _)

theorem execLdComplete_stays {b₀ : State} {r : Fin 16} {k : Fin 4} {s : State} (hs : b₀.stays s) :
    b₀.outs (execLdComplete r k s) := by
  unfold execLdComplete
  with_reducible repeat' (first
    | assumption | refine stays_of_fst (by assumption) ?_ | apply stays_ite | apply stays_ite1 | apply stays_iterd
    | apply read_stays | apply translate_stays | apply itemFault_stays | apply updSlot_stays | apply resume_stays
    | apply trace_stays | apply outs_next | apply outs_fault | apply outs_ite | intro _ | split | dsimp only)

theorem execSt_stays {b₀ : State} {r : Fin 16} {k : Fin 4} {s : State} (hs : b₀.stays s) :
    b₀.outs (execSt r k s) := by
  unfold execSt
  with_reducible repeat' (first
    | assumption | refine stays_of_fst (by assumption) ?_ | apply stays_ite | apply stays_ite1 | apply onWord_stays
    | apply illegal_stays | apply translate_stays | apply itemFault_stays | apply writeRaw_stays | apply outs_next
    | apply outs_fault | apply outs_ite | intro _ | split | dsimp only)

theorem execLdd_stays {b₀ : State} {r : Fin 16} {k : Fin 4} {s : State} (hs : b₀.stays s) :
    b₀.outs (execLdd r k s) := by
  unfold execLdd
  with_reducible repeat' (first
    | assumption | apply stays_ite | apply onWord_stays | apply illegal_stays | apply waitFor_stays | apply outs_next | apply outs_ite
    | apply opts2_some | apply opts2_none | apply opts2_ite | intro _)

theorem fillDesc_stays {b₀ s : State} {r k ds va : Nat} {x : Desc} (hs : b₀.stays s) :
    b₀.stays (State.fillDesc s r k ds va x) := by
  unfold State.fillDesc
  with_reducible repeat' (first
    | assumption | apply stays_ite | apply itemFault_stays | apply updSlot_stays | apply resume_stays | intro _)

theorem execLddComplete_stays {b₀ : State} {r : Fin 16} {k : Fin 4} {s : State} (hs : b₀.stays s) :
    b₀.outs (execLddComplete r k s) := by
  unfold execLddComplete
  with_reducible repeat' (first
    | assumption | refine stays_of_fst (by assumption) ?_ | apply stays_ite | apply stays_ite1 | apply stays_iterd
    | apply read_stays | apply translate_stays | apply itemFault_stays | apply fillDesc_stays | apply outs_next | apply outs_fault
    | apply outs_ite | intro _ | split | dsimp only)

theorem execRdt_stays {b₀ : State} {r : Fin 16} {k : Fin 4} {s : State} (hs : b₀.stays s) :
    b₀.outs (execRdt r k s) := by
  unfold execRdt
  with_reducible repeat' (first
    | assumption | refine stays_of_fst (by assumption) ?_ | apply stays_ite | apply stays_ite1 | apply onWord_stays
    | apply illegal_stays | apply replayEntry_stays | apply replayNext_stays | apply updSlot_stays | apply diverge_stays
    | apply trace_stays | apply outs_next | apply outs_fault | apply outs_ite | intro _ | split | dsimp only)

theorem execTest_stays {b₀ : State} {r : Fin 16} {k : Fin 4} {s : State} (hs : b₀.stays s) :
    b₀.outs (execTest r k s) := by
  unfold execTest
  with_reducible repeat' (first
    | assumption | apply stays_ite | apply onWord_stays | apply loopError_stays | apply illegal_stays | apply updSlot_stays
    | apply outs_next | apply outs_fault | apply outs_ite | intro _ | (simp only [stays_mk]; refine stays_core ?_) | split
    | dsimp only)

theorem execWaitWatchdog_stays {b₀ : State} {r : Fin 16} {k : Fin 4} {s : State} (hs : b₀.stays s) :
    b₀.outs (execWaitWatchdog r k s) := by
  unfold execWaitWatchdog
  with_reducible repeat' (first
    | assumption | apply stays_ite | apply updSlot_stays | apply raise_stays | apply outs_next | apply outs_fault | apply outs_ite
    | intro _ | (simp only [stays_mk]; refine stays_core ?_) | split | dsimp only)

theorem execProgramFetch_stays {b₀ : State} {r : Fin 16} {k : Fin 4} {s : State} (hs : b₀.stays s) :
    b₀.outs (execProgramFetch r k s) := by
  unfold execProgramFetch
  with_reducible repeat' (first
    | assumption | refine stays_of_fst (by assumption) ?_ | apply stays_ite | apply stays_ite1 | apply stays_iterd
    | apply translate_stays | apply itemFault_stays | apply read_stays | apply updRg_stays | apply resume_stays | apply outs_next
    | apply outs_fault | apply outs_ite | intro _ | (simp only [stays_mk]; refine stays_core ?_) | split | dsimp only)

theorem pbStart_stays {b₀ s : State} {d v : Nat} (hs : b₀.stays s) :
    b₀.stays (State.pbStart s d v) := by
  unfold State.pbStart
  with_reducible repeat' (first
    | assumption | apply stays_foldl | apply stays_foldl1 | apply stays_foldl2 | apply updCtx_stays | apply setFld_stays
    | apply updRg_stays | intro _)

theorem onPbinv_stays {b₀ s : State} {d v : Nat} (hs : b₀.stays s) :
    b₀.stays (State.onPbinv s d v) := by
  unfold State.onPbinv
  with_reducible repeat' (first
    | assumption | apply stays_ite | apply updCtx_stays | apply pbStart_stays | intro _)

theorem execPbinvDone_stays {b₀ : State} {d : Fin 2} {s : State} (hs : b₀.stays s) :
    b₀.outs (execPbinvDone d s) := by
  unfold execPbinvDone
  with_reducible repeat' (first
    | assumption | apply stays_ite | apply updCtx_stays | apply setFld_stays | apply pbStart_stays | apply outs_next | apply outs_ite
    | intro _ | (simp only [stays_mk]; refine stays_core ?_) | split)

theorem onDoorbell_stays {b₀ : State} {s : State} {d v : Nat} (hs : b₀.stays s) :
    b₀.stays (State.onDoorbell s d v) := by
  unfold State.onDoorbell
  with_reducible repeat' (first
    | assumption | apply stays_ite | apply setDoorbell_stays | apply raise_stays | apply joinFill_stays | intro _
    | (simp only [stays_mk]; refine stays_core ?_))

theorem onKill_stays {b₀ s : State} {d v : Nat} (hs : b₀.stays s) :
    b₀.stays (State.onKill s d v) := by
  unfold State.onKill
  with_reducible repeat' (first
    | assumption | apply stays_ite | apply itemFault_stays | intro _)

theorem startEntry_stays {b₀ : State} {s : State} {r k : Nat} {c : Sched} (hs : b₀.stays s) :
    b₀.stays (State.startEntry s r k c) := by
  unfold State.startEntry
  with_reducible repeat' (first
    | assumption | refine stays_of_fst (by assumption) ?_ | apply stays_ite | apply stays_ite1 | apply stays_iterd
    | apply translate_stays | apply read_stays | apply itemFault_stays | apply updSlot_stays | apply trace_stays | intro _
    | (simp only [stays_mk]; refine stays_core ?_) | split | dsimp only)

theorem startSched_stays {b₀ : State} {s : State} {r k : Nat} (hs : b₀.stays s) :
    b₀.stays (State.startSched s r k) := by
  unfold State.startSched
  with_reducible repeat' (first
    | assumption | refine stays_of_fst (by assumption) ?_ | apply translate_stays | apply read_stays | apply itemFault_stays
    | apply updSlot_stays | apply startEntry_stays | intro _ | (simp only [stays_mk]; refine stays_core ?_) | split | dsimp only)

theorem quotaRefuse_stays {b₀ : State} {s : State} {d c : Nat} (hs : b₀.stays s) :
    b₀.stays (State.quotaRefuse s d c) := by
  unfold State.quotaRefuse
  with_reducible repeat' (first
    | assumption | apply stays_ite | apply tally_stays | apply updCtx_stays | apply raise_stays | intro _
    | (simp only [stays_mk]; refine stays_core ?_))

theorem gated_stays {b₀ : State} {s : State} {c r : Nat} (hs : b₀.stays s) :
    b₀.stays (State.gated s c r).1 := by
  unfold State.gated
  with_reducible repeat' (first
    | assumption | refine stays_of_fst (by assumption) ?_ | apply stays_ite | apply stays_ite1 | apply stays_iterd
    | apply read_stays | intro _ | split | dsimp only)

theorem candidates_stays {b₀ : State} {s : State} {r : Nat} (hs : b₀.stays s) :
    b₀.stays (State.candidates s r).1 := by
  unfold State.candidates
  with_reducible repeat' (first
    | assumption | apply stays_ite | apply stays_ite1 | apply stays_foldl | apply stays_foldl1 | apply stays_foldl2
    | apply checkEntry_stays | apply quotaRefuse_stays | apply gated_stays | apply tally_stays | intro _)

theorem noteStep_stays {b₀ s : State} {c step : Nat} (hs : b₀.stays s) :
    b₀.stays (State.noteStep s c step) := by
  unfold State.noteStep
  with_reducible repeat' (first
    | assumption | apply stays_ite | apply stays_getD | intro _ | (simp only [stays_mk]; refine stays_core ?_))

theorem startItem_stays {b₀ s : State} {r k c a : Nat} {b : List Byte} (hs : b₀.stays s) :
    b₀.stays (State.startItem s r k c a b) := by
  unfold State.startItem
  with_reducible repeat' (first
    | assumption | apply stays_ite | apply stays_getD | apply updSlot_stays | apply updRg_stays | apply updCached_stays
    | apply noteStep_stays | apply replayNext_stays | apply trace_stays | apply itemFault_stays | apply startSched_stays
    | apply waitFor_stays | intro _)

theorem takeItem_stays {b₀ : State} {s : State} {r k c : Nat} (hs : b₀.stays s) :
    b₀.stays (State.takeItem s r k c) := by
  unfold State.takeItem
  with_reducible repeat' (first
    | assumption | apply read_stays | apply writeRaw_stays | apply startItem_stays | intro _)

theorem execItemTake_stays {b₀ : State} {r : Fin 16} {s : State} (hs : b₀.stays s) :
    b₀.outs (execItemTake r s) := by
  unfold execItemTake
  with_reducible repeat' (first
    | assumption | refine stays_of_fst (by assumption) ?_ | apply stays_ite | apply stays_ite1 | apply candidates_stays
    | apply takeItem_stays | apply outs_next | apply outs_ite | intro _ | (simp only [stays_mk]; refine stays_core ?_) | split
    | dsimp only)

theorem execEndProgram_stays {b₀ : State} {r : Fin 16} {k : Fin 4} {s : State} (hs : b₀.stays s) :
    b₀.outs (execEndProgram r k s) := by
  unfold execEndProgram
  with_reducible repeat' (first
    | assumption | apply stays_ite | apply onWord_stays | apply illegal_stays | apply trace_stays | apply updSlot_stays
    | apply startEntry_stays | apply outs_next | apply outs_fault | apply outs_ite | intro _
    | (simp only [stays_mk]; refine stays_core ?_) | split | dsimp only)

theorem regionClock_stays {b₀ s : State} {r : Nat} (hs : b₀.stays s) :
    b₀.stays (State.regionClock s r) := by
  unfold State.regionClock
  with_reducible repeat' (first
    | assumption | apply stays_ite | apply tally_stays | intro _)

/-! ## DealerHands -/

theorem collectWords_stays {b₀ : State} {x0 : Nat} {x1 : State} {x2 x3 : Nat} (hx1 : b₀.stays x1) :
    b₀.stays (State.collectWords x0 x1 x2 x3) := by
  induction x0 generalizing x1 x2 x3 with
  | zero =>
    unfold State.collectWords
    with_reducible repeat' (first
      | assumption | apply stays_ite | apply updSlot_stays | apply decoded_stays | apply illegal_stays | intro _
      | (simp only [stays_mk]; refine stays_core ?_) | split | dsimp only)
  | succ k ih =>
    unfold State.collectWords
    with_reducible repeat' (first
      | apply ih | assumption | apply stays_ite | apply updSlot_stays | apply decoded_stays | apply illegal_stays | intro _
      | (simp only [stays_mk]; refine stays_core ?_) | split | dsimp only)

theorem execHand_stays {b₀ : State} {r : Fin 16} {k : Fin 4} {s : State} (hs : b₀.stays s) :
    b₀.outs (execHand r k s) := by
  unfold execHand
  with_reducible repeat' (first
    | assumption | apply stays_ite | apply collectWords_stays | apply onWord_stays | apply illegal_stays | apply updSlot_stays
    | apply outs_next | apply outs_ite | apply opts2_some | apply opts2_none | apply opts2_ite | intro _)

theorem dealTo_stays {b₀ s : State} {r k c : Nat} {h : OpenHand} {used : Bool} {ws : List HandWord} (hs : b₀.stays s) :
    b₀.stays (State.dealTo s r k c h used ws) := by
  unfold State.dealTo
  with_reducible repeat' (first
    | assumption | apply stays_ite | apply waitFor_stays | apply updCl_stays | apply updSlot_stays | apply tally_stays | intro _)

theorem skipHand_stays {b₀ s : State} {r k : Nat} (hs : b₀.stays s) :
    b₀.stays (State.skipHand s r k) := by
  unfold State.skipHand
  with_reducible repeat' (first
    | assumption | apply updSlot_stays | apply tally_stays)

theorem dealChecked_stays {b₀ : State} {s : State} {r k c : Nat} {h : OpenHand} {used skip : Bool} {ws : List Nat} (hs : b₀.stays s) :
    b₀.stays (State.dealChecked s r k c h used skip ws) := by
  unfold State.dealChecked
  with_reducible repeat' (first
    | assumption | apply stays_ite | apply itemFault_stays | apply skipHand_stays | apply dealTo_stays | intro _ | split
    | dsimp only)

theorem dealHand_stays {b₀ : State} {s : State} {r k : Nat} {h : OpenHand} (hs : b₀.stays s) :
    b₀.stays (State.dealHand s r k h) := by
  unfold State.dealHand
  with_reducible repeat' (first
    | assumption | apply stays_ite | apply loopError_stays | apply itemFault_stays | apply dealChecked_stays | intro _ | split
    | dsimp only)

theorem execHandDeal_stays {b₀ : State} {r : Fin 16} {k : Fin 4} {s : State} (hs : b₀.stays s) :
    b₀.outs (execHandDeal r k s) := by
  unfold execHandDeal
  with_reducible repeat' (first
    | assumption | apply stays_ite | apply dealHand_stays | apply outs_next | apply outs_ite | intro _
    | (simp only [stays_mk]; refine stays_core ?_) | split | dsimp only)

end Sys2Proof.Machine
end

