-- ==== Sys2Proof/Laws/StaysMeld.lean ====
section
/-! SUPPORT. Every operation of messages and Meld keeps the queue and the soundness of the state: one lemma for each. -/

namespace Sys2Proof.Machine

set_option linter.unusedTactic false
set_option linter.unusedSimpArgs false
set_option linter.unreachableTactic false

/-! ## Fabric -/

theorem updFab_stays {b₀ s : State} {d : Nat} {f : FabDie → FabDie} (hs : b₀.stays s) :
    b₀.stays (State.updFab s d f) := by
  unfold State.updFab
  with_reducible repeat' (first
    | assumption | (simp only [stays_mk]; refine stays_core ?_))

theorem updLk_stays {b₀ s : State} {d i : Nat} {f : Lk → Lk} (hs : b₀.stays s) :
    b₀.stays (State.updLk s d i f) := by
  unfold State.updLk
  with_reducible repeat' (first
    | assumption | apply updFab_stays)

theorem setLink_stays {b₀ s : State} {d i n : Nat} (hs : b₀.stays s) :
    b₀.stays (State.setLink s d i n) := by
  unfold State.setLink
  with_reducible repeat' (first
    | assumption | apply setFld_stays)

theorem stage_stays {b₀ s : State} {f : Fld} (hs : b₀.stays s) :
    b₀.stays (State.stage s f) := by
  unfold State.stage
  with_reducible repeat' (first
    | assumption | apply stays_ite | apply setFld_stays | apply raise_stays | intro _)

theorem flitOut_stays {b₀ s : State} {d i seq : Nat} {idle : Bool} {slots : List Nat} (hs : b₀.stays s) :
    b₀.stays (State.flitOut s d i seq idle slots) := by
  unfold State.flitOut
  with_reducible repeat' (first
    | assumption | apply stays_ite | apply updLk_stays | apply tally_stays | apply emit_stays | intro _)

theorem flitNew_stays {b₀ s : State} {d i : Nat} {slots : List Nat} (hs : b₀.stays s) :
    b₀.stays (State.flitNew s d i slots) := by
  unfold State.flitNew
  with_reducible repeat' (first
    | assumption | apply updLk_stays | apply flitOut_stays)

theorem countSegs_stays {b₀ : State} {s : State} {d : Nat} {l : List Msg} (hs : b₀.stays s) :
    b₀.stays (State.countSegs s d l) := by
  unfold State.countSegs
  with_reducible repeat' (first
    | assumption | apply stays_ite | apply tally_stays | intro _)

theorem pump_stays {b₀ : State} {s : State} {d i : Nat} (hs : b₀.stays s) :
    b₀.stays (State.pump s d i) := by
  unfold State.pump
  with_reducible repeat' (first
    | assumption | apply stays_ite | apply stays_foldl | apply stays_foldl1 | apply stays_foldl2 | apply flitOut_stays
    | apply updLk_stays | apply countSegs_stays | apply flitNew_stays | intro _ | (simp only [stays_mk]; refine stays_core ?_))

theorem enqueue_stays {b₀ : State} {s : State} {d i : Nat} {m : Msg} (hs : b₀.stays s) :
    b₀.stays (State.enqueue s d i m) := by
  unfold State.enqueue
  with_reducible repeat' (first
    | assumption | apply stays_ite | apply updLk_stays | apply pump_stays | intro _ | (simp only [stays_mk]; refine stays_core ?_))

theorem crossBridge_stays {b₀ : State} {s : State} {d : Nat} {m : Msg} (hs : b₀.stays s) :
    b₀.stays (State.crossBridge s d m) := by
  unfold State.crossBridge
  with_reducible repeat' (first
    | assumption | apply stays_ite | apply tally_stays | intro _ | (simp only [stays_mk]; refine stays_core ?_))

theorem leave_stays {b₀ : State} {s : State} {d code : Nat} {m : Msg} (hs : b₀.stays s) :
    b₀.stays (State.leave s d code m) := by
  unfold State.leave
  with_reducible repeat' (first
    | assumption | apply stays_ite | apply enqueue_stays | apply countSegs_stays | apply crossBridge_stays | intro _)

theorem send_stays {b₀ s : State} {d : Nat} {m : Msg} (hs : b₀.stays s) :
    b₀.stays (State.send s d m).1 := by
  unfold State.send
  with_reducible repeat' (first
    | assumption | refine stays_of_fst (by assumption) ?_ | apply stays_ite | apply stays_ite1 | apply count32_stays | apply tally_stays
    | apply leave_stays | intro _ | (simp only [stays_mk]; refine stays_core ?_) | split)

theorem dropForwarded_stays {b₀ s : State} {d : Nat} {m : Msg} (hs : b₀.stays s) :
    b₀.stays (State.dropForwarded s d m) := by
  unfold State.dropForwarded
  with_reducible repeat' (first
    | assumption | apply stays_ite | apply stays_ite1 | apply count32_stays | apply raise_stays | apply send_stays | intro _)

theorem forward_stays {b₀ s : State} {d : Nat} {m : Msg} (hs : b₀.stays s) :
    b₀.stays (State.forward s d m) := by
  unfold State.forward
  with_reducible repeat' (first
    | assumption | apply stays_ite | apply dropForwarded_stays | apply tally_stays | apply leave_stays | intro _
    | (simp only [stays_mk]; refine stays_core ?_) | split)

theorem sendReq_stays {b₀ : State} {s : State} {d : Nat} {q : Req} (hs : b₀.stays s) :
    b₀.stays (State.sendReq s d q) := by
  unfold State.sendReq
  with_reducible repeat' (first
    | assumption | refine stays_of_fst (by assumption) ?_ | apply stays_ite | apply stays_ite1 | apply send_stays
    | apply updFab_stays | intro _ | (simp only [stays_mk]; refine stays_core ?_) | split | dsimp only)

theorem remoteWrite_stays {b₀ : State} {s : State} {d dst addr : Nat} {data : List Byte} {idem fx : Bool} {kind : ReqKind} (hs : b₀.stays s) :
    b₀.stays (State.remoteWrite s d dst addr data idem fx kind) := by
  unfold State.remoteWrite
  with_reducible repeat' (first
    | assumption | apply updFab_stays | apply sendReq_stays | intro _ | (simp only [stays_mk]; refine stays_core ?_))

theorem remoteRead_stays {b₀ : State} {s : State} {d dst addr len : Nat} {kind : ReqKind} (hs : b₀.stays s) :
    b₀.stays (State.remoteRead s d dst addr len kind) := by
  unfold State.remoteRead
  with_reducible repeat' (first
    | assumption | apply updFab_stays | apply sendReq_stays | intro _ | (simp only [stays_mk]; refine stays_core ?_))

theorem endReq_stays {b₀ s : State} {d tag : Nat} {st : ReqStatus} {data : List Byte} (hs : b₀.stays s) :
    b₀.stays (State.endReq s d tag st data) := by
  unfold State.endReq
  with_reducible repeat' (first
    | assumption | apply stays_ite | apply updFab_stays)

theorem dropReqs_stays {b₀ s : State} {d : Nat} {p : ReqKind → Bool} (hs : b₀.stays s) :
    b₀.stays (State.dropReqs s d p) := by
  unfold State.dropReqs
  with_reducible repeat' (first
    | assumption | apply updFab_stays)

theorem landed_stays {b₀ : State} {s : State} {d : Nat} {m : Msg} (hs : b₀.stays s) :
    b₀.stays (State.landed s d m) := by
  unfold State.landed
  with_reducible repeat' (first
    | assumption | intro _ | (simp only [stays_mk]; refine stays_core ?_))

theorem parked_stays {b₀ : State} {s : State} {d via : Nat} {m : Msg} (hs : b₀.stays s) :
    b₀.stays (State.parked s d via m) := by
  unfold State.parked
  with_reducible repeat' (first
    | assumption | apply stays_ite | apply landed_stays | intro _)

theorem arriving_stays {b₀ : State} {s : State} {d place : Nat} {m : Msg} (hs : b₀.stays s) :
    b₀.opts (State.arriving s d place m) := by
  unfold State.arriving
  with_reducible repeat' (first
    | assumption | refine stays_of_some (by assumption) ?_ | apply stays_ite | apply opts_some | apply opts_none | apply opts_ite
    | apply opts_bind | apply opts_map | intro _ | (simp only [stays_mk]; refine stays_core ?_))

theorem arrives_stays {b₀ : State} {s : State} {d via : Nat} {m : Msg} {kind : Nat} (hs : b₀.stays s) :
    b₀.opts (State.arrives s d via m kind) := by
  unfold State.arrives
  with_reducible repeat' (first
    | assumption | refine stays_of_some (by assumption) ?_ | apply stays_ite | apply arriving_stays | apply opts_some
    | apply opts_none | apply opts_ite | apply opts_bind | apply opts_map | intro _)

/-! ## Collect -/

theorem queueColl_stays {b₀ s : State} {r k va w : Nat} {sd dd : Tile} {exceeds : Bool} (hs : b₀.stays s) :
    b₀.stays (State.queueColl s r k va w sd dd exceeds) := by
  unfold State.queueColl
  with_reducible repeat' (first
    | assumption | apply updSlot_stays | apply updFab_stays)

theorem collWord_stays {b₀ : State} {s : State} {r k : Nat} {o : Op} (hs : b₀.stays s) :
    b₀.outs (State.collWord s r k o) := by
  unfold State.collWord
  with_reducible repeat' (first
    | assumption | apply stays_ite | apply waitFor_stays | apply onWord_stays | apply illegal_stays | apply itemFault_stays
    | apply queueColl_stays | apply outs_next | apply outs_fault | apply outs_ite | intro _ | split | dsimp only)

theorem execReduceScatter_stays {b₀ : State} {r : Fin 16} {k : Fin 4} {s : State} (hs : b₀.stays s) :
    b₀.outs (execReduceScatter r k s) := by
  unfold execReduceScatter
  with_reducible repeat' (first
    | assumption | apply collWord_stays)

theorem execAllGather_stays {b₀ : State} {r : Fin 16} {k : Fin 4} {s : State} (hs : b₀.stays s) :
    b₀.outs (execAllGather r k s) := by
  unfold execAllGather
  with_reducible repeat' (first
    | assumption | apply collWord_stays)

theorem execAllReduce_stays {b₀ : State} {r : Fin 16} {k : Fin 4} {s : State} (hs : b₀.stays s) :
    b₀.outs (execAllReduce r k s) := by
  unfold execAllReduce
  with_reducible repeat' (first
    | assumption | apply collWord_stays)

theorem execBroadcast_stays {b₀ : State} {r : Fin 16} {k : Fin 4} {s : State} (hs : b₀.stays s) :
    b₀.outs (execBroadcast r k s) := by
  unfold execBroadcast
  with_reducible repeat' (first
    | assumption | apply collWord_stays)

theorem execPermute_stays {b₀ : State} {r : Fin 16} {k : Fin 4} {s : State} (hs : b₀.stays s) :
    b₀.outs (execPermute r k s) := by
  unfold execPermute
  with_reducible repeat' (first
    | assumption | apply collWord_stays)

theorem rowPieces_stays {b₀ s : State} {d ctx : Nat} {x : Tile} {row : Nat × Nat × Nat} {a n : Nat} {ty : AccTy} (hs : b₀.stays s) :
    b₀.stays (State.rowPieces s d ctx x row a n ty).1 := by
  unfold State.rowPieces
  with_reducible repeat' (first
    | assumption | apply translateRange_stays)

theorem tilePieces_stays {b₀ s : State} {d ctx : Nat} {x : Tile} {ty : AccTy} (hs : b₀.stays s) :
    b₀.stays (State.tilePieces s d ctx x ty).1 := by
  unfold State.tilePieces
  with_reducible repeat' (first
    | assumption | refine stays_of_fst (by assumption) ?_ | apply stays_foldl | apply stays_foldl1 | apply stays_foldl2
    | apply rowPieces_stays | intro _ | (simp only [stays_mk]; refine stays_core ?_) | split | dsimp only)

theorem readTile_stays {b₀ s : State} {d : Nat} {x : Tile} {ps : List (List (Nat × Nat) × Nat)} (hs : b₀.stays s) :
    b₀.stays (State.readTile s d x ps).1 := by
  unfold State.readTile
  with_reducible repeat' (first
    | assumption | apply stays_foldl | apply stays_foldl1 | apply stays_foldl2 | apply readPieces_stays | intro _)

theorem writeRowElems_stays {b₀ s : State} {d ctx : Nat} {x : Tile} {row : Nat × Nat × Nat} {a : Nat} {es : List Nat} (hs : b₀.stays s) :
    b₀.stays (State.writeRowElems s d ctx x row a es).1 := by
  unfold State.writeRowElems
  with_reducible repeat' (first
    | assumption | refine stays_of_fst (by assumption) ?_ | apply stays_ite | apply stays_ite1 | apply rowPieces_stays
    | apply writePieces_stays | apply readPieces_stays | intro _ | (simp only [stays_mk]; refine stays_core ?_) | split | dsimp only)

theorem writeElems_stays {b₀ s : State} {d ctx : Nat} {x : Tile} {first : Nat} {es : List Nat} (hs : b₀.stays s) :
    b₀.stays (State.writeElems s d ctx x first es).1 := by
  unfold State.writeElems
  with_reducible repeat' (first
    | assumption | apply stays_ite | apply stays_ite1 | apply stays_foldl | apply stays_foldl1 | apply stays_foldl2
    | apply writeRowElems_stays | intro _)

theorem updColl_stays {b₀ s : State} {d rt : Nat} {f : Coll → Coll} (hs : b₀.stays s) :
    b₀.stays (State.updColl s d rt f) := by
  unfold State.updColl
  with_reducible repeat' (first
    | assumption | apply stays_ite | apply updFab_stays)

theorem leaveVia_stays {b₀ : State} {s : State} {d code : Nat} {m : Msg} (hs : b₀.stays s) :
    b₀.stays (State.leaveVia s d code m) := by
  unfold State.leaveVia
  with_reducible repeat' (first
    | assumption | apply stays_ite | apply countSegs_stays | apply leave_stays | intro _
    | (simp only [stays_mk]; refine stays_core ?_))

theorem sendSegs_stays {b₀ : State} {x0 : Nat} {x1 : State} {x2 x3 x4 : Nat} (hx1 : b₀.stays x1) :
    b₀.stays (State.sendSegs x0 x1 x2 x3 x4) := by
  induction x0 generalizing x1 x2 x3 x4 with
  | zero =>
    unfold State.sendSegs
    with_reducible repeat' (first
      | assumption | apply stays_ite | apply leaveVia_stays | apply updColl_stays | intro _
      | (simp only [stays_mk]; refine stays_core ?_) | split | dsimp only)
  | succ k ih =>
    unfold State.sendSegs
    with_reducible repeat' (first
      | apply ih | assumption | apply stays_ite | apply leaveVia_stays | apply updColl_stays | intro _
      | (simp only [stays_mk]; refine stays_core ?_) | split | dsimp only)

theorem resendSegs_stays {b₀ : State} {s : State} {d : Nat} {c : Coll} {x : CollSend} {upTo : Nat} (hs : b₀.stays s) :
    b₀.stays (State.resendSegs s d c x upTo) := by
  unfold State.resendSegs
  with_reducible repeat' (first
    | assumption | apply stays_ite | apply stays_foldl | apply stays_foldl1 | apply stays_foldl2 | apply State_mark_stays
    | apply leaveVia_stays | intro _)

theorem resumeSends_stays {b₀ : State} {s : State} {d : Nat} (hs : b₀.stays s) :
    b₀.stays (State.resumeSends s d) := by
  unfold State.resumeSends
  with_reducible repeat' (first
    | assumption | apply stays_foldl | apply stays_foldl1 | apply stays_foldl2 | apply sendSegs_stays | intro _)

theorem notice_stays {b₀ : State} {s : State} {d rt : Nat} {c : Coll} {flags to_ step offset : Nat} (hs : b₀.stays s) :
    b₀.stays (State.notice s d rt c flags to_ step offset) := by
  unfold State.notice
  with_reducible repeat' (first
    | assumption | apply leaveVia_stays | intro _ | split | dsimp only)

theorem notices_stays {b₀ s : State} {d rt : Nat} {c : Coll} {flags : Nat} (hs : b₀.stays s) :
    b₀.stays (State.notices s d rt c flags) := by
  unfold State.notices
  with_reducible repeat' (first
    | assumption | apply stays_foldl | apply stays_foldl1 | apply stays_foldl2 | apply notice_stays | intro _)

theorem collEnd_stays {b₀ : State} {s : State} {d rt : Nat} {c : Coll} {fault : Bool} (hs : b₀.stays s) :
    b₀.stays (State.collEnd s d rt c fault) := by
  unfold State.collEnd
  with_reducible repeat' (first
    | assumption | apply stays_ite | apply updFab_stays | apply updSlot_stays | apply tally_stays | apply resumeSends_stays
    | intro _ | (simp only [stays_mk]; refine stays_core ?_))

theorem collFault_stays {b₀ : State} {s : State} {d rt code peer : Nat} {det : Option Nat} {send : Bool} (hs : b₀.stays s) :
    b₀.stays (State.collFault s d rt code peer det send) := by
  unfold State.collFault
  with_reducible repeat' (first
    | assumption | refine stays_of_fst (by assumption) ?_ | apply stays_ite | apply stays_ite1 | apply stays_getD
    | apply recordFirst_stays | apply raise_stays | apply send_stays | apply notices_stays | apply collEnd_stays
    | apply itemFault_stays | intro _ | split | dsimp only)

theorem countEval_stays {b₀ s : State} {d : Nat} {e : Eval} (hs : b₀.stays s) :
    b₀.stays (State.countEval s d e) := by
  unfold State.countEval
  with_reducible repeat' (first
    | assumption | apply stays_ite | apply tally_stays | intro _)

theorem beginSend_stays {b₀ : State} {s : State} {d rt i : Nat} {c : Coll} {x : CollSend} (hs : b₀.stays s) :
    b₀.stays (State.beginSend s d rt i c x) := by
  unfold State.beginSend
  with_reducible repeat' (first
    | assumption | apply stays_ite | apply stays_foldl | apply stays_foldl1 | apply stays_foldl2 | apply count32_stays
    | apply collFault_stays | apply tally_stays | apply countEval_stays | apply updColl_stays | apply sendSegs_stays | intro _
    | (simp only [stays_mk]; refine stays_core ?_) | split | dsimp only)

theorem makeWrite_stays {b₀ s : State} {d rt i : Nat} {c : Coll} {x : CollWrite} (hs : b₀.stays s) :
    b₀.stays (State.makeWrite s d rt i c x) := by
  unfold State.makeWrite
  with_reducible repeat' (first
    | assumption | refine stays_of_fst (by assumption) ?_ | apply stays_ite | apply stays_ite1 | apply stays_foldl | apply stays_foldl1
    | apply stays_foldl2 | apply State_mark_stays | apply updColl_stays | apply countEval_stays | apply writeElems_stays
    | apply collFault_stays | intro _ | (simp only [stays_mk]; refine stays_core ?_) | split | dsimp only)

theorem collGo_stays {b₀ s : State} {d rt : Nat} (hs : b₀.stays s) :
    b₀.stays (State.collGo s d rt) := by
  unfold State.collGo
  with_reducible repeat' (first
    | assumption | apply stays_ite | apply stays_foldl | apply stays_foldl1 | apply stays_foldl2 | apply makeWrite_stays
    | apply beginSend_stays | intro _ | (simp only [stays_mk]; refine stays_core ?_) | split)

theorem sack_stays {b₀ s : State} {d rt inst step dst mark : Nat} {fx : Bool} (hs : b₀.stays s) :
    b₀.stays (State.sack s d rt inst step dst mark fx) := by
  unfold State.sack
  with_reducible repeat' (first
    | assumption | apply send_stays)

theorem segAccept_stays {b₀ s : State} {d rt i : Nat} {c : Coll} {x : CollRecv} {m : Msg} (hs : b₀.stays s) :
    b₀.stays (State.segAccept s d rt i c x m) := by
  unfold State.segAccept
  with_reducible repeat' (first
    | assumption | apply stays_ite | apply updColl_stays | apply tally_stays | apply collFault_stays | apply sack_stays | intro _)

theorem segApply_stays {b₀ : State} {s : State} {d rt : Nat} {c : Coll} {m : Msg} (hs : b₀.stays s) :
    b₀.stays (State.segApply s d rt c m) := by
  unfold State.segApply
  with_reducible repeat' (first
    | assumption | apply stays_ite | apply stays_getD | apply tally_stays | apply collFault_stays | apply segAccept_stays
    | apply sack_stays | apply collGo_stays | intro _ | split | dsimp only)

theorem freeKept_stays {b₀ : State} {s : State} {d : Nat} (hs : b₀.stays s) :
    b₀.stays (State.freeKept s d) := by
  unfold State.freeKept
  with_reducible repeat' (first
    | assumption | apply stays_ite | apply stays_getD | apply updFab_stays | intro _)

theorem segArrive_stays {b₀ : State} {s : State} {d : Nat} {m : Msg} (hs : b₀.stays s) :
    b₀.stays (State.segArrive s d m) := by
  unfold State.segArrive
  with_reducible repeat' (first
    | assumption | apply stays_ite | apply updFab_stays | apply segApply_stays | apply tally_stays | intro _
    | (simp only [stays_mk]; refine stays_core ?_) | split | dsimp only)

theorem sackArrive_stays {b₀ : State} {s : State} {d : Nat} {m : Msg} (hs : b₀.stays s) :
    b₀.stays (State.sackArrive s d m) := by
  unfold State.sackArrive
  with_reducible repeat' (first
    | assumption | apply stays_ite | apply stays_getD | apply State_mark_stays | apply updColl_stays | apply acked_stays
    | apply resumeSends_stays | intro _ | (simp only [stays_mk]; refine stays_core ?_) | split | dsimp only)

theorem freeCollWaits_stays {b₀ s : State} {d : Nat} (hs : b₀.stays s) :
    b₀.stays (State.freeCollWaits s d) := ⟨hs.1, fun h => ⟨(hs.2 h).1, (hs.2 h).2.1, (hs.2 h).2.2.1, by simpa [State.freeCollWaits] using (hs.2 h).2.2.2⟩⟩

theorem rankMap_stays {b₀ : State} {s : State} {d : Nat} {e : List Nat} (hs : b₀.stays s) :
    b₀.stays (State.rankMap s d e).1 := by
  unfold State.rankMap
  with_reducible repeat' (first
    | assumption | apply stays_ite | apply stays_ite1 | apply stays_iterd | apply read_stays | intro _)

theorem applyEarly_stays {b₀ : State} {s : State} {d rt inst : Nat} (hs : b₀.stays s) :
    b₀.stays (State.applyEarly s d rt inst) := by
  unfold State.applyEarly
  with_reducible repeat' (first
    | assumption | apply stays_foldl | apply stays_foldl1 | apply stays_foldl2 | apply updFab_stays | apply freeKept_stays
    | apply segArrive_stays | intro _ | (simp only [stays_mk]; refine stays_core ?_))

theorem collBegin_stays {b₀ : State} {s : State} {d rt : Nat} {c : Coll} (hs : b₀.stays s) :
    b₀.stays (State.collBegin s d rt c) := by
  unfold State.collBegin
  with_reducible repeat' (first
    | assumption | refine stays_of_fst (by assumption) ?_ | apply stays_ite | apply stays_ite1 | apply stays_iterd
    | apply tilePieces_stays | apply read_stays | apply collFault_stays | apply readTile_stays | apply updColl_stays
    | apply collGo_stays | apply applyEarly_stays | intro _ | (simp only [stays_mk]; refine stays_core ?_) | split | dsimp only)

theorem collStarts_stays {b₀ : State} {s : State} {d n : Nat} {q : CollReq} (hs : b₀.stays s) :
    b₀.stays (State.collStarts s d n q) := by
  unfold State.collStarts
  with_reducible repeat' (first
    | assumption | refine stays_of_fst (by assumption) ?_ | apply stays_ite | apply stays_ite1 | apply updFab_stays
    | apply freeCollWaits_stays | apply collFault_stays | apply rankMap_stays | apply updColl_stays | apply recordFirst_stays
    | apply notices_stays | apply collEnd_stays | apply collBegin_stays | intro _ | (simp only [stays_mk]; refine stays_core ?_)
    | split | dsimp only)

theorem execCollStart_stays {b₀ : State} {d : Fin 2} {s : State} (hs : b₀.stays s) :
    b₀.outs (execCollStart d s) := by
  unfold execCollStart
  with_reducible repeat' (first
    | assumption | apply stays_ite | apply collStarts_stays | apply outs_next | apply outs_ite | intro _
    | (simp only [stays_mk]; refine stays_core ?_) | split)

theorem execCollComplete_stays {b₀ : State} {d : Fin 2} {rt : Fin 256} {s : State} (hs : b₀.stays s) :
    b₀.outs (execCollComplete d rt s) := by
  unfold execCollComplete
  with_reducible repeat' (first
    | assumption | apply stays_ite | apply collEnd_stays | apply updSlot_stays | apply outs_next | apply outs_ite | intro _
    | (simp only [stays_mk]; refine stays_core ?_) | split)

theorem execStepTimeout_stays {b₀ : State} {d : Fin 2} {rt : Fin 256} {step : Nat} {s : State} (hs : b₀.stays s) :
    b₀.outs (execStepTimeout d rt step s) := by
  unfold execStepTimeout
  with_reducible repeat' (first
    | assumption | apply acked_stays | apply collFault_stays | apply outs_next | apply outs_fault | apply outs_ite | intro _ | split
    | dsimp only)

/-! ## MeldBase -/

theorem updMd_stays {b₀ s : State} {d : Nat} {f : MeldDie → MeldDie} (hs : b₀.stays s) :
    b₀.stays (State.updMd s d f) := by
  unfold State.updMd
  with_reducible repeat' (first
    | assumption | (simp only [stays_mk]; refine stays_core ?_))

theorem updJob_stays {b₀ s : State} {d j : Nat} {f : MeldSlot → MeldSlot} (hs : b₀.stays s) :
    b₀.stays (State.updJob s d j f) := by
  unfold State.updJob
  with_reducible repeat' (first
    | assumption | apply updMd_stays)

theorem setJobSt_stays {b₀ s : State} {d j n : Nat} (hs : b₀.stays s) :
    b₀.stays (State.setJobSt s d j n) := by
  unfold State.setJobSt
  with_reducible repeat' (first
    | assumption | apply setFld_stays)

theorem meldRaise_stays {b₀ s : State} {d code detail ctx : Nat} (hs : b₀.stays s) :
    b₀.stays (State.meldRaise s d code detail ctx) := by
  unfold State.meldRaise
  with_reducible repeat' (first
    | assumption | apply raise_stays)

theorem meldFirst_stays {b₀ s : State} {d j code : Nat} (hs : b₀.stays s) :
    b₀.stays (State.meldFirst s d j code) := by
  unfold State.meldFirst
  with_reducible repeat' (first
    | assumption | apply recordFirst_stays)

theorem raiseOnce_stays {b₀ s : State} {d j code site detail : Nat} (hs : b₀.stays s) :
    b₀.stays (State.raiseOnce s d j code site detail) := by
  unfold State.raiseOnce
  with_reducible repeat' (first
    | assumption | apply stays_ite | apply updJob_stays | apply meldRaise_stays | intro _)

theorem checkEntries_stays {b₀ : State} {s : State} {d : Nat} (hs : b₀.stays s) :
    b₀.stays (State.checkEntries s d) := by
  unfold State.checkEntries
  with_reducible repeat' (first
    | assumption | apply stays_ite | apply stays_foldl | apply stays_foldl1 | apply stays_foldl2 | apply meldRaise_stays
    | apply updMd_stays | intro _ | (simp only [stays_mk]; refine stays_core ?_))

theorem updSec_stays {b₀ s : State} {d j site : Nat} {f : Sec → Sec} (hs : b₀.stays s) :
    b₀.stays (State.updSec s d j site f) := by
  unfold State.updSec
  with_reducible repeat' (first
    | assumption | apply stays_ite | apply updJob_stays)

theorem meldRead_stays {b₀ s : State} {d a n cnt : Nat} (hs : b₀.stays s) :
    b₀.stays (State.meldRead s d a n cnt).1 := by
  unfold State.meldRead
  with_reducible repeat' (first
    | assumption | apply readMarked_stays)

theorem meldWrite_stays {b₀ s : State} {d a n : Nat} {l : List (Nat × Bool)} (hs : b₀.stays s) :
    b₀.stays (State.meldWrite s d a n l) := by
  unfold State.meldWrite
  with_reducible repeat' (first
    | assumption | apply writeMarked_stays)

theorem meldPoison_stays {b₀ s : State} {d j area block : Nat} (hs : b₀.stays s) :
    b₀.stays (State.meldPoison s d j area block) := by
  unfold State.meldPoison
  with_reducible repeat' (first
    | assumption | apply updJob_stays | apply meldFirst_stays | apply meldRaise_stays)

theorem poisonIn_stays {b₀ s : State} {d j area block : Nat} {l : List (Nat × Bool)} (hs : b₀.stays s) :
    b₀.stays (State.poisonIn s d j area block l) := by
  unfold State.poisonIn
  with_reducible repeat' (first
    | assumption | apply stays_ite | apply meldPoison_stays | intro _)

/-! ## MeldMerge -/

theorem closeTrick_stays {b₀ s : State} {d j : Nat} {early : Bool} (hs : b₀.stays s) :
    b₀.stays (State.closeTrick s d j early) := by
  unfold State.closeTrick
  with_reducible repeat' (first
    | assumption | apply stays_ite | apply updJob_stays | apply setJobSt_stays | apply setReg_stays | apply tally_stays
    | apply copyRestart_stays | intro _)

theorem closeTest_stays {b₀ s : State} {d j : Nat} (hs : b₀.stays s) :
    b₀.stays (State.closeTest s d j) := by
  unfold State.closeTest
  with_reducible repeat' (first
    | assumption | apply stays_ite | apply closeTrick_stays | intro _)

theorem execTrickClose_stays {b₀ : State} {d : Fin 2} {j : Fin 4} {s : State} (hs : b₀.stays s) :
    b₀.outs (execTrickClose d j s) := by
  unfold execTrickClose
  with_reducible repeat' (first
    | assumption | apply closeTest_stays | apply outs_next)

theorem mergeBlock_stays {b₀ s : State} {d j k b : Nat} {xs : List Nat} {m q : Nat} (hs : b₀.stays s) :
    b₀.stays (State.mergeBlock s d j k b xs m q).1 := by
  unfold State.mergeBlock
  with_reducible repeat' (first
    | assumption | apply stays_ite | apply stays_ite1 | apply stays_foldl | apply stays_foldl1 | apply stays_foldl2
    | apply meldRead_stays | apply poisonIn_stays | apply tally_stays | apply meldRaise_stays | apply meldWrite_stays | intro _)

theorem takeContribution_stays {b₀ s : State} {d j k b site age : Nat} {xs : List Nat} {m q : Nat} (hs : b₀.stays s) :
    b₀.stays (State.takeContribution s d j k b site age xs m q) := by
  unfold State.takeContribution
  with_reducible repeat' (first
    | assumption | apply stays_ite | apply stays_ite1 | apply mergeBlock_stays | apply updSec_stays | apply tally_stays
    | apply raiseOnce_stays | intro _)

theorem decideBy_stays {b₀ s : State} {d j k : Nat} {h : FragHdr} {xs : List Nat} {entry : Option PEntry} {sec : Option Sec} (hs : b₀.stays s) :
    b₀.stays (State.decideBy s d j k h xs entry sec) := by
  unfold State.decideBy
  with_reducible repeat' (first
    | assumption | apply stays_ite | apply stays_getD | apply leave_stays | apply tally_stays | apply raiseOnce_stays
    | apply updSec_stays | apply takeContribution_stays | intro _ | (simp only [stays_mk]; refine stays_core ?_) | split)

theorem decide_stays {b₀ s : State} {d j k : Nat} {h : FragHdr} {xs : List Nat} (hs : b₀.stays s) :
    b₀.stays (State.decide s d j k h xs) := by
  unfold State.decide
  with_reducible repeat' (first
    | assumption | apply decideBy_stays)

theorem intakeBlock_stays {b₀ : State} {s : State} {d j k : Nat} {h : FragHdr} {xs : List Nat} (hs : b₀.stays s) :
    b₀.stays (State.intakeBlock s d j k h xs) := by
  unfold State.intakeBlock
  with_reducible repeat' (first
    | assumption | apply stays_ite | apply closeTest_stays | apply updMd_stays | apply intake_stays | apply setFld_stays
    | apply tally_stays | apply checkEntries_stays | apply decide_stays | intro _ | (simp only [stays_mk]; refine stays_core ?_))

theorem mergeHeld_stays {b₀ : State} {s : State} {d j : Nat} (hs : b₀.stays s) :
    b₀.stays (State.mergeHeld s d j) := by
  unfold State.mergeHeld
  with_reducible repeat' (first
    | assumption | apply stays_foldl | apply stays_foldl1 | apply stays_foldl2 | apply intake_stays | apply updMd_stays
    | apply setFld_stays | apply intakeBlock_stays | apply freeKept_stays | intro _ | (simp only [stays_mk]; refine stays_core ?_))

/-! ## MeldRun -/

theorem meldFault_stays {b₀ s : State} {r k j va code det : Nat} (hs : b₀.stays s) :
    b₀.stays (State.meldFault s r k j va code det) := by
  unfold State.meldFault
  with_reducible repeat' (first
    | assumption | apply raise_stays | apply meldFirst_stays | apply itemFault_stays)

theorem jobInit_stays {b₀ : State} {s : State} {d j : Nat} (hs : b₀.stays s) :
    b₀.stays (State.jobInit s d j) := by
  unfold State.jobInit
  with_reducible repeat' (first
    | assumption | apply stays_ite | apply updJob_stays | apply setJobSt_stays | intro _
    | (simp only [stays_mk]; refine stays_core ?_))

theorem jobOff_stays {b₀ s : State} {d j : Nat} (hs : b₀.stays s) :
    b₀.stays (State.jobOff s d j) := by
  unfold State.jobOff
  with_reducible repeat' (first
    | assumption | apply stays_ite | apply stays_foldl | apply stays_foldl1 | apply stays_foldl2 | apply meldFault_stays
    | apply updJob_stays | apply setJobSt_stays | apply setReg_stays | apply updMd_stays | apply intake_stays | apply setFld_stays
    | apply jobInit_stays | intro _)

theorem jobSettle_stays {b₀ s : State} {d j : Nat} (hs : b₀.stays s) :
    b₀.stays (State.jobSettle s d j) := by
  unfold State.jobSettle
  with_reducible repeat' (first
    | assumption | apply stays_ite | apply jobOff_stays | intro _)

theorem onMeldDesc_stays {b₀ s : State} {j : Nat} {old : Bool} (hs : b₀.stays s) :
    b₀.stays (State.onMeldDesc s j old) := by
  unfold State.onMeldDesc
  with_reducible repeat' (first
    | assumption | apply stays_ite | apply stays_foldl | apply stays_foldl1 | apply stays_foldl2 | apply jobInit_stays
    | apply updJob_stays | apply jobOff_stays | intro _)

theorem localBlock_stays {b₀ s : State} {d j k : Nat} (hs : b₀.stays s) :
    b₀.stays (State.localBlock s d j k) := by
  unfold State.localBlock
  with_reducible repeat' (first
    | assumption | apply stays_ite | apply stays_ite1 | apply meldRead_stays | apply poisonIn_stays | apply meldWrite_stays | intro _)

theorem localUpdate_stays {b₀ s : State} {d j : Nat} (hs : b₀.stays s) :
    b₀.stays (State.localUpdate s d j) := by
  unfold State.localUpdate
  with_reducible repeat' (first
    | assumption | apply stays_foldl | apply stays_foldl1 | apply stays_foldl2 | apply localBlock_stays | apply setJobSt_stays | intro _)

theorem openTrick_stays {b₀ s : State} {d j : Nat} (hs : b₀.stays s) :
    b₀.stays (State.openTrick s d j) := by
  unfold State.openTrick
  with_reducible repeat' (first
    | assumption | apply updJob_stays | apply setReg_stays | apply setJobSt_stays)

theorem meldWait_stays {b₀ s : State} {r k : Nat} {w : Wait} (hs : b₀.stays s) :
    b₀.stays (State.meldWait s r k w) := by
  unfold State.meldWait
  with_reducible repeat' (first
    | assumption | apply stays_ite | apply waitFor_stays | intro _)

theorem trickNow_stays {b₀ s : State} {r k va t : Nat} (hs : b₀.stays s) :
    b₀.stays (State.trickNow s r k va t) := by
  unfold State.trickNow
  with_reducible repeat' (first
    | assumption | apply stays_ite | apply meldFault_stays | apply meldWait_stays | apply localUpdate_stays | apply setJobSt_stays
    | apply openTrick_stays | apply resume_stays | intro _ | (simp only [stays_mk]; refine stays_core ?_) | split | dsimp only)

theorem boundNow_stays {b₀ s : State} {r k va : Nat} (hs : b₀.stays s) :
    b₀.stays (State.boundNow s r k va) := by
  unfold State.boundNow
  with_reducible repeat' (first
    | assumption | apply stays_ite | apply meldFault_stays | apply localUpdate_stays | apply resume_stays | apply meldWait_stays
    | intro _ | (simp only [stays_mk]; refine stays_core ?_) | split | dsimp only)

theorem waitaNow_stays {b₀ s : State} {r k va t : Nat} (hs : b₀.stays s) :
    b₀.stays (State.waitaNow s r k va t) := by
  unfold State.waitaNow
  with_reducible repeat' (first
    | assumption | apply stays_ite | apply meldFault_stays | apply resume_stays | apply meldWait_stays | intro _
    | (simp only [stays_mk]; refine stays_core ?_) | split | dsimp only)

theorem meldWord_stays {b₀ s : State} {r k : Nat} {o : Op} {reg : Bool} {f : State → Nat → Nat → State} (hf : ∀ y0 y1 y2, b₀.stays y0 → b₀.stays (f y0 y1 y2)) (hs : b₀.stays s) :
    b₀.outs (State.meldWord s r k o reg f) := by
  unfold State.meldWord
  with_reducible repeat' (first
    | assumption | apply stays_ite | apply hf | apply onWord_stays | apply illegal_stays | apply outs_next | apply outs_ite
    | apply opts2_some | apply opts2_none | apply opts2_ite | intro _)

theorem execTrick_stays {b₀ : State} {r : Fin 16} {k : Fin 4} {s : State} (hs : b₀.stays s) :
    b₀.outs (execTrick r k s) := by
  unfold execTrick
  with_reducible repeat' (first
    | assumption | apply meldWord_stays | apply trickNow_stays | apply outs_next | apply opts2_some | apply opts2_none | intro _)

theorem execBound_stays {b₀ : State} {r : Fin 16} {k : Fin 4} {s : State} (hs : b₀.stays s) :
    b₀.outs (execBound r k s) := by
  unfold execBound
  with_reducible repeat' (first
    | assumption | apply meldWord_stays | apply boundNow_stays | apply outs_next | apply opts2_some | apply opts2_none | intro _)

theorem execWaita_stays {b₀ : State} {r : Fin 16} {k : Fin 4} {s : State} (hs : b₀.stays s) :
    b₀.outs (execWaita r k s) := by
  unfold execWaita
  with_reducible repeat' (first
    | assumption | apply meldWord_stays | apply waitaNow_stays | apply outs_next | apply opts2_some | apply opts2_none | intro _)

theorem execTrickRelease_stays {b₀ : State} {r : Fin 16} {k : Fin 4} {s : State} (hs : b₀.stays s) :
    b₀.outs (execTrickRelease r k s) := by
  unfold execTrickRelease
  with_reducible repeat' (first
    | assumption | apply stays_ite | apply trickNow_stays | apply outs_next | apply outs_ite | intro _
    | (simp only [stays_mk]; refine stays_core ?_) | split)

theorem execBoundRelease_stays {b₀ : State} {r : Fin 16} {k : Fin 4} {s : State} (hs : b₀.stays s) :
    b₀.outs (execBoundRelease r k s) := by
  unfold execBoundRelease
  with_reducible repeat' (first
    | assumption | apply stays_ite | apply boundNow_stays | apply outs_next | apply outs_ite | intro _
    | (simp only [stays_mk]; refine stays_core ?_) | split)

theorem execWaitaRelease_stays {b₀ : State} {r : Fin 16} {k : Fin 4} {s : State} (hs : b₀.stays s) :
    b₀.outs (execWaitaRelease r k s) := by
  unfold execWaitaRelease
  with_reducible repeat' (first
    | assumption | apply stays_ite | apply waitaNow_stays | apply outs_next | apply outs_ite | intro _
    | (simp only [stays_mk]; refine stays_core ?_) | split)

theorem snapBlock_stays {b₀ s : State} {d j k : Nat} (hs : b₀.stays s) :
    b₀.stays (State.snapBlock s d j k) := by
  unfold State.snapBlock
  with_reducible repeat' (first
    | assumption | apply meldRead_stays | apply poisonIn_stays | apply meldWrite_stays)

theorem snapEnds_stays {b₀ s : State} {d j : Nat} (hs : b₀.stays s) :
    b₀.stays (State.snapEnds s d j) := by
  unfold State.snapEnds
  with_reducible repeat' (first
    | assumption | apply stays_foldl | apply stays_foldl1 | apply stays_foldl2 | apply snapBlock_stays | apply updJob_stays
    | apply setJobSt_stays | apply jobSettle_stays | intro _)

theorem execSnapDone_stays {b₀ : State} {d : Fin 2} {j : Fin 4} {s : State} (hs : b₀.stays s) :
    b₀.outs (execSnapDone d j s) := by
  unfold execSnapDone
  with_reducible repeat' (first
    | assumption | apply stays_ite | apply snapEnds_stays | apply outs_next | apply outs_ite | intro _)

theorem encBlock_stays {b₀ s : State} {d j k : Nat} (hs : b₀.stays s) :
    b₀.stays (State.encBlock s d j k).1 := by
  unfold State.encBlock
  with_reducible repeat' (first
    | assumption | apply stays_ite | apply stays_ite1 | apply meldRead_stays | apply poisonIn_stays | apply meldWrite_stays
    | apply tally_stays | apply updJob_stays | apply raise_stays | apply takeContribution_stays | intro _)

theorem outLost_stays {b₀ s : State} {d j : Nat} (hs : b₀.stays s) :
    b₀.stays (State.outLost s d j) := by
  unfold State.outLost
  with_reducible repeat' (first
    | assumption | apply tally_stays | apply raiseOnce_stays)

theorem sendFrag_stays {b₀ : State} {s : State} {d j : Nat} {h : FragHdr} {payload : List Byte} (hs : b₀.stays s) :
    b₀.stays (State.sendFrag s d j h payload) := by
  unfold State.sendFrag
  with_reducible repeat' (first
    | assumption | refine stays_of_fst (by assumption) ?_ | apply stays_ite | apply stays_ite1 | apply stays_foldl
    | apply stays_foldl1 | apply stays_foldl2 | apply send_stays | apply outLost_stays | apply tally_stays | intro _ | split
    | dsimp only)

theorem encEnds_stays {b₀ s : State} {d j : Nat} (hs : b₀.stays s) :
    b₀.stays (State.encEnds s d j) := by
  unfold State.encEnds
  with_reducible repeat' (first
    | assumption | apply stays_foldl | apply stays_foldl1 | apply stays_foldl2 | apply encBlock_stays | apply sendFrag_stays
    | apply updJob_stays | apply setJobSt_stays | apply checkEntries_stays | apply closeTest_stays | intro _)

theorem execEncDone_stays {b₀ : State} {d : Fin 2} {j : Fin 4} {s : State} (hs : b₀.stays s) :
    b₀.outs (execEncDone d j s) := by
  unfold execEncDone
  with_reducible repeat' (first
    | assumption | apply stays_ite | apply encEnds_stays | apply outs_next | apply outs_ite | intro _)

theorem applyBlock_stays {b₀ s : State} {d j k : Nat} (hs : b₀.stays s) :
    b₀.stays (State.applyBlock s d j k).1 := by
  unfold State.applyBlock
  with_reducible repeat' (first
    | assumption | apply stays_ite | apply stays_ite1 | apply meldRead_stays | apply poisonIn_stays | apply meldWrite_stays | intro _)

theorem writeHeader_stays {b₀ : State} {s : State} {j t at_ n0 n1 : Nat} (hs : b₀.stays s) :
    b₀.stays (State.writeHeader s j t at_ n0 n1) := by
  unfold State.writeHeader
  with_reducible repeat' (first
    | assumption | apply stays_ite | apply writeRaw_stays | intro _ | split | dsimp only)

theorem writeManifest_stays {b₀ : State} {s : State} {d j : Nat} (hs : b₀.stays s) :
    b₀.stays (State.writeManifest s d j) := by
  unfold State.writeManifest
  with_reducible repeat' (first
    | assumption | apply stays_ite | apply stays_foldl | apply stays_foldl1 | apply stays_foldl2 | apply stays_getD
    | apply updJob_stays | apply writeHeader_stays | apply writeRaw_stays | apply setReg_stays | intro _
    | (simp only [stays_mk]; refine stays_core ?_))

theorem countMissing_stays {b₀ s : State} {d j empty : Nat} (hs : b₀.stays s) :
    b₀.stays (State.countMissing s d j empty) := by
  unfold State.countMissing
  with_reducible repeat' (first
    | assumption | apply stays_ite | apply stays_getD | apply updJob_stays | apply tally_stays | apply meldRaise_stays | intro _)

theorem applyEnd_stays {b₀ s : State} {d j : Nat} (hs : b₀.stays s) :
    b₀.stays (State.applyEnd s d j) := by
  unfold State.applyEnd
  with_reducible repeat' (first
    | assumption | apply stays_foldl | apply stays_foldl1 | apply stays_foldl2 | apply applyBlock_stays | apply countMissing_stays
    | apply writeManifest_stays | apply setReg_stays | apply checkEntries_stays | apply updJob_stays | apply setJobSt_stays | intro _)

/-! ## MeldJoin -/

theorem sendCtl_stays {b₀ : State} {s : State} {d dst idx : Nat} {x : JoinRec} (hs : b₀.stays s) :
    b₀.stays (State.sendCtl s d dst idx x) := by
  unfold State.sendCtl
  with_reducible repeat' (first
    | assumption | apply send_stays | intro _)

theorem ctlOut_stays {b₀ : State} {s : State} {j : Option Nat} {idx : Nat} {x : JoinRec} (hs : b₀.stays s) :
    b₀.stays (State.ctlOut s j idx x) := by
  unfold State.ctlOut
  with_reducible repeat' (first
    | assumption | apply sendCtl_stays | intro _ | split | dsimp only)

theorem answerSite_stays {b₀ s : State} {j : Option Nat} {site : Nat} {x : JoinRec} (hs : b₀.stays s) :
    b₀.stays (State.answerSite s j site x) := by
  unfold State.answerSite
  with_reducible repeat' (first
    | assumption | apply stays_elim | apply ctlOut_stays | intro _)

theorem writeEntry_stays {b₀ : State} {s : State} {j i : Nat} {b : List Byte} (hs : b₀.stays s) :
    b₀.stays (State.writeEntry s j i b) := by
  unfold State.writeEntry
  with_reducible repeat' (first
    | assumption | apply stays_foldl | apply stays_foldl1 | apply stays_foldl2 | apply writeRaw_stays | apply remoteWrite_stays
    | intro _)

theorem joinAcks_stays {b₀ : State} {s : State} (hs : b₀.stays s) :
    b₀.stays (State.joinAcks s) := by
  unfold State.joinAcks
  with_reducible repeat' (first
    | assumption | apply stays_ite | apply stays_foldl | apply stays_foldl1 | apply stays_foldl2 | apply donate_stays
    | apply ctlOut_stays | apply meldRaise_stays | intro _ | (simp only [stays_mk]; refine stays_core ?_) | split | dsimp only)

theorem bulkPart_stays {b₀ s : State} {d j k rng : Nat} (hs : b₀.stays s) :
    b₀.stays (State.bulkPart s d j k rng).1 := by
  unfold State.bulkPart
  with_reducible repeat' (first
    | assumption | apply meldRead_stays | apply poisonIn_stays)

theorem sendBulk_stays {b₀ s : State} {d j anchor : Nat} (hs : b₀.stays s) :
    b₀.stays (State.sendBulk s d j anchor) := by
  unfold State.sendBulk
  with_reducible repeat' (first
    | assumption | apply stays_foldl | apply stays_foldl1 | apply stays_foldl2 | apply bulkPart_stays | apply sendFrag_stays | intro _)

theorem donate_stays {b₀ s : State} {d j : Nat} (hs : b₀.stays s) :
    b₀.stays (State.donate s d j) := by
  unfold State.donate
  with_reducible repeat' (first
    | assumption | apply stays_ite | apply stays_foldl | apply stays_foldl1 | apply stays_foldl2 | apply updJob_stays
    | apply sendBulk_stays | apply meldRaise_stays | intro _)

theorem meldClock_stays {b₀ s : State} {d : Nat} (hs : b₀.stays s) :
    b₀.stays (State.meldClock s d) := by
  unfold State.meldClock
  with_reducible repeat' (first
    | assumption | apply stays_foldl | apply stays_foldl1 | apply stays_foldl2 | apply donate_stays | intro _)

theorem joinDone_stays {b₀ : State} {s : State} {d j anchor : Nat} (hs : b₀.stays s) :
    b₀.stays (State.joinDone s d j anchor) := by
  unfold State.joinDone
  with_reducible repeat' (first
    | assumption | apply stays_ite | apply setReg_stays | apply updJob_stays | apply setJobSt_stays | apply sendCtl_stays | intro _
    | (simp only [stays_mk]; refine stays_core ?_))

theorem joinPart_stays {b₀ : State} {s : State} {d j k : Nat} {h : FragHdr} {payload : List Byte} (hs : b₀.stays s) :
    b₀.stays (State.joinPart s d j k h payload) := by
  unfold State.joinPart
  with_reducible repeat' (first
    | assumption | apply stays_ite | apply tally_stays | apply updJob_stays | apply meldWrite_stays | apply joinDone_stays | intro _
    | (simp only [stays_mk]; refine stays_core ?_))

theorem outPiece_stays {b₀ : State} {s : State} {d src poff : Nat} {last : Bool} {b : List Byte} (hs : b₀.stays s) :
    b₀.stays (State.outPiece s d src poff last b) := by
  unfold State.outPiece
  with_reducible repeat' (first
    | assumption | apply stays_ite | apply updMd_stays | apply freeKept_stays | apply tally_stays | apply State_mark_stays | intro _
    | (simp only [stays_mk]; refine stays_core ?_) | split | dsimp only)

theorem execFrgOut_stays {b₀ : State} {d : Fin 2} {via : Nat} {m : Msg} {s : State} (hs : b₀.stays s) :
    b₀.outs (execFrgOut d via m s) := by
  unfold execFrgOut
  with_reducible repeat' (first
    | assumption | refine stays_of_some (by assumption) ?_ | apply stays_ite | apply arrives_stays | apply parked_stays
    | apply outPiece_stays | apply outs_next | apply outs_fault | apply outs_ite | intro _ | split | dsimp only)

theorem courierTake_stays {b₀ : State} {s : State} {d site : Nat} {h : FragHdr} {payload : List Byte} (hs : b₀.stays s) :
    b₀.stays (State.courierTake s d site h payload) := by
  unfold State.courierTake
  with_reducible repeat' (first
    | assumption | refine stays_of_fst (by assumption) ?_ | apply stays_ite | apply stays_ite1 | apply stays_foldl
    | apply stays_foldl1 | apply stays_foldl2 | apply stays_getD | apply tally_stays | apply raiseOnce_stays | apply send_stays
    | intro _ | (simp only [stays_mk]; refine stays_core ?_) | split | dsimp only)

theorem wholeBlock_stays {b₀ s : State} {d : Nat} {h : FragHdr} {b : List Byte} (hs : b₀.stays s) :
    b₀.stays (State.wholeBlock s d h b) := by
  unfold State.wholeBlock
  with_reducible repeat' (first
    | assumption | apply stays_ite | apply tally_stays | apply joinPart_stays | apply count32_stays | apply updJob_stays
    | apply raise_stays | apply intakeBlock_stays | intro _ | (simp only [stays_mk]; refine stays_core ?_) | split | dsimp only)

theorem inPiece_stays {b₀ s : State} {d src off : Nat} {last : Bool} {b : List Byte} (hs : b₀.stays s) :
    b₀.stays (State.inPiece s d src off last b) := by
  unfold State.inPiece
  with_reducible repeat' (first
    | assumption | apply stays_getD | apply updMd_stays | apply wholeBlock_stays | intro _ | (simp only [stays_mk]; refine stays_core ?_)
    | split | dsimp only)

theorem execFrgIn_stays {b₀ : State} {d : Fin 2} {via : Nat} {m : Msg} {s : State} (hs : b₀.stays s) :
    b₀.outs (execFrgIn d via m s) := by
  unfold execFrgIn
  with_reducible repeat' (first
    | assumption | refine stays_of_some (by assumption) ?_ | apply stays_ite | apply arrives_stays | apply parked_stays
    | apply inPiece_stays | apply outs_next | apply outs_fault | apply outs_ite | intro _ | split | dsimp only)

theorem ctlPiece_stays {b₀ s : State} {d src idx : Nat} {b : List Byte} (hs : b₀.stays s) :
    b₀.stays (State.ctlPiece s d src idx b) := by
  unfold State.ctlPiece
  with_reducible repeat' (first
    | assumption | apply stays_ite | apply tally_stays | apply updMd_stays | intro _ | (simp only [stays_mk]; refine stays_core ?_))

theorem execFrgCtl_stays {b₀ : State} {d : Fin 2} {via : Nat} {m : Msg} {s : State} (hs : b₀.stays s) :
    b₀.outs (execFrgCtl d via m s) := by
  unfold execFrgCtl
  with_reducible repeat' (first
    | assumption | refine stays_of_some (by assumption) ?_ | apply stays_ite | apply arrives_stays | apply ctlPiece_stays
    | apply outs_next | apply outs_ite | intro _ | (simp only [stays_mk]; refine stays_core ?_) | split)

theorem onRecord_stays {b₀ s : State} {typ : Nat} {f : State → Nat → JoinRec → State} (hf : ∀ y0 y1 y2, b₀.stays y0 → b₀.stays (f y0 y1 y2)) (hs : b₀.stays s) :
    b₀.outs (State.onRecord s typ f) := by
  unfold State.onRecord
  with_reducible repeat' (first
    | assumption | apply hf | apply outs_next | apply opts2_some | apply opts2_none | intro _
    | (simp only [stays_mk]; refine stays_core ?_) | split)

theorem refuseJoin_stays {b₀ : State} {s : State} {x : JoinRec} {reason : Nat} (hs : b₀.stays s) :
    b₀.stays (State.refuseJoin s x reason) := by
  unfold State.refuseJoin
  with_reducible repeat' (first
    | assumption | apply answerSite_stays | intro _ | (simp only [stays_mk]; refine stays_core ?_))

theorem admitJoin_stays {b₀ : State} {s : State} {j i : Nat} {x : JoinRec} (hs : b₀.stays s) :
    b₀.stays (State.admitJoin s j i x) := by
  unfold State.admitJoin
  with_reducible repeat' (first
    | assumption | apply stays_ite | apply donate_stays | apply writeEntry_stays | apply joinAcks_stays | intro _
    | (simp only [stays_mk]; refine stays_core ?_))

theorem joinReq_stays {b₀ : State} {s : State} {x : JoinRec} (hs : b₀.stays s) :
    b₀.stays (State.joinReq s x) := by
  unfold State.joinReq
  with_reducible repeat' (first
    | assumption | apply stays_ite | apply refuseJoin_stays | apply donate_stays | apply meldRaise_stays | apply admitJoin_stays
    | intro _ | split | dsimp only)

theorem execJoinReq_stays {b₀ s : State} (hs : b₀.stays s) :
    b₀.outs (execJoinReq s) := by
  unfold execJoinReq
  with_reducible repeat' (first
    | assumption | apply onRecord_stays | apply joinReq_stays | apply outs_next | apply opts2_some | apply opts2_none | intro _)

theorem joinAck_stays {b₀ : State} {s : State} {j : Nat} {x : JoinRec} (hs : b₀.stays s) :
    b₀.stays (State.joinAck s j x) := by
  unfold State.joinAck
  with_reducible repeat' (first
    | assumption | apply stays_ite | apply stays_foldl | apply stays_foldl1 | apply stays_foldl2 | apply writeEntry_stays
    | apply ctlOut_stays | intro _ | (simp only [stays_mk]; refine stays_core ?_))

theorem execJoinAck_stays {b₀ s : State} (hs : b₀.stays s) :
    b₀.outs (execJoinAck s) := by
  unfold execJoinAck
  with_reducible repeat' (first
    | assumption | apply onRecord_stays | apply joinAck_stays | apply tally_stays | apply outs_next | apply opts2_some | apply opts2_none
    | intro _ | (simp only [stays_mk]; refine stays_core ?_) | split)

theorem execJoinRefuse_stays {b₀ s : State} (hs : b₀.stays s) :
    b₀.outs (execJoinRefuse s) := by
  unfold execJoinRefuse
  with_reducible repeat' (first
    | assumption | apply onRecord_stays | apply meldRaise_stays | apply outs_next | apply opts2_some | apply opts2_none | intro _)

theorem halfReady_stays {b₀ : State} {s : State} {src : Nat} {x : JoinRec} {j : Nat} (hs : b₀.stays s) :
    b₀.stays (State.halfReady s src x j) := by
  unfold State.halfReady
  with_reducible repeat' (first
    | assumption | apply stays_ite | apply stays_foldl | apply stays_foldl1 | apply stays_foldl2 | apply ctlOut_stays
    | apply meldRaise_stays | intro _ | (simp only [stays_mk]; refine stays_core ?_))

theorem execJoinReady_stays {b₀ s : State} (hs : b₀.stays s) :
    b₀.outs (execJoinReady s) := by
  unfold execJoinReady
  with_reducible repeat' (first
    | assumption | apply onRecord_stays | apply tally_stays | apply halfReady_stays | apply outs_next | apply opts2_some
    | apply opts2_none | intro _ | (simp only [stays_mk]; refine stays_core ?_) | split)

theorem execJoinDone_stays {b₀ s : State} (hs : b₀.stays s) :
    b₀.outs (execJoinDone s) := by
  unfold execJoinDone
  with_reducible repeat' (first
    | assumption | apply stays_ite | apply onRecord_stays | apply writeEntry_stays | apply tally_stays | apply outs_next | apply outs_ite
    | apply opts2_some | apply opts2_none | apply opts2_ite | intro _ | (simp only [stays_mk]; refine stays_core ?_) | split)

theorem execJoinTimeout_stays {b₀ : State} {i : Fin 64} {s : State} (hs : b₀.stays s) :
    b₀.outs (execJoinTimeout i s) := by
  unfold execJoinTimeout
  with_reducible repeat' (first
    | assumption | apply writeEntry_stays | apply meldRaise_stays | apply outs_next | intro _
    | (simp only [stays_mk]; refine stays_core ?_) | split | dsimp only)

theorem askDonor_stays {b₀ s : State} {j : Nat} (hs : b₀.stays s) :
    b₀.stays (State.askDonor s j) := by
  unfold State.askDonor
  with_reducible repeat' (first
    | assumption | apply answerSite_stays)

theorem initEnds_stays {b₀ s : State} {d j : Nat} (hs : b₀.stays s) :
    b₀.stays (State.initEnds s d j) := by
  unfold State.initEnds
  with_reducible repeat' (first
    | assumption | apply stays_ite | apply stays_foldl | apply stays_foldl1 | apply stays_foldl2 | apply meldRaise_stays
    | apply meldFirst_stays | apply setJobSt_stays | apply updJob_stays | apply meldWrite_stays | apply askDonor_stays
    | apply setReg_stays | apply checkEntries_stays | apply donate_stays | intro _ | (simp only [stays_mk]; refine stays_core ?_) | split
    | dsimp only)

theorem execInitDone_stays {b₀ : State} {d : Fin 2} {j : Fin 4} {s : State} (hs : b₀.stays s) :
    b₀.outs (execInitDone d j s) := by
  unfold execInitDone
  with_reducible repeat' (first
    | assumption | apply stays_ite | apply initEnds_stays | apply outs_next | apply outs_ite | intro _)

theorem execApplyDone_stays {b₀ : State} {d : Fin 2} {j : Fin 4} {s : State} (hs : b₀.stays s) :
    b₀.outs (execApplyDone d j s) := by
  unfold execApplyDone
  with_reducible repeat' (first
    | assumption | apply stays_ite | apply applyEnd_stays | apply jobSettle_stays | apply mergeHeld_stays | apply donate_stays
    | apply outs_next | apply outs_ite | intro _)

end Sys2Proof.Machine
end

