-- ==== Sys2Proof/Laws/StaysWan.lean ====
section
/-! SUPPORT. Every operation of the WAN gateway, the cipher engine and time keeps the queue and the soundness of the state: one lemma for each. -/

namespace Sys2Proof.Machine

set_option linter.unusedTactic false
set_option linter.unusedSimpArgs false
set_option linter.unreachableTactic false

/-! ## Cip -/

theorem updCip_stays {b₀ s : State} {d : Nat} {f : CipDie → CipDie} (hs : b₀.stays s) :
    b₀.stays (State.updCip s d f) := by
  unfold State.updCip
  with_reducible repeat' (first
    | assumption | (simp only [stays_mk]; refine stays_core ?_))

theorem updPair_stays {b₀ s : State} {d n : Nat} {f : Pair → Pair} (hs : b₀.stays s) :
    b₀.stays (State.updPair s d n f) := by
  unfold State.updPair
  with_reducible repeat' (first
    | assumption | apply updCip_stays)

theorem setPairSt_stays {b₀ s : State} {d n v : Nat} (hs : b₀.stays s) :
    b₀.stays (State.setPairSt s d n v) := by
  unfold State.setPairSt
  with_reducible repeat' (first
    | assumption | apply setFld_stays)

theorem keyRefused_stays {b₀ s : State} {d n cmd : Nat} (hs : b₀.stays s) :
    b₀.stays (State.keyRefused s d n cmd) := by
  unfold State.keyRefused
  with_reducible repeat' (first
    | assumption | apply raise_stays)

theorem onLoad_stays {b₀ s : State} {d : Nat} (hs : b₀.stays s) :
    b₀.stays (State.onLoad s d) := by
  unfold State.onLoad
  with_reducible repeat' (first
    | assumption | apply stays_ite | apply stays_foldl | apply stays_foldl1 | apply stays_foldl2 | apply keyRefused_stays
    | apply setReg_stays | apply setFld_stays | apply updCip_stays | intro _)

theorem showSlots_stays {b₀ s : State} {d n : Nat} (hs : b₀.stays s) :
    b₀.stays (State.showSlots s d n) := by
  unfold State.showSlots
  with_reducible repeat' (first
    | assumption | apply stays_getD | apply setFld_stays)

theorem placeSecret_stays {b₀ s : State} {d : Nat} {l : SecretLoad} {key : List Byte} (hs : b₀.stays s) :
    b₀.stays (State.placeSecret s d l key) := by
  unfold State.placeSecret
  with_reducible repeat' (first
    | assumption | apply stays_ite | apply stays_elim | apply updCip_stays | apply updPair_stays | apply showSlots_stays | intro _
    | (simp only [stays_mk]; refine stays_core ?_) | split)

theorem onPairUse_stays {b₀ s : State} {d n : Nat} (hs : b₀.stays s) :
    b₀.stays (State.onPairUse s d n) := by
  unfold State.onPairUse
  with_reducible repeat' (first
    | assumption | apply stays_ite | apply setFld_stays | apply keyRefused_stays | apply drew_stays | apply updPair_stays
    | apply setPairSt_stays | intro _)

theorem onPairDrop_stays {b₀ s : State} {d n : Nat} (hs : b₀.stays s) :
    b₀.stays (State.onPairDrop s d n) := by
  unfold State.onPairDrop
  with_reducible repeat' (first
    | assumption | apply stays_ite | apply setFld_stays | apply keyRefused_stays | apply updCip_stays | apply updPair_stays
    | apply showSlots_stays | intro _ | (simp only [stays_mk]; refine stays_core ?_) | split | dsimp only)

theorem pairGoes_stays {b₀ : State} {s : State} {d n v : Nat} (hs : b₀.stays s) :
    b₀.stays (State.pairGoes s d n v) := by
  unfold State.pairGoes
  with_reducible repeat' (first
    | assumption | apply stays_ite | apply setPairSt_stays | intro _)

theorem roll_stays {b₀ : State} {s : State} {d n : Nat} (hs : b₀.stays s) :
    b₀.stays (State.roll s d n) := by
  unfold State.roll
  with_reducible repeat' (first
    | assumption | apply updPair_stays | apply setReg_stays | apply pairGoes_stays | apply tally_stays | intro _
    | (simp only [stays_mk]; refine stays_core ?_))

theorem keyLimitReached_stays {b₀ : State} {s : State} {d n : Nat} (hs : b₀.stays s) :
    b₀.stays (State.keyLimitReached s d n) := by
  unfold State.keyLimitReached
  with_reducible repeat' (first
    | assumption | apply stays_ite | apply roll_stays | apply setPairSt_stays | apply raise_stays | intro _)

theorem onPairRoll_stays {b₀ s : State} {d n : Nat} (hs : b₀.stays s) :
    b₀.stays (State.onPairRoll s d n) := by
  unfold State.onPairRoll
  with_reducible repeat' (first
    | assumption | apply stays_ite | apply setFld_stays | apply roll_stays | apply keyRefused_stays | intro _)

theorem onPairElim_stays {b₀ s : State} {d n : Nat} (hs : b₀.stays s) :
    b₀.stays (State.onPairElim s d n) := by
  unfold State.onPairElim
  with_reducible repeat' (first
    | assumption | apply stays_ite | apply setPairSt_stays | apply updPair_stays | intro _)

theorem takeGen_stays {b₀ s : State} {d n : Nat} {x : Secret} {sess : Nat} (hs : b₀.stays s) :
    b₀.stays (State.takeGen s d n x sess) := by
  unfold State.takeGen
  with_reducible repeat' (first
    | assumption | apply stays_ite | apply stays_elim | apply updPair_stays | apply setFld_stays | apply setReg_stays | apply tally_stays
    | apply setPairSt_stays)

theorem keyDerived_stays {b₀ s : State} {d n : Nat} (hs : b₀.stays s) :
    b₀.stays (State.keyDerived s d n) := by
  unfold State.keyDerived
  with_reducible repeat' (first
    | assumption | apply stays_ite | apply takeGen_stays | apply updPair_stays | apply setPairSt_stays | apply tally_stays
    | apply roll_stays | intro _ | (simp only [stays_mk]; refine stays_core ?_) | split | dsimp only)

theorem sealEnter_stays {b₀ : State} {s : State} {d : Nat} {bulk : Bool} {clocks : Nat} (hs : b₀.stays s) :
    b₀.stays (State.sealEnter s d bulk clocks) := by
  unfold State.sealEnter
  with_reducible repeat' (first
    | assumption | apply stays_ite | apply updCip_stays | apply tally_stays | intro _ | (simp only [stays_mk]; refine stays_core ?_))

theorem cipClock_stays {b₀ : State} {s : State} {d : Nat} (hs : b₀.stays s) :
    b₀.stays (State.cipClock s d) := by
  unfold State.cipClock
  with_reducible repeat' (first
    | assumption | apply stays_ite | apply updCip_stays | intro _ | (simp only [stays_mk]; refine stays_core ?_))

theorem seal_stays {b₀ : State} {s : State} {d n : Nat} {bulk : Bool} {aad text : List Byte} (hs : b₀.stays s) :
    b₀.stays (State.seal s d n bulk aad text).1 := by
  unfold State.seal
  with_reducible repeat' (first
    | assumption | apply stays_ite | apply stays_ite1 | apply stays_foldl | apply stays_foldl1 | apply stays_foldl2
    | apply stays_getD | apply setReg_stays | apply setFld_stays | apply tally_stays | apply sealEnter_stays
    | apply keyLimitReached_stays | apply setPairSt_stays | apply raise_stays | apply setJobSt_stays | intro _)

theorem rxDerive_stays {b₀ s : State} {d n src gen sess epoch : Nat} (hs : b₀.stays s) :
    b₀.stays (State.rxDerive s d n src gen sess epoch) := by
  unfold State.rxDerive
  with_reducible repeat' (first
    | assumption | apply updCip_stays | apply tally_stays | intro _ | (simp only [stays_mk]; refine stays_core ?_) | split)

theorem rxGood_stays {b₀ s : State} {d : Nat} {k : RxKey} (hs : b₀.stays s) :
    b₀.stays (State.rxGood s d k) := by
  unfold State.rxGood
  with_reducible repeat' (first
    | assumption | apply stays_ite | apply updCip_stays | apply rxDerive_stays | intro _)

/-! ## Time -/

theorem updTime_stays {b₀ s : State} {f : TimeState → TimeState} (hs : b₀.stays s) :
    b₀.stays (State.updTime s f) := by
  unfold State.updTime
  with_reducible repeat' (first
    | assumption | (simp only [stays_mk]; refine stays_core ?_))

theorem timeClock_stays {b₀ s : State} (hs : b₀.stays s) :
    b₀.stays (State.timeClock s) := by
  unfold State.timeClock
  with_reducible repeat' (first
    | assumption | apply stays_ite | apply updTime_stays | apply tally_stays | intro _)

theorem timeTick_stays {b₀ s : State} (hs : b₀.stays s) :
    b₀.stays (State.timeTick s) := by
  unfold State.timeTick
  with_reducible repeat' (first
    | assumption | apply stays_ite | apply updTime_stays | apply timeClock_stays | intro _)

theorem stepTime_stays {b₀ : State} {s : State} {delta : Int} (hs : b₀.stays s) :
    b₀.stays (State.stepTime s delta) := by
  unfold State.stepTime
  with_reducible repeat' (first
    | assumption | apply stays_ite | apply stays_foldl | apply stays_foldl1 | apply stays_foldl2 | apply updTime_stays
    | apply updMd_stays | apply setReg_stays | apply raise_stays | intro _ | (simp only [stays_mk]; refine stays_core ?_))

theorem timeReport_stays {b₀ s : State} (hs : b₀.stays s) :
    b₀.stays (State.timeReport s) := by
  unfold State.timeReport
  with_reducible repeat' (first
    | assumption | apply stays_ite | apply setFld_stays)

theorem setAdj_stays {b₀ s : State} {a : Int} (hs : b₀.stays s) :
    b₀.stays (State.setAdj s a) := by
  unfold State.setAdj
  with_reducible repeat' (first
    | assumption | apply setFld_stays)

theorem timeGo_stays {b₀ s : State} {st src loss : Nat} (hs : b₀.stays s) :
    b₀.stays (State.timeGo s st src loss) := by
  unfold State.timeGo
  with_reducible repeat' (first
    | assumption | apply stays_ite | apply setFld_stays | apply timeReport_stays | apply raise_stays | apply updTime_stays
    | apply stage_stays | apply setAdj_stays | intro _)

theorem timeSelect_stays {b₀ s : State} {loss : Nat} (hs : b₀.stays s) :
    b₀.stays (State.timeSelect s loss) := by
  unfold State.timeSelect
  with_reducible repeat' (first
    | assumption | apply stays_ite | apply timeGo_stays | intro _ | (simp only [stays_mk]; refine stays_core ?_) | split | dsimp only)

theorem qualify_stays {b₀ s : State} {c : Nat} (hs : b₀.stays s) :
    b₀.stays (State.qualify s c) := by
  unfold State.qualify
  with_reducible repeat' (first
    | assumption | apply stays_ite | apply setFld_stays | apply timeSelect_stays | intro _)

theorem loseSource_stays {b₀ s : State} {c cause : Nat} (hs : b₀.stays s) :
    b₀.stays (State.loseSource s c cause) := by
  unfold State.loseSource
  with_reducible repeat' (first
    | assumption | apply stays_ite | apply recordFirst_stays | apply setFld_stays | apply timeSelect_stays | intro _)

theorem steerAdj_stays {b₀ s : State} {e : Int} (hs : b₀.stays s) :
    b₀.stays (State.steerAdj s e) := by
  unfold State.steerAdj
  with_reducible repeat' (first
    | assumption | apply stays_ite | apply setAdj_stays | apply drew_stays | apply updTime_stays | intro _)

theorem lockTest_stays {b₀ s : State} {src : Nat} {e : Int} (hs : b₀.stays s) :
    b₀.stays (State.lockTest s src e) := by
  unfold State.lockTest
  with_reducible repeat' (first
    | assumption | apply stays_ite | apply updTime_stays | apply timeGo_stays | intro _)

theorem measured_stays {b₀ s : State} {src : Nat} {e : Int} (hs : b₀.stays s) :
    b₀.stays (State.measured s src e) := by
  unfold State.measured
  with_reducible repeat' (first
    | assumption | apply stays_ite | apply updTime_stays | apply stepTime_stays | apply setFld_stays | apply raise_stays
    | apply steerAdj_stays | apply lockTest_stays | intro _)

theorem updGnss_stays {b₀ s : State} {f : Gnss → Gnss} (hs : b₀.stays s) :
    b₀.stays (State.updGnss s f) := by
  unfold State.updGnss
  with_reducible repeat' (first
    | assumption | apply updTime_stays)

theorem gnssTest_stays {b₀ s : State} (hs : b₀.stays s) :
    b₀.stays (State.gnssTest s) := by
  unfold State.gnssTest
  with_reducible repeat' (first
    | assumption | apply stays_ite | apply qualify_stays | intro _)

theorem execPpsEdge_stays {b₀ : State} {interval : Nat} {s : State} (hs : b₀.stays s) :
    b₀.outs (execPpsEdge interval s) := by
  unfold execPpsEdge
  with_reducible repeat' (first
    | assumption | apply stays_ite | apply updGnss_stays | apply gnssTest_stays | apply tally_stays | apply measured_stays
    | apply outs_next | apply outs_ite | intro _ | (simp only [stays_mk]; refine stays_core ?_) | split | dsimp only)

theorem zdaLabel_stays {b₀ s : State} {label : Nat} {next : Bool} (hs : b₀.stays s) :
    b₀.stays (State.zdaLabel s label next) := by
  unfold State.zdaLabel
  with_reducible repeat' (first
    | assumption | apply stays_ite | apply tally_stays | apply updGnss_stays | apply raise_stays | apply loseSource_stays
    | apply gnssTest_stays | intro _)

theorem execZdaSentence_stays {b₀ : State} {text : List Byte} {ms : Nat} {s : State} (hs : b₀.stays s) :
    b₀.outs (execZdaSentence text ms s) := by
  unfold execZdaSentence
  with_reducible repeat' (first
    | assumption | apply stays_ite | apply tally_stays | apply zdaLabel_stays | apply outs_next | apply outs_ite | intro _
    | (simp only [stays_mk]; refine stays_core ?_) | split)

theorem updPtp_stays {b₀ s : State} {p : Nat} {f : PtpPort → PtpPort} (hs : b₀.stays s) :
    b₀.stays (State.updPtp s p f) := by
  unfold State.updPtp
  with_reducible repeat' (first
    | assumption | apply stays_ite | apply updTime_stays)

theorem execAnnounce_stays {b₀ : State} {p : Fin 2} {a : Announce} {s : State} (hs : b₀.stays s) :
    b₀.outs (execAnnounce p a s) := by
  unfold execAnnounce
  with_reducible repeat' (first
    | assumption | apply stays_ite | apply stays_foldl | apply stays_foldl1 | apply stays_foldl2 | apply updPtp_stays
    | apply setReg_stays | apply loseSource_stays | apply outs_next | apply outs_ite | intro _)

theorem execPtpSync_stays {b₀ : State} {p : Fin 2} {m : PtpMsg} {s : State} (hs : b₀.stays s) :
    b₀.outs (execPtpSync p m s) := by
  unfold execPtpSync
  with_reducible repeat' (first
    | assumption | apply stays_ite | apply updPtp_stays | apply emit_stays | apply outs_next | apply outs_ite | intro _)

theorem ptpTest_stays {b₀ s : State} {p : Nat} (hs : b₀.stays s) :
    b₀.stays (State.ptpTest s p) := by
  unfold State.ptpTest
  with_reducible repeat' (first
    | assumption | apply stays_ite | apply qualify_stays | intro _)

theorem execFollowUp_stays {b₀ : State} {p : Fin 2} {m : PtpMsg} {s : State} (hs : b₀.stays s) :
    b₀.outs (execFollowUp p m s) := by
  unfold execFollowUp
  with_reducible repeat' (first
    | assumption | apply stays_ite | apply updPtp_stays | apply tally_stays | apply ptpTest_stays | apply measured_stays
    | apply outs_next | apply outs_ite | intro _ | (simp only [stays_mk]; refine stays_core ?_) | split)

theorem execDelayResp_stays {b₀ : State} {p : Fin 2} {m : PtpMsg} {s : State} (hs : b₀.stays s) :
    b₀.outs (execDelayResp p m s) := by
  unfold execDelayResp
  with_reducible repeat' (first
    | assumption | apply stays_ite | apply updPtp_stays | apply ptpTest_stays | apply outs_next | apply outs_ite | intro _
    | (simp only [stays_mk]; refine stays_core ?_) | split)

theorem ptpPortDown_stays {b₀ s : State} {p : Nat} (hs : b₀.stays s) :
    b₀.stays (State.ptpPortDown s p) := by
  unfold State.ptpPortDown
  with_reducible repeat' (first
    | assumption | apply updPtp_stays | apply loseSource_stays)

theorem timeHb_stays {b₀ s : State} {l rank dist qual tsend : Nat} (hs : b₀.stays s) :
    b₀.stays (State.timeHb s l rank dist qual tsend) := by
  unfold State.timeHb
  with_reducible repeat' (first
    | assumption | apply stays_ite | apply updTime_stays | apply timeReport_stays | apply qualify_stays | apply tally_stays
    | apply measured_stays | intro _ | (simp only [stays_mk]; refine stays_core ?_) | split | dsimp only)

theorem timeHbLost_stays {b₀ s : State} {l : Nat} (hs : b₀.stays s) :
    b₀.stays (State.timeHbLost s l) := by
  unfold State.timeHbLost
  with_reducible repeat' (first
    | assumption | apply updTime_stays | apply timeReport_stays)

theorem timeMaster_stays {b₀ s : State} {on : Bool} (hs : b₀.stays s) :
    b₀.stays (State.timeMaster s on) := by
  unfold State.timeMaster
  with_reducible repeat' (first
    | assumption | apply stays_ite | apply setFld_stays | apply updTime_stays | apply loseSource_stays | apply timeReport_stays | intro _)

theorem execSourceLossTimeout_stays {b₀ : State} {src : Fin 5} {s : State} (hs : b₀.stays s) :
    b₀.outs (execSourceLossTimeout src s) := by
  unfold execSourceLossTimeout
  with_reducible repeat' (first
    | assumption | apply stays_ite | apply setFld_stays | apply recordFirst_stays | apply updGnss_stays | apply loseSource_stays
    | apply updTime_stays | apply updPtp_stays | apply outs_next | apply outs_ite | intro _
    | (simp only [stays_mk]; refine stays_core ?_) | split)

theorem execRef10mQualify_stays {b₀ s : State} (hs : b₀.stays s) :
    b₀.outs (execRef10mQualify s) := by
  unfold execRef10mQualify
  with_reducible repeat' (first
    | assumption | apply setFld_stays | apply outs_next)

theorem execRef10mOutOfRange_stays {b₀ s : State} (hs : b₀.stays s) :
    b₀.outs (execRef10mOutOfRange s) := by
  unfold execRef10mOutOfRange
  with_reducible repeat' (first
    | assumption | apply stays_ite | apply setFld_stays | apply recordFirst_stays | apply outs_next | apply outs_ite | intro _)

theorem execHoldoverLimit_stays {b₀ s : State} (hs : b₀.stays s) :
    b₀.outs (execHoldoverLimit s) := by
  unfold execHoldoverLimit
  with_reducible repeat' (first
    | assumption | apply stays_ite | apply updTime_stays | apply raise_stays | apply timeReport_stays | apply outs_next | apply outs_ite
    | intro _)

theorem onTimeCtl_stays {b₀ s : State} (hs : b₀.stays s) :
    b₀.stays (State.onTimeCtl s) := by
  unfold State.onTimeCtl
  with_reducible repeat' (first
    | assumption | apply stays_ite | apply setAdj_stays | apply timeSelect_stays | intro _)

theorem onTimeStep_stays {b₀ s : State} {v : Nat} (hs : b₀.stays s) :
    b₀.stays (State.onTimeStep s v) := by
  unfold State.onTimeStep
  with_reducible repeat' (first
    | assumption | apply stepTime_stays)

theorem measureDelay_stays {b₀ s : State} {l : Nat} (hs : b₀.stays s) :
    b₀.stays (State.measureDelay s l) := by
  unfold State.measureDelay
  with_reducible repeat' (first
    | assumption | apply setFld_stays | apply drew_stays)

theorem execTimeMark_stays {b₀ s : State} (hs : b₀.stays s) :
    b₀.outs (execTimeMark s) := by
  unfold execTimeMark
  with_reducible repeat' (first
    | assumption | apply outs_next | (simp only [stays_mk]; refine stays_core ?_))

/-! ## WanOut -/

theorem updWan_stays {b₀ s : State} {d : Nat} {f : WanDie → WanDie} (hs : b₀.stays s) :
    b₀.stays (State.updWan s d f) := by
  unfold State.updWan
  with_reducible repeat' (first
    | assumption | (simp only [stays_mk]; refine stays_core ?_))

theorem sendFrame_stays {b₀ s : State} {d : Nat} {b : List Byte} (hs : b₀.stays s) :
    b₀.stays (State.sendFrame s d b) := by
  unfold State.sendFrame
  with_reducible repeat' (first
    | assumption | apply tally_stays | apply emit_stays)

theorem sendFelvar_stays {b₀ s : State} {d n typ : Nat} {packet : List Byte} (hs : b₀.stays s) :
    b₀.stays (State.sendFelvar s d n typ packet) := by
  unfold State.sendFelvar
  with_reducible repeat' (first
    | assumption | apply stays_ite | apply tally_stays | apply sendFrame_stays)

theorem sendCopy_stays {b₀ : State} {s : State} {d n : Nat} {f : Frag} (hs : b₀.stays s) :
    b₀.stays (State.sendCopy s d n f) := by
  unfold State.sendCopy
  with_reducible repeat' (first
    | assumption | apply stays_ite | apply stays_ite1 | apply tally_stays | apply seal_stays | apply sendFelvar_stays | intro _)

theorem notStored_stays {b₀ s : State} {d j t : Nat} (hs : b₀.stays s) :
    b₀.stays (State.notStored s d j t) := by
  unfold State.notStored
  with_reducible repeat' (first
    | assumption | apply stays_ite | apply tally_stays | apply updWan_stays | apply raise_stays | intro _)

theorem storeFrag_stays {b₀ s : State} {d : Nat} {f : Frag} (hs : b₀.stays s) :
    b₀.stays (State.storeFrag s d f) := by
  unfold State.storeFrag
  with_reducible repeat' (first
    | assumption | apply stays_ite | apply notStored_stays | apply writeRaw_stays | intro _
    | (simp only [stays_mk]; refine stays_core ?_) | split)

theorem outTo_stays {b₀ : State} {s : State} {d node : Nat} {f : Frag} (hs : b₀.stays s) :
    b₀.stays (State.outTo s d node f) := by
  unfold State.outTo
  with_reducible repeat' (first
    | assumption | apply stays_foldl | apply stays_foldl1 | apply stays_foldl2 | apply send_stays | intro _)

theorem reroute_stays {b₀ : State} {s : State} {d : Nat} {f : Frag} {ns : List Nat} (hs : b₀.stays s) :
    b₀.stays (State.reroute s d f ns).1 := by
  unfold State.reroute
  with_reducible repeat' (first
    | assumption | refine stays_of_fst (by assumption) ?_ | apply stays_ite | apply stays_ite1 | apply stays_foldl
    | apply stays_foldl1 | apply stays_foldl2 | apply sendCopy_stays | apply tally_stays | apply raise_stays | apply outTo_stays
    | intro _ | split | dsimp only)

theorem rerouteAll_stays {b₀ s : State} {d : Nat} {l : List (Frag × List Nat)} (hs : b₀.stays s) :
    b₀.stays (State.rerouteAll s d l) := by
  unfold State.rerouteAll
  with_reducible repeat' (first
    | assumption | apply stays_ite | apply stays_ite1 | apply stays_foldl | apply stays_foldl1 | apply stays_foldl2 | apply reroute_stays
    | apply updWan_stays | apply raise_stays | intro _)

theorem noteFrag_stays {b₀ s : State} {d : Nat} {f : Frag} (hs : b₀.stays s) :
    b₀.stays (State.noteFrag s d f) := by
  unfold State.noteFrag
  with_reducible repeat' (first
    | assumption | apply stays_ite | apply updWan_stays)

theorem execFragmentSend_stays {b₀ : State} {d : Fin 2} {s : State} (hs : b₀.stays s) :
    b₀.outs (execFragmentSend d s) := by
  unfold execFragmentSend
  with_reducible repeat' (first
    | assumption | apply stays_ite | apply stays_foldl | apply stays_foldl1 | apply stays_foldl2 | apply updMd_stays
    | apply storeFrag_stays | apply noteFrag_stays | apply sendCopy_stays | apply updWan_stays | apply rerouteAll_stays | apply outs_next
    | apply outs_ite | intro _ | (simp only [stays_mk]; refine stays_core ?_) | split)

/-! ## WanCtl -/

theorem updConn_stays {b₀ s : State} {d k : Nat} {f : Conn → Conn} (hs : b₀.stays s) :
    b₀.stays (State.updConn s d k f) := by
  unfold State.updConn
  with_reducible repeat' (first
    | assumption | apply updWan_stays)

theorem connect_stays {b₀ s : State} {d n src sess : Nat} (hs : b₀.stays s) :
    b₀.opts1 (State.connect s d n src sess) := by
  unfold State.connect
  with_reducible repeat' (first
    | assumption | apply stays_ite | apply updWan_stays | apply updConn_stays | apply opts1_some | apply opts1_none | apply opts1_ite
    | apply opts1_map | intro _)

theorem dropRecord_stays {b₀ s : State} {d n src : Nat} (hs : b₀.stays s) :
    b₀.stays (State.dropRecord s d n src) := by
  unfold State.dropRecord
  with_reducible repeat' (first
    | assumption | apply tally_stays | apply raise_stays)

theorem queueRecord_stays {b₀ s : State} {d n : Nat} {on : Option (Nat × Nat)} {b : List Byte} (hs : b₀.stays s) :
    b₀.stays (State.queueRecord s d n on b).1 := by
  unfold State.queueRecord
  with_reducible repeat' (first
    | assumption | refine stays_of_fst (by assumption) ?_ | refine stays_of_some2 (by assumption) ?_ | apply stays_ite | apply stays_ite1
    | apply stays_getD | apply dropRecord_stays | apply updConn_stays | apply updPair_stays | intro _
    | (simp only [stays_mk]; refine stays_core ?_) | split | dsimp only)

theorem sendMessage_stays {b₀ : State} {s : State} {d k cseq : Nat} {recs : List (List Byte)} (hs : b₀.stays s) :
    b₀.stays (State.sendMessage s d k cseq recs) := by
  unfold State.sendMessage
  with_reducible repeat' (first
    | assumption | refine stays_of_fst (by assumption) ?_ | apply seal_stays | apply sendFelvar_stays | apply updConn_stays
    | intro _ | (simp only [stays_mk]; refine stays_core ?_) | split | dsimp only)

theorem pumpConn_stays {b₀ : State} {x0 : Nat} {x1 : State} {x2 x3 : Nat} (hx1 : b₀.stays x1) :
    b₀.stays (State.pumpConn x0 x1 x2 x3) := by
  induction x0 generalizing x1 x2 x3 with
  | zero =>
    unfold State.pumpConn
    with_reducible repeat' (first
      | assumption)
  | succ k ih =>
    unfold State.pumpConn
    with_reducible repeat' (first
      | apply ih | assumption | apply stays_ite | apply sendMessage_stays | apply updConn_stays | intro _
      | (simp only [stays_mk]; refine stays_core ?_) | split)

theorem joinConn_stays {b₀ s : State} {d n : Nat} (hs : b₀.stays s) :
    b₀.stays (State.joinConn s d n) := by
  unfold State.joinConn
  with_reducible repeat' (first
    | assumption | refine stays_of_some1 (by assumption) ?_ | apply stays_ite | apply connect_stays | apply updPair_stays
    | apply updConn_stays | intro _ | (simp only [stays_mk]; refine stays_core ?_) | split | dsimp only)

theorem moveRecords_stays {b₀ s : State} {d n : Nat} (hs : b₀.stays s) :
    b₀.stays (State.moveRecords s d n) := by
  unfold State.moveRecords
  with_reducible repeat' (first
    | assumption | apply stays_ite | apply stays_ite1 | apply stays_foldl | apply stays_foldl1 | apply stays_foldl2 | apply updPair_stays
    | apply updWan_stays | apply queueRecord_stays | apply raise_stays | intro _)

theorem takeRecords_stays {b₀ s : State} {d : Nat} (hs : b₀.stays s) :
    b₀.stays (State.takeRecords s d) := by
  unfold State.takeRecords
  with_reducible repeat' (first
    | assumption | apply stays_ite | apply stays_ite1 | apply stays_foldl | apply stays_foldl1 | apply stays_foldl2
    | apply dropRecord_stays | apply queueRecord_stays | apply updMd_stays | intro _)

theorem ctlPump_stays {b₀ s : State} {d : Nat} (hs : b₀.stays s) :
    b₀.stays (State.ctlPump s d) := by
  unfold State.ctlPump
  with_reducible repeat' (first
    | assumption | apply stays_foldl | apply stays_foldl1 | apply stays_foldl2 | apply takeRecords_stays | apply moveRecords_stays
    | apply joinConn_stays | apply pumpConn_stays | intro _)

theorem execControlAckTimer_stays {b₀ : State} {d : Fin 2} {k : Fin 256} {s : State} (hs : b₀.stays s) :
    b₀.outs (execControlAckTimer d k s) := by
  unfold execControlAckTimer
  with_reducible repeat' (first
    | assumption | apply stays_ite | apply sendMessage_stays | apply outs_next | apply outs_ite | intro _
    | (simp only [stays_mk]; refine stays_core ?_) | split)

theorem execControlRetransmit_stays {b₀ : State} {d : Fin 2} {k : Fin 256} {cseq : Nat} {s : State} (hs : b₀.stays s) :
    b₀.outs (execControlRetransmit d k cseq s) := by
  unfold execControlRetransmit
  with_reducible repeat' (first
    | assumption | apply stays_ite | apply updWan_stays | apply tally_stays | apply raise_stays | apply updConn_stays
    | apply sendMessage_stays | apply outs_next | apply outs_ite | intro _ | (simp only [stays_mk]; refine stays_core ?_) | split)

theorem deliver_stays {b₀ : State} {s : State} {d n src sess : Nat} {b : List Byte} (hs : b₀.stays s) :
    b₀.stays (State.deliver s d n src sess b) := by
  unfold State.deliver
  with_reducible repeat' (first
    | assumption | apply stays_ite | apply stays_ite1 | apply updWan_stays | apply send_stays | intro _
    | (simp only [stays_mk]; refine stays_core ?_))

theorem drainEarly_stays {b₀ : State} {x0 : Nat} {x1 : State} {x2 x3 : Nat} (hx1 : b₀.stays x1) :
    b₀.stays (State.drainEarly x0 x1 x2 x3) := by
  induction x0 generalizing x1 x2 x3 with
  | zero =>
    unfold State.drainEarly
    with_reducible repeat' (first
      | assumption)
  | succ k ih =>
    unfold State.drainEarly
    with_reducible repeat' (first
      | apply ih | assumption | apply stays_foldl | apply stays_foldl1 | apply stays_foldl2 | apply updConn_stays | apply deliver_stays
      | intro _ | (simp only [stays_mk]; refine stays_core ?_) | split)

theorem inSequence_stays {b₀ s : State} {d k cseq : Nat} {recs : List (List Byte)} (hs : b₀.stays s) :
    b₀.stays (State.inSequence s d k cseq recs) := by
  unfold State.inSequence
  with_reducible repeat' (first
    | assumption | apply stays_ite | apply stays_foldl | apply stays_foldl1 | apply stays_foldl2 | apply updConn_stays
    | apply deliver_stays | apply drainEarly_stays | apply tally_stays | intro _ | (simp only [stays_mk]; refine stays_core ?_) | split)

theorem connOf_stays {b₀ s : State} {d n src sess : Nat} (hs : b₀.stays s) :
    b₀.opts1 (State.connOf s d n src sess) := by
  unfold State.connOf
  with_reducible repeat' (first
    | assumption | refine stays_of_some1 (by assumption) ?_ | apply updConn_stays | apply connect_stays | apply opts1_some
    | apply opts1_none | intro _ | (simp only [stays_mk]; refine stays_core ?_) | split | dsimp only)

theorem ctlBody_stays {b₀ s : State} {d n src sess : Nat} {b : List Byte} (hs : b₀.stays s) :
    b₀.stays (State.ctlBody s d n src sess b) := by
  unfold State.ctlBody
  with_reducible repeat' (first
    | assumption | refine stays_of_some1 (by assumption) ?_ | apply stays_ite | apply tally_stays | apply connOf_stays
    | apply updConn_stays | apply inSequence_stays | intro _ | (simp only [stays_mk]; refine stays_core ?_) | split)

theorem track_stays {b₀ s : State} {d : Nat} {e : PEntry} {die : Nat} {h : FragHdr} (hs : b₀.stays s) :
    b₀.stays (State.track s d e die h) := by
  unfold State.track
  with_reducible repeat' (first
    | assumption | apply stays_ite | apply writeRaw_stays | intro _ | (simp only [stays_mk]; refine stays_core ?_) | split)

theorem execSummarySend_stays {b₀ : State} {d : Fin 2} {job trick : Nat} {s : State} (hs : b₀.stays s) :
    b₀.outs (execSummarySend d job trick s) := by
  unfold execSummarySend
  with_reducible repeat' (first
    | assumption | refine stays_of_fst (by assumption) ?_ | apply stays_ite | apply stays_ite1 | apply stays_foldl | apply stays_foldl1
    | apply stays_foldl2 | apply updWan_stays | apply queueRecord_stays | apply ctlPump_stays | apply outs_next | apply outs_ite
    | intro _ | (simp only [stays_mk]; refine stays_core ?_) | split)

theorem nackRound_stays {b₀ s : State} {d : Nat} {x : NackRun} {bits_ : Nat} (hs : b₀.stays s) :
    b₀.stays (State.nackRound s d x bits_) := by
  unfold State.nackRound
  with_reducible repeat' (first
    | assumption | apply stays_ite | apply stays_ite1 | apply stays_foldl | apply stays_foldl1 | apply stays_foldl2
    | apply queueRecord_stays | apply tally_stays | intro _)

theorem summaryEntry_stays {b₀ s : State} {d n src sess job t w : Nat} (hs : b₀.stays s) :
    b₀.stays (State.summaryEntry s d n src sess job t w) := by
  unfold State.summaryEntry
  with_reducible repeat' (first
    | assumption | apply stays_ite | apply nackRound_stays | apply updWan_stays | intro _)

theorem takeRec_stays {b₀ s : State} {d typ : Nat} (hs : b₀.stays s) :
    b₀.opts1 (State.takeRec s d typ) := by
  unfold State.takeRec
  with_reducible repeat' (first
    | assumption | apply updWan_stays | apply opts1_some | apply opts1_none | apply opts1_map | intro _
    | (simp only [stays_mk]; refine stays_core ?_) | split)

theorem execSummary_stays {b₀ : State} {d : Fin 2} {s : State} (hs : b₀.stays s) :
    b₀.outs (execSummary d s) := by
  unfold execSummary
  with_reducible repeat' (first
    | assumption | refine stays_of_some1 (by assumption) ?_ | apply stays_foldl | apply stays_foldl1 | apply stays_foldl2
    | apply takeRec_stays | apply summaryEntry_stays | apply ctlPump_stays | apply outs_next | intro _
    | (simp only [stays_mk]; refine stays_core ?_) | split)

theorem execNackRepeat_stays {b₀ : State} {d : Fin 2} {k : Nat} {s : State} (hs : b₀.stays s) :
    b₀.outs (execNackRepeat d k s) := by
  unfold execNackRepeat
  with_reducible repeat' (first
    | assumption | apply stays_ite | apply updWan_stays | apply nackRound_stays | apply ctlPump_stays | apply outs_next | apply outs_ite
    | intro _ | (simp only [stays_mk]; refine stays_core ?_) | split)

theorem storedFrag_stays {b₀ : State} {s : State} {d n job dev t seq until_ : Nat} (hs : b₀.stays s) :
    b₀.stays (State.storedFrag s d n job dev t seq until_).1 := by
  unfold State.storedFrag
  with_reducible repeat' (first
    | assumption | refine stays_of_fst (by assumption) ?_ | apply stays_ite | apply stays_ite1 | apply stays_iterd
    | apply read_stays | intro _ | split | dsimp only)

theorem serveBit_stays {b₀ s : State} {d n job dev t seq until_ : Nat} (hs : b₀.stays s) :
    b₀.stays (State.serveBit s d n job dev t seq until_) := by
  unfold State.serveBit
  with_reducible repeat' (first
    | assumption | refine stays_of_fst (by assumption) ?_ | apply stays_ite | apply stays_ite1 | apply storedFrag_stays
    | apply tally_stays | apply sendCopy_stays | apply updWan_stays | apply raise_stays | intro _
    | (simp only [stays_mk]; refine stays_core ?_) | split)

theorem execNack_stays {b₀ : State} {d : Fin 2} {s : State} (hs : b₀.stays s) :
    b₀.outs (execNack d s) := by
  unfold execNack
  with_reducible repeat' (first
    | assumption | refine stays_of_some1 (by assumption) ?_ | apply stays_ite | apply stays_foldl | apply stays_foldl1
    | apply stays_foldl2 | apply takeRec_stays | apply serveBit_stays | apply outs_next | apply outs_ite | intro _
    | (simp only [stays_mk]; refine stays_core ?_) | split)

/-! ## WanIn -/

theorem countDrop_stays {b₀ s : State} {d cause : Nat} (hs : b₀.stays s) :
    b₀.stays (State.countDrop s d cause) := by
  unfold State.countDrop
  with_reducible repeat' (first
    | assumption | apply stays_ite | apply count32_stays | apply updWan_stays | apply raise_stays | intro _)

theorem dropWan_stays {b₀ s : State} {d t : Nat} (hs : b₀.stays s) :
    b₀.stays (State.dropWan s d t) := by
  unfold State.dropWan
  with_reducible repeat' (first
    | assumption | apply stays_ite | apply tally_stays | apply countDrop_stays)

theorem dropCip_stays {b₀ s : State} {d : Nat} {r : Reg} (hs : b₀.stays s) :
    b₀.stays (State.dropCip s d r) := by
  unfold State.dropCip
  with_reducible repeat' (first
    | assumption | apply drew_stays | apply tally_stays | apply countDrop_stays)

theorem felvarOpened_stays {b₀ s : State} {d : Nat} {e : PEntry} {h : Felvar} {b text : List Byte} (hs : b₀.stays s) :
    b₀.stays (State.felvarOpened s d e h b text) := by
  unfold State.felvarOpened
  with_reducible repeat' (first
    | assumption | apply stays_ite | apply ctlBody_stays | apply ctlPump_stays | apply dropWan_stays | apply track_stays
    | apply courierTake_stays | intro _)

theorem felvarKeyed_stays {b₀ : State} {s : State} {d : Nat} {e : PEntry} {h : Felvar} {k : RxKey} {b : List Byte} (hs : b₀.stays s) :
    b₀.stays (State.felvarKeyed s d e h k b) := by
  unfold State.felvarKeyed
  with_reducible repeat' (first
    | assumption | apply stays_ite | apply dropWan_stays | apply tally_stays | apply updCip_stays | apply rxGood_stays
    | apply felvarOpened_stays | apply dropCip_stays | apply raise_stays | intro _ | (simp only [stays_mk]; refine stays_core ?_)
    | split | dsimp only)

theorem felvarMiss_stays {b₀ s : State} {d n src : Nat} {b : List Byte} (hs : b₀.stays s) :
    b₀.stays (State.felvarMiss s d n src b) := by
  unfold State.felvarMiss
  with_reducible repeat' (first
    | assumption | apply stays_ite | apply updCip_stays | apply tally_stays | apply dropCip_stays | apply raise_stays | intro _)

theorem felvarWith_stays {b₀ s : State} {d : Nat} {b : List Byte} {miss : State → PEntry → Felvar → State} (hmiss : ∀ y0 y1 y2, b₀.stays y0 → b₀.stays (miss y0 y1 y2)) (hs : b₀.stays s) :
    b₀.stays (State.felvarWith s d b miss) := by
  unfold State.felvarWith
  with_reducible repeat' (first
    | assumption | apply stays_ite | apply hmiss | apply dropWan_stays | apply dropCip_stays | apply felvarKeyed_stays | apply opts2_some
    | apply opts2_none | apply opts2_ite | intro _ | (simp only [stays_mk]; refine stays_core ?_) | split)

theorem felvar_stays {b₀ s : State} {d : Nat} {b : List Byte} (hs : b₀.stays s) :
    b₀.stays (State.felvar s d b) := by
  unfold State.felvar
  with_reducible repeat' (first
    | assumption | apply felvarWith_stays | apply felvarMiss_stays | apply opts2_some | apply opts2_none | intro _)

theorem execKeyMissDerived_stays {b₀ : State} {d : Fin 2} {s : State} (hs : b₀.stays s) :
    b₀.outs (execKeyMissDerived d s) := by
  unfold execKeyMissDerived
  with_reducible repeat' (first
    | assumption | apply stays_foldl | apply stays_foldl1 | apply stays_foldl2 | apply updCip_stays | apply felvarWith_stays
    | apply rxDerive_stays | apply felvarKeyed_stays | apply outs_next | apply outs_fault | apply outs_ite | intro _
    | (simp only [stays_mk]; refine stays_core ?_) | split | dsimp only)

theorem packetIn_stays {b₀ s : State} {d typ : Nat} {b : List Byte} (hs : b₀.stays s) :
    b₀.stays (State.packetIn s d typ b) := by
  unfold State.packetIn
  with_reducible repeat' (first
    | assumption | apply stays_ite | apply tally_stays | apply felvar_stays | intro _)

theorem execBulk_stays {b₀ : State} {d : Fin 2} {packet : List Byte} {s : State} (hs : b₀.stays s) :
    b₀.outs (execBulk d packet s) := by
  unfold execBulk
  with_reducible repeat' (first
    | assumption | apply packetIn_stays | apply outs_next)

theorem execCtl_stays {b₀ : State} {d : Fin 2} {packet : List Byte} {s : State} (hs : b₀.stays s) :
    b₀.outs (execCtl d packet s) := by
  unfold execCtl
  with_reducible repeat' (first
    | assumption | apply packetIn_stays | apply outs_next)

theorem arpAnswer_stays {b₀ s : State} {d : Nat} {f : EthFrame} (hs : b₀.stays s) :
    b₀.stays (State.arpAnswer s d f) := by
  unfold State.arpAnswer
  with_reducible repeat' (first
    | assumption | apply stays_ite | apply sendFrame_stays | intro _)

theorem nsAnswer_stays {b₀ s : State} {d : Nat} {f : EthFrame} (hs : b₀.stays s) :
    b₀.stays (State.nsAnswer s d f) := by
  unfold State.nsAnswer
  with_reducible repeat' (first
    | assumption | apply stays_ite | apply sendFrame_stays | intro _)

theorem frameTaken_stays {b₀ s : State} {d : Nat} {f : EthFrame} (hs : b₀.stays s) :
    b₀.stays (State.frameTaken s d f) := by
  unfold State.frameTaken
  with_reducible repeat' (first
    | assumption | apply stays_ite | apply arpAnswer_stays | apply nsAnswer_stays | apply dropWan_stays | apply felvar_stays | intro _
    | (simp only [stays_mk]; refine stays_core ?_) | split)

theorem frameIn_stays {b₀ s : State} {d : Nat} {b : List Byte} {fcs : Bool} (hs : b₀.stays s) :
    b₀.stays (State.frameIn s d b fcs) := by
  unfold State.frameIn
  with_reducible repeat' (first
    | assumption | apply stays_ite | apply tally_stays | apply dropWan_stays | apply frameTaken_stays | intro _)

theorem execEthernetFrame_stays {b₀ : State} {d : Fin 2} {frame : List Byte} {fcs : Bool} {s : State} (hs : b₀.stays s) :
    b₀.outs (execEthernetFrame d frame fcs s) := by
  unfold execEthernetFrame
  with_reducible repeat' (first
    | assumption | apply frameIn_stays | apply outs_next)

theorem execArpRequest_stays {b₀ : State} {d : Fin 2} {frame : List Byte} {s : State} (hs : b₀.stays s) :
    b₀.outs (execArpRequest d frame s) := by
  unfold execArpRequest
  with_reducible repeat' (first
    | assumption | apply stays_ite | apply frameIn_stays | apply outs_next | apply outs_ite | intro _)

theorem execNeighborSolicitation_stays {b₀ : State} {d : Fin 2} {frame : List Byte} {s : State} (hs : b₀.stays s) :
    b₀.outs (execNeighborSolicitation d frame s) := by
  unfold execNeighborSolicitation
  with_reducible repeat' (first
    | assumption | apply stays_ite | apply frameIn_stays | apply outs_next | apply outs_ite | intro _)

end Sys2Proof.Machine
end

