-- ==== Sys2Proof/Laws/StaysUnits.lean ====
section
/-! SUPPORT. Every operation of the other units of a die keeps the queue and the soundness of the state: one lemma for each. -/

namespace Sys2Proof.Machine

set_option linter.unusedTactic false
set_option linter.unusedSimpArgs false
set_option linter.unreachableTactic false

/-! ## Lockstep -/

theorem twinHalt_stays {b₀ s : State} {cause r item seq : Nat} (hs : b₀.stays s) :
    b₀.stays (State.twinHalt s cause r item seq) := by
  unfold State.twinHalt
  with_reducible repeat' (first
    | assumption | apply stays_ite | apply stays_foldl | apply stays_foldl1 | apply stays_foldl2 | apply setReg_stays | apply raise_stays
    | apply setFld_stays | apply waitFor_stays | intro _)

theorem twinLost_stays {b₀ s : State} (hs : b₀.stays s) :
    b₀.stays (State.twinLost s) := by
  unfold State.twinLost
  with_reducible repeat' (first
    | assumption | apply twinHalt_stays | intro _ | (simp only [stays_mk]; refine stays_core ?_) | split)

theorem twinBridgeDown_stays {b₀ s : State} (hs : b₀.stays s) :
    b₀.stays (State.twinBridgeDown s) := by
  unfold State.twinBridgeDown
  with_reducible repeat' (first
    | assumption | apply stays_ite | apply twinLost_stays | intro _)

theorem twinEqual_stays {b₀ s : State} {r : Nat} {x : TwinRec} (hs : b₀.stays s) :
    b₀.stays (State.twinEqual s r x) := by
  unfold State.twinEqual
  with_reducible repeat' (first
    | assumption | apply stays_ite | apply updRg_stays | apply tally_stays | intro _)

theorem twinCompare_stays {b₀ s : State} {r : Nat} (hs : b₀.stays s) :
    b₀.stays (State.twinCompare s r) := by
  unfold State.twinCompare
  with_reducible repeat' (first
    | assumption | apply stays_ite | apply updRg_stays | apply twinEqual_stays | apply twinHalt_stays | intro _
    | (simp only [stays_mk]; refine stays_core ?_) | split | dsimp only)

theorem twinSend_stays {b₀ : State} {s : State} {r c : Nat} {x : TwinRec} (hs : b₀.stays s) :
    b₀.stays (State.twinSend s r c x) := by
  unfold State.twinSend
  with_reducible repeat' (first
    | assumption | apply stays_ite | apply updRg_stays | apply tally_stays | apply remoteWrite_stays | apply twinCompare_stays
    | intro _ | (simp only [stays_mk]; refine stays_core ?_))

theorem twinBuffer_stays {b₀ s : State} {a : Nat} {data : List Byte} (hs : b₀.stays s) :
    b₀.stays (State.twinBuffer s a data) := by
  unfold State.twinBuffer
  with_reducible repeat' (first
    | assumption | apply stays_ite | apply updRg_stays | intro _)

theorem execTwinRecord_stays {b₀ : State} {r : Fin 16} {seq : Nat} {s : State} (hs : b₀.stays s) :
    b₀.outs (execTwinRecord r seq s) := by
  unfold execTwinRecord
  with_reducible repeat' (first
    | assumption | apply stays_ite | apply updRg_stays | apply twinCompare_stays | apply outs_next | apply outs_ite | intro _
    | (simp only [stays_mk]; refine stays_core ?_) | split)

theorem execTwinPeerTimeout_stays {b₀ s : State} (hs : b₀.stays s) :
    b₀.outs (execTwinPeerTimeout s) := by
  unfold execTwinPeerTimeout
  with_reducible repeat' (first
    | assumption | apply stays_ite | apply twinLost_stays | apply outs_next | apply outs_ite | intro _)

theorem twinRuns_stays {b₀ s : State} (hs : b₀.stays s) :
    b₀.stays (State.twinRuns s) := by
  unfold State.twinRuns
  with_reducible repeat' (first
    | assumption | apply setFld_stays)

theorem onDetTw_stays {b₀ s : State} (hs : b₀.stays s) :
    b₀.stays (State.onDetTw s) := by
  unfold State.onDetTw
  with_reducible repeat' (first
    | assumption | apply stays_ite | apply stays_foldl | apply stays_foldl1 | apply stays_foldl2 | apply updRg_stays
    | apply twinRuns_stays | intro _)

theorem onTwinRelease_stays {b₀ s : State} (hs : b₀.stays s) :
    b₀.stays (State.onTwinRelease s) := by
  unfold State.onTwinRelease
  with_reducible repeat' (first
    | assumption | apply stays_ite | apply stays_foldl | apply stays_foldl1 | apply stays_foldl2 | apply itemFault_stays
    | apply updSlot_stays | apply twinRuns_stays | intro _)

theorem onReplayOff_stays {b₀ s : State} (hs : b₀.stays s) :
    b₀.stays (State.onReplayOff s) := by
  unfold State.onReplayOff
  with_reducible repeat' (first
    | assumption | apply stays_ite | apply stays_foldl | apply stays_foldl1 | apply stays_foldl2 | apply itemFault_stays | intro _)

theorem onDetStrict_stays {b₀ s : State} (hs : b₀.stays s) :
    b₀.stays (State.onDetStrict s) := by
  unfold State.onDetStrict
  with_reducible repeat' (first
    | assumption | apply setFld_stays | (simp only [stays_mk]; refine stays_core ?_))

theorem execStrictSettled_stays {b₀ s : State} (hs : b₀.stays s) :
    b₀.outs (execStrictSettled s) := by
  unfold execStrictSettled
  with_reducible repeat' (first
    | assumption | apply stays_ite | apply setFld_stays | apply outs_next | apply outs_ite | intro _
    | (simp only [stays_mk]; refine stays_core ?_))

/-! ## Rec -/

theorem execWarningWindowEnd_stays {b₀ : State} {d w : Fin 2} {s : State} (hs : b₀.stays s) :
    b₀.outs (execWarningWindowEnd d w s) := by
  unfold execWarningWindowEnd
  with_reducible repeat' (first
    | assumption | apply stays_ite | apply updRec_stays | apply outs_next)

theorem goSolo_stays {b₀ s : State} {d path : Nat} (hs : b₀.stays s) :
    b₀.stays (State.goSolo s d path) := by
  unfold State.goSolo
  with_reducible repeat' (first
    | assumption | apply stays_ite | apply setFld_stays | apply raise_stays | apply warn_stays | intro _)

theorem execRcSelftestDone_stays {b₀ : State} {d : Fin 2} {ok : Bool} {s : State} (hs : b₀.stays s) :
    b₀.outs (execRcSelftestDone d ok s) := by
  unfold execRcSelftestDone
  with_reducible repeat' (first
    | assumption | apply stays_ite | apply setFld_stays | apply raise_stays | apply outs_next | apply outs_ite | intro _)

theorem execRcTwinSignal_stays {b₀ : State} {d : Fin 2} {paths : Fin 4} {s : State} (hs : b₀.stays s) :
    b₀.outs (execRcTwinSignal d paths s) := by
  unfold execRcTwinSignal
  with_reducible repeat' (first
    | assumption | apply stays_ite | apply tally_stays | apply setFld_stays | apply goSolo_stays | apply outs_next
    | apply outs_fault | apply outs_ite | intro _)

theorem execRcTwinLost_stays {b₀ : State} {d : Fin 2} {s : State} (hs : b₀.stays s) :
    b₀.outs (execRcTwinLost d s) := by
  unfold execRcTwinLost
  with_reducible repeat' (first
    | assumption | apply stays_ite | apply setFld_stays | apply goSolo_stays | apply outs_next | apply outs_ite | intro _)

theorem execFailNAssert_stays {b₀ s : State} (hs : b₀.stays s) :
    b₀.outs (execFailNAssert s) := by
  unfold execFailNAssert
  with_reducible repeat' (first
    | assumption | apply stays_ite | apply setFld_stays | apply emit_stays | apply raise_stays | apply outs_next | apply outs_ite
    | intro _)

theorem setCut_stays {b₀ s : State} {st : Nat} (hs : b₀.stays s) :
    b₀.stays (State.setCut s st) := by
  unfold State.setCut
  with_reducible repeat' (first
    | assumption | apply setFld_stays)

theorem cutFails_stays {b₀ s : State} {q : CutReq} {reason : Nat} (hs : b₀.stays s) :
    b₀.stays (State.cutFails s q reason) := by
  unfold State.cutFails
  with_reducible repeat' (first
    | assumption | apply stays_ite | apply recordFirst_stays | apply raise_stays | apply tally_stays | apply setCut_stays | intro _
    | (simp only [stays_mk]; refine stays_core ?_))

theorem armCut_stays {b₀ s : State} {q : CutReq} (hs : b₀.stays s) :
    b₀.stays (State.armCut s q) := by
  unfold State.armCut
  with_reducible repeat' (first
    | assumption | apply stays_ite | apply setFld_stays | apply cutFails_stays | apply raise_stays | apply setCut_stays | intro _
    | (simp only [stays_mk]; refine stays_core ?_))

theorem cutArrives_stays {b₀ s : State} {q : CutReq} (hs : b₀.stays s) :
    b₀.stays (State.cutArrives s q) := by
  unfold State.cutArrives
  with_reducible repeat' (first
    | assumption | apply stays_ite | apply armCut_stays | intro _ | (simp only [stays_mk]; refine stays_core ?_))

theorem cutNext_stays {b₀ s : State} (hs : b₀.stays s) :
    b₀.stays (State.cutNext s) := by
  unfold State.cutNext
  with_reducible repeat' (first
    | assumption | apply stays_ite | apply armCut_stays | intro _ | (simp only [stays_mk]; refine stays_core ?_) | split)

theorem cutHeard_stays {b₀ s : State} {id ctx step : Nat} (hs : b₀.stays s) :
    b₀.stays (State.cutHeard s id ctx step) := by
  unfold State.cutHeard
  with_reducible repeat' (first
    | assumption | apply stays_ite | apply cutArrives_stays | intro _ | (simp only [stays_mk]; refine stays_core ?_))

theorem masterCut_stays {b₀ s : State} (hs : b₀.stays s) :
    b₀.stays (State.masterCut s) := by
  unfold State.masterCut
  with_reducible repeat' (first
    | assumption | apply stays_ite | apply stays_getD | apply cutHeard_stays | intro _ | (simp only [stays_mk]; refine stays_core ?_))

theorem restoreFails_stays {b₀ s : State} {reason cutid : Nat} (hs : b₀.stays s) :
    b₀.stays (State.restoreFails s reason cutid) := by
  unfold State.restoreFails
  with_reducible repeat' (first
    | assumption | apply stays_foldl | apply stays_foldl1 | apply stays_foldl2 | apply recordFirst_stays | apply raise_stays
    | apply setFld_stays | intro _)

theorem actionFails_stays {b₀ s : State} (hs : b₀.stays s) :
    b₀.stays (State.actionFails s) := by
  unfold State.actionFails
  with_reducible repeat' (first
    | assumption | apply stays_ite | apply cutFails_stays | apply cutNext_stays | apply restoreFails_stays | intro _
    | (simp only [stays_mk]; refine stays_core ?_) | split)

theorem writeSpare_stays {b₀ s : State} {i st failed spare : Nat} (hs : b₀.stays s) :
    b₀.stays (State.writeSpare s i st failed spare) := by
  unfold State.writeSpare
  with_reducible repeat' (first
    | assumption | apply writeRaw_stays)

theorem countFailed_stays {b₀ : State} {s : State} {f : Nat} (hs : b₀.stays s) :
    b₀.stays (State.countFailed s f) := by
  unfold State.countFailed
  with_reducible repeat' (first
    | assumption | apply stays_ite | apply raise_stays | apply writeSpare_stays | apply remoteWrite_stays | intro _
    | (simp only [stays_mk]; refine stays_core ?_) | split | dsimp only)

theorem takenOver_stays {b₀ s : State} {f sp : Nat} (hs : b₀.stays s) :
    b₀.stays (State.takenOver s f sp) := by
  unfold State.takenOver
  with_reducible repeat' (first
    | assumption | apply writeSpare_stays | intro _ | (simp only [stays_mk]; refine stays_core ?_) | split)

theorem takeNotice_stays {b₀ s : State} {failed reporter cause ts : Nat} (hs : b₀.stays s) :
    b₀.stays (State.takeNotice s failed reporter cause ts) := by
  unfold State.takeNotice
  with_reducible repeat' (first
    | assumption | apply stays_ite | apply writeRaw_stays | apply setFld_stays | apply countFailed_stays | apply takenOver_stays
    | apply notices_stays | intro _ | (simp only [stays_mk]; refine stays_core ?_))

theorem execFailureNotice_stays {b₀ : State} {failed reporter : Fin 16384} {cause : Fin 5} {ts : Nat} {s : State} (hs : b₀.stays s) :
    b₀.outs (execFailureNotice failed reporter cause ts s) := by
  unfold execFailureNotice
  with_reducible repeat' (first
    | assumption | apply stays_ite | apply takeNotice_stays | apply outs_next | apply outs_ite | intro _)

theorem notify_stays {b₀ : State} {s : State} {failed me cause : Nat} (hs : b₀.stays s) :
    b₀.stays (State.notify s failed me cause) := by
  unfold State.notify
  with_reducible repeat' (first
    | assumption | apply stays_ite | apply takeNotice_stays | apply remoteWrite_stays | intro _)

theorem State_report_stays {b₀ s : State} {d failed cause : Nat} (hs : b₀.stays s) :
    b₀.stays (State.report s d failed cause) := by
  unfold State.report
  with_reducible repeat' (first
    | assumption | apply notify_stays)

theorem State_tell_stays {b₀ s : State} {d i cause : Nat} (hs : b₀.stays s) :
    b₀.stays (State.tell s d i cause) := by
  unfold State.tell
  with_reducible repeat' (first
    | assumption | apply stays_ite | apply updRec_stays | apply State_report_stays | intro _)

theorem execHbSilenceTimeout_stays {b₀ : State} {d : Fin 2} {i : Fin 18} {s : State} (hs : b₀.stays s) :
    b₀.outs (execHbSilenceTimeout d i s) := by
  unfold execHbSilenceTimeout
  with_reducible repeat' (first
    | assumption | apply stays_ite | apply State_tell_stays | apply timeHbLost_stays | apply outs_next | apply outs_ite | intro _)

theorem takeMail_stays {b₀ s : State} {f : Nat} (hs : b₀.stays s) :
    b₀.stays (State.takeMail s f) := by
  unfold State.takeMail
  with_reducible repeat' (first
    | assumption | apply raise_stays | (simp only [stays_mk]; refine stays_core ?_))

theorem execTakeoverRecord_stays {b₀ : State} {f : Fin 16384} {s : State} (hs : b₀.stays s) :
    b₀.outs (execTakeoverRecord f s) := by
  unfold execTakeoverRecord
  with_reducible repeat' (first
    | assumption | apply writeRaw_stays | apply takeMail_stays | apply outs_next)

theorem recBuffer_stays {b₀ s : State} {a : Nat} {b : List Byte} (hs : b₀.stays s) :
    b₀.stays (State.recBuffer s a b) := by
  unfold State.recBuffer
  with_reducible repeat' (first
    | assumption | apply stays_ite | apply takeNotice_stays | apply takeMail_stays | intro _)

theorem applyPatch_stays {b₀ s : State} {f sp q : Nat} (hs : b₀.stays s) :
    b₀.stays (State.applyPatch s f sp q) := by
  unfold State.applyPatch
  with_reducible repeat' (first
    | assumption | apply stays_foldl | apply stays_foldl1 | apply stays_foldl2 | apply setReg_stays | apply raise_stays | intro _
    | (simp only [stays_mk]; refine stays_core ?_))

theorem patchNext_stays {b₀ s : State} (hs : b₀.stays s) :
    b₀.stays (State.patchNext s) := by
  unfold State.patchNext
  with_reducible repeat' (first
    | assumption | apply stays_ite | apply stays_foldl | apply stays_foldl1 | apply stays_foldl2 | apply applyPatch_stays | intro _
    | (simp only [stays_mk]; refine stays_core ?_) | split)

theorem spareActs_stays {b₀ s : State} (hs : b₀.stays s) :
    b₀.stays (State.spareActs s) := by
  unfold State.spareActs
  with_reducible repeat' (first
    | assumption | apply stays_foldl | apply stays_foldl1 | apply stays_foldl2 | apply setReg_stays | apply setFld_stays
    | apply notify_stays | apply raise_stays | intro _ | (simp only [stays_mk]; refine stays_core ?_) | split)

theorem execHeartbeatSend_stays {b₀ : State} {d : Fin 2} {s : State} (hs : b₀.stays s) :
    b₀.outs (execHeartbeatSend d s) := by
  unfold execHeartbeatSend
  with_reducible repeat' (first
    | assumption | apply stays_ite | apply stays_foldl | apply stays_foldl1 | apply stays_foldl2 | apply enqueue_stays
    | apply tally_stays | apply outs_next | apply outs_ite | intro _)

theorem beatArrives_stays {b₀ s : State} {d i : Nat} {b : Beat} (hs : b₀.stays s) :
    b₀.stays (State.beatArrives s d i b) := by
  unfold State.beatArrives
  with_reducible repeat' (first
    | assumption | apply stays_ite | apply tally_stays | apply updRec_stays | apply cutHeard_stays | apply applyPatch_stays
    | apply State_tell_stays | apply timeHb_stays | intro _ | (simp only [stays_mk]; refine stays_core ?_))

theorem execHb_stays {b₀ : State} {d : Fin 2} {i : Fin 18} {m : Msg} {s : State} (hs : b₀.stays s) :
    b₀.outs (execHb d i m s) := by
  unfold execHb
  with_reducible repeat' (first
    | assumption | apply stays_ite | apply beatArrives_stays | apply outs_next | apply outs_ite | intro _)

theorem duplicateRank_stays {b₀ s : State} {d : Nat} (hs : b₀.stays s) :
    b₀.stays (State.duplicateRank s d) := by
  unfold State.duplicateRank
  with_reducible repeat' (first
    | assumption | apply stays_ite | apply stays_foldl | apply stays_foldl1 | apply stays_foldl2 | apply setFld_stays | apply raise_stays
    | intro _ | (simp only [stays_mk]; refine stays_core ?_) | split)

theorem ownRank_stays {b₀ s : State} {d : Nat} (hs : b₀.stays s) :
    b₀.stays (State.ownRank s d) := by
  unfold State.ownRank
  with_reducible repeat' (first
    | assumption | apply stays_ite | apply stays_getD | apply drew_stays | apply updRec_stays | intro _)

theorem roleTest_stays {b₀ s : State} (hs : b₀.stays s) :
    b₀.stays (State.roleTest s) := by
  unfold State.roleTest
  with_reducible repeat' (first
    | assumption | apply stays_ite | apply setFld_stays | apply raise_stays | apply timeMaster_stays | intro _)

theorem askTable_stays {b₀ s : State} {k : Nat} (hs : b₀.stays s) :
    b₀.stays (State.askTable s k) := by
  unfold State.askTable
  with_reducible repeat' (first
    | assumption | apply remoteRead_stays)

theorem tableStep_stays {b₀ s : State} {period : Bool} (hs : b₀.stays s) :
    b₀.stays (State.tableStep s period) := by
  unfold State.tableStep
  with_reducible repeat' (first
    | assumption | apply stays_ite | apply dropReqs_stays | apply stage_stays | apply askTable_stays | apply writeRaw_stays | intro _
    | (simp only [stays_mk]; refine stays_core ?_) | split)

theorem masterKnown_stays {b₀ s : State} (hs : b₀.stays s) :
    b₀.stays (State.masterKnown s) := by
  unfold State.masterKnown
  with_reducible repeat' (first
    | assumption | apply stays_ite | apply stage_stays | apply askTable_stays | intro _ | (simp only [stays_mk]; refine stays_core ?_))

theorem rankPeriod_stays {b₀ s : State} {d : Nat} (hs : b₀.stays s) :
    b₀.stays (State.rankPeriod s d) := by
  unfold State.rankPeriod
  with_reducible repeat' (first
    | assumption | apply stays_ite | apply stays_foldl | apply stays_foldl1 | apply stays_foldl2 | apply updRec_stays
    | apply duplicateRank_stays | apply ownRank_stays)

theorem electRank_stays {b₀ s : State} {d : Nat} (hs : b₀.stays s) :
    b₀.stays (State.electRank s d) := by
  unfold State.electRank
  with_reducible repeat' (first
    | assumption | apply stays_ite | apply stays_getD | apply updRec_stays | apply setFld_stays | apply tally_stays | apply updTime_stays
    | apply timeReport_stays | apply roleTest_stays | intro _)

theorem masterPeriod_stays {b₀ s : State} (hs : b₀.stays s) :
    b₀.stays (State.masterPeriod s) := by
  unfold State.masterPeriod
  with_reducible repeat' (first
    | assumption | apply stays_ite | apply masterKnown_stays | apply tableStep_stays | apply masterCut_stays | apply patchNext_stays
    | intro _)

theorem execElectionPeriod_stays {b₀ : State} {d : Fin 2} {s : State} (hs : b₀.stays s) :
    b₀.outs (execElectionPeriod d s) := by
  unfold execElectionPeriod
  with_reducible repeat' (first
    | assumption | apply stays_ite | apply rankPeriod_stays | apply electRank_stays | apply masterPeriod_stays | apply outs_next
    | apply outs_ite | intro _)

theorem withdraw_stays {b₀ s : State} (hs : b₀.stays s) :
    b₀.stays (State.withdraw s) := by
  unfold State.withdraw
  with_reducible repeat' (first
    | assumption | apply stays_ite | apply stays_foldl | apply stays_foldl1 | apply stays_foldl2 | apply ownRank_stays
    | apply setFld_stays | apply roleTest_stays | intro _)

theorem execRcSelftestFail_stays {b₀ : State} {d : Fin 2} {cause : Fin 4} {s : State} (hs : b₀.stays s) :
    b₀.outs (execRcSelftestFail d cause s) := by
  unfold execRcSelftestFail
  with_reducible repeat' (first
    | assumption | apply stays_ite | apply setFld_stays | apply raise_stays | apply withdraw_stays | apply actionFails_stays
    | apply outs_next | apply outs_ite | intro _)

theorem reissueOne_stays {b₀ : State} {s : State} {d : Nat} {q : Req} (hs : b₀.stays s) :
    b₀.stays (State.reissueOne s d q) := by
  unfold State.reissueOne
  with_reducible repeat' (first
    | assumption | apply stays_ite | apply stays_getD | apply updFab_stays | apply remoteWrite_stays | apply raise_stays | intro _
    | (simp only [stays_mk]; refine stays_core ?_) | split | dsimp only)

theorem execWrReissue_stays {b₀ : State} {d : Fin 2} {s : State} (hs : b₀.stays s) :
    b₀.outs (execWrReissue d s) := by
  unfold execWrReissue
  with_reducible repeat' (first
    | assumption | apply stays_foldl | apply stays_foldl1 | apply stays_foldl2 | apply reissueOne_stays | apply outs_next | intro _)

/-! ## Links -/

theorem reqUnknown_stays {b₀ s : State} {d : Nat} {q : Req} (hs : b₀.stays s) :
    b₀.stays (State.reqUnknown s d q) := by
  unfold State.reqUnknown
  with_reducible repeat' (first
    | assumption | apply raise_stays | apply endReq_stays)

theorem updReq_stays {b₀ s : State} {d tag : Nat} {f : Req → Req} (hs : b₀.stays s) :
    b₀.stays (State.updReq s d tag f) := by
  unfold State.updReq
  with_reducible repeat' (first
    | assumption | apply stays_ite | apply updFab_stays)

theorem settleReq_stays {b₀ : State} {s : State} {d : Nat} {q : Req} (hs : b₀.stays s) :
    b₀.stays (State.settleReq s d q) := by
  unfold State.settleReq
  with_reducible repeat' (first
    | assumption | apply stays_ite | apply updReq_stays | apply updFab_stays | apply leave_stays | apply reqUnknown_stays
    | apply endReq_stays | intro _ | (simp only [stays_mk]; refine stays_core ?_) | split | dsimp only)

theorem frgLost_stays {b₀ : State} {s : State} {d : Nat} {m : Msg} (hs : b₀.stays s) :
    b₀.stays (State.frgLost s d m) := by
  unfold State.frgLost
  with_reducible repeat' (first
    | assumption | apply stays_ite | apply stays_getD | apply outLost_stays | intro _)

theorem dropHeld_stays {b₀ s : State} {d : Nat} {m : Msg} (hs : b₀.stays s) :
    b₀.stays (State.dropHeld s d m) := by
  unfold State.dropHeld
  with_reducible repeat' (first
    | assumption | refine stays_of_fst (by assumption) ?_ | apply stays_ite | apply stays_ite1 | apply count32_stays | apply endReq_stays
    | apply send_stays | apply frgLost_stays | intro _ | (simp only [stays_mk]; refine stays_core ?_) | split | dsimp only)

theorem settleHeld_stays {b₀ : State} {s : State} {d : Nat} {inHold : Bool} {m : Msg} (hs : b₀.stays s) :
    b₀.stays (State.settleHeld s d inHold m).1 := by
  unfold State.settleHeld
  with_reducible repeat' (first
    | assumption | refine stays_of_fst (by assumption) ?_ | apply stays_ite | apply stays_ite1 | apply updReq_stays
    | apply leave_stays | apply dropHeld_stays | apply dropForwarded_stays | intro _ | (simp only [stays_mk]; refine stays_core ?_)
    | split | dsimp only)

theorem settleStep_stays {b₀ : State} {s : State} {d rt i : Nat} {c : Coll} {x : CollSend} {q : List Msg} (hs : b₀.stays s) :
    b₀.stays (State.settleStep s d rt i c x q) := by
  unfold State.settleStep
  with_reducible repeat' (first
    | assumption | apply stays_ite | apply stays_foldl | apply stays_foldl1 | apply stays_foldl2 | apply updColl_stays
    | apply resendSegs_stays | apply collFault_stays | intro _ | (simp only [stays_mk]; refine stays_core ?_) | split | dsimp only)

theorem settleColls_stays {b₀ : State} {s : State} {d code : Nat} {q : List Msg} (hs : b₀.stays s) :
    b₀.stays (State.settleColls s d code q) := by
  unfold State.settleColls
  with_reducible repeat' (first
    | assumption | apply stays_ite | apply stays_foldl | apply stays_foldl1 | apply stays_foldl2 | apply acked_stays
    | apply settleStep_stays | intro _)

theorem resack_stays {b₀ s : State} {d : Nat} {m : Msg} (hs : b₀.stays s) :
    b₀.stays (State.resack s d m) := by
  unfold State.resack
  with_reducible repeat' (first
    | assumption | refine stays_of_fst (by assumption) ?_ | apply stays_ite | apply stays_ite1 | apply stays_getD
    | apply State_mark_stays | apply send_stays)

theorem settle_stays {b₀ : State} {s : State} {d code n : Nat} {q sent : List Msg} (hs : b₀.stays s) :
    b₀.stays (State.settle s d code n q sent) := by
  unfold State.settle
  with_reducible repeat' (first
    | assumption | apply stays_ite | apply stays_ite1 | apply stays_foldl | apply stays_foldl1 | apply stays_foldl2
    | apply settleHeld_stays | apply settleColls_stays | apply raise_stays | apply settleReq_stays | apply resack_stays
    | apply send_stays | apply frgLost_stays | intro _)

theorem linkDown_stays {b₀ : State} {s : State} {d i : Nat} (hs : b₀.stays s) :
    b₀.stays (State.linkDown s d i) := by
  unfold State.linkDown
  with_reducible repeat' (first
    | assumption | apply setLink_stays | apply setFld_stays | apply updLk_stays | apply timeHbLost_stays | apply settle_stays
    | intro _)

theorem recordLoss_stays {b₀ s : State} {d cause n : Nat} (hs : b₀.stays s) :
    b₀.stays (State.recordLoss s d cause n) := by
  unfold State.recordLoss
  with_reducible repeat' (first
    | assumption | apply recordFirst_stays)

theorem linkLost_stays {b₀ s : State} {d i cause : Nat} (hs : b₀.stays s) :
    b₀.stays (State.linkLost s d i cause) := by
  unfold State.linkLost
  with_reducible repeat' (first
    | assumption | apply recordLoss_stays | apply raise_stays | apply warn_stays | apply State_tell_stays | apply linkDown_stays)

theorem bridgeLoss_stays {b₀ s : State} {d : Nat} (hs : b₀.stays s) :
    b₀.stays (State.bridgeLoss s d) := by
  unfold State.bridgeLoss
  with_reducible repeat' (first
    | assumption | apply recordLoss_stays | apply settle_stays | intro _ | (simp only [stays_mk]; refine stays_core ?_))

theorem linkTrain_stays {b₀ s : State} {d i : Nat} (hs : b₀.stays s) :
    b₀.stays (State.linkTrain s d i) := by
  unfold State.linkTrain
  with_reducible repeat' (first
    | assumption | apply updLk_stays | apply setLink_stays)

theorem trainFails_stays {b₀ : State} {s : State} {d i : Nat} (hs : b₀.stays s) :
    b₀.stays (State.trainFails s d i) := by
  unfold State.trainFails
  with_reducible repeat' (first
    | assumption | apply setLink_stays | apply setFld_stays | apply updLk_stays | apply settle_stays | intro _)

theorem enterPeer_stays {b₀ : State} {s : State} {d i : Nat} (hs : b₀.stays s) :
    b₀.stays (State.enterPeer s d i) := by
  unfold State.enterPeer
  with_reducible repeat' (first
    | assumption | apply updLk_stays | apply emit_stays | intro _ | (simp only [stays_mk]; refine stays_core ?_))

theorem linkUp_stays {b₀ : State} {s : State} {d i : Nat} (hs : b₀.stays s) :
    b₀.stays (State.linkUp s d i) := by
  unfold State.linkUp
  with_reducible repeat' (first
    | assumption | apply stays_ite | apply stays_foldl | apply stays_foldl1 | apply stays_foldl2 | apply setLink_stays
    | apply updLk_stays | apply resume_stays | apply raise_stays | apply stage_stays | apply flitOut_stays
    | apply measureDelay_stays | apply pump_stays | intro _ | (simp only [stays_mk]; refine stays_core ?_))

theorem execLinkRetryTimer_stays {b₀ : State} {d : Fin 2} {i : Fin 18} {s : State} (hs : b₀.stays s) :
    b₀.outs (execLinkRetryTimer d i s) := by
  unfold execLinkRetryTimer
  with_reducible repeat' (first
    | assumption | apply stays_ite | apply linkTrain_stays | apply outs_next | apply outs_ite | intro _)

theorem execLinkCalDone_stays {b₀ : State} {d : Fin 2} {i : Fin 18} {s : State} (hs : b₀.stays s) :
    b₀.outs (execLinkCalDone d i s) := by
  unfold execLinkCalDone
  with_reducible repeat' (first
    | assumption | apply stays_ite | apply linkUp_stays | apply setLink_stays | apply outs_next | apply outs_ite | intro _)

theorem execLinkCalTimeout_stays {b₀ : State} {d : Fin 2} {i : Fin 18} {s : State} (hs : b₀.stays s) :
    b₀.outs (execLinkCalTimeout d i s) := by
  unfold execLinkCalTimeout
  with_reducible repeat' (first
    | assumption | apply stays_ite | apply linkLost_stays | apply trainFails_stays | apply outs_next | apply outs_ite | intro _)

theorem execLinkEqDone_stays {b₀ : State} {d : Fin 2} {i : Fin 18} {s : State} (hs : b₀.stays s) :
    b₀.outs (execLinkEqDone d i s) := by
  unfold execLinkEqDone
  with_reducible repeat' (first
    | assumption | apply stays_ite | apply setLink_stays | apply setFld_stays | apply outs_next | apply outs_ite | intro _)

theorem execLinkEqTimeout_stays {b₀ : State} {d : Fin 2} {i : Fin 18} {s : State} (hs : b₀.stays s) :
    b₀.outs (execLinkEqTimeout d i s) := by
  unfold execLinkEqTimeout
  with_reducible repeat' (first
    | assumption | apply stays_ite | apply trainFails_stays | apply outs_next | apply outs_ite | intro _)

theorem execLinkAlignDone_stays {b₀ : State} {d : Fin 2} {i : Fin 18} {s : State} (hs : b₀.stays s) :
    b₀.outs (execLinkAlignDone d i s) := by
  unfold execLinkAlignDone
  with_reducible repeat' (first
    | assumption | apply stays_ite | apply enterPeer_stays | apply setLink_stays | apply outs_next | apply outs_fault
    | apply outs_ite | intro _)

theorem execLinkAlignTimeout_stays {b₀ : State} {d : Fin 2} {i : Fin 18} {s : State} (hs : b₀.stays s) :
    b₀.outs (execLinkAlignTimeout d i s) := by
  unfold execLinkAlignTimeout
  with_reducible repeat' (first
    | assumption | apply stays_ite | apply trainFails_stays | apply outs_next | apply outs_ite | intro _)

theorem execPeerExchange_stays {b₀ : State} {d : Fin 2} {i : Fin 18} {node : Fin 32768} {link : Fin 32} {s : State} (hs : b₀.stays s) :
    b₀.outs (execPeerExchange d i node link s) := by
  unfold execPeerExchange
  with_reducible repeat' (first
    | assumption | apply stays_ite | apply setFld_stays | apply setLink_stays | apply raise_stays | apply linkUp_stays
    | apply outs_next | apply outs_fault | apply outs_ite | intro _)

theorem enterRetrain_stays {b₀ : State} {s : State} {d i : Nat} (hs : b₀.stays s) :
    b₀.stays (State.enterRetrain s d i) := by
  unfold State.enterRetrain
  with_reducible repeat' (first
    | assumption | apply setLink_stays | apply updLk_stays | apply tally_stays | intro _
    | (simp only [stays_mk]; refine stays_core ?_))

theorem execLinkReceiveSilence_stays {b₀ : State} {d : Fin 2} {i : Fin 18} {s : State} (hs : b₀.stays s) :
    b₀.outs (execLinkReceiveSilence d i s) := by
  unfold execLinkReceiveSilence
  with_reducible repeat' (first
    | assumption | apply stays_ite | apply enterRetrain_stays | apply outs_next | apply outs_ite | intro _)

theorem execTxPllLockLoss_stays {b₀ : State} {d : Fin 2} {i : Fin 18} {s : State} (hs : b₀.stays s) :
    b₀.outs (execTxPllLockLoss d i s) := by
  unfold execTxPllLockLoss
  with_reducible repeat' (first
    | assumption | apply stays_ite | apply setLink_stays | apply updLk_stays | apply tally_stays | apply outs_next
    | apply outs_fault | apply outs_ite | intro _ | (simp only [stays_mk]; refine stays_core ?_))

theorem execRetrainDone_stays {b₀ : State} {d : Fin 2} {i : Fin 18} {s : State} (hs : b₀.stays s) :
    b₀.outs (execRetrainDone d i s) := by
  unfold execRetrainDone
  with_reducible repeat' (first
    | assumption | apply stays_ite | apply linkUp_stays | apply enterPeer_stays | apply outs_next | apply outs_fault
    | apply outs_ite | intro _)

theorem execRetrainTimeout_stays {b₀ : State} {d : Fin 2} {i : Fin 18} {s : State} (hs : b₀.stays s) :
    b₀.outs (execRetrainTimeout d i s) := by
  unfold execRetrainTimeout
  with_reducible repeat' (first
    | assumption | apply stays_ite | apply linkLost_stays | apply outs_next | apply outs_fault | apply outs_ite | intro _)

theorem onLnkCtl_stays {b₀ : State} {s : State} {d old : Nat} (hs : b₀.stays s) :
    b₀.stays (State.onLnkCtl s d old) := by
  unfold State.onLnkCtl
  with_reducible repeat' (first
    | assumption | apply stays_ite | apply stays_foldl | apply stays_foldl1 | apply stays_foldl2 | apply recordLoss_stays
    | apply linkDown_stays | apply trainFails_stays | apply linkTrain_stays | intro _)

theorem linkClock_stays {b₀ s : State} {d : Nat} (hs : b₀.stays s) :
    b₀.stays (State.linkClock s d) := by
  unfold State.linkClock
  with_reducible repeat' (first
    | assumption | apply stays_ite | apply stays_foldl | apply stays_foldl1 | apply stays_foldl2 | apply tally_stays | intro _)

theorem serveRd_stays {b₀ s : State} {d : Nat} {m : Msg} (hs : b₀.stays s) :
    b₀.stays (State.serveRd s d m) := by
  unfold State.serveRd
  with_reducible repeat' (first
    | assumption | apply stays_ite | apply stays_ite1 | apply send_stays | apply read_stays | intro _)

theorem serveWr_stays {b₀ s : State} {d : Nat} {m : Msg} (hs : b₀.stays s) :
    b₀.stays (State.serveWr s d m) := by
  unfold State.serveWr
  with_reducible repeat' (first
    | assumption | apply stays_ite | apply stays_ite1 | apply send_stays | apply writeRaw_stays | apply twinBuffer_stays
    | apply recBuffer_stays | intro _)

theorem execRd_stays {b₀ : State} {d : Fin 2} {via : Nat} {m : Msg} {s : State} (hs : b₀.stays s) :
    b₀.outs (execRd d via m s) := by
  unfold execRd
  with_reducible repeat' (first
    | assumption | refine stays_of_some (by assumption) ?_ | apply arrives_stays | apply serveRd_stays | apply outs_next | intro _
    | (simp only [stays_mk]; refine stays_core ?_) | split)

theorem execWr_stays {b₀ : State} {d : Fin 2} {via : Nat} {m : Msg} {s : State} (hs : b₀.stays s) :
    b₀.outs (execWr d via m s) := by
  unfold execWr
  with_reducible repeat' (first
    | assumption | refine stays_of_some (by assumption) ?_ | apply arrives_stays | apply serveWr_stays | apply outs_next | intro _
    | (simp only [stays_mk]; refine stays_core ?_) | split)

theorem serveRsp_stays {b₀ s : State} {d : Nat} {m : Msg} (hs : b₀.stays s) :
    b₀.stays (State.serveRsp s d m) := by
  unfold State.serveRsp
  with_reducible repeat' (first
    | assumption | apply endReq_stays | apply joinAcks_stays | apply tableStep_stays | intro _
    | (simp only [stays_mk]; refine stays_core ?_) | split)

theorem execRsp_stays {b₀ : State} {d : Fin 2} {via : Nat} {m : Msg} {s : State} (hs : b₀.stays s) :
    b₀.outs (execRsp d via m s) := by
  unfold execRsp
  with_reducible repeat' (first
    | assumption | refine stays_of_some (by assumption) ?_ | apply arrives_stays | apply serveRsp_stays | apply outs_next | intro _
    | (simp only [stays_mk]; refine stays_core ?_) | split)

theorem execSeg_stays {b₀ : State} {d : Fin 2} {via : Nat} {m : Msg} {s : State} (hs : b₀.stays s) :
    b₀.outs (execSeg d via m s) := by
  unfold execSeg
  with_reducible repeat' (first
    | assumption | refine stays_of_some (by assumption) ?_ | apply stays_ite | apply arrives_stays | apply parked_stays
    | apply segArrive_stays | apply outs_next | apply outs_fault | apply outs_ite | intro _ | split | dsimp only)

theorem execSack_stays {b₀ : State} {d : Fin 2} {via : Nat} {m : Msg} {s : State} (hs : b₀.stays s) :
    b₀.outs (execSack d via m s) := by
  unfold execSack
  with_reducible repeat' (first
    | assumption | refine stays_of_some (by assumption) ?_ | apply arrives_stays | apply sackArrive_stays | apply outs_next | intro _
    | (simp only [stays_mk]; refine stays_core ?_) | split)

/-! ## WanPort -/

theorem sendHeld_stays {b₀ s : State} {d : Nat} (hs : b₀.stays s) :
    b₀.stays (State.sendHeld s d) := by
  unfold State.sendHeld
  with_reducible repeat' (first
    | assumption | apply stays_ite | apply stays_foldl | apply stays_foldl1 | apply stays_foldl2 | apply updWan_stays
    | apply sendCopy_stays | apply ctlPump_stays | intro _)

theorem shedHeld_stays {b₀ s : State} {d : Nat} (hs : b₀.stays s) :
    b₀.stays (State.shedHeld s d) := by
  unfold State.shedHeld
  with_reducible repeat' (first
    | assumption | apply updWan_stays | apply rerouteAll_stays | apply ctlPump_stays)

theorem openFelvar_stays {b₀ s : State} {d : Nat} (hs : b₀.stays s) :
    b₀.stays (State.openFelvar s d) := by
  unfold State.openFelvar
  with_reducible repeat' (first
    | assumption | apply stays_ite | apply setFld_stays | apply sendHeld_stays | intro _)

theorem portUp_stays {b₀ s : State} {d : Nat} (hs : b₀.stays s) :
    b₀.stays (State.portUp s d) := by
  unfold State.portUp
  with_reducible repeat' (first
    | assumption | apply setFld_stays | apply updWan_stays | apply raise_stays | apply sendHeld_stays)

theorem portLost_stays {b₀ s : State} {d cause : Nat} (hs : b₀.stays s) :
    b₀.stays (State.portLost s d cause) := by
  unfold State.portLost
  with_reducible repeat' (first
    | assumption | apply stays_ite | apply recordFirst_stays | apply raise_stays | apply setFld_stays | apply updWan_stays
    | apply ptpPortDown_stays | apply shedHeld_stays | intro _)

theorem portStart_stays {b₀ s : State} {d : Nat} (hs : b₀.stays s) :
    b₀.stays (State.portStart s d) := by
  unfold State.portStart
  with_reducible repeat' (first
    | assumption | apply stays_ite | apply setFld_stays | apply updWan_stays | intro _)

theorem execWanRetryTimer_stays {b₀ : State} {d : Fin 2} {s : State} (hs : b₀.stays s) :
    b₀.outs (execWanRetryTimer d s) := by
  unfold execWanRetryTimer
  with_reducible repeat' (first
    | assumption | apply stays_ite | apply portStart_stays | apply outs_next | apply outs_ite | intro _)

theorem execWanCalDone_stays {b₀ : State} {d : Fin 2} {s : State} (hs : b₀.stays s) :
    b₀.outs (execWanCalDone d s) := by
  unfold execWanCalDone
  with_reducible repeat' (first
    | assumption | apply stays_ite | apply portUp_stays | apply setFld_stays | apply outs_next | apply outs_ite | intro _)

theorem execWanCalTimeout_stays {b₀ : State} {d : Fin 2} {s : State} (hs : b₀.stays s) :
    b₀.outs (execWanCalTimeout d s) := by
  unfold execWanCalTimeout
  with_reducible repeat' (first
    | assumption | apply stays_ite | apply portLost_stays | apply outs_next | apply outs_ite | intro _)

theorem execWanCalHoldTimeout_stays {b₀ : State} {d : Fin 2} {s : State} (hs : b₀.stays s) :
    b₀.outs (execWanCalHoldTimeout d s) := by
  unfold execWanCalHoldTimeout
  with_reducible repeat' (first
    | assumption | apply stays_ite | apply updWan_stays | apply shedHeld_stays | apply outs_next | apply outs_ite | intro _)

theorem execWanTrainDone_stays {b₀ : State} {d : Fin 2} {s : State} (hs : b₀.stays s) :
    b₀.outs (execWanTrainDone d s) := by
  unfold execWanTrainDone
  with_reducible repeat' (first
    | assumption | apply stays_ite | apply portUp_stays | apply outs_next | apply outs_ite | intro _)

theorem execWanTrainTimeout_stays {b₀ : State} {d : Fin 2} {s : State} (hs : b₀.stays s) :
    b₀.outs (execWanTrainTimeout d s) := by
  unfold execWanTrainTimeout
  with_reducible repeat' (first
    | assumption | apply stays_ite | apply portLost_stays | apply outs_next | apply outs_ite | intro _)

theorem execWanPcsLoss_stays {b₀ : State} {d : Fin 2} {s : State} (hs : b₀.stays s) :
    b₀.outs (execWanPcsLoss d s) := by
  unfold execWanPcsLoss
  with_reducible repeat' (first
    | assumption | apply stays_ite | apply portLost_stays | apply outs_next | apply outs_ite | intro _)

theorem execWanTxPllLoss_stays {b₀ : State} {d : Fin 2} {s : State} (hs : b₀.stays s) :
    b₀.outs (execWanTxPllLoss d s) := by
  unfold execWanTxPllLoss
  with_reducible repeat' (first
    | assumption | apply stays_ite | apply setFld_stays | apply updWan_stays | apply ptpPortDown_stays | apply outs_next | apply outs_ite
    | intro _)

theorem onWanCtl_stays {b₀ s : State} {d : Nat} (hs : b₀.stays s) :
    b₀.stays (State.onWanCtl s d) := by
  unfold State.onWanCtl
  with_reducible repeat' (first
    | assumption | apply stays_ite | apply portStart_stays | apply portLost_stays | intro _)

theorem onIp6Lo_stays {b₀ s : State} {d : Nat} (hs : b₀.stays s) :
    b₀.stays (State.onIp6Lo s d) := by
  unfold State.onIp6Lo
  with_reducible repeat' (first
    | assumption | apply updWan_stays)

theorem execPairSecretUnwrapDone_stays {b₀ : State} {d : Fin 2} {s : State} (hs : b₀.stays s) :
    b₀.outs (execPairSecretUnwrapDone d s) := by
  unfold execPairSecretUnwrapDone
  with_reducible repeat' (first
    | assumption | apply stays_ite | apply updCip_stays | apply setFld_stays | apply placeSecret_stays | apply openFelvar_stays
    | apply raise_stays | apply outs_next | apply outs_ite | intro _ | (simp only [stays_mk]; refine stays_core ?_) | split | dsimp only)

theorem execKeyDerivationDone_stays {b₀ : State} {d : Fin 2} {n : Fin 64} {s : State} (hs : b₀.stays s) :
    b₀.outs (execKeyDerivationDone d n s) := by
  unfold execKeyDerivationDone
  with_reducible repeat' (first
    | assumption | apply keyDerived_stays | apply ctlPump_stays | apply outs_next)

theorem holdClock_stays {b₀ s : State} {d : Nat} (hs : b₀.stays s) :
    b₀.stays (State.holdClock s d) := by
  unfold State.holdClock
  with_reducible repeat' (first
    | assumption | apply stays_ite | apply tally_stays | intro _)

/-! ## Assay -/

theorem updAsy_stays {b₀ s : State} {f : AssayState → AssayState} (hs : b₀.stays s) :
    b₀.stays (State.updAsy s f) := by
  unfold State.updAsy
  with_reducible repeat' (first
    | assumption | (simp only [stays_mk]; refine stays_core ?_))

theorem updRun_stays {b₀ s : State} {f : AssayRun → AssayRun} (hs : b₀.stays s) :
    b₀.stays (State.updRun s f) := by
  unfold State.updRun
  with_reducible repeat' (first
    | assumption | apply updAsy_stays)

theorem execAssayReset_stays {b₀ s : State} (hs : b₀.stays s) :
    b₀.outs (execAssayReset s) := by
  unfold execAssayReset
  with_reducible repeat' (first
    | assumption | apply drew_stays | apply updAsy_stays | apply outs_next)

theorem execAssayPowerLoss_stays {b₀ : State} {torn : Bool} {s : State} (hs : b₀.stays s) :
    b₀.outs (execAssayPowerLoss torn s) := by
  unfold execAssayPowerLoss
  with_reducible repeat' (first
    | assumption | apply stays_ite | apply updAsy_stays | apply outs_next)

theorem execAssayTimeTimeout_stays {b₀ s : State} (hs : b₀.stays s) :
    b₀.outs (execAssayTimeTimeout s) := by
  unfold execAssayTimeTimeout
  with_reducible repeat' (first
    | assumption | apply stays_ite | apply updRun_stays | apply outs_next)

theorem execEnergySample_stays {b₀ : State} {rails : List Nat} {s : State} (hs : b₀.stays s) :
    b₀.outs (execEnergySample rails s) := by
  unfold execEnergySample
  with_reducible repeat' (first
    | assumption | apply updRun_stays | apply outs_next)

theorem execPowerExport_stays {b₀ : State} {range : Bool} {s : State} (hs : b₀.stays s) :
    b₀.outs (execPowerExport range s) := by
  unfold execPowerExport
  with_reducible repeat' (first
    | assumption | apply stays_ite | apply updRun_stays | apply outs_next | apply outs_ite | intro _
    | (simp only [stays_mk]; refine stays_core ?_) | split)

theorem execEngineTimeReportSend_stays {b₀ : State} {d : Fin 2} {s : State} (hs : b₀.stays s) :
    b₀.outs (execEngineTimeReportSend d s) := by
  unfold execEngineTimeReportSend
  with_reducible repeat' (first
    | assumption | apply stays_ite | apply stays_foldl | apply stays_foldl1 | apply stays_foldl2 | apply stays_getD | apply updCtx_stays
    | apply updAsy_stays | apply outs_next)

theorem execEngineTimeReport_stays {b₀ : State} {good : Bool} {s : State} (hs : b₀.stays s) :
    b₀.outs (execEngineTimeReport good s) := by
  unfold execEngineTimeReport
  with_reducible repeat' (first
    | assumption | apply updAsy_stays | apply updRun_stays | apply State_report_stays | apply outs_next | intro _
    | (simp only [stays_mk]; refine stays_core ?_) | split)

theorem issue_stays {b₀ s : State} {body : Nat → List Byte} (hs : b₀.stays s) :
    b₀.stays (State.issue s body) := by
  unfold State.issue
  with_reducible repeat' (first
    | assumption | apply drew_stays | apply updRun_stays | intro _ | (simp only [stays_mk]; refine stays_core ?_) | split)

theorem intervalEnd_stays {b₀ s : State} {short : Bool} (hs : b₀.stays s) :
    b₀.stays (State.intervalEnd s short) := by
  unfold State.intervalEnd
  with_reducible repeat' (first
    | assumption | apply stays_ite | apply stays_foldl | apply stays_foldl1 | apply stays_foldl2 | apply updRun_stays | apply issue_stays
    | intro _ | (simp only [stays_mk]; refine stays_core ?_) | split | dsimp only)

theorem execIntervalEnd_stays {b₀ s : State} (hs : b₀.stays s) :
    b₀.outs (execIntervalEnd s) := by
  unfold execIntervalEnd
  with_reducible repeat' (first
    | assumption | apply stays_ite | apply intervalEnd_stays | apply outs_next | apply outs_ite | intro _)

theorem execTimeMarkFrame_stays {b₀ : State} {good : Bool} {sub : Fin 1000} {s : State} (hs : b₀.stays s) :
    b₀.outs (execTimeMarkFrame good sub s) := by
  unfold execTimeMarkFrame
  with_reducible repeat' (first
    | assumption | apply stays_ite | apply updAsy_stays | apply updRun_stays | apply outs_next | apply outs_ite | intro _
    | (simp only [stays_mk]; refine stays_core ?_) | split)

theorem execOffsetInvalidTimeout_stays {b₀ s : State} (hs : b₀.stays s) :
    b₀.outs (execOffsetInvalidTimeout s) := by
  unfold execOffsetInvalidTimeout
  with_reducible repeat' (first
    | assumption | apply stays_ite | apply updRun_stays | apply State_tell_stays | apply outs_next)

theorem ledgerWrite_stays {b₀ s : State} {kind pid old new : Nat} (hs : b₀.stays s) :
    b₀.stays (State.ledgerWrite s kind pid old new) := by
  unfold State.ledgerWrite
  with_reducible repeat' (first
    | assumption | apply stays_ite | apply updAsy_stays | apply updRun_stays | apply State_tell_stays | intro _
    | (simp only [stays_mk]; refine stays_core ?_) | split)

theorem cmdDone_stays {b₀ s : State} {cause : Nat} (hs : b₀.stays s) :
    b₀.stays (State.cmdDone s cause) := by
  unfold State.cmdDone
  with_reducible repeat' (first
    | assumption | apply updRun_stays)

theorem cmdRefused_stays {b₀ s : State} {pid cause : Nat} (hs : b₀.stays s) :
    b₀.stays (State.cmdRefused s pid cause) := by
  unfold State.cmdRefused
  with_reducible repeat' (first
    | assumption | apply stays_ite | apply updRun_stays | apply State_tell_stays | apply cmdDone_stays | apply drew_stays | intro _)

theorem execSeal_stays {b₀ : State} {key : Nat} {s : State} (hs : b₀.stays s) :
    b₀.outs (execSeal key s) := by
  unfold execSeal
  with_reducible repeat' (first
    | assumption | apply stays_ite | apply cmdRefused_stays | apply updAsy_stays | apply ledgerWrite_stays | apply cmdDone_stays
    | apply outs_next | apply outs_ite | intro _ | (simp only [stays_mk]; refine stays_core ?_) | split)

theorem applyParam_stays {b₀ s : State} {pid v : Nat} (hs : b₀.stays s) :
    b₀.stays (State.applyParam s pid v) := by
  unfold State.applyParam
  with_reducible repeat' (first
    | assumption | apply stays_ite | apply intervalEnd_stays | apply updRun_stays | intro _)

theorem execSetparam_stays {b₀ : State} {pid : Fin 256} {value : Nat} {s : State} (hs : b₀.stays s) :
    b₀.outs (execSetparam pid value s) := by
  unfold execSetparam
  with_reducible repeat' (first
    | assumption | apply stays_ite | apply updRun_stays | apply cmdRefused_stays | apply ledgerWrite_stays | apply applyParam_stays
    | apply cmdDone_stays | apply outs_next | apply outs_ite | intro _ | (simp only [stays_mk]; refine stays_core ?_) | split
    | dsimp only)

theorem asydRead_stays {b₀ : State} {s : State} {off n : Nat} (hs : b₀.stays s) :
    b₀.opts2 (State.asydRead s off n) := by
  unfold State.asydRead
  with_reducible repeat' (first
    | assumption | refine stays_of_some2 (by assumption) ?_ | apply stays_ite | apply updRun_stays | apply opts2_some
    | apply opts2_none | apply opts2_ite | apply opts2_map | intro _ | (simp only [stays_mk]; refine stays_core ?_))

theorem asydWrite_stays {b₀ : State} {s : State} {off v : Nat} (hs : b₀.stays s) :
    b₀.stays (State.asydWrite s off v) := by
  unfold State.asydWrite
  with_reducible repeat' (first
    | assumption | apply updRun_stays | intro _ | (simp only [stays_mk]; refine stays_core ?_) | split | dsimp only)

theorem tamperEvent_stays {b₀ s : State} {kind code : Nat} (hs : b₀.stays s) :
    b₀.stays (State.tamperEvent s kind code) := by
  unfold State.tamperEvent
  with_reducible repeat' (first
    | assumption | apply stays_ite | apply updRun_stays | apply State_tell_stays | apply ledgerWrite_stays | intro _)

theorem execTamperCheck_stays {b₀ : State} {ok : Bool} {s : State} (hs : b₀.stays s) :
    b₀.outs (execTamperCheck ok s) := by
  unfold execTamperCheck
  with_reducible repeat' (first
    | assumption | apply stays_ite | apply updRun_stays | apply tamperEvent_stays | apply outs_next | apply outs_ite | intro _
    | (simp only [stays_mk]; refine stays_core ?_) | split)

theorem execMirrorFrame_stays {b₀ s : State} (hs : b₀.stays s) :
    b₀.outs (execMirrorFrame s) := by
  unfold execMirrorFrame
  with_reducible repeat' (first
    | assumption | apply stays_ite | apply updRun_stays | apply updAsy_stays | apply outs_next | apply outs_ite | intro _
    | (simp only [stays_mk]; refine stays_core ?_) | split)

theorem hallDrop_stays {b₀ s : State} {seq : Nat} (hs : b₀.stays s) :
    b₀.stays (State.hallDrop s seq) := by
  unfold State.hallDrop
  with_reducible repeat' (first
    | assumption | apply stays_ite | apply count32_stays | apply updAsy_stays | apply raise_stays | intro _)

theorem hallArrives_stays {b₀ s : State} {h : Nat × List Byte} (hs : b₀.stays s) :
    b₀.stays (State.hallArrives s h) := by
  unfold State.hallArrives
  with_reducible repeat' (first
    | assumption | apply stays_ite | apply hallDrop_stays | apply writeRaw_stays | apply setFld_stays | apply setReg_stays
    | apply tally_stays | intro _)

theorem setBytesAt_stays {b₀ s : State} {r : Reg} {first : Nat} {b : List Byte} (hs : b₀.stays s) :
    b₀.stays (State.setBytesAt s r first b) := by
  unfold State.setBytesAt
  with_reducible repeat' (first
    | assumption | apply stays_foldl | apply stays_foldl1 | apply stays_foldl2 | apply setReg_stays | intro _)

theorem frameFields_stays {b₀ s : State} {f : MirrorFrame} (hs : b₀.stays s) :
    b₀.stays (State.frameFields s f) := by
  unfold State.frameFields
  with_reducible repeat' (first
    | assumption | apply setReg_stays | apply setBytesAt_stays | intro _ | (simp only [stays_mk]; refine stays_core ?_) | split)

theorem execMirrorFrameReceive_stays {b₀ : State} {good : Bool} {s : State} (hs : b₀.stays s) :
    b₀.outs (execMirrorFrameReceive good s) := by
  unfold execMirrorFrameReceive
  with_reducible repeat' (first
    | assumption | apply stays_ite | apply stays_foldl | apply stays_foldl1 | apply stays_foldl2 | apply updAsy_stays
    | apply count32_stays | apply hallDrop_stays | apply tally_stays | apply frameFields_stays | apply raise_stays
    | apply hallArrives_stays | apply outs_next | apply outs_ite | intro _ | (simp only [stays_mk]; refine stays_core ?_) | split)

theorem execMirrorLost_stays {b₀ s : State} (hs : b₀.stays s) :
    b₀.outs (execMirrorLost s) := by
  unfold execMirrorLost
  with_reducible repeat' (first
    | assumption | apply stays_ite | apply setFld_stays | apply raise_stays | apply outs_next | apply outs_ite | intro _)

/-! ## Arrive -/

theorem acked_stays {b₀ s : State} {d i n : Nat} (hs : b₀.stays s) :
    b₀.stays (State.acked s d i n) := by
  unfold State.acked
  with_reducible repeat' (first
    | assumption | apply stays_ite | apply updLk_stays)

theorem replayFrom_stays {b₀ s : State} {d i : Nat} (hs : b₀.stays s) :
    b₀.stays (State.replayFrom s d i) := by
  unfold State.replayFrom
  with_reducible repeat' (first
    | assumption | apply stays_ite | apply stays_foldl | apply stays_foldl1 | apply stays_foldl2 | apply enterRetrain_stays
    | apply updLk_stays | apply flitOut_stays | apply tally_stays | apply warnReplay_stays | intro _
    | (simp only [stays_mk]; refine stays_core ?_) | split | dsimp only)

theorem flitHead_stays {b₀ s : State} {d i hdr : Nat} (hs : b₀.stays s) :
    b₀.stays (State.flitHead s d i hdr) := by
  unfold State.flitHead
  with_reducible repeat' (first
    | assumption | apply stays_ite | apply acked_stays | apply updLk_stays | apply replayFrom_stays | apply pump_stays | intro _)

theorem msgIn_stays {b₀ : State} {s : State} {d i : Nat} {m : Msg} (hs : b₀.stays s) :
    b₀.stays (State.msgIn s d i m) := by
  unfold State.msgIn
  with_reducible repeat' (first
    | assumption | apply stays_ite | apply updLk_stays | apply beatArrives_stays | apply count32_stays | apply raise_stays
    | apply forward_stays | apply landed_stays | intro _ | (simp only [stays_mk]; refine stays_core ?_))

theorem flitAccepted_stays {b₀ : State} {s : State} {d i hdr : Nat} {p : List Nat} (hs : b₀.stays s) :
    b₀.stays (State.flitAccepted s d i hdr p) := by
  unfold State.flitAccepted
  with_reducible repeat' (first
    | assumption | apply stays_ite | apply stays_foldl | apply stays_foldl1 | apply stays_foldl2 | apply updLk_stays
    | apply tally_stays | apply flitHead_stays | apply msgIn_stays | apply flitOut_stays | intro _
    | (simp only [stays_mk]; refine stays_core ?_))

theorem flitRefused_stays {b₀ : State} {s : State} {d i seq : Nat} (hs : b₀.stays s) :
    b₀.stays (State.flitRefused s d i seq) := by
  unfold State.flitRefused
  with_reducible repeat' (first
    | assumption | apply stays_ite | apply updLk_stays | apply flitOut_stays | intro _
    | (simp only [stays_mk]; refine stays_core ?_))

theorem execFlitReceive_stays {b₀ : State} {d : Fin 2} {i : Fin 18} {hdr : Nat} {slots : List Nat} {s : State} (hs : b₀.stays s) :
    b₀.outs (execFlitReceive d i hdr slots s) := by
  unfold execFlitReceive
  with_reducible repeat' (first
    | assumption | apply stays_ite | apply tally_stays | apply flitHead_stays | apply flitRefused_stays | apply flitAccepted_stays
    | apply outs_next | apply outs_fault | apply outs_ite | intro _)

theorem transitClock_stays {b₀ s : State} (hs : b₀.stays s) :
    b₀.stays (State.transitClock s) := by
  unfold State.transitClock
  with_reducible repeat' (first
    | assumption | apply stays_ite | apply stays_foldl | apply stays_foldl1 | apply stays_foldl2 | apply forward_stays | intro _
    | (simp only [stays_mk]; refine stays_core ?_))

theorem setBoth_stays {b₀ s : State} {f : Fld} {v : Nat} (hs : b₀.stays s) :
    b₀.stays (State.setBoth s f v) := by
  unfold State.setBoth
  with_reducible repeat' (first
    | assumption | apply setFld_stays)

theorem trainEnds_stays {b₀ s : State} (hs : b₀.stays s) :
    b₀.stays (State.trainEnds s) := by
  unfold State.trainEnds
  with_reducible repeat' (first
    | assumption | apply setBoth_stays | apply updBridge_stays)

theorem bridgeFalls_stays {b₀ : State} {s : State} (hs : b₀.stays s) :
    b₀.stays (State.bridgeFalls s) := by
  unfold State.bridgeFalls
  with_reducible repeat' (first
    | assumption | apply stays_ite | apply trainEnds_stays | apply setBoth_stays | apply raise_stays | apply cohBridgeDown_stays
    | apply twinBridgeDown_stays | apply bridgeLoss_stays | apply actionFails_stays | apply memResume_stays | intro _)

theorem bridgeTrained_stays {b₀ : State} {s : State} (hs : b₀.stays s) :
    b₀.stays (State.bridgeTrained s) := by
  unfold State.bridgeTrained
  with_reducible repeat' (first
    | assumption | apply State_report_stays | apply raise_stays | apply warn_stays | apply trainEnds_stays | apply setBoth_stays
    | apply memResume_stays | intro _ | split | dsimp only)

/-! ## Power -/

theorem updPwr_stays {b₀ s : State} {f : PowerState → PowerState} (hs : b₀.stays s) :
    b₀.stays (State.updPwr s f) := by
  unfold State.updPwr
  with_reducible repeat' (first
    | assumption | (simp only [stays_mk]; refine stays_core ?_))

theorem pwrRaise_stays {b₀ s : State} {code detail : Nat} (hs : b₀.stays s) :
    b₀.stays (State.pwrRaise s code detail) := by
  unfold State.pwrRaise
  with_reducible repeat' (first
    | assumption | apply recordFirst_stays | apply raise_stays)

theorem showTheta_stays {b₀ s : State} (hs : b₀.stays s) :
    b₀.stays (State.showTheta s) := by
  unfold State.showTheta
  with_reducible repeat' (first
    | assumption | apply stays_foldl | apply stays_foldl1 | apply stays_foldl2 | apply setFld_stays | intro _)

theorem execBrakeAssert_stays {b₀ s : State} (hs : b₀.stays s) :
    b₀.outs (execBrakeAssert s) := by
  unfold execBrakeAssert
  with_reducible repeat' (first
    | assumption | apply setFld_stays | apply updPwr_stays | apply showTheta_stays | apply outs_next)

theorem execBrakeRelease_stays {b₀ s : State} (hs : b₀.stays s) :
    b₀.outs (execBrakeRelease s) := by
  unfold execBrakeRelease
  with_reducible repeat' (first
    | assumption | apply setFld_stays | apply showTheta_stays | apply outs_next)

theorem takeSource_stays {b₀ s : State} {est : Nat} (hs : b₀.stays s) :
    b₀.stays (State.takeSource s est).1 := by
  unfold State.takeSource
  with_reducible repeat' (first
    | assumption | refine stays_of_fst (by assumption) ?_ | apply stays_ite | apply stays_ite1 | apply updPwr_stays
    | apply pwrRaise_stays | apply setFld_stays | apply tally_stays | intro _ | (simp only [stays_mk]; refine stays_core ?_) | split)

theorem execPowerSample_stays {b₀ : State} {est : Nat} {s : State} (hs : b₀.stays s) :
    b₀.outs (execPowerSample est s) := by
  unfold execPowerSample
  with_reducible repeat' (first
    | assumption | apply stays_ite | apply stays_ite1 | apply takeSource_stays | apply setFld_stays | apply updPwr_stays
    | apply pwrRaise_stays | apply tally_stays | apply showTheta_stays | apply outs_next | apply outs_ite | intro _)

theorem fillClock_stays {b₀ s : State} (hs : b₀.stays s) :
    b₀.stays (State.fillClock s) := by
  unfold State.fillClock
  with_reducible repeat' (first
    | assumption | apply stays_ite | apply tally_stays | intro _)

theorem setRail_stays {b₀ s : State} {d mv : Nat} (hs : b₀.stays s) :
    b₀.stays (State.setRail s d mv) := by
  unfold State.setRail
  with_reducible repeat' (first
    | assumption | apply stays_ite | apply setFld_stays | apply emit_stays | apply updPwr_stays | intro _)

theorem dvfsStart_stays {b₀ s : State} {r req : Nat} (hs : b₀.stays s) :
    b₀.stays (State.dvfsStart s r req) := by
  unfold State.dvfsStart
  with_reducible repeat' (first
    | assumption | apply stays_ite | apply stays_getD | apply setRail_stays | apply setFld_stays | apply updPwr_stays | intro _)

theorem onRclk_stays {b₀ s : State} {r : Nat} (hs : b₀.stays s) :
    b₀.stays (State.onRclk s r) := by
  unfold State.onRclk
  with_reducible repeat' (first
    | assumption | apply stays_ite | apply updPwr_stays | apply dvfsStart_stays | intro _)

theorem runStep_stays {b₀ s : State} {r n : Nat} (hs : b₀.stays s) :
    b₀.stays (State.runStep s r n) := by
  unfold State.runStep
  with_reducible repeat' (first
    | assumption | apply setFld_stays | apply setRail_stays)

theorem execDvfsDone_stays {b₀ : State} {r : Fin 16} {s : State} (hs : b₀.stays s) :
    b₀.outs (execDvfsDone r s) := by
  unfold execDvfsDone
  with_reducible repeat' (first
    | assumption | apply updPwr_stays | apply setFld_stays | apply runStep_stays | apply tally_stays | apply dvfsStart_stays
    | apply outs_next | intro _ | (simp only [stays_mk]; refine stays_core ?_) | split)

theorem moveCeil_stays {b₀ s : State} {f : Nat → Nat → Nat} (hs : b₀.stays s) :
    b₀.stays (State.moveCeil s f) := by
  unfold State.moveCeil
  with_reducible repeat' (first
    | assumption | apply stays_ite | apply stays_foldl | apply stays_foldl1 | apply stays_foldl2 | apply stays_getD | apply updPwr_stays
    | apply setRail_stays | apply runStep_stays | intro _)

theorem execCapSlowStep_stays {b₀ s : State} (hs : b₀.stays s) :
    b₀.outs (execCapSlowStep s) := by
  unfold execCapSlowStep
  with_reducible repeat' (first
    | assumption | apply stays_ite | apply updPwr_stays | apply moveCeil_stays | apply outs_next | apply outs_ite | intro _)

theorem onPwrCtl_stays {b₀ s : State} (hs : b₀.stays s) :
    b₀.stays (State.onPwrCtl s) := by
  unfold State.onPwrCtl
  with_reducible repeat' (first
    | assumption | apply stays_foldl | apply stays_foldl1 | apply stays_foldl2 | apply setRail_stays | intro _)

theorem execPmbusStatusPoll_stays {b₀ : State} {st0 st1 : Fin 65536} {s : State} (hs : b₀.stays s) :
    b₀.outs (execPmbusStatusPoll st0 st1 s) := by
  unfold execPmbusStatusPoll
  with_reducible repeat' (first
    | assumption | apply stays_ite | apply stays_getD | apply pwrRaise_stays | apply updPwr_stays | apply outs_next | apply outs_fault
    | apply outs_ite | intro _)

theorem execPmbusWriteRetry_stays {b₀ : State} {d : Fin 2} {ack : Bool} {s : State} (hs : b₀.stays s) :
    b₀.outs (execPmbusWriteRetry d ack s) := by
  unfold execPmbusWriteRetry
  with_reducible repeat' (first
    | assumption | apply stays_ite | apply stays_foldl | apply stays_foldl1 | apply stays_foldl2 | apply emit_stays | apply updPwr_stays
    | apply setFld_stays | apply pwrRaise_stays | apply outs_next | apply outs_ite | intro _
    | (simp only [stays_mk]; refine stays_core ?_) | split)

theorem warnThermal_stays {b₀ s : State} {d : Nat} {old new : List Int} (hs : b₀.stays s) :
    b₀.stays (State.warnThermal s d old new) := by
  unfold State.warnThermal
  with_reducible repeat' (first
    | assumption | apply stays_ite | apply warn_stays | intro _)

theorem execThermalStep_stays {b₀ : State} {temps : List Int} {s : State} (hs : b₀.stays s) :
    b₀.outs (execThermalStep temps s) := by
  unfold execThermalStep
  with_reducible repeat' (first
    | assumption | apply stays_ite | apply stays_getD | apply updPwr_stays | apply tally_stays | apply pwrRaise_stays
    | apply warnThermal_stays | apply showTheta_stays | apply outs_next | apply outs_ite | intro _
    | (simp only [stays_mk]; refine stays_core ?_) | split)

theorem cutPorts_stays {b₀ s : State} {d : Nat} (hs : b₀.stays s) :
    b₀.stays (State.cutPorts s d) := by
  unfold State.cutPorts
  with_reducible repeat' (first
    | assumption | apply stays_foldl | apply stays_foldl1 | apply stays_foldl2 | apply setLink_stays | apply updLk_stays
    | apply setFld_stays | intro _)

theorem execThermalTrip_stays {b₀ : State} {sensor deg : Fin 256} {s : State} (hs : b₀.stays s) :
    b₀.outs (execThermalTrip sensor deg s) := by
  unfold execThermalTrip
  with_reducible repeat' (first
    | assumption | apply stays_ite | apply setFld_stays | apply emit_stays | apply pwrRaise_stays | apply cutPorts_stays
    | apply setBoth_stays | apply outs_next | apply outs_fault | apply outs_ite | intro _)

theorem execCoolantRead_stays {b₀ : State} {t : Int} {pulses : Nat} {s : State} (hs : b₀.stays s) :
    b₀.outs (execCoolantRead t pulses s) := by
  unfold execCoolantRead
  with_reducible repeat' (first
    | assumption | apply stays_ite | apply setReg_stays | apply updPwr_stays | apply setFld_stays | apply pwrRaise_stays
    | apply outs_next | apply outs_ite | intro _)

end Sys2Proof.Machine
end

