-- ==== Sys2Proof/Laws/StaysHost.lean ====
section
/-! SUPPORT. Every operation of the host port, the loader, register accesses and management keeps the queue and the soundness of the state: one lemma for each. -/

namespace Sys2Proof.Machine

set_option linter.unusedTactic false
set_option linter.unusedSimpArgs false
set_option linter.unreachableTactic false

/-! ## HostPort -/

theorem hostPut_stays {b₀ s : State} {addr : Nat} {data : List Byte} (hs : b₀.stays s) :
    b₀.stays (State.hostPut s addr data) := by
  unfold State.hostPut
  with_reducible repeat' (first
    | assumption | apply emit_stays | apply tally_stays)

theorem msixSend_stays {b₀ s : State} {v : Nat} (hs : b₀.stays s) :
    b₀.stays (State.msixSend s v) := by
  unfold State.msixSend
  with_reducible repeat' (first
    | assumption | apply stays_ite | apply emit_stays | apply tally_stays | intro _ | (simp only [stays_mk]; refine stays_core ?_))

theorem msixRaise_stays {b₀ s : State} {v : Nat} (hs : b₀.stays s) :
    b₀.stays (State.msixRaise s v) := by
  unfold State.msixRaise
  with_reducible repeat' (first
    | assumption | apply stays_ite | apply msixSend_stays | intro _ | (simp only [stays_mk]; refine stays_core ?_))

theorem evLost_stays {b₀ s : State} (hs : b₀.stays s) :
    b₀.stays (State.evLost s) := by
  unfold State.evLost
  with_reducible repeat' (first
    | assumption | apply stays_ite | apply count32_stays | apply raise_stays | intro _ | (simp only [stays_mk]; refine stays_core ?_))

theorem evCopy_stays {b₀ s : State} {code : Nat} {bytes : List Byte} (hs : b₀.stays s) :
    b₀.stays (State.evCopy s code bytes) := by
  unfold State.evCopy
  with_reducible repeat' (first
    | assumption | apply stays_ite | apply evLost_stays | apply hostPut_stays | apply setFld_stays | apply msixRaise_stays | intro _)

theorem ibiSend_stays {b₀ s : State} {code : Nat} (hs : b₀.stays s) :
    b₀.stays (State.ibiSend s code) := by
  unfold State.ibiSend
  with_reducible repeat' (first
    | assumption | apply emit_stays | (simp only [stays_mk]; refine stays_core ?_))

theorem ibiEntry_stays {b₀ s : State} {code : Nat} (hs : b₀.stays s) :
    b₀.stays (State.ibiEntry s code) := by
  unfold State.ibiEntry
  with_reducible repeat' (first
    | assumption | apply stays_ite | apply setFld_stays | apply count32_stays | apply ibiSend_stays | intro _
    | (simp only [stays_mk]; refine stays_core ?_))

theorem execIbiHoldExpire_stays {b₀ s : State} (hs : b₀.stays s) :
    b₀.outs (execIbiHoldExpire s) := by
  unfold execIbiHoldExpire
  with_reducible repeat' (first
    | assumption | apply stays_ite | apply ibiSend_stays | apply outs_next | apply outs_ite | intro _
    | (simp only [stays_mk]; refine stays_core ?_) | split)

theorem execMsixHoldExpire_stays {b₀ : State} {v : Fin 256} {s : State} (hs : b₀.stays s) :
    b₀.outs (execMsixHoldExpire v s) := by
  unfold execMsixHoldExpire
  with_reducible repeat' (first
    | assumption | apply stays_ite | apply msixRaise_stays | apply outs_next | apply outs_ite | intro _
    | (simp only [stays_mk]; refine stays_core ?_))

theorem execMsixUnmask_stays {b₀ : State} {v : Fin 256} {addr data : Nat} {s : State} (hs : b₀.stays s) :
    b₀.outs (execMsixUnmask v addr data s) := by
  unfold execMsixUnmask
  with_reducible repeat' (first
    | assumption | apply stays_ite | apply msixRaise_stays | apply outs_next | apply outs_ite | intro _
    | (simp only [stays_mk]; refine stays_core ?_))

theorem ringWrite_stays {b₀ s : State} {d : Nat} {e : EvEntry} {rest : List EvEntry} (hs : b₀.stays s) :
    b₀.stays (State.ringWrite s d e rest) := by
  unfold State.ringWrite
  with_reducible repeat' (first
    | assumption | apply stays_ite | apply setFld_stays | apply sramStore_stays | apply evCopy_stays | apply ibiEntry_stays
    | apply reportLoss_stays | intro _ | (simp only [stays_mk]; refine stays_core ?_))

theorem execLogRingWrite_stays {b₀ : State} {d : Fin 2} {s : State} (hs : b₀.stays s) :
    b₀.outs (execLogRingWrite d s) := by
  unfold execLogRingWrite
  with_reducible repeat' (first
    | assumption | apply stays_ite | apply setFld_stays | apply ringWrite_stays | apply outs_next | apply outs_ite | intro _
    | (simp only [stays_mk]; refine stays_core ?_) | split)

/-! ## Ckp -/

theorem execPreqPoll_stays {b₀ s : State} (hs : b₀.stays s) :
    b₀.outs (execPreqPoll s) := by
  unfold execPreqPoll
  with_reducible repeat' (first
    | assumption | apply stays_ite | apply requestCut_stays | apply outs_next | apply outs_ite | intro _
    | (simp only [stays_mk]; refine stays_core ?_))

theorem onCkpCut_stays {b₀ s : State} {d : Nat} (hs : b₀.stays s) :
    b₀.stays (State.onCkpCut s d) := by
  unfold State.onCkpCut
  with_reducible repeat' (first
    | assumption | apply stays_ite | apply setFld_stays | apply requestCut_stays | apply cutArrives_stays | intro _)

theorem drainStops_stays {b₀ s : State} (hs : b₀.stays s) :
    b₀.stays (State.drainStops s) := by
  unfold State.drainStops
  with_reducible repeat' (first
    | assumption | apply stays_ite | apply setFld_stays | intro _ | (simp only [stays_mk]; refine stays_core ?_))

theorem execCutQuiesced_stays {b₀ s : State} (hs : b₀.stays s) :
    b₀.outs (execCutQuiesced s) := by
  unfold execCutQuiesced
  with_reducible repeat' (first
    | assumption | apply stays_ite | apply setCut_stays | apply raise_stays | apply drainStops_stays | apply outs_next | apply outs_ite
    | intro _ | (simp only [stays_mk]; refine stays_core ?_) | split)

theorem execCutQuiesceTimeout_stays {b₀ s : State} (hs : b₀.stays s) :
    b₀.outs (execCutQuiesceTimeout s) := by
  unfold execCutQuiesceTimeout
  with_reducible repeat' (first
    | assumption | apply stays_ite | apply cutFails_stays | apply cutNext_stays | apply outs_next | apply outs_ite | intro _
    | (simp only [stays_mk]; refine stays_core ?_) | split)

theorem copyRegion_stays {b₀ s : State} {r : CutRun} {slot : Nat} {g : (Nat × Nat × Nat) × Nat} (hs : b₀.stays s) :
    b₀.stays (State.copyRegion s r slot g).1 := by
  unfold State.copyRegion
  with_reducible repeat' (first
    | assumption | apply stays_ite | apply stays_ite1 | apply stays_getD | apply readMarked_stays | apply writeMarked_stays
    | apply tally_stays)

theorem copyEnds_stays {b₀ s : State} {r : CutRun} (hs : b₀.stays s) :
    b₀.stays (State.copyEnds s r) := by
  unfold State.copyEnds
  with_reducible repeat' (first
    | assumption | apply stays_ite | apply stays_ite1 | apply stays_foldl | apply stays_foldl1 | apply stays_foldl2 | apply stays_getD
    | apply copyRegion_stays | apply setFld_stays | apply setCut_stays | intro _ | (simp only [stays_mk]; refine stays_core ?_))

theorem execCutCopyDone_stays {b₀ s : State} (hs : b₀.stays s) :
    b₀.outs (execCutCopyDone s) := by
  unfold execCutCopyDone
  with_reducible repeat' (first
    | assumption | apply stays_ite | apply copyEnds_stays | apply outs_next | apply outs_ite | intro _
    | (simp only [stays_mk]; refine stays_core ?_) | split)

theorem drainStart_stays {b₀ s : State} {slot nent : Nat} (hs : b₀.stays s) :
    b₀.stays (State.drainStart s slot nent) := by
  unfold State.drainStart
  with_reducible repeat' (first
    | assumption | apply stays_ite | apply stays_foldl | apply stays_foldl1 | apply stays_foldl2 | apply setFld_stays | intro _
    | (simp only [stays_mk]; refine stays_core ?_))

theorem cutEnds_stays {b₀ s : State} {r : CutRun} (hs : b₀.stays s) :
    b₀.stays (State.cutEnds s r) := by
  unfold State.cutEnds
  with_reducible repeat' (first
    | assumption | apply stays_ite | apply stays_foldl | apply stays_foldl1 | apply stays_foldl2 | apply stays_getD
    | apply writeRaw_stays | apply setFld_stays | apply setReg_stays | apply setCut_stays | apply tally_stays | apply raise_stays
    | apply drainStart_stays | apply cutNext_stays | intro _ | (simp only [stays_mk]; refine stays_core ?_))

theorem execCutManifestDone_stays {b₀ s : State} (hs : b₀.stays s) :
    b₀.outs (execCutManifestDone s) := by
  unfold execCutManifestDone
  with_reducible repeat' (first
    | assumption | apply stays_ite | apply cutEnds_stays | apply outs_next | apply outs_ite | intro _
    | (simp only [stays_mk]; refine stays_core ?_) | split)

theorem onDray_stays {b₀ s : State} {d : Nat} (hs : b₀.stays s) :
    b₀.stays (State.onDray s d) := by
  unfold State.onDray
  with_reducible repeat' (first
    | assumption | apply stays_ite | apply drainStart_stays | apply setFld_stays | apply raise_stays | intro _)

theorem drainFails_stays {b₀ s : State} {entry n : Nat} (hs : b₀.stays s) :
    b₀.stays (State.drainFails s entry n) := by
  unfold State.drainFails
  with_reducible repeat' (first
    | assumption | apply tally_stays | apply raise_stays | apply drainStops_stays | intro _
    | (simp only [stays_mk]; refine stays_core ?_) | split)

theorem drainOut_stays {b₀ : State} {x0 : List (Nat × Nat)} {x1 : State} {x2 : List Byte} (hx1 : b₀.stays x1) :
    b₀.stays (State.drainOut x0 x1 x2) := by
  induction x0 generalizing x1 x2 with
  | nil =>
    unfold State.drainOut
    with_reducible repeat' (first
      | assumption)
  | cons y ys ih =>
    unfold State.drainOut
    with_reducible repeat' (first
      | apply ih | assumption | apply stays_ite | apply hostPut_stays | intro _)

theorem drainEnd_stays {b₀ s : State} {x : DrainRun} {list : List (Nat × Nat)} {err : Option Nat} (hs : b₀.stays s) :
    b₀.stays (State.drainEnd s x list err) := by
  unfold State.drainEnd
  with_reducible repeat' (first
    | assumption | apply stays_ite | apply tally_stays | apply drainOut_stays | apply drainFails_stays | apply raise_stays
    | apply drainStops_stays | intro _ | (simp only [stays_mk]; refine stays_core ?_) | split)

theorem execDrainDone_stays {b₀ : State} {list : List (Nat × Nat)} {err : Option Nat} {s : State} (hs : b₀.stays s) :
    b₀.outs (execDrainDone list err s) := by
  unfold execDrainDone
  with_reducible repeat' (first
    | assumption | apply stays_ite | apply drainFails_stays | apply drainEnd_stays | apply outs_next | apply outs_ite | intro _
    | (simp only [stays_mk]; refine stays_core ?_) | split)

theorem onRst_stays {b₀ s : State} {d : Nat} (hs : b₀.stays s) :
    b₀.stays (State.onRst s d) := by
  unfold State.onRst
  with_reducible repeat' (first
    | assumption | apply stays_ite | apply stays_foldl | apply stays_foldl1 | apply stays_foldl2 | apply setFld_stays | intro _)

theorem restoreRegion_stays {b₀ : State} {slot : Nat} {b : List Byte} {s : State} {rec_ : List Byte} (hs : b₀.stays s) :
    b₀.stays (State.restoreRegion slot b s rec_) := by
  unfold State.restoreRegion
  with_reducible repeat' (first
    | assumption | apply stays_ite | apply stays_ite1 | apply readMarked_stays | apply writeMarked_stays)

theorem restoreCorr_stays {b₀ s : State} {j d : Nat} (hs : b₀.stays s) :
    b₀.stays (State.restoreCorr s j d) := by
  unfold State.restoreCorr
  with_reducible repeat' (first
    | assumption | apply stays_ite | apply stays_ite1 | apply stays_foldl | apply stays_foldl1 | apply stays_foldl2
    | apply meldRead_stays | apply meldWrite_stays | intro _)

theorem restoreEnds_stays {b₀ s : State} (hs : b₀.stays s) :
    b₀.stays (State.restoreEnds s) := by
  unfold State.restoreEnds
  with_reducible repeat' (first
    | assumption | apply stays_ite | apply stays_foldl | apply stays_foldl1 | apply stays_foldl2 | apply restoreFails_stays
    | apply restoreRegion_stays | apply restoreCorr_stays | apply setFld_stays | apply raise_stays | apply spareActs_stays | intro _)

theorem execRestoreDone_stays {b₀ s : State} (hs : b₀.stays s) :
    b₀.outs (execRestoreDone s) := by
  unfold execRestoreDone
  with_reducible repeat' (first
    | assumption | apply stays_ite | apply restoreEnds_stays | apply outs_next | apply outs_ite | intro _)

/-! ## Boot -/

theorem updBoot_stays {b₀ s : State} {f : BootState → BootState} (hs : b₀.stays s) :
    b₀.stays (State.updBoot s f) := by
  unfold State.updBoot
  with_reducible repeat' (first
    | assumption | (simp only [stays_mk]; refine stays_core ?_))

theorem setPhase_stays {b₀ s : State} {n : Nat} (hs : b₀.stays s) :
    b₀.stays (State.setPhase s n) := by
  unfold State.setPhase
  with_reducible repeat' (first
    | assumption | apply setFld_stays)

theorem diesReset_stays {b₀ s : State} {keep : List Nat} (hs : b₀.stays s) :
    b₀.stays (State.diesReset s keep) := ⟨hs.1, fun h => ⟨(hs.2 h).1, (hs.2 h).2.1.filter _, List.length_replicate, List.length_replicate⟩⟩

theorem deviceReset_stays {b₀ s : State} {cause rail : Nat} (hs : b₀.stays s) :
    b₀.stays (State.deviceReset s cause rail) := by
  unfold State.deviceReset
  refine updBoot_stays (setFld_stays (setFld_stays (stays_ite (fun _ => stays_cleared (diesReset_stays ?_) rfl) fun _ => diesReset_stays ?_)))
  all_goals
    dsimp only
    refine stays_ite (fun _ => emit_stays ?_) fun _ => ?_
    all_goals exact stays_ite (fun _ => emit_stays hs) fun _ => hs

theorem execDeviceReset_stays {b₀ : State} {cause : Fin 4} {rail : Fin 16} {s : State} (hs : b₀.stays s) :
    b₀.outs (execDeviceReset cause rail s) := by
  unfold execDeviceReset
  with_reducible repeat' (first
    | assumption | apply deviceReset_stays | apply outs_next)

theorem execUndervoltage_stays {b₀ : State} {rail : Fin 16} {s : State} (hs : b₀.stays s) :
    b₀.outs (execUndervoltage rail s) := by
  unfold execUndervoltage
  with_reducible repeat' (first
    | assumption | apply stays_ite | apply deviceReset_stays | apply outs_next | apply outs_ite | intro _)

theorem execResetRelease_stays {b₀ s : State} (hs : b₀.stays s) :
    b₀.outs (execResetRelease s) := by
  unfold execResetRelease
  with_reducible repeat' (first
    | assumption | apply stays_ite | apply updBoot_stays | apply outs_next | apply outs_ite | intro _)

theorem diesStart_stays {b₀ s : State} (hs : b₀.stays s) :
    b₀.stays (State.diesStart s) := by
  unfold State.diesStart
  with_reducible repeat' (first
    | assumption | apply stays_foldl | apply stays_foldl1 | apply stays_foldl2 | apply setFld_stays | intro _)

theorem execFuseDone_stays {b₀ s : State} (hs : b₀.stays s) :
    b₀.outs (execFuseDone s) := by
  unfold execFuseDone
  with_reducible repeat' (first
    | assumption | apply stays_ite | apply setPhase_stays | apply diesStart_stays | apply outs_next | apply outs_ite | intro _)

theorem execPkhprog_stays {b₀ : State} {dr : BitVec 400} {low : Bool} {s : State} (hs : b₀.stays s) :
    b₀.outs (execPkhprog dr low s) := by
  unfold execPkhprog
  with_reducible repeat' (first
    | assumption | apply stays_ite | apply updBoot_stays | apply outs_next | apply outs_ite | intro _)

theorem bootRefused_stays {b₀ s : State} {off reason : Nat} (hs : b₀.stays s) :
    b₀.stays (State.bootRefused s off reason) := by
  unfold State.bootRefused
  with_reducible repeat' (first
    | assumption | apply raise_stays)

theorem onSvnup_stays {b₀ s : State} {key : Nat} (hs : b₀.stays s) :
    b₀.stays (State.onSvnup s key) := by
  unfold State.onSvnup
  with_reducible repeat' (first
    | assumption | apply stays_ite | apply bootRefused_stays | apply drew_stays | apply updBoot_stays | apply raise_stays | intro _)

theorem onKekctl_stays {b₀ s : State} {host : Bool} {key : Nat} (hs : b₀.stays s) :
    b₀.stays (State.onKekctl s host key) := by
  unfold State.onKekctl
  with_reducible repeat' (first
    | assumption | apply stays_ite | apply stays_foldl | apply stays_foldl1 | apply stays_foldl2 | apply bootRefused_stays
    | apply setReg_stays | apply drew_stays | apply updBoot_stays | apply raise_stays | intro _)

theorem bootFailed_stays {b₀ s : State} (hs : b₀.stays s) :
    b₀.stays (State.bootFailed s) := by
  unfold State.bootFailed
  with_reducible repeat' (first
    | assumption | apply setPhase_stays | apply raise_stays)

theorem copyRecord_stays {b₀ s : State} {copy cause roff : Nat} (hs : b₀.stays s) :
    b₀.stays (State.copyRecord s copy cause roff) := by
  unfold State.copyRecord
  with_reducible repeat' (first
    | assumption | apply stays_ite | apply setFld_stays | apply recordFirst_stays | apply raise_stays)

theorem copyFails_stays {b₀ s : State} {cause roff : Nat} (hs : b₀.stays s) :
    b₀.stays (State.copyFails s cause roff) := by
  unfold State.copyFails
  with_reducible repeat' (first
    | assumption | apply stays_ite | apply copyRecord_stays | apply setPhase_stays | apply setFld_stays | apply bootFailed_stays
    | intro _)

theorem execProbeDone_stays {b₀ : State} {mode : Fin 4} {size : Nat} {s : State} (hs : b₀.stays s) :
    b₀.outs (execProbeDone mode size s) := by
  unfold execProbeDone
  with_reducible repeat' (first
    | assumption | apply stays_ite | apply copyRecord_stays | apply bootFailed_stays | apply setFld_stays | apply setPhase_stays
    | apply outs_next | apply outs_ite | intro _)

theorem execStageDone_stays {b₀ : State} {nor : List Byte} {s : State} (hs : b₀.stays s) :
    b₀.outs (execStageDone nor s) := by
  unfold execStageDone
  with_reducible repeat' (first
    | assumption | apply stays_ite | apply copyFails_stays | apply sramWrite_stays | apply updBoot_stays | apply setPhase_stays
    | apply outs_next | apply outs_fault | apply outs_ite | intro _ | (simp only [stays_mk]; refine stays_core ?_))

theorem execVerifyDone_stays {b₀ s : State} (hs : b₀.stays s) :
    b₀.outs (execVerifyDone s) := by
  unfold execVerifyDone
  with_reducible repeat' (first
    | assumption | apply stays_ite | apply copyFails_stays | apply updBoot_stays | apply setPhase_stays | apply outs_next
    | apply outs_ite | intro _ | (simp only [stays_mk]; refine stays_core ?_) | split)

theorem execRedoDone_stays {b₀ s : State} (hs : b₀.stays s) :
    b₀.outs (execRedoDone s) := by
  unfold execRedoDone
  with_reducible repeat' (first
    | assumption | apply stays_ite | apply diesReset_stays | apply setFld_stays | apply diesStart_stays | apply setPhase_stays
    | apply outs_next | apply outs_ite | intro _)

theorem runStarts_stays {b₀ s : State} (hs : b₀.stays s) :
    b₀.stays (State.runStarts s) := by
  unfold State.runStarts
  with_reducible repeat' (first
    | assumption | apply stays_ite | apply stays_foldl | apply stays_foldl1 | apply stays_foldl2 | apply setBoth_stays
    | apply linkTrain_stays | apply portStart_stays | intro _)

theorem execRunRelease_stays {b₀ : State} {s : State} (hs : b₀.stays s) :
    b₀.outs (execRunRelease s) := by
  unfold execRunRelease
  with_reducible repeat' (first
    | assumption | apply stays_ite | apply sramWrite_stays | apply updBoot_stays | apply setPhase_stays | apply setFld_stays
    | apply stage_stays | apply raise_stays | apply runStarts_stays | apply outs_next | apply outs_fault | apply outs_ite | intro _
    | (simp only [stays_mk]; refine stays_core ?_))

theorem execReadyTimeout_stays {b₀ s : State} (hs : b₀.stays s) :
    b₀.outs (execReadyTimeout s) := by
  unfold execReadyTimeout
  with_reducible repeat' (first
    | assumption | apply stays_ite | apply updBoot_stays | apply raise_stays | apply outs_next | apply outs_ite | intro _)

theorem onRload_stays {b₀ s : State} (hs : b₀.stays s) :
    b₀.stays (State.onRload s) := by
  unfold State.onRload
  with_reducible repeat' (first
    | assumption | apply stays_ite | apply bootRefused_stays | apply copyRecord_stays | apply updBoot_stays | apply setFld_stays
    | apply setPhase_stays | intro _ | (simp only [stays_mk]; refine stays_core ?_) | split)

/-! ## Hbm -/

theorem serveRead_stays {b₀ : State} {s : State} {d : Nat} {q : HbmReq} {ecc : EccList} (hs : b₀.stays s) :
    b₀.stays (State.serveRead s d q ecc) := by
  unfold State.serveRead
  with_reducible repeat' (first
    | assumption | refine stays_of_fst (by assumption) ?_ | apply readTouch_stays | apply ctlGranule_stays | apply readFill_stays
    | apply emit_stays | intro _ | split | dsimp only)

theorem serveNext_stays {b₀ : State} {s : State} {d p i : Nat} {w : Bool} {r : HbmReq} {ecc : EccList} (hs : b₀.stays s) :
    b₀.stays (State.serveNext s d p i w r ecc) := by
  unfold State.serveNext
  with_reducible repeat' (first
    | assumption | apply stays_ite | apply serveTurn_stays | apply updPc_stays | apply serveWrite_stays | apply serveRead_stays
    | apply memResume_stays | intro _ | (simp only [stays_mk]; refine stays_core ?_))

theorem writeCorrected_stays {b₀ : State} {s : State} {k : Nat} (hs : b₀.stays s) :
    b₀.stays (State.writeCorrected s k) := by
  unfold State.writeCorrected
  with_reducible repeat' (first
    | assumption | apply poke_stays | apply State_mark_stays | intro _ | (simp only [stays_mk]; refine stays_core ?_) | split
    | dsimp only)

theorem maintenance_stays {b₀ : State} {s : State} {d p : Nat} {scrub : Bool} {ecc : EccList} (hs : b₀.stays s) :
    b₀.stays (State.maintenance s d p scrub ecc) := by
  unfold State.maintenance
  with_reducible repeat' (first
    | assumption | refine stays_of_fst (by assumption) ?_ | apply stays_ite | apply stays_ite1 | apply stays_foldl
    | apply stays_foldl1 | apply stays_foldl2 | apply updPc_stays | apply writeCorrected_stays | apply chunkRead_stays | intro _
    | (simp only [stays_mk]; refine stays_core ?_) | split | dsimp only)

theorem execRefreshSlot_stays {b₀ : State} {d : Fin 2} {p : Fin 256} {collisions : Nat} {scrub : Bool} {ecc : EccList} {s : State} (hs : b₀.stays s) :
    b₀.outs (execRefreshSlot d p collisions scrub ecc s) := by
  unfold execRefreshSlot
  with_reducible repeat' (first
    | assumption | apply stays_ite | apply tally_stays | apply updPc_stays | apply maintenance_stays | apply outs_next
    | apply outs_fault | apply outs_ite | intro _ | (simp only [stays_mk]; refine stays_core ?_))

theorem execHbmTempReport_stays {b₀ : State} {d : Fin 2} {i : Fin 4} {t : Nat} {s : State} (hs : b₀.stays s) :
    b₀.outs (execHbmTempReport d i t s) := by
  unfold execHbmTempReport
  with_reducible repeat' (first
    | assumption | apply stays_ite | apply setFld_stays | apply raise_stays | apply outs_next | apply outs_ite | intro _)

theorem cewRestart_stays {b₀ s : State} {d : Nat} (hs : b₀.stays s) :
    b₀.stays (State.cewRestart s d) := by
  unfold State.cewRestart
  with_reducible repeat' (first
    | assumption | apply updMem_stays)

theorem execCewWindowEnd_stays {b₀ : State} {d : Fin 2} {s : State} (hs : b₀.stays s) :
    b₀.outs (execCewWindowEnd d s) := by
  unfold execCewWindowEnd
  with_reducible repeat' (first
    | assumption | apply cewRestart_stays | apply outs_next)

theorem cacheRead_stays {b₀ : State} {s : State} {pa n tag : Nat} (hs : b₀.stays s) :
    b₀.stays (State.cacheRead s pa n tag) := by
  unfold State.cacheRead
  with_reducible repeat' (first
    | assumption | apply stays_ite | apply readHit_stays | apply emit_stays | apply tally_stays | apply updPc_stays | intro _
    | (simp only [stays_mk]; refine stays_core ?_) | split | dsimp only)

theorem execHbmCacheRead_stays {b₀ : State} {pa n tag : Nat} {s : State} (hs : b₀.stays s) :
    b₀.outs (execHbmCacheRead pa n tag s) := by
  unfold execHbmCacheRead
  with_reducible repeat' (first
    | assumption | apply stays_ite | apply memRequest_stays | apply cacheRead_stays | apply outs_next | apply outs_fault
    | apply outs_ite | intro _)

theorem execHbmCacheWrite_stays {b₀ : State} {pa : Nat} {data : List Byte} {poison : Bool} {s : State} (hs : b₀.stays s) :
    b₀.outs (execHbmCacheWrite pa data poison s) := by
  unfold execHbmCacheWrite
  with_reducible repeat' (first
    | assumption | apply stays_ite | apply memRequest_stays | apply outs_next | apply outs_fault | apply outs_ite | intro _)

theorem execWcAgeExpire_stays {b₀ : State} {d : Fin 2} {g : Nat} {s : State} (hs : b₀.stays s) :
    b₀.outs (execWcAgeExpire d g s) := by
  unfold execWcAgeExpire
  with_reducible repeat' (first
    | assumption | apply stays_ite | apply wcFree_stays | apply wcOut_stays | apply outs_next | apply outs_ite | intro _
    | (simp only [stays_mk]; refine stays_core ?_) | split)

theorem flushGranules_stays {b₀ s : State} {d : Nat} {p : Nat → Bool} (hs : b₀.stays s) :
    b₀.stays (State.flushGranules s d p) := by
  unfold State.flushGranules
  with_reducible repeat' (first
    | assumption | apply stays_foldl | apply stays_foldl1 | apply stays_foldl2 | apply writeBack_stays | apply lineDrop_stays
    | apply wcFree_stays | apply wcOut_stays | intro _)

theorem onFlush_stays {b₀ s : State} {d : Nat} (hs : b₀.stays s) :
    b₀.stays (State.onFlush s d) := by
  unfold State.onFlush
  with_reducible repeat' (first
    | assumption | apply stays_ite | apply setFld_stays | apply updMem_stays | apply flushGranules_stays | intro _)

theorem execHcacheFlushDone_stays {b₀ : State} {d : Fin 2} {s : State} (hs : b₀.stays s) :
    b₀.outs (execHcacheFlushDone d s) := by
  unfold execHcacheFlushDone
  with_reducible repeat' (first
    | assumption | apply stays_ite | apply setFld_stays | apply raise_stays | apply outs_next | apply outs_ite | intro _)

theorem execHbmTrainDone_stays {b₀ : State} {d : Fin 2} {i : Fin 4} {ok : Bool} {s : State} (hs : b₀.stays s) :
    b₀.outs (execHbmTrainDone d i ok s) := by
  unfold execHbmTrainDone
  with_reducible repeat' (first
    | assumption | apply stays_ite | apply stays_getD | apply setFld_stays | apply orFld_stays | apply updMem_stays | apply raise_stays
    | apply outs_next | apply outs_ite | intro _)

theorem stackReady_stays {b₀ : State} {s : State} {d i : Nat} (hs : b₀.stays s) :
    b₀.stays (State.stackReady s d i) := by
  unfold State.stackReady
  with_reducible repeat' (first
    | assumption | apply stays_ite | apply stays_foldl | apply stays_foldl1 | apply stays_foldl2 | apply flushGranules_stays
    | apply serveWrite_stays | apply updPc_stays | apply updMem_stays | apply orFld_stays | apply raise_stays
    | apply memResume_stays | intro _ | (simp only [stays_mk]; refine stays_core ?_))

theorem execHbmOwnReady_stays {b₀ : State} {d : Fin 2} {i : Fin 4} {s : State} (hs : b₀.stays s) :
    b₀.outs (execHbmOwnReady d i s) := by
  unfold execHbmOwnReady
  with_reducible repeat' (first
    | assumption | apply stays_ite | apply stackReady_stays | apply outs_next | apply outs_ite | intro _)

/-! ## Tgen -/

theorem tgenCheck_stays {b₀ s : State} {d p : Nat} {l : HbmLoc} {chunk : Nat} {got : Chunk} {want : List Byte} (hs : b₀.stays s) :
    b₀.stays (State.tgenCheck s d p l chunk got want) := by
  unfold State.tgenCheck
  with_reducible repeat' (first
    | assumption | apply stays_ite | apply count32_stays | apply recordFirst_stays | intro _)

theorem tgenStep_stays {b₀ : State} {d : Nat} {t : TgenRun} {errs : Nat → Ecc} {p : Nat} {s : State} {n : Nat} (hs : b₀.stays s) :
    b₀.stays (State.tgenStep d t errs p s n) := by
  unfold State.tgenStep
  with_reducible repeat' (first
    | assumption | apply stays_ite | apply stays_ite1 | apply stays_foldl | apply stays_foldl1 | apply stays_foldl2
    | apply chunkRead_stays | apply tgenCheck_stays | apply updPc_stays | apply chunkWrite_stays | intro _)

theorem tgenRun_stays {b₀ : State} {s : State} {d : Nat} {t : TgenRun} {errs : Nat → Ecc} {p n : Nat} (hs : b₀.stays s) :
    b₀.stays (State.tgenRun s d t errs p n) := by
  unfold State.tgenRun
  with_reducible repeat' (first
    | assumption | apply stays_foldl | apply stays_foldl1 | apply stays_foldl2 | apply tgenStep_stays | intro _)

theorem tgenEnd_stays {b₀ : State} {s : State} {d : Nat} {aborted : Bool} (hs : b₀.stays s) :
    b₀.stays (State.tgenEnd s d aborted) := by
  unfold State.tgenEnd
  with_reducible repeat' (first
    | assumption | apply stays_ite | apply updMem_stays | apply setFld_stays | apply orFld_stays | apply raise_stays | intro _
    | (simp only [stays_mk]; refine stays_core ?_))

theorem tgenCut_stays {b₀ : State} {s : State} {d : Nat} (hs : b₀.stays s) :
    b₀.stays (State.tgenCut s d) := by
  unfold State.tgenCut
  with_reducible repeat' (first
    | assumption | apply stays_foldl | apply stays_foldl1 | apply stays_foldl2 | apply drew_stays | apply tgenRun_stays
    | apply tgenEnd_stays | intro _ | split | dsimp only)

theorem onTgenCtl_stays {b₀ : State} {s : State} {d : Nat} {go stop : Bool} (hs : b₀.stays s) :
    b₀.stays (State.onTgenCtl s d go stop) := by
  unfold State.onTgenCtl
  with_reducible repeat' (first
    | assumption | apply stays_ite | apply tgenCut_stays | apply raise_stays | apply updMem_stays | apply setFld_stays | intro _
    | (simp only [stays_mk]; refine stays_core ?_) | split | dsimp only)

theorem tgenServe_stays {b₀ : State} {s : State} {d p : Nat} {ecc : EccList} (hs : b₀.stays s) :
    b₀.stays (State.tgenServe s d p ecc) := by
  unfold State.tgenServe
  with_reducible repeat' (first
    | assumption | apply stays_ite | apply tgenStep_stays | apply serveTurn_stays | apply updMem_stays | intro _
    | (simp only [stays_mk]; refine stays_core ?_) | split | dsimp only)

theorem execHbmRequest_stays {b₀ : State} {d : Fin 2} {p : Fin 256} {m : ServeMeets} {s : State} (hs : b₀.stays s) :
    b₀.outs (execHbmRequest d p m s) := by
  unfold execHbmRequest
  with_reducible repeat' (first
    | assumption | apply stays_ite | apply tgenServe_stays | apply tally_stays | apply serveNext_stays | apply outs_next
    | apply outs_fault | apply outs_ite | intro _ | split | dsimp only)

theorem execTgenRunEnd_stays {b₀ : State} {d : Fin 2} {errs : List (Nat × Ecc)} {s : State} (hs : b₀.stays s) :
    b₀.outs (execTgenRunEnd d errs s) := by
  unfold execTgenRunEnd
  with_reducible repeat' (first
    | assumption | apply stays_ite | apply stays_foldl | apply stays_foldl1 | apply stays_foldl2 | apply stays_getD
    | apply tgenRun_stays | apply tgenEnd_stays | apply outs_next | apply outs_fault | apply outs_ite | intro _ | split | dsimp only)

theorem onOwn_stays {b₀ : State} {s : State} {d v : Nat} (hs : b₀.stays s) :
    b₀.stays (State.onOwn s d v) := by
  unfold State.onOwn
  with_reducible repeat' (first
    | assumption | apply stays_ite | apply tgenCut_stays | apply setFld_stays | apply updMem_stays | apply memResume_stays | intro _
    | (simp only [stays_mk]; refine stays_core ?_))

theorem setWords_stays {b₀ s : State} {r : Reg} {bs : List Byte} (hs : b₀.stays s) :
    b₀.stays (State.setWords s r bs) := by
  unfold State.setWords
  with_reducible repeat' (first
    | assumption | apply stays_foldl | apply stays_foldl1 | apply stays_foldl2 | apply setReg_stays | intro _)

theorem readRow_stays {b₀ s : State} {r : RepairRow} (hs : b₀.stays s) :
    b₀.stays (State.readRow s r) := by
  unfold State.readRow
  with_reducible repeat' (first
    | assumption | apply stays_foldl | apply stays_foldl1 | apply stays_foldl2 | apply setReg_stays | intro _)

theorem writeRow_stays {b₀ : State} {s : State} {r : RepairRow} (hs : b₀.stays s) :
    b₀.stays (State.writeRow s r) := by
  unfold State.writeRow
  with_reducible repeat' (first
    | assumption | apply stays_ite | apply stays_foldl | apply stays_foldl1 | apply stays_foldl2 | apply poke_stays
    | apply updPc_stays | apply State_mark_stays | intro _ | (simp only [stays_mk]; refine stays_core ?_))

theorem loseRow_stays {b₀ s : State} {r : RepairRow} (hs : b₀.stays s) :
    b₀.stays (State.loseRow s r) := by
  unfold State.loseRow
  with_reducible repeat' (first
    | assumption | apply stays_foldl | apply stays_foldl1 | apply stays_foldl2 | apply poke_stays | apply State_mark_stays
    | apply drew_stays | intro _)

theorem repairFail_stays {b₀ s : State} {d op stack cause : Nat} (hs : b₀.stays s) :
    b₀.stays (State.repairFail s d op stack cause) := by
  unfold State.repairFail
  with_reducible repeat' (first
    | assumption | apply orFld_stays | apply raise_stays)

theorem onRwCmd_stays {b₀ s : State} {v : Nat} (hs : b₀.stays s) :
    b₀.stays (State.onRwCmd s v) := by
  unfold State.onRwCmd
  with_reducible repeat' (first
    | assumption | apply stays_ite | apply repairFail_stays | apply updMem_stays | apply setFld_stays | intro _)

theorem repairEffect_stays {b₀ s : State} {op : Nat} {r : RepairRow} (hs : b₀.stays s) :
    b₀.opts (State.repairEffect s op r) := by
  unfold State.repairEffect
  with_reducible repeat' (first
    | assumption | apply stays_ite | apply stays_foldl | apply stays_foldl1 | apply stays_foldl2 | apply readRow_stays
    | apply writeRow_stays | apply loseRow_stays | apply setFld_stays | apply opts_some | apply opts_none | apply opts_ite | intro _
    | (simp only [stays_mk]; refine stays_core ?_) | split)

theorem execRepairCmdDone_stays {b₀ s : State} (hs : b₀.stays s) :
    b₀.outs (execRepairCmdDone s) := by
  unfold execRepairCmdDone
  with_reducible repeat' (first
    | assumption | refine stays_of_some (by assumption) ?_ | apply stays_ite | apply updMem_stays | apply setFld_stays
    | apply repairEffect_stays | apply repairFail_stays | apply orFld_stays | apply raise_stays | apply outs_next | apply outs_ite
    | intro _ | (simp only [stays_mk]; refine stays_core ?_) | split | dsimp only)

/-! ## Csr -/

theorem lossRead_stays {b₀ s : State} {d : Nat} {r : Reg} (hs : b₀.stays s) :
    b₀.stays (State.lossRead s d r) := by
  unfold State.lossRead
  with_reducible repeat' (first
    | assumption | apply stays_ite | apply State_report_stays | apply updWan_stays | apply updAsy_stays | apply updMem_stays | intro _
    | (simp only [stays_mk]; refine stays_core ?_))

theorem clearRead_stays {b₀ s : State} {a : CsrAt} {lo n : Nat} (hs : b₀.stays s) :
    b₀.stays (State.clearRead s a lo n) := by
  unfold State.clearRead
  with_reducible repeat' (first
    | assumption | apply stays_ite | apply stays_foldl | apply stays_foldl1 | apply stays_foldl2 | apply setFld_stays
    | apply lossRead_stays | intro _)

theorem traceGo_stays {b₀ s : State} (hs : b₀.stays s) :
    b₀.stays (State.traceGo s) := by
  unfold State.traceGo
  with_reducible repeat' (first
    | assumption | apply setFld_stays | apply trace_stays | (simp only [stays_mk]; refine stays_core ?_))

theorem traceStop_stays {b₀ s : State} (hs : b₀.stays s) :
    b₀.stays (State.traceStop s) := by
  unfold State.traceStop
  with_reducible repeat' (first
    | assumption | apply setFld_stays)

theorem stager_stays {b₀ s : State} {d : Nat} {p : Path} (hs : b₀.stays s) :
    b₀.stays (State.stager s d p) := by
  unfold State.stager
  with_reducible repeat' (first
    | assumption | apply stays_ite | apply updCip_stays)

theorem pairCtl_stays {b₀ s : State} {d n v : Nat} (hs : b₀.stays s) :
    b₀.stays (State.pairCtl s d n v) := by
  unfold State.pairCtl
  with_reducible repeat' (first
    | assumption | apply stays_ite | apply onPairRoll_stays | apply onPairUse_stays | apply onPairDrop_stays | intro _)

theorem written_stays {b₀ : State} {s : State} {p : Path} {d : Nat} {r : Reg} {i old v : Nat} (hs : b₀.stays s) :
    b₀.stays (State.written s p d r i old v) := by
  unfold State.written
  with_reducible repeat' (first
    | assumption | apply stays_ite | apply setFld_stays | apply onCtxDrop_stays | apply onRefresh_stays | apply onInv_stays
    | apply setReg_stays | apply onDoorbell_stays | apply onKill_stays | apply onPbinv_stays | apply cewRestart_stays
    | apply onFlush_stays | apply onTgenCtl_stays | apply onLnkCtl_stays | apply onMeldDesc_stays | apply onInval_stays
    | apply onWanCtl_stays | apply onIp6Lo_stays | apply openFelvar_stays | apply stager_stays | apply onLoad_stays
    | apply pairCtl_stays | apply onPairElim_stays | apply onTimeCtl_stays | apply onTimeStep_stays | apply onDetStrict_stays
    | apply onReplayOff_stays | apply onDetTw_stays | apply onTwinRelease_stays | apply onCkpCut_stays | apply onDray_stays
    | apply onRst_stays | apply withdraw_stays | apply updRec_stays | apply reportLoss_stays | apply onPwrCtl_stays
    | apply onRclk_stays | apply traceGo_stays | apply traceStop_stays | apply onRetrain_stays | apply onRwCmd_stays | intro _
    | (simp only [stays_mk]; refine stays_core ?_) | split | dsimp only)

theorem bootWrite_stays {b₀ : State} {s : State} {p : Path} {q : RegSpec} {i old v m : Nat} (hs : b₀.stays s) :
    b₀.stays (State.bootWrite s p q i old v m) := by
  unfold State.bootWrite
  with_reducible repeat' (first
    | assumption | apply stays_ite | apply setReg_stays | apply onSvnup_stays | apply bootRefused_stays | apply deviceReset_stays
    | apply onRload_stays | apply onKekctl_stays | intro _)

theorem ownWrite_stays {b₀ s : State} {d : Nat} {r : Reg} {i new : Nat} (hs : b₀.stays s) :
    b₀.opts (State.ownWrite s d r i new) := by
  unfold State.ownWrite
  with_reducible repeat' (first
    | assumption | apply stays_ite | apply onCtxBase_stays | apply onBqCtl_stays | apply onCarve_stays | apply onOwn_stays
    | apply onCwin_stays | apply onWw_stays | apply onWm_stays | apply raise_stays | apply opts_some | apply opts_none | apply opts_ite
    | intro _)

theorem regWrite_stays {b₀ s : State} {p : Path} {a : CsrAt} {v m : Nat} (hs : b₀.stays s) :
    b₀.opts (State.regWrite s p a v m) := by
  unfold State.regWrite
  with_reducible repeat' (first
    | assumption | refine stays_of_some (by assumption) ?_ | apply stays_ite | apply bootWrite_stays | apply ownWrite_stays
    | apply setReg_stays | apply written_stays | apply opts_some | apply opts_none | apply opts_ite | intro _
    | (simp only [stays_mk]; refine stays_core ?_) | split)

/-! ## Access -/

theorem partsRead_stays {b₀ : State} {x0 : List (CsrAt × Nat × Nat)} {x1 : State} (hx1 : b₀.stays x1) :
    b₀.stays (State.partsRead x0 x1).2 := by
  induction x0 generalizing x1 with
  | nil =>
    unfold State.partsRead
    with_reducible repeat' (first
      | assumption)
  | cons y ys ih =>
    unfold State.partsRead
    with_reducible repeat' (first
      | apply ih | assumption | apply clearRead_stays)

theorem partsWrite_stays {b₀ : State} {p : Path} {x0 : List (CsrAt × Nat × Nat)} {x1 : Nat} {x2 : State} (hx2 : b₀.stays x2) :
    b₀.opts (State.partsWrite p x0 x1 x2) := by
  induction x0 generalizing x1 x2 with
  | nil =>
    unfold State.partsWrite
    with_reducible repeat' (first
      | assumption | refine stays_of_some (by assumption) ?_ | apply regWrite_stays | apply opts_some)
  | cons y ys ih =>
    unfold State.partsWrite
    with_reducible repeat' (first
      | apply ih | assumption | refine stays_of_some (by assumption) ?_ | apply regWrite_stays | apply opts_some | apply opts_none
      | apply opts_bind)

theorem latchRead_stays {b₀ s : State} {p : Path} {pa width : Nat} {l : List (CsrAt × Nat × Nat)} (hs : b₀.stays s) :
    b₀.stays (State.latchRead s p pa width l).2 := by
  unfold State.latchRead
  with_reducible repeat' (first
    | assumption | refine stays_of_snd (by assumption) ?_ | apply stays_ite | apply stays_ite2 | apply partsRead_stays | intro _
    | (simp only [stays_mk]; refine stays_core ?_) | split)

theorem rwDenied_stays {b₀ s : State} {pa : Nat} (hs : b₀.stays s) :
    b₀.stays (State.rwDenied s pa) := by
  unfold State.rwDenied
  with_reducible repeat' (first
    | assumption | apply raise_stays)

theorem misaccess_stays {b₀ s : State} {p : Path} {code pa : Nat} (hs : b₀.stays s) :
    b₀.stays (State.misaccess s p code pa) := by
  unfold State.misaccess
  with_reducible repeat' (first
    | assumption | apply raise_stays)

theorem readCross_stays {b₀ : State} {s : State} {pa : Nat} (hs : b₀.stays s) :
    b₀.stays (State.readCross s pa) := by
  unfold State.readCross
  with_reducible repeat' (first
    | assumption | apply stays_ite | apply tally_stays | intro _)

theorem writeCross_stays {b₀ : State} {s : State} {pa : Nat} (hs : b₀.stays s) :
    b₀.stays (State.writeCross s pa) := by
  unfold State.writeCross
  with_reducible repeat' (first
    | assumption | apply stays_ite | apply tally_stays | intro _)

theorem pathRead_stays {b₀ : State} {s : State} {p : Path} {pa width : Nat} (hs : b₀.stays s) :
    b₀.stays (State.pathRead s p pa width).2 := by
  unfold State.pathRead
  with_reducible repeat' (first
    | assumption | refine stays_of_snd (by assumption) ?_ | apply stays_ite | apply stays_ite2 | apply misaccess_stays
    | apply rwDenied_stays | apply drew_stays | apply readCross_stays | apply latchRead_stays | intro _ | split | dsimp only)

theorem touchWrite_stays {b₀ : State} {s : State} {p : Path} {pa v : Nat} {l : List (CsrAt × Nat × Nat)} (hs : b₀.stays s) :
    b₀.stays (State.touchWrite s p pa v l) := by
  unfold State.touchWrite
  with_reducible repeat' (first
    | assumption | refine stays_of_some (by assumption) ?_ | apply partsWrite_stays | apply misaccess_stays | intro _ | split
    | dsimp only)

theorem pathWrite_stays {b₀ : State} {s : State} {p : Path} {pa width v : Nat} (hs : b₀.stays s) :
    b₀.stays (State.pathWrite s p pa width v) := by
  unfold State.pathWrite
  with_reducible repeat' (first
    | assumption | apply stays_ite | apply misaccess_stays | apply rwDenied_stays | apply count32_stays | apply writeCross_stays
    | apply touchWrite_stays | intro _ | split | dsimp only)

theorem loaderWrite_stays {b₀ s : State} {pa width v : Nat} (hs : b₀.stays s) :
    b₀.opts (State.loaderWrite s pa width v) := by
  unfold State.loaderWrite
  with_reducible repeat' (first
    | assumption | apply partsWrite_stays | apply opts_some | apply opts_none | apply opts_bind | apply opts_bind_any | intro _)

theorem hostQueue_stays {b₀ : State} {s : State} {q : HostReq} (hs : b₀.stays s) :
    b₀.stays (State.hostQueue s q) := by
  unfold State.hostQueue
  with_reducible repeat' (first
    | assumption | intro _ | (simp only [stays_mk]; refine stays_core ?_))

theorem pathQueue_stays {b₀ : State} {s : State} {q : PathReq} (hs : b₀.stays s) :
    b₀.stays (State.pathQueue s q) := by
  unfold State.pathQueue
  with_reducible repeat' (first
    | assumption | apply stays_ite | apply hostQueue_stays | intro _ | (simp only [stays_mk]; refine stays_core ?_))

theorem readServe_stays {b₀ : State} {s : State} {p : Path} {pa width : Nat} (hs : b₀.stays s) :
    b₀.stays (State.readServe s p pa width) := by
  unfold State.readServe
  with_reducible repeat' (first
    | assumption | apply stays_ite | apply stays_ite2 | apply pathRead_stays | apply emit_stays | apply tally_stays | intro _)

theorem readOut_stays {b₀ : State} {s : State} {p : Path} {pa width : Nat} (hs : b₀.stays s) :
    b₀.stays (State.readOut s p pa width) := by
  unfold State.readOut
  with_reducible repeat' (first
    | assumption | apply stays_ite | apply pathQueue_stays | apply readServe_stays | intro _)

theorem writeServe_stays {b₀ : State} {s : State} {p : Path} {pa width v : Nat} (hs : b₀.stays s) :
    b₀.stays (State.writeServe s p pa width v) := by
  unfold State.writeServe
  with_reducible repeat' (first
    | assumption | apply stays_ite | apply pathQueue_stays | apply pathWrite_stays | intro _)

theorem writeIn_stays {b₀ : State} {s : State} {p : Path} {pa width v : Nat} (hs : b₀.stays s) :
    b₀.stays (State.writeIn s p pa width v) := by
  unfold State.writeIn
  with_reducible repeat' (first
    | assumption | apply stays_ite | apply writeServe_stays | apply tally_stays | intro _)

theorem regIn_stays {b₀ s : State} {p : Path} {d : Nat} {r : Reg} {v i : Nat} (hs : b₀.stays s) :
    b₀.stays (State.regIn s p d r v i) := by
  unfold State.regIn
  with_reducible repeat' (first
    | assumption | apply writeIn_stays)

theorem execCsrWrite_stays {b₀ : State} {path : Path} {pa width value : Nat} {s : State} (hs : b₀.stays s) :
    b₀.outs (execCsrWrite path pa width value s) := by
  unfold execCsrWrite
  with_reducible repeat' (first
    | assumption | apply writeIn_stays | apply outs_next)

theorem execRcRead_stays {b₀ : State} {path : Path} {pa width : Nat} {s : State} (hs : b₀.stays s) :
    b₀.outs (execRcRead path pa width s) := by
  unfold execRcRead
  with_reducible repeat' (first
    | assumption | apply readOut_stays | apply outs_next)

theorem execCounterLowRead_stays {b₀ : State} {path : Path} {pa : Nat} {s : State} (hs : b₀.stays s) :
    b₀.outs (execCounterLowRead path pa s) := by
  unfold execCounterLowRead
  with_reducible repeat' (first
    | assumption | apply readOut_stays | apply outs_next)

theorem execBar0Read_stays {b₀ : State} {off len : Nat} {s : State} (hs : b₀.stays s) :
    b₀.outs (execBar0Read off len s) := by
  unfold execBar0Read
  with_reducible repeat' (first
    | assumption | apply stays_ite | apply readOut_stays | apply outs_next)

theorem execFirstRecordClear_stays {b₀ : State} {path : Path} {pa : Nat} {s : State} (hs : b₀.stays s) :
    b₀.outs (execFirstRecordClear path pa s) := by
  unfold execFirstRecordClear
  with_reducible repeat' (first
    | assumption | apply writeIn_stays | apply outs_next)

theorem execDetStrictWrite_stays {b₀ : State} {path : Path} {value : Nat} {s : State} (hs : b₀.stays s) :
    b₀.outs (execDetStrictWrite path value s) := by
  unfold execDetStrictWrite
  with_reducible repeat' (first
    | assumption | apply regIn_stays | apply outs_next)

theorem execBqCtlWrite_stays {b₀ : State} {path : Path} {d : Fin 2} {j : Fin 64} {value : Nat} {s : State} (hs : b₀.stays s) :
    b₀.outs (execBqCtlWrite path d j value s) := by
  unfold execBqCtlWrite
  with_reducible repeat' (first
    | assumption | apply regIn_stays | apply outs_next)

theorem execFreezeLimWrite_stays {b₀ : State} {path : Path} {d : Fin 2} {value : Nat} {frozen : List (Fin 256)} {s : State} (hs : b₀.stays s) :
    b₀.outs (execFreezeLimWrite path d value frozen s) := by
  unfold execFreezeLimWrite
  with_reducible repeat' (first
    | assumption | apply stays_foldl | apply stays_foldl1 | apply stays_foldl2 | apply regIn_stays | apply freezeEvent_stays
    | apply outs_next | intro _)

theorem execDoorbell_stays {b₀ : State} {path : Path} {d : Fin 2} {value : Nat} {s : State} (hs : b₀.stays s) :
    b₀.outs (execDoorbell path d value s) := by
  unfold execDoorbell
  with_reducible repeat' (first
    | assumption | apply regIn_stays | apply outs_next)

theorem execKill_stays {b₀ : State} {path : Path} {d : Fin 2} {value : Nat} {s : State} (hs : b₀.stays s) :
    b₀.outs (execKill path d value s) := by
  unfold execKill
  with_reducible repeat' (first
    | assumption | apply regIn_stays | apply outs_next)

theorem execPbinv_stays {b₀ : State} {path : Path} {d : Fin 2} {value : Nat} {s : State} (hs : b₀.stays s) :
    b₀.outs (execPbinv path d value s) := by
  unfold execPbinv
  with_reducible repeat' (first
    | assumption | apply regIn_stays | apply outs_next)

theorem execCarveWrite_stays {b₀ : State} {path : Path} {d : Fin 2} {size : Fin 8} {s : State} (hs : b₀.stays s) :
    b₀.outs (execCarveWrite path d size s) := by
  unfold execCarveWrite
  with_reducible repeat' (first
    | assumption | apply regIn_stays | apply outs_next)

theorem execBridgeRetrainCmd_stays {b₀ : State} {path : Path} {d : Fin 2} {s : State} (hs : b₀.stays s) :
    b₀.outs (execBridgeRetrainCmd path d s) := by
  unfold execBridgeRetrainCmd
  with_reducible repeat' (first
    | assumption | apply regIn_stays | apply outs_next)

theorem execCwinWrite_stays {b₀ : State} {path : Path} {n : Fin 8} {value : Nat} {s : State} (hs : b₀.stays s) :
    b₀.outs (execCwinWrite path n value s) := by
  unfold execCwinWrite
  with_reducible repeat' (first
    | assumption | apply regIn_stays | apply outs_next)

theorem execHbmOwnWrite_stays {b₀ : State} {path : Path} {d : Fin 2} {own : Fin 16} {s : State} (hs : b₀.stays s) :
    b₀.outs (execHbmOwnWrite path d own s) := by
  unfold execHbmOwnWrite
  with_reducible repeat' (first
    | assumption | apply regIn_stays | apply outs_next)

theorem execTgenGo_stays {b₀ : State} {path : Path} {d : Fin 2} {value : Nat} {s : State} (hs : b₀.stays s) :
    b₀.outs (execTgenGo path d value s) := by
  unfold execTgenGo
  with_reducible repeat' (first
    | assumption | apply regIn_stays | apply outs_next)

theorem execTgenStop_stays {b₀ : State} {path : Path} {d : Fin 2} {value : Nat} {s : State} (hs : b₀.stays s) :
    b₀.outs (execTgenStop path d value s) := by
  unfold execTgenStop
  with_reducible repeat' (first
    | assumption | apply regIn_stays | apply outs_next)

theorem execReadRow_stays {b₀ : State} {path : Path} {s : State} (hs : b₀.stays s) :
    b₀.outs (execReadRow path s) := by
  unfold execReadRow
  with_reducible repeat' (first
    | assumption | apply regIn_stays | apply outs_next)

theorem execWriteRow_stays {b₀ : State} {path : Path} {s : State} (hs : b₀.stays s) :
    b₀.outs (execWriteRow path s) := by
  unfold execWriteRow
  with_reducible repeat' (first
    | assumption | apply regIn_stays | apply outs_next)

theorem execSoftRepair_stays {b₀ : State} {path : Path} {s : State} (hs : b₀.stays s) :
    b₀.outs (execSoftRepair path s) := by
  unfold execSoftRepair
  with_reducible repeat' (first
    | assumption | apply regIn_stays | apply outs_next)

theorem execHardRepair_stays {b₀ : State} {path : Path} {key : Fin 65536} {s : State} (hs : b₀.stays s) :
    b₀.outs (execHardRepair path key s) := by
  unfold execHardRepair
  with_reducible repeat' (first
    | assumption | apply regIn_stays | apply outs_next)

theorem execClearSoft_stays {b₀ : State} {path : Path} {s : State} (hs : b₀.stays s) :
    b₀.outs (execClearSoft path s) := by
  unfold execClearSoft
  with_reducible repeat' (first
    | assumption | apply regIn_stays | apply outs_next)

theorem execSpareQuery_stays {b₀ : State} {path : Path} {s : State} (hs : b₀.stays s) :
    b₀.outs (execSpareQuery path s) := by
  unfold execSpareQuery
  with_reducible repeat' (first
    | assumption | apply regIn_stays | apply outs_next)

theorem execHcacheFlush_stays {b₀ : State} {path : Path} {d : Fin 2} {s : State} (hs : b₀.stays s) :
    b₀.outs (execHcacheFlush path d s) := by
  unfold execHcacheFlush
  with_reducible repeat' (first
    | assumption | apply regIn_stays | apply outs_next)

theorem execCtxRefresh_stays {b₀ : State} {path : Path} {c : Fin 4096} {s : State} (hs : b₀.stays s) :
    b₀.outs (execCtxRefresh path c s) := by
  unfold execCtxRefresh
  with_reducible repeat' (first
    | assumption | apply regIn_stays | apply outs_next)

theorem execCtxDrop_stays {b₀ : State} {path : Path} {en : Bool} {s : State} (hs : b₀.stays s) :
    b₀.outs (execCtxDrop path en s) := by
  unfold execCtxDrop
  with_reducible repeat' (first
    | assumption | apply regIn_stays | apply outs_next)

theorem execCtxBaseWrite_stays {b₀ : State} {path : Path} {value : Nat} {s : State} (hs : b₀.stays s) :
    b₀.outs (execCtxBaseWrite path value s) := by
  unfold execCtxBaseWrite
  with_reducible repeat' (first
    | assumption | apply regIn_stays | apply outs_next)

theorem execMmuInv_stays {b₀ : State} {path : Path} {d : Fin 2} {value : Nat} {s : State} (hs : b₀.stays s) :
    b₀.outs (execMmuInv path d value s) := by
  unfold execMmuInv
  with_reducible repeat' (first
    | assumption | apply regIn_stays | apply outs_next)

theorem execLnkCtlWrite_stays {b₀ : State} {path : Path} {d : Fin 2} {value : Nat} {s : State} (hs : b₀.stays s) :
    b₀.outs (execLnkCtlWrite path d value s) := by
  unfold execLnkCtlWrite
  with_reducible repeat' (first
    | assumption | apply regIn_stays | apply outs_next)

theorem execMeldEnable_stays {b₀ : State} {path : Path} {j : Fin 4} {value : Nat} {s : State} (hs : b₀.stays s) :
    b₀.outs (execMeldEnable path j value s) := by
  unfold execMeldEnable
  with_reducible repeat' (first
    | assumption | apply regIn_stays | apply outs_next)

theorem execMeldDisable_stays {b₀ : State} {path : Path} {j : Fin 4} {value : Nat} {s : State} (hs : b₀.stays s) :
    b₀.outs (execMeldDisable path j value s) := by
  unfold execMeldDisable
  with_reducible repeat' (first
    | assumption | apply regIn_stays | apply outs_next)

theorem execCodecWwWrite_stays {b₀ : State} {path : Path} {d : Fin 2} {n : Fin 8} {value : Nat} {s : State} (hs : b₀.stays s) :
    b₀.outs (execCodecWwWrite path d n value s) := by
  unfold execCodecWwWrite
  with_reducible repeat' (first
    | assumption | apply regIn_stays | apply outs_next)

theorem execCodecWmWrite_stays {b₀ : State} {path : Path} {d : Fin 2} {n : Fin 8} {value : Nat} {s : State} (hs : b₀.stays s) :
    b₀.outs (execCodecWmWrite path d n value s) := by
  unfold execCodecWmWrite
  with_reducible repeat' (first
    | assumption | apply regIn_stays | apply outs_next)

theorem execCodecInval_stays {b₀ : State} {path : Path} {d : Fin 2} {s : State} (hs : b₀.stays s) :
    b₀.outs (execCodecInval path d s) := by
  unfold execCodecInval
  with_reducible repeat' (first
    | assumption | apply regIn_stays | apply outs_next)

theorem execWanCtlWrite_stays {b₀ : State} {path : Path} {d : Fin 2} {value : Nat} {s : State} (hs : b₀.stays s) :
    b₀.outs (execWanCtlWrite path d value s) := by
  unfold execWanCtlWrite
  with_reducible repeat' (first
    | assumption | apply regIn_stays | apply outs_next)

theorem execWanIp6LoWrite_stays {b₀ : State} {path : Path} {d : Fin 2} {value : Nat} {s : State} (hs : b₀.stays s) :
    b₀.outs (execWanIp6LoWrite path d value s) := by
  unfold execWanIp6LoWrite
  with_reducible repeat' (first
    | assumption | apply regIn_stays | apply outs_next)

theorem execPairSecretLoad_stays {b₀ : State} {path : Path} {d : Fin 2} {value : Nat} {s : State} (hs : b₀.stays s) :
    b₀.outs (execPairSecretLoad path d value s) := by
  unfold execPairSecretLoad
  with_reducible repeat' (first
    | assumption | apply regIn_stays | apply outs_next)

theorem execPairRoll_stays {b₀ : State} {path : Path} {d : Fin 2} {n : Fin 64} {gen : Fin 256} {s : State} (hs : b₀.stays s) :
    b₀.outs (execPairRoll path d n gen s) := by
  unfold execPairRoll
  with_reducible repeat' (first
    | assumption | apply regIn_stays | apply outs_next)

theorem execPairUse_stays {b₀ : State} {path : Path} {d : Fin 2} {n : Fin 64} {gen : Fin 256} {s : State} (hs : b₀.stays s) :
    b₀.outs (execPairUse path d n gen s) := by
  unfold execPairUse
  with_reducible repeat' (first
    | assumption | apply regIn_stays | apply outs_next)

theorem execPairDropold_stays {b₀ : State} {path : Path} {d : Fin 2} {n : Fin 64} {gen : Fin 256} {s : State} (hs : b₀.stays s) :
    b₀.outs (execPairDropold path d n gen s) := by
  unfold execPairDropold
  with_reducible repeat' (first
    | assumption | apply regIn_stays | apply outs_next)

theorem execPairElimWrite_stays {b₀ : State} {path : Path} {d : Fin 2} {n : Fin 64} {elim : Nat} {s : State} (hs : b₀.stays s) :
    b₀.outs (execPairElimWrite path d n elim s) := by
  unfold execPairElimWrite
  with_reducible repeat' (first
    | assumption | apply regIn_stays | apply outs_next)

theorem execTimeStep_stays {b₀ : State} {path : Path} {delta : Nat} {s : State} (hs : b₀.stays s) :
    b₀.outs (execTimeStep path delta s) := by
  unfold execTimeStep
  with_reducible repeat' (first
    | assumption | apply regIn_stays | apply outs_next)

theorem execTimeCtlWrite_stays {b₀ : State} {path : Path} {value : Nat} {s : State} (hs : b₀.stays s) :
    b₀.outs (execTimeCtlWrite path value s) := by
  unfold execTimeCtlWrite
  with_reducible repeat' (first
    | assumption | apply regIn_stays | apply outs_next)

theorem execTwinRelease_stays {b₀ : State} {path : Path} {s : State} (hs : b₀.stays s) :
    b₀.outs (execTwinRelease path s) := by
  unfold execTwinRelease
  with_reducible repeat' (first
    | assumption | apply regIn_stays | apply outs_next)

theorem execReplayRelease_stays {b₀ : State} {path : Path} {value : Nat} {s : State} (hs : b₀.stays s) :
    b₀.outs (execReplayRelease path value s) := by
  unfold execReplayRelease
  with_reducible repeat' (first
    | assumption | apply regIn_stays | apply outs_next)

theorem execCkpCut_stays {b₀ : State} {path : Path} {d : Fin 2} {value : Nat} {s : State} (hs : b₀.stays s) :
    b₀.outs (execCkpCut path d value s) := by
  unfold execCkpCut
  with_reducible repeat' (first
    | assumption | apply regIn_stays | apply outs_next)

theorem execDrainStart_stays {b₀ : State} {path : Path} {d : Fin 2} {value : Nat} {s : State} (hs : b₀.stays s) :
    b₀.outs (execDrainStart path d value s) := by
  unfold execDrainStart
  with_reducible repeat' (first
    | assumption | apply regIn_stays | apply outs_next)

theorem execRestore_stays {b₀ : State} {path : Path} {d : Fin 2} {value : Nat} {s : State} (hs : b₀.stays s) :
    b₀.outs (execRestore path d value s) := by
  unfold execRestore
  with_reducible repeat' (first
    | assumption | apply regIn_stays | apply outs_next)

theorem execRecoveryLoad_stays {b₀ : State} {path : Path} {key : Fin 65536} {s : State} (hs : b₀.stays s) :
    b₀.outs (execRecoveryLoad path key s) := by
  unfold execRecoveryLoad
  with_reducible repeat' (first
    | assumption | apply regIn_stays | apply outs_next)

theorem execReload_stays {b₀ : State} {path : Path} {key : Fin 65536} {s : State} (hs : b₀.stays s) :
    b₀.outs (execReload path key s) := by
  unfold execReload
  with_reducible repeat' (first
    | assumption | apply regIn_stays | apply outs_next)

theorem execSvnRaise_stays {b₀ : State} {path : Path} {key : Fin 65536} {s : State} (hs : b₀.stays s) :
    b₀.outs (execSvnRaise path key s) := by
  unfold execSvnRaise
  with_reducible repeat' (first
    | assumption | apply regIn_stays | apply outs_next)

theorem execKekBurn_stays {b₀ : State} {path : Path} {key : Fin 65536} {s : State} (hs : b₀.stays s) :
    b₀.outs (execKekBurn path key s) := by
  unfold execKekBurn
  with_reducible repeat' (first
    | assumption | apply regIn_stays | apply outs_next)

theorem execDbgDisable_stays {b₀ : State} {path : Path} {s : State} (hs : b₀.stays s) :
    b₀.outs (execDbgDisable path s) := by
  unfold execDbgDisable
  with_reducible repeat' (first
    | assumption | apply regIn_stays | apply outs_next)

theorem execTraceGo_stays {b₀ : State} {path : Path} {value : Nat} {s : State} (hs : b₀.stays s) :
    b₀.outs (execTraceGo path value s) := by
  unfold execTraceGo
  with_reducible repeat' (first
    | assumption | apply regIn_stays | apply outs_next)

theorem execTraceStop_stays {b₀ : State} {path : Path} {value : Nat} {s : State} (hs : b₀.stays s) :
    b₀.outs (execTraceStop path value s) := by
  unfold execTraceStop
  with_reducible repeat' (first
    | assumption | apply regIn_stays | apply outs_next)

theorem execDvfsRequest_stays {b₀ : State} {path : Path} {r : Fin 16} {req : Fin 64} {s : State} (hs : b₀.stays s) :
    b₀.outs (execDvfsRequest path r req s) := by
  unfold execDvfsRequest
  with_reducible repeat' (first
    | assumption | apply regIn_stays | apply outs_next)

theorem execPwrCtlWrite_stays {b₀ : State} {path : Path} {value : Nat} {s : State} (hs : b₀.stays s) :
    b₀.outs (execPwrCtlWrite path value s) := by
  unfold execPwrCtlWrite
  with_reducible repeat' (first
    | assumption | apply regIn_stays | apply outs_next)

theorem pathResume_stays {b₀ : State} {s : State} (hs : b₀.stays s) :
    b₀.stays (State.pathResume s) := by
  unfold State.pathResume
  with_reducible repeat' (first
    | assumption | apply stays_ite | apply stays_foldl | apply stays_foldl1 | apply stays_foldl2 | apply writeServe_stays
    | apply pathQueue_stays | apply readServe_stays | intro _ | (simp only [stays_mk]; refine stays_core ?_) | split | dsimp only)

theorem execBridgeRetrainDone_stays {b₀ : State} {ok : Bool} {s : State} (hs : b₀.stays s) :
    b₀.outs (execBridgeRetrainDone ok s) := by
  unfold execBridgeRetrainDone
  with_reducible repeat' (first
    | assumption | apply stays_ite | apply bridgeTrained_stays | apply pathResume_stays | apply trainEnds_stays
    | apply bridgeFalls_stays | apply setBoth_stays | apply outs_next | apply outs_fault | apply outs_ite | intro _)

/-! ## HandRun -/

theorem handReturns_stays {b₀ : State} {s : State} {c : Nat} {h : Hand} (hs : b₀.stays s) :
    b₀.stays (State.handReturns s c h) := by
  unfold State.handReturns
  with_reducible repeat' (first
    | assumption | apply stays_ite | apply stays_foldl | apply stays_foldl1 | apply stays_foldl2 | apply sendPoisoned_stays
    | apply updSlot_stays | apply twinSend_stays | intro _ | (simp only [stays_mk]; refine stays_core ?_))

theorem handBegins_stays {b₀ : State} {s : State} {c : Nat} {h : Hand} (hs : b₀.stays s) :
    b₀.stays (State.handBegins s c h) := by
  unfold State.handBegins
  with_reducible repeat' (first
    | assumption | apply setFld_stays | apply updCl_stays | apply written_stays | intro _
    | (simp only [stays_mk]; refine stays_core ?_))

theorem execHandStart_stays {b₀ : State} {c : Fin 128} {s : State} (hs : b₀.stays s) :
    b₀.outs (execHandStart c s) := by
  unfold execHandStart
  with_reducible repeat' (first
    | assumption | apply stays_ite | apply updCl_stays | apply handReturns_stays | apply handBegins_stays | apply outs_next
    | apply outs_ite | intro _ | (simp only [stays_mk]; refine stays_core ?_) | split | dsimp only)

theorem loadChain_stays {b₀ s : State} {c : Nat} {h : Hand} {va : Nat} (hs : b₀.stays s) :
    b₀.stays (State.loadChain s c h va) := by
  unfold State.loadChain
  with_reducible repeat' (first
    | assumption | refine stays_of_fst (by assumption) ?_ | apply translate_stays | apply read_stays | apply faultHand_stays
    | apply updCl_stays | intro _ | (simp only [stays_mk]; refine stays_core ?_) | split | dsimp only)

theorem execChainSetLoad_stays {b₀ : State} {c : Fin 128} {s : State} (hs : b₀.stays s) :
    b₀.outs (execChainSetLoad c s) := by
  unfold execChainSetLoad
  with_reducible repeat' (first
    | assumption | apply stays_ite | apply loadChain_stays | apply outs_next | apply outs_ite | intro _
    | (simp only [stays_mk]; refine stays_core ?_) | split | dsimp only)

theorem execHandComplete_stays {b₀ : State} {c : Fin 128} {s : State} (hs : b₀.stays s) :
    b₀.outs (execHandComplete c s) := by
  unfold execHandComplete
  with_reducible repeat' (first
    | assumption | apply stays_ite | apply stays_foldl | apply stays_foldl1 | apply stays_foldl2 | apply updCl_stays
    | apply written_stays | apply sramWrite_stays | apply memResume_stays | apply handReturns_stays | apply outs_next
    | apply outs_fault | apply outs_ite | intro _ | (simp only [stays_mk]; refine stays_core ?_) | split | dsimp only)

theorem engineClock_stays {b₀ s : State} {c : Nat} (hs : b₀.stays s) :
    b₀.stays (State.engineClock s c) := by
  unfold State.engineClock
  with_reducible repeat' (first
    | assumption | apply stays_getD | apply updCached_stays | apply updCtx_stays | intro _ | (simp only [stays_mk]; refine stays_core ?_)
    | split)

/-! ## DigestUnit -/

theorem digestPieces_stays {b₀ s : State} {r ctx va n : Nat} (hs : b₀.stays s) :
    b₀.stays (State.digestPieces s r ctx va n).1 := by
  unfold State.digestPieces
  with_reducible repeat' (first
    | assumption | apply translateRange_stays)

theorem digestRow_stays {b₀ : State} {ctx r : Nat} {x : Tile} {q : DigestRead} {row : Nat × Nat × Nat} (hq : b₀.stays q.1) :
    b₀.stays (State.digestRow ctx r x q row).1 := by
  unfold State.digestRow
  with_reducible repeat' (first
    | assumption | refine stays_of_fst (by assumption) ?_ | apply digestPieces_stays | apply readPieces_stays | intro _
    | (simp only [stays_mk]; refine stays_core ?_) | split | dsimp only)

theorem digestScale_stays {b₀ : State} {ctx r : Nat} {x : Tile} {q : DigestRead} {c : List Nat} (hq : b₀.stays q.1) :
    b₀.stays (State.digestScale ctx r x q c).1 := by
  unfold State.digestScale
  with_reducible repeat' (first
    | assumption | refine stays_of_fst (by assumption) ?_ | apply digestPieces_stays | apply readPieces_stays | intro _
    | (simp only [stays_mk]; refine stays_core ?_) | split | dsimp only)

theorem digestStream_stays {b₀ s : State} {r ctx : Nat} {x : Tile} (hs : b₀.stays s) :
    b₀.stays (State.digestStream s r ctx x).1 := by
  unfold State.digestStream
  with_reducible repeat' (first
    | assumption | apply stays_ite | apply stays_ite1 | apply stays_foldl | apply stays_foldl1 | apply stays_foldl2
    | apply digestRow_stays | apply digestScale_stays | intro _)

theorem queueDigest_stays {b₀ s : State} {r k kind : Nat} {bytes : List Byte} (hs : b₀.stays s) :
    b₀.stays (State.queueDigest s r k kind bytes) := by
  unfold State.queueDigest
  with_reducible repeat' (first
    | assumption | apply stays_ite | apply updRg_stays)

theorem digestTensor_stays {b₀ s : State} {r k kind : Nat} {t : DigestTask} {v : List Nat} (hs : b₀.stays s) :
    b₀.stays (State.digestTensor s r k kind t v) := by
  unfold State.digestTensor
  with_reducible repeat' (first
    | assumption | apply stays_ite | apply stays_ite1 | apply tally_stays | apply queueDigest_stays | apply drew_stays
    | apply digestStream_stays | intro _)

theorem updTask_stays {b₀ s : State} {r k n : Nat} {f : DigestTask → DigestTask} (hs : b₀.stays s) :
    b₀.stays (State.updTask s r k n f) := by
  unfold State.updTask
  with_reducible repeat' (first
    | assumption | apply updSlot_stays)

theorem execDigestDone_stays {b₀ : State} {r : Fin 16} {k : Fin 4} {n : Nat} {s : State} (hs : b₀.stays s) :
    b₀.outs (execDigestDone r k n s) := by
  unfold execDigestDone
  with_reducible repeat' (first
    | assumption | apply stays_ite | apply digestTensor_stays | apply updTask_stays | apply queueDigest_stays | apply updSlot_stays
    | apply outs_next | apply outs_ite | intro _ | (simp only [stays_mk]; refine stays_core ?_) | split | dsimp only)

theorem execDigestRecordWrite_stays {b₀ : State} {r : Fin 16} {s : State} (hs : b₀.stays s) :
    b₀.outs (execDigestRecordWrite r s) := by
  unfold execDigestRecordWrite
  with_reducible repeat' (first
    | assumption | apply stays_ite | apply writeRaw_stays | apply updRg_stays | apply setFld_stays | apply tally_stays | apply outs_next
    | apply outs_ite | intro _ | (simp only [stays_mk]; refine stays_core ?_) | split)

theorem digestClock_stays {b₀ s : State} {r : Nat} (hs : b₀.stays s) :
    b₀.stays (State.digestClock s r) := by
  unfold State.digestClock
  with_reducible repeat' (first
    | assumption | apply stays_ite | apply tally_stays | intro _)

/-! ## Complete -/

theorem writeRecord_stays {b₀ : State} {s : State} {r k : Nat} (hs : b₀.stays s) :
    b₀.stays (State.writeRecord s r k) := by
  unfold State.writeRecord
  with_reducible repeat' (first
    | assumption | refine stays_of_fst (by assumption) ?_ | apply translate_stays | apply writeRaw_stays | intro _ | split
    | dsimp only)

theorem countDone_stays {b₀ : State} {s : State} {r c : Nat} (hs : b₀.stays s) :
    b₀.stays (State.countDone s r c) := by
  unfold State.countDone
  with_reducible repeat' (first
    | assumption | apply read_stays | apply writeRaw_stays | intro _)

theorem execItemComplete_stays {b₀ : State} {r : Fin 16} {k : Fin 4} {s : State} (hs : b₀.stays s) :
    b₀.outs (execItemComplete r k s) := by
  unfold execItemComplete
  with_reducible repeat' (first
    | assumption | apply stays_ite | apply writeRecord_stays | apply countDone_stays | apply tally_stays | apply msixRaise_stays
    | apply updSlot_stays | apply outs_next | apply outs_ite | intro _)

theorem walkFault_stays {b₀ s : State} {d c : Nat} {w : WalkWaiter} {f : XFault} (hs : b₀.stays s) :
    b₀.stays (State.walkFault s d c w f) := by
  unfold State.walkFault
  with_reducible repeat' (first
    | assumption | apply stays_ite | apply xfault_stays | apply collFault_stays | apply faultHand_stays | apply itemFault_stays | intro _
    | (simp only [stays_mk]; refine stays_core ?_) | split | dsimp only)

theorem State_walkStep_stays {b₀ : State} {d n : Nat} {w : Walk} {r : State × WalkOut} (hr : b₀.stays r.1) :
    b₀.stays (State.walkStep d n w r) := by
  unfold State.walkStep
  with_reducible repeat' (first
    | assumption | refine stays_of_fst (by assumption) ?_ | apply stays_foldl | apply stays_foldl1 | apply stays_foldl2
    | apply updCtx_stays | apply walkFault_stays | apply walkEnd_stays | intro _ | (simp only [stays_mk]; refine stays_core ?_) | split)

theorem execWalkReadReturn_stays {b₀ : State} {d : Fin 2} {n : Fin 8} {ecc : Ecc} {s : State} (hs : b₀.stays s) :
    b₀.outs (execWalkReadReturn d n ecc s) := by
  unfold execWalkReadReturn
  with_reducible repeat' (first
    | assumption | refine stays_of_fst (by assumption) ?_ | apply State_walkStep_stays | apply walkReturn_stays | apply outs_next
    | intro _ | (simp only [stays_mk]; refine stays_core ?_) | split)

/-! ## Load -/

theorem recFails_stays {b₀ s : State} {r : Rec} {cause : Nat} (hs : b₀.stays s) :
    b₀.stays (State.recFails s r cause) := by
  unfold State.recFails
  with_reducible repeat' (first
    | assumption | apply copyFails_stays)

theorem recDone_stays {b₀ s : State} {r : Rec} (hs : b₀.stays s) :
    b₀.stays (State.recDone s r) := by
  unfold State.recDone
  with_reducible repeat' (first
    | assumption | apply updBoot_stays)

theorem loadWrite_stays {b₀ s : State} {w : Nat × List Byte} (hs : b₀.stays s) :
    b₀.opts (State.loadWrite s w) := by
  unfold State.loadWrite
  with_reducible repeat' (first
    | assumption | apply stays_ite | apply loaderWrite_stays | apply writeRaw_stays | apply opts_some | apply opts_none | apply opts_ite
    | intro _)

theorem loadWrites_stays {b₀ : State} {x0 : List (Nat × List Byte)} {x1 : State} (hx1 : b₀.stays x1) :
    b₀.stays (State.loadWrites x0 x1).1 := by
  induction x0 generalizing x1 with
  | nil =>
    unfold State.loadWrites
    with_reducible repeat' (first
      | assumption)
  | cons y ys ih =>
    unfold State.loadWrites
    with_reducible repeat' (first
      | apply ih | assumption | refine stays_of_fst (by assumption) ?_ | refine stays_of_some (by assumption) ?_ | apply loadWrite_stays
      | intro _ | (simp only [stays_mk]; refine stays_core ?_) | split)

theorem runWrite_stays {b₀ s : State} {r : Rec} (hs : b₀.stays s) :
    b₀.stays (State.runWrite s r) := by
  unfold State.runWrite
  with_reducible repeat' (first
    | assumption | apply stays_ite | apply stays_ite1 | apply recFails_stays | apply loadWrites_stays | apply recDone_stays | intro _)

theorem writeRec_stays {b₀ s : State} {op : Nat} (hs : b₀.stays s) :
    b₀.stays (State.writeRec s op) := by
  unfold State.writeRec
  with_reducible repeat' (first
    | assumption | apply stays_ite | apply runWrite_stays | intro _)

theorem execWrite32_stays {b₀ s : State} (hs : b₀.stays s) :
    b₀.outs (execWrite32 s) := by
  unfold execWrite32
  with_reducible repeat' (first
    | assumption | apply writeRec_stays | apply outs_next)

theorem execWrite64_stays {b₀ s : State} (hs : b₀.stays s) :
    b₀.outs (execWrite64 s) := by
  unfold execWrite64
  with_reducible repeat' (first
    | assumption | apply writeRec_stays | apply outs_next)

theorem execFill_stays {b₀ s : State} (hs : b₀.stays s) :
    b₀.outs (execFill s) := by
  unfold execFill
  with_reducible repeat' (first
    | assumption | apply writeRec_stays | apply outs_next)

theorem execCopyToHbm_stays {b₀ s : State} (hs : b₀.stays s) :
    b₀.outs (execCopyToHbm s) := by
  unfold execCopyToHbm
  with_reducible repeat' (first
    | assumption | apply writeRec_stays | apply outs_next)

theorem waitRead_stays {b₀ : State} {s : State} {r : Rec} (hs : b₀.stays s) :
    b₀.opts2 (State.waitRead s r) := by
  unfold State.waitRead
  with_reducible repeat' (first
    | assumption | refine stays_of_some2 (by assumption) ?_ | apply stays_ite | apply stays_ite2 | apply stays_iterd
    | apply partsRead_stays | apply read_stays | apply opts2_some | apply opts2_none | apply opts2_ite | apply opts2_map | intro _)

theorem runWait_stays {b₀ s : State} {r : Rec} (hs : b₀.stays s) :
    b₀.stays (State.runWait s r) := by
  unfold State.runWait
  with_reducible repeat' (first
    | assumption | refine stays_of_some2 (by assumption) ?_ | apply stays_ite | apply recFails_stays | apply waitRead_stays
    | apply recDone_stays | intro _ | (simp only [stays_mk]; refine stays_core ?_) | split)

theorem execWaitBit_stays {b₀ s : State} (hs : b₀.stays s) :
    b₀.outs (execWaitBit s) := by
  unfold execWaitBit
  with_reducible repeat' (first
    | assumption | apply stays_ite | apply runWait_stays | apply outs_next | apply outs_ite | intro _)

theorem execWaitBitTimeout_stays {b₀ s : State} (hs : b₀.stays s) :
    b₀.outs (execWaitBitTimeout s) := by
  unfold execWaitBitTimeout
  with_reducible repeat' (first
    | assumption | apply stays_ite | apply recFails_stays | apply count32_stays | apply recDone_stays | apply outs_next | apply outs_ite
    | intro _)

theorem execRecordEnd_stays {b₀ s : State} (hs : b₀.stays s) :
    b₀.outs (execRecordEnd s) := by
  unfold execRecordEnd
  with_reducible repeat' (first
    | assumption | apply stays_ite | apply copyFails_stays | apply recFails_stays | apply setReg_stays | apply setFld_stays
    | apply setPhase_stays | apply outs_next | apply outs_ite | intro _)

/-! ## Host -/

theorem updHost_stays {b₀ s : State} {f : HostState → HostState} (hs : b₀.stays s) :
    b₀.stays (State.updHost s f) := by
  unfold State.updHost
  with_reducible repeat' (first
    | assumption | (simp only [stays_mk]; refine stays_core ?_))

theorem memRead_stays {b₀ : State} {s : State} {pa n : Nat} (hs : b₀.stays s) :
    b₀.stays (State.memRead s pa n).st := by
  unfold State.memRead
  with_reducible repeat' (first
    | assumption | apply stays_ite | apply stays_iterd | apply read_stays | intro _)

theorem memWrite_stays {b₀ s : State} {pa : Nat} {data : List Byte} (hs : b₀.stays s) :
    b₀.stays (State.memWrite s pa data) := by
  unfold State.memWrite
  with_reducible repeat' (first
    | assumption | apply stays_ite | apply writeRaw_stays | intro _)

theorem hostFault_stays {b₀ s : State} {code kind source addr : Nat} (hs : b₀.stays s) :
    b₀.stays (State.hostFault s code kind source addr) := by
  unfold State.hostFault
  with_reducible repeat' (first
    | assumption | apply stays_ite | apply recordFirst_stays | apply raise_stays)

theorem bar2Miss_stays {b₀ s : State} {pa : Nat} (hs : b₀.stays s) :
    b₀.stays (State.bar2Miss s pa) := by
  unfold State.bar2Miss
  with_reducible repeat' (first
    | assumption | apply stays_ite | apply hostFault_stays | intro _)

theorem hostMem_stays {b₀ : State} {s : State} {pa n : Nat} {b : Option (List Byte)} (hs : b₀.stays s) :
    b₀.stays (State.hostMem s pa n b) := by
  unfold State.hostMem
  with_reducible repeat' (first
    | assumption | apply stays_ite | apply hostQueue_stays | apply memServe_stays | intro _)

theorem hostAgain_stays {b₀ : State} {s : State} {q : HostReq} (hs : b₀.stays s) :
    b₀.stays (State.hostAgain s q) := by
  unfold State.hostAgain
  with_reducible repeat' (first
    | assumption | apply writeServe_stays | apply readOut_stays | apply hostMem_stays | intro _ | split | dsimp only)

theorem hostClock_stays {b₀ : State} {s : State} (hs : b₀.stays s) :
    b₀.stays (State.hostClock s) := by
  unfold State.hostClock
  with_reducible repeat' (first
    | assumption | apply stays_foldl | apply stays_foldl1 | apply stays_foldl2 | apply hostAgain_stays | apply updHost_stays
    | intro _ | (simp only [stays_mk]; refine stays_core ?_))

theorem execBar2Access_stays {b₀ : State} {off n : Nat} {data : Option (List Byte)} {s : State} (hs : b₀.stays s) :
    b₀.outs (execBar2Access off n data s) := by
  unfold execBar2Access
  with_reducible repeat' (first
    | assumption | apply stays_ite | apply tally_stays | apply bar2Miss_stays | apply hostMem_stays | apply emit_stays
    | apply outs_next | apply outs_fault | apply outs_ite | intro _ | split | dsimp only)

theorem drainEnds_stays {b₀ s : State} (hs : b₀.stays s) :
    b₀.stays (State.drainEnds s) := by
  unfold State.drainEnds
  with_reducible repeat' (first
    | assumption | apply drainFails_stays)

theorem execConfigRequest_stays {b₀ : State} {op : Fin 6} {s : State} (hs : b₀.stays s) :
    b₀.outs (execConfigRequest op s) := by
  unfold execConfigRequest
  with_reducible repeat' (first
    | assumption | apply stays_ite | apply emit_stays | apply drew_stays | apply setFld_stays | apply drainEnds_stays
    | apply updHost_stays | apply outs_next | apply outs_ite | intro _ | (simp only [stays_mk]; refine stays_core ?_) | split)

theorem execResizableBarWrite_stays {b₀ : State} {size : Fin 64} {s : State} (hs : b₀.stays s) :
    b₀.outs (execResizableBarWrite size s) := by
  unfold execResizableBarWrite
  with_reducible repeat' (first
    | assumption | apply stays_ite | apply updHost_stays | apply setReg_stays | apply raise_stays | apply outs_next | apply outs_ite
    | intro _)

theorem execHostLinkL0_stays {b₀ : State} {gen : Fin 8} {width : Fin 17} {flit : Bool} {s : State} (hs : b₀.stays s) :
    b₀.outs (execHostLinkL0 gen width flit s) := by
  unfold execHostLinkL0
  with_reducible repeat' (first
    | assumption | apply stays_ite | apply tally_stays | apply setFld_stays | apply raise_stays | apply outs_next | apply outs_ite
    | intro _)

theorem msixReset_stays {b₀ s : State} (hs : b₀.stays s) :
    b₀.stays (State.msixReset s) := by
  unfold State.msixReset
  with_reducible repeat' (first
    | assumption | apply updHost_stays)

theorem execPciePerst_stays {b₀ : State} {s : State} (hs : b₀.stays s) :
    b₀.outs (execPciePerst s) := by
  unfold execPciePerst
  with_reducible repeat' (first
    | assumption | apply stays_ite | apply setReg_stays | apply updHost_stays | apply msixReset_stays | apply raise_stays
    | apply drainEnds_stays | apply outs_next | apply outs_fault | apply outs_ite | intro _
    | (simp only [stays_mk]; refine stays_core ?_))

theorem execFlr_stays {b₀ : State} {s : State} (hs : b₀.stays s) :
    b₀.outs (execFlr s) := by
  unfold execFlr
  with_reducible repeat' (first
    | assumption | apply stays_ite | apply stays_foldl | apply stays_foldl1 | apply stays_foldl2 | apply setReg_stays
    | apply setFld_stays | apply updHost_stays | apply msixReset_stays | apply raise_stays | apply drainEnds_stays | apply outs_next
    | apply outs_fault | apply outs_ite | intro _ | (simp only [stays_mk]; refine stays_core ?_))

theorem execDeviceRequestTimeout_stays {b₀ : State} {kind : Fin 4} {entry : Nat} {s : State} (hs : b₀.stays s) :
    b₀.outs (execDeviceRequestTimeout kind entry s) := by
  unfold execDeviceRequestTimeout
  with_reducible repeat' (first
    | assumption | apply stays_ite | apply hostFault_stays | apply drainFails_stays | apply outs_next | apply outs_ite | intro _)

/-! ## Manage -/

theorem busRead_stays {b₀ : State} {s : State} {p : Path} {pa width : Nat} (hs : b₀.stays s) :
    b₀.opts2 (State.busRead s p pa width) := by
  unfold State.busRead
  with_reducible repeat' (first
    | assumption | refine stays_of_some2 (by assumption) ?_ | apply stays_ite | apply stays_ite2 | apply stays_iterd
    | apply memRead_stays | apply pathRead_stays | apply opts2_some | apply opts2_none | apply opts2_ite | apply opts2_map | intro _)

theorem busWrite_stays {b₀ : State} {s : State} {p : Path} {pa width v : Nat} (hs : b₀.stays s) :
    b₀.opts (State.busWrite s p pa width v) := by
  unfold State.busWrite
  with_reducible repeat' (first
    | assumption | refine stays_of_some (by assumption) ?_ | apply stays_ite | apply memWrite_stays | apply pathWrite_stays
    | apply opts_some | apply opts_none | apply opts_ite | apply opts_bind | apply opts_map | intro _)

theorem mgmtErr_stays {b₀ s : State} {cause : Fin 4} {byte : Nat} (hs : b₀.stays s) :
    b₀.stays (State.mgmtErr s cause byte) := by
  unfold State.mgmtErr
  with_reducible repeat' (first
    | assumption | apply stays_ite | apply count32_stays | apply raise_stays | intro _ | (simp only [stays_mk]; refine stays_core ?_))

theorem mgmtRead_stays {b₀ s : State} {cmd width pa : Nat} {err : Option (Fin 4 × Fin 256)} (hs : b₀.stays s) :
    b₀.stays (State.mgmtRead s cmd width pa err) := by
  unfold State.mgmtRead
  with_reducible repeat' (first
    | assumption | refine stays_of_some2 (by assumption) ?_ | apply mgmtErr_stays | apply emit_stays | apply busRead_stays | intro _
    | (simp only [stays_mk]; refine stays_core ?_) | split)

theorem mgmtWrite_stays {b₀ s : State} {cmd width pa v : Nat} {err : Option (Fin 4 × Fin 256)} (hs : b₀.stays s) :
    b₀.stays (State.mgmtWrite s cmd width pa v err) := by
  unfold State.mgmtWrite
  with_reducible repeat' (first
    | assumption | refine stays_of_some (by assumption) ?_ | refine stays_of_some2 (by assumption) ?_ | apply stays_getD
    | apply mgmtErr_stays | apply busWrite_stays | intro _ | (simp only [stays_mk]; refine stays_core ?_) | split)

theorem execMgmtRead32_stays {b₀ : State} {pa : Fin (2 ^ 56)} {err : Option (Fin 4 × Fin 256)} {s : State} (hs : b₀.stays s) :
    b₀.outs (execMgmtRead32 pa err s) := by
  unfold execMgmtRead32
  with_reducible repeat' (first
    | assumption | apply stays_ite | apply mgmtRead_stays | apply outs_next | apply outs_ite | intro _)

theorem execMgmtWrite32_stays {b₀ : State} {pa : Fin (2 ^ 56)} {value : Nat} {err : Option (Fin 4 × Fin 256)} {s : State} (hs : b₀.stays s) :
    b₀.outs (execMgmtWrite32 pa value err s) := by
  unfold execMgmtWrite32
  with_reducible repeat' (first
    | assumption | apply stays_ite | apply mgmtWrite_stays | apply outs_next | apply outs_ite | intro _)

theorem execMgmtRead64_stays {b₀ : State} {pa : Fin (2 ^ 56)} {err : Option (Fin 4 × Fin 256)} {s : State} (hs : b₀.stays s) :
    b₀.outs (execMgmtRead64 pa err s) := by
  unfold execMgmtRead64
  with_reducible repeat' (first
    | assumption | apply stays_ite | apply mgmtRead_stays | apply outs_next | apply outs_ite | intro _)

theorem execMgmtWrite64_stays {b₀ : State} {pa : Fin (2 ^ 56)} {value : Nat} {err : Option (Fin 4 × Fin 256)} {s : State} (hs : b₀.stays s) :
    b₀.outs (execMgmtWrite64 pa value err s) := by
  unfold execMgmtWrite64
  with_reducible repeat' (first
    | assumption | apply stays_ite | apply mgmtWrite_stays | apply outs_next | apply outs_ite | intro _)

theorem execDynamicAddressAssign_stays {b₀ : State} {addr : Fin 128} {ibi : Bool} {s : State} (hs : b₀.stays s) :
    b₀.outs (execDynamicAddressAssign addr ibi s) := by
  unfold execDynamicAddressAssign
  with_reducible repeat' (first
    | assumption | apply stays_ite | apply setFld_stays | apply outs_next | apply outs_ite | intro _
    | (simp only [stays_mk]; refine stays_core ?_))

theorem execRstdaa_stays {b₀ s : State} (hs : b₀.stays s) :
    b₀.outs (execRstdaa s) := by
  unfold execRstdaa
  with_reducible repeat' (first
    | assumption | apply stays_ite | apply setFld_stays | apply outs_next | apply outs_ite | intro _
    | (simp only [stays_mk]; refine stays_core ?_))

theorem execSensorRefresh_stays {b₀ : State} {rails : List (Nat × Nat)} {s : State} (hs : b₀.stays s) :
    b₀.outs (execSensorRefresh rails s) := by
  unfold execSensorRefresh
  with_reducible repeat' (first
    | assumption | apply stays_ite | apply stays_foldl | apply stays_foldl1 | apply stays_foldl2 | apply stays_getD | apply setReg_stays
    | apply setFld_stays | apply outs_next | apply outs_ite | intro _ | (simp only [stays_mk]; refine stays_core ?_) | split)

theorem listRead_stays {b₀ s : State} {k : Nat} (hs : b₀.stays s) :
    b₀.stays (State.listRead s k).2 := by
  unfold State.listRead
  with_reducible repeat' (first
    | assumption | refine stays_of_snd (by assumption) ?_ | apply stays_ite | apply stays_ite2 | apply partsRead_stays
    | apply raise_stays | intro _ | (simp only [stays_mk]; refine stays_core ?_) | split | dsimp only)

theorem listReads_stays {b₀ : State} {x0 : List Nat} {x1 : State} (hx1 : b₀.stays x1) :
    b₀.stays (State.listReads x0 x1).2 := by
  induction x0 generalizing x1 with
  | nil =>
    unfold State.listReads
    with_reducible repeat' (first
      | assumption)
  | cons y ys ih =>
    unfold State.listReads
    with_reducible repeat' (first
      | apply ih | assumption | refine stays_of_snd (by assumption) ?_ | apply listRead_stays)

theorem teleDrop_stays {b₀ s : State} {seq : Nat} (hs : b₀.stays s) :
    b₀.stays (State.teleDrop s seq) := by
  unfold State.teleDrop
  with_reducible repeat' (first
    | assumption | apply stays_ite | apply count32_stays | apply raise_stays | intro _ | (simp only [stays_mk]; refine stays_core ?_))

theorem telePut_stays {b₀ s : State} {seq : Nat} {b : List Byte} (hs : b₀.stays s) :
    b₀.stays (State.telePut s seq b) := by
  unfold State.telePut
  with_reducible repeat' (first
    | assumption | apply stays_ite | apply teleDrop_stays | apply writeRaw_stays | apply hostPut_stays | apply setFld_stays
    | apply tally_stays | intro _)

theorem telemetry_stays {b₀ s : State} (hs : b₀.stays s) :
    b₀.stays (State.telemetry s) := by
  unfold State.telemetry
  with_reducible repeat' (first
    | assumption | apply listReads_stays | apply telePut_stays | (simp only [stays_mk]; refine stays_core ?_))

theorem execTelemetryPeriod_stays {b₀ : State} {running : Bool} {s : State} (hs : b₀.stays s) :
    b₀.outs (execTelemetryPeriod running s) := by
  unfold execTelemetryPeriod
  with_reducible repeat' (first
    | assumption | apply stays_ite | apply tally_stays | apply telemetry_stays | apply outs_next | apply outs_ite | intro _
    | (simp only [stays_mk]; refine stays_core ?_))

theorem jtagOut_stays {b₀ s : State} (hs : b₀.stays s) :
    b₀.stays (State.jtagOut s) := by
  unfold State.jtagOut
  with_reducible repeat' (first
    | assumption | apply emit_stays)

theorem dbgEnds_stays {b₀ s : State} {status data : Nat} (hs : b₀.stays s) :
    b₀.stays (State.dbgEnds s status data) := by
  unfold State.dbgEnds
  with_reducible repeat' (first
    | assumption | (simp only [stays_mk]; refine stays_core ?_))

theorem dbgacc_stays {b₀ s : State} {cmd : Nat} {f : State → Option (Nat × State)} (hf : ∀ y0, b₀.stays y0 → b₀.opts2 (f y0)) (hs : b₀.stays s) :
    b₀.stays (State.dbgacc s cmd f) := by
  unfold State.dbgacc
  with_reducible repeat' (first
    | assumption | refine stays_of_some2 (by assumption) ?_ | apply stays_ite | apply hf | apply jtagOut_stays | apply dbgEnds_stays
    | apply raise_stays | apply opts2_some | apply opts2_none | apply opts2_ite | intro _ | (simp only [stays_mk]; refine stays_core ?_)
    | split)

theorem execDbgRead32_stays {b₀ : State} {pa : Fin (2 ^ 52)} {s : State} (hs : b₀.stays s) :
    b₀.outs (execDbgRead32 pa s) := by
  unfold execDbgRead32
  with_reducible repeat' (first
    | assumption | apply dbgacc_stays | apply busRead_stays | apply outs_next | apply opts2_some | apply opts2_none | intro _)

theorem execDbgWrite32_stays {b₀ : State} {pa : Fin (2 ^ 52)} {value : Nat} {s : State} (hs : b₀.stays s) :
    b₀.outs (execDbgWrite32 pa value s) := by
  unfold execDbgWrite32
  with_reducible repeat' (first
    | assumption | apply dbgacc_stays | apply busWrite_stays | apply outs_next | apply opts2_some | apply opts2_none
    | apply opts2_map_state | apply opts2_map | intro _)

theorem execDbgRead64_stays {b₀ : State} {pa : Fin (2 ^ 52)} {s : State} (hs : b₀.stays s) :
    b₀.outs (execDbgRead64 pa s) := by
  unfold execDbgRead64
  with_reducible repeat' (first
    | assumption | apply dbgacc_stays | apply busRead_stays | apply outs_next | apply opts2_some | apply opts2_none | intro _)

theorem execDbgWrite64_stays {b₀ : State} {pa : Fin (2 ^ 52)} {value : Nat} {s : State} (hs : b₀.stays s) :
    b₀.outs (execDbgWrite64 pa value s) := by
  unfold execDbgWrite64
  with_reducible repeat' (first
    | assumption | apply dbgacc_stays | apply busWrite_stays | apply outs_next | apply opts2_some | apply opts2_none
    | apply opts2_map_state | apply opts2_map | intro _)

end Sys2Proof.Machine
end

