-- ==== Sys2Proof/Laws/StaysStep.lean ====
section
/-! SUPPORT. Every command and a clock keep the queue and the soundness of the state. -/

namespace Sys2Proof.Machine

set_option linter.unusedTactic false
set_option linter.unusedSimpArgs false
set_option linter.unreachableTactic false

/-- A command keeps the queue, and leaves a sound state sound. -/
theorem exec_stays {b₀ s : State} (c : Instr) (hs : b₀.stays s) : b₀.outs (exec c s) := by
  match c with
  | .csrWrite _ _ _ _ => exact execCsrWrite_stays hs
  | .rcRead _ _ _ => exact execRcRead_stays hs
  | .counterLowRead _ _ => exact execCounterLowRead_stays hs
  | .firstRecordClear _ _ => exact execFirstRecordClear_stays hs
  | .detStrictWrite _ _ => exact execDetStrictWrite_stays hs
  | .strictSettled => exact execStrictSettled_stays hs
  | .mma _ _ => exact execMma_stays hs
  | .mmaResultWrite _ _ _ _ => exact execMmaResultWrite_stays hs
  | .kSplitCombine _ => exact execKSplitCombine_stays hs
  | .freezeLimitExceeded _ _ => exact execFreezeLimitExceeded_stays hs
  | .thinRequest _ => exact execThinRequest_stays hs
  | .batchWaitExpire _ _ => exact execBatchWaitExpire_stays hs
  | .batchRun _ => exact execBatchRun_stays hs
  | .externalSramWrite _ _ _ => exact execExternalSramWrite_stays hs
  | .handPoison _ _ _ _ => exact execHandPoison_stays hs
  | .idleClusterFault _ _ => exact execIdleClusterFault_stays hs
  | .bqCtlWrite _ _ _ _ => exact execBqCtlWrite_stays hs
  | .freezeLimWrite _ _ _ _ => exact execFreezeLimWrite_stays hs
  | .chainSetLoad _ => exact execChainSetLoad_stays hs
  | .drainRowAdmit _ => exact execDrainRowAdmit_stays hs
  | .vrunRowAdmit _ => exact execVrunRowAdmit_stays hs
  | .rowWrite _ _ => exact execRowWrite_stays hs
  | .vrun _ => exact execVrun_stays hs
  | .vectorPoison _ _ => exact execVectorPoison_stays hs
  | .doorbell _ _ _ => exact execDoorbell_stays hs
  | .itemTake _ => exact execItemTake_stays hs
  | .nop _ _ => exact execNop_stays hs
  | .endProgram _ _ => exact execEndProgram_stays hs
  | .itemComplete _ _ => exact execItemComplete_stays hs
  | .fence _ _ => exact execFence_stays hs
  | .fenceRelease _ _ => exact execFenceRelease_stays hs
  | .sync _ _ => exact execSync_stays hs
  | .syncRelease _ _ => exact execSyncRelease_stays hs
  | .waitf _ _ => exact execWaitf_stays hs
  | .waitfRelease _ _ => exact execWaitfRelease_stays hs
  | .postf _ _ => exact execPostf_stays hs
  | .flushq _ _ => exact execFlushq_stays hs
  | .trap _ _ => exact execTrap_stays hs
  | .hand _ _ => exact execHand_stays hs
  | .handDeal _ _ => exact execHandDeal_stays hs
  | .handStart _ => exact execHandStart_stays hs
  | .handComplete _ => exact execHandComplete_stays hs
  | .load _ => exact execLoad_stays hs
  | .store _ => exact execStore_stays hs
  | .copyin _ => exact execCopyin_stays hs
  | .copyout _ => exact execCopyout_stays hs
  | .dmaComplete _ _ => exact execDmaComplete_stays hs
  | .reduceScatter _ _ => exact execReduceScatter_stays hs
  | .allGather _ _ => exact execAllGather_stays hs
  | .allReduce _ _ => exact execAllReduce_stays hs
  | .broadcast _ _ => exact execBroadcast_stays hs
  | .permute _ _ => exact execPermute_stays hs
  | .loopBegin _ _ => exact execLoopBegin_stays hs
  | .loopEnd _ _ => exact execLoopEnd_stays hs
  | .li _ _ => exact execLi_stays hs
  | .add _ _ => exact execAdd_stays hs
  | .sub _ _ => exact execSub_stays hs
  | .mul _ _ => exact execMul_stays hs
  | .and _ _ => exact execAnd_stays hs
  | .or _ _ => exact execOr_stays hs
  | .shl _ _ => exact execShl_stays hs
  | .shr _ _ => exact execShr_stays hs
  | .min _ _ => exact execMin_stays hs
  | .max _ _ => exact execMax_stays hs
  | .ld _ _ => exact execLd_stays hs
  | .ldComplete _ _ => exact execLdComplete_stays hs
  | .st _ _ => exact execSt_stays hs
  | .ldd _ _ => exact execLdd_stays hs
  | .lddComplete _ _ => exact execLddComplete_stays hs
  | .rdt _ _ => exact execRdt_stays hs
  | .test _ _ => exact execTest_stays hs
  | .trick _ _ => exact execTrick_stays hs
  | .trickRelease _ _ => exact execTrickRelease_stays hs
  | .bound _ _ => exact execBound_stays hs
  | .boundRelease _ _ => exact execBoundRelease_stays hs
  | .waita _ _ => exact execWaita_stays hs
  | .waitaRelease _ _ => exact execWaitaRelease_stays hs
  | .kill _ _ _ => exact execKill_stays hs
  | .waitWatchdog _ _ => exact execWaitWatchdog_stays hs
  | .programFetch _ _ => exact execProgramFetch_stays hs
  | .pbinv _ _ _ => exact execPbinv_stays hs
  | .pbinvDone _ => exact execPbinvDone_stays hs
  | .memoryWrite _ _ _ _ _ => exact execMemoryWrite_stays hs
  | .memoryRead _ _ _ _ => exact execMemoryRead_stays hs
  | .sramScrubPass _ _ _ => exact execSramScrubPass_stays hs
  | .carveWrite _ _ _ => exact execCarveWrite_stays hs
  | .carveTransitionDone _ => exact execCarveTransitionDone_stays hs
  | .bridgeBeatReceive _ _ _ => exact execBridgeBeatReceive_stays hs
  | .bridgeNak _ _ _ => exact execBridgeNak_stays hs
  | .bridgeRetrainDone _ => exact execBridgeRetrainDone_stays hs
  | .bridgeRetrainCmd _ _ => exact execBridgeRetrainCmd_stays hs
  | .coherentAccess _ _ _ _ _ => exact execCoherentAccess_stays hs
  | .rds _ _ => exact execRds_stays hs
  | .rdm _ _ => exact execRdm_stays hs
  | .upg _ _ => exact execUpg_stays hs
  | .evs _ _ => exact execEvs_stays hs
  | .evm _ _ => exact execEvm_stays hs
  | .snps _ _ => exact execSnps_stays hs
  | .snpi _ _ => exact execSnpi_stays hs
  | .dats _ _ => exact execDats_stays hs
  | .datm _ _ => exact execDatm_stays hs
  | .gntm _ _ => exact execGntm_stays hs
  | .evack _ _ => exact execEvack_stays hs
  | .rspi _ _ => exact execRspi_stays hs
  | .rsps _ _ => exact execRsps_stays hs
  | .rspd _ _ => exact execRspd_stays hs
  | .rspev _ _ _ => exact execRspev_stays hs
  | .cwinWrite _ _ _ => exact execCwinWrite_stays hs
  | .cwinFlushDone _ => exact execCwinFlushDone_stays hs
  | .hbmRequest _ _ _ => exact execHbmRequest_stays hs
  | .refreshSlot _ _ _ _ _ => exact execRefreshSlot_stays hs
  | .hbmTempReport _ _ _ => exact execHbmTempReport_stays hs
  | .cewWindowEnd _ => exact execCewWindowEnd_stays hs
  | .hbmCacheRead _ _ _ => exact execHbmCacheRead_stays hs
  | .hbmCacheWrite _ _ _ => exact execHbmCacheWrite_stays hs
  | .wcAgeExpire _ _ => exact execWcAgeExpire_stays hs
  | .hbmTrainDone _ _ _ => exact execHbmTrainDone_stays hs
  | .hbmOwnWrite _ _ _ => exact execHbmOwnWrite_stays hs
  | .hbmOwnReady _ _ => exact execHbmOwnReady_stays hs
  | .tgenGo _ _ _ => exact execTgenGo_stays hs
  | .tgenStop _ _ _ => exact execTgenStop_stays hs
  | .tgenRunEnd _ _ => exact execTgenRunEnd_stays hs
  | .readRow _ => exact execReadRow_stays hs
  | .writeRow _ => exact execWriteRow_stays hs
  | .softRepair _ => exact execSoftRepair_stays hs
  | .hardRepair _ _ => exact execHardRepair_stays hs
  | .clearSoft _ => exact execClearSoft_stays hs
  | .spareQuery _ => exact execSpareQuery_stays hs
  | .repairCmdDone => exact execRepairCmdDone_stays hs
  | .hcacheFlush _ _ => exact execHcacheFlush_stays hs
  | .hcacheFlushDone _ => exact execHcacheFlushDone_stays hs
  | .weightSlotRead _ _ _ _ => exact execWeightSlotRead_stays hs
  | .contextFill _ => exact execContextFill_stays hs
  | .ctxRefresh _ _ => exact execCtxRefresh_stays hs
  | .ctxDrop _ _ => exact execCtxDrop_stays hs
  | .ctxBaseWrite _ _ => exact execCtxBaseWrite_stays hs
  | .quotaPeriodEnd => exact execQuotaPeriodEnd_stays hs
  | .translationMiss _ _ _ => exact execTranslationMiss_stays hs
  | .walkReadReturn _ _ _ => exact execWalkReadReturn_stays hs
  | .mmuInv _ _ _ => exact execMmuInv_stays hs
  | .mmuInvDone _ => exact execMmuInvDone_stays hs
  | .flitReceive _ _ _ _ => exact execFlitReceive_stays hs
  | .linkRetryTimer _ _ => exact execLinkRetryTimer_stays hs
  | .linkCalDone _ _ => exact execLinkCalDone_stays hs
  | .linkCalTimeout _ _ => exact execLinkCalTimeout_stays hs
  | .linkEqDone _ _ => exact execLinkEqDone_stays hs
  | .linkEqTimeout _ _ => exact execLinkEqTimeout_stays hs
  | .linkAlignDone _ _ => exact execLinkAlignDone_stays hs
  | .linkAlignTimeout _ _ => exact execLinkAlignTimeout_stays hs
  | .peerExchange _ _ _ _ => exact execPeerExchange_stays hs
  | .linkReceiveSilence _ _ => exact execLinkReceiveSilence_stays hs
  | .txPllLockLoss _ _ => exact execTxPllLockLoss_stays hs
  | .retrainDone _ _ => exact execRetrainDone_stays hs
  | .retrainTimeout _ _ => exact execRetrainTimeout_stays hs
  | .lnkCtlWrite _ _ _ => exact execLnkCtlWrite_stays hs
  | .rd _ _ _ => exact execRd_stays hs
  | .wr _ _ _ => exact execWr_stays hs
  | .rsp _ _ _ => exact execRsp_stays hs
  | .seg _ _ _ => exact execSeg_stays hs
  | .sack _ _ _ => exact execSack_stays hs
  | .collStart _ => exact execCollStart_stays hs
  | .stepTimeout _ _ _ => exact execStepTimeout_stays hs
  | .collComplete _ _ => exact execCollComplete_stays hs
  | .meldEnable _ _ _ => exact execMeldEnable_stays hs
  | .initDone _ _ => exact execInitDone_stays hs
  | .meldDisable _ _ _ => exact execMeldDisable_stays hs
  | .snapDone _ _ => exact execSnapDone_stays hs
  | .encDone _ _ => exact execEncDone_stays hs
  | .trickClose _ _ => exact execTrickClose_stays hs
  | .applyDone _ _ => exact execApplyDone_stays hs
  | .frgOut _ _ _ => exact execFrgOut_stays hs
  | .frgIn _ _ _ => exact execFrgIn_stays hs
  | .frgCtl _ _ _ => exact execFrgCtl_stays hs
  | .joinReq => exact execJoinReq_stays hs
  | .joinAck => exact execJoinAck_stays hs
  | .joinRefuse => exact execJoinRefuse_stays hs
  | .joinReady => exact execJoinReady_stays hs
  | .joinDone => exact execJoinDone_stays hs
  | .joinTimeout _ => exact execJoinTimeout_stays hs
  | .codecWwWrite _ _ _ _ => exact execCodecWwWrite_stays hs
  | .codecWmWrite _ _ _ _ => exact execCodecWmWrite_stays hs
  | .codecInval _ _ => exact execCodecInval_stays hs
  | .wanRetryTimer _ => exact execWanRetryTimer_stays hs
  | .wanCalDone _ => exact execWanCalDone_stays hs
  | .wanCalTimeout _ => exact execWanCalTimeout_stays hs
  | .wanCalHoldTimeout _ => exact execWanCalHoldTimeout_stays hs
  | .wanTrainDone _ => exact execWanTrainDone_stays hs
  | .wanTrainTimeout _ => exact execWanTrainTimeout_stays hs
  | .wanPcsLoss _ => exact execWanPcsLoss_stays hs
  | .wanTxPllLoss _ => exact execWanTxPllLoss_stays hs
  | .wanCtlWrite _ _ _ => exact execWanCtlWrite_stays hs
  | .wanIp6LoWrite _ _ _ => exact execWanIp6LoWrite_stays hs
  | .ethernetFrame _ _ _ => exact execEthernetFrame_stays hs
  | .arpRequest _ _ => exact execArpRequest_stays hs
  | .neighborSolicitation _ _ => exact execNeighborSolicitation_stays hs
  | .bulk _ _ => exact execBulk_stays hs
  | .ctl _ _ => exact execCtl_stays hs
  | .keyMissDerived _ => exact execKeyMissDerived_stays hs
  | .fragmentSend _ => exact execFragmentSend_stays hs
  | .pairSecretLoad _ _ _ => exact execPairSecretLoad_stays hs
  | .pairSecretUnwrapDone _ => exact execPairSecretUnwrapDone_stays hs
  | .keyDerivationDone _ _ => exact execKeyDerivationDone_stays hs
  | .pairRoll _ _ _ _ => exact execPairRoll_stays hs
  | .pairUse _ _ _ _ => exact execPairUse_stays hs
  | .pairDropold _ _ _ _ => exact execPairDropold_stays hs
  | .pairElimWrite _ _ _ _ => exact execPairElimWrite_stays hs
  | .controlAckTimer _ _ => exact execControlAckTimer_stays hs
  | .controlRetransmit _ _ _ => exact execControlRetransmit_stays hs
  | .summarySend _ _ _ => exact execSummarySend_stays hs
  | .summary _ => exact execSummary_stays hs
  | .nack _ => exact execNack_stays hs
  | .nackRepeat _ _ => exact execNackRepeat_stays hs
  | .ppsEdge _ => exact execPpsEdge_stays hs
  | .zdaSentence _ _ => exact execZdaSentence_stays hs
  | .ptpSync _ _ => exact execPtpSync_stays hs
  | .followUp _ _ => exact execFollowUp_stays hs
  | .delayResp _ _ => exact execDelayResp_stays hs
  | .announce _ _ => exact execAnnounce_stays hs
  | .sourceLossTimeout _ => exact execSourceLossTimeout_stays hs
  | .ref10mQualify => exact execRef10mQualify_stays hs
  | .timeStep _ _ => exact execTimeStep_stays hs
  | .holdoverLimit => exact execHoldoverLimit_stays hs
  | .timeMark => exact execTimeMark_stays hs
  | .timeCtlWrite _ _ => exact execTimeCtlWrite_stays hs
  | .digestDone _ _ _ => exact execDigestDone_stays hs
  | .digestRecordWrite _ => exact execDigestRecordWrite_stays hs
  | .twinRecord _ _ => exact execTwinRecord_stays hs
  | .twinRelease _ => exact execTwinRelease_stays hs
  | .twinPeerTimeout => exact execTwinPeerTimeout_stays hs
  | .replayRelease _ _ => exact execReplayRelease_stays hs
  | .warningWindowEnd _ _ => exact execWarningWindowEnd_stays hs
  | .preqPoll => exact execPreqPoll_stays hs
  | .ckpCut _ _ _ => exact execCkpCut_stays hs
  | .cutQuiesced => exact execCutQuiesced_stays hs
  | .cutQuiesceTimeout => exact execCutQuiesceTimeout_stays hs
  | .cutCopyDone => exact execCutCopyDone_stays hs
  | .cutManifestDone => exact execCutManifestDone_stays hs
  | .drainStart _ _ _ => exact execDrainStart_stays hs
  | .drainDone _ _ => exact execDrainDone_stays hs
  | .restore _ _ _ => exact execRestore_stays hs
  | .restoreDone => exact execRestoreDone_stays hs
  | .logRingWrite _ => exact execLogRingWrite_stays hs
  | .rcSelftestDone _ _ => exact execRcSelftestDone_stays hs
  | .rcSelftestFail _ _ => exact execRcSelftestFail_stays hs
  | .rcTwinSignal _ _ => exact execRcTwinSignal_stays hs
  | .rcTwinLost _ => exact execRcTwinLost_stays hs
  | .failNAssert => exact execFailNAssert_stays hs
  | .heartbeatSend _ => exact execHeartbeatSend_stays hs
  | .hb _ _ _ => exact execHb_stays hs
  | .electionPeriod _ => exact execElectionPeriod_stays hs
  | .hbSilenceTimeout _ _ => exact execHbSilenceTimeout_stays hs
  | .failureNotice _ _ _ _ => exact execFailureNotice_stays hs
  | .takeoverRecord _ => exact execTakeoverRecord_stays hs
  | .wrReissue _ => exact execWrReissue_stays hs
  | .assayReset => exact execAssayReset_stays hs
  | .assayTimeTimeout => exact execAssayTimeTimeout_stays hs
  | .energySample _ => exact execEnergySample_stays hs
  | .engineTimeReportSend _ => exact execEngineTimeReportSend_stays hs
  | .engineTimeReport _ => exact execEngineTimeReport_stays hs
  | .intervalEnd => exact execIntervalEnd_stays hs
  | .timeMarkFrame _ _ => exact execTimeMarkFrame_stays hs
  | .offsetInvalidTimeout => exact execOffsetInvalidTimeout_stays hs
  | .seal _ => exact execSeal_stays hs
  | .setparam _ _ => exact execSetparam_stays hs
  | .tamperCheck _ => exact execTamperCheck_stays hs
  | .mirrorFrame => exact execMirrorFrame_stays hs
  | .mirrorFrameReceive _ => exact execMirrorFrameReceive_stays hs
  | .mirrorLost => exact execMirrorLost_stays hs
  | .powerExport _ => exact execPowerExport_stays hs
  | .deviceReset _ _ => exact execDeviceReset_stays hs
  | .fuseDone => exact execFuseDone_stays hs
  | .probeDone _ _ => exact execProbeDone_stays hs
  | .stageDone _ => exact execStageDone_stays hs
  | .verifyDone => exact execVerifyDone_stays hs
  | .write32 => exact execWrite32_stays hs
  | .write64 => exact execWrite64_stays hs
  | .fill => exact execFill_stays hs
  | .waitBit => exact execWaitBit_stays hs
  | .waitBitTimeout => exact execWaitBitTimeout_stays hs
  | .copyToHbm => exact execCopyToHbm_stays hs
  | .recordEnd => exact execRecordEnd_stays hs
  | .redoDone => exact execRedoDone_stays hs
  | .runRelease => exact execRunRelease_stays hs
  | .recoveryLoad _ _ => exact execRecoveryLoad_stays hs
  | .reload _ _ => exact execReload_stays hs
  | .svnRaise _ _ => exact execSvnRaise_stays hs
  | .kekBurn _ _ => exact execKekBurn_stays hs
  | .readyTimeout => exact execReadyTimeout_stays hs
  | .pkhprog _ _ => exact execPkhprog_stays hs
  | .bar2Access _ _ _ => exact execBar2Access_stays hs
  | .configRequest _ => exact execConfigRequest_stays hs
  | .hostLinkL0 _ _ _ => exact execHostLinkL0_stays hs
  | .pciePerst => exact execPciePerst_stays hs
  | .flr => exact execFlr_stays hs
  | .resizableBarWrite _ => exact execResizableBarWrite_stays hs
  | .deviceRequestTimeout _ _ => exact execDeviceRequestTimeout_stays hs
  | .msixHoldExpire _ => exact execMsixHoldExpire_stays hs
  | .msixUnmask _ _ _ => exact execMsixUnmask_stays hs
  | .mgmtRead32 _ _ => exact execMgmtRead32_stays hs
  | .mgmtWrite32 _ _ _ => exact execMgmtWrite32_stays hs
  | .mgmtRead64 _ _ => exact execMgmtRead64_stays hs
  | .mgmtWrite64 _ _ _ => exact execMgmtWrite64_stays hs
  | .dynamicAddressAssign _ _ => exact execDynamicAddressAssign_stays hs
  | .rstdaa => exact execRstdaa_stays hs
  | .ibiHoldExpire => exact execIbiHoldExpire_stays hs
  | .sensorRefresh _ => exact execSensorRefresh_stays hs
  | .telemetryPeriod _ => exact execTelemetryPeriod_stays hs
  | .dbgRead32 _ => exact execDbgRead32_stays hs
  | .dbgWrite32 _ _ => exact execDbgWrite32_stays hs
  | .dbgRead64 _ => exact execDbgRead64_stays hs
  | .dbgWrite64 _ _ => exact execDbgWrite64_stays hs
  | .dbgDisable _ => exact execDbgDisable_stays hs
  | .traceGo _ _ => exact execTraceGo_stays hs
  | .traceStop _ _ => exact execTraceStop_stays hs
  | .powerSample _ => exact execPowerSample_stays hs
  | .capSlowStep => exact execCapSlowStep_stays hs
  | .brakeAssert => exact execBrakeAssert_stays hs
  | .brakeRelease => exact execBrakeRelease_stays hs
  | .undervoltage _ => exact execUndervoltage_stays hs
  | .dvfsRequest _ _ _ => exact execDvfsRequest_stays hs
  | .dvfsDone _ => exact execDvfsDone_stays hs
  | .pwrCtlWrite _ _ => exact execPwrCtlWrite_stays hs
  | .pmbusStatusPoll _ _ => exact execPmbusStatusPoll_stays hs
  | .pmbusWriteRetry _ _ => exact execPmbusWriteRetry_stays hs
  | .thermalStep _ => exact execThermalStep_stays hs
  | .thermalTrip _ _ => exact execThermalTrip_stays hs
  | .coolantRead _ _ => exact execCoolantRead_stays hs
  | .resetRelease => exact execResetRelease_stays hs
  | .assayPowerLoss _ => exact execAssayPowerLoss_stays hs
  | .ref10mOutOfRange => exact execRef10mOutOfRange_stays hs
  | .bar0Read _ _ => exact execBar0Read_stays hs

theorem computeClock_stays {b₀ s : State} (hs : b₀.stays s) :
    b₀.stays (State.computeClock s) := by
  unfold State.computeClock
  with_reducible repeat' (first
    | assumption | apply stays_ite | apply stays_foldl | apply stays_foldl1 | apply stays_foldl2 | apply clusterClock_stays
    | apply engineClock_stays | apply regionClock_stays | apply digestClock_stays | intro _)

theorem dieClock_stays {b₀ s : State} {d : Nat} (hs : b₀.stays s) :
    b₀.stays (State.dieClock s d) := by
  unfold State.dieClock
  with_reducible repeat' (first
    | assumption | apply linkClock_stays | apply meldClock_stays | apply ctlPump_stays | apply holdClock_stays | apply cipClock_stays
    | apply fillWaitClock_stays)

theorem tick_stays {b₀ s : State} (hs : b₀.stays s) :
    b₀.stays (State.tick s) := by
  unfold State.tick
  with_reducible repeat' (first
    | assumption | apply stays_ite | apply timeTick_stays | apply computeClock_stays | apply dieClock_stays | apply transitClock_stays
    | apply fillClock_stays | apply hostClock_stays | intro _ | (simp only [stays_mk]; refine stays_core ?_) | split | dsimp only | dsimp +zetaDelta only)

end Sys2Proof.Machine
end

