-- ==== Sys2Proof/WellFormed.lean ====
section
/-! DEFINITION. Which commands can come: every operand fits what carries it. -/

namespace Sys2Proof

open Sys2Proof.Machine

/-- An access path from outside the part (R12, R615): the loader is none. -/
def Machine.Path.outside (p : Path) : Bool := p ≠ .loader

/-- A number fits a field of `n` bits. -/
def fits (n v : Nat) : Bool := v < 2 ^ n

/-- An access has whole bytes. -/
def accessWidth (w : Nat) : Bool := 0 < w && w % 8 = 0

/-- What a message comes over (R290, R291): one of the 18 links, the bridge, or this node itself. -/
def viaCode (v : Nat) : Bool := v < 18 || v = 0x3F || v = 64

/-- A message's header fields fit the header, and its data are whole slots (R289, R291). -/
def Machine.Msg.fits (m : Msg) : Bool := m.kind < 16 && m.dst < 2 ^ 15 && m.src < 2 ^ 15 && m.low < 2 ^ 82

/-- There are bytes. -/
def filled (b : List Byte) : Bool := !b.isEmpty

/-- A command that can come. Commands without an arm of their own have operands that fit by their types. -/
def Instr.wellFormed (i : Instr) : Bool :=
  match i with
  | .csrWrite path pa width value => path.outside && fits 64 pa && accessWidth width && fits 64 value
  | .rcRead path pa width => path.outside && fits 64 pa && accessWidth width
  | .counterLowRead path pa | .firstRecordClear path pa => path.outside && fits 64 pa
  | .detStrictWrite path value | .bqCtlWrite path _ _ value | .doorbell path _ value | .kill path _ value | .pbinv path _ value
  | .tgenGo path _ value | .tgenStop path _ value | .lnkCtlWrite path _ value | .wanCtlWrite path _ value
  | .timeCtlWrite path value | .replayRelease path value | .drainStart path _ value | .restore path _ value | .traceGo path value
  | .traceStop path value | .pwrCtlWrite path value => path.outside && fits 32 value
  | .externalSramWrite pa data _ | .memoryWrite _ _ pa data _ | .hbmCacheWrite pa data _ => fits 52 pa && filled data
  | .freezeLimWrite path _ value _ | .cwinWrite path _ value | .ctxBaseWrite path value | .mmuInv path _ value
  | .meldEnable path _ value | .meldDisable path _ value | .codecWwWrite path _ _ value | .codecWmWrite path _ _ value
  | .wanIp6LoWrite path _ value | .pairSecretLoad path _ value | .ckpCut path _ value => path.outside && fits 64 value
  | .memoryRead _ pa n _ | .hbmCacheRead pa n _ | .weightSlotRead _ pa n _ => fits 52 pa && fits 13 n
  | .carveWrite path _ _ | .bridgeRetrainCmd path _ | .hbmOwnWrite path _ _ | .readRow path | .writeRow path | .softRepair path
  | .hardRepair path _ | .clearSoft path | .spareQuery path | .hcacheFlush path _ | .ctxRefresh path _ | .ctxDrop path _
  | .codecInval path _ | .pairRoll path _ _ _ | .pairUse path _ _ _ | .pairDropold path _ _ _ | .twinRelease path
  | .recoveryLoad path _ | .reload path _ | .svnRaise path _ | .kekBurn path _ | .dbgDisable path | .dvfsRequest path _ _ => path.outside
  | .coherentAccess _ pa len _ _ => fits 52 pa && fits 7 len
  | .rds line _ | .rdm line _ | .upg line _ | .evs line _ | .evm line _ | .snps line _ | .snpi line _ | .dats line _
  | .datm line _ | .gntm line _ | .evack line _ | .rspi line _ | .rsps line _ | .rspd line _ => fits 52 line
  | .rspev line _ ev => fits 52 line && fits 52 ev
  | .hbmTempReport _ _ t => fits 8 t
  | .flitReceive _ _ hdr _ => fits 128 hdr
  | .rd _ via m | .wr _ via m | .rsp _ via m | .seg _ via m | .sack _ via m | .frgOut _ via m | .frgIn _ via m | .frgCtl _ via m =>
    viaCode via && m.fits
  | .ethernetFrame _ frame _ | .arpRequest _ frame | .neighborSolicitation _ frame => filled frame
  | .bulk _ packet | .ctl _ packet => filled packet
  | .pairElimWrite path _ _ elim => path.outside && fits 32 elim
  | .controlRetransmit _ _ cseq => fits 32 cseq
  | .timeStep path delta => path.outside && fits 64 delta
  | .hb _ _ m => m.fits
  | .failureNotice _ _ _ ts => fits 64 ts
  | .seal key => fits 32 key
  | .bar2Access off _ _ | .bar0Read off _ => fits 41 off
  | .msixUnmask _ addr _ => fits 64 addr
  | .mgmtWrite32 _ value _ | .dbgWrite32 _ value => fits 32 value
  | .mgmtWrite64 _ value _ | .dbgWrite64 _ value => fits 64 value
  | _ => true

end Sys2Proof
end

