-- ==== Sys2Proof/Tests/Slice0.lean ====
section
/-! SUPPORT. Tests: worked examples of the spec, one step on small states, ill-formed commands, and for every statement that has
hypotheses a state and operands that meet them together, clause by clause. -/

namespace Sys2Proof.Tests

open Sys2Proof Sys2Proof.Machine

set_option maxRecDepth 20000
set_option linter.unusedVariables false
set_option Elab.async false

/-! ## Small states -/

/-- The part after reset. -/
def z : State := State.reset

/-- A slot that runs an item of context 1. -/
def run0 : Slot := { Slot.reset with st := .running, ctx := 1 }

/-- The part with a slot in place of slot 0 of region 0. -/
def slotIn (x : Slot) : State := z.updSlot 0 0 fun _ => x

/-- The part with a slot in place of slot 0 of region 0, and a word at its pc in the program buffer. -/
def prog (w : Nat) (x : Slot := run0) : State :=
  (slotIn x).updRg 0 fun g => { g with pbuf := [⟨x.ctx, 0, List.replicate x.pc 0 ++ leBytes 16 w⟩] }

/-- A leaf of context 1 from virtual address 0 to stacked SRAM is in the TLB of die 0. -/
def tlb (s : State) : State := s.updCtx 0 fun y => { y with dtlb := [⟨1, 0, 21, 2 ^ 39 + 0x20000F⟩] }

/-- A Hand with some words. -/
def handOf (ws : List HandWord) : Hand :=
  ⟨0, 0, 1, 0, 0, 0, ws, 0, 0, 0, none, none, 0, 0, 0, 0, false, false, 0, false, false, 0, 0⟩

/-- A word that waits in its Hand. -/
def wordOf (w : Nat) (q : Option DmaJob := none) (t : WordSt := .waiting) : HandWord := ⟨w, t, q, 0, 0, 0, 0⟩

/-- The part with cluster 0 changed. -/
def clIn (f : Cluster → Cluster) : State := z.updCl 0 f

/-- The part with a Hand running in cluster 0. -/
def handIn (ws : List HandWord) : State := clIn fun x => { x with run := some (handOf ws), loaded := true }

/-- A descriptor of one FP32 element. -/
def desc0 : Desc :=
  ⟨0, .fp32, false, 0, 0, false, 0, 0, [1, 1, 1, 1], [0, 0, 0], [1, 1, 1, 1], [false, false, false, false], [0, 0, 0, 0],
    [false, false, false, false], [0, 0, 0, 0], [0, 0, 0, 0], [1, 1, 1, 1], 0, 0⟩

/-- Its only tile. -/
def tile0 : Tile := ⟨desc0, [0, 0, 0, 0], [1, 1, 1, 1]⟩

/-- A partial of split 0. -/
def part0 : Partial := ⟨0, [], [], false, false, false, 0, 0, 0, 0, 0, 0, 0, 0, 0, 0⟩

/-- A collective on route entry 0. -/
def req0 : CollReq := ⟨0, 0, 1, 0, 5 * 2 ^ 124, tile0, tile0, false, false, false⟩

/-- A collective that waits for step 0 from node 5. -/
def coll0 : Coll := ⟨req0, 0, [], false, [], [], [⟨0, 5, 1, .fp32, [], 0, false, false, 1⟩], [], [], 0, 0, 0⟩

/-- An announcement of a master in the domain in use. -/
def ann0 : Announce := ⟨z.fld 0 F.time_ptp_domain, 0, true, 0, 0, 0, 0, 0, 0, 0, 37⟩

/-- A PTP message of that master. -/
def ptp0 : PtpMsg := ⟨z.fld 0 F.time_ptp_domain, 0, 0, true, 0, 0⟩

/-- The part with PTP on its port 0. -/
def ptpIn (x : PtpPort) : State :=
  ((z.setFld 0 F.time_ptp_en 1).setFld 0 F.wan_stat_state 3).updPtp 0 fun _ => { x with gm := some ann0 }

/-- Assay as shipped. -/
def asy0 : AssayRun := AssayRun.start 0 AssayParam.shipped

/-- The part with Assay running so. -/
def asyIn (y : AssayRun) : State := z.updAsy fun x => { x with run := some y }

/-- A mirror frame of zeros. -/
def frame0 : MirrorFrame := ⟨0, 0, 0, 0, 0, 0, 0, 0, none, [], []⟩

/-- The part in a phase of start-up. -/
def phaseIn (n : Nat) : State := z.setFld 0 F.boot_stat_phase n

/-- The part released. -/
def rel : State := z.setFld 0 F.boot_stat_loaded 1

/-- The part in LOAD with these bytes of the record area staged. -/
def staged (l : List Byte) : State :=
  ((phaseIn 5).poke (stageBase + 256) l).updBoot fun x => { x with staged := 256 + l.length }

/-- The part with a link of die 0 in a state. -/
def linkIn (n : Nat) : State := z.setFld 0 F.lnk_stat_state n 0

/-- The part with the WAN port of die 0 in a state. -/
def portIn (n : Nat) : State := z.setFld 0 F.wan_stat_state n

/-- The part with Felvar open on port 0: a key has been loaded and the unit is enabled. -/
def felvarIn : State := ((portIn 3).setFld 0 F.cip_ctl_en 1).updCip 0 fun x => { x with loads := 1 }

/-- A message of a kind to this node. -/
def msgTo (k : Nat) (low : Nat := 0) : Msg := ⟨k, z.node 0, 1, false, low, 0, []⟩

/-- A fragment's header of zeros. -/
def hdr0 : FragHdr := ⟨0, 0, 0, 0, 0, 0, 0, 0, 0, 0, 0, 0, 0, 0⟩

/-- A buffer of 1 MiB for early segments that is full. -/
def fullEarly : State :=
  (linkIn 5).updFab 0 fun x => { x with early := [{ msgTo 4 with data := List.replicate (2 ^ 20) 0 }] }

theorem fullEarly_full : fullEarly.earlyFull 0 = true := by
  have h : (fullEarly.fb 0).early = [{ msgTo 4 with data := List.replicate (2 ^ 20) 0 }] := rfl
  simp only [State.earlyFull, State.earlyUsed, h, List.map_cons, List.map_nil, List.length_replicate]; rfl

/-- A store of 16 MiB for fragments that is full. -/
def fullOuts : State := (linkIn 5).updMd 0 fun x => { x with outs := [⟨0, hdr0, List.replicate (2 ^ 24) 0⟩] }

theorem fullOuts_full : fullOuts.outsFull 0 = true := by
  have h : (fullOuts.meld.get 0).outs = [⟨0, hdr0, List.replicate (2 ^ 24) 0⟩] := rfl
  simp only [State.outsFull, h, List.map_cons, List.map_nil, List.length_replicate]; rfl

/-- The part with the job slot 0 of die 0 in a state. -/
def jobIn (n : Nat) : State := z.setFld 0 F.meld_job_st_state n 0

/-- The part with a record in the master's inbox. -/
def inboxIn (s : State) (typ : Byte) : State := { s with master := { s.master with inbox := [(0, 0, [typ])] } }

/-- A cut in progress in context 1. -/
def cut0 : CutRun := ⟨⟨1, 1, 0, false, false⟩, [], none, false, []⟩

/-- The part with that cut in a state. -/
def cutIn (n : Nat) : State := ({ z with ckp := { z.ckp with run := some cut0 } } : State).setFld 0 F.ckp_stat_state n

/-- A sending pair 0 with an entry of its own, and a connection. -/
def connIn (c : Conn) : State :=
  ((felvarIn.poke (z.entryAddr 0) [1]).poke (z.entryAddr 0 + 0x50) [1]).updWan 0 fun x => { x with conns := [c] }

/-- A sending pair 0 with a key in use and an entry of a member, and a connection with one message in flight. -/
def sealIn : State :=
  ((connIn ⟨0, 0, 0, 0, 0, [⟨0, [], 0⟩], [], [], true, 0⟩).updPair 0 0 fun x => { x with cur := some [] }).setFld 0
    F.cip_pair_stat_state 1 0

/-- A context entry of context 1 in memory and in the cache of die 0, with a doorbell of region 0. -/
def itemIn : State :=
  ((((rel.setFld 0 F.dlr_ctl_en 1).poke 256 [1]).poke 264 [1, 0, 0, 0, 4]).poke 312 [1]).updCtx 0 fun x =>
    { x with cache := [⟨0, 1, 0, 0⟩], db := [⟨1, 0, 1, false⟩] }

/-- The bytes of a legal descriptor of one FP32 element. -/
def descBytes : List Byte :=
  let ones (n : Nat) : List Byte := ((List.range 4).map fun _ => leBytes n 1).flatten
  List.replicate 16 0 ++ ones 4 ++ List.replicate 32 0 ++ ones 2 ++ List.replicate 8 0 ++ List.replicate 16 0 ++ ones 4 ++
    List.replicate 16 0

/-- A ZDA sentence of the first second of 2024. -/
def zda : List Byte := beBytes 33 0x2447505A44412C3030303030302C30312C30312C323032342C30302C30302A3443

/-- The first 160 bytes of a program's header. -/
def header0 : List Byte := leBytes 16 (0x4B4F5250 + 2 ^ 32 + 0x36 * 2 ^ 48 + 0xA0 * 2 ^ 64 + 16 * 2 ^ 96) ++ leBytes 144 1

/-- A staged program with a signature that the part accepts. -/
def verifyIn : State :=
  let l := header0 ++ leBytes 48 p384.gx ++
    leBytes 48 35219925135845527951002458917643908079743160569563591321361225852207743947526405074368133588025007491796851098687461
  ((phaseIn 4).poke stageBase l).updBoot fun x =>
    { x with staged := 272, fuses := { x.fuses with pkh := some (sha384 (header0.drop 64)) } }

/-! ## Worked examples of the spec -/

/-- `top.id` of die 1, and the register at offset 0x010 of unit `meld` of die 0, lie where 01's worked example says. -/
theorem test_csr_addresses : R.top_id.pa 1 0 = 0xF002000000 ∧ (csrAt 0xF002000000).map (fun a => (a.spec.name, a.d)) = some ("top.id", 1) ∧
    (csrAt 0xF000E00010).map (fun a => (a.spec.reg.unit, a.spec.reg.off, a.d)) = some (0x0E, 0x010, 0) := by decide +kernel

/-- 0x3F80_C000 to BF16: to nearest even, and stochastically with 0x2A5B and with 0x8000 (the example after R36). -/
theorem test_bf16_rounding : (Fmt.bf16.encodeFloat false .rne (f32v 0x3F80C000)).w = 0x3F81 ∧
    (Fmt.bf16.encodeFloat false (.sr 0x2A5B) (f32v 0x3F80C000)).w = 0x3F80 ∧
    (Fmt.bf16.encodeFloat false (.sr 0x8000) (f32v 0x3F80C000)).w = 0x3F81 := by decide +kernel

/-- The counter of element 100 of Meld block 1,000 at trick 41 (the example after R40). -/
theorem test_philox_counter :
    philoxCtr 0x101 41 .codec (1000 * 4096 + 100) = 0x101 * 2 ^ 96 + 0x00292000 * 2 ^ 32 + 0x0007D00C := by decide +kernel

/-- Three deltas in a Kitty cell in two orders read out 9,216 (the example after R56). -/
theorem test_kitty_order :
    (let a (k : Kitty) := (kittyAdd k (.fin false 1 (-10)) 14155776 0).cell
     let b (k : Kitty) := (kittyAdd k (.fin true 3 (-12)) 9437184 0).cell
     let c (k : Kitty) := (kittyAdd k (.fin false 1 (-11)) 4718592 0).cell
     (kittyRead (a (b (c Kitty.clear))) .fp32, kittyRead (c (b (a Kitty.clear))) .fp32, (a (b (c Kitty.clear))).sum)) =
      (0x46100000, 0x46100000, 2 ^ 162 + 2 ^ 159) := by decide +kernel

/-- PA 0x0_0031_2345_6A00: stack 0 of die 1, PC 13, row 291, SID 1, BG 1, bank 3 (the example after R215). -/
theorem test_hbm_interleave : ownerDie 0x3123456A00 = 1 ∧ hbmLoc (granuleOf 0x3123456A00) = ⟨0, 13, 291, 1 * 16 + 1 * 4 + 3, 1⟩ := by
  decide +kernel

/-- 0.75 in a DQ2 group of exponent −9 has code 2 (the example after R387). -/
theorem test_dq2_code : dq2Exp (.fin false 5 (-11)) = -9 ∧ dq2Code (-9) (.fin false 3 (-11)) .rne = 2 := by decide +kernel

/-! ## One step on a small state -/

/-- A field of the state after a command, 0 where the command stops. -/
def after (c : Instr) (s : State) (f : State → Nat) : Nat :=
  match exec c s with
  | .next t => f t
  | _ => 0

/-- A write of 0xA5 to the first byte of stacked SRAM after the reserved area reads back. -/
theorem test_sram_write : after (.memoryWrite 0 true (2 ^ 39 + 0x100000) [0xA5] ⟨false, [], []⟩) z (fun t => (t.byte (2 ^ 39 + 0x100000)).toNat) =
    0xA5 := by decide +kernel

/-- A write from outside to the reserved area is discarded and counted (R179). -/
theorem test_reserved_area : after (.memoryWrite 0 true (2 ^ 39) [0xA5] ⟨false, [], []⟩) z (fun t => (t.byte (2 ^ 39)).toNat +
    t.reg 0 R.sram_rsv_wr 0 * 256) = 256 := by decide +kernel

/-- Equalization of a link ends in ALIGN with 12 lanes (R295). -/
theorem test_link_equalize : after (.linkEqDone 1 17) (z.setFld 1 F.lnk_stat_state 2 17)
    (fun t => t.fld 1 F.lnk_stat_state 17 * 2 ^ 12 + t.fld 1 F.lnk_stat_lanes 17) = 0x3FFF := by decide +kernel

/-- ADD of sr1 and sr2 wraps into sr3, and the pc moves on (R140). -/
theorem test_add_wraps : after (.add 0 0) (prog (7 * 2 ^ 124 + 2 ^ 120 + 3 * 2 ^ 115 + 2 ^ 110 + 2 * 2 ^ 105)
    { run0 with sr := [(1, 2 ^ 64 - 1), (2, 2)] }) (fun t => (t.slot 0 0).sreg 3 + 2 * (t.slot 0 0).pc) = 1 + 2 * 16 := by decide +kernel

/-- A write of a doorbell before release changes nothing (R592). -/
theorem test_doorbell_before_release : after (.doorbell .host 0 1) z (fun t => t.reg 0 R.dlr_db 0 + 1) = 1 := by decide +kernel

/-- The brake throttles every region to `pwr.brake.th` (R653). -/
theorem test_brake : after .brakeAssert z (fun t => t.fld 0 F.pwr_stat_brake + 2 * t.fld 0 F.pwr_rclk_theta 15) =
    1 + 2 * z.fld 0 F.pwr_brake_th := by decide +kernel

/-- The queue is first in, first out: the front command runs, and the other stays. -/
theorem test_queue : (match step { z with pending := [.brakeAssert, .brakeRelease] } with
    | .next t => (t.pending, t.fld 0 F.pwr_stat_brake)
    | _ => ([], 0)) = ([.brakeRelease], 1) := by decide +kernel

/-! ## Commands that cannot come -/

/-- One ill-formed command for each check of `Instr.wellFormed`, and a well-formed one. -/
theorem test_ill_formed :
    (Instr.csrWrite .loader csrBase 32 0).wellFormed = false ∧ (Instr.csrWrite .host (2 ^ 64) 32 0).wellFormed = false ∧
    (Instr.csrWrite .host csrBase 0 0).wellFormed = false ∧ (Instr.csrWrite .host csrBase 12 0).wellFormed = false ∧
    (Instr.csrWrite .host csrBase 32 (2 ^ 64)).wellFormed = false ∧ (Instr.rcRead .loader csrBase 32).wellFormed = false ∧
    (Instr.counterLowRead .host (2 ^ 64)).wellFormed = false ∧ (Instr.kill .host 0 (2 ^ 32)).wellFormed = false ∧
    (Instr.memoryWrite 0 true (2 ^ 52) [0] ⟨false, [], []⟩).wellFormed = false ∧ (Instr.memoryWrite 0 true 0 [] ⟨false, [], []⟩).wellFormed = false ∧
    (Instr.ctxBaseWrite .host (2 ^ 64)).wellFormed = false ∧ (Instr.memoryRead 0 0 (2 ^ 13) ⟨[], []⟩).wellFormed = false ∧
    (Instr.readRow .loader).wellFormed = false ∧ (Instr.csrWrite .host csrBase 32 0).wellFormed = true := by decide +kernel

/-- The same for the checks of messages, frames and unit commands. -/
theorem test_ill_formed_units :
    (Instr.coherentAccess 0 0 (2 ^ 7) none 0).wellFormed = false ∧ (Instr.rds (2 ^ 52) 0).wellFormed = false ∧
    (Instr.rspev 0 0 (2 ^ 52)).wellFormed = false ∧ (Instr.hbmTempReport 0 0 (2 ^ 8)).wellFormed = false ∧
    (Instr.flitReceive 0 0 (2 ^ 128) []).wellFormed = false ∧ (Instr.rd 0 18 (msgTo 1)).wellFormed = false ∧
    (Instr.rd 0 0 (msgTo 16)).wellFormed = false ∧ (Instr.rd 0 0 (msgTo 1 (2 ^ 82))).wellFormed = false ∧
    (Instr.ethernetFrame 0 [] true).wellFormed = false ∧ (Instr.bulk 0 []).wellFormed = false ∧
    (Instr.pairElimWrite .host 0 0 (2 ^ 32)).wellFormed = false ∧ (Instr.controlRetransmit 0 0 (2 ^ 32)).wellFormed = false ∧
    (Instr.timeStep .host (2 ^ 64)).wellFormed = false ∧ (Instr.seal (2 ^ 32)).wellFormed = false ∧
    (Instr.bar0Read (2 ^ 41) 4).wellFormed = false ∧ (Instr.msixUnmask 0 (2 ^ 64) 0).wellFormed = false ∧
    (Instr.dbgWrite32 0 (2 ^ 32)).wellFormed = false ∧ (Instr.mgmtWrite64 0 (2 ^ 64) none).wellFormed = false ∧
    (Instr.rd 0 17 (msgTo 1)).wellFormed = true := by decide +kernel

/-! ## Witnesses -/

/-- For each clause of `MatrixCommandsComplete` that has hypotheses, a state and operands meet them together. -/
theorem test_MatrixCommandsComplete_witness :
    (∃ (s : State) (c : Fin 128) (e : Fin 4) (h : Hand) (i : Nat) (w : HandWord), s.tripped = false ∧ (s.cl c).nextWord = some (h,
      i, w) ∧ wordClass w.w = 2 ∧ bit w.w 107 = false ∧ bits w.w 114 2 = e ∧ (h.doneBefore i (fun y => isLoadWord y.w) = true) ∧
      (s.cl c).drainFault h w.w = none) ∧
    (∃ (s : State) (c : Fin 128) (e : Fin 4) (frz bub : Nat) (h : Hand) (f : Flight) (rest : List Flight), s.tripped = false ∧
      (s.eng c e).flight = f :: rest ∧ (s.cl c).run = some h ∧ (s.eng c e).blocked f = false) ∧
    (∃ (s : State) (c : Fin 128) (n : Nat) (y : KSplit) (p : Partial) (ps : List Partial), s.tripped = false ∧ (indexWhere (fun y =>
      y.complete && y.owner = some c.val) s.ksplits = some n) ∧ s.ksplits[n]? = some y ∧ y.sorted = p :: ps) ∧
    (∃ (s : State) (c : Fin 128) (e : Fin 4), s.tripped = false) ∧
    (∃ (s : State) (c : Fin 128) (h : Hand) (i : Nat) (w : HandWord) (q : BatReq) (u : State), s.tripped = false ∧ (s.cl c).nextWord
      = some (h, i, w) ∧ isThin w.w = true ∧ (h.doneBefore i (fun y => isLoadWord y.w) = true) ∧ (s.cl c).queued < 64 ∧ (s.cl
      c).drainFault h w.w = none ∧ q = ⟨i, w.w, mmaRows w.w⟩ ∧ u = s.setWord c i .started) ∧
    (∃ (s : State) (c : Fin 128) (n : Nat), s.tripped = false ∧ n < (s.cl c).bqOpen.length) ∧
    (∃ (s : State) (c : Fin 128) (b : Batch) (rest : List Batch) (h : Hand) (e : Nat) (q : BatReq) (qs : List BatReq), s.tripped =
      false ∧ (s.cl c).bqClosed = b :: rest ∧ (s.cl c).run = some h ∧ (((List.range 4).find? fun e => (s.eng c e).batchBank.isSome)
      = some e) ∧ b.reqs = q :: qs) ∧
    (∃ (s : State) (c : Fin 128) (f : Fin 3) (e : Fin 4) (o : Fin 0x400000) (h : Hand), (s.cl c).run = some h) ∧
    (∃ (s : State) (c : Fin 128) (f : IdleFault), s.tripped = false ∧ (s.cl c).run = none) :=
  ⟨
    ⟨(handIn [(wordOf (2 * 2 ^ 124))]), 0, 0, (handOf [(wordOf (2 * 2 ^ 124))]), 0, (wordOf (2 * 2 ^ 124)), by decide +kernel,
      by decide +kernel, by decide +kernel, by decide +kernel, by decide +kernel, by decide +kernel, by decide +kernel⟩,
    ⟨(clIn fun x =>
      { x with run := some (handOf []), engines := { Engine.reset with flight := [⟨0, 0, 0, [], false, 0, 0, [], false⟩] } ::
               x.engines.drop 1 }), 0, 0, 0, 0, (handOf []), ⟨0, 0, 0, [], false, 0, 0, [], false⟩, [], by decide +kernel,
      by decide +kernel, by decide +kernel, by decide +kernel⟩,
    ⟨{ z with ksplits := [⟨1, tile0, [part0]⟩] }, 0, 0, ⟨1, tile0, [part0]⟩, part0, [],
      by decide +kernel, by decide +kernel, by decide +kernel, by decide +kernel⟩,
    ⟨z, 127, 3, by decide +kernel⟩,
    ⟨(handIn [(wordOf (2 * 2 ^ 124 + 2 ^ 107))]), 0, (handOf [(wordOf (2 * 2 ^ 124 + 2 ^ 107))]), 0, (wordOf (2 * 2 ^ 124 + 2 ^
      107)), _, _, by decide +kernel, by decide +kernel, by decide +kernel, by decide +kernel, by decide +kernel, by decide +kernel,
      rfl, rfl⟩,
    ⟨(clIn fun x => { x with bqOpen := [⟨[], false⟩] }), 0, 0, by decide +kernel, by decide +kernel⟩,
    ⟨(clIn fun x => { x with run := some (handOf []), bqClosed := [⟨[⟨0, 0, 1⟩], false⟩] }), 0, ⟨[⟨0, 0, 1⟩], false⟩, [], (handOf
      []), 0, ⟨0, 0, 1⟩, [], by decide +kernel, by decide +kernel, by decide +kernel, by decide +kernel, by decide +kernel⟩,
    ⟨(handIn []), 0, 2, 3, 0, (handOf []), by decide +kernel⟩,
    ⟨z, 127, .lanes, by decide +kernel, by decide +kernel⟩⟩

/-- For each clause of `VectorCommandsComplete` that has hypotheses, a state and operands meet them together. -/
theorem test_VectorCommandsComplete_witness :
    (∃ (s : State) (c : Fin 128) (h : Hand) (va pa : Nat) (t : State × Except FaultInfo Nat) (q : Rd), s.tripped = false ∧ (s.cl
      c).run = some h ∧ h.cset = some va ∧ (s.cl c).loaded = false ∧ h.stopped = false ∧ t = s.translate (dieOfCluster c) (some
      (h.region % 8)) h.ctx va .read 1 ∧ t.2 = .ok pa ∧ q = t.1.read (dieOfCluster c) pa 1024 ∧ chainSetFault (chainWords q.data) =
      none) ∧
    (∃ (s : State) (c : Fin 128) (n : Nat) (q : PortRow), s.tripped = false ∧ (s.cl c).stop = false ∧ s.drainOffer c = some (n, q)) ∧
    (∃ (s : State) (c : Fin 128) (h : Hand) (i : Nat) (w : HandWord), s.tripped = false ∧ (s.cl c).nextWord = some (h, i, w) ∧
      wordClass w.w = 3 ∧ (h.doneBefore i (fun y => isLoadWord y.w) = true) ∧ vrunFits (chainEntry (s.cl c).chain (bits w.w 121 3))
      w.w = true) ∧
    (∃ (s : State) (c : Fin 128) (h : Hand) (q : VRun) (rest : List VRun), s.tripped = false ∧ (s.cl c).vruns = q :: rest ∧ (s.cl
      c).run = some h ∧ s.runHeld c q = false) ∧
    (∃ (s : State) (c : Fin 128) (n : Nat) (q : PipeRow), s.tripped = false ∧ (s.cl c).pipe[n]? = some q ∧ (((s.cl c).pipe.take
      n).any (fun y => y.src.word = q.src.word) = false)) ∧
    (∃ (s : State) (c : Fin 128) (f : VectorFault) (u : State), s.tripped = false ∧ f.masked = true ∧ f.cause ≠ 2 ∧ (u = if f.cause
      = 0 then s.lineFails c f.offset else s)) ∧
    (∃ (s : State) (c : Fin 128) (f : VectorFault) (u : State), s.tripped = false ∧ (f.masked = false ∨ f.cause = 2) ∧ (u = if
      f.cause = 0 then s.lineFails c f.offset else s) ∧ (f.comb = true ∨ (u.cl c).run.isSome = true)) :=
  ⟨
    ⟨(tlb (clIn fun x => { x with run := some { handOf [] with cset := some 0 } })), 0, { handOf [] with cset := some 0 }, 0, 2 ^ 39
      + 0x200000, _, _, by decide +kernel, by decide +kernel, by decide +kernel, by decide +kernel, by decide +kernel, rfl,
      by decide +kernel, rfl, by decide +kernel⟩,
    ⟨(clIn fun x =>
      { x with run := some (handOf [wordOf (2 * 2 ^ 124)]), engines := { Engine.reset with drain := some ⟨0, 0, 0, 0, false, 0, 0,
               []⟩ } :: x.engines.drop 1 }), 0, (((clIn fun x =>
      { x with run := some (handOf [wordOf (2 * 2 ^ 124)]), engines := { Engine.reset with drain := some ⟨0, 0, 0, 0, false, 0, 0,
               []⟩ } :: x.engines.drop 1 })).drainOffer 0).get (by decide +kernel) |>.1, (((clIn fun x =>
      { x with run := some (handOf [wordOf (2 * 2 ^ 124)]), engines := { Engine.reset with drain := some ⟨0, 0, 0, 0, false, 0, 0,
               []⟩ } :: x.engines.drop 1 })).drainOffer 0).get (by decide +kernel) |>.2, by decide +kernel, by decide +kernel,
      by decide +kernel⟩,
    ⟨(handIn [(wordOf (3 * 2 ^ 124))]), 0, (handOf [(wordOf (3 * 2 ^ 124))]), 0, (wordOf (3 * 2 ^ 124)), by decide +kernel,
      by decide +kernel, by decide +kernel, by decide +kernel, by decide +kernel⟩,
    ⟨(clIn fun x => { x with run := some (handOf [wordOf (3 * 2 ^ 124)]), vruns := [⟨0, 3 * 2 ^ 124, 0⟩] }), 0, (handOf [wordOf (3 *
      2 ^ 124)]), ⟨0, 3 * 2 ^ 124, 0⟩, [], by decide +kernel, by decide +kernel, by decide +kernel, by decide +kernel⟩,
    ⟨(clIn fun x => { x with pipe := [⟨.comb 0, [], 0, 0, 0, 0, false⟩] }), 0, 0, ⟨.comb 0, [], 0, 0, 0, 0, false⟩,
      by decide +kernel, by decide +kernel, by decide +kernel⟩,
    ⟨z, 0, ⟨0, 0, 0, false, true, false⟩, _, by decide +kernel, by decide +kernel, by decide +kernel, rfl⟩,
    ⟨z, 0, ⟨2, 0, 0, false, true, true⟩, _, by decide +kernel, by decide +kernel, rfl, by decide +kernel⟩⟩

/-- For each clause of `ControlWordsComplete` that has hypotheses, a state and operands meet them together. -/
theorem test_ControlWordsComplete_witness :
    (∃ (s : State) (r : Fin 16) (k : Fin 4) (w : Nat) (u : State), s.fetched r k .nop w ∧ u = s.decoded r k w ∧ ctrlClean w false
      false false = true) ∧
    (∃ (s : State) (r : Fin 16) (k : Fin 4) (w : Nat) (u : State) (x : Slot) (v : State), s.fetched r k .end_ w ∧ u = s.decoded r k
      w ∧ x = u.slot r k ∧ ctrlClean w false false false = true ∧ x.sched = none ∧ v = u.trace r k 6 (u.clk - x.firstClk) ∧ (v.slot
      r k).wait ≠ .stopped) ∧
    (∃ (s : State) (r : Fin 16) (k : Fin 4) (w : Nat) (u : State), s.fetched r k .fence w ∧ u = s.decoded r k w ∧ ctrlClean w false
      false false = true) ∧
    (∃ (s : State) (r : Fin 16) (k : Fin 4), s.tripped = false ∧ (s.slot r k).wait = .fence ∧ s.quiet r k = true) ∧
    (∃ (s : State) (r : Fin 16) (k : Fin 4) (w : Nat) (u : State), s.fetched r k .sync w ∧ u = s.decoded r k w ∧ ctrlClean w false
      true true = true ∧ bit (bits w 96 16) r = true) ∧
    (∃ (s : State) (r : Fin 16) (k : Fin 4) (id mask : Nat), s.tripped = false ∧ (s.slot r k).wait = .sync id mask ∧ ((maskIdx 16
      mask).all (fun q => s.arrived q (s.slot r k).ctx id mask) = true)) ∧
    (∃ (s : State) (r : Fin 16) (k : Fin 4) (w : Nat) (u : State), s.fetched r k .waitf w ∧ u = s.decoded r k w ∧ ctrlClean w true
      false true = true) ∧
    (∃ (s : State) (r : Fin 16) (k : Fin 4) (f a : Nat), s.tripped = false ∧ (s.slot r k).wait = .waitf f a ∧ a ≤ (s.slot r k).flag
      f) ∧
    (∃ (s : State) (r : Fin 16) (k : Fin 4) (w : Nat) (u : State), s.fetched r k .postf w ∧ u = s.decoded r k w ∧ ctrlClean w true
      false true = true) ∧
    (∃ (s : State) (r : Fin 16) (k : Fin 4) (w : Nat) (u : State), s.fetched r k .flushq w ∧ u = s.decoded r k w ∧ ctrlClean w false
      true false = true ∧ bits w 104 8 = 0) ∧
    (∃ (s : State) (r : Fin 16) (k : Fin 4) (w : Nat) (u : State), s.fetched r k .trap w ∧ u = s.decoded r k w ∧ ctrlClean w false
      false true = true) ∧
    (∃ (s : State) (r : Fin 16) (k : Fin 4) (x : Slot), s.tripped = false ∧ x = s.slot r k ∧ ((∃ f a, x.wait = .waitf f a) ∨ (∃ id
      mask, x.wait = .sync id mask) ∨ x.wait = .fence ∨ x.wait = .bound ∨ ∃ t, x.wait = .waita t) ∧ x.wdSeen = false ∧ x.wdLim ≠ 0) ∧
    (∃ (s : State) (r : Fin 16) (k : Fin 4) (w : Nat) (u : State) (x : Slot) (n skip : Nat), s.fetched r k .loopBegin w ∧
      s.endToFetch r k = none ∧ u = s.decoded r k w ∧ x = u.slot r k ∧ bits w 120 3 ≠ 0 ∧ bits w 120 3 ≠ 7 ∧ bits w 120 3 =
      x.loops.length + 1 ∧ (((u.rg r).wordAt x.ctx (loopEndVa (s.slot r k).pc w)).any (fun e => isLoopEnd e (bits w 120 3)) = true)
      ∧ loopClean w = true ∧ loopCount x w = some (n, skip)) ∧
    (∃ (s : State) (r : Fin 16) (k : Fin 4) (w : Nat) (u : State) (x : Slot) (l : Loop), s.fetched r k .loopEnd w ∧ u = s.decoded r
      k w ∧ x = u.slot r k ∧ x.loops.getLast? = some l ∧ bits w 120 3 = l.lvl ∧ (s.slot r k).pc = (l.va + 16 * (l.nb + 1)) % 2 ^ 48
      ∧ bits w 0 120 = 0 ∧ l.i + 1 < l.n) ∧
    (∃ (s : State) (r : Fin 16) (k : Fin 4) (w : Nat) (u : State) (x : Slot) (l : Loop), s.fetched r k .loopEnd w ∧ u = s.decoded r
      k w ∧ x = u.slot r k ∧ x.loops.getLast? = some l ∧ bits w 120 3 = l.lvl ∧ (s.slot r k).pc = (l.va + 16 * (l.nb + 1)) % 2 ^ 48
      ∧ bits w 0 120 = 0 ∧ l.n ≤ l.i + 1) ∧
    (∃ (s : State) (r : Fin 16) (k : Fin 4) (w : Nat) (u : State) (x : Slot) (b : Bool) (dst : Int), s.fetched r k .test w ∧ u =
      s.decoded r k w ∧ x = u.slot r k ∧ testClean w = true ∧ (testCond (bits w 121 3) (x.sreg (bits w 116 5)) (if bit w 110 then
      bits w 0 64 else x.sreg (bits w 111 5)) = some b) ∧ dst = (s.slot r k).pc + 16 * signed 32 (bits w 64 32) ∧ u.targetOk r k dst
      = true) :=
  ⟨
    ⟨(prog (0)), 0, 0, 0, _, by unfold State.fetched; decide +kernel, rfl, by decide +kernel⟩,
    ⟨(prog (2 ^ 120)), 0, 0, 2 ^ 120, _, _, _, by unfold State.fetched; decide +kernel, rfl, rfl, by decide +kernel,
      by decide +kernel, rfl, by decide +kernel⟩,
    ⟨(prog (2 * 2 ^ 120)), 0, 0, 2 * 2 ^ 120, _, by unfold State.fetched; decide +kernel, rfl, by decide +kernel⟩,
    ⟨(slotIn { run0 with wait := .fence }), 0, 0, by decide +kernel, by decide +kernel, by decide +kernel⟩,
    ⟨(prog (3 * 2 ^ 120 + 2 ^ 96)), 0, 0, 3 * 2 ^ 120 + 2 ^ 96, _, by unfold State.fetched; decide +kernel, rfl, by decide +kernel,
      by decide +kernel⟩,
    ⟨(slotIn { run0 with wait := .sync 7 1 }), 0, 0, 7, 1, by decide +kernel, by decide +kernel, by decide +kernel⟩,
    ⟨(prog (4 * 2 ^ 120)), 0, 0, 4 * 2 ^ 120, _, by unfold State.fetched; decide +kernel, rfl, by decide +kernel⟩,
    ⟨(slotIn { run0 with wait := .waitf 63 0 }), 0, 0, 63, 0, by decide +kernel, by decide +kernel, by decide +kernel⟩,
    ⟨(prog (5 * 2 ^ 120)), 0, 0, 5 * 2 ^ 120, _, by unfold State.fetched; decide +kernel, rfl, by decide +kernel⟩,
    ⟨(prog (6 * 2 ^ 120)), 0, 0, 6 * 2 ^ 120, _, by unfold State.fetched; decide +kernel, rfl, by decide +kernel, by decide +kernel⟩,
    ⟨(prog (7 * 2 ^ 120)), 0, 0, 7 * 2 ^ 120, _, by unfold State.fetched; decide +kernel, rfl, by decide +kernel⟩,
    ⟨slotIn { run0 with wait := .fence, wdLim := 1 }, 0, 0, _, by decide +kernel, rfl, .inr (.inr (.inl rfl)), by decide +kernel,
      by decide +kernel⟩,
    ⟨(slotIn run0).updRg 0 fun g =>
      { g with pbuf := [⟨1, 0, leBytes 16 (6 * 2 ^ 124 + 2 ^ 120 + 15 * 2 ^ 116) ++ leBytes 16 (6 * 2 ^ 124 + 2 ^ 123 + 2 ^ 120)⟩] },
      0, 0, 6 * 2 ^ 124 + 2 ^ 120 + 15 * 2 ^ 116, _, _, 0, 0, by unfold State.fetched; decide +kernel, by decide +kernel, rfl, rfl,
      by decide +kernel, by decide +kernel, by decide +kernel, by decide +kernel, by decide +kernel, by rfl⟩,
    ⟨(prog (6 * 2 ^ 124 + 2 ^ 123 + 2 ^ 120) ({ run0 with pc := 16, loops := [⟨1, 0, 0, 0, 2, 0⟩] })), 0, 0, 6 * 2 ^ 124 + 2 ^ 123 +
      2 ^ 120, _, _, ⟨1, 0, 0, 0, 2, 0⟩, by unfold State.fetched; decide +kernel, rfl, rfl, by rfl, by decide +kernel,
      by decide +kernel, by decide +kernel, by decide +kernel⟩,
    ⟨(prog (6 * 2 ^ 124 + 2 ^ 123 + 2 ^ 120) ({ run0 with pc := 16, loops := [⟨1, 0, 0, 0, 1, 0⟩] })), 0, 0, 6 * 2 ^ 124 + 2 ^ 123 +
      2 ^ 120, _, _, ⟨1, 0, 0, 0, 1, 0⟩, by unfold State.fetched; decide +kernel, rfl, rfl, by rfl, by decide +kernel,
      by decide +kernel, by decide +kernel, by decide +kernel⟩,
    ⟨(prog (8 * 2 ^ 124)), 0, 0, 8 * 2 ^ 124, _, _, true, _, by unfold State.fetched; decide +kernel, rfl, rfl, by decide +kernel,
      by rfl, rfl, by decide +kernel⟩⟩

/-- For each clause of `ItemCommandsComplete` that has hypotheses, a state and operands meet them together. -/
theorem test_ItemCommandsComplete_witness :
    (∃ (s : State) (r : Fin 16) (n c : Nat), s.tripped = false ∧ (((List.range 4).find? fun k => (s.slot r k).st = .idle) = some n)
      ∧ s.takesItems r = true ∧ (s.candidates r).1.chooseCtx r (s.candidates r).2 = some c) ∧
    (∃ (s : State) (r : Fin 16) (k : Fin 4) (x : Slot) (u : State), s.tripped = false ∧ s.completes r k = true ∧ x = s.slot r k ∧ u
      = ((s.writeRecord r k).countDone r x.ctx).tally (dieOfRegion r) R.dlr_t_item (r % 8)) ∧
    (∃ (s : State) (r : Fin 16) (k : Fin 4) (x : Slot) (a va pa : Nat) (t : State × Except FaultInfo Nat) (q : Rd), s.tripped =
      false ∧ x = s.slot r k ∧ x.wait = .fetch a ∧ (s.ctxd.get (dieOfRegion r)).pbRun = none ∧ va = a / 4096 * 4096 ∧ s.vaStalls r
      x.ctx va 4096 .fetch 0 = false ∧ t = s.translate (dieOfRegion r) (some (r % 8)) x.ctx va .fetch 0 ∧ t.2 = .ok pa ∧ q =
      t.1.read (dieOfRegion r) pa 4096) ∧
    (∃ (s : State) (d : Fin 2) (a : Nat) (b : Option Nat) (u : State), s.tripped = false ∧ (s.ctxd.get d).pbRun = some a ∧
      (s.ctxd.get d).pbHeld = b ∧ (u = (s.updCtx d fun y => { y with pbRun := none, pbHeld := none }).setFld d F.dlr_pbinv_go 0)) ∧
    (∃ (s : State) (r : Fin 16) (k : Fin 4) (n : Nat) (q : DigestTask), s.tripped = false ∧ (s.slot r k).digests[n]? = some q ∧
      q.input = true) ∧
    (∃ (s : State) (r : Fin 16) (k : Fin 4) (n : Nat) (q : DigestTask), s.tripped = false ∧ (s.slot r k).digests[n]? = some q ∧
      q.input = false ∧ q.output = true ∧ s.digestsDue r k = true) ∧
    (∃ (s : State) (r : Fin 16) (k : Fin 4) (n a : Nat), s.tripped = false ∧ n = (s.slot r k).digests.length ∧ (s.slot r k).progDig
      = some a ∧ s.digestsDue r k = true) ∧
    (∃ (s : State) (r : Fin 16) (q : DigestRec) (rest : List DigestRec) (a head : Nat) (u : State), s.tripped = false ∧ (s.rg
      r).digests = q :: rest ∧ s.digestRoom r = true ∧ head = s.fld 0 F.det_dr_ptr_head r ∧ a = s.fld 0 F.det_dr_base r * 4096 +
      head % ((s.fld 0 F.det_dr_size r + 1) * 64) * 64 ∧ (u = (s.writeRaw (dieOfRegion r) a q.bytes).updRg r fun y =>
      { y with digests := rest })) :=
  ⟨
    ⟨itemIn, 0, 0, 1, by decide +kernel, by decide +kernel, by decide +kernel, by decide +kernel⟩,
    ⟨(slotIn { run0 with st := .completing }), 0, 0, _, _, by decide +kernel, by decide +kernel, rfl, rfl⟩,
    ⟨(tlb (slotIn { run0 with wait := .fetch 0 })), 0, 0, _, 0, _, 2 ^ 39 + 0x200000, _, _, by decide +kernel, rfl,
      by decide +kernel, by decide +kernel, rfl, by decide +kernel, rfl, by decide +kernel, rfl⟩,
    ⟨(z.updCtx 0 fun y => { y with pbRun := some 0 }), 0, 0, none, _, by decide +kernel, by decide +kernel, by decide +kernel, rfl⟩,
    ⟨(slotIn { run0 with digests := [⟨0, desc0, true, true, false, []⟩] }), 0, 0, 0, ⟨0, desc0, true, true, false, []⟩,
      by decide +kernel, by decide +kernel, by decide +kernel⟩,
    ⟨(slotIn { run0 with digests := [⟨0, desc0, true, false, true, []⟩], endDone := true }), 0, 0, 0, ⟨0, desc0, true, false, true,
      []⟩, by decide +kernel, by decide +kernel, by decide +kernel, by decide +kernel, by decide +kernel⟩,
    ⟨(slotIn { run0 with progDig := some 0, endDone := true }), 0, 0, 0, 0, by decide +kernel, by decide +kernel, by decide +kernel,
      by decide +kernel⟩,
    ⟨((z.updRg 0 fun g => { g with digests := [⟨none, []⟩] }).setFld 0 F.det_dr_en 1 0), 0, ⟨none, []⟩, [], _, _, _,
      by decide +kernel, by decide +kernel, by decide +kernel, rfl, rfl, rfl⟩⟩

/-- For each clause of `ScalarWordsComplete` that has hypotheses, a state and operands meet them together. -/
theorem test_ScalarWordsComplete_witness :
    (∃ (s : State) (r : Fin 16) (k : Fin 4) (w : Nat) (u : State), s.fetched r k .li w ∧ u = s.decoded r k w ∧
      bits w 64 51 = 0) ∧
    (∃ (s : State) (r : Fin 16) (k : Fin 4) (w : Nat) (u : State) (x : Slot) (a b : Nat), s.fetched r k .add w ∧
      u = s.decoded r k w ∧ x = u.slot r k ∧ sregClean w = true ∧ a = x.sreg (bits w 110 5) ∧ b = sregB x w) ∧
    (∃ (s : State) (r : Fin 16) (k : Fin 4) (w : Nat) (u : State) (x : Slot) (a b : Nat), s.fetched r k .sub w ∧
      u = s.decoded r k w ∧ x = u.slot r k ∧ sregClean w = true ∧ a = x.sreg (bits w 110 5) ∧ b = sregB x w) ∧
    (∃ (s : State) (r : Fin 16) (k : Fin 4) (w : Nat) (u : State) (x : Slot) (a b : Nat), s.fetched r k .mul w ∧
      u = s.decoded r k w ∧ x = u.slot r k ∧ sregClean w = true ∧ a = x.sreg (bits w 110 5) ∧ b = sregB x w) ∧
    (∃ (s : State) (r : Fin 16) (k : Fin 4) (w : Nat) (u : State) (x : Slot) (a b : Nat), s.fetched r k .and w ∧
      u = s.decoded r k w ∧ x = u.slot r k ∧ sregClean w = true ∧ a = x.sreg (bits w 110 5) ∧ b = sregB x w) ∧
    (∃ (s : State) (r : Fin 16) (k : Fin 4) (w : Nat) (u : State) (x : Slot) (a b : Nat), s.fetched r k .or w ∧
      u = s.decoded r k w ∧ x = u.slot r k ∧ sregClean w = true ∧ a = x.sreg (bits w 110 5) ∧ b = sregB x w) ∧
    (∃ (s : State) (r : Fin 16) (k : Fin 4) (w : Nat) (u : State) (x : Slot) (a b : Nat), s.fetched r k .shl w ∧
      u = s.decoded r k w ∧ x = u.slot r k ∧ sregClean w = true ∧ a = x.sreg (bits w 110 5) ∧ b = sregB x w) ∧
    (∃ (s : State) (r : Fin 16) (k : Fin 4) (w : Nat) (u : State) (x : Slot) (a b : Nat), s.fetched r k .shr w ∧
      u = s.decoded r k w ∧ x = u.slot r k ∧ sregClean w = true ∧ a = x.sreg (bits w 110 5) ∧ b = sregB x w) ∧
    (∃ (s : State) (r : Fin 16) (k : Fin 4) (w : Nat) (u : State) (x : Slot) (a b : Nat), s.fetched r k .min w ∧
      u = s.decoded r k w ∧ x = u.slot r k ∧ sregClean w = true ∧ a = x.sreg (bits w 110 5) ∧ b = sregB x w) ∧
    (∃ (s : State) (r : Fin 16) (k : Fin 4) (w : Nat) (u : State) (x : Slot) (a b : Nat), s.fetched r k .max w ∧
      u = s.decoded r k w ∧ x = u.slot r k ∧ sregClean w = true ∧ a = x.sreg (bits w 110 5) ∧ b = sregB x w) :=
  ⟨
    ⟨(prog (7 * 2 ^ 124 + 0 * 2 ^ 120)), 0, 0, 7 * 2 ^ 124 + 0 * 2 ^ 120, _, by unfold State.fetched; decide +kernel, rfl,
      by decide +kernel⟩,
    ⟨(prog (7 * 2 ^ 124 + 1 * 2 ^ 120)), 0, 0, 7 * 2 ^ 124 + 1 * 2 ^ 120, _, _, _, _, by unfold State.fetched; decide +kernel,
      rfl, rfl, by decide +kernel, rfl, rfl⟩,
    ⟨(prog (7 * 2 ^ 124 + 2 * 2 ^ 120)), 0, 0, 7 * 2 ^ 124 + 2 * 2 ^ 120, _, _, _, _, by unfold State.fetched; decide +kernel,
      rfl, rfl, by decide +kernel, rfl, rfl⟩,
    ⟨(prog (7 * 2 ^ 124 + 3 * 2 ^ 120)), 0, 0, 7 * 2 ^ 124 + 3 * 2 ^ 120, _, _, _, _, by unfold State.fetched; decide +kernel,
      rfl, rfl, by decide +kernel, rfl, rfl⟩,
    ⟨(prog (7 * 2 ^ 124 + 4 * 2 ^ 120)), 0, 0, 7 * 2 ^ 124 + 4 * 2 ^ 120, _, _, _, _, by unfold State.fetched; decide +kernel,
      rfl, rfl, by decide +kernel, rfl, rfl⟩,
    ⟨(prog (7 * 2 ^ 124 + 5 * 2 ^ 120)), 0, 0, 7 * 2 ^ 124 + 5 * 2 ^ 120, _, _, _, _, by unfold State.fetched; decide +kernel,
      rfl, rfl, by decide +kernel, rfl, rfl⟩,
    ⟨(prog (7 * 2 ^ 124 + 6 * 2 ^ 120)), 0, 0, 7 * 2 ^ 124 + 6 * 2 ^ 120, _, _, _, _, by unfold State.fetched; decide +kernel,
      rfl, rfl, by decide +kernel, rfl, rfl⟩,
    ⟨(prog (7 * 2 ^ 124 + 7 * 2 ^ 120)), 0, 0, 7 * 2 ^ 124 + 7 * 2 ^ 120, _, _, _, _, by unfold State.fetched; decide +kernel,
      rfl, rfl, by decide +kernel, rfl, rfl⟩,
    ⟨(prog (7 * 2 ^ 124 + 8 * 2 ^ 120)), 0, 0, 7 * 2 ^ 124 + 8 * 2 ^ 120, _, _, _, _, by unfold State.fetched; decide +kernel,
      rfl, rfl, by decide +kernel, rfl, rfl⟩,
    ⟨(prog (7 * 2 ^ 124 + 9 * 2 ^ 120)), 0, 0, 7 * 2 ^ 124 + 9 * 2 ^ 120, _, _, _, _, by unfold State.fetched; decide +kernel,
      rfl, rfl, by decide +kernel, rfl, rfl⟩⟩

/-- For each clause of `MemoryAndMeldWordsComplete` that has hypotheses, a state and operands meet them together. -/
theorem test_MemoryAndMeldWordsComplete_witness :
    (∃ (s : State) (r : Fin 16) (k : Fin 4) (w : Nat) (u : State) (x : Slot) (a : Nat), s.fetched r k .ld w ∧ u = s.decoded r k w ∧
      x = u.slot r k ∧ sregClean w = true ∧ a = (x.sreg (bits w 110 5) + sregB x w) % 2 ^ 48 ∧ a % 8 = 0) ∧
    (∃ (s : State) (r : Fin 16) (k : Fin 4) (rd va pa : Nat) (t : State × Except FaultInfo Nat) (q : Rd), s.tripped = false ∧
      (s.slot r k).wait = .ld rd va ∧ s.vaStalls r (s.slot r k).ctx va 8 .read 1 = false ∧ t = s.translate (dieOfRegion r) (some (r
      % 8)) (s.slot r k).ctx va .read 1 ∧ t.2 = .ok pa ∧ q = t.1.read (dieOfRegion r) pa 8) ∧
    (∃ (s : State) (r : Fin 16) (k : Fin 4) (w : Nat) (u : State) (x : Slot) (a pa : Nat) (t : State × Except FaultInfo Nat),
      s.fetched r k .st w ∧ s.stStalls r k = false ∧ u = s.decoded r k w ∧ x = u.slot r k ∧ sregClean w = true ∧ a = (x.sreg (bits w
      110 5) + sregB x w) % 2 ^ 48 ∧ a % 8 = 0 ∧ t = u.translate (dieOfRegion r) (some (r % 8)) x.ctx a .write 1 ∧ t.2 = .ok pa) ∧
    (∃ (s : State) (r : Fin 16) (k : Fin 4) (w : Nat) (u : State) (x : Slot) (a : Nat), s.fetched r k .ldd w ∧ u = s.decoded r k w ∧
      x = u.slot r k ∧ sregClean w = true ∧ bit w 119 = false ∧ a = (x.sreg (bits w 110 5) + sregB x w) % 2 ^ 48 ∧ a % 128 = 0) ∧
    (∃ (s : State) (r : Fin 16) (k : Fin 4) (ds va pa : Nat) (y : Desc) (t : State × Except FaultInfo Nat) (q : Rd), s.tripped =
      false ∧ (s.slot r k).wait = .ldd ds va ∧ s.vaStalls r (s.slot r k).ctx va 128 .read 1 = false ∧ t = s.translate (dieOfRegion
      r) (some (r % 8)) (s.slot r k).ctx va .read 1 ∧ t.2 = .ok pa ∧ q = t.1.read (dieOfRegion r) pa 128 ∧ checkDesc q.data = some
      y) ∧
    (∃ (s : State) (r : Fin 16) (k : Fin 4) (w : Nat) (u : State) (x : Slot) (a : Nat), s.fetched r k .rdt w ∧ u = s.decoded r k w ∧
      x = u.slot r k ∧ bits w 14 101 = 0 ∧ (bits w 0 14 % 256 = 5 ∨ bits (bits w 0 14) 8 6 = 0) ∧ rdtSource u x (bits w 0 14) = some
      a ∧ x.replay = false) ∧
    (∃ (s : State) (r : Fin 16) (k : Fin 4) (w : Nat) (u : State) (x : Slot) (j : Nat), s.fetched r k .trick w ∧ u = s.decoded r k w
      ∧ x = u.slot r k ∧ r.val % 8 = 0 ∧ bits w 0 115 = 0 ∧ u.meldSlot (dieOfRegion r) x.ctx = some j ∧ u.jobSt (dieOfRegion r) j =
      3 ∧ x.sreg (bits w 115 5) = u.acc (dieOfRegion r) j ∧ x.sreg (bits w 115 5) ≠ 2 ^ 64 - 1) ∧
    (∃ (s : State) (r : Fin 16) (k : Fin 4) (w : Nat) (u : State) (x : Slot) (j : Nat), s.fetched r k .bound w ∧ u = s.decoded r k w
      ∧ x = u.slot r k ∧ r.val % 8 = 0 ∧ bits w 0 115 = 0 ∧ bits w 115 5 = 0 ∧ u.meldSlot (dieOfRegion r) x.ctx = some j ∧ u.jobSt
      (dieOfRegion r) j = 3) ∧
    (∃ (s : State) (r : Fin 16) (k : Fin 4) (w : Nat) (u : State) (x : Slot) (j : Nat), s.fetched r k .waita w ∧ u = s.decoded r k w
      ∧ x = u.slot r k ∧ r.val % 8 = 0 ∧ bits w 0 115 = 0 ∧ u.meldSlot (dieOfRegion r) x.ctx = some j ∧ u.jobSt (dieOfRegion r) j ≠
      1 ∧ u.jobSt (dieOfRegion r) j ≠ 15 ∧ x.sreg (bits w 115 5) ≤ u.applied (dieOfRegion r) j) ∧
    (∃ (s : State) (r : Fin 16) (k : Fin 4) (t j : Nat) (x : Slot), s.tripped = false ∧ x = s.slot r k ∧ x.wait = .trick t ∧
      s.meldSlot (dieOfRegion r) x.ctx = some j ∧ s.jobSt (dieOfRegion r) j = 3 ∧ t = s.acc (dieOfRegion r) j ∧ t ≠ 2 ^ 64 - 1) ∧
    (∃ (s : State) (r : Fin 16) (k : Fin 4) (j : Nat) (x : Slot), s.tripped = false ∧ x = s.slot r k ∧ x.wait = .bound ∧ s.meldSlot
      (dieOfRegion r) x.ctx = some j ∧ s.jobSt (dieOfRegion r) j = 8) ∧
    (∃ (s : State) (r : Fin 16) (k : Fin 4) (t j : Nat) (x : Slot), s.tripped = false ∧ x = s.slot r k ∧ x.wait = .waita t ∧
      s.meldSlot (dieOfRegion r) x.ctx = some j ∧ s.jobSt (dieOfRegion r) j ≠ 1 ∧ s.jobSt (dieOfRegion r) j ≠ 15 ∧ t ≤ s.applied
      (dieOfRegion r) j) :=
  ⟨
    ⟨(prog (7 * 2 ^ 124 + 10 * 2 ^ 120)), 0, 0, 7 * 2 ^ 124 + 10 * 2 ^ 120, _, _, _, by unfold State.fetched; decide +kernel, rfl,
      rfl, by decide +kernel, rfl, by decide +kernel⟩,
    ⟨(tlb (slotIn { run0 with wait := .ld 1 0 })), 0, 0, 1, 0, 2 ^ 39 + 0x200000, _, _, by decide +kernel, by decide +kernel,
      by decide +kernel, rfl, by decide +kernel, rfl⟩,
    ⟨(tlb (prog (7 * 2 ^ 124 + 11 * 2 ^ 120))), 0, 0, 7 * 2 ^ 124 + 11 * 2 ^ 120, _, _, _, 2 ^ 39 + 0x200000, _,
      by unfold State.fetched; decide +kernel, by decide +kernel, rfl, rfl, by decide +kernel, rfl, by decide +kernel, rfl,
      by decide +kernel⟩,
    ⟨(prog (7 * 2 ^ 124 + 12 * 2 ^ 120)), 0, 0, 7 * 2 ^ 124 + 12 * 2 ^ 120, _, _, _, by unfold State.fetched; decide +kernel, rfl,
      rfl, by decide +kernel, by decide +kernel, rfl, by decide +kernel⟩,
    ⟨((tlb (slotIn { run0 with wait := .ldd 0 0 })).poke (2 ^ 39 + 0x200000) descBytes), 0, 0, 0, 0, 2 ^ 39 + 0x200000, (checkDesc
      descBytes).get (by decide +kernel), _, _, by decide +kernel, by decide +kernel, by decide +kernel, rfl, by decide +kernel,
      rfl, by rfl⟩,
    ⟨(prog (7 * 2 ^ 124 + 13 * 2 ^ 120 + 5)), 0, 0, 7 * 2 ^ 124 + 13 * 2 ^ 120 + 5, _, _, 0,
      by unfold State.fetched; decide +kernel, rfl, rfl, by decide +kernel, by decide +kernel, by rfl, by decide +kernel⟩,
    ⟨((prog (9 * 2 ^ 124) { run0 with ctx := 0 }).setFld 0 F.meld_job_st_state 3 0), 0, 0, 9 * 2 ^ 124, _, _, 0,
      by unfold State.fetched; decide +kernel, rfl, rfl, by decide +kernel, by decide +kernel, by rfl, by decide +kernel,
      by decide +kernel, by decide +kernel⟩,
    ⟨((prog (9 * 2 ^ 124 + 2 ^ 120) { run0 with ctx := 0 }).setFld 0 F.meld_job_st_state 3 0), 0, 0, 9 * 2 ^ 124 + 2 ^ 120, _, _, 0,
      by unfold State.fetched; decide +kernel, rfl, rfl, by decide +kernel, by decide +kernel, by decide +kernel, by rfl,
      by decide +kernel⟩,
    ⟨((prog (9 * 2 ^ 124 + 2 * 2 ^ 120) { run0 with ctx := 0 }).setFld 0 F.meld_job_st_state 3 0), 0, 0, 9 * 2 ^ 124 + 2 * 2 ^ 120,
      _, _, 0, by unfold State.fetched; decide +kernel, rfl, rfl, by decide +kernel, by decide +kernel, by rfl, by decide +kernel,
      by decide +kernel, by decide +kernel⟩,
    ⟨((slotIn { run0 with ctx := 0, wait := .trick 0 }).setFld 0 F.meld_job_st_state 3 0), 0, 0, 0, 0, _, by decide +kernel, rfl,
      by decide +kernel, by rfl, by decide +kernel, by decide +kernel, by decide +kernel⟩,
    ⟨((slotIn { run0 with ctx := 0, wait := .bound }).setFld 0 F.meld_job_st_state 8 0), 0, 0, 0, _, by decide +kernel, rfl,
      by decide +kernel, by rfl, by decide +kernel⟩,
    ⟨((slotIn { run0 with ctx := 0, wait := .waita 0 }).setFld 0 F.meld_job_st_state 3 0), 0, 0, 0, 0, _, by decide +kernel, rfl,
      by decide +kernel, by rfl, by decide +kernel, by decide +kernel, by decide +kernel⟩⟩

/-- For each clause of `HandCommandsComplete` that has hypotheses, a state and operands meet them together. -/
theorem test_HandCommandsComplete_witness :
    (∃ (s : State) (r : Fin 16) (k : Fin 4) (w : Nat) (u : State), s.fetched r k .hand w ∧ u = s.decoded r k w ∧ handClean w = true) ∧
    (∃ (s : State) (r : Fin 16) (k : Fin 4) (h : OpenHand) (x : Slot), s.tripped = false ∧ x = s.slot r k ∧ x.hand = some h ∧
      x.collecting = false ∧ x.st = .running ∧ (x.wait = .none ∨ x.wait = .handFull)) ∧
    (∃ (s : State) (c : Fin 128) (h : Hand) (rest : List Hand) (u : State), s.tripped = false ∧ (s.cl c).run = none ∧ (s.cl c).queue
      = h :: rest ∧ (u = s.updCl c fun y => { y with queue := rest }) ∧ u.outOfService c = false) ∧
    (∃ (s : State) (c : Fin 128) (h : Hand) (u : State), s.tripped = false ∧ (s.cl c).run = some h ∧ (h.stopped = true ∨ ((s.cl
      c).loaded = true ∧ h.words.all (fun w => w.st = .done) = true)) ∧ s.writesHeld c = false ∧ (u = s.updCl c fun y =>
      { y with run := none, loaded := false, written := [], held := [] })) ∧
    (∃ (s : State) (c : Fin 128) (h : Hand) (i : Nat) (w : HandWord) (q : DmaJob), s.tripped = false ∧ (s.cl c).nextWord = some (h,
      i, w) ∧ w.dma = some q ∧ isDma w.w 0 = true ∧ s.dmaReady c h i q = true) ∧
    (∃ (s : State) (c : Fin 128) (h : Hand) (i : Nat) (w : HandWord) (q : DmaJob), s.tripped = false ∧ (s.cl c).nextWord = some (h,
      i, w) ∧ w.dma = some q ∧ isDma w.w 1 = true ∧ s.dmaReady c h i q = true) ∧
    (∃ (s : State) (c : Fin 128) (h : Hand) (i : Nat) (w : HandWord) (q : DmaJob), s.tripped = false ∧ (s.cl c).nextWord = some (h,
      i, w) ∧ w.dma = some q ∧ isDma w.w 2 = true ∧ s.dmaReady c h i q = true) ∧
    (∃ (s : State) (c : Fin 128) (h : Hand) (i : Nat) (w : HandWord) (q : DmaJob), s.tripped = false ∧ (s.cl c).nextWord = some (h,
      i, w) ∧ w.dma = some q ∧ isDma w.w 3 = true ∧ s.dmaReady c h i q = true) ∧
    (∃ (s : State) (c : Fin 128) (n : Nat) (errs : List (Nat × Ecc)) (h : Hand) (w : HandWord) (q : DmaJob) (x : State × Except
      FaultInfo Unit), s.tripped = false ∧ (s.cl c).run = some h ∧ h.words[n]? = some w ∧ w.dma = some q ∧ h.stopped = false ∧ w.st
      = .started ∧ s.dmaStalls c h.ctx q = false ∧ x = s.dmaRun c h.ctx q errs ∧ x.2 = .ok ()) :=
  ⟨
    ⟨(prog (2 ^ 124)), 0, 0, 2 ^ 124, _, by unfold State.fetched; decide +kernel, rfl, by decide +kernel⟩,
    ⟨(slotIn { run0 with hand := some ⟨2 ^ 124, 0, [0]⟩ }), 0, 0, ⟨2 ^ 124, 0, [0]⟩, _, by decide +kernel, rfl, by rfl,
      by decide +kernel, by decide +kernel, by decide +kernel⟩,
    ⟨(clIn fun x => { x with queue := [handOf []] }), 0, (handOf []), [], _, by decide +kernel, by decide +kernel,
      by decide +kernel, rfl, by decide +kernel⟩,
    ⟨(clIn fun x => { x with run := some { handOf [] with poison := true } }), 0, { handOf [] with poison := true }, _,
      by decide +kernel, by decide +kernel, by decide +kernel, by decide +kernel, rfl⟩,
    ⟨(handIn [(wordOf (4 * 2 ^ 124 + 0 * 2 ^ 122) (some ⟨0, 0, none, 0, 64, 0, 0, 0⟩))]), 0, (handOf [(wordOf (4 * 2 ^ 124 + 0 * 2 ^
      122) (some ⟨0, 0, none, 0, 64, 0, 0, 0⟩))]), 0, (wordOf (4 * 2 ^ 124 + 0 * 2 ^ 122) (some ⟨0, 0, none, 0, 64, 0, 0, 0⟩)), ⟨0,
      0, none, 0, 64, 0, 0, 0⟩, by decide +kernel, by decide +kernel, by decide +kernel, by decide +kernel, by decide +kernel⟩,
    ⟨(handIn [(wordOf (4 * 2 ^ 124 + 1 * 2 ^ 122) (some ⟨1, 0, none, 0, 64, 0, 0, 0⟩))]), 0, (handOf [(wordOf (4 * 2 ^ 124 + 1 * 2 ^
      122) (some ⟨1, 0, none, 0, 64, 0, 0, 0⟩))]), 0, (wordOf (4 * 2 ^ 124 + 1 * 2 ^ 122) (some ⟨1, 0, none, 0, 64, 0, 0, 0⟩)), ⟨1,
      0, none, 0, 64, 0, 0, 0⟩, by decide +kernel, by decide +kernel, by decide +kernel, by decide +kernel, by decide +kernel⟩,
    ⟨(handIn [(wordOf (4 * 2 ^ 124 + 2 * 2 ^ 122) (some ⟨2, 0, none, 0, 64, 0, 0, 0⟩))]), 0, (handOf [(wordOf (4 * 2 ^ 124 + 2 * 2 ^
      122) (some ⟨2, 0, none, 0, 64, 0, 0, 0⟩))]), 0, (wordOf (4 * 2 ^ 124 + 2 * 2 ^ 122) (some ⟨2, 0, none, 0, 64, 0, 0, 0⟩)), ⟨2,
      0, none, 0, 64, 0, 0, 0⟩, by decide +kernel, by decide +kernel, by decide +kernel, by decide +kernel, by decide +kernel⟩,
    ⟨(handIn [(wordOf (4 * 2 ^ 124 + 3 * 2 ^ 122) (some ⟨3, 0, none, 0, 64, 0, 0, 0⟩))]), 0, (handOf [(wordOf (4 * 2 ^ 124 + 3 * 2 ^
      122) (some ⟨3, 0, none, 0, 64, 0, 0, 0⟩))]), 0, (wordOf (4 * 2 ^ 124 + 3 * 2 ^ 122) (some ⟨3, 0, none, 0, 64, 0, 0, 0⟩)), ⟨3,
      0, none, 0, 64, 0, 0, 0⟩, by decide +kernel, by decide +kernel, by decide +kernel, by decide +kernel, by decide +kernel⟩,
    ⟨(tlb (handIn [wordOf (4 * 2 ^ 124 + 2 * 2 ^ 122) (some ⟨2, 0, none, 0, 64, 0, 0, 0⟩) .started])), 0, 0, [], (handOf [wordOf (4
      * 2 ^ 124 + 2 * 2 ^ 122) (some ⟨2, 0, none, 0, 64, 0, 0, 0⟩) .started]), (wordOf (4 * 2 ^ 124 + 2 * 2 ^ 122) (some ⟨2, 0,
      none, 0, 64, 0, 0, 0⟩) .started), ⟨2, 0, none, 0, 64, 0, 0, 0⟩, _, by decide +kernel, by decide +kernel, by decide +kernel,
      by decide +kernel, by decide +kernel, by decide +kernel, by decide +kernel, rfl, by decide +kernel⟩⟩

/-- For each clause of `CollectiveCommandsComplete` that has hypotheses, a state and operands meet them together. -/
theorem test_CollectiveCommandsComplete_witness :
    (∃ (s : State) (r : Fin 16) (k : Fin 4) (w : Nat) (u : State) (x : Slot) (a b : Tile), s.fetched r k .reduceScatter w ∧ u =
      s.decoded r k w ∧ x = u.slot r k ∧ (s.fb (dieOfRegion r)).queue.length < 256 ∧ collClean w = true ∧ collTile x (bits w 107 4)
      = .ok a ∧ collTile x (bits w 103 4) = .ok b ∧ a.exceeds (bits w 107 4) = none ∧ b.exceeds (bits w 103 4) = none) ∧
    (∃ (s : State) (r : Fin 16) (k : Fin 4) (w : Nat) (u : State) (x : Slot) (a b : Tile), s.fetched r k .allGather w ∧ u =
      s.decoded r k w ∧ x = u.slot r k ∧ (s.fb (dieOfRegion r)).queue.length < 256 ∧ collClean w = true ∧ collTile x (bits w 107 4)
      = .ok a ∧ collTile x (bits w 103 4) = .ok b ∧ a.exceeds (bits w 107 4) = none ∧ b.exceeds (bits w 103 4) = none) ∧
    (∃ (s : State) (r : Fin 16) (k : Fin 4) (w : Nat) (u : State) (x : Slot) (a b : Tile), s.fetched r k .allReduce w ∧ u =
      s.decoded r k w ∧ x = u.slot r k ∧ (s.fb (dieOfRegion r)).queue.length < 256 ∧ collClean w = true ∧ collTile x (bits w 107 4)
      = .ok a ∧ collTile x (bits w 103 4) = .ok b ∧ a.exceeds (bits w 107 4) = none ∧ b.exceeds (bits w 103 4) = none) ∧
    (∃ (s : State) (r : Fin 16) (k : Fin 4) (w : Nat) (u : State) (x : Slot) (a b : Tile), s.fetched r k .broadcast w ∧ u =
      s.decoded r k w ∧ x = u.slot r k ∧ (s.fb (dieOfRegion r)).queue.length < 256 ∧ collClean w = true ∧ collTile x (bits w 107 4)
      = .ok a ∧ collTile x (bits w 103 4) = .ok b ∧ a.exceeds (bits w 107 4) = none ∧ b.exceeds (bits w 103 4) = none) ∧
    (∃ (s : State) (r : Fin 16) (k : Fin 4) (w : Nat) (u : State) (x : Slot) (a b : Tile), s.fetched r k .permute w ∧ u = s.decoded
      r k w ∧ x = u.slot r k ∧ (s.fb (dieOfRegion r)).queue.length < 256 ∧ collClean w = true ∧ collTile x (bits w 107 4) = .ok a ∧
      collTile x (bits w 103 4) = .ok b ∧ a.exceeds (bits w 107 4) = none ∧ b.exceeds (bits w 103 4) = none) ∧
    (∃ (s : State) (d : Fin 2) (n : Nat) (q : CollReq), s.flag d F.col_ctl_en = true ∧ (s.fb d).colls.length < 16 ∧ s.nextColl d =
      some n ∧ (s.fb d).queue[n]? = some q) ∧
    (∃ (s : State) (d : Fin 2) (rt : Fin 256) (n a : Nat) (c : Coll), s.coll d rt = some c ∧ ((((c.recvs.find? fun x => x.step = n
      && !x.done && x.tmo ≠ 0).map fun x => x.src).orElse fun _ => (c.sends.find? fun x => x.step = n && x.begun && !x.acked &&
      x.tmo ≠ 0).map fun x => x.dst) = some a)) ∧
    (∃ (s : State) (d : Fin 2) (rt : Fin 256) (c : Coll) (u : State), s.coll d rt = some c ∧ c.complete = true ∧ u = s.collEnd d rt
      c false) :=
  ⟨
    ⟨(prog (5 * 2 ^ 124 + 0 * 2 ^ 120) ({ run0 with desc := [(0, desc0)] })), 0, 0, 5 * 2 ^ 124 + 0 * 2 ^ 120, _, _, desc0.whole
      run0, desc0.whole run0, by unfold State.fetched; decide +kernel, rfl, rfl, by decide +kernel, by decide +kernel,
      by decide +kernel, by decide +kernel, by decide +kernel, by decide +kernel⟩,
    ⟨(prog (5 * 2 ^ 124 + 1 * 2 ^ 120) ({ run0 with desc := [(0, desc0)] })), 0, 0, 5 * 2 ^ 124 + 1 * 2 ^ 120, _, _, desc0.whole
      run0, desc0.whole run0, by unfold State.fetched; decide +kernel, rfl, rfl, by decide +kernel, by decide +kernel,
      by decide +kernel, by decide +kernel, by decide +kernel, by decide +kernel⟩,
    ⟨(prog (5 * 2 ^ 124 + 2 * 2 ^ 120) ({ run0 with desc := [(0, desc0)] })), 0, 0, 5 * 2 ^ 124 + 2 * 2 ^ 120, _, _, desc0.whole
      run0, desc0.whole run0, by unfold State.fetched; decide +kernel, rfl, rfl, by decide +kernel, by decide +kernel,
      by decide +kernel, by decide +kernel, by decide +kernel, by decide +kernel⟩,
    ⟨(prog (5 * 2 ^ 124 + 3 * 2 ^ 120) ({ run0 with desc := [(0, desc0)] })), 0, 0, 5 * 2 ^ 124 + 3 * 2 ^ 120, _, _, desc0.whole
      run0, desc0.whole run0, by unfold State.fetched; decide +kernel, rfl, rfl, by decide +kernel, by decide +kernel,
      by decide +kernel, by decide +kernel, by decide +kernel, by decide +kernel⟩,
    ⟨(prog (5 * 2 ^ 124 + 4 * 2 ^ 120) ({ run0 with desc := [(0, desc0)] })), 0, 0, 5 * 2 ^ 124 + 4 * 2 ^ 120, _, _, desc0.whole
      run0, desc0.whole run0, by unfold State.fetched; decide +kernel, rfl, rfl, by decide +kernel, by decide +kernel,
      by decide +kernel, by decide +kernel, by decide +kernel, by decide +kernel⟩,
    ⟨((z.updFab 0 fun x => { x with queue := [req0] }).setFld 0 F.col_ctl_en 1), 0, 0, req0, by decide +kernel, by decide +kernel,
      by decide +kernel, by decide +kernel⟩,
    ⟨(z.updFab 0 fun x => { x with colls := [coll0] }), 0, 0, 0, 5, coll0, by decide +kernel, by decide +kernel⟩,
    ⟨(z.updFab 0 fun x => { x with colls := [{ coll0 with recvs := [] }] }), 0, 0, { coll0 with recvs := [] }, _, by decide +kernel,
      by decide +kernel, rfl⟩⟩

/-- For each clause of `OnChipMemoryCommandsComplete` that has hypotheses, a state and operands meet them together. -/
theorem test_OnChipMemoryCommandsComplete_witness :
    (∃ (s : State) (d : Fin 2) (b : Bool) (a : Nat) (l : List Byte) (po : Bool) (e : EccList) (be : List Nat) (u : State), inMemory
      a l.length = true ∧ u = s.bankWait a be ∧ u.memBlocked ⟨d, b, a, l.length, some l, po, e⟩ = false) ∧
    (∃ (s : State) (d : Fin 2) (a n : Nat) (e : EccList) (be : List Nat) (u : State) (q : Rd), inMemory a n = true ∧ u = s.bankWait
      a be ∧ u.memBlocked ⟨d, false, a, n, none, false, e⟩ = false ∧ q = u.read d a n e) ∧
    (∃ (s : State) (a : Nat) (l : List Byte) (po : Bool), isClusterSram a = true ∧ isClusterSram (a + l.length - 1) = true ∧
      s.memBlocked ⟨ownerDie a, true, a, l.length, some l, po, []⟩ = false) ∧
    (∃ (s : State) (d : Fin 2) (b : Bool) (a : Nat) (l : List Byte) (po : Bool) (e : EccList) (be : List Nat) (u : State) (q :
      MemReq), inMemory a l.length = true ∧ u = s.bankWait a be ∧ q = ⟨d, b, a, l.length, some l, po, e⟩ ∧ u.memBlocked q = true) ∧
    (∃ (s : State) (d : Fin 2) (a n : Nat) (e : EccList) (be : List Nat) (u : State) (q : MemReq), inMemory a n = true ∧ u =
      s.bankWait a be ∧ q = ⟨d, false, a, n, none, false, e⟩ ∧ u.memBlocked q = true) ∧
    (∃ (s : State) (a : Nat) (l : List Byte) (po : Bool) (q : MemReq), isClusterSram a = true ∧ isClusterSram (a + l.length - 1) =
      true ∧ q = ⟨ownerDie a, true, a, l.length, some l, po, []⟩ ∧ s.memBlocked q = true) ∧
    (∃ (s : State) (d : Fin 2) (ce ue : List Nat), s.flag d F.sram_scrub_en = true) ∧
    (∃ (s : State) (d : Fin 2), s.flag d F.sram_carve_busy = true) ∧
    (∃ (s : State) (d : Fin 2) (n : Nat) (b : Bool) (st me : Nat) (u : State), (u = (s.tally (1 - d) R.brg_t_stall 0 st).tally d
      R.brg_t_mesh 0 me) ∧ u.flag d F.brg_stat_up = true ∧ b = true ∧ n = (u.memd.get d).bridge.rxSeq) ∧
    (∃ (s : State) (d : Fin 2) (n : Nat) (b : Bool) (st me : Nat) (u : State), (u = (s.tally (1 - d) R.brg_t_stall 0 st).tally d
      R.brg_t_mesh 0 me) ∧ u.flag d F.brg_stat_up = true ∧ b = false) ∧
    (∃ (s : State) (d : Fin 2) (n a f : Nat) (x : Bridge), s.flag d F.brg_stat_up = true ∧ x = (s.memd.get d).bridge ∧ (f = if
      x.nakSeq = some n then x.naks else 0) ∧ f < 8) ∧
    (∃ (s : State) (d : Fin 2) (n a f : Nat) (x : Bridge), s.flag d F.brg_stat_up = true ∧ x = (s.memd.get d).bridge ∧ (f = if
      x.nakSeq = some n then x.naks else 0) ∧ 8 ≤ f) ∧
    (∃ (s : State) (b : Bool), s.flag 0 F.brg_stat_train = true ∧ b = true) ∧
    (∃ (s : State) (b : Bool), s.flag 0 F.brg_stat_train = true ∧ b = false ∧ s.fld 0 F.brg_stat_tries < 2) ∧
    (∃ (s : State) (b : Bool), s.flag 0 F.brg_stat_train = true ∧ b = false ∧ s.fld 0 F.brg_stat_tries = 2) ∧
    (∃ (s : State) (i : Fin 8) (c : CwinChange), (((s.memd.get 0).cwins.find? fun c => c.n = i.val) = some c)) :=
  ⟨
    ⟨z, 0, false, 2 ^ 39, [1], false, [], [], _, by decide +kernel, rfl, by decide +kernel⟩,
    ⟨z, 0, 2 ^ 39, 1, [], [], _, _, by decide +kernel, rfl, by decide +kernel, rfl⟩,
    ⟨z, 0x8100000000, [1], false, by decide +kernel, by decide +kernel, by decide +kernel⟩,
    ⟨(z.setFld 0 F.brg_stat_train 1), 1, false, 2 ^ 39, [1], false, [], [], _, _, by decide +kernel, rfl, rfl, by decide +kernel⟩,
    ⟨(z.setFld 0 F.brg_stat_train 1), 1, 2 ^ 39, 1, [], [], _, _, by decide +kernel, rfl, rfl, by decide +kernel⟩,
    ⟨clIn fun x => { x with run := some (handOf []), held := List.replicate 64 ⟨0x8100000000, [], 0, none⟩ }, 0x8100000000, [1],
      false, _, by decide +kernel, by decide +kernel, rfl, by decide +kernel⟩,
    ⟨(z.setFld 0 F.sram_scrub_en 1), 0, [], [], by decide +kernel⟩,
    ⟨(z.setFld 0 F.sram_carve_busy 1), 0, by decide +kernel⟩,
    ⟨((z.setFld 0 F.brg_stat_up 1).setFld 1 F.brg_stat_up 1), 1, 0, true, 0, 0, _, rfl, by decide +kernel, by decide +kernel,
      by decide +kernel⟩,
    ⟨((z.setFld 0 F.brg_stat_up 1).setFld 1 F.brg_stat_up 1), 0, 0, false, 0, 0, _, rfl, by decide +kernel, by decide +kernel⟩,
    ⟨((z.setFld 0 F.brg_stat_up 1).setFld 1 F.brg_stat_up 1), 0, 0, 0, _, _, by decide +kernel, rfl, rfl, by decide +kernel⟩,
    ⟨(((z.setFld 0 F.brg_stat_up 1).setFld 1 F.brg_stat_up 1).updMem 0 fun m =>
      { m with bridge := { m.bridge with nakSeq := some 0, naks := 8 } }), 0, 0, 0, _, _, by decide +kernel, rfl, rfl,
      by decide +kernel⟩,
    ⟨((z.setFld 0 F.brg_stat_train 1).setFld 0 F.brg_stat_tries 0), true, by decide +kernel, by decide +kernel⟩,
    ⟨((z.setFld 0 F.brg_stat_train 1).setFld 0 F.brg_stat_tries 1), false, by decide +kernel, by decide +kernel, by decide +kernel⟩,
    ⟨((z.setFld 0 F.brg_stat_train 1).setFld 0 F.brg_stat_tries 2), false, by decide +kernel, by decide +kernel, by decide +kernel⟩,
    ⟨(z.updMem 0 fun m => { m with cwins := [⟨7, 0, 0, none⟩] }), 7, ⟨7, 0, 0, none⟩, by decide +kernel⟩⟩

/-- For each clause of `CoherenceCommandsComplete` that has hypotheses, a state and operands meet them together. -/
theorem test_CoherenceCommandsComplete_witness :
    (∃ (s : State) (ln n : Nat) (l : CohLn) (y : State × CohLn), s.flag 0 F.brg_stat_up = true ∧ l = s.coh ln ∧ s.homeFull .RDS l =
      false ∧ (y = State.homeArrive (l.earlyH.length + 2) s
      { l with toHome := l.toHome.filter fun y => ¬ (y.msg = .RDS ∧ y.seq = n % 16) } ⟨.RDS, n % 16, 0⟩)) ∧
    (∃ (s : State) (ln n : Nat) (l : CohLn) (y : State × CohLn), s.flag 0 F.brg_stat_up = true ∧ l = s.coh ln ∧ s.homeFull .RDM l =
      false ∧ (y = State.homeArrive (l.earlyH.length + 2) s
      { l with toHome := l.toHome.filter fun y => ¬ (y.msg = .RDM ∧ y.seq = n % 16) } ⟨.RDM, n % 16, 0⟩)) ∧
    (∃ (s : State) (ln n : Nat) (l : CohLn) (y : State × CohLn), s.flag 0 F.brg_stat_up = true ∧ l = s.coh ln ∧ s.homeFull .UPG l =
      false ∧ (y = State.homeArrive (l.earlyH.length + 2) s
      { l with toHome := l.toHome.filter fun y => ¬ (y.msg = .UPG ∧ y.seq = n % 16) } ⟨.UPG, n % 16, 0⟩)) ∧
    (∃ (s : State) (ln n : Nat) (l : CohLn) (y : State × CohLn), s.flag 0 F.brg_stat_up = true ∧ l = s.coh ln ∧ s.homeFull .EVS l =
      false ∧ (y = State.homeArrive (l.earlyH.length + 2) s
      { l with toHome := l.toHome.filter fun y => ¬ (y.msg = .EVS ∧ y.seq = n % 16) } ⟨.EVS, n % 16, 0⟩)) ∧
    (∃ (s : State) (ln n : Nat) (l : CohLn) (y : State × CohLn), s.flag 0 F.brg_stat_up = true ∧ l = s.coh ln ∧ s.homeFull .EVM l =
      false ∧ (y = State.homeArrive (l.earlyH.length + 2) s
      { l with toHome := l.toHome.filter fun y => ¬ (y.msg = .EVM ∧ y.seq = n % 16) } ⟨.EVM, n % 16, 0⟩)) ∧
    (∃ (s : State) (ln n : Nat) (l : CohLn) (y : State × CohLn), s.flag 0 F.brg_stat_up = true ∧ l = s.coh ln ∧ s.homeFull .RSPI l =
      false ∧ (y = State.homeArrive (l.earlyH.length + 2) s
      { l with toHome := l.toHome.filter fun y => ¬ (y.msg = .RSPI ∧ y.seq = n % 16) } ⟨.RSPI, n % 16, 0⟩)) ∧
    (∃ (s : State) (ln n : Nat) (l : CohLn) (y : State × CohLn), s.flag 0 F.brg_stat_up = true ∧ l = s.coh ln ∧ s.homeFull .RSPS l =
      false ∧ (y = State.homeArrive (l.earlyH.length + 2) s
      { l with toHome := l.toHome.filter fun y => ¬ (y.msg = .RSPS ∧ y.seq = n % 16) } ⟨.RSPS, n % 16, 0⟩)) ∧
    (∃ (s : State) (ln n : Nat) (l : CohLn) (y : State × CohLn), s.flag 0 F.brg_stat_up = true ∧ l = s.coh ln ∧ s.homeFull .RSPD l =
      false ∧ (y = State.homeArrive (l.earlyH.length + 2) s
      { l with toHome := l.toHome.filter fun y => ¬ (y.msg = .RSPD ∧ y.seq = n % 16) } ⟨.RSPD, n % 16, 0⟩)) ∧
    (∃ (s : State) (ln n ev : Nat) (l : CohLn) (y : State × CohLn), s.flag 0 F.brg_stat_up = true ∧ l = s.coh ln ∧ s.homeFull .RSPEV
      l = false ∧ (y = State.homeArrive (l.earlyH.length + 2) s
      { l with toHome := l.toHome.filter fun y => ¬ (y.msg = .RSPEV ∧ y.seq = n % 16) } ⟨.RSPEV, n % 16, ev % 16⟩)) ∧
    (∃ (s : State) (ln n : Nat) (l : CohLn) (y : State × CohLn), s.flag 0 F.brg_stat_up = true ∧ l = s.coh ln ∧ (y =
      State.remoteArrive (l.earlyR.length + 2) s
      { l with toRemote := l.toRemote.filter fun y => ¬ (y.msg = .SNPS ∧ y.seq = n % 16) } ⟨.SNPS, n % 16, 0⟩)) ∧
    (∃ (s : State) (ln n : Nat) (l : CohLn) (y : State × CohLn), s.flag 0 F.brg_stat_up = true ∧ l = s.coh ln ∧ (y =
      State.remoteArrive (l.earlyR.length + 2) s
      { l with toRemote := l.toRemote.filter fun y => ¬ (y.msg = .SNPI ∧ y.seq = n % 16) } ⟨.SNPI, n % 16, 0⟩)) ∧
    (∃ (s : State) (ln n : Nat) (l : CohLn) (y : State × CohLn), s.flag 0 F.brg_stat_up = true ∧ l = s.coh ln ∧ (y =
      State.remoteArrive (l.earlyR.length + 2) s
      { l with toRemote := l.toRemote.filter fun y => ¬ (y.msg = .DATS ∧ y.seq = n % 16) } ⟨.DATS, n % 16, 0⟩)) ∧
    (∃ (s : State) (ln n : Nat) (l : CohLn) (y : State × CohLn), s.flag 0 F.brg_stat_up = true ∧ l = s.coh ln ∧ (y =
      State.remoteArrive (l.earlyR.length + 2) s
      { l with toRemote := l.toRemote.filter fun y => ¬ (y.msg = .DATM ∧ y.seq = n % 16) } ⟨.DATM, n % 16, 0⟩)) ∧
    (∃ (s : State) (ln n : Nat) (l : CohLn) (y : State × CohLn), s.flag 0 F.brg_stat_up = true ∧ l = s.coh ln ∧ (y =
      State.remoteArrive (l.earlyR.length + 2) s
      { l with toRemote := l.toRemote.filter fun y => ¬ (y.msg = .GNTM ∧ y.seq = n % 16) } ⟨.GNTM, n % 16, 0⟩)) ∧
    (∃ (s : State) (ln n : Nat) (l : CohLn) (y : State × CohLn), s.flag 0 F.brg_stat_up = true ∧ l = s.coh ln ∧ (y =
      State.remoteArrive (l.earlyR.length + 2) s
      { l with toRemote := l.toRemote.filter fun y => ¬ (y.msg = .EVACK ∧ y.seq = n % 16) } ⟨.EVACK, n % 16, 0⟩)) ∧
    (∃ (s : State) (d : Fin 2) (pa len : Nat) (wd : Option (List Byte)) (tag : Nat) (a : CohAccess) (l : CohLn) (y : State × CohLn),
      a = ⟨d, pa, len, wd, tag⟩ ∧ s.cohBlocked a = false ∧ s.coherent pa = true ∧ lineHome (pa / 256) = d ∧ l = s.coh (pa / 256) ∧ y
      = State.homeServe (l.homeQ.length + 2) (s.clcRoom d (pa / 256)) { l with homeQ := l.homeQ ++ [.here a] }) ∧
    (∃ (s : State) (d : Fin 2) (pa len : Nat) (wd : Option (List Byte)) (tag : Nat) (a : CohAccess) (l : CohLn) (y : State × CohLn),
      a = ⟨d, pa, len, wd, tag⟩ ∧ s.cohBlocked a = false ∧ s.coherent pa = true ∧ lineHome (pa / 256) ≠ d ∧ s.bridgeDown = false ∧ l
      = s.coh (pa / 256) ∧ y = State.remoteServe (l.wait.length + 2) (s.clcRoom d (pa / 256)) { l with wait := l.wait ++ [a] }) ∧
    (∃ (s : State) (d : Fin 2) (pa len : Nat) (wd : Option (List Byte)) (tag : Nat) (a : CohAccess), a = ⟨d, pa, len, wd, tag⟩ ∧
      s.cohBlocked a = false ∧ s.coherent pa = false) ∧
    (∃ (s : State) (d : Fin 2) (pa len : Nat) (wd : Option (List Byte)) (tag : Nat) (a : CohAccess), a = ⟨d, pa, len, wd, tag⟩ ∧
      s.cohBlocked a = true) :=
  ⟨
    ⟨((z.setFld 0 F.brg_stat_up 1).setFld 1 F.brg_stat_up 1), 0, 0, _, _, by decide +kernel, rfl, by decide +kernel, rfl⟩,
    ⟨((z.setFld 0 F.brg_stat_up 1).setFld 1 F.brg_stat_up 1), 0, 0, _, _, by decide +kernel, rfl, by decide +kernel, rfl⟩,
    ⟨((z.setFld 0 F.brg_stat_up 1).setFld 1 F.brg_stat_up 1), 0, 0, _, _, by decide +kernel, rfl, by decide +kernel, rfl⟩,
    ⟨((z.setFld 0 F.brg_stat_up 1).setFld 1 F.brg_stat_up 1), 0, 0, _, _, by decide +kernel, rfl, by decide +kernel, rfl⟩,
    ⟨((z.setFld 0 F.brg_stat_up 1).setFld 1 F.brg_stat_up 1), 0, 0, _, _, by decide +kernel, rfl, by decide +kernel, rfl⟩,
    ⟨((z.setFld 0 F.brg_stat_up 1).setFld 1 F.brg_stat_up 1), 0, 0, _, _, by decide +kernel, rfl, by decide +kernel, rfl⟩,
    ⟨((z.setFld 0 F.brg_stat_up 1).setFld 1 F.brg_stat_up 1), 0, 0, _, _, by decide +kernel, rfl, by decide +kernel, rfl⟩,
    ⟨((z.setFld 0 F.brg_stat_up 1).setFld 1 F.brg_stat_up 1), 0, 0, _, _, by decide +kernel, rfl, by decide +kernel, rfl⟩,
    ⟨((z.setFld 0 F.brg_stat_up 1).setFld 1 F.brg_stat_up 1), 0, 0, 0, _, _, by decide +kernel, rfl, by decide +kernel, rfl⟩,
    ⟨((z.setFld 0 F.brg_stat_up 1).setFld 1 F.brg_stat_up 1), 0, 0, _, _, by decide +kernel, rfl, rfl⟩,
    ⟨((z.setFld 0 F.brg_stat_up 1).setFld 1 F.brg_stat_up 1), 0, 0, _, _, by decide +kernel, rfl, rfl⟩,
    ⟨((z.setFld 0 F.brg_stat_up 1).setFld 1 F.brg_stat_up 1), 0, 0, _, _, by decide +kernel, rfl, rfl⟩,
    ⟨((z.setFld 0 F.brg_stat_up 1).setFld 1 F.brg_stat_up 1), 0, 0, _, _, by decide +kernel, rfl, rfl⟩,
    ⟨((z.setFld 0 F.brg_stat_up 1).setFld 1 F.brg_stat_up 1), 0, 0, _, _, by decide +kernel, rfl, rfl⟩,
    ⟨((z.setFld 0 F.brg_stat_up 1).setFld 1 F.brg_stat_up 1), 0, 0, _, _, by decide +kernel, rfl, rfl⟩,
    ⟨(z.setReg 0 R.brg_cwin (2 ^ 63) 0), 0, 0, 64, none, 0, _, _, _, rfl, by decide +kernel, by decide +kernel, by decide +kernel,
      rfl, rfl⟩,
    ⟨(z.setReg 0 R.brg_cwin (2 ^ 63) 0), 1, 0, 64, none, 0, _, _, _, rfl, by decide +kernel, by decide +kernel, by decide +kernel,
      by decide +kernel, rfl, rfl⟩,
    ⟨z, 1, 0, 64, none, 0, _, rfl, by decide +kernel, by decide +kernel⟩,
    ⟨{ z with mem := { z.mem with cohWait := [⟨0, 0, 1, none, 0⟩] } }, 0, 0, 64, none, 0, _, rfl, by decide +kernel⟩⟩

/-- For each clause of `HbmCommandsComplete` that has hypotheses, a state and operands meet them together. -/
theorem test_HbmCommandsComplete_witness :
    (∃ (s : State) (d : Fin 2) (n : Fin 256) (ecc : EccList) (wt : Bool) (c : Pc) (i : Nat) (q : HbmReq) (b : Bool) (u : State),
      s.tripped = false ∧ c = s.pc d n ∧ u = s.tally d R.hbm_t_bconf (n / 64) (b2n wt) ∧ (c.rq ≠ [] ∨ c.wq ≠ []) ∧ s.stackSettled d
      (n / 64) = true ∧ b = nextDirection c ∧ (pickRequest c.rows (if b then c.wq else c.rq) = some i) ∧ ((if b then c.wq else
      c.rq)[i]? = some q)) ∧
    (∃ (s : State) (d : Fin 2) (n : Fin 256) (ecc : EccList) (wt : Bool), s.tripped = false ∧ (s.pc d n).rq = [] ∧ (s.pc d n).wq =
      [] ∧ s.stackSettled d (n / 64) = true) ∧
    (∃ (s : State) (d : Fin 2) (n : Fin 256) (a : Nat) (b : Bool) (ecc : EccList) (u : State), bit (s.fld d F.hbm_stat_up) (n / 64)
      = true ∧ u = (s.tally d R.hbm_t_ref (n / 64)).tally d R.hbm_t_refcol (n / 64) a) ∧
    (∃ (s : State) (d : Fin 2) (i : Fin 4) (t : Nat) (u : State), bit (s.fld d F.hbm_stat_hot) i = false ∧ 86 ≤ t ∧ u = s.setFld d
      ⟨R.hbm_temp, 8 * i.val, 8⟩ t) ∧
    (∃ (s : State) (a n tag d : Nat) (y : CLine) (q : List Byte × Nat), s.tripped = false ∧ d = ownerDie a ∧ isHbm a = true ∧ n ≠ 0
      ∧ a % 256 + n ≤ 256 ∧ s.owned d (hbmLoc (granuleOf a)).stack = false ∧ s.sliceChanges d (granuleOf a) = false ∧ ((s.pc d
      (hbmLoc (granuleOf a)).pc).rq.any (fun q => q.g = granuleOf a) = false) ∧ s.lineOf d (granuleOf a) = some y ∧ q = sliceOf
      y.data y.poison (a % 256) n) ∧
    (∃ (s : State) (a n tag d g : Nat) (q : HbmReq), s.tripped = false ∧ d = ownerDie a ∧ g = granuleOf a ∧ isHbm a = true ∧ n ≠ 0 ∧
      a % 256 + n ≤ 256 ∧ s.owned d (hbmLoc g).stack = false ∧ s.sliceChanges d g = false ∧ ((s.pc d (hbmLoc g).pc).rq.any (fun q =>
      q.g = g) = true ∨ s.lineOf d g = none) ∧ (s.pc d (hbmLoc g).pc).rq.length < 32 ∧ q = ⟨g, s.missMask d (s.hintOf d a) (a % 256)
      n, 0, [], 0, s.hintOf d a, a % 256, n, tag⟩) ∧
    (∃ (s : State) (a : Nat) (l : List Byte) (po : Bool), s.tripped = false ∧ isHbm a = true ∧ l ≠ [] ∧ a % 256 + l.length ≤ 256 ∧
      s.memBlocked ⟨ownerDie a, false, a, l.length, some l, po, []⟩ = false) ∧
    (∃ (s : State) (d : Fin 2) (g : Nat) (y : WcEntry), s.tripped = false ∧ s.wcOf d g = some y) ∧
    (∃ (s : State) (d : Fin 2), s.flag d F.hcache_flush_busy = true) ∧
    (∃ (s : State) (d : Fin 2) (i : Fin 4) (b : Bool), bit (s.fld d F.hbm_stat_train) i = true ∧ b = true) ∧
    (∃ (s : State) (d : Fin 2) (i : Fin 4) (b : Bool) (n : Nat) (u : State), bit (s.fld d F.hbm_stat_train) i = true ∧ b = false ∧ n
      = (assocGet i.val (s.memd.get d).trainTries).getD 0 + 1 ∧ 3 ≤ n ∧ (u = s.updMem d fun m =>
      { m with trainTries := assocPut i.val n m.trainTries })) ∧
    (∃ (s : State) (d : Fin 2) (i : Fin 4), (s.memd.get d).flushOwn.contains i.val = true ∧ ((s.memd.get d).pcs.any (fun p => p.1 /
      64 = i.val ∧ p.2.rq ≠ []) = false)) ∧
    (∃ (s : State) (d : Fin 2) (errs : List (Nat × Ecc)) (t : TgenRun), s.tripped = false ∧ (s.memd.get d).tgen = some t) ∧
    (∃ (s : State) (c : RwRun) (u v : State) (q : RepairRow), s.tripped = false ∧ (s.memd.get 0).rw = some c ∧ q = repairRow c.sel
      c.addr ∧ (u = (s.updMem 0 fun m => { m with rw := none }).setFld 0 F.rw_stat_busy 0) ∧ u.repairEffect c.op q = some v) ∧
    (∃ (s : State) (d : Fin 2) (a n : Nat) (ecc : EccList) (q : Rd), s.tripped = false ∧ isHbm a = true ∧ isHbm (a + n - 1) = true ∧
      q = s.read d a n ecc) :=
  ⟨
    ⟨((z.setFld 0 F.hbm_stat_up 15).updPc 0 0 fun x => { x with rq := [⟨0, 1, 0, [], 0, .none, 0, 1, 0⟩] }), 0, 0, [], false, _, 0,
      ⟨0, 1, 0, [], 0, .none, 0, 1, 0⟩, _, _, by decide +kernel, rfl, rfl, by decide +kernel, by decide +kernel, rfl, by rfl,
      by rfl⟩,
    ⟨(z.setFld 0 F.hbm_stat_up 15), 0, 255, [], true, by decide +kernel, by decide +kernel, by decide +kernel, by decide +kernel⟩,
    ⟨(z.setFld 0 F.hbm_stat_up 15), 0, 255, 0, false, [], _, by decide +kernel, rfl⟩,
    ⟨z, 0, 3, 86, _, by decide +kernel, by decide +kernel, rfl⟩,
    ⟨(z.updMem 0 fun m => { m with lines := [⟨0, [], 0, false, false⟩] }), 0, 1, 0, _, ⟨0, [], 0, false, false⟩, _,
      by decide +kernel, rfl, by decide +kernel, by decide +kernel, by decide +kernel, by decide +kernel, by decide +kernel,
      by decide +kernel, by rfl, rfl⟩,
    ⟨z, 0, 256, 0, _, _, _, by decide +kernel, rfl, rfl, by decide +kernel, by decide +kernel, by decide +kernel, by decide +kernel,
      by decide +kernel, .inr (by decide +kernel), by decide +kernel, rfl⟩,
    ⟨z, 255, [1], false, by decide +kernel, by decide +kernel, by decide +kernel, by decide +kernel, by decide +kernel⟩,
    ⟨(z.updMem 0 fun m => { m with wc := [⟨0, [], 0⟩] }), 0, 0, ⟨0, [], 0⟩, by decide +kernel, by decide +kernel⟩,
    ⟨(z.setFld 0 F.hcache_flush_busy 1), 0, by decide +kernel⟩,
    ⟨(z.setFld 0 F.hbm_stat_train 1), 0, 0, true, by decide +kernel, by decide +kernel⟩,
    ⟨((z.setFld 0 F.hbm_stat_train 1).updMem 0 fun m => { m with trainTries := [(0, 2)] }), 0, 0, false, _, _, by decide +kernel,
      by decide +kernel, rfl, by decide +kernel, rfl⟩,
    ⟨(z.updMem 0 fun m => { m with flushOwn := [3] }), 0, 3, by decide +kernel, by decide +kernel⟩,
    ⟨(z.updMem 0 fun m => { m with tgen := some ⟨0, 0, 0, 0, [], []⟩ }), 0, [], ⟨0, 0, 0, 0, [], []⟩, by decide +kernel,
      by decide +kernel⟩,
    ⟨(z.updMem 0 fun m => { m with rw := some ⟨6, 0, 0⟩ }), ⟨6, 0, 0⟩, _, _, _, by decide +kernel, by decide +kernel, rfl, rfl,
      by rfl⟩,
    ⟨z, 0, 0, 1, [], _, by decide +kernel, by decide +kernel, by decide +kernel, rfl⟩⟩

/-- For each clause of `ContextCommandsComplete` that has hypotheses, a state and operands meet them together. -/
theorem test_ContextCommandsComplete_witness :
    (∃ (s : State) (d : Fin 2) (c i : Nat) (rest : List Nat) (u : State), (s.ctxd.get d).fillq = c :: rest ∧ s.flag 0 F.ctx_ctl_en =
      true ∧ s.cached d c = none ∧ s.freeEntry d = some i ∧ (u = s.updCtx d fun x => { x with fillq := rest })) ∧
    (∃ (s : State) (d : Fin 2) (c : Nat) (rest : List Nat) (y : CtxEntry) (u v : State), (s.ctxd.get d).fillq = c :: rest ∧ s.flag 0
      F.ctx_ctl_en = true ∧ s.cached d c = none ∧ s.freeEntry d = none ∧ s.ctxVictim d = some y ∧ (u = (s.updCtx d fun x =>
      { x with fillq := rest }).evictCtx d y) ∧ (v = if s.pending? d y.ctx then u.joinFill d y.ctx else u)) ∧
    (∃ (s : State) (f : CtxDie → CtxDie), (f = fun x =>
      { x with cache := x.cache.map (fun e => { e with quota := 0 }), qSeen := [] })) ∧
    (∃ (s : State) (d : Fin 2) (c : Fin 4096) (w : WalkWaiter) (n : Nat) (u : State), ((s.ctxd.get d).dtlb.any (fun e => e.covers c
      w.va) = false) ∧ (indexWhere (fun k => k.ctx = c.val ∧ k.va / 0x200000 = w.va / 0x200000) (s.ctxd.get d).walks = some n) ∧ u =
      s.tally d R.mmu_t_dmiss) ∧
    (∃ (s : State) (d : Fin 2) (c : Fin 4096) (w : WalkWaiter) (u : State), ((s.ctxd.get d).dtlb.any (fun e => e.covers c w.va) =
      false) ∧ (indexWhere (fun k => k.ctx = c.val ∧ k.va / 0x200000 = w.va / 0x200000) (s.ctxd.get d).walks = none) ∧ (s.ctxd.get
      d).walks.length < 8 ∧ u = s.tally d R.mmu_t_dmiss) ∧
    (∃ (s : State) (d : Fin 2) (i : Fin 8) (ecc : Ecc) (w : Walk), (s.ctxd.get d).walks[i.val]? = some w) ∧
    (∃ (s : State) (d : Fin 2) (q : InvReq) (b : Option InvReq) (u : State), (s.ctxd.get d).inv = some q ∧ ((s.ctxd.get d).walks.any
      (fun w => !w.fill) = false) ∧ b = (s.ctxd.get d).invHeld ∧ (u = ((s.updCtx d fun y =>
      { y with inv := none, invHeld := none }).setFld d F.mmu_inv_busy 0).tally d R.mmu_t_inv)) :=
  ⟨
    ⟨((z.updCtx 0 fun x => { x with fillq := [1] }).setFld 0 F.ctx_ctl_en 1), 0, 1, 0, [], _, by decide +kernel, by decide +kernel,
      by decide +kernel, by decide +kernel, rfl⟩,
    ⟨((z.updCtx 0 fun x => { x with fillq := [1], cache := (List.range 128).map fun i => ⟨i, i + 2, 0, i⟩ }).setFld 0
      F.ctx_ctl_en 1), 0, 1, [], ⟨0, 2, 0, 0⟩, _, _, by decide +kernel, by decide +kernel, by decide +kernel,
      by decide +kernel, by decide +kernel, rfl, rfl⟩,
    ⟨z, _, rfl⟩,
    ⟨(z.updCtx 0 fun x => { x with walks := [⟨1, 0, 0, 0, 0, true, []⟩] }), 0, 1, ⟨0, 0, 0, .read, 0⟩, 0, _, by decide +kernel,
      by decide +kernel, rfl⟩,
    ⟨z, 0, 1, ⟨0, 0, 0, .read, 0⟩, _, by decide +kernel, by decide +kernel, by decide +kernel, rfl⟩,
    ⟨(z.updCtx 0 fun x => { x with walks := [⟨1, 0, 0, 0, 0, true, []⟩] }), 0, 0, .clean, ⟨1, 0, 0, 0, 0, true, []⟩,
      by decide +kernel⟩,
    ⟨(z.updCtx 0 fun x => { x with inv := some ⟨0, 0⟩ }), 0, ⟨0, 0⟩, _, _, by decide +kernel, by decide +kernel, rfl, rfl⟩⟩

/-- For each clause of `LinkCommandsComplete` that has hypotheses, a state and operands meet them together. -/
theorem test_LinkCommandsComplete_witness :
    (∃ (s : State) (d : Fin 2) (i : Fin 18), s.released = true ∧ s.linkState d i = 0 ∧ bit (s.fld d F.lnk_ctl_en) i = true ∧ s.flag
      d F.lnk_ctl_auto = true) ∧
    (∃ (s : State) (d : Fin 2) (i : Fin 18), s.linkState d i = 1 ∧ (s.lk d i).fromUp = false) ∧
    (∃ (s : State) (d : Fin 2) (i : Fin 18), s.linkState d i = 1 ∧ (s.lk d i).fromUp = true) ∧
    (∃ (s : State) (d : Fin 2) (i : Fin 18), s.linkState d i = 1 ∧ (s.lk d i).fromUp = false) ∧
    (∃ (s : State) (d : Fin 2) (i : Fin 18), s.linkState d i = 1 ∧ (s.lk d i).fromUp = true) ∧
    (∃ (s : State) (d : Fin 2) (i : Fin 18), s.linkState d i = 2) ∧
    (∃ (s : State) (d : Fin 2) (i : Fin 18), s.linkState d i = 2) ∧
    (∃ (s : State) (d : Fin 2) (i : Fin 18), s.linkState d i = 3) ∧
    (∃ (s : State) (d : Fin 2) (i : Fin 18), s.linkState d i = 6) ∧
    (∃ (s : State) (d : Fin 2) (i : Fin 18), s.linkState d i = 3) ∧
    (∃ (s : State) (d : Fin 2) (i : Fin 18) (a : Fin 32768) (l : Fin 32) (p : Nat) (u : State), s.inPeer d i = true ∧ p = (s.lk d
      i).peer ∧ u = (s.setFld d F.lnk_peer_obs_node a i).setFld d F.lnk_peer_obs_link l i ∧ (bit p 63 = false ∨ (bits p 43 15 = a ∧
      bits p 38 5 = l))) ∧
    (∃ (s : State) (d : Fin 2) (i : Fin 18) (a : Fin 32768) (l : Fin 32) (p : Nat) (u : State), s.inPeer d i = true ∧ p = (s.lk d
      i).peer ∧ u = (s.setFld d F.lnk_peer_obs_node a i).setFld d F.lnk_peer_obs_link l i ∧ bit p 63 = true ∧ (bits p 43 15 ≠ a ∨
      bits p 38 5 ≠ l)) ∧
    (∃ (s : State) (d : Fin 2) (i : Fin 18), s.linkState d i = 5) ∧
    (∃ (s : State) (d : Fin 2) (i : Fin 18), s.linkState d i = 5) ∧
    (∃ (s : State) (d : Fin 2) (i : Fin 18), s.linkState d i = 6 ∧ (s.lk d i).atPeer = true) ∧
    (∃ (s : State) (d : Fin 2) (i : Fin 18), s.linkState d i = 6 ∧ (s.lk d i).atPeer = false) ∧
    (∃ (s : State) (d : Fin 2) (i : Fin 18), (s.linkState d i = 6 ∨ (s.linkState d i = 7 ∧ (s.lk d i).atPeer = true))) ∧
    (∃ (s : State) (d : Fin 2) (i : Fin 18) (hd : Nat) (sl : List Nat), s.linkState d i = 5 ∧ bit hd 32 = true ∧ flitGood hd sl =
      true) ∧
    (∃ (s : State) (d : Fin 2) (i : Fin 18) (hd : Nat) (sl : List Nat), s.linkState d i = 5 ∧ bit hd 32 = false ∧ flitGood hd sl =
      true ∧ bits hd 52 12 = (s.lk d i).rxSeq) ∧
    (∃ (s : State) (d : Fin 2) (i : Fin 18) (hd : Nat) (sl : List Nat), s.linkState d i = 5 ∧ bit hd 32 = false ∧ (flitGood hd sl =
      false ∨ bits hd 52 12 ≠ (s.lk d i).rxSeq)) :=
  ⟨
    ⟨((rel.setFld 0 F.lnk_ctl_en 1).setFld 0 F.lnk_ctl_auto 1), 0, 0, by decide +kernel, by decide +kernel, by decide +kernel,
      by decide +kernel⟩,
    ⟨(linkIn 1), 0, 0, by decide +kernel, by decide +kernel⟩,
    ⟨((linkIn 1).updLk 0 0 fun x => { x with fromUp := true }), 0, 0, by decide +kernel, by decide +kernel⟩,
    ⟨(linkIn 1), 0, 0, by decide +kernel, by decide +kernel⟩,
    ⟨((linkIn 1).updLk 0 0 fun x => { x with fromUp := true }), 0, 0, by decide +kernel, by decide +kernel⟩,
    ⟨(linkIn 2), 0, 0, by decide +kernel⟩,
    ⟨(linkIn 2), 0, 0, by decide +kernel⟩,
    ⟨(linkIn 3), 0, 0, by decide +kernel⟩,
    ⟨(linkIn 6), 0, 0, by decide +kernel⟩,
    ⟨(linkIn 3), 0, 0, by decide +kernel⟩,
    ⟨(linkIn 4), 0, 0, 0, 0, _, _, by decide +kernel, rfl, rfl, by decide +kernel⟩,
    ⟨((linkIn 4).updLk 0 0 fun l => { l with peer := 2 ^ 63 }), 0, 0, 1, 0, _, _, by decide +kernel, rfl, rfl, by decide +kernel,
      by decide +kernel⟩,
    ⟨(linkIn 5), 0, 0, by decide +kernel⟩,
    ⟨(linkIn 5), 0, 0, by decide +kernel⟩,
    ⟨((linkIn 6).updLk 0 0 fun l => { l with atPeer := true }), 0, 0, by decide +kernel, by decide +kernel⟩,
    ⟨(linkIn 6), 0, 0, by decide +kernel, by decide +kernel⟩,
    ⟨(linkIn 6), 0, 0, by decide +kernel⟩,
    ⟨(linkIn 5), 0, 0, 2 ^ 32 + 3296881724, [], by decide +kernel, by decide +kernel, by decide +kernel⟩,
    ⟨(linkIn 5), 0, 0, 579232102, [], by decide +kernel, by decide +kernel, by decide +kernel, by decide +kernel⟩,
    ⟨(linkIn 5), 0, 0, 0, [], by decide +kernel, by decide +kernel, by decide +kernel⟩⟩

/-- For each clause of `FabricMessagesComplete` that has hypotheses, a state and operands meet them together. -/
theorem test_FabricMessagesComplete_witness :
    (∃ (s : State) (d : Fin 2) (a : Nat) (m : Msg) (u : State), s.arrives d a m 1 = some u) ∧
    (∃ (s : State) (d : Fin 2) (a : Nat) (m : Msg) (u : State), s.arrives d a m 2 = some u) ∧
    (∃ (s : State) (d : Fin 2) (a : Nat) (m : Msg) (u : State), s.arrives d a m 3 = some u) ∧
    (∃ (s : State) (d : Fin 2) (a : Nat) (m : Msg) (u : State), s.arrives d a m 4 = some u ∧ ¬ (u.segEarly d m = true ∧ u.earlyFull
      d = true)) ∧
    (∃ (s : State) (d : Fin 2) (a : Nat) (m : Msg) (u : State), s.arrives d a m 5 = some u) ∧
    (∃ (s : State) (d : Fin 2) (a : Nat) (m : Msg) (u : State), bits m.low 80 2 = 0 ∧ s.outsFull d = false ∧ s.arrives d a m 6 =
      some u) ∧
    (∃ (s : State) (d : Fin 2) (a : Nat) (m : Msg) (u : State), bits m.low 80 2 = 1 ∧ s.intakeFull d = false ∧ s.arrives d a m 6 =
      some u) ∧
    (∃ (s : State) (d : Fin 2) (a : Nat) (m : Msg) (u : State), bits m.low 80 2 = 2 ∧ s.arrives d a m 6 = some u) ∧
    (∃ (s : State) (d : Fin 2) (a : Nat) (m : Msg) (u : State), s.arrives d a m 4 = some u ∧ u.segEarly d m = true ∧ u.earlyFull d =
      true) ∧
    (∃ (s : State) (d : Fin 2) (a : Nat) (m : Msg) (u : State), bits m.low 80 2 = 0 ∧ s.outsFull d = true ∧ s.arrives d a m 6 = some
      u) ∧
    (∃ (s : State) (d : Fin 2) (a : Nat) (m : Msg) (u : State), bits m.low 80 2 = 1 ∧ s.intakeFull d = true ∧ s.arrives d a m 6 =
      some u) :=
  ⟨
    ⟨(linkIn 5), 0, 0, (msgTo 1 0), _, by rfl⟩,
    ⟨(linkIn 5), 0, 0, (msgTo 2 0), _, by rfl⟩,
    ⟨(linkIn 5), 0, 0, (msgTo 3 0), _, by rfl⟩,
    ⟨(linkIn 5), 0, 0, (msgTo 4 0), _, by rfl, by decide +kernel⟩,
    ⟨(linkIn 5), 0, 0, (msgTo 5 0), _, by rfl⟩,
    ⟨(linkIn 5), 0, 0, (msgTo 6 0), _, by decide +kernel, by decide +kernel, by rfl⟩,
    ⟨(linkIn 5), 0, 0, (msgTo 6 (2 ^ 80)), _, by decide +kernel, by decide +kernel, by rfl⟩,
    ⟨(linkIn 5), 0, 0, (msgTo 6 (2 ^ 81)), _, by decide +kernel, by rfl⟩,
    ⟨fullEarly, 0, 0, (msgTo 4 (2 ^ 58)), _, by rfl, by decide +kernel, fullEarly_full⟩,
    ⟨fullOuts, 0, 0, (msgTo 6 0), _, by decide +kernel, fullOuts_full, by rfl⟩,
    ⟨((linkIn 5).updMd 0 fun x => { x with intake := List.replicate 512 ⟨0, hdr0, []⟩ }), 0, 0, (msgTo 6 (2 ^ 80)), _,
      by decide +kernel, by decide +kernel, by rfl⟩⟩

/-- For each clause of `MeldCommandsComplete` that has hypotheses, a state and operands meet them together. -/
theorem test_MeldCommandsComplete_witness :
    (∃ (s : State) (d : Fin 2) (j : Fin 4), s.jobSt d j = 1) ∧
    (∃ (s : State) (d : Fin 2) (j : Fin 4), s.jobSt d j = 4) ∧
    (∃ (s : State) (d : Fin 2) (j : Fin 4), s.jobSt d j = 5) ∧
    (∃ (s : State) (d : Fin 2) (j : Fin 4), s.jobSt d j = 6 ∧ s.reg d R.meld_job_tdl j ≤ s.tai) ∧
    (∃ (s : State) (d : Fin 2) (j : Fin 4), s.jobSt d j = 6 ∧ s.tai < s.reg d R.meld_job_tdl j ∧
      s.flag d F.meld_ctl_early = true ∧ s.flag 0 F.det_ctl_strict = false ∧ s.allMerged d j = true) ∧
    (∃ (s : State) (d : Fin 2) (j : Fin 4), s.jobSt d j = 7) ∧
    (∃ (s : State) (a b : Nat) (l : List Byte) (q : JoinRec) (u : State), s.nextRecord 1 = some (a, b, l) ∧
      q = JoinRec.ofBytes l ∧ u = { s with master := { s.master with inbox := s.master.inbox.erase (a, b, l) } }) ∧
    (∃ (s : State) (a b : Nat) (l : List Byte) (q : JoinRec) (u : State) (j : Nat), s.nextRecord 2 = some (a, b, l) ∧
      q = JoinRec.ofBytes l ∧ u = { s with master := { s.master with inbox := s.master.inbox.erase (a, b, l) } } ∧
      u.jobOf 0 q.job = some j) ∧
    (∃ (s : State) (a b : Nat) (l : List Byte) (q : JoinRec) (u : State), s.nextRecord 3 = some (a, b, l) ∧
      q = JoinRec.ofBytes l ∧ u = { s with master := { s.master with inbox := s.master.inbox.erase (a, b, l) } }) ∧
    (∃ (s : State) (a b : Nat) (l : List Byte) (q : JoinRec) (u : State) (j : Nat), s.nextRecord 5 = some (a, b, l) ∧
      q = JoinRec.ofBytes l ∧ u = { s with master := { s.master with inbox := s.master.inbox.erase (a, b, l) } } ∧
      u.jobOf 0 q.job = some j) ∧
    (∃ (s : State) (a b : Nat) (l : List Byte) (q : JoinRec) (u : State) (j : Nat) (y : PEntry) (v : State),
      s.nextRecord 4 = some (a, b, l) ∧ q = JoinRec.ofBytes l ∧
      u = { s with master := { s.master with inbox := s.master.inbox.erase (a, b, l) } } ∧ u.jobOf 0 q.job = some j ∧
      u.partner q.job q.site = some y ∧ y.state = 1 ∧
      (v = { u with master := { u.master with joins := u.master.joins.filter fun p => p.1 ≠ y.idx } })) ∧
    (∃ (s : State) (i : Fin 64) (q : Nat × Nat) (y : PEntry) (j : Nat) (u : State),
      ((s.master.joins.find? fun p => p.1 = i.val) = some q) ∧ y = entryOf i (s.entryBytes i) ∧
      u = { s with master := { s.master with joins := s.master.joins.erase q } } ∧ u.jobOf 0 y.job = some j) :=
  ⟨
    ⟨(jobIn 1), 0, 0, by decide +kernel⟩,
    ⟨(jobIn 4), 0, 0, by decide +kernel⟩,
    ⟨(jobIn 5), 0, 0, by decide +kernel⟩,
    ⟨(jobIn 6), 0, 0, by decide +kernel, by decide +kernel⟩,
    ⟨(((jobIn 6).setReg 0 R.meld_job_tdl 5 0).setFld 0 F.meld_ctl_early 1), 0, 0, by decide +kernel, by decide +kernel,
      by decide +kernel, by decide +kernel, by decide +kernel⟩,
    ⟨(jobIn 7), 0, 0, by decide +kernel⟩,
    ⟨(inboxIn z 1), 0, 0, [1], _, _, by decide +kernel, rfl, rfl⟩,
    ⟨(inboxIn (jobIn 3) 2), 0, 0, [2], _, _, 0, by decide +kernel, rfl, rfl, by rfl⟩,
    ⟨(inboxIn z 3), 0, 0, [3], _, _, by decide +kernel, rfl, rfl⟩,
    ⟨(inboxIn (jobIn 3) 5), 0, 0, [5], _, _, 0, by decide +kernel, rfl, rfl, by rfl⟩,
    ⟨(inboxIn ((jobIn 3).poke (z.entryAddr 0) [1]) 4), 0, 0, [4], _, _, 0,
      (entryOf 0 (((jobIn 3).poke (z.entryAddr 0) [1]).entryBytes 0)), _, by decide +kernel, rfl, rfl, by rfl, by rfl,
      by decide +kernel, rfl⟩,
    ⟨{ jobIn 3 with master := { z.master with joins := [(63, 0)] } }, 63, (63, 0), _, 0, _, by decide +kernel, rfl, rfl,
      by rfl⟩⟩

/-- For each clause of `WanCommandsComplete` that has hypotheses, a state and operands meet them together. -/
theorem test_WanCommandsComplete_witness :
    (∃ (s : State) (d : Fin 2), s.flag d F.wan_ctl_auto = true) ∧
    (∃ (s : State) (d : Fin 2), s.portSt d = 1 ∧ (s.wn d).fromUp = false) ∧
    (∃ (s : State) (d : Fin 2), s.portSt d = 1 ∧ (s.wn d).fromUp = true) ∧
    (∃ (s : State) (d : Fin 2), s.portSt d = 1) ∧
    (∃ (s : State) (d : Fin 2), s.holds d = true) ∧
    (∃ (s : State) (d : Fin 2), s.portSt d = 2) ∧
    (∃ (s : State) (d : Fin 2), s.portSt d = 2) ∧
    (∃ (s : State) (d : Fin 2), s.portSt d = 3) ∧
    (∃ (s : State) (d : Fin 2), s.portSt d = 3) ∧
    (∃ (s : State) (d : Fin 2) (l : List Byte) (b : Bool) (f : EthFrame) (u : State), s.receives d = true ∧
      f = EthFrame.ofBytes l ∧ u = s.tally d R.wan_t_rxb 0 (l.length + 4) ∧ b = true ∧ u.frameFor d f = true) ∧
    (∃ (s : State) (d : Fin 2) (l : List Byte) (b : Bool) (f : EthFrame) (u : State), s.receives d = true ∧
      f = EthFrame.ofBytes l ∧ u = s.tally d R.wan_t_rxb 0 (l.length + 4) ∧ (b = false ∨ u.frameFor d f = false)) ∧
    (∃ (s : State) (d : Fin 2) (l : List Byte) (f : EthFrame) (u : State), s.receives d = true ∧ f = EthFrame.ofBytes l ∧
      f.typ = 0x0806 ∧ u = s.tally d R.wan_t_rxb 0 (l.length + 4) ∧ u.frameFor d f = true) ∧
    (∃ (s : State) (d : Fin 2) (l : List Byte) (f : EthFrame) (u : State), s.receives d = true ∧ f = EthFrame.ofBytes l ∧
      f.isNs = true ∧ u = s.tally d R.wan_t_rxb 0 (l.length + 4) ∧ u.frameFor d f = true) ∧
    (∃ (s : State) (d : Fin 2) (l : List Byte), s.receives d = true ∧ beAt l 1 1 = 1) ∧
    (∃ (s : State) (d : Fin 2) (l : List Byte), s.receives d = true ∧ beAt l 1 1 = 2) ∧
    (∃ (s : State) (d : Fin 2) (b : List Byte) (rest : List (List Byte)) (u : State), (s.cp d).miss = b :: rest ∧
      (u = s.updCip d fun x => { x with miss := rest })) ∧
    (∃ (s : State) (d : Fin 2) (f : Frag) (rest : List Frag) (u : State), (s.md d).outq = f :: rest ∧ s.holds d = false ∧
      (u = ((s.updMd d fun x => { x with outq := rest }).storeFrag d f).noteFrag d f) ∧ u.sends d = true) :=
  ⟨
    ⟨(z.setFld 0 F.wan_ctl_auto 1), 0, by decide +kernel⟩,
    ⟨(portIn 1), 0, by decide +kernel, by decide +kernel⟩,
    ⟨((portIn 1).updWan 0 fun x => { x with fromUp := true }), 0, by decide +kernel, by decide +kernel⟩,
    ⟨(portIn 1), 0, by decide +kernel⟩,
    ⟨z, 0, by decide +kernel⟩,
    ⟨(portIn 2), 0, by decide +kernel⟩,
    ⟨(portIn 2), 0, by decide +kernel⟩,
    ⟨(portIn 3), 0, by decide +kernel⟩,
    ⟨(portIn 3), 0, by decide +kernel⟩,
    ⟨(portIn 3), 0, (List.replicate 14 0), true, _, _, by decide +kernel, rfl, rfl, by decide +kernel, by decide +kernel⟩,
    ⟨(portIn 3), 0, (List.replicate 14 0), false, _, _, by decide +kernel, rfl, rfl, by decide +kernel⟩,
    ⟨(portIn 3), 0, (List.replicate 12 0 ++ [8, 6]), _, _, by decide +kernel, rfl, by decide +kernel, rfl, by decide +kernel⟩,
    ⟨(portIn 3), 0, (List.replicate 12 0 ++ [0x86, 0xDD] ++ List.replicate 6 0 ++ [58] ++ List.replicate 33 0 ++ [135]), _, _,
      by decide +kernel, rfl, by decide +kernel, rfl, by decide +kernel⟩,
    ⟨(portIn 3), 0, [0, 1], by decide +kernel, by decide +kernel⟩,
    ⟨(portIn 3), 0, [0, 2], by decide +kernel, by decide +kernel⟩,
    ⟨(z.updCip 0 fun x => { x with miss := [[]] }), 0, [], [], _, by decide +kernel, rfl⟩,
    ⟨(felvarIn.updMd 0 fun x => { x with outq := [⟨0, ⟨0, 0, 0, 0, 0, 0, 0, 0, 0, 0, 0, 0, 0, 0⟩, []⟩] }), 0, ⟨0, ⟨0, 0, 0, 0,
      0, 0, 0, 0, 0, 0, 0, 0, 0, 0⟩, []⟩, [], _, by decide +kernel, by decide +kernel, rfl, by decide +kernel⟩⟩

/-- For each clause of `PairAndControlCommandsComplete` that has hypotheses, a state and operands meet them together. -/
theorem test_PairAndControlCommandsComplete_witness :
    (∃ (s : State) (d : Fin 2) (l : SecretLoad) (u : State) (b key : List Byte), (s.cp d).load = some l ∧
      (u = ((s.updCip d fun y => { y with load := none }).setFld d F.cip_ld_busy 0).setFld d F.cip_ld_go 0) ∧
      l.mixed = false ∧ u.boot.fuses.kek = some b ∧ keyUnwrap b l.wrapped = some key) ∧
    (∃ (s : State) (d : Fin 2) (l : SecretLoad) (u : State), (s.cp d).load = some l ∧
      (u = ((s.updCip d fun y => { y with load := none }).setFld d F.cip_ld_busy 0).setFld d F.cip_ld_go 0) ∧
      (l.mixed = true ∨ u.boot.fuses.kek.bind (fun k => keyUnwrap k l.wrapped) = none)) ∧
    (∃ (s : State) (d : Fin 2) (i : Fin 64) (g a : Nat) (q : Secret), (s.pair d i).prep = some (g, a) ∧
      (s.pair d i).secret g = some q) ∧
    (∃ (s : State) (d : Fin 2) (i : Fin 256) (c : Conn), (s.wn d).conns[i.val]? = some c ∧ c.ackDue = true ∧
      s.ctlGoes d c.pair = true) ∧
    (∃ (s : State) (d : Fin 2) (i : Fin 256) (a : Nat) (c : Conn) (m : CtlMsg) (u : State), (s.wn d).conns[i.val]? = some c ∧
      ((c.flight.find? fun m => m.cseq = a) = some m) ∧ s.ctlGoes d c.pair = true ∧ m.tries < s.fld d F.wan_crto_cmax ∧
      (u = (s.tally d R.wan_t_crtx).updConn d i fun c => { c with flight := c.flight.map fun q => if q.cseq = a then { q with tries := q.tries + 1 } else q })) ∧
    (∃ (s : State) (d : Fin 2) (i : Fin 256) (a : Nat) (c : Conn) (m : CtlMsg) (u : State), (s.wn d).conns[i.val]? = some c ∧
      ((c.flight.find? fun m => m.cseq = a) = some m) ∧ s.ctlGoes d c.pair = true ∧ s.fld d F.wan_crto_cmax ≤ m.tries ∧
      (u = s.updWan d fun x => { x with conns := x.conns.eraseIdx i })) ∧
    (∃ (s : State) (d : Fin 2) (a b : Nat) (t : SumTrick) (u : State),
      (((s.wn d).sums.find? fun t => t.job = a && t.trick = b) = some t) ∧ t.sent = false ∧
      (u = s.updWan d fun x => { x with sums := x.sums.map fun q => if q = t then { q with sent := true } else q })) ∧
    (∃ (s : State) (d : Fin 2) (n a z : Nat) (b : List Byte) (u : State), s.takeRec d 0x10 = some (u, n, a, z, b)) ∧
    (∃ (s : State) (d : Fin 2) (n m : Nat) (x : NackRun) (u : State), (s.wn d).nacks[n]? = some x ∧
      m = s.missingBits d (s.entry x.pair) x.dev x.die x.trick x.count ∧ m ≠ 0 ∧ x.rounds < s.fld d F.wan_rep_max ∧
      s.wanted d x = true ∧ s.tai < x.until_ ∧
      (u = s.updWan d fun y => { y with nacks := listMod y.nacks n fun q => { q with rounds := q.rounds + 1 } })) ∧
    (∃ (s : State) (d : Fin 2) (n a z : Nat) (b : List Byte) (u : State), s.sends d = true ∧ s.takeRec d 0x11 = some (u, n, a,
      z, b) ∧ beAt b 2 2 / 2 % 2 = d) :=
  ⟨
    ⟨((z.updCip 0 fun x => { x with load := some ⟨0, 0, 0, 0, (List.replicate 40 0), false⟩ }).updBoot fun x => { x with fuses := { x.fuses with kek := some (List.replicate 16 0xF4 ++ List.replicate 12 0x52) } }),
      0, ⟨0, 0, 0, 0, (List.replicate 40 0), false⟩, _, (List.replicate 16 0xF4 ++ List.replicate 12 0x52),
      (List.replicate 32 0xA6), by decide +kernel, rfl, by decide +kernel, by rfl, by decide +kernel⟩,
    ⟨(z.updCip 0 fun x => { x with load := some ⟨0, 0, 0, 0, [], true⟩ }), 0, ⟨0, 0, 0, 0, [], true⟩, _, by decide +kernel,
      rfl, by decide +kernel⟩,
    ⟨(z.updPair 0 63 fun x => { x with prep := some (0, 0), a := some ⟨[], 0, 0, 0, 0⟩ }), 0, 63, 0, 0, ⟨[], 0, 0, 0, 0⟩,
      by decide +kernel, by decide +kernel⟩,
    ⟨sealIn, 0, 0, ⟨0, 0, 0, 0, 0, [⟨0, [], 0⟩], [], [], true, 0⟩, by decide +kernel, by decide +kernel, by decide +kernel⟩,
    ⟨(sealIn.setFld 0 F.wan_crto_cmax 1), 0, 0, 0, ⟨0, 0, 0, 0, 0, [⟨0, [], 0⟩], [], [], true, 0⟩, ⟨0, [], 0⟩, _,
      by decide +kernel, by decide +kernel, by decide +kernel, by decide +kernel, rfl⟩,
    ⟨(sealIn.setFld 0 F.wan_crto_cmax 0), 0, 0, 0, ⟨0, 0, 0, 0, 0, [⟨0, [], 0⟩], [], [], true, 0⟩, ⟨0, [], 0⟩, _,
      by decide +kernel, by decide +kernel, by decide +kernel, by decide +kernel, rfl⟩,
    ⟨(z.updWan 0 fun x => { x with sums := [⟨1, 2, [], false⟩] }), 0, 1, 2, ⟨1, 2, [], false⟩, _, by decide +kernel,
      by decide +kernel, rfl⟩,
    ⟨(z.updWan 0 fun x => { x with recs := [(0, 0, 0, [0x10])] }), 0, 0, 0, 0, [0x10], _, by rfl⟩,
    ⟨((((jobIn 3).poke (z.entryAddr 0 + 0x54) [1]).setFld 0 F.wan_rep_max 1).updWan 0 fun x => { x with nacks := [⟨0, 0, 0, 0, 0, 0, 0, 1, 1, 0⟩] }),
      0, 0, _, ⟨0, 0, 0, 0, 0, 0, 0, 1, 1, 0⟩, _, by decide +kernel, rfl, by decide +kernel, by decide +kernel,
      by decide +kernel, by decide +kernel, rfl⟩,
    ⟨(felvarIn.updWan 0 fun x => { x with recs := [(0, 0, 0, [0x11])] }), 0, 0, 0, 0, [0x11], _, by decide +kernel, by rfl,
      by decide +kernel⟩⟩

/-- For each clause of `TimeCommandsComplete` that has hypotheses, a state and operands meet them together. -/
theorem test_TimeCommandsComplete_witness :
    (∃ (s : State) (a : Nat) (u : State), (u = (s.updGnss fun g => { g with ppsGood := if 999999000 ≤ a ∧ a ≤ 1000001000 then g.ppsGood + 1 else 0, edge := s.time.ns, sec := (match g.next with | some n => some n | none => g.sec.map (· + 1)), next := none }).gnssTest) ∧
      u.qualified 1 = false) ∧
    (∃ (s : State) (a : Nat) (u : State) (n : Nat), (u = (s.updGnss fun g => { g with ppsGood := if 999999000 ≤ a ∧ a ≤ 1000001000 then g.ppsGood + 1 else 0, edge := s.time.ns, sec := (match g.next with | some n => some n | none => g.sec.map (· + 1)), next := none }).gnssTest) ∧
      u.qualified 1 = true ∧ (u.tally 0 R.time_t_pps).time.gnss.sec = some n) ∧
    (∃ (s : State) (l : List Byte) (a b : Nat), zdaParse l = some (some b) ∧ 100 ≤ a ∧ a ≤ 900) ∧
    (∃ (s : State) (l : List Byte) (a : Nat), zdaParse l = some none) ∧
    (∃ (s : State) (i : Fin 2) (m : PtpMsg), s.ptpTakes i m = true) ∧
    (∃ (s : State) (i : Fin 2) (m : PtpMsg) (a b : Nat) (u : State), (s.ptp i).sync = some (a, b) ∧ s.ptpTakes i m = true ∧
      a = m.seq ∧ (u = ((s.updPtp i fun x => { x with sync := none, pair := some ((m.t : Int) + m.corr, b), pairs := x.pairs + 1 }).tally 0 R.time_t_sync).ptpTest i)) ∧
    (∃ (s : State) (i : Fin 2) (m : PtpMsg) (a b : Nat) (y : Int × Nat), (s.ptp i).req = some (a, b) ∧
      (s.ptp i).pair = some y ∧ s.ptpTakes i m = true ∧ a = m.seq) ∧
    (∃ (s : State) (i : Fin 2) (a b : Announce) (l : List Announce) (u : State), s.ptpOn i = true ∧
      a.domain = s.fld 0 F.time_ptp_domain ∧ a.scale = true ∧ (l = a :: (s.ptp i).heard.filter fun x => x.src ≠ a.src) ∧
      (b = l.foldl (fun b x => if keyLess x.key b.key then x else b) a) ∧ (u = s.updPtp i fun x => { x with heard := l }) ∧
      ((u.ptp i).gm.map (fun g => (g.gm, g.src)) ≠ some (b.gm, b.src))) ∧
    (∃ (s : State), s.flag 0 F.time_stat_ref10 = true) ∧
    (∃ (s : State) (i : Fin 5), (i = 2 ∨ i = 3)) ∧
    (∃ (s : State), s.flag 0 F.time_stat_ref10 = true) ∧
    (∃ (s : State), s.timeSt = 3 ∧ s.time.long = false) :=
  ⟨
    ⟨z, 0, _, rfl, by decide +kernel⟩,
    ⟨((z.setFld 0 F.time_stat_qual 1).updGnss fun g => { g with sec := some 5 }), 0, _, 6, rfl, by decide +kernel, by rfl⟩,
    ⟨z, zda, 100, 1704067200, by decide +kernel, by decide +kernel, by decide +kernel⟩,
    ⟨z, (zda.take 7), 0, by decide +kernel⟩,
    ⟨(ptpIn PtpPort.reset), 0, ptp0, by decide +kernel⟩,
    ⟨(ptpIn { PtpPort.reset with sync := some (0, 0) }), 0, ptp0, 0, 0, _, by decide +kernel, by decide +kernel,
      by decide +kernel, rfl⟩,
    ⟨(ptpIn { PtpPort.reset with req := some (0, 0), pair := some (0, 0) }), 0, ptp0, 0, 0, (0, 0), by decide +kernel,
      by decide +kernel, by decide +kernel, by decide +kernel⟩,
    ⟨((z.setFld 0 F.time_ptp_en 1).setFld 0 F.wan_stat_state 3), 0, ann0, _, _, _, by decide +kernel, by decide +kernel,
      by decide +kernel, rfl, rfl, rfl, by decide +kernel⟩,
    ⟨(z.setFld 0 F.time_stat_ref10 1), by decide +kernel⟩,
    ⟨z, 3, by decide +kernel⟩,
    ⟨(z.setFld 0 F.time_stat_ref10 1), by decide +kernel⟩,
    ⟨(z.setFld 0 F.time_stat_state 3), by decide +kernel, by decide +kernel⟩⟩

/-- For each clause of `DeterminismAndCheckpointCommandsComplete` that has hypotheses, a state and operands meet them together. -/
theorem test_DeterminismAndCheckpointCommandsComplete_witness :
    (∃ (s : State), s.det.hands.any (s.begun.hands.contains ·) = false ∧ s.det.colls.any (s.begun.colls.contains ·) = false) ∧
    (∃ (s : State) (r : Fin 16) (n : Nat) (y : TwinRec), (((s.rg r).twIn.find? fun x => x.seq = n) = some y) ∧
      (s.fld 0 F.det_tw_mode ≠ 1 ∨ s.bridgeDown = false)) ∧
    (∃ (s : State), s.fld 0 F.det_stat_tw = 1 ∧ s.twinWaiting.isSome = true) ∧
    (∃ (s : State) (a : Nat) (u : State), s.released = true ∧ a = s.viewNat (s.ckpDesc + 8) 8 ∧
      u = { s with ckp := { s.ckp with preq := a } } ∧ s.ckp.preq < a) ∧
    (∃ (s : State) (q : CutRun) (i : Nat), s.ckp.run = some q ∧ s.fld 0 F.ckp_stat_state = 1 ∧ s.cutQuiet q.req.ctx = true ∧
      s.freeImage (ckpSlots q.desc) = some i) ∧
    (∃ (s : State) (q : CutRun), s.ckp.run = some q ∧ s.fld 0 F.ckp_stat_state = 1) ∧
    (∃ (s : State) (q : CutRun), s.ckp.run = some q ∧ s.fld 0 F.ckp_stat_state = 3 ∧ s.applying q.req.ctx = false) ∧
    (∃ (s : State) (q : CutRun), s.ckp.run = some q ∧ s.fld 0 F.ckp_stat_state = 4) ∧
    (∃ (s : State) (l : List (Nat × Nat)) (o : Option Nat) (q : DrainRun), s.ckp.drain = some q ∧ s.hostReady = true) ∧
    (∃ (s : State), s.flag 0 F.ckp_rst_busy = true) :=
  ⟨
    ⟨z, by decide +kernel, by decide +kernel⟩,
    ⟨(z.updRg 0 fun g => { g with twIn := [⟨0, 0, 0, 0, 0, 0⟩] }), 0, 0, ⟨0, 0, 0, 0, 0, 0⟩, by decide +kernel,
      by decide +kernel⟩,
    ⟨((z.setFld 0 F.det_stat_tw 1).updRg 0 fun g => { g with twOwn := [⟨0, 0, 0, 0, 0, 0⟩] }), by decide +kernel,
      by decide +kernel⟩,
    ⟨(rel.poke (z.ckpDesc + 8) [1]), _, _, by decide +kernel, rfl, rfl, by decide +kernel⟩,
    ⟨(cutIn 1), cut0, 0, by decide +kernel, by decide +kernel, by decide +kernel, by decide +kernel⟩,
    ⟨(cutIn 1), cut0, by decide +kernel, by decide +kernel⟩,
    ⟨(cutIn 3), cut0, by decide +kernel, by decide +kernel, by decide +kernel⟩,
    ⟨(cutIn 4), cut0, by decide +kernel, by decide +kernel⟩,
    ⟨((({ z with ckp := { z.ckp with drain := some ⟨0, 0⟩ } } : State).setFld 0 F.pcie_stat_ltssm 3).setFld 0 F.pcie_stat_bme 1),
      [], none, ⟨0, 0⟩, by decide +kernel, by decide +kernel⟩,
    ⟨(z.setFld 0 F.ckp_rst_busy 1), by decide +kernel⟩⟩

/-- For each clause of `RecoveryCommandsComplete` that has hypotheses, a state and operands meet them together. -/
theorem test_RecoveryCommandsComplete_witness :
    (∃ (s : State) (d : Fin 2) (y : EvEntry) (rest : List EvEntry), (s.err.get d).fifo = y :: rest ∧ (s.ringFull d = false ∨ s.flag
      d F.err_ctl_stop = false)) ∧
    (∃ (s : State) (d : Fin 2) (b : Bool) (t : Nat) (u : State), s.rc d = 0 ∧ s.fld 0 F.boot_stat_phase ≠ 1 ∧ b = true ∧ t = 1 -
      d.val ∧ u = s.setFld d F.rec_stat_rc 1) ∧
    (∃ (s : State) (d : Fin 2) (b : Bool), s.rc d = 0 ∧ s.fld 0 F.boot_stat_phase ≠ 1 ∧ b = false) ∧
    (∃ (s : State) (d : Fin 2) (a : Fin 4), s.rcUp d = true) ∧
    (∃ (s : State) (d : Fin 2) (a : Fin 4) (v u : State), (v = if bit a 0 then s.tally d R.brg_t_tx0 0 32 else s) ∧ v.rcUp (1 - d) =
      true ∧ a ≠ 0 ∧ v.rc d = 3 ∧ u = v.setFld (1 - d) F.rec_stat_twin 1) ∧
    (∃ (s : State) (d : Fin 2) (a : Fin 4) (v u : State), (v = if bit a 0 then s.tally d R.brg_t_tx0 0 32 else s) ∧ v.rcUp (1 - d) =
      true ∧ a ≠ 0 ∧ v.rc d ≠ 3 ∧ (u = v.setFld (1 - d) F.rec_stat_twin (if v.rc d = 0 then 3 else 0))) ∧
    (∃ (s : State) (d : Fin 2), s.rcUp d = true) ∧
    (∃ (s u : State), s.flag 0 F.rec_stat_fail = false ∧ u = ((s.setFld 0 F.rec_stat_fail 1).setFld 1 F.rec_stat_fail 1).emit (.pin
      "FAIL_N" false)) ∧
    (∃ (s : State) (d : Fin 2) (b : Beat), s.flag 0 F.boot_stat_loaded = true ∧ b = s.beat d) ∧
    (∃ (s : State) (d : Fin 2) (i : Fin 18) (m : Msg), s.linkState d i = 5 ∧ m.kind = 7) ∧
    (∃ (s : State) (d : Fin 2), s.flag 0 F.boot_stat_loaded = true ∧ d = 0) ∧
    (∃ (s : State) (d : Fin 2), s.flag 0 F.boot_stat_loaded = true ∧ d = 1) ∧
    (∃ (s : State) (d : Fin 2) (i : Fin 18), s.linkState d i = 5) ∧
    (∃ (s : State) (f a : Fin 16384) (b : Fin 5) (t : Nat), s.isMaster = true) :=
  ⟨
    ⟨{ z with err := z.err.upd 0 fun x => { x with fifo := [⟨0, 0, 0, 1, 0, 0, 0⟩] } }, 0, ⟨0, 0, 0, 1, 0, 0, 0⟩, [],
      by decide +kernel, by decide +kernel⟩,
    ⟨((phaseIn 8).setFld 0 F.rec_stat_rc 0), 0, true, _, _, by decide +kernel, by decide +kernel, by decide +kernel, rfl, rfl⟩,
    ⟨((phaseIn 8).setFld 0 F.rec_stat_rc 0), 0, false, by decide +kernel, by decide +kernel, by decide +kernel⟩,
    ⟨((z.setFld 0 F.rec_stat_rc 1).setFld 1 F.rec_stat_rc 1), 0, 3, by decide +kernel⟩,
    ⟨((z.setFld 0 F.rec_stat_rc 3).setFld 1 F.rec_stat_rc 1), 0, 1, _, _, rfl, by decide +kernel, by decide +kernel,
      by decide +kernel, rfl⟩,
    ⟨((z.setFld 0 F.rec_stat_rc 0).setFld 1 F.rec_stat_rc 1), 0, 1, _, _, rfl, by decide +kernel, by decide +kernel,
      by decide +kernel, rfl⟩,
    ⟨((z.setFld 0 F.rec_stat_rc 1).setFld 1 F.rec_stat_rc 1), 0, by decide +kernel⟩,
    ⟨z, _, by decide +kernel, rfl⟩,
    ⟨rel, 0, _, by decide +kernel, rfl⟩,
    ⟨(linkIn 5), 0, 0, (msgTo 7), by decide +kernel, by decide +kernel⟩,
    ⟨rel, 0, by decide +kernel, by decide +kernel⟩,
    ⟨rel, 1, by decide +kernel, by decide +kernel⟩,
    ⟨(linkIn 5), 0, 0, by decide +kernel⟩,
    ⟨(z.setFld 0 F.meld_mstr_master 1), 0, 0, 0, 0, by decide +kernel⟩⟩

/-- For each clause of `AssayCommandsComplete` that has hypotheses, a state and operands meet them together. -/
theorem test_AssayCommandsComplete_witness :
    (∃ (s : State) (b : Bool) (y : AssayRun) (o : AssayOtp) (n : Nat), s.asy.run = some y ∧ o = s.asy.otp ∧ n = o.lcount + 1) ∧
    (∃ (s : State) (y : AssayRun), s.asy.run = some y ∧ y.started = false) ∧
    (∃ (s : State) (l : List Nat) (y : AssayRun), s.asy.run = some y) ∧
    (∃ (s : State) (b : Bool) (d n : Nat) (l : List (Nat × Nat)) (rest : List (Nat × Nat × List (Nat × Nat))),
      s.asy.reports = (d, n, l) :: rest) ∧
    (∃ (s : State), s.intervalDue = true) ∧
    (∃ (s : State) (b : Bool) (i : Fin 1000) (a : Nat) (rest : List Nat) (y : AssayRun), s.asy.marks = a :: rest ∧
      s.asy.run = some y ∧ b = true ∧ y.started = true) ∧
    (∃ (s : State) (b : Bool) (i : Fin 1000) (a : Nat) (rest : List Nat) (y : AssayRun), s.asy.marks = a :: rest ∧
      s.asy.run = some y ∧ b = true ∧ y.started = false) ∧
    (∃ (s : State) (y : AssayRun), s.asy.run = some y ∧ y.offset.isSome = true) ∧
    (∃ (s : State) (n : Nat) (y : AssayRun) (u : State), s.asy.run = some y ∧ s.asy.otp.st = 0 ∧ n % 65536 = 0x5345 ∧
      (y.param.loop = 0 ∨ y.broken = false) ∧ (u = s.updAsy fun x => { x with otp := { x.otp with st := 1 } })) ∧
    (∃ (s : State) (i : Fin 256) (n : Nat) (y : AssayRun) (u : State), (u = s.updRun fun x => { x with pid := i.val, pval := n % 2 ^ 64 }) ∧
      u.asy.run = some y ∧ u.asy.otp.st ≠ 2 ∧ paramLegal i (n % 2 ^ 64) = true) ∧
    (∃ (s : State) (b : Bool) (y : AssayRun), s.asy.run = some y ∧ y.param.loop ≠ 0 ∧ y.broken = false ∧ b = false) ∧
    (∃ (s : State) (b : Bool) (y : AssayRun), s.asy.run = some y ∧ y.param.loop ≠ 0 ∧ y.broken = true ∧ b = true ∧
      999 ≤ y.okMs) ∧
    (∃ (s : State) (y : AssayRun) (f : MirrorFrame) (u : State), s.asy.run = some y ∧ f = ⟨s.asy.otp.st, y.flags s.asy.otp.st,
      s.asy.otp.lcount, y.uj, y.wrap, y.lastMw, y.ns, y.offsetBits, y.nextEntry s.asy.otp, frameHalls y.queue, y.news⟩ ∧
      (u = s.updRun fun y => { y with queue := y.queue.drop f.halls.length, newEnt := y.newEnt.drop 1, cyc := if y.newEnt.isEmpty then y.cyc + 1 else y.cyc, news := [] })) ∧
    (∃ (s : State) (b : Bool) (f : MirrorFrame) (rest : List MirrorFrame) (u : State), s.asy.frames = f :: rest ∧ b = true ∧
      (u = ((s.updAsy fun x => { x with frames := rest, bad := 0 }).tally 0 R.asy_t_frame).frameFields f)) ∧
    (∃ (s : State) (b : Bool) (f : MirrorFrame) (rest : List MirrorFrame) (u : State), s.asy.frames = f :: rest ∧ b = false ∧
      (u = s.updAsy fun x => { x with frames := rest, bad := x.bad + 1 })) ∧
    (∃ (s : State), s.flag 0 F.asy_stat_mlive = true) ∧
    (∃ (s : State) (b : Bool) (y : AssayRun) (u : State), s.asy.run = some y ∧ y.expN ≠ 0 ∧
      (u = s.updRun fun x => { x with expPj := 0, expN := 0, expSeq := (x.expSeq + 1) % 8 })) :=
  ⟨
    ⟨z, true, asy0, _, _, by decide +kernel, rfl, rfl⟩,
    ⟨z, asy0, by decide +kernel, by decide +kernel⟩,
    ⟨z, [], asy0, by decide +kernel⟩,
    ⟨(z.updAsy fun x => { x with reports := [(0, 0, [])] }), true, 0, 0, [], [], by decide +kernel⟩,
    ⟨(asyIn { asy0 with started := true }), by decide +kernel⟩,
    ⟨((asyIn { asy0 with started := true }).updAsy fun x => { x with marks := [0] }), true, 0, 0, [],
      { asy0 with started := true }, by decide +kernel, by decide +kernel, by decide +kernel, by decide +kernel⟩,
    ⟨(z.updAsy fun x => { x with marks := [0] }), true, 0, 0, [], asy0, by decide +kernel, by decide +kernel,
      by decide +kernel, by decide +kernel⟩,
    ⟨(asyIn { asy0 with offset := some 0 }), { asy0 with offset := some 0 }, by decide +kernel, by decide +kernel⟩,
    ⟨z, 0x5345, asy0, _, by decide +kernel, by decide +kernel, by decide +kernel, by decide +kernel, rfl⟩,
    ⟨z, 2, 0, { asy0 with pid := 2 }, _, rfl, by rfl, by decide +kernel, by decide +kernel⟩,
    ⟨z, false, asy0, by decide +kernel, by decide +kernel, by decide +kernel, by decide +kernel⟩,
    ⟨(asyIn { asy0 with broken := true, okMs := 999 }), true, { asy0 with broken := true, okMs := 999 }, by decide +kernel,
      by decide +kernel, by decide +kernel, by decide +kernel, by decide +kernel⟩,
    ⟨z, asy0, _, _, by decide +kernel, rfl, rfl⟩,
    ⟨(z.updAsy fun x => { x with frames := [frame0] }), true, frame0, [], _, by decide +kernel, by decide +kernel, rfl⟩,
    ⟨(z.updAsy fun x => { x with frames := [frame0] }), false, frame0, [], _, by decide +kernel, by decide +kernel, rfl⟩,
    ⟨(z.setFld 0 F.asy_stat_mlive 1), by decide +kernel⟩,
    ⟨(asyIn { asy0 with expN := 1 }), true, { asy0 with expN := 1 }, _, by decide +kernel, by decide +kernel, rfl⟩⟩

/-- For each clause of `BootCommandsComplete` that has hypotheses, a state and operands meet them together. -/
theorem test_BootCommandsComplete_witness :
    (∃ (s : State) (a : Fin 16), a ≠ 14) ∧
    (∃ (s : State) (a : Nat), s.boot.hold = some a) ∧
    (∃ (s : State), s.boot.hold = none ∧ s.phase = 1) ∧
    (∃ (s : State) (i : Fin 4) (n : Nat) (u : State), s.boot.hold = none ∧ s.phase = 2 ∧ i ≠ 0 ∧ (u = ((s.setFld 0 F.boot_nor_mode
      i).setFld 0 F.boot_nor_clk (if i = 3 then 200 else if i = 2 then 100 else 50)).setFld 0 F.boot_nor_size n)) ∧
    (∃ (s : State) (i : Fin 4) (n : Nat), s.boot.hold = none ∧ s.phase = 2 ∧ i = 0) ∧
    (∃ (s : State) (l : List Byte), s.boot.hold = none ∧ s.phase = 3 ∧ 256 ≤ l.length ∧ copyLen l ≤ l.length) ∧
    (∃ (s : State) (l : List Byte), s.boot.hold = none ∧ s.phase = 3 ∧ (l.length < 256 ∨ l.length < copyLen l)) ∧
    (∃ (s : State), s.boot.hold = none ∧ s.phase = 4 ∧ s.copyCause s.staged = none) ∧
    (∃ (s : State) (a : Nat), s.boot.hold = none ∧ s.phase = 4 ∧ s.copyCause s.staged = some a) ∧
    (∃ (s u : State), s.boot.hold = none ∧ s.phase = 6 ∧ u = (((s.diesReset [0x01, 0x16]).setFld 0 F.pwr_rcause_cause (s.fld 0
      F.pwr_rcause_cause)).setFld 0 F.pwr_rcause_rail (s.fld 0 F.pwr_rcause_rail)).diesStart) ∧
    (∃ (s u v : State) (a : Nat), s.boot.hold = none ∧ s.phase = 7 ∧ (u = (s.sramWrite stageBase (List.replicate s.boot.staged 0)
      0).updBoot fun x => { x with staged := 0 }) ∧ a = (u.clk - u.boot.start) / 1900 ∧ v = ((({ u with relClk := u.clk } :
      State).setPhase 8).setFld 0 F.boot_tload_us a).stage F.boot_stat_loaded) ∧
    (∃ (s : State), s.released = true ∧ s.fld 0 F.boot_cfg_tmo ≠ 0 ∧ s.flag 0 F.boot_stat_ready = false ∧ s.boot.late = false) ∧
    (∃ (s : State) (q : BitVec 400), bits q.toNat 384 16 = 0x504B ∧ s.boot.fuses.pkh = none) ∧
    (∃ (s : State), s.loads 1 = true) ∧
    (∃ (s : State), s.loads 2 = true) ∧
    (∃ (s : State), s.loads 3 = true) ∧
    (∃ (s : State), s.loads 5 = true) ∧
    (∃ (s : State), s.loads 4 = true) ∧
    (∃ (s : State) (q : Rec), s.loads 4 = true ∧ q = s.nextRec ∧ q.good s.recArea = true ∧ q.readable = true) ∧
    (∃ (s : State) (l : List Byte), s.boot.hold = none ∧ s.phase = 5 ∧ s.boot.pos + 16 ≤ s.recArea ∧ (¬ (1 ≤ s.nextRec.op ∧
      s.nextRec.op ≤ 5)) ∧ s.nextRec.good s.recArea = true ∧ l = s.peek stageBase 256) :=
  ⟨
    ⟨z, 15, by decide +kernel⟩,
    ⟨(z.updBoot fun x => { x with hold := some 0 }), 0, by decide +kernel⟩,
    ⟨(phaseIn 1), by decide +kernel, by decide +kernel⟩,
    ⟨(phaseIn 2), 1, 0, _, by decide +kernel, by decide +kernel, by decide +kernel, rfl⟩,
    ⟨(phaseIn 2), 0, 0, by decide +kernel, by decide +kernel, by decide +kernel⟩,
    ⟨(phaseIn 3), (List.replicate 256 0), by decide +kernel, by decide +kernel, by decide +kernel, by decide +kernel⟩,
    ⟨(phaseIn 3), [], by decide +kernel, by decide +kernel, by decide +kernel⟩,
    ⟨verifyIn, by decide +kernel, by decide +kernel, by decide +kernel⟩,
    ⟨(phaseIn 4), 2, by decide +kernel, by decide +kernel, by decide +kernel⟩,
    ⟨(phaseIn 6), _, by decide +kernel, by decide +kernel, rfl⟩,
    ⟨(phaseIn 7), _, _, _, by decide +kernel, by decide +kernel, rfl, rfl, rfl⟩,
    ⟨(rel.setFld 0 F.boot_cfg_tmo 1), by decide +kernel, by decide +kernel, by decide +kernel, by decide +kernel⟩,
    ⟨z, (BitVec.ofNat 400 (0x504B * 2 ^ 384)), by decide +kernel, by decide +kernel⟩,
    ⟨(staged ([1, 0] ++ List.replicate 14 0)), by decide +kernel⟩,
    ⟨(staged ([2, 0] ++ List.replicate 14 0)), by decide +kernel⟩,
    ⟨(staged ([3, 0] ++ List.replicate 14 0)), by decide +kernel⟩,
    ⟨(staged ([5, 0] ++ List.replicate 14 0)), by decide +kernel⟩,
    ⟨(staged ([4, 0] ++ List.replicate 14 0)), by decide +kernel⟩,
    ⟨(staged ([4, 0, 0, 0, 1, 0, 0, 0] ++ leBytes 8 csrBase ++ List.replicate 16 0)), _, by decide +kernel, rfl, by decide +kernel,
      by decide +kernel⟩,
    ⟨(staged ([6, 0] ++ List.replicate 14 0)), _, by decide +kernel, by decide +kernel, by decide +kernel, by decide +kernel,
      by decide +kernel, rfl⟩⟩

/-- For each clause of `HostCommandsComplete` that has hypotheses, a state and operands meet them together. -/
theorem test_HostCommandsComplete_witness :
    (∃ (s : State) (o n : Nat) (b : List Byte) (a : Nat) (u : State), s.boot.hold = none ∧ b ≠ [] ∧ b.length ≤ 512 ∧ o + b.length ≤
      2 ^ s.host.bar2 ∧ a = s.bar2Pa o ∧ u = s.tally 0 R.pcie_t_inwr 0 b.length ∧ inMemory a b.length = true ∧ u.hbmStops a b.length
      = false ∧ u.serves a b.length = true) ∧
    (∃ (s : State) (o n a : Nat), s.boot.hold = none ∧ n ≠ 0 ∧ n ≤ 4096 ∧ o + n ≤ 2 ^ s.host.bar2 ∧ a = s.bar2Pa o ∧ inMemory a n =
      true ∧ s.hbmStops a n = false ∧ s.serves a n = true) ∧
    (∃ (s : State), s.boot.hold = none ∧ s.phase ≠ 1) ∧
    (∃ (s : State), s.boot.hold = none ∧ s.phase ≠ 1) ∧
    (∃ (s : State), s.boot.hold = none ∧ s.phase ≠ 1) ∧
    (∃ (s : State), s.boot.hold = none ∧ s.phase ≠ 1) ∧
    (∃ (s : State), s.boot.hold = none ∧ s.phase ≠ 1) ∧
    (∃ (s : State), s.boot.hold = none ∧ s.phase ≠ 1) ∧
    (∃ (s : State) (a : Fin 8) (w : Fin 17) (b : Bool) (u : State), s.boot.hold = none ∧ a ≠ 0 ∧ a ≠ 7 ∧ [1, 2, 4, 8, 16].contains
      w.val = true ∧ (u = if s.fld 0 F.pcie_stat_ltssm = 3 then s.tally 0 R.pcie_t_rcv else s)) ∧
    (∃ (s : State), s.boot.hold = none) ∧
    (∃ (s u : State), s.boot.hold = none ∧ s.phase ≠ 1 ∧ (u = [R.pcie_ctl, R.pcie_win, R.pcie_evq_base, R.pcie_evq_ctl,
      R.pcie_msix].foldl (fun s r => s.setReg 0 r r.reset) s)) ∧
    (∃ (s : State) (a : Fin 64) (u : State), s.boot.hold = none ∧ s.phase ≠ 1 ∧ 34 ≤ a.val ∧ a.val ≤ 40 ∧ (u = s.updHost fun h =>
      { h with bar2 := a })) ∧
    (∃ (s : State) (a : Fin 4) (n : Nat) (q : DrainRun), s.ckp.drain = some q) ∧
    (∃ (s : State) (a : Fin 256) (u : State), s.host.holding.contains a.val = true ∧ u =
      { s with host := { s.host with holding := markSet false a s.host.holding, deferred := markSet false a s.host.deferred } }) ∧
    (∃ (s : State) (a : Fin 256) (n m : Nat) (u : State), u =
      { s with host := { s.host with table := assocPut a ⟨n, m, 0⟩ s.host.table, pba := markSet false a s.host.pba } }) ∧
    (∃ (s : State) (a n : Nat) (b : Option (List Byte)), s.behind .host = true ∨
      s.memBlocked ⟨0, b.isSome, a, n, b, false, []⟩ = true) ∧
    (∃ (s : State) (a : Nat) (b : List Byte), s.behind .host = false ∧
      s.memBlocked ⟨0, true, a, b.length, some b, false, []⟩ = false) ∧
    (∃ (s : State) (a n : Nat) (q : Rd), s.behind .host = false ∧ s.memBlocked ⟨0, false, a, n, none, false, []⟩ = false ∧ q = s.read 0 a n []) :=
  ⟨
    ⟨rel, 2 ^ 39, 0, [1], _, _, by decide +kernel, by decide +kernel, by decide +kernel, by decide +kernel, rfl, rfl,
      by decide +kernel, by decide +kernel, by decide +kernel⟩,
    ⟨rel, 2 ^ 39, 1, _, by decide +kernel, by decide +kernel, by decide +kernel, by decide +kernel, rfl, by decide +kernel,
      by decide +kernel, by decide +kernel⟩,
    ⟨(phaseIn 8), by decide +kernel, by decide +kernel⟩,
    ⟨(phaseIn 8), by decide +kernel, by decide +kernel⟩,
    ⟨(phaseIn 8), by decide +kernel, by decide +kernel⟩,
    ⟨(phaseIn 8), by decide +kernel, by decide +kernel⟩,
    ⟨(phaseIn 8), by decide +kernel, by decide +kernel⟩,
    ⟨(phaseIn 8), by decide +kernel, by decide +kernel⟩,
    ⟨z, 1, 16, false, _, by decide +kernel, by decide +kernel, by decide +kernel, by decide +kernel, rfl⟩,
    ⟨z, by decide +kernel⟩,
    ⟨(phaseIn 8), _, by decide +kernel, by decide +kernel, rfl⟩,
    ⟨(phaseIn 8), 34, _, by decide +kernel, by decide +kernel, by decide +kernel, by decide +kernel, rfl⟩,
    ⟨{ z with ckp := { z.ckp with drain := some ⟨0, 0⟩ } }, 0, 0, ⟨0, 0⟩, by decide +kernel⟩,
    ⟨(z.updHost fun h => { h with holding := [255] }), 255, _, by decide +kernel, rfl⟩,
    ⟨z, 0, 0, 0, _, rfl⟩,
    ⟨z.hostQueue (.dev 0 32 (some 0)), 2 ^ 39, 1, none, .inl (by decide +kernel)⟩,
    ⟨z, 2 ^ 39, [1], by decide +kernel, by decide +kernel⟩,
    ⟨z, 2 ^ 39, 1, _, by decide +kernel, by decide +kernel, rfl⟩⟩

/-- For each clause of `ManagementAndDebugCommandsComplete` that has hypotheses, a state and operands meet them together. -/
theorem test_ManagementAndDebugCommandsComplete_witness :
    (∃ (s : State) (a : Fin (2 ^ 56)) (n : Nat) (u : State), s.boot.hold = none ∧ s.busRead .mgmt a 32 = some (n, u)) ∧
    (∃ (s : State) (a : Fin (2 ^ 56)) (n : Nat) (u : State), s.boot.hold = none ∧ s.busRead .mgmt a 64 = some (n, u)) ∧
    (∃ (s : State) (a : Fin (2 ^ 56)) (n : Nat) (u : State), s.boot.hold = none ∧ s.busWrite .mgmt a 32 n = some u) ∧
    (∃ (s : State) (a : Fin (2 ^ 56)) (n : Nat) (u : State), s.boot.hold = none ∧ s.busWrite .mgmt a 64 n = some u) ∧
    (∃ (s : State) (a : Fin 128) (b : Bool) (u : State), s.boot.hold = none ∧ s.flag 0 F.mgmt_stat_i3c = false ∧
      u = (s.setFld 0 F.mgmt_stat_i3c 1).setFld 0 F.mgmt_stat_daddr a) ∧
    (∃ (s u : State), s.boot.hold = none ∧ u = (s.setFld 0 F.mgmt_stat_i3c 0).setFld 0 F.mgmt_stat_daddr 0) ∧
    (∃ (s : State) (a n : Nat) (u : State), s.mgmt.holding = true ∧ s.mgmt.deferred = some (a, n) ∧
      u = { s with mgmt := { s.mgmt with holding := false, deferred := none } }) ∧
    (∃ (s : State), s.mgmt.holding = true ∧ s.mgmt.deferred = none) ∧
    (∃ (s : State) (b : Bool), s.boot.hold = none ∧ s.flag 0 F.tele_ctl_en = true ∧ b = false) ∧
    (∃ (s : State) (b : Bool) (u : State), s.boot.hold = none ∧ s.flag 0 F.tele_ctl_en = true ∧ b = true ∧
      u = { s with tele := { s.tele with skipped := true } }) ∧
    (∃ (s : State) (a : Fin (2 ^ 52)) (n : Nat) (u v : State), s.boot.hold = none ∧ u = s.jtagOut ∧ u.dbg.status ≠ 1 ∧
      u.flag 0 F.dbg_ctl_dis = false ∧ u.busRead .dbg a 32 = some (n, v)) ∧
    (∃ (s : State) (a : Fin (2 ^ 52)) (n : Nat) (u v : State), s.boot.hold = none ∧ u = s.jtagOut ∧ u.dbg.status ≠ 1 ∧
      u.flag 0 F.dbg_ctl_dis = false ∧ u.busRead .dbg a 64 = some (n, v)) ∧
    (∃ (s : State) (a : Fin (2 ^ 52)) (n : Nat) (u v : State), s.boot.hold = none ∧ u = s.jtagOut ∧ u.dbg.status ≠ 1 ∧
      u.flag 0 F.dbg_ctl_dis = false ∧ u.busWrite .dbg a 32 n = some v) ∧
    (∃ (s : State) (a : Fin (2 ^ 52)) (n : Nat) (u v : State), s.boot.hold = none ∧ u = s.jtagOut ∧ u.dbg.status ≠ 1 ∧
      u.flag 0 F.dbg_ctl_dis = false ∧ u.busWrite .dbg a 64 n = some v) :=
  ⟨
    ⟨z, 0x8000000000, _, _, by decide +kernel, by rfl⟩,
    ⟨z, 0x8000000000, _, _, by decide +kernel, by rfl⟩,
    ⟨z, 0x8000000000, 0, _, by decide +kernel, by rfl⟩,
    ⟨z, 0x8000000000, 0, _, by decide +kernel, by rfl⟩,
    ⟨z, 127, true, _, by decide +kernel, by decide +kernel, rfl⟩,
    ⟨z, _, by decide +kernel, rfl⟩,
    ⟨{ z with mgmt := { z.mgmt with holding := true, deferred := some (0, 0) } }, 0, 0, _, by decide +kernel,
      by decide +kernel, rfl⟩,
    ⟨{ z with mgmt := { z.mgmt with holding := true } }, by decide +kernel, by decide +kernel⟩,
    ⟨(z.setFld 0 F.tele_ctl_en 1), false, by decide +kernel, by decide +kernel, by decide +kernel⟩,
    ⟨(z.setFld 0 F.tele_ctl_en 1), true, _, by decide +kernel, by decide +kernel, by decide +kernel, rfl⟩,
    ⟨z, 0x8000000000, _, _, _, by decide +kernel, rfl, by decide +kernel, by decide +kernel, by rfl⟩,
    ⟨z, 0x8000000000, _, _, _, by decide +kernel, rfl, by decide +kernel, by decide +kernel, by rfl⟩,
    ⟨z, 0x8000000000, 0, _, _, by decide +kernel, rfl, by decide +kernel, by decide +kernel, by rfl⟩,
    ⟨z, 0x8000000000, 0, _, _, by decide +kernel, rfl, by decide +kernel, by decide +kernel, by rfl⟩⟩

/-- For each clause of `PowerCommandsComplete` that has hypotheses, a state and operands meet them together. -/
theorem test_PowerCommandsComplete_witness :
    (∃ (s : State) (l : List (Nat × Nat)) (u : State), l = s.pwr.samples ∧ l ≠ [] ∧ 4 * l.length ≤ sumNat (l.map (·.2)) ∧
      (u = s.updPwr fun x => { x with zeroMs := if l.all (fun p => p.2 = 0) then min 10 (x.zeroMs + 1) else 0 })) ∧
    (∃ (s : State) (r : Fin 16) (q : DvfsRun) (u v : State), assocGet r.val s.pwr.dvfs = some q ∧
      (u = (s.updPwr fun y => { y with dvfs := assocDel r y.dvfs }).setFld 0 F.pwr_rclk_busy 0 r) ∧
      v = (u.runStep r (u.stepOf r q.step)).tally 0 R.pwr_t_dvfs) ∧
    (∃ (s : State) (d : Fin 2) (b : Bool) (a n : Nat) (u : State), assocGet d.val s.pwr.retry = some (a, n) ∧
      u = s.emit (.pmbus d (s.fld 0 (avsFld d))) ∧ b = true) ∧
    (∃ (s : State) (d : Fin 2) (b : Bool) (a n : Nat) (u : State), assocGet d.val s.pwr.retry = some (a, n) ∧
      u = s.emit (.pmbus d (s.fld 0 (avsFld d))) ∧ b = false ∧ n < 2) ∧
    (∃ (s : State) (a b : Fin 256) (u : State), s.flag 0 F.pwr_stat_trip = false ∧
      u = ((s.setFld 0 F.pwr_stat_trip 1).emit (.pin "THERM_N" false)).pwrRaise 0xB003 (a + b * 256)) :=
  ⟨
    ⟨(z.updPwr fun x => { x with samples := [(0, 4)] }), _, _, rfl, by decide +kernel, by decide +kernel, rfl⟩,
    ⟨(z.updPwr fun x => { x with dvfs := [(15, ⟨0, none⟩)] }), 15, ⟨0, none⟩, _, _, by decide +kernel, rfl, rfl⟩,
    ⟨(z.updPwr fun x => { x with retry := [(0, 0, 0)] }), 0, true, 0, 0, _, by decide +kernel, rfl, by decide +kernel⟩,
    ⟨(z.updPwr fun x => { x with retry := [(0, 0, 0)] }), 0, false, 0, 0, _, by decide +kernel, rfl, by decide +kernel,
      by decide +kernel⟩,
    ⟨z, 0, 0, _, by decide +kernel, rfl⟩⟩

/-- For each clause of `ComputeRegisterWrites` that has hypotheses, a state and operands meet them together. -/
theorem test_ComputeRegisterWrites_witness :
    (∃ (s : State) (p : Path) (v : Nat) (u t : State), s.taking p (R.det_ctl.pa 0 0) ∧ v < 2 ^ 32 ∧ u = s.came p (R.det_ctl.pa 0 0)
      4 ∧ t = u.stored 0 R.det_ctl v) ∧
    (∃ (s : State) (p : Path) (v : Nat) (u t : State), s.taking p (R.det_ctl.pa 0 0) ∧ v < 2 ^ 32 ∧ u = s.came p (R.det_ctl.pa 0 0)
      4 ∧ t = u.stored 0 R.det_ctl (putBits v 2 1 0)) ∧
    (∃ (s : State) (p : Path) (u t : State), s.taking p (R.det_tw_mm.pa 0 0) ∧ u = s.came p (R.det_tw_mm.pa 0 0) 8 ∧ t = u.stored 0
      R.det_tw_mm (2 ^ 63)) ∧
    (∃ (s : State) (p : Path) (d : Fin 2) (j : Fin 64) (v : Nat) (u : State) (n' : Nat), s.taking p (R.mxe_bq_ctl.pa d j) ∧ v < 2 ^
      32 ∧ u = s.came p (R.mxe_bq_ctl.pa d j) 4 ∧ n' = u.after d R.mxe_bq_ctl v j) ∧
    (∃ (s : State) (p : Path) (d : Fin 2) (v : Nat) (es : List (Fin 256)) (u t : State), s.taking p (R.mxe_freeze_lim.pa d 0) ∧ v <
      2 ^ 32 ∧ u = s.came p (R.mxe_freeze_lim.pa d 0) 4 ∧ t = u.stored d R.mxe_freeze_lim v) ∧
    (∃ (s : State) (p : Path) (d : Fin 2) (v : Nat) (u t : State), s.taking p (R.dlr_db.pa d 0) ∧ v < 2 ^ 32 ∧ u = s.came p
      (R.dlr_db.pa d 0) 4 ∧ t = u.stored d R.dlr_db v) ∧
    (∃ (s : State) (p : Path) (d : Fin 2) (v : Nat) (u t : State), s.taking p (R.dlr_kill.pa d 0) ∧ v < 2 ^ 32 ∧ u = s.came p
      (R.dlr_kill.pa d 0) 4 ∧ t = u.stored d R.dlr_kill v) ∧
    (∃ (s : State) (p : Path) (d : Fin 2) (v : Nat) (u t : State), s.taking p (R.dlr_pbinv.pa d 0) ∧ v < 2 ^ 32 ∧ u = s.came p
      (R.dlr_pbinv.pa d 0) 4 ∧ t = u.stored d R.dlr_pbinv (v ||| 2 ^ 31)) :=
  ⟨
    ⟨rel, .host, 2 ^ 32 - 1, _, _, by unfold State.taking State.listening; decide +kernel, by decide +kernel, rfl, rfl⟩,
    ⟨rel, .host, 2 ^ 32 - 1, _, _, by unfold State.taking State.listening; decide +kernel, by decide +kernel, rfl, rfl⟩,
    ⟨rel, .host, _, _, by unfold State.taking State.listening; decide +kernel, rfl, rfl⟩,
    ⟨rel, .host, 1, 63, 2 ^ 32 - 1, _, _, by unfold State.taking State.listening; decide +kernel, by decide +kernel, rfl, rfl⟩,
    ⟨rel, .host, 1, 2 ^ 32 - 1, [], _, _, by unfold State.taking State.listening; decide +kernel, by decide +kernel, rfl, rfl⟩,
    ⟨rel, .host, 1, 2 ^ 32 - 1, _, _, by unfold State.taking State.listening; decide +kernel, by decide +kernel, rfl, rfl⟩,
    ⟨rel, .host, 1, 2 ^ 32 - 1, _, _, by unfold State.taking State.listening; decide +kernel, by decide +kernel, rfl, rfl⟩,
    ⟨rel, .host, 1, 2 ^ 32 - 1, _, _, by unfold State.taking State.listening; decide +kernel, by decide +kernel, rfl, rfl⟩⟩

/-- For each clause of `MemoryRegisterWrites` that has hypotheses, a state and operands meet them together. -/
theorem test_MemoryRegisterWrites_witness :
    (∃ (s : State) (p : Path) (d : Fin 2) (n : Fin 8) (u : State) (n' : Nat), s.taking p (R.sram_carve.pa d 0) ∧ u = s.came p
      (R.sram_carve.pa d 0) 4 ∧ u.accepts d R.sram_carve n ∧ n' = u.after d R.sram_carve n) ∧
    (∃ (s : State) (p : Path) (d : Fin 2) (u t : State), s.taking p (R.brg_ctl.pa d 0) ∧ u = s.came p (R.brg_ctl.pa d 0) 4 ∧ t =
      u.stored d R.brg_ctl 1) ∧
    (∃ (s : State) (p : Path) (n : Fin 8) (v : Nat) (u : State) (n' : Nat), s.taking p (R.brg_cwin.pa 0 n) ∧ v < 2 ^ 64 ∧ u = s.came
      p (R.brg_cwin.pa 0 n) 8 ∧ u.accepts 0 R.brg_cwin v n ∧ n' = u.after 0 R.brg_cwin v n) ∧
    (∃ (s : State) (p : Path) (d : Fin 2) (own : Fin 16) (u : State) (n' : Nat), s.taking p (R.hbm_own.pa d 0) ∧ u = s.came p
      (R.hbm_own.pa d 0) 4 ∧ n' = u.after d R.hbm_own own) ∧
    (∃ (s : State) (p : Path) (d : Fin 2) (u t : State), s.taking p (R.hcache_flush.pa d 0) ∧ u = s.came p (R.hcache_flush.pa d 0) 4
      ∧ t = u.stored d R.hcache_flush 1) ∧
    (∃ (s : State) (p : Path) (d : Fin 2) (v : Nat) (u t : State), s.taking p (R.tgen_ctl.pa d 0) ∧ v < 2 ^ 32 ∧ u = s.came p
      (R.tgen_ctl.pa d 0) 4 ∧ u.accepts d R.tgen_ctl (putBits v 30 2 2) ∧ t = u.stored d R.tgen_ctl (putBits v 30 2 2)) ∧
    (∃ (s : State) (p : Path) (d : Fin 2) (v : Nat) (u t : State), s.taking p (R.tgen_ctl.pa d 0) ∧ v < 2 ^ 32 ∧ u = s.came p
      (R.tgen_ctl.pa d 0) 4 ∧ u.accepts d R.tgen_ctl (putBits v 30 2 1) ∧ t = u.stored d R.tgen_ctl (putBits v 30 2 1)) ∧
    (∃ (s : State) (p : Path) (u t : State), s.taking p (R.rw_cmd.pa 0 0) ∧ u = s.came p (R.rw_cmd.pa 0 0) 4 ∧ (s.heard p 4).unowned
      = false ∧ t = u.stored 0 R.rw_cmd 1) ∧
    (∃ (s : State) (p : Path) (u t : State), s.taking p (R.rw_cmd.pa 0 0) ∧ u = s.came p (R.rw_cmd.pa 0 0) 4 ∧ (s.heard p 4).unowned
      = false ∧ t = u.stored 0 R.rw_cmd 2) ∧
    (∃ (s : State) (p : Path) (u t : State), s.taking p (R.rw_cmd.pa 0 0) ∧ u = s.came p (R.rw_cmd.pa 0 0) 4 ∧ (s.heard p 4).unowned
      = false ∧ t = u.stored 0 R.rw_cmd 3) ∧
    (∃ (s : State) (p : Path) (key : Fin 65536) (u t : State), s.taking p (R.rw_cmd.pa 0 0) ∧ u = s.came p (R.rw_cmd.pa 0 0) 4 ∧
      (s.heard p 4).unowned = false ∧ t = u.stored 0 R.rw_cmd (4 + key.val * 2 ^ 16)) ∧
    (∃ (s : State) (p : Path) (u t : State), s.taking p (R.rw_cmd.pa 0 0) ∧ u = s.came p (R.rw_cmd.pa 0 0) 4 ∧ (s.heard p 4).unowned
      = false ∧ t = u.stored 0 R.rw_cmd 5) ∧
    (∃ (s : State) (p : Path) (u t : State), s.taking p (R.rw_cmd.pa 0 0) ∧ u = s.came p (R.rw_cmd.pa 0 0) 4 ∧ (s.heard p 4).unowned
      = false ∧ t = u.stored 0 R.rw_cmd 6) :=
  ⟨
    ⟨rel, .host, 0, 0, _, _, by unfold State.taking State.listening; decide +kernel, rfl, by decide +kernel, rfl⟩,
    ⟨rel, .host, 1, _, _, by unfold State.taking State.listening; decide +kernel, rfl, rfl⟩,
    ⟨rel, .host, 0, 0, _, _, by unfold State.taking State.listening; decide +kernel, by decide +kernel, rfl, by decide +kernel, rfl⟩,
    ⟨rel, .host, 1, 15, _, _, by unfold State.taking State.listening; decide +kernel, rfl, rfl⟩,
    ⟨rel, .host, 1, _, _, by unfold State.taking State.listening; decide +kernel, rfl, rfl⟩,
    ⟨rel, .host, 0, 0, _, _, by unfold State.taking State.listening; decide +kernel, by decide +kernel, rfl, by decide +kernel, rfl⟩,
    ⟨rel, .host, 0, 0, _, _, by unfold State.taking State.listening; decide +kernel, by decide +kernel, rfl, by decide +kernel, rfl⟩,
    ⟨(rel.setFld 0 F.hbm_own_ready 15), .host, _, _, by unfold State.taking State.listening; decide +kernel, rfl, by decide +kernel,
      rfl⟩,
    ⟨(rel.setFld 0 F.hbm_own_ready 15), .host, _, _, by unfold State.taking State.listening; decide +kernel, rfl, by decide +kernel,
      rfl⟩,
    ⟨(rel.setFld 0 F.hbm_own_ready 15), .host, _, _, by unfold State.taking State.listening; decide +kernel, rfl, by decide +kernel,
      rfl⟩,
    ⟨(rel.setFld 0 F.hbm_own_ready 15), .host, 65535, _, _, by unfold State.taking State.listening; decide +kernel, rfl,
      by decide +kernel, rfl⟩,
    ⟨(rel.setFld 0 F.hbm_own_ready 15), .host, _, _, by unfold State.taking State.listening; decide +kernel, rfl, by decide +kernel,
      rfl⟩,
    ⟨(rel.setFld 0 F.hbm_own_ready 15), .host, _, _, by unfold State.taking State.listening; decide +kernel, rfl, by decide +kernel,
      rfl⟩⟩

/-- For each clause of `ContextAndFabricRegisterWrites` that has hypotheses, a state and operands meet them together. -/
theorem test_ContextAndFabricRegisterWrites_witness :
    (∃ (s : State) (p : Path) (c : Fin 4096) (u t : State), s.taking p (R.ctx_refresh.pa 0 0) ∧ u = s.came p (R.ctx_refresh.pa 0 0)
      4 ∧ t = u.stored 0 R.ctx_refresh c) ∧
    (∃ (s : State) (p : Path) (en : Bool) (u t : State), s.taking p (R.ctx_ctl.pa 0 0) ∧ u = s.came p (R.ctx_ctl.pa 0 0) 4 ∧ t =
      u.stored 0 R.ctx_ctl (2 + b2n en)) ∧
    (∃ (s : State) (p : Path) (v : Nat) (u : State) (n' : Nat), s.taking p (R.ctx_base.pa 0 0) ∧ v < 2 ^ 64 ∧ u = s.came p
      (R.ctx_base.pa 0 0) 8 ∧ u.accepts 0 R.ctx_base v ∧ n' = u.after 0 R.ctx_base v) ∧
    (∃ (s : State) (p : Path) (d : Fin 2) (v : Nat) (u t : State), s.taking p (R.mmu_inv.pa d 0) ∧ v < 2 ^ 64 ∧ u = s.came p
      (R.mmu_inv.pa d 0) 8 ∧ u.accepts d R.mmu_inv (putBits v 63 1 1) ∧ t = u.stored d R.mmu_inv (putBits v 63 1 1)) ∧
    (∃ (s : State) (p : Path) (d : Fin 2) (v : Nat) (u t : State), s.taking p (R.lnk_ctl.pa d 0) ∧ v < 2 ^ 32 ∧ u = s.came p
      (R.lnk_ctl.pa d 0) 4 ∧ t = u.stored d R.lnk_ctl v) ∧
    (∃ (s : State) (p : Path) (j : Fin 4) (v : Nat) (u t : State), s.taking p (R.meld_job_desc.pa 0 j) ∧ v < 2 ^ 64 ∧ u = s.came p
      (R.meld_job_desc.pa 0 j) 8 ∧ t = u.stored 0 R.meld_job_desc (putBits v 63 1 1) j) ∧
    (∃ (s : State) (p : Path) (j : Fin 4) (v : Nat) (u t : State), s.taking p (R.meld_job_desc.pa 0 j) ∧ v < 2 ^ 64 ∧ u = s.came p
      (R.meld_job_desc.pa 0 j) 8 ∧ t = u.stored 0 R.meld_job_desc (putBits v 63 1 0) j) ∧
    (∃ (s : State) (p : Path) (d : Fin 2) (n : Fin 8) (v : Nat) (u : State) (n' : Nat), s.taking p (R.codec_ww.pa d n) ∧ v < 2 ^ 64
      ∧ u = s.came p (R.codec_ww.pa d n) 8 ∧ u.accepts d R.codec_ww v n ∧ n' = u.after d R.codec_ww v n) ∧
    (∃ (s : State) (p : Path) (d : Fin 2) (n : Fin 8) (v : Nat) (u : State) (n' : Nat), s.taking p (R.codec_wm.pa d n) ∧ v < 2 ^ 64
      ∧ u = s.came p (R.codec_wm.pa d n) 8 ∧ u.accepts d R.codec_wm v n ∧ n' = u.after d R.codec_wm v n) ∧
    (∃ (s : State) (p : Path) (d : Fin 2) (u t : State), s.taking p (R.codec_ctl.pa d 0) ∧ u = s.came p (R.codec_ctl.pa d 0) 4 ∧ t =
      u.stored d R.codec_ctl 1) :=
  ⟨
    ⟨rel, .host, 4095, _, _, by unfold State.taking State.listening; decide +kernel, rfl, rfl⟩,
    ⟨rel, .host, true, _, _, by unfold State.taking State.listening; decide +kernel, rfl, rfl⟩,
    ⟨rel, .host, 0, _, _, by unfold State.taking State.listening; decide +kernel, by decide +kernel, rfl, by decide +kernel, rfl⟩,
    ⟨rel, .host, 0, 0, _, _, by unfold State.taking State.listening; decide +kernel, by decide +kernel, rfl, by decide +kernel, rfl⟩,
    ⟨rel, .host, 1, 2 ^ 32 - 1, _, _, by unfold State.taking State.listening; decide +kernel, by decide +kernel, rfl, rfl⟩,
    ⟨rel, .host, 3, 2 ^ 64 - 1, _, _, by unfold State.taking State.listening; decide +kernel, by decide +kernel, rfl, rfl⟩,
    ⟨rel, .host, 3, 2 ^ 64 - 1, _, _, by unfold State.taking State.listening; decide +kernel, by decide +kernel, rfl, rfl⟩,
    ⟨rel, .host, 0, 0, 0, _, _, by unfold State.taking State.listening; decide +kernel, by decide +kernel, rfl, by decide +kernel,
      rfl⟩,
    ⟨rel, .host, 0, 0, 0, _, _, by unfold State.taking State.listening; decide +kernel, by decide +kernel, rfl, by decide +kernel,
      rfl⟩,
    ⟨rel, .host, 1, _, _, by unfold State.taking State.listening; decide +kernel, rfl, rfl⟩⟩

/-- For each clause of `WanRegisterWrites` that has hypotheses, a state and operands meet them together. -/
theorem test_WanRegisterWrites_witness :
    (∃ (s : State) (p : Path) (d : Fin 2) (v : Nat) (u t : State), s.taking p (R.wan_ctl.pa d 0) ∧ v < 2 ^ 32 ∧ u = s.came p
      (R.wan_ctl.pa d 0) 4 ∧ t = u.stored d R.wan_ctl v) ∧
    (∃ (s : State) (p : Path) (d : Fin 2) (v : Nat) (u t : State), s.taking p (R.wan_ip6_lo.pa d 0) ∧ v < 2 ^ 64 ∧ u = s.came p
      (R.wan_ip6_lo.pa d 0) 8 ∧ t = u.stored d R.wan_ip6_lo v) ∧
    (∃ (s : State) (p : Path) (d : Fin 2) (v : Nat) (u t : State), s.taking p (R.cip_ld.pa d 0) ∧ v < 2 ^ 64 ∧ u = s.came p
      (R.cip_ld.pa d 0) 8 ∧ u.accepts d R.cip_ld (putBits v 63 1 1) ∧ t = u.stored d R.cip_ld (putBits v 63 1 1)) ∧
    (∃ (s : State) (p : Path) (d : Fin 2) (n : Fin 64) (g : Fin 256) (u t : State), s.taking p (R.cip_pair_ctl.pa d n) ∧ u = s.came
      p (R.cip_pair_ctl.pa d n) 4 ∧ t = u.stored d R.cip_pair_ctl (2 ^ 31 + g.val * 2 ^ 8) n) ∧
    (∃ (s : State) (p : Path) (d : Fin 2) (n : Fin 64) (g : Fin 256) (u t : State), s.taking p (R.cip_pair_ctl.pa d n) ∧ u = s.came
      p (R.cip_pair_ctl.pa d n) 4 ∧ t = u.stored d R.cip_pair_ctl (2 ^ 30 + g.val * 2 ^ 8) n) ∧
    (∃ (s : State) (p : Path) (d : Fin 2) (n : Fin 64) (g : Fin 256) (u t : State), s.taking p (R.cip_pair_ctl.pa d n) ∧ u = s.came
      p (R.cip_pair_ctl.pa d n) 4 ∧ t = u.stored d R.cip_pair_ctl (2 ^ 29 + g.val * 2 ^ 8) n) ∧
    (∃ (s : State) (p : Path) (d : Fin 2) (n : Fin 64) (v : Nat) (u t : State), s.taking p (R.cip_pair_sess.pa d n) ∧ v < 2 ^ 32 ∧ u
      = s.came p (R.cip_pair_sess.pa d n) 8 ∧ t = u.stored d R.cip_pair_sess v n) :=
  ⟨
    ⟨rel, .host, 1, 2 ^ 32 - 1, _, _, by unfold State.taking State.listening; decide +kernel, by decide +kernel, rfl, rfl⟩,
    ⟨rel, .host, 1, 2 ^ 64 - 1, _, _, by unfold State.taking State.listening; decide +kernel, by decide +kernel, rfl, rfl⟩,
    ⟨rel, .host, 0, 0, _, _, by unfold State.taking State.listening; decide +kernel, by decide +kernel, rfl, by decide +kernel, rfl⟩,
    ⟨rel, .host, 1, 63, 255, _, _, by unfold State.taking State.listening; decide +kernel, rfl, rfl⟩,
    ⟨rel, .host, 1, 63, 255, _, _, by unfold State.taking State.listening; decide +kernel, rfl, rfl⟩,
    ⟨rel, .host, 1, 63, 255, _, _, by unfold State.taking State.listening; decide +kernel, rfl, rfl⟩,
    ⟨rel, .host, 1, 63, 2 ^ 32 - 1, _, _, by unfold State.taking State.listening; decide +kernel, by decide +kernel, rfl, rfl⟩⟩

/-- For each clause of `SystemRegisterWrites` that has hypotheses, a state and operands meet them together. -/
theorem test_SystemRegisterWrites_witness :
    (∃ (s : State) (p : Path) (v : Nat) (u t : State), s.taking p (R.time_step.pa 0 0) ∧ v < 2 ^ 64 ∧ u = s.came p (R.time_step.pa 0
      0) 8 ∧ t = u.stored 0 R.time_step v) ∧
    (∃ (s : State) (p : Path) (v : Nat) (u t : State), s.taking p (R.time_ctl.pa 0 0) ∧ v < 2 ^ 32 ∧ u = s.came p (R.time_ctl.pa 0
      0) 4 ∧ u.accepts 0 R.time_ctl v ∧ t = u.stored 0 R.time_ctl v) ∧
    (∃ (s : State) (p : Path) (d : Fin 2) (v : Nat) (u t : State), s.taking p (R.ckp_cut.pa d 0) ∧ v < 2 ^ 64 ∧ u = s.came p
      (R.ckp_cut.pa d 0) 8 ∧ t = u.stored d R.ckp_cut (putBits v 63 1 1)) ∧
    (∃ (s : State) (p : Path) (d : Fin 2) (v : Nat) (u t : State), s.taking p (R.ckp_dray.pa d 0) ∧ v < 2 ^ 32 ∧ u = s.came p
      (R.ckp_dray.pa d 0) 4 ∧ t = u.stored d R.ckp_dray (putBits v 31 1 1)) ∧
    (∃ (s : State) (p : Path) (d : Fin 2) (v : Nat) (u t : State), s.taking p (R.ckp_rst.pa d 0) ∧ v < 2 ^ 32 ∧ u = s.came p
      (R.ckp_rst.pa d 0) 4 ∧ t = u.stored d R.ckp_rst (putBits v 31 1 1)) ∧
    (∃ (s : State) (p : Path) (u t : State), s.taking p (R.dbg_ctl.pa 0 0) ∧ u = s.came p (R.dbg_ctl.pa 0 0) 4 ∧ t = u.stored 0
      R.dbg_ctl 1) ∧
    (∃ (s : State) (p : Path) (v : Nat) (u t : State), s.taking p (R.dbg_tctl.pa 0 0) ∧ v < 2 ^ 32 ∧ u = s.came p (R.dbg_tctl.pa 0
      0) 4 ∧ u.accepts 0 R.dbg_tctl (putBits v 30 2 2) ∧ t = u.stored 0 R.dbg_tctl (putBits v 30 2 2)) ∧
    (∃ (s : State) (p : Path) (v : Nat) (u t : State), s.taking p (R.dbg_tctl.pa 0 0) ∧ v < 2 ^ 32 ∧ u = s.came p (R.dbg_tctl.pa 0
      0) 4 ∧ u.accepts 0 R.dbg_tctl (putBits v 30 2 1) ∧ t = u.stored 0 R.dbg_tctl (putBits v 30 2 1)) ∧
    (∃ (s : State) (p : Path) (r : Fin 16) (n : Fin 64) (u t : State), s.taking p (R.pwr_rclk.pa 0 r) ∧ u = s.came p (R.pwr_rclk.pa
      0 r) 4 ∧ u.accepts 0 R.pwr_rclk n r ∧ t = u.stored 0 R.pwr_rclk n r) ∧
    (∃ (s : State) (p : Path) (v : Nat) (u t : State), s.taking p (R.pwr_ctl.pa 0 0) ∧ v < 2 ^ 32 ∧ u = s.came p (R.pwr_ctl.pa 0 0)
      4 ∧ t = u.stored 0 R.pwr_ctl v) :=
  ⟨
    ⟨rel, .host, 2 ^ 64 - 1, _, _, by unfold State.taking State.listening; decide +kernel, by decide +kernel, rfl, rfl⟩,
    ⟨rel, .host, R.time_ctl.reset, _, _, by unfold State.taking State.listening; decide +kernel, by decide +kernel, rfl,
      by decide +kernel, rfl⟩,
    ⟨rel, .host, 1, 2 ^ 64 - 1, _, _, by unfold State.taking State.listening; decide +kernel, by decide +kernel, rfl, rfl⟩,
    ⟨rel, .host, 1, 2 ^ 32 - 1, _, _, by unfold State.taking State.listening; decide +kernel, by decide +kernel, rfl, rfl⟩,
    ⟨rel, .host, 1, 2 ^ 32 - 1, _, _, by unfold State.taking State.listening; decide +kernel, by decide +kernel, rfl, rfl⟩,
    ⟨rel, .host, _, _, by unfold State.taking State.listening; decide +kernel, rfl, rfl⟩,
    ⟨rel, .host, 0, _, _, by unfold State.taking State.listening; decide +kernel, by decide +kernel, rfl, by decide +kernel, rfl⟩,
    ⟨rel, .host, 0, _, _, by unfold State.taking State.listening; decide +kernel, by decide +kernel, rfl, by decide +kernel, rfl⟩,
    ⟨rel, .host, 15, 38, _, _, by unfold State.taking State.listening; decide +kernel, rfl, by decide +kernel, rfl⟩,
    ⟨rel, .host, 2 ^ 32 - 1, _, _, by unfold State.taking State.listening; decide +kernel, by decide +kernel, rfl, rfl⟩⟩

/-- A state meets the hypotheses of `EmptyQueueIsOneClock`: an empty queue, and the part held in reset. -/
theorem test_EmptyQueueIsOneClock_witness :
    (∃ s : State, s.pending = []) ∧ ∃ s : State, s.boot.hold ≠ none :=
  ⟨⟨z, rfl⟩, z.updBoot fun x => { x with hold := some 0 }, by decide +kernel⟩

/-- A command and two states meet the hypothesis of `ExecLeavesQueue`. -/
theorem test_ExecLeavesQueue_witness : ∃ (c : Instr) (s t : State), exec c s = .next t :=
  ⟨.brakeAssert, z, _, rfl⟩

/-- Two states meet the hypotheses of `StepKeepsSound`: the state after reset, and a part with a byte in memory. -/
theorem test_StepKeepsSound_witness : (∃ s t : State, s.sound ∧ step s = .next t) ∧
    ∃ s t : State, s.sound ∧ step s = .next t ∧ s.mem.cells ≠ [] :=
  ⟨⟨z, _, by unfold State.sound; decide +kernel, rfl⟩,
    ⟨z.poke (2 ^ 39) [1], _, by unfold State.sound; decide +kernel, rfl, by decide +kernel⟩⟩

/-- States and operands meet the hypotheses of each clause of `RegisterAccessesComplete`. -/
theorem test_RegisterAccessesComplete_witness :
    (∃ (s : State) (p : Path) (pa : Nat), s.shut p = false ∧ s.pathHeld p pa = false) ∧
    (∃ (s u : State) (p : Path) (pa w x : Nat), s.shut p = false ∧ s.pathHeld p pa = false ∧ s.pathRead p pa w = (x, u)) ∧
    (∃ (s u : State) (p : Path) (pa x : Nat), s.shut p = false ∧ s.pathHeld p pa = false ∧ s.pathRead p pa 32 = (x, u)) ∧
    (∃ (s u : State) (off len x : Nat), s.boot.hold = none ∧ off < 0x4000000 ∧ s.pathHeld .host (csrBase + off) = false ∧
      s.pathRead .host (csrBase + off) (8 * len) = (x, u)) ∧
    (∃ (s u : State) (off len x : Nat), s.boot.hold = none ∧ 0x4000000 ≤ off ∧ off < 0x5000000 ∧
      s.pathHeld .host (rwBase + (off - 0x4000000)) = false ∧ s.pathRead .host (rwBase + (off - 0x4000000)) (8 * len) = (x, u)) ∧
    (∃ (s : State), s.shut .host = false ∧ s.behind .host = true) ∧
    (∃ (s : State) (c : Instr) (p : Path), s.shut p = true ∧ ((∃ pa w v, c = .csrWrite p pa w v) ∨
      (∃ pa w, c = .rcRead p pa w) ∨ (∃ pa, c = .counterLowRead p pa) ∨ ∃ pa, c = .firstRecordClear p pa)) :=
  ⟨⟨z, .host, R.pcie_tally_ovf.pa 0 0, by decide +kernel, by decide +kernel⟩,
    ⟨z, _, .dbg, csrBase, 32, _, by decide +kernel, by decide +kernel, rfl⟩,
    ⟨z, _, .mgmt, csrBase, _, by decide +kernel, by decide +kernel, rfl⟩,
    ⟨z, _, 0x3FFFFFC, 4, _, by decide +kernel, by decide, by decide +kernel, rfl⟩,
    ⟨z, _, 0x4FFFFFC, 4, _, by decide +kernel, by decide, by decide, by decide +kernel, rfl⟩,
    ⟨z.hostQueue (.dev 0 32 (some 0)), by decide +kernel, by decide +kernel⟩,
    ⟨z.updBoot fun x => { x with hold := some 0 }, .counterLowRead .host 0, .host, by decide +kernel, .inr (.inr (.inl ⟨0, rfl⟩))⟩⟩

/-- States and operands meet the hypotheses of each clause of `MisshapedAccess`: an access of 16 bits. -/
theorem test_MisshapedAccess_witness :
    (∃ pa w : Nat, (w ≠ 32 ∧ w ≠ 64) ∨ pa % (w / 8) ≠ 0 ∨ csrAt pa = none) ∧
    ∃ (s : State) (p : Path) (pa w : Nat), s.listening p ∧ s.pathHeld p pa = false ∧ csrTouch pa w = none :=
  ⟨⟨csrBase, 16, by decide⟩,
    ⟨rel, .host, csrBase, 16, by unfold State.listening; decide +kernel, by decide +kernel, by decide +kernel⟩⟩

/-- A write of the hint 3 to a hint window meets the hypotheses of `ReservedEncodingDiscardsWrite`. -/
theorem test_ReservedEncodingDiscardsWrite_witness :
    ∃ (s u : State) (p : Path) (pa w v : Nat) (a : CsrAt) (lo n : Nat), s.shut p = false ∧
      (s.released = true ∨ (pa - csrBase) / 0x100000 = 1) ∧ s.pathOpen p pa = true ∧ ovfWord pa = false ∧ u = s.came p pa (w / 8) ∧
      (isRepair pa = false ∨ (s.heard p (w / 8)).unowned = false) ∧ csrTouch pa w = some [(a, lo, n)] ∧ ¬ (a.spec.reg.kind = .mirror ∧ a.d = 1) ∧
      a.spec.reserved (u.reg a.d a.spec.reg a.i) (v % 2 ^ w % 2 ^ n * 2 ^ lo) ((2 ^ n - 1) * 2 ^ lo) = true :=
  ⟨rel, _, .host, R.hcache_hw.pa 0 0, 64, 3 * 2 ^ 61, ⟨regSpec R.hcache_hw, 0, 0, 0⟩, 0, 64, by decide +kernel,
    .inl (by decide +kernel), by decide +kernel, by decide +kernel, rfl, .inl (by decide +kernel), by decide +kernel, by decide +kernel, by decide +kernel⟩

/-- A unit that only die 0 has, at the last offset of its slot, meets the hypotheses of `PackageUnitsInDieOneHalf`. -/
theorem test_PackageUnitsInDieOneHalf_witness :
    ∃ (s : State) (p : Path) (u o : Nat), isPackageUnit u = true ∧ o < 0x100000 ∧ s.listening p ∧ s.behind p = false :=
  ⟨rel, .host, 1, 0xFFFFF, by decide, by decide, by unfold State.listening; decide +kernel, by decide +kernel⟩

/-- States and operands meet the hypotheses of each clause of `AccessesBeforeRelease`. -/
theorem test_AccessesBeforeRelease_witness :
    (∃ (s u : State) (p : Path) (pa w x : Nat) (l : List (CsrAt × Nat × Nat)), s.shut p = false ∧ s.released = false ∧ s.behind p = false ∧
      servedEarly pa = true ∧ csrTouch pa w = some l ∧ (s.csrFar pa = false ∨ s.bridgeDown = false) ∧
      (s.readCross pa).latchRead p pa w l = (x, u)) ∧
    (∃ (s : State) (p : Path) (pa : Nat), s.shut p = false ∧ s.released = false ∧ s.behind p = false ∧ servedEarly pa = false) ∧
    ∃ (s : State) (p : Path) (pa : Nat), s.shut p = false ∧ s.released = false ∧ s.behind p = false ∧ (pa - csrBase) / 0x100000 ≠ 1 :=
  ⟨⟨z, _, .host, R.top_id.pa 0 0, 32, _, [(⟨regSpec R.top_id, 0, 0, 0⟩, 0, 32)], by decide +kernel, by decide +kernel, by decide +kernel,
      by decide +kernel, by decide +kernel, .inl (by decide +kernel), rfl⟩,
    ⟨z, .host, R.dlr_db.pa 0 0, by decide +kernel, by decide +kernel, by decide +kernel, by decide +kernel⟩,
    ⟨z, .host, csrBase + 0x200000, by decide +kernel, by decide +kernel, by decide +kernel, by decide⟩⟩

/-- States and operands meet the hypotheses of each clause of `CounterLatch`, at the word tally of a region. -/
theorem test_CounterLatch_witness :
    (∃ (s : State) (p : Path) (pa : Nat) (a : CsrAt), s.taking p pa ∧ isRepair pa = false ∧ csrTouch pa 32 = some [(a, 0, 32)] ∧
      a.spec.counter = true) ∧
    (∃ (s : State) (p : Path) (pa v : Nat) (a : CsrAt), s.taking p (pa + 4) ∧ isRepair (pa + 4) = false ∧
      csrTouch (pa + 4) 32 = some [(a, 32, 32)] ∧ a.spec.counter = true ∧ s.latch.get p = some (pa, v)) ∧
    (∃ (s t : State) (p : Path) (pa : Nat), exec (.rcRead p pa 64) s = .next t) ∧ ∃ p q : Path, q ≠ p :=
  ⟨⟨rel, .host, R.dlr_t_word.pa 0 7, ⟨regSpec R.dlr_t_word, 0, 7, 0⟩, by unfold State.taking State.listening; decide +kernel,
      by decide +kernel, by decide +kernel, by decide +kernel⟩,
    ⟨{ rel with latch := rel.latch.set .host (some (R.dlr_t_word.pa 0 7, 5)) }, .host, R.dlr_t_word.pa 0 7, 5,
      ⟨regSpec R.dlr_t_word, 0, 7, 4⟩, by unfold State.taking State.listening; decide +kernel, by decide +kernel, by decide +kernel,
      by decide +kernel, by decide +kernel⟩,
    ⟨z, _, .host, csrBase, rfl⟩, ⟨.host, .dbg, by decide⟩⟩

/-- Word tallies at, and one above, their last value meet the hypotheses of the clauses of `TalliesSaturate`, the second with its
overflow flag set and clear. -/
theorem test_TalliesSaturate_witness :
    (∃ s : State, s.reg 0 R.dlr_t_word 0 + (2 ^ 64 - 1) ≤ 2 ^ 64 - 1) ∧
    (∃ (s : State) (f : Fld) (code : Nat), 2 ^ 64 - 1 < s.reg 0 R.dlr_t_word 0 + 1 ∧ tallyUnit R.dlr_t_word.unit = some (f, code) ∧
      bit ((s.setReg 0 R.dlr_t_word (2 ^ 64 - 1) 0).fld 0 f) (tallyBit R.dlr_t_word 0) = true) ∧
    ∃ (s : State) (f : Fld) (code : Nat), 2 ^ 64 - 1 < s.reg 0 R.dlr_t_word 0 + 1 ∧ tallyUnit R.dlr_t_word.unit = some (f, code) ∧
      bit ((s.setReg 0 R.dlr_t_word (2 ^ 64 - 1) 0).fld 0 f) (tallyBit R.dlr_t_word 0) = false :=
  ⟨⟨z, by decide +kernel⟩,
    ⟨(z.setReg 0 R.dlr_t_word (2 ^ 64 - 1) 0).setFld 0 F.dlr_tally_ovf_ovf 1, F.dlr_tally_ovf_ovf, 0x4010, by decide +kernel,
      by decide +kernel, by decide +kernel⟩,
    ⟨z.setReg 0 R.dlr_t_word (2 ^ 64 - 1) 0, F.dlr_tally_ovf_ovf, 0x4010, by decide +kernel, by decide +kernel, by decide +kernel⟩⟩

/-- One byte at the first address of stacked SRAM, its last byte, and a carved byte meet the hypotheses of the clauses of
`SramWriteStores`. -/
theorem test_SramWriteStores_witness :
    (∃ (s u : State) (d : Fin 2) (pa : Nat) (data : List Byte) (be : List Nat), data ≠ [] ∧ isSram pa = true ∧ isSram (pa + data.length - 1) = true ∧
      (∀ a, pa ≤ a → a < pa + data.length → s.isCarved a = false) ∧ s.bridgeDown = false ∧ u = s.bankWait pa be ∧
      u.memBlocked ⟨d, false, pa, data.length, some data, false, []⟩ = false) ∧
    (∃ (pa : Nat) (data : List Byte), data ≠ [] ∧ ∀ a, pa ≤ a → a < pa + data.length → isReserved a = true) ∧
    ∃ (s : State) (pa : Nat) (data : List Byte), data ≠ [] ∧ ∀ a, pa ≤ a → a < pa + data.length → s.isCarved a = true := by
  refine ⟨⟨(z.setFld 0 F.sram_carve_size 0).setFld 1 F.sram_carve_size 0, _, 1, 0x807FFFFFFF, [1], [0x8000000000], by decide, by decide,
    by decide, fun a h k => ?_, by decide +kernel, rfl, by decide +kernel⟩, ⟨2 ^ 39, [1], by decide, fun a h k => ?_⟩,
    ⟨z.updMem 1 fun m => { m with carve := 1 }, 0x807FFFFFFF, [1], by decide, fun a h k => ?_⟩⟩ <;>
    obtain rfl := Nat.le_antisymm (Nat.le_of_lt_succ k) h <;> decide +kernel

/-- An ADD of registers in a slot meets the hypotheses of `WordFrame`. -/
theorem test_WordFrame_witness :
    ∃ (s t : State) (r : Fin 16) (k : Fin 4) (c : Instr) (o : Op) (w : Nat), s.fetched r k o w ∧ sregClean w = true ∧
      s.dbg.armed = false ∧ (c, o) ∈ [(Instr.add r k, Op.add), (.sub r k, .sub), (.mul r k, .mul), (.and r k, .and), (.or r k, .or),
        (.shl r k, .shl), (.shr r k, .shr), (.min r k, .min), (.max r k, .max)] ∧ exec c s = .next t :=
  ⟨prog (7 * 2 ^ 124 + 2 ^ 120), _, 0, 0, .add 0 0, .add, 7 * 2 ^ 124 + 2 ^ 120, by unfold State.fetched; decide +kernel, by decide +kernel,
    by decide +kernel, by decide, rfl⟩

/-- A link in each state, and the field below its state, meet the hypotheses of the clauses of `LinkTrainingFrame`. -/
theorem test_LinkTrainingFrame_witness :
    (∃ (s t : State) (d : Fin 2) (i : Fin 18), s.linkState d i = 2 ∧ exec (.linkEqDone d i) s = .next t) ∧
    (∃ (s t : State) (d : Fin 2) (i : Fin 18), s.linkState d i = 3 ∧ exec (.linkAlignDone d i) s = .next t) ∧
    (∃ (s t : State) (d : Fin 2) (i : Fin 18), s.linkState d i = 6 ∧ exec (.linkAlignDone d i) s = .next t) ∧
    (∃ (s t : State) (d : Fin 2) (i : Fin 18), s.linkState d i = 2 ∧ s.linkIdle d i ∧ exec (.linkEqTimeout d i) s = .next t) ∧
    (∃ (s t : State) (d : Fin 2) (i : Fin 18), s.linkState d i = 3 ∧ s.linkIdle d i ∧ exec (.linkAlignTimeout d i) s = .next t) ∧
    ∃ f : Fld, f.reg = R.lnk_stat ∧ f ≠ F.lnk_stat_state ∧ f ≠ F.lnk_stat_lanes ∧
      (f.lo + f.n ≤ F.lnk_stat_lanes.lo ∨ F.lnk_stat_lanes.lo + F.lnk_stat_lanes.n ≤ f.lo) ∧
      (f.lo + f.n ≤ F.lnk_stat_state.lo ∨ F.lnk_stat_state.lo + F.lnk_stat_state.n ≤ f.lo) ∧ f.lo + f.n ≤ 32 :=
  ⟨⟨linkIn 2, _, 0, 0, by decide +kernel, rfl⟩, ⟨linkIn 3, _, 0, 0, by decide +kernel, rfl⟩, ⟨linkIn 6, _, 0, 0, by decide +kernel, rfl⟩,
    ⟨linkIn 2, _, 0, 0, by decide +kernel, by unfold State.linkIdle; decide +kernel, rfl⟩,
    ⟨linkIn 3, _, 0, 0, by decide +kernel, by unfold State.linkIdle; decide +kernel, rfl⟩,
    F.lnk_stat_q, by decide, by decide, by decide, by decide, by decide, by decide⟩

/-- Temperatures and coolant readings meet the hypotheses of the clauses of `PeriodicReadingsComplete`. -/
theorem test_PeriodicReadingsComplete_witness :
    (∃ s : State, s.boot.hold = none) ∧ (∃ (l : List Int) (r : Nat) (x : Int), r < 16 ∧ l[r]? = some x) ∧
    (∃ (s : State) (x : Int), s.flag 0 F.pwr_ctl_cool = true ∧ (x < 120 ∨ 320 < x)) ∧
    ∃ (s t : State) (d : Fin 2) (recs : List (Nat × Nat)), exec (.engineTimeReportSend d) s = .next t ∧
      t.asy.reports = s.asy.reports ++ [(d.val, if d.val = 0 then s.asy.reportSeq0 else s.asy.reportSeq1, recs)] ∧ recs = [] :=
  ⟨⟨z, rfl⟩, ⟨List.replicate 16 300, 15, 300, by decide, by decide⟩, ⟨z.setFld 0 F.pwr_ctl_cool 1, 321, by decide +kernel, by decide⟩,
    ⟨z, _, 1, [], rfl, rfl, rfl⟩⟩

/-- A state, a path and two keys meet the hypotheses of the clauses of `BootWritesComplete`. -/
theorem test_BootWritesComplete_witness : ∃ (s : State) (p : Path) (key : Fin 65536), s.shut p = false ∧ key ≠ 0x524C :=
  ⟨z, .mgmt, 0, by decide +kernel, by decide⟩

/-- Elements 7 and 8 meet the two hypotheses of `RandomBitsOfElements`. -/
theorem test_RandomBitsOfElements_witness : (∃ n : Nat, n % 8 % 2 = 0) ∧ ∃ n : Nat, n % 8 % 2 = 1 := ⟨⟨8, rfl⟩, ⟨7, rfl⟩⟩

/-- The last row of a hand, and an MMA that takes the hand's masks, meet the hypotheses of `HandMasks`. -/
theorem test_HandMasks_witness :
    (∃ (a : Nat) (x : Slot) (h : OpenHand) (y : Desc), a < 32 ∧ assocGet (bits h.w 92 4) x.desc = some y) ∧
    ∃ w : Nat, bit w 109 = true ∧ isThin w = false :=
  ⟨⟨31, { run0 with desc := [(0, desc0)] }, ⟨2 ^ 124, 0, []⟩, desc0, by decide, by decide⟩, ⟨2 * 2 ^ 124 + 2 ^ 109, by decide, by decide⟩⟩

/-- A kill of slot 0 of region 0, running and idle, meets the hypotheses of the clauses of `KillEndsItem`. -/
theorem test_KillEndsItem_witness :
    (∃ (s u : State) (p : Path) (d : Fin 2) (v : Nat), s.taking p (R.dlr_kill.pa d 0) ∧ v < 2 ^ 32 ∧
      u = (s.came p (R.dlr_kill.pa d 0) 4).stored d R.dlr_kill v ∧
      (u.slot (8 * d + bits v 2 3) (v % 4)).st = .running) ∧
    ∃ (s u : State) (p : Path) (d : Fin 2) (v : Nat), s.taking p (R.dlr_kill.pa d 0) ∧ v < 2 ^ 32 ∧
      u = (s.came p (R.dlr_kill.pa d 0) 4).stored d R.dlr_kill v ∧
      (u.slot (8 * d + bits v 2 3) (v % 4)).st = .idle :=
  ⟨⟨(slotIn run0).setFld 0 F.boot_stat_loaded 1, _, .host, 0, 0, by unfold State.taking State.listening; decide +kernel, by decide, rfl, by decide +kernel⟩,
    ⟨rel, _, .host, 1, 2 ^ 32 - 1, by unfold State.taking State.listening; decide +kernel, by decide, rfl, by decide +kernel⟩⟩

/-- The part with hint window 0 of die 0 over the first 2 MiB, and a hint. -/
def hintIn (n : Nat) : State := (z.setFld 0 F.hcache_hw_hint n 0).setFld 0 F.hcache_hw_en 1 0

/-- No window, and a window with each hint at the last address inside it, meet the hypotheses of the clauses of `HintOfWindow`. -/
theorem test_HintOfWindow_witness :
    (∃ s : State, ∀ n < 16, ¬ (s.flag 0 F.hcache_hw_en n = true ∧ s.fld 0 F.hcache_hw_base n * 0x200000 ≤ 0 ∧
      0 < (s.fld 0 F.hcache_hw_base n + s.fld 0 F.hcache_hw_size n + 1) * 0x200000)) ∧
    ∀ h < 3, (hintIn h).flag 0 F.hcache_hw_en 0 = true ∧ (hintIn h).fld 0 F.hcache_hw_base 0 * 0x200000 ≤ 0x1FFFFF ∧
      0x1FFFFF < ((hintIn h).fld 0 F.hcache_hw_base 0 + (hintIn h).fld 0 F.hcache_hw_size 0 + 1) * 0x200000 ∧
      (hintIn h).fld 0 F.hcache_hw_hint 0 = h :=
  ⟨⟨z, by decide +kernel⟩, by decide +kernel⟩

/-- A collective whose step 0 is sent and not acknowledged. -/
def sending : Coll := { coll0 with recvs := [], sends := [⟨0, 5, 0, [], true, 0, [], 0, 0, 0, true, false, 1⟩] }

/-- Collectives that wait for a segment and for an acknowledgement, with and without a timeout latched, meet the hypotheses of the clauses
of `StepTimeout`. -/
theorem test_StepTimeout_witness :
    (∃ (s : State) (c : Coll), s.coll 0 0 = some c ∧ (∀ x ∈ c.recvs, x.step = 0 → x.done = false → x.tmo = 0) ∧
      (∀ x ∈ c.sends, x.step = 0 → x.begun = true → x.acked = false → x.tmo = 0)) ∧
    (∃ (s : State) (c : Coll), s.coll 0 0 = some c ∧ (c.recvs.find? fun x => x.step = 0 && !x.done && x.tmo ≠ 0).isSome = true) ∧
    ∃ (s : State) (c : Coll), s.coll 0 0 = some c ∧ (∀ x ∈ c.recvs, x.step = 0 → x.done = false → x.tmo = 0) ∧
      (c.sends.find? fun x => x.step = 0 && x.begun && !x.acked && x.tmo ≠ 0).isSome = true :=
  ⟨⟨z.updFab 0 fun x => { x with colls := [{ coll0 with recvs := [⟨0, 5, 1, .fp32, [], 0, false, false, 0⟩] }] },
      { coll0 with recvs := [⟨0, 5, 1, .fp32, [], 0, false, false, 0⟩] }, by decide +kernel, by decide +kernel, by decide +kernel⟩,
    ⟨z.updFab 0 fun x => { x with colls := [coll0] }, coll0, by decide +kernel, by decide +kernel⟩,
    ⟨z.updFab 0 fun x => { x with colls := [sending] }, sending, by decide +kernel, by decide +kernel, by decide +kernel⟩⟩

/-- A share of three blocks and its last block meet the hypotheses of `BlocksOfHalves`. -/
theorem test_BlocksOfHalves_witness :
    ∃ (x : MeldSlot) (n first count b : Nat), x.share n = (first, count) ∧ first ≤ b ∧ b < first + count :=
  ⟨{ MeldSlot.off with smap := [(4, 3, 0)] }, 0, 4, 3, 6, rfl, by decide, by decide⟩

/-- An E4M3 word of the largest finite magnitude meets the hypotheses of `ExactValuesNeverChange`. -/
theorem test_ExactValuesNeverChange_witness :
    ∃ (f : Fmt) (w : Nat), f.isInt = false ∧ w < 2 ^ f.ebits ∧ (f.decode w).isFin = true :=
  ⟨.e4m3, 0xFE, by decide, by decide, by decide +kernel⟩

/-- A register with fields of three access types, and a bit outside its fields, meet the hypotheses of `AccessTypes`. -/
theorem test_AccessTypes_witness :
    ∃ q : RegSpec, (q.flds.Pairwise fun f g => f.fld.lo + f.fld.n ≤ g.fld.lo ∨ g.fld.lo + g.fld.n ≤ f.fld.lo) ∧
      (∃ f ∈ q.flds, f.fld.lo ≤ 0 ∧ 0 < f.fld.lo + f.fld.n) ∧ ∀ f ∈ q.flds, ¬ (f.fld.lo ≤ 63 ∧ 63 < f.fld.lo + f.fld.n) :=
  ⟨regSpec R.sram_carve, by decide +kernel, by decide +kernel, by decide +kernel⟩

/-- Events of a die's unit and of a package unit with the log open, and with the log shut, meet the hypotheses of `LogIntake`. -/
theorem test_LogIntake_witness :
    (∃ (s : State) (d u : Nat), d < 2 ∧ isPackageUnit u = false ∧ s.logOpen d) ∧
    (∃ (s : State) (u : Nat), isPackageUnit u = true ∧ s.logOpen 0) ∧
    ∃ (s : State) (d u : Nat), d < 2 ∧ isPackageUnit u = false ∧ s.flag d F.err_ctl_en = false ∧ s.flag 0 F.dbg_tctl_busy = false :=
  ⟨⟨z.setFld 1 F.err_ctl_en 1, 1, 4, by decide, by decide, by unfold State.logOpen; decide +kernel⟩,
    ⟨z.setFld 0 F.err_ctl_en 1, 0x1C, by decide, by unfold State.logOpen; decide +kernel⟩,
    ⟨z.setFld 1 F.err_ctl_en 0, 1, 4, by decide, by decide, by decide +kernel, by decide +kernel⟩⟩

end Sys2Proof.Tests
end

section
/-! SUPPORT. Accesses that reach no register (R8), and the offsets of package units in the die 1 half, where no register is (R14). -/

namespace Sys2Proof.Machine

/-! ## A write over a path, said once -/

/-- A path that is served is not shut. -/
theorem listening_shut {s : State} {p : Path} (h : s.listening p) : s.shut p = false := by
  obtain ⟨hold, -, loader⟩ := h
  simp [State.shut, hold, loader]

theorem heard_listening (s : State) (p q : Path) (n : Nat) : (s.heard p n).listening q ↔ s.listening q := by
  simp [State.listening, heard_released]

theorem heard_pathHeld (s : State) (p q : Path) (n pa : Nat) : (s.heard p n).pathHeld q pa = s.pathHeld q pa := by
  simp [State.pathHeld, heard_behind, heard_released, heard_csrFar, heard_bridge]

/-- A write that does not wait is made, its bytes counted before it or, at the word whose bit the count may set, after it (R11). -/
theorem writeIn_of_not_held (s : State) (p : Path) (pa w v : Nat) (hs : s.shut p = false) (hh : s.pathHeld p pa = false) :
    s.writeIn p pa w v = s.pathWritten p pa (w / 8) fun t => t.pathWrite p pa w (v % 2 ^ w) := by
  have hh' := (heard_pathHeld s p p (w / 8) pa).trans hh
  unfold State.heard at hh'
  simp [State.writeIn, State.pathWritten, State.writeServe, State.heard, hs, hh, hh']

/-- A read that does not wait is served. -/
theorem readOut_of_not_held (s : State) (p : Path) (pa w : Nat) (hs : s.shut p = false) (hh : s.pathHeld p pa = false) :
    s.readOut p pa w = s.readServe p pa w := by
  simp [State.readOut, hs, hh]

/-! ## Accesses that reach no register (R8) -/

/-- No access touches anything at an address that no register occupies. -/
theorem csrTouch_of_csrAt_none {pa : Nat} (h : csrAt pa = none) (w : Nat) : csrTouch pa w = none := by
  simp [csrTouch, h]

/-- A write that touches no register raises event 0x9001 and does nothing else. -/
theorem pathWrite_untouched {s : State} {p : Path} {pa w : Nat} (v : Nat) (h : s.listening p) (ht : csrTouch pa w = none) :
    s.pathWrite p pa w v = s.raise 0 p.unit 0x9001 pa := by
  obtain ⟨-, released, -⟩ := id h
  simp [State.pathWrite, listening_shut h, released, ht, State.misaccess]

/-- A read that touches no register delivers zero and raises event 0x9001. -/
theorem pathRead_untouched {s : State} {p : Path} {pa w : Nat} (h : s.listening p) (ht : csrTouch pa w = none) :
    s.pathRead p pa w = (0, s.raise 0 p.unit 0x9001 pa) := by
  obtain ⟨-, released, -⟩ := id h
  simp [State.pathRead, listening_shut h, released, ht, State.misaccess]

/-- A CSR_WRITE that touches no register and does not wait, away from the word of `pcie.tally_ovf`: its bytes are counted, then event
0x9001 is raised. -/
theorem exec_csrWrite_untouched {s : State} {p : Path} {pa w : Nat} (v : Nat) (h : s.listening p) (hh : s.pathHeld p pa = false)
    (ho : ovfWord pa = false) (ht : csrTouch pa w = none) :
    exec (.csrWrite p pa w v) s = .next ((s.heard p (w / 8)).raise 0 p.unit 0x9001 pa) := by
  change Host.Outcome.next (s.writeIn p pa w v) = _
  have hl := (heard_listening s p p (w / 8)).2 h
  simp [writeIn_of_not_held s p pa w v (listening_shut h) hh, State.pathWritten, ho, pathWrite_untouched _ hl ht]

/-- An RC_READ that touches no register and does not wait raises event 0x9001 and delivers zero; the host port counts it. -/
theorem exec_rcRead_untouched {s : State} {p : Path} {pa w : Nat} (h : s.listening p) (hh : s.pathHeld p pa = false)
    (ht : csrTouch pa w = none) :
    exec (.rcRead p pa w) s = .next (((s.raise 0 p.unit 0x9001 pa).emit (.readData p pa w 0)).tally 0 R.pcie_t_inrd 0
      (if p = .host then w / 8 else 0)) := by
  change Host.Outcome.next (s.readOut p pa w) = _
  rw [readOut_of_not_held s p pa w (listening_shut h) hh, State.readServe, pathRead_untouched h ht]

/-! ## The die 1 half at the slot of a package unit (R14) -/

/-- The address of offset `o` of the unit with slot code `u` in the die 1 half. -/
def dieOnePa (u o : Nat) : Nat := csrBase + 0x2000000 + u * 0x100000 + o

theorem isPackageUnit_lt {u : Nat} (h : isPackageUnit u = true) : u < 0x20 := by
  simp only [isPackageUnit, decide_eq_true_eq] at h
  omega

/-- The slot of every package unit lists package registers alone. -/
theorem unitRegs_kind_of_package {u : Nat} (h : isPackageUnit u = true) : ∀ q ∈ unitRegs u, q.reg.kind = .pkg := by
  have slots : ∀ u < 0x20, isPackageUnit u = true → ∀ q ∈ unitRegs u, q.reg.kind = .pkg := by decide +kernel
  exact slots u (isPackageUnit_lt h) h

/-- What an offset of a unit names is in the unit's list. -/
theorem mem_unitRegs_of_unitAt {u off : Nat} {h : RegSpec × Nat × Nat} (e : unitAt u off = some h) : h.1 ∈ unitRegs u := by
  obtain ⟨q, hq, hit⟩ := List.exists_of_findSome?_eq_some e
  obtain ⟨-, -, rfl⟩ := Option.map_eq_some_iff.1 hit
  exact hq

section
variable {u o : Nat} (hu : u < 0x20) (ho : o < 0x100000)
include hu ho

theorem dieOnePa_isCsr : isCsr (dieOnePa u o) = true :=
  decide_eq_true (by simp only [dieOnePa, csrBase]; omega)

theorem dieOnePa_not_isRepair : isRepair (dieOnePa u o) = false :=
  decide_eq_false (by simp only [dieOnePa, csrBase, rwBase]; omega)

theorem dieOnePa_die : (dieOnePa u o - csrBase) / 0x2000000 = 1 := by
  simp only [dieOnePa, csrBase]
  omega

theorem dieOnePa_unit : (dieOnePa u o - csrBase) / 0x100000 % 32 = u := by
  simp only [dieOnePa, csrBase]
  omega

end

/-- The word of `pcie.tally_ovf` lies in the die 0 half. -/
theorem ovfWord_dieOnePa (u o : Nat) : ovfWord (dieOnePa u o) = false := by
  have word : R.pcie_tally_ovf.pa 0 0 = 0xF001A00038 := by decide
  simp only [ovfWord, word, dieOnePa, csrBase, decide_eq_false_iff_not]
  omega

section
variable {u o : Nat} (hu : isPackageUnit u = true) (ho : o < 0x100000)
include hu ho

/-- A register that the unit's list has at the offset is a package register, and those exist in the die 0 half alone. -/
theorem csrAt_dieOnePa : csrAt (dieOnePa u o) = none := by
  have lt := isPackageUnit_lt hu
  simp only [csrAt, dieOnePa_isCsr lt ho, dieOnePa_not_isRepair lt ho, dieOnePa_die lt ho, dieOnePa_unit lt ho]
  cases e : unitAt u ((dieOnePa u o - csrBase) % 0x100000) with
  | none => simp
  | some h => simp [unitRegs_kind_of_package hu h.1 (mem_unitRegs_of_unitAt e)]

/-- An access to a package unit's slot does not cross the bridge, whichever half it names. -/
theorem csrFar_dieOnePa (s : State) : s.csrFar (dieOnePa u o) = false := by
  have lt := isPackageUnit_lt hu
  simp [State.csrFar, dieOnePa_unit lt ho, dieOnePa_not_isRepair lt ho, hu]

/-- So it waits for nothing but a posted write of the host. -/
theorem pathHeld_dieOnePa (s : State) (p : Path) : s.pathHeld p (dieOnePa u o) = s.behind p := by
  simp [State.pathHeld, csrFar_dieOnePa hu ho]

end

/-- Settles O41: no register is at such an address, so by R8 an access that does not wait is one that touches none; and no bridge keeps it
waiting. -/
theorem packageUnitsInDieOneHalf : Obligations.PackageUnitsInDieOneHalf := by
  refine ⟨fun u o hu ho => csrAt_dieOnePa hu ho, fun s p u o w v hu ho hl hb => ?_, fun s p u o w hu ho hl hb => ?_⟩
  · exact exec_csrWrite_untouched v hl ((pathHeld_dieOnePa hu ho s p).trans hb) (ovfWord_dieOnePa u o)
      (csrTouch_of_csrAt_none (csrAt_dieOnePa hu ho) w)
  · exact exec_rcRead_untouched hl ((pathHeld_dieOnePa hu ho s p).trans hb) (csrTouch_of_csrAt_none (csrAt_dieOnePa hu ho) w)

end Sys2Proof.Machine
end

section
/-! SUPPORT. The counter block and the random bits of an element (R37, R39): the block is its four fields one above the other. -/

namespace Sys2Proof.Machine

/-! ## Fields of numbers put together -/

/-- The field below a shifted number is what was added to it. -/
theorem bits_shiftLeft_add_below {k r : Nat} (a : Nat) (hr : r < 2 ^ k) : bits (a <<< k + r) 0 k = r := by
  rw [bits, Nat.shiftRight_zero, Nat.shiftLeft_eq, Nat.mul_add_mod', Nat.mod_eq_of_lt hr]

/-- A field above what was added to a shifted number is a field of that number. -/
theorem bits_shiftLeft_add_above {k r : Nat} (a lo n : Nat) (hr : r < 2 ^ k) : bits (a <<< k + r) (k + lo) n = bits a lo n := by
  have drop : (a <<< k + r) >>> k = a := by
    rw [Nat.shiftRight_eq_div_pow, Nat.shiftLeft_eq, Nat.mul_comm, Nat.mul_add_div (Nat.two_pow_pos k), Nat.div_eq_of_lt hr, Nat.add_zero]
  rw [bits, Nat.shiftRight_add, drop, bits]

/-! ## The counter block of an element (R37) -/

theorem Purpose.code_lt (u : Purpose) : u.code < 2 ^ 3 := by cases u <;> decide

/-- The counter block: stream, step, purpose and group, from the top down. -/
theorem philoxCtr_eq (stream step : Nat) (u : Purpose) (n : Nat) :
    philoxCtr stream step u n = (((stream % 2 ^ 32) <<< 48 + step % 2 ^ 48) <<< 3 + u.code) <<< 45 + (n >>> 3) % 2 ^ 45 := by
  simp only [philoxCtr, Nat.shiftLeft_eq]
  ring

section
variable (stream step : Nat) (u : Purpose) (n : Nat)

theorem philoxCtr_group : bits (philoxCtr stream step u n) 0 45 = (n >>> 3) % 2 ^ 45 := by
  rw [philoxCtr_eq]
  exact bits_shiftLeft_add_below _ (Nat.mod_lt _ (Nat.two_pow_pos 45))

/-- The fields above the group, which every other field of the block is read from. -/
theorem bits_philoxCtr_above_group (lo w : Nat) :
    bits (philoxCtr stream step u n) (45 + lo) w = bits (((stream % 2 ^ 32) <<< 48 + step % 2 ^ 48) <<< 3 + u.code) lo w := by
  rw [philoxCtr_eq]
  exact bits_shiftLeft_add_above _ lo w (Nat.mod_lt _ (Nat.two_pow_pos 45))

theorem philoxCtr_purpose : bits (philoxCtr stream step u n) 45 3 = u.code :=
  (bits_philoxCtr_above_group stream step u n 0 3).trans (bits_shiftLeft_add_below _ u.code_lt)

/-- The fields above the purpose. -/
theorem bits_philoxCtr_above_purpose (lo w : Nat) :
    bits (philoxCtr stream step u n) (45 + (3 + lo)) w = bits ((stream % 2 ^ 32) <<< 48 + step % 2 ^ 48) lo w :=
  (bits_philoxCtr_above_group stream step u n (3 + lo) w).trans (bits_shiftLeft_add_above _ lo w u.code_lt)

theorem philoxCtr_step : bits (philoxCtr stream step u n) 48 48 = step % 2 ^ 48 :=
  (bits_philoxCtr_above_purpose stream step u n 0 48).trans
    (bits_shiftLeft_add_below _ (Nat.mod_lt _ (Nat.two_pow_pos 48)))

theorem philoxCtr_stream : bits (philoxCtr stream step u n) 96 32 = stream % 2 ^ 32 := by
  have above := bits_shiftLeft_add_above (stream % 2 ^ 32) 0 32 (Nat.mod_lt step (Nat.two_pow_pos 48))
  have whole : bits (stream % 2 ^ 32) 0 32 = stream % 2 ^ 32 := Nat.mod_mod _ _
  exact (bits_philoxCtr_above_purpose stream step u n 48 32).trans (above.trans whole)

/-! ## The random bits of an element (R39) -/

variable (seed : Nat)

theorem randBits_even (h : n % 8 % 2 = 0) :
    randBits seed stream step u n = bits (philox seed (philoxCtr stream step u n) ((n % 8) >>> 1)) 0 16 := by
  simp [randBits, h, Nat.shiftRight_one]

theorem randBits_odd (h : n % 8 % 2 = 1) :
    randBits seed stream step u n = bits (philox seed (philoxCtr stream step u n) ((n % 8) >>> 1)) 16 16 := by
  simp [randBits, h, Nat.shiftRight_one]

end

/-- Settles O51: each field of the counter block is read from its place, and the parity of the element picks the half of the word. -/
theorem randomBitsOfElements : Obligations.RandomBitsOfElements := fun seed stream step u n =>
  ⟨philoxCtr_group stream step u n, philoxCtr_purpose stream step u n, philoxCtr_step stream step u n,
    philoxCtr_stream stream step u n, randBits_even stream step u n seed, randBits_odd stream step u n seed⟩

end Sys2Proof.Machine
end

section
/-! SUPPORT. Conversions of values that are not finite (R30, R32, R34): how an infinity and a NaN are stored, and what they read as. -/

namespace Sys2Proof.Machine

/-! ## What a conversion stores -/

section
variable {f : Fmt} (ns : Bool) (rnd : Rnd)

theorem encodeFloat_nan (f : Fmt) : f.encodeFloat ns rnd .nan = ⟨f.canonNan, false⟩ := rfl

/-- A format with infinities stores one as the magnitude code next after its largest finite value, below the sign. -/
theorem encodeFloat_inf_of_hasInf (h : f.par.hasInf = true) (b : Bool) :
    f.encodeFloat ns rnd (.inf b) = ⟨f.par.maxMag + 1 + (if b then 2 ^ (f.ebits - 1) else 0), false⟩ := by
  simp [Fmt.encodeFloat, h]

/-- A format without infinities stores its canonical NaN. -/
theorem encodeFloat_inf_of_not_hasInf (h : f.par.hasInf = false) (b : Bool) :
    f.encodeFloat ns rnd (.inf b) = ⟨f.canonNan, false⟩ := by
  simp [Fmt.encodeFloat, h]

end

/-! ## What a code beyond the largest finite value reads as -/

section
variable {k mag : Nat} (b : Bool) (h : mag < 2 ^ k)
include h

/-- The bit above a magnitude is the sign put there. -/
theorem bit_sign : bit (mag + if b then 2 ^ k else 0) k = b := by
  cases b <;> simp [bit, Nat.shiftRight_eq_div_pow, Nat.add_div_right, Nat.div_eq_of_lt h]

/-- The bits below the sign are the magnitude. -/
theorem mod_sign : (mag + if b then 2 ^ k else 0) % 2 ^ k = mag := by
  cases b <;> simp [Nat.mod_eq_of_lt h]

end

/-- A magnitude code beyond the largest finite value is an infinity where the format has them and the mantissa is 0, and a NaN otherwise. -/
theorem decode_beyond_maxMag {f : Fmt} (hf : f.isInt = false) {mag : Nat} (hw : mag < 2 ^ (f.ebits - 1)) (hm : f.par.maxMag < mag)
    (b : Bool) : f.decode (mag + if b then 2 ^ (f.ebits - 1) else 0) =
      if f.par.hasInf && mag % 2 ^ f.par.mant == 0 then .inf b else .nan := by
  simp only [Fmt.decode, hf, bit_sign b hw, mod_sign b hw, Nat.not_le.2 hm, if_false, Bool.false_eq_true]

/-- The code of infinity fits below the sign and has mantissa 0 (R28). -/
theorem infMag_fits {f : Fmt} (hf : f.isInt = false) (h : f.par.hasInf = true) :
    f.par.maxMag + 1 < 2 ^ (f.ebits - 1) ∧ (f.par.maxMag + 1) % 2 ^ f.par.mant = 0 := by
  cases f <;> revert hf h <;> decide

/-- The canonical NaN has sign 0, lies beyond the largest finite value and is not the code of infinity (R28, R30). -/
theorem canonNan_beyond_maxMag {f : Fmt} (hf : f.isInt = false) (h : f.par.hasNan = true) :
    f.canonNan < 2 ^ (f.ebits - 1) ∧ f.par.maxMag < f.canonNan ∧ (f.par.hasInf && f.canonNan % 2 ^ f.par.mant == 0) = false := by
  cases f <;> revert hf h <;> decide

theorem decode_canonNan {f : Fmt} (hf : f.isInt = false) (h : f.par.hasNan = true) : f.decode f.canonNan = .nan := by
  obtain ⟨fits, beyond, notInf⟩ := canonNan_beyond_maxMag hf h
  simpa [notInf] using decode_beyond_maxMag hf fits beyond false

/-- An infinity converted to a format that has them reads back as itself. -/
theorem decode_encodeFloat_inf {f : Fmt} (hf : f.isInt = false) (h : f.par.hasInf = true) (ns : Bool) (rnd : Rnd) (b : Bool) :
    f.decode (f.encodeFloat ns rnd (.inf b)).w = .inf b := by
  obtain ⟨fits, mantissa⟩ := infMag_fits hf h
  rw [encodeFloat_inf_of_hasInf ns rnd h, decode_beyond_maxMag hf fits (Nat.lt_succ_self _)]
  simp [h, mantissa]

/-- Settles O57: the formats named have NaNs, all but E4M3 have infinities, and no clause looks at the saturation or the rounding. -/
theorem nonFiniteConversions : Obligations.NonFiniteConversions := by
  have withNan : ∀ f ∈ [Fmt.fp32, .bf16, .fp16, .e4m3, .e5m2], f.isInt = false ∧ f.par.hasNan = true := by decide
  have withInf : ∀ f ∈ [Fmt.fp32, .bf16, .fp16, .e5m2], f.isInt = false ∧ f.par.hasInf = true := by decide
  intro ns b rnd
  refine ⟨fun f hf => ?nan, fun f hf => ?inf, encodeFloat_inf_of_not_hasInf ns rnd rfl b, rfl, rfl⟩
  case nan =>
    obtain ⟨float, hasNan⟩ := withNan f hf
    exact ⟨encodeFloat_nan ns rnd f, decode_canonNan float hasNan⟩
  case inf =>
    obtain ⟨float, hasInf⟩ := withInf f hf
    exact ⟨decode_encodeFloat_inf float hasInf ns rnd b, by rw [encodeFloat_inf_of_hasInf ns rnd hasInf]⟩

end Sys2Proof.Machine
end

section
/-! SUPPORT. The masks of a dealt hand (R154): the model's bits as the library's, the bits of a tile's mask, and the masks that dealing
attaches. -/

namespace Sys2Proof.Machine

/-! ## Bits of a number put together from powers of two -/

/-- A bit of the model is a bit of the library. -/
theorem bit_eq_testBit (w i : Nat) : bit w i = w.testBit i := by
  simp only [bit, Nat.testBit_eq_decide_div_mod_eq, Nat.shiftRight_eq_div_pow, beq_eq_decide]

/-- The sum of the powers of two below 2^n whose exponents satisfy `p`. -/
def powersWhere (p : Nat → Prop) [DecidablePred p] (n : Nat) : Nat :=
  sumNat ((List.range n).map fun a => if p a then 2 ^ a else 0)

section
variable (p : Nat → Prop) [DecidablePred p]

theorem powersWhere_succ (n : Nat) : powersWhere p (n + 1) = 2 ^ n * (decide (p n)).toNat + powersWhere p n := by
  by_cases h : p n <;> simp [powersWhere, sumNat, List.range_succ, h, Nat.add_comm]

theorem powersWhere_lt (n : Nat) : powersWhere p n < 2 ^ n := by
  induction n with
  | zero => exact Nat.one_pos
  | succ n ih =>
    have top : 2 ^ n * (decide (p n)).toNat ≤ 2 ^ n * 1 := Nat.mul_le_mul_left _ (Bool.toNat_le _)
    rw [powersWhere_succ, Nat.pow_succ]
    omega

/-- The bits of the sum are the exponents added. -/
theorem testBit_powersWhere (n a : Nat) : (powersWhere p n).testBit a = true ↔ a < n ∧ p a := by
  induction n with
  | zero => simp [powersWhere, sumNat]
  | succ n ih =>
    rw [powersWhere_succ, Nat.testBit_two_pow_mul_add _ (powersWhere_lt p n)]
    rcases Nat.lt_trichotomy a n with below | rfl | above
    · simp [below, ih, Nat.lt_succ_of_lt below]
    · by_cases h : p a <;> simp [h]
    · have outside : ¬ a < n + 1 := by omega
      have past : a - n ≠ 0 := by omega
      simp [outside, past, above.le, Nat.testBit_bool_toNat]

end

/-! ## The mask of a tile (R154) -/

/-- A mask bit is 1 where the element lies in the tile, in the valid extent and under the predicate. -/
theorem bit_mask (t : Tile) (i pred : Nat) {a : Nat} (ha : a < 32) :
    bit (t.mask i pred) a = true ↔ a < dim t.desc.tsz i ∧ t.start i + a < dim t.v i ∧ bit pred a = true := by
  rw [bit_eq_testBit]
  exact (testBit_powersWhere _ 32 a).trans (and_iff_right ha)

section
variable (y : Desc) (x : Slot) {i : Nat} (hi : i < 4)
include hi

theorem tile_start : (y.tile x).start i = y.coord x i * dim y.tsz i := by
  simp [Tile.start, Desc.tile, dim, hi]

theorem tile_extent : dim (y.tile x).v i = y.extent x i := by
  simp [Desc.tile, dim, hi]

/-- The mask bits of the tile that a slot names through a descriptor. -/
theorem bit_mask_tile (pred : Nat) {a : Nat} (ha : a < 32) :
    bit ((y.tile x).mask i pred) a = true ↔
      a < dim y.tsz i ∧ y.coord x i * dim y.tsz i + a < y.extent x i ∧ bit pred a = true := by
  rw [bit_mask _ i pred ha, tile_start y x hi, tile_extent y x hi]
  rfl

end

/-! ## The masks of a hand -/

section
variable (s : State) (r k : Nat) {x : Slot} {h : OpenHand} (ws : List HandWord) {y : Desc} (hy : assocGet (bits h.w 92 4) x.desc = some y)
include hy

/-- The row mask of a hand that uses its tile is the tile's over dimension 1, under the row predicate. -/
theorem dealtHand_rmask : (s.dealtHand r k x h true ws).rmask =
    (y.tile x).mask 1 (if bits h.w 109 5 = 0 then 2 ^ 32 - 1 else x.sreg (bits h.w 109 5) % 2 ^ 32) := by
  simp [State.dealtHand, hy, max32]

/-- The column mask is the tile's over dimension 0, under the column predicate. -/
theorem dealtHand_cmask : (s.dealtHand r k x h true ws).cmask =
    (y.tile x).mask 0 (if bits h.w 104 5 = 0 then 2 ^ 32 - 1 else x.sreg (bits h.w 104 5) % 2 ^ 32) := by
  simp [State.dealtHand, hy, max32]

end

theorem rowMask_of_msk (h : Hand) {w : Nat} (msk : bit w 109 = true) (thin : isThin w = false) : h.rowMask w = h.rmask := by
  simp [Hand.rowMask, msk, thin]

theorem colMask_of_msk (h : Hand) {w : Nat} (msk : bit w 109 = true) : h.colMask w = h.cmask := if_pos msk

/-- Settles O52: each mask of a dealt hand is that of its tile over one dimension, whose bits are its three conditions. -/
theorem handMasks : Obligations.HandMasks := by
  refine ⟨fun s r k x h ws y a ha hy => ⟨?row, ?column⟩, fun h w => ⟨rowMask_of_msk h, colMask_of_msk h⟩⟩
  case row =>
    rw [dealtHand_rmask s r k ws hy]
    exact bit_mask_tile y x (by decide) _ ha
  case column =>
    rw [dealtHand_cmask s r k ws hy]
    exact bit_mask_tile y x (by decide) _ ha

end Sys2Proof.Machine
end

section
/-! SUPPORT. A write of `dlr.kill` (R158, R168), and the slot of an item that faults (R157). -/

namespace Sys2Proof.Machine

/-! ## Slots and regions -/

/-- A slot is read from the regions alone. -/
theorem slot_congr {s t : State} (h : t.regions = s.regions) (r k : Nat) : t.slot r k = s.slot r k := by
  simp [State.slot, State.rg, h]

/-- A place that does not read as the default given lies in the list. -/
theorem lt_length_of_getD_ne {α : Type} {l : List α} {i : Nat} {x : α} (h : l.getD i x ≠ x) : i < l.length :=
  Nat.lt_of_not_le fun le => h (List.getD_eq_default l x le)

/-- A slot that is not idle lies in a region of the state, for a region that the state has not reads as reset. -/
theorem region_lt_of_not_idle {s : State} {r k : Nat} (h : (s.slot r k).st ≠ .idle) : r < s.regions.length := by
  refine lt_length_of_getD_ne (x := Region.reset) fun reset => h ?_
  rw [State.slot, State.rg, reset]
  exact congrArg Slot.st (List.getElem?_getD_replicate_default_eq Slot.reset 4 k)

/-- And it is one of that region's slots. -/
theorem slot_lt_of_not_idle {s : State} {r k : Nat} (h : (s.slot r k).st ≠ .idle) : k < (s.rg r).slots.length :=
  lt_length_of_getD_ne fun reset => h (congrArg Slot.st reset)

/-- The element changed reads as changed. -/
theorem listMod_getD_same {α : Type} {l : List α} {i : Nat} (f : α → α) (x : α) (h : i < l.length) :
    (listMod l i f).getD i x = f (l.getD i x) := (listMod_getD l i i f x h).trans (if_pos rfl)

/-- A slot that is not idle reads as changed. -/
theorem slot_updSlot_same {s : State} {r k : Nat} (h : (s.slot r k).st ≠ .idle) (f : Slot → Slot) :
    (s.updSlot r k f).slot r k = f (s.slot r k) := by
  have region : (s.updSlot r k f).rg r = { s.rg r with slots := listMod (s.rg r).slots k f } :=
    listMod_getD_same _ _ (region_lt_of_not_idle h)
  rw [State.slot, region]
  exact listMod_getD_same f _ (slot_lt_of_not_idle h)

/-! ## The fault of an item (R157) -/

theorem raise_regions (s : State) {d : Nat} (u code det : Nat) (i : EvInfo) (hd : d < 2) :
    (s.raise d u code det i).regions = s.regions := by
  rw [(raise_sameButLog s d u code det i [] hd).1]

theorem dealerFirst_regions (s : State) (r k code va det : Nat) : (s.dealerFirst r k code va det).regions = s.regions := by
  simp only [State.dealerFirst]
  split
  · rfl
  · simp

/-- A slot whose item faults with `code`: it is completing, waits for nothing, has no open hand, and keeps a code that it has. -/
def Slot.faulted (y : Slot) (code : Nat) : Slot :=
  { y with st := .completing, wait := .none, hand := none, code := if y.code = 0 then code else y.code }

theorem Slot.faulted_code {y : Slot} (h : y.code = 0) (code : Nat) : (y.faulted code).code = code := if_pos h

/-- What the fault of an item leaves in its slot. -/
theorem slot_itemFault {s : State} {r k : Nat} (va : Nat) (f : FaultInfo) (hr : r < 16) (h : (s.slot r k).st ≠ .idle) :
    (s.itemFault r k va f).slot r k = (s.slot r k).faulted f.code := by
  have die : dieOfRegion r < 2 := by simp only [dieOfRegion]; omega
  have only : (s.itemFault r k va f).regions = (s.updSlot r k fun y => y.faulted f.code).regions := by
    simp only [State.itemFault, if_neg h, State.setDoorbell, State.orFld, State.setFld, updCtx_others, setReg_others, dealerFirst_regions]
    split
    · rfl
    · exact raise_regions _ _ _ _ _ die
  rw [slot_congr only, slot_updSlot_same h]

/-! ## The write of `dlr.kill` (R158, R168) -/

/-- Every write of `dlr.kill` that is served is accepted: no encoding of its fields is reserved. -/
theorem accepts_dlr_kill (s : State) (d v : Nat) : s.accepts d R.dlr_kill v = true :=
  accepts_of s d R.dlr_kill v 0 (by decide) fun _ _ => rfl

/-- No rule replaces the store of the register's fields. -/
theorem ownWrite_dlr_kill (s : State) (d new : Nat) : s.ownWrite d R.dlr_kill 0 new = none := rfl

/-- What the write does beyond storing them. -/
theorem written_dlr_kill (s : State) (p : Path) (d old v : Nat) : s.written p d R.dlr_kill 0 old v = s.onKill d v := rfl

/-- A served KILL stores the register's fields and acts on the slot that it names. -/
theorem exec_kill {s : State} {p : Path} {d : Fin 2} {v : Nat} (h : s.taking p (R.dlr_kill.pa d 0)) (hv : v < 2 ^ 32) :
    exec (.kill p d v) s = .next (((s.came p (R.dlr_kill.pa d 0) 4).stored d R.dlr_kill v).onKill d v) := by
  have address : ∀ d : Fin 2, ovfWord (R.dlr_kill.pa d 0) = false ∧ isRepair (R.dlr_kill.pa d 0) = false ∧
      csrTouch (R.dlr_kill.pa d 0) 32 = some [(⟨regSpec R.dlr_kill, d, 0, 0⟩, 0, 32)] := by decide +kernel
  obtain ⟨ovf, repair, touch⟩ := address d
  change Host.Outcome.next (s.regIn p d R.dlr_kill v) = _
  rw [regIn_eq s p d R.dlr_kill v 0 h ovf touch (by decide) (.inl repair) (by decide) (.inl (by decide)) hv,
    if_pos (accepts_dlr_kill _ _ _), ownWrite_dlr_kill, Option.getD_none, written_dlr_kill]
  rfl

/-- A kill of a running slot is the fault 0x400B of its item. -/
theorem onKill_of_running {s : State} {d v : Nat} (h : (s.slot (8 * d + bits v 2 3) (v % 4)).st = .running) :
    s.onKill d v = s.itemFault (8 * d + bits v 2 3) (v % 4) (s.slot (8 * d + bits v 2 3) (v % 4)).pc ⟨0x400B, v % 4⟩ := if_pos h

/-- A kill of a slot that does not run changes nothing. -/
theorem onKill_of_not_running {s : State} {d v : Nat} (h : (s.slot (8 * d + bits v 2 3) (v % 4)).st ≠ .running) :
    s.onKill d v = s := if_neg h

/-- Settles O53: the write acts through the fault of the item, which leaves the slot it names as R157 gives. -/
theorem killEndsItem : Obligations.KillEndsItem := by
  refine ⟨?running, ?idle⟩
  case running =>
    rintro s u p d v taking hv rfl run
    have region : 8 * d.val + bits v 2 3 < 16 := by
      have := bits_lt v 2 3
      omega
    refine ⟨_, (exec_kill taking hv).trans (congrArg _ (onKill_of_running run)), rfl, ?_⟩
    rw [slot_itemFault _ _ region (by simp [run])]
    exact ⟨rfl, rfl, rfl, fun noCode => Slot.faulted_code noCode _⟩
  case idle =>
    rintro s u p d v taking hv rfl idle
    exact (exec_kill taking hv).trans (congrArg _ (onKill_of_not_running (by simp [idle])))

end Sys2Proof.Machine
end

section
/-! SUPPORT. The hint windows of the memory-side cache (R228): the windows are searched from number 0 upward, so the first that contains the
access decides. -/

namespace Sys2Proof.Machine

section
variable (s : State) (d a n : Nat)

/-- Whether hint window `n` of die `d` is enabled and contains the access at `a`. -/
def State.inHintWindow : Bool :=
  s.flag d F.hcache_hw_en n && s.fld d F.hcache_hw_base n * 0x200000 ≤ a % 2 ^ 39 &&
    a % 2 ^ 39 < (s.fld d F.hcache_hw_base n + s.fld d F.hcache_hw_size n + 1) * 0x200000

/-- The hint that window `n` of die `d` gives to an access at `a`. -/
def State.windowHint : Hint :=
  match s.fld d F.hcache_hw_hint n with
  | 0 => .keep
  | 1 => .stream
  | _ => if s.coherent a then .stream else .last

theorem inHintWindow_iff :
    s.inHintWindow d a n = true ↔ s.flag d F.hcache_hw_en n = true ∧ s.fld d F.hcache_hw_base n * 0x200000 ≤ a % 2 ^ 39 ∧
      a % 2 ^ 39 < (s.fld d F.hcache_hw_base n + s.fld d F.hcache_hw_size n + 1) * 0x200000 := by
  simp only [State.inHintWindow, Bool.and_eq_true, decide_eq_true_eq, and_assoc]

/-- The hint of an access is that of the first window found to contain it. -/
theorem hintOf_eq : s.hintOf d a = ((List.range 16).find? (s.inHintWindow d a)).elim .none (s.windowHint d a) := by
  unfold State.hintOf
  split
  case h_1 found => exact (congrArg (Option.elim · Hint.none (s.windowHint d a)) found).symm
  case h_2 found => exact (congrArg (Option.elim · Hint.none (s.windowHint d a)) found).symm

end

section
variable {s : State} {d a n : Nat}

theorem hintOf_of_no_window (outside : ∀ m < 16, s.inHintWindow d a m = false) : s.hintOf d a = .none := by
  have found : (List.range 16).find? (s.inHintWindow d a) = none :=
    List.find?_range_eq_none.2 fun m hm => by simp [outside m hm]
  rw [hintOf_eq, found, Option.elim_none]

theorem hintOf_of_lowest_window (hn : n < 16) (inside : s.inHintWindow d a n = true)
    (lowest : ∀ m < n, s.inHintWindow d a m = false) : s.hintOf d a = s.windowHint d a n := by
  have found : (List.range 16).find? (s.inHintWindow d a) = some n :=
    List.find?_range_eq_some.2 ⟨inside, List.mem_range.2 hn, fun m hm => by simp [lowest m hm]⟩
  rw [hintOf_eq, found, Option.elim_some]

theorem windowHint_keep (h : s.fld d F.hcache_hw_hint n = 0) : s.windowHint d a n = .keep := by
  simp [State.windowHint, h]

theorem windowHint_stream (h : s.fld d F.hcache_hw_hint n = 1) : s.windowHint d a n = .stream := by
  simp [State.windowHint, h]

theorem windowHint_last (h : s.fld d F.hcache_hw_hint n = 2) :
    s.windowHint d a n = if s.coherent a then .stream else .last := by
  simp [State.windowHint, h]

end

/-- Settles O54: the search from window 0 upward finds none, or the lowest-numbered window that contains the access, whose hint field
decides. -/
theorem hintOfWindow : Obligations.HintOfWindow := by
  intro s d a inWindow hwin
  have inside : ∀ n, inWindow n ↔ s.inHintWindow d a n = true := fun n => (hwin n).trans (inHintWindow_iff s d a n).symm
  have outside : ∀ {n}, ¬ inWindow n → s.inHintWindow d a n = false := fun {n} h => Bool.eq_false_of_not_eq_true (mt (inside n).2 h)
  refine ⟨fun noWindow => hintOf_of_no_window fun m hm => outside (noWindow m hm), fun n hn hit lowest => ?_⟩
  rw [hintOf_of_lowest_window hn ((inside n).1 hit) fun m hm => outside (lowest m hm)]
  exact ⟨windowHint_keep, windowHint_stream, windowHint_last⟩

end Sys2Proof.Machine
end

section
/-! SUPPORT. The timeout of a collective's step (R317): the receives and sends that it finds overdue, and the node that the fault names
(R328). -/

namespace Sys2Proof.Machine

/-- Whether the receive is one of `step` that still waits, and the step's start found a timeout (R317, R320). -/
def CollRecv.overdue (x : CollRecv) (step : Nat) : Bool := x.step = step && !x.done && x.tmo ≠ 0

/-- Whether the send is one of `step` whose SACK is missing, and the step's start found a timeout (R317, R320). -/
def CollSend.overdue (x : CollSend) (step : Nat) : Bool := x.step = step && x.begun && !x.acked && x.tmo ≠ 0

/-- The node that `step` waits for when it is overdue (R328): a source before a destination. -/
def Coll.awaited (c : Coll) (step : Nat) : Option Nat :=
  ((c.recvs.find? (·.overdue step)).map (·.src)).orElse fun _ => (c.sends.find? (·.overdue step)).map (·.dst)

theorem CollRecv.overdue_eq_false {x : CollRecv} {step : Nat} (h : x.step = step → x.done = false → x.tmo = 0) :
    x.overdue step = false := by
  simpa [CollRecv.overdue] using h

theorem CollSend.overdue_eq_false {x : CollSend} {step : Nat}
    (h : x.step = step → x.begun = true → x.acked = false → x.tmo = 0) : x.overdue step = false := by
  simpa [CollSend.overdue] using h

section
variable {c : Coll} {step : Nat}

theorem no_overdue_recv (h : ∀ x ∈ c.recvs, x.step = step → x.done = false → x.tmo = 0) :
    c.recvs.find? (·.overdue step) = none :=
  List.find?_eq_none.2 fun x hx => by simp [CollRecv.overdue_eq_false (h x hx)]

theorem no_overdue_send (h : ∀ x ∈ c.sends, x.step = step → x.begun = true → x.acked = false → x.tmo = 0) :
    c.sends.find? (·.overdue step) = none :=
  List.find?_eq_none.2 fun x hx => by simp [CollSend.overdue_eq_false (h x hx)]

theorem awaited_of_recv {x : CollRecv} (recv : c.recvs.find? (·.overdue step) = some x) : c.awaited step = some x.src := by
  simp [Coll.awaited, recv]

theorem awaited_of_send {x : CollSend} (noRecv : c.recvs.find? (·.overdue step) = none)
    (send : c.sends.find? (·.overdue step) = some x) : c.awaited step = some x.dst := by
  simp [Coll.awaited, noRecv, send]

theorem awaited_of_none_overdue (noRecv : c.recvs.find? (·.overdue step) = none)
    (noSend : c.sends.find? (·.overdue step) = none) : c.awaited step = none := by
  simp [Coll.awaited, noRecv, noSend]

end

/-- An expired timeout faults the collective with 0x2014, naming the node that its step waits for, if there is one. -/
theorem exec_stepTimeout {s : State} {d : Fin 2} {rt : Fin 256} {c : Coll} (step : Nat) (running : s.coll d rt = some c) :
    exec (.stepTimeout d rt step) s = .next ((c.awaited step).elim s (s.collFault d rt 0x2014 ·)) := by
  change execStepTimeout d rt step s = _
  simp only [execStepTimeout, running]
  split
  case h_1 p found =>
    have waits : c.awaited step = some p := found
    rw [waits, Option.elim_some]
  case h_2 found =>
    have waitsNot : c.awaited step = none := found
    rw [waitsNot, Option.elim_none]

/-- Settles O55: the fault names the source of the first overdue receive, or else the destination of the first overdue send; a step that
found a timeout of 0 when it started is never overdue. -/
theorem stepTimeout : Obligations.StepTimeout := by
  intro s d rt step c running
  rw [exec_stepTimeout step running]
  refine ⟨fun recvs sends => ?disabled, fun x recv => ?source, fun recvs x send => ?destination⟩
  case disabled => rw [awaited_of_none_overdue (no_overdue_recv recvs) (no_overdue_send sends), Option.elim_none]
  case source => rw [awaited_of_recv recv, Option.elim_some]
  case destination => rw [awaited_of_send (no_overdue_recv recvs) send, Option.elim_some]

end Sys2Proof.Machine
end

section
/-! SUPPORT. The step and the state after reset: what the front command or a clock leaves of the queue and of the invariant. -/

namespace Sys2Proof.Machine

/-! ## The step -/

/-- A clock leaves a sound state sound. -/
theorem tick_sound {s : State} (h : s.sound) : s.tick.sound := (tick_stays (stays_refl s)).2 h

/-- The next state that a command answers has its queue, and is sound if the state was. -/
theorem exec_next_stays {c : Instr} {s t : State} (h : exec c s = .next t) : s.stays t := (exec_stays c (stays_refl s)).stays t h

/-- The queue is no part of the invariant. -/
theorem sound_withPending {s : State} (q : List Instr) (h : s.sound) : ({ s with pending := q } : State).sound := h

/-- Settles O7: a step is a clock or the command at the front, and each operation of the model that these call stays sound. -/
theorem stepKeepsSound : Obligations.StepKeepsSound := by
  intro s t sound stepped
  unfold step at stepped
  split at stepped
  case h_1 =>
    cases stepped
    exact tick_sound sound
  case h_2 c rest queue =>
    obtain ⟨-, kept⟩ := exec_next_stays stepped
    exact kept (sound_withPending rest sound)

/-- Settles O4: no operation of the model that a command calls writes the queue. -/
theorem execLeavesQueue : Obligations.ExecLeavesQueue := by
  intro c s t answered
  obtain ⟨queue, -⟩ := exec_next_stays answered
  exact queue

/-- Settles O1: the queue's front is what the step matches on. -/
theorem stepRunsFrontCommand : Obligations.StepRunsFrontCommand := fun _ _ _ => rfl

theorem step_of_empty_queue {s : State} (h : s.pending = []) : step s = .next s.tick := by
  simp only [step, h]

theorem tick_of_held {s : State} (h : s.boot.hold ≠ none) : s.tick = { s with clk := s.clk + 1 } :=
  if_pos (Option.isSome_iff_ne_none.2 h)

/-- Settles O2: a step on an empty queue is a clock, and a clock of a part held in reset stops after the count. -/
theorem emptyQueueIsOneClock : Obligations.EmptyQueueIsOneClock :=
  ⟨fun _ empty => step_of_empty_queue empty, fun _ held => tick_of_held held⟩

/-! ## After reset -/

/-- The store after reset lists no register, so each reads as its reset value. -/
theorem reset_reg (d : Nat) (r : Reg) (i : Nat) : State.reset.reg d r i = r.reset := rfl

/-- Settles O6: both stores are empty after reset. -/
theorem resetIsSound : Obligations.ResetIsSound :=
  ⟨⟨List.Pairwise.nil, fun _ listed => nomatch listed⟩, List.Pairwise.nil, List.length_replicate, List.length_replicate⟩

/-- Settles O5: every part of the state is written out in the state after reset, and every cluster and region is that of reset. -/
theorem resetState : Obligations.ResetState := by
  have cluster : ∀ c ∈ State.reset.clusters, c.engines.length = 4 := fun c hc => by
    rw [List.eq_of_mem_replicate hc]
    rfl
  have region : ∀ g ∈ State.reset.regions, g.slots.length = 4 := fun g hg => by
    rw [List.eq_of_mem_replicate hg]
    rfl
  have topId : (regSpec R.top_id).reg = R.top_id ∧ State.reset.regShown 0 R.top_id 0 = 0x0036A010 ∧
      State.reset.regShown 1 R.top_id 0 = 0x0036A011 := by decide +kernel
  exact ⟨rfl, rfl, rfl, rfl, List.length_replicate, cluster, List.length_replicate, region, reset_reg, topId⟩

end Sys2Proof.Machine
end

section
/-! SUPPORT. Every command answers a next state, but for the six that name an address of memory. -/

namespace Sys2Proof.Machine

/-- The address that a command names to memory without a path. -/
def namedAddress : Instr → Option Nat
  | .memoryWrite _ _ pa _ _ | .memoryRead _ pa _ _ | .externalSramWrite pa _ _ | .hbmCacheRead pa _ _ | .hbmCacheWrite pa _ _
  | .weightSlotRead _ pa _ _ => some pa
  | _ => none

/-- A command that names an address to memory finds memory there and goes on, or stops with that address. -/
theorem exec_of_namedAddress {c : Instr} {pa : Nat} (s : State) (h : namedAddress c = some pa) :
    (∃ t, exec c s = .next t) ∨ exec c s = .fault (.noSuchAddress pa) := by
  cases c with
  | memoryWrite | memoryRead | externalSramWrite | hbmCacheRead | hbmCacheWrite | weightSlotRead =>
    obtain rfl : _ = pa := Option.some.inj h
    simp only [exec, execMemoryWrite, execMemoryRead, execExternalSramWrite, execHbmCacheRead, execHbmCacheWrite, execWeightSlotRead]
    repeat' split
    all_goals simp
  | _ => cases h

theorem collWord_next (s : State) (r k : Nat) (o : Op) : ∃ t, s.collWord r k o = .next t := by
  unfold State.collWord
  exact iteInduction (motive := fun x => ∃ t, x = Host.Outcome.next t) (fun _ => ⟨_, rfl⟩) fun _ => onWord_next ..

theorem onRecord_next (s : State) (n : Nat) (f : State → Nat → JoinRec → State) : ∃ t, s.onRecord n f = .next t := by
  unfold State.onRecord
  split <;> exact ⟨_, rfl⟩

/-- A command that names no address to memory goes on, whatever it finds: each branch of its meaning ends in a next state. -/
theorem exec_next (c : Instr) (s : State) (h : namedAddress c = none) : ∃ t, exec c s = .next t := by
  cases c with
  | memoryWrite | memoryRead | externalSramWrite | hbmCacheRead | hbmCacheWrite | weightSlotRead => cases h
  | csrWrite | rcRead | counterLowRead | firstRecordClear | detStrictWrite | bqCtlWrite | freezeLimWrite | doorbell | kill
  | pbinv | sramScrubPass | carveWrite | carveTransitionDone | bridgeRetrainCmd | coherentAccess | rds | rdm | upg | evs
  | evm | snps | snpi | dats | datm | gntm | evack | rspi | rsps | rspd | rspev | cwinWrite | cewWindowEnd | hbmOwnWrite
  | tgenGo | tgenStop | readRow | writeRow | softRepair | hardRepair | clearSoft | spareQuery | hcacheFlush | ctxRefresh
  | ctxDrop | ctxBaseWrite | quotaPeriodEnd | mmuInv | lnkCtlWrite | meldEnable | initDone | meldDisable | snapDone | encDone
  | trickClose | codecWwWrite | codecWmWrite | codecInval | wanRetryTimer | wanCalTimeout | wanCalHoldTimeout | wanTrainDone
  | wanTrainTimeout | wanPcsLoss | wanCtlWrite | wanIp6LoWrite | ethernetFrame | arpRequest | neighborSolicitation | bulk
  | ctl | pairSecretLoad | keyDerivationDone | pairRoll | pairUse | pairDropold | pairElimWrite | ref10mQualify | timeStep
  | timeMark | timeCtlWrite | twinRelease | replayRelease | warningWindowEnd | ckpCut | drainStart | restore | restoreDone
  | takeoverRecord | wrReissue | assayReset | assayTimeTimeout | energySample | engineTimeReportSend | intervalEnd
  | offsetInvalidTimeout | mirrorLost | deviceReset | fuseDone | write32 | write64 | fill | waitBit | waitBitTimeout
  | copyToHbm | recordEnd | recoveryLoad | reload | svnRaise | kekBurn | pkhprog | msixUnmask | mgmtRead32 | mgmtWrite32
  | mgmtRead64 | mgmtWrite64 | dbgRead32 | dbgWrite32 | dbgRead64 | dbgWrite64 | dbgDisable | traceGo | traceStop
  | powerSample | brakeAssert | brakeRelease | undervoltage | dvfsRequest | pwrCtlWrite | pmbusStatusPoll | thermalStep
  | resetRelease | assayPowerLoss | bar0Read =>
    exact ⟨_, rfl⟩
  | nop | endProgram | fence | sync | waitf | postf | flushq | trap | loopEnd | li | add | sub | mul | and | or | shl | shr
  | min | max | ld | ldd | rdt | test | trick | bound | waita =>
    simp only [exec, execNop, execEndProgram, execFence, execSync, execWaitf, execPostf, execFlushq, execTrap, execLoopEnd,
      execLi, execAdd, execSub, execMul, execAnd, execOr, execShl, execShr, execMin, execMax, execLd, execLdd, execRdt,
      execTest, execTrick, execBound, execWaita, State.sregOp, State.meldWord]
    exact onWord_next ..
  | reduceScatter | allGather | allReduce | broadcast | permute =>
    simp only [exec, execReduceScatter, execAllGather, execAllReduce, execBroadcast, execPermute]
    exact collWord_next ..
  | joinReq | joinAck | joinRefuse | joinReady | joinDone =>
    simp only [exec, execJoinReq, execJoinAck, execJoinRefuse, execJoinReady, execJoinDone]
    exact onRecord_next ..
  | hand =>
    simp only [exec, execHand]
    split
    · split <;> exact ⟨_, rfl⟩
    · exact onWord_next ..
  | loopBegin =>
    simp only [exec, execLoopBegin]
    split
    · exact ⟨_, rfl⟩
    · exact onWord_next ..
  | st =>
    simp only [exec, execSt]
    split
    · exact ⟨_, rfl⟩
    · exact onWord_next ..
  | strictSettled | mma | mmaResultWrite | kSplitCombine | freezeLimitExceeded | thinRequest | batchWaitExpire | batchRun
  | handPoison | idleClusterFault | chainSetLoad | drainRowAdmit | vrunRowAdmit | rowWrite | vrun | vectorPoison | itemTake
  | itemComplete | fenceRelease | syncRelease | waitfRelease | handDeal | handStart | handComplete | load | store | copyin =>
    simp only [exec, execStrictSettled, execMma, execMmaResultWrite, execKSplitCombine, execFreezeLimitExceeded,
      execThinRequest, execBatchWaitExpire, execBatchRun, execHandPoison, execIdleClusterFault, execChainSetLoad,
      execDrainRowAdmit, execVrunRowAdmit, execRowWrite, execVrun, execVectorPoison, execItemTake, execItemComplete,
      execFenceRelease, execSyncRelease, execWaitfRelease, execHandDeal, execHandStart, execHandComplete, execLoad, execStore,
      execCopyin]
    (repeat' split) <;> exact ⟨_, rfl⟩
  | copyout | dmaComplete | ldComplete | lddComplete | trickRelease | boundRelease | waitaRelease | waitWatchdog
  | programFetch | pbinvDone | bridgeBeatReceive | bridgeNak | bridgeRetrainDone | cwinFlushDone | hbmRequest | refreshSlot
  | hbmTempReport | wcAgeExpire | hbmTrainDone | hbmOwnReady | tgenRunEnd | repairCmdDone | hcacheFlushDone | contextFill
  | translationMiss | walkReadReturn | mmuInvDone =>
    simp only [exec, execCopyout, execDmaComplete, execLdComplete, execLddComplete, execTrickRelease, execBoundRelease,
      execWaitaRelease, execWaitWatchdog, execProgramFetch, execPbinvDone, execBridgeBeatReceive, execBridgeNak,
      execBridgeRetrainDone, execCwinFlushDone, execHbmRequest, execRefreshSlot, execHbmTempReport, execWcAgeExpire,
      execHbmTrainDone, execHbmOwnReady, execTgenRunEnd, execRepairCmdDone, execHcacheFlushDone, execContextFill,
      execTranslationMiss, execWalkReadReturn, execMmuInvDone]
    (repeat' split) <;> exact ⟨_, rfl⟩
  | flitReceive | linkRetryTimer | linkCalDone | linkCalTimeout | linkEqDone | linkEqTimeout | linkAlignDone
  | linkAlignTimeout | peerExchange | linkReceiveSilence | txPllLockLoss | retrainDone | retrainTimeout | rd | wr | rsp | seg
  | sack | collStart | stepTimeout | collComplete | applyDone | frgOut | frgIn | frgCtl | joinTimeout | wanCalDone =>
    simp only [exec, execFlitReceive, execLinkRetryTimer, execLinkCalDone, execLinkCalTimeout, execLinkEqDone,
      execLinkEqTimeout, execLinkAlignDone, execLinkAlignTimeout, execPeerExchange, execLinkReceiveSilence, execTxPllLockLoss,
      execRetrainDone, execRetrainTimeout, execRd, execWr, execRsp, execSeg, execSack, execCollStart, execStepTimeout,
      execCollComplete, execApplyDone, execFrgOut, execFrgIn, execFrgCtl, execJoinTimeout, execWanCalDone]
    (repeat' split) <;> exact ⟨_, rfl⟩
  | wanTxPllLoss | keyMissDerived | fragmentSend | pairSecretUnwrapDone | controlAckTimer | controlRetransmit | summarySend
  | summary | nack | nackRepeat | ppsEdge | zdaSentence | ptpSync | followUp | delayResp | announce | sourceLossTimeout
  | holdoverLimit | digestDone | digestRecordWrite | twinRecord | twinPeerTimeout | preqPoll | cutQuiesced
  | cutQuiesceTimeout | cutCopyDone | cutManifestDone =>
    simp only [exec, execWanTxPllLoss, execKeyMissDerived, execFragmentSend, execPairSecretUnwrapDone, execControlAckTimer,
      execControlRetransmit, execSummarySend, execSummary, execNack, execNackRepeat, execPpsEdge, execZdaSentence, execPtpSync,
      execFollowUp, execDelayResp, execAnnounce, execSourceLossTimeout, execHoldoverLimit, execDigestDone,
      execDigestRecordWrite, execTwinRecord, execTwinPeerTimeout, execPreqPoll, execCutQuiesced, execCutQuiesceTimeout,
      execCutCopyDone, execCutManifestDone]
    (repeat' split) <;> exact ⟨_, rfl⟩
  | drainDone | logRingWrite | rcSelftestDone | rcSelftestFail | rcTwinSignal | rcTwinLost | failNAssert | heartbeatSend | hb
  | electionPeriod | hbSilenceTimeout | failureNotice | engineTimeReport | timeMarkFrame | setparam | tamperCheck
  | mirrorFrame | mirrorFrameReceive | powerExport | probeDone | stageDone | verifyDone | redoDone | runRelease
  | readyTimeout | bar2Access =>
    simp only [exec, execDrainDone, execLogRingWrite, execRcSelftestDone, execRcSelftestFail, execRcTwinSignal, execRcTwinLost,
      execFailNAssert, execHeartbeatSend, execHb, execElectionPeriod, execHbSilenceTimeout, execFailureNotice,
      execEngineTimeReport, execTimeMarkFrame, execSetparam, execTamperCheck, execMirrorFrame,
      execMirrorFrameReceive, execPowerExport, execProbeDone, execStageDone, execVerifyDone, execRedoDone, execRunRelease,
      execReadyTimeout, execBar2Access]
    (repeat' split) <;> exact ⟨_, rfl⟩
  | configRequest | hostLinkL0 | pciePerst | flr | resizableBarWrite | deviceRequestTimeout | msixHoldExpire
  | dynamicAddressAssign | rstdaa | ibiHoldExpire | sensorRefresh | telemetryPeriod | capSlowStep | dvfsDone
  | pmbusWriteRetry | thermalTrip | coolantRead | ref10mOutOfRange =>
    simp only [exec, execConfigRequest, execHostLinkL0, execPciePerst, execFlr, execResizableBarWrite,
      execDeviceRequestTimeout, execMsixHoldExpire, execDynamicAddressAssign, execRstdaa, execIbiHoldExpire, execSensorRefresh,
      execTelemetryPeriod, execCapSlowStep, execDvfsDone, execPmbusWriteRetry, execThermalTrip, execCoolantRead,
      execRef10mOutOfRange]
    (repeat' split) <;> exact ⟨_, rfl⟩
  | _ =>
    -- The seal command is left, whose name Lean reserves.
    simp only [exec, execSeal]
    (repeat' split) <;> exact ⟨_, rfl⟩

/-- Settles O3: a command without an address to memory goes on, and one of the six may stop with the address that it names. -/
theorem everyCommandAnswers : Obligations.EveryCommandAnswers := by
  intro c s
  cases named : namedAddress c with
  | none => exact .inl (exec_next c s named)
  | some pa =>
    refine (exec_of_namedAddress s named).imp_right fun stopped => ⟨pa, stopped, ?_⟩
    cases c with
    | memoryWrite | memoryRead | externalSramWrite | hbmCacheRead | hbmCacheWrite | weightSlotRead =>
      obtain rfl : _ = pa := Option.some.inj named
      simp
    | _ => cases named

end Sys2Proof.Machine
end

section
/-! SUPPORT. The halves of a share of blocks (R339), and the access types of fields (R7). -/

namespace Sys2Proof.Machine

/-! ## The two dies' blocks of a share (R339) -/

theorem half_die0 (x : MeldSlot) (n : Nat) : x.half n 0 = ((x.share n).1, ((x.share n).2 + 1) / 2) := rfl

theorem half_die1 (x : MeldSlot) (n : Nat) :
    x.half n 1 = ((x.share n).1 + ((x.share n).2 + 1) / 2, (x.share n).2 - ((x.share n).2 + 1) / 2) := rfl

/-- Settles O56: the halves lie one behind the other, and a half rounded up is no more than the whole. -/
theorem blocksOfHalves : Obligations.BlocksOfHalves := by
  intro x n first count share
  rw [half_die0, half_die1, share]
  have upper : (count + 1) / 2 ≤ count := by omega
  refine ⟨rfl, rfl, Nat.add_sub_of_le upper, fun b lower above => ?_⟩
  dsimp only
  omega

/-! ## Access types (R7) -/

/-- Refutes O59: the field of `cip.wrap` is WO, and yet a write changes its bits, for the model keeps the words of the next pair secret
there (`FieldSpec.takes`, R446). -/
theorem not_accessTypes : ¬ Obligations.AccessTypes := by
  intro ⟨_, types⟩
  have apart : (regSpec R.cip_wrap).flds.Pairwise fun f g =>
      f.fld.lo + f.fld.n ≤ g.fld.lo ∨ g.fld.lo + g.fld.n ≤ f.fld.lo := by decide +kernel
  have listed : (⟨F.cip_wrap_w, .wo, []⟩ : FieldSpec) ∈ (regSpec R.cip_wrap).flds := by decide +kernel
  have written : ((regSpec R.cip_wrap).next 0 1 1).testBit 0 = true := by decide +kernel
  obtain ⟨-, kept, -⟩ := (types (regSpec R.cip_wrap) 0 1 1 0 apart).2 _ listed (by decide) (by decide)
  rw [kept (.inr (.inr rfl))] at written
  exact absurd written (by decide)

end Sys2Proof.Machine
end

section
/-! SUPPORT. The value that a floating-point word stands for converts to that word (R28, R31, R35, R36). -/

namespace Sys2Proof.Machine

/-- A value on the grid that it is rounded to keeps its significand. -/
theorem roundInt_same (m : Nat) (e : Int) (rnd : Rnd) : roundInt m e e rnd = m := by
  simp [roundInt]

section
variable {f : Fmt} (rnd : Rnd)

/-- A subnormal significand is its own magnitude code. -/
theorem magRound_subnormal {m : Nat} (h : m < 2 ^ f.par.mant) : f.magRound m (1 - f.par.bias - f.par.mant) rnd = m := by
  by_cases zero : m = 0
  · simp [Fmt.magRound, zero]
  · have top : Nat.log2 m < f.par.mant := (Nat.log2_lt zero).2 h
    have grid : ¬ ((1 : Int) - f.par.bias - f.par.mant ≤ 1 - f.par.bias - f.par.mant + Nat.log2 m - f.par.mant) := by omega
    simp only [Fmt.magRound, if_neg zero, if_neg grid, roundInt_same]
    simp

/-- The magnitude code of a normal significand is its stored exponent over its mantissa. -/
theorem magRound_normal {man ex : Nat} (h : man < 2 ^ f.par.mant) (hex : ex ≠ 0) :
    f.magRound (man + 2 ^ f.par.mant) ((ex : Int) - f.par.bias - f.par.mant) rnd = ex * 2 ^ f.par.mant + man := by
  have nonzero : man + 2 ^ f.par.mant ≠ 0 := by have := Nat.two_pow_pos f.par.mant; omega
  have top : Nat.log2 (man + 2 ^ f.par.mant) = f.par.mant :=
    (Nat.log2_eq_iff nonzero).2 ⟨Nat.le_add_left _ _, by rw [Nat.pow_succ]; omega⟩
  have grid : (ex : Int) - f.par.bias - f.par.mant + (f.par.mant : Nat) - f.par.mant = ex - f.par.bias - f.par.mant := by omega
  have least : (1 : Int) - f.par.bias - f.par.mant ≤ ex - f.par.bias - f.par.mant := by omega
  have above : ((ex : Int) - f.par.bias - f.par.mant - (1 - f.par.bias - f.par.mant)).toNat = ex - 1 := by omega
  simp only [Fmt.magRound, if_neg nonzero, top, grid, if_pos least, above, roundInt_same, Nat.shiftLeft_eq]
  obtain ⟨k, rfl⟩ := Nat.exists_eq_succ_of_ne_zero hex
  simp only [Nat.succ_sub_one, Nat.succ_mul]
  omega

/-- A finite magnitude code is that of the significand and exponent that it stands for. -/
theorem magRound_of_mag (mag : Nat) :
    (mag >>> f.par.mant = 0 → f.magRound (mag % 2 ^ f.par.mant) (1 - f.par.bias - f.par.mant) rnd = mag) ∧
    (mag >>> f.par.mant ≠ 0 → f.magRound (mag % 2 ^ f.par.mant + 2 ^ f.par.mant)
      (((mag >>> f.par.mant : Nat) : Int) - f.par.bias - f.par.mant) rnd = mag) := by
  have mantissa : mag % 2 ^ f.par.mant < 2 ^ f.par.mant := Nat.mod_lt _ (Nat.two_pow_pos _)
  have parts : mag >>> f.par.mant * 2 ^ f.par.mant + mag % 2 ^ f.par.mant = mag := by
    rw [Nat.shiftRight_eq_div_pow]
    exact Nat.div_add_mod' mag _
  refine ⟨fun zero => ?_, fun nonzero => ?_⟩
  · rw [magRound_subnormal rnd mantissa]
    simpa [zero] using parts
  · rw [magRound_normal rnd mantissa nonzero, parts]

end

/-- A word is its magnitude code below its sign. -/
theorem mag_add_sign {w k : Nat} (h : w < 2 ^ (k + 1)) : w % 2 ^ k + (if bit w k then 2 ^ k else 0) = w := by
  have quotient : w / 2 ^ k < 2 := Nat.div_lt_of_lt_mul (by rwa [Nat.pow_succ] at h)
  have parts := Nat.div_add_mod' w (2 ^ k)
  have sign : bit w k = decide (w / 2 ^ k = 1) := by
    simp only [bit, Nat.shiftRight_eq_div_pow, Nat.mod_eq_of_lt quotient]
    rfl
  rcases Nat.lt_or_ge (w / 2 ^ k) 1 with zero | one
  · have zero : w / 2 ^ k = 0 := Nat.lt_one_iff.1 zero
    simpa [sign, zero] using parts
  · have one : w / 2 ^ k = 1 := Nat.le_antisymm (Nat.lt_succ_iff.1 quotient) one
    rw [one] at parts
    simp only [sign, one, decide_true, if_true]
    omega

theorem one_le_ebits (f : Fmt) : 1 ≤ f.ebits := by cases f <;> decide

/-- A magnitude code in range converts to itself below the sign. -/
theorem encodeFloat_of_magRound {f : Fmt} {m mag : Nat} {e : Int} {rnd : Rnd} (ns neg : Bool) (h : f.magRound m e rnd = mag)
    (fits : mag ≤ f.par.maxMag) : f.encodeFloat ns rnd (.fin neg m e) = ⟨mag + if neg then 2 ^ (f.ebits - 1) else 0, false⟩ := by
  simp only [Fmt.encodeFloat, h, if_pos fits]

/-- Settles O58: a finite word decodes to a value on its own grid, whose magnitude code is the word's without any rounding. -/
theorem exactValuesNeverChange : Obligations.ExactValuesNeverChange := by
  intro f ns rnd w float fits finite
  have whole : w % 2 ^ (f.ebits - 1) + (if bit w (f.ebits - 1) then 2 ^ (f.ebits - 1) else 0) = w :=
    mag_add_sign (by rwa [Nat.sub_add_cancel (one_le_ebits f)])
  obtain ⟨subnormal, normal⟩ := magRound_of_mag (f := f) rnd (w % 2 ^ (f.ebits - 1))
  unfold Fmt.decode at finite ⊢
  simp only [float, Bool.false_eq_true, if_false] at finite ⊢
  split at finite
  case isTrue range =>
    rw [if_pos range]
    split
    case isTrue zero => rw [encodeFloat_of_magRound ns _ (subnormal zero) range, whole]
    case isFalse nonzero => rw [encodeFloat_of_magRound ns _ (normal nonzero) range, whole]
  case isFalse => split at finite <;> cases finite

end Sys2Proof.Machine
end

section
/-! SUPPORT. The intake of the error log (R520, R521). -/

namespace Sys2Proof.Machine

/-! ## One value for each die -/

@[simp] theorem PerDie.get_upd_same {α : Type} (p : PerDie α) (d : Nat) (f : α → α) : (p.upd d f).get d = f (p.get d) := by
  by_cases h : d = 0 <;> simp [PerDie.upd, PerDie.get, h]

/-! ## An event on its way to the log -/

/-- The entry that unit `u` of die `d` makes of an event (R520). -/
def State.entryOfEvent (s : State) (d u code det : Nat) (i : EvInfo) : EvEntry :=
  ⟨s.tai, code, eventSource d u i.region i.cluster, 1, b2n i.fault * 4 + b2n i.other * 8, i.ctx, det % 2 ^ 64⟩

/-- While no trace capture is recording, an event only goes to the log of its die. -/
theorem raise_of_not_tracing {s : State} (h : s.flag 0 F.dbg_tctl_busy = false) (d u code det : Nat) (i : EvInfo) :
    s.raise d u code det i =
      s.intake (if isPackageUnit u then 0 else d) (s.entryOfEvent (if isPackageUnit u then 0 else d) u code det i) := by
  simp [State.raise, State.traceEvent, State.entryOfEvent, h]

theorem captureFirst_err (s : State) (d : Nat) (e : EvEntry) : (s.captureFirst d e).err = s.err := by
  unfold State.captureFirst
  split <;> rfl

/-- A log with room puts an entry at the end of its FIFO. -/
theorem intake_fifo {s : State} {d : Nat} (on : s.flag d F.err_ctl_en = true) (room : (s.err.get d).fifo.length < 64) (e : EvEntry) :
    ((s.intake d e).err.get d).fifo = (s.err.get d).fifo ++ [e] := by
  simp [State.intake, on, room, captureFirst_err, State.setFld]

theorem intake_of_off {s : State} {d : Nat} (off : s.flag d F.err_ctl_en = false) (e : EvEntry) : s.intake d e = s.loseEvent d := by
  simp [State.intake, off]

/-- The new entry of an open log. -/
theorem raise_fifo {s : State} {d : Nat} (u code det : Nat) (i : EvInfo) (dest : (if isPackageUnit u then 0 else d) = d)
    (opened : s.logOpen d) :
    ((s.raise d u code det i).err.get d).fifo = (s.err.get d).fifo ++ [s.entryOfEvent d u code det i] := by
  obtain ⟨on, room, notTracing⟩ := opened
  rw [raise_of_not_tracing notTracing, dest, intake_fifo on room]

/-! ## A lost event (R521) -/

theorem satAt_eq_min (lim v : Nat) : satAt lim v = min lim v := by
  simp only [satAt]
  split <;> omega

theorem loseEvent_count (s : State) (d : Nat) :
    (s.loseEvent d).fld d F.err_lost_count = min (2 ^ 32 - 1) (s.fld d F.err_lost_count + 1) := by
  have apart : F.err_lost_count.reg.key d 0 ≠ F.err_stat_lost.reg.key d 0 := by
    simp [Reg.key, F.err_lost_count, F.err_stat_lost, R.err_lost, R.err_stat]
  have counted : (s.loseEvent d).fld d F.err_lost_count = (s.count32 d F.err_lost_count).fld d F.err_lost_count :=
    fld_setFld_apart (s.count32 d F.err_lost_count) d F.err_stat_lost 1 0 d F.err_lost_count 0 apart
  rw [counted, State.count32, fld_setFld _ _ _ _ _ (by decide) (by decide), satAt_eq_min]
  exact Nat.mod_eq_of_lt (by simp [F.err_lost_count])

theorem loseEvent_flag (s : State) (d : Nat) : (s.loseEvent d).flag d F.err_stat_lost = true := by
  have set : (s.loseEvent d).fld d F.err_stat_lost = 1 % 2 ^ F.err_stat_lost.n :=
    fld_setFld (s.count32 d F.err_lost_count) d F.err_stat_lost 1 0 (by decide) (by decide)
  rw [State.flag, set]
  rfl

theorem loseEvent_fifo (s : State) (d : Nat) : ((s.loseEvent d).err.get d).fifo = (s.err.get d).fifo := by
  simp [State.loseEvent, State.count32, State.setFld]

/-- Settles O60: an event of a die unit goes to its die's log and one of a package unit to die 0's, which takes it or loses it. -/
theorem logIntake : Obligations.LogIntake := by
  refine ⟨fun s d u code det i _ unit opened => ?die, fun s d u code det i unit opened => ?package,
    fun s d u code det i _ unit off notTracing => ?off⟩
  case die => exact ⟨_, raise_fifo u code det i (by simp [unit]) opened, rfl, rfl, rfl, rfl, rfl, rfl⟩
  case package =>
    have die0 : s.raise d u code det i = s.raise 0 u code det i := by simp [State.raise, unit]
    rw [die0]
    exact ⟨_, raise_fifo u code det i (by simp) opened, rfl, rfl⟩
  case off =>
    rw [raise_of_not_tracing notTracing, unit, if_neg Bool.false_ne_true, intake_of_off off]
    exact ⟨loseEvent_count s d, loseEvent_flag s d, loseEvent_fifo s d⟩

end Sys2Proof.Machine
end

section
/-! SUPPORT. The brake (R653): the throttle of every region, and the registers that show it. -/

namespace Sys2Proof.Machine

/-! ## The throttle in registers -/

/-- The registers of all regions but one are apart from region `r`'s clock register. -/
theorem pwr_rclk_key_ne {r q : Nat} (h : q ≠ r) : F.pwr_rclk_theta.reg.key 0 q ≠ F.pwr_rclk_theta.reg.key 0 r := by
  simp [Reg.key, F.pwr_rclk_theta, R.pwr_rclk, h]

theorem pwr_stat_key_ne_rclk (r : Nat) : R.pwr_stat.key 0 0 ≠ F.pwr_rclk_theta.reg.key 0 r := by
  simp [Reg.key, F.pwr_rclk_theta, R.pwr_rclk, R.pwr_stat]
  omega

theorem pwr_brake_key_ne_rclk (r : Nat) : F.pwr_brake_th.reg.key 0 0 ≠ F.pwr_rclk_theta.reg.key 0 r := by
  simp [Reg.key, F.pwr_rclk_theta, R.pwr_rclk, F.pwr_brake_th, R.pwr_brake]
  omega

/-- The throttle depends on the power controller's state and the two fields of the brake. -/
theorem theta_congr {s t : State} (pwr : t.pwr = s.pwr) (brake : t.flag 0 F.pwr_stat_brake = s.flag 0 F.pwr_stat_brake)
    (level : t.fld 0 F.pwr_brake_th = s.fld 0 F.pwr_brake_th) (r : Nat) : t.theta r = s.theta r := by
  simp only [State.theta, pwr, brake, level]

/-- `t` agrees with `s` on what the throttle depends on. -/
def State.sameThrottle (s t : State) : Prop :=
  t.pwr = s.pwr ∧ t.flag 0 F.pwr_stat_brake = s.flag 0 F.pwr_stat_brake ∧ t.fld 0 F.pwr_brake_th = s.fld 0 F.pwr_brake_th

theorem sameThrottle_theta {s t : State} (h : s.sameThrottle t) (r : Nat) : t.theta r = s.theta r := by
  obtain ⟨pwr, brake, level⟩ := h
  exact theta_congr pwr brake level r

theorem sameThrottle_trans {s t u : State} (h : s.sameThrottle t) (g : t.sameThrottle u) : s.sameThrottle u := by
  obtain ⟨pwr, brake, level⟩ := h
  obtain ⟨pwr', brake', level'⟩ := g
  exact ⟨pwr'.trans pwr, brake'.trans brake, level'.trans level⟩

theorem setFld_rclk_theta_sameThrottle (s : State) (v r : Nat) : s.sameThrottle (s.setFld 0 F.pwr_rclk_theta v r) := by
  refine ⟨rfl, ?_, fld_setFld_apart _ _ _ _ _ _ _ _ (pwr_brake_key_ne_rclk r)⟩
  rw [State.flag, State.flag, fld_setFld_apart _ _ _ _ _ _ F.pwr_stat_brake _ (pwr_stat_key_ne_rclk r)]

theorem setFld_stat_theta_sameThrottle (s : State) (v : Nat) : s.sameThrottle (s.setFld 0 F.pwr_stat_theta v) := by
  refine ⟨rfl, ?_, fld_setFld_apart _ _ _ _ _ _ _ _ (by decide)⟩
  rw [State.flag, State.flag, fld_setFld_beside _ _ F.pwr_stat_theta _ _ F.pwr_stat_brake rfl (by decide) (by decide) (by decide)]

/-- Region after region of a list, its throttle into its register. -/
def State.showRegions (s : State) (l : List Nat) : State := l.foldl (fun s r => s.setFld 0 F.pwr_rclk_theta (s.theta r) r) s

theorem showRegions_sameThrottle (s : State) (l : List Nat) : s.sameThrottle (s.showRegions l) := by
  induction l generalizing s with
  | nil => exact ⟨rfl, rfl, rfl⟩
  | cons r l ih => exact sameThrottle_trans (setFld_rclk_theta_sameThrottle s _ r) (ih _)

/-- A region not in the list keeps what its register shows. -/
theorem showRegions_apart (s : State) (l : List Nat) {r : Nat} (h : r ∉ l) :
    (s.showRegions l).fld 0 F.pwr_rclk_theta r = s.fld 0 F.pwr_rclk_theta r := by
  induction l generalizing s with
  | nil => rfl
  | cons q l ih =>
    obtain ⟨ne, notIn⟩ := not_or.1 (mt List.mem_cons.2 h)
    exact (ih _ notIn).trans (fld_setFld_apart _ _ _ _ _ _ _ _ (pwr_rclk_key_ne ne))

/-- The register of a region in the list shows its throttle. -/
theorem showRegions_shows (s : State) (l : List Nat) {r : Nat} (h : r ∈ l) :
    (s.showRegions l).fld 0 F.pwr_rclk_theta r = s.theta r % 2 ^ F.pwr_rclk_theta.n := by
  induction l generalizing s with
  | nil => cases h
  | cons q l ih =>
    have same := sameThrottle_theta (setFld_rclk_theta_sameThrottle s (s.theta q) q) r
    by_cases later : r ∈ l
    · exact (ih _ later).trans (by rw [same])
    · obtain rfl : r = q := (List.mem_cons.1 h).resolve_right later
      exact (showRegions_apart _ l later).trans (fld_setFld _ _ _ _ _ (by decide) (by decide))

theorem showTheta_eq (s : State) : ∃ v, s.showTheta = (s.showRegions (List.range 16)).setFld 0 F.pwr_stat_theta v := ⟨_, rfl⟩

theorem showTheta_sameThrottle (s : State) : s.sameThrottle s.showTheta := by
  obtain ⟨v, eq⟩ := showTheta_eq s
  rw [eq]
  exact sameThrottle_trans (showRegions_sameThrottle s _) (setFld_stat_theta_sameThrottle _ v)

/-- The clock registers show the throttle of their regions. -/
theorem showTheta_shows (s : State) {r : Nat} (h : r < 16) :
    s.showTheta.fld 0 F.pwr_rclk_theta r = s.showTheta.theta r % 2 ^ F.pwr_rclk_theta.n := by
  rw [sameThrottle_theta (showTheta_sameThrottle s)]
  obtain ⟨v, eq⟩ := showTheta_eq s
  rw [eq, fld_setFld_apart _ _ _ _ _ _ _ _ (pwr_stat_key_ne_rclk r).symm, showRegions_shows s _ (List.mem_range.2 h)]

/-! ## The brake -/

theorem setFld_brake_flag (s : State) (b : Bool) : (s.setFld 0 F.pwr_stat_brake (b2n b)).flag 0 F.pwr_stat_brake = b := by
  rw [State.flag, fld_setFld _ _ _ _ _ (by decide) (by decide)]
  cases b <;> rfl

theorem setFld_brake_level (s : State) (v : Nat) : (s.setFld 0 F.pwr_stat_brake v).fld 0 F.pwr_brake_th = s.fld 0 F.pwr_brake_th :=
  fld_setFld_apart _ _ _ _ _ _ _ _ (by decide)

/-- Settles O46: the throttle counts the brake's level while the brake's flag is set, and showing it changes nothing that it depends on. -/
theorem brakeThrottlesEveryRegion : Obligations.BrakeThrottlesEveryRegion := by
  refine ⟨fun s => ?asserted, fun s => ?released⟩
  case asserted =>
    let t : State := (s.setFld 0 F.pwr_stat_brake 1).updPwr fun x => { x with phi := 0 }
    have on : t.flag 0 F.pwr_stat_brake = true := setFld_brake_flag s true
    have level : t.fld 0 F.pwr_brake_th = s.fld 0 F.pwr_brake_th := setFld_brake_level s 1
    have same := showTheta_sameThrottle t
    refine ⟨_, rfl, same.2.1.trans on, same.1, fun r => ?_, fun r hr => showTheta_shows t hr⟩
    rw [sameThrottle_theta same, State.theta, on, level]
    rfl
  case released =>
    let t : State := s.setFld 0 F.pwr_stat_brake 0
    have off : t.flag 0 F.pwr_stat_brake = false := setFld_brake_flag s false
    have same := showTheta_sameThrottle t
    refine ⟨_, rfl, same.2.1.trans off, same.1, fun r => ?_, fun r hr => showTheta_shows t hr⟩
    rw [sameThrottle_theta same, State.theta, off]
    exact Nat.max_zero _

end Sys2Proof.Machine
end

section
/-! SUPPORT. Slots and their scalar registers, what decoding a word changes, and the frame of the scalar words (R132, R140). -/

namespace Sys2Proof.Machine

/-! ## Elements of lists and entries of association lists -/

/-- Nothing is changed where a list has no element. -/
theorem listMod_of_length_le {α : Type} {l : List α} {i : Nat} (f : α → α) (h : l.length ≤ i) : listMod l i f = l := by
  induction l generalizing i with
  | nil => rfl
  | cons a l ih =>
    cases i with
    | zero => cases h
    | succ i => exact congrArg (a :: ·) (ih (Nat.le_of_succ_le_succ h))

/-- An element other than the one changed reads as before. -/
theorem listMod_getD_apart {α : Type} (l : List α) {i j : Nat} (f : α → α) (x : α) (h : j ≠ i) :
    (listMod l i f).getD j x = l.getD j x := by
  rcases Nat.lt_or_ge i l.length with inside | outside
  · rw [listMod_getD l i j f x inside, if_neg h]
  · rw [listMod_of_length_le f outside]

/-- What holds of the element changed and of the default holds of what is read. -/
theorem listMod_getD_rel {α β : Type} (l : List α) (i : Nat) (f : α → α) (x : α) (g : α → β) (h : ∀ y, g (f y) = g y) :
    g ((listMod l i f).getD i x) = g (l.getD i x) := by
  rcases Nat.lt_or_ge i l.length with inside | outside
  · rw [listMod_getD_same f x inside, h]
  · rw [listMod_of_length_le f outside]

section
variable {α : Type} {k n : Nat} (l : List (Nat × α)) (h : n ≠ k)
include h

/-- Another key is bound as before. -/
theorem assocGet_assocPut_apart (v : α) : assocGet n (assocPut k v l) = assocGet n l := by
  induction l with
  | nil => simp [assocPut, assocGet, h.symm]
  | cons e r ih =>
    rcases Nat.lt_trichotomy k e.1 with lt | rfl | gt
    · simp [assocPut, assocGet, lt, h.symm]
    · simp [assocPut, assocGet, h.symm]
    · simp [assocPut, assocGet, Nat.lt_asymm gt, Nat.ne_of_gt gt, ih]

theorem assocGet_assocDel_apart : assocGet n (assocDel k l) = assocGet n l := by
  induction l with
  | nil => rfl
  | cons e r ih =>
    by_cases same : e.1 = k
    · simp [assocDel, assocGet, same, h.symm]
    · simp [assocDel, assocGet, same, ih]

end

/-! ## Scalar registers -/

/-- Another scalar register reads as before. -/
theorem sreg_setSreg_apart (x : Slot) {n m : Nat} (v : Nat) (h : n ≠ m) : (x.setSreg m v).sreg n = x.sreg n := by
  have kept : assocGet n (if v % 2 ^ 64 = 0 then assocDel m x.sr else assocPut m (v % 2 ^ 64) x.sr) = assocGet n x.sr := by
    split
    · exact assocGet_assocDel_apart _ h
    · exact assocGet_assocPut_apart _ h _
  unfold Slot.setSreg
  split
  · rfl
  · simp only [Slot.sreg, kept]

/-- A write of a scalar register changes the list of their values alone. -/
theorem setSreg_eq (x : Slot) (n v : Nat) : ∃ l, x.setSreg n v = { x with sr := l } := by
  unfold Slot.setSreg
  split
  · exact ⟨_, rfl⟩
  · exact ⟨_, rfl⟩

/-! ## Slots of a state -/

/-- A change of a region that keeps its slots leaves every slot. -/
theorem slot_updRg (s : State) (r : Nat) {f : Region → Region} (h : ∀ g, (f g).slots = g.slots) (q l : Nat) :
    (s.updRg r f).slot q l = s.slot q l := by
  simp only [State.slot, State.rg, updRg_regions]
  by_cases same : q = r
  · subst same
    rw [listMod_getD_rel s.regions q f Region.reset Region.slots h]
  · rw [listMod_getD_apart _ _ _ same]

/-- A change of a slot leaves every other slot. -/
theorem slot_updSlot_apart (s : State) {r k q l : Nat} (f : Slot → Slot) (h : (q, l) ≠ (r, k)) :
    (s.updSlot r k f).slot q l = s.slot q l := by
  by_cases region : q = r
  · subst region
    have slot : l ≠ k := fun same => h (by rw [same])
    simp only [State.slot, State.rg, State.updSlot, updRg_regions]
    exact listMod_getD_rel s.regions q _ Region.reset (·.slots.getD l Slot.reset) fun g => listMod_getD_apart _ _ _ slot
  · simp only [State.slot, State.rg, State.updSlot, updRg_regions, listMod_getD_apart _ _ _ region]

/-! ## Decoding -/

/-- A slot that decodes is running. -/
theorem running_of_decodes {s : State} {r k : Nat} (h : s.decodes r k = true) : (s.slot r k).st = .running := by
  simp only [State.decodes, Slot.ready, Bool.and_eq_true, decide_eq_true_eq] at h
  exact h.1.2.1.1

/-- What decoding the word `w` makes of its slot (R132). -/
def State.afterWord (s : State) (w : Nat) (y : Slot) : Slot :=
  { y with
    pc := (y.pc + 16) % 2 ^ 48
    words := y.words + 1
    firstClk := if y.words = 0 then s.clk else y.firstClk
    progDig := y.progDig.map fun p => digestWord (s.ctxField y.ctx 0x28 16) p w }

/-- The region that decodes, with the line used and the slot made the most recent. -/
def Region.recent (ctx pc k : Nat) (g : Region) : Region :=
  { (g.touch ctx pc) with recency := (g.recency.filter fun n => n ≠ k) ++ [k] }

theorem recent_slots (ctx pc k : Nat) (g : Region) : (g.recent ctx pc k).slots = g.slots := by
  unfold Region.recent Region.touch
  split <;> rfl

/-- The state with a word decoded, before it is counted and traced. -/
def State.wordTaken (s : State) (r k w : Nat) : State :=
  (s.updRg r (Region.recent (s.slot r k).ctx (s.slot r k).pc k)).updSlot r k (s.afterWord w)

theorem traceWord_sameButLog (s : State) (r k va ctx w : Nat) (ks : List Nat) : s.sameButLog (s.traceWord r k va ctx w) ks := by
  unfold State.traceWord
  split
  · exact traceTake_sameButLog _ _ _
  · exact sameButLog_refl _ _

/-- Counting and tracing a word changes the word tally, its overflow field, the log and a trace capture. -/
theorem wordTaken_sameButLog (s : State) {r : Nat} (k w : Nat) (hr : r < 16) : (s.wordTaken r k w).sameButLog (s.decoded r k w)
    [R.dlr_t_word.key (dieOfRegion r) (r % 8), F.dlr_tally_ovf_ovf.reg.key (dieOfRegion r) 0] := by
  have die : dieOfRegion r < 2 := by simp only [dieOfRegion]; omega
  have unit : tallyUnit R.dlr_t_word.unit = some (F.dlr_tally_ovf_ovf, 0x4010) := rfl
  refine sameButLog_trans (t := (s.wordTaken r k w).tally (dieOfRegion r) R.dlr_t_word (r % 8)) ?_ (traceWord_sameButLog ..)
  refine tally_sameButLog _ _ _ _ _ _ die (by simp) fun f c of => ?_
  cases unit.symm.trans of
  simp

/-- Apart from the regions, decoding changes the word tally, its overflow field, the log and a trace capture. -/
theorem decoded_sameButLog (s : State) {r : Nat} (k w : Nat) (hr : r < 16) :
    s.sameButLog { s.decoded r k w with regions := s.regions }
      [R.dlr_t_word.key (dieOfRegion r) (r % 8), F.dlr_tally_ovf_ovf.reg.key (dieOfRegion r) 0] := by
  obtain ⟨eq, keys⟩ := wordTaken_sameButLog s k w hr
  exact ⟨by rw [eq]; rfl, keys⟩

theorem decoded_regions (s : State) {r : Nat} (k w : Nat) (hr : r < 16) : (s.decoded r k w).regions = (s.wordTaken r k w).regions := by
  rw [(wordTaken_sameButLog s k w hr).1]

theorem decoded_mem (s : State) {r : Nat} (k w : Nat) (hr : r < 16) : (s.decoded r k w).mem = s.mem := by
  rw [(wordTaken_sameButLog s k w hr).1]
  rfl

theorem decoded_clusters (s : State) {r : Nat} (k w : Nat) (hr : r < 16) : (s.decoded r k w).clusters = s.clusters := by
  rw [(wordTaken_sameButLog s k w hr).1]
  rfl

theorem decoded_slot_apart (s : State) {r k q l : Nat} (w : Nat) (hr : r < 16) (h : (q, l) ≠ (r, k)) :
    (s.decoded r k w).slot q l = s.slot q l := by
  rw [slot_congr (decoded_regions s k w hr), State.wordTaken, slot_updSlot_apart _ _ h, slot_updRg _ _ (recent_slots _ _ _)]

/-- The slot that decodes has its pc behind the word. -/
theorem decoded_slot_same {s : State} {r k : Nat} (w : Nat) (hr : r < 16) (h : s.decodes r k = true) :
    (s.decoded r k w).slot r k = s.afterWord w (s.slot r k) := by
  have before := slot_updRg s r (recent_slots (s.slot r k).ctx (s.slot r k).pc k) r k
  rw [slot_congr (decoded_regions s k w hr), State.wordTaken, slot_updSlot_same, before]
  simp [before, running_of_decodes h]

/-! ## The scalar words -/

/-- A clean scalar word writes a value that its operation makes into its destination. -/
theorem sregOp_fetched {s : State} {r k : Nat} {o : Op} {w : Nat} (h : s.fetched r k o w) (clean : sregClean w = true)
    (f : Nat → Nat → Nat) : s.sregOp r k o f = .next ((s.decoded r k w).updSlot r k fun y => y.setSreg (bits w 115 5)
      (f (((s.decoded r k w).slot r k).sreg (bits w 110 5)) (sregB ((s.decoded r k w).slot r k) w))) := by
  rw [State.sregOp, onWord_fetched h]
  simp [clean]

/-- The scalar words with their operations (R140). -/
def scalarWords (r : Fin 16) (k : Fin 4) : List (Instr × Op) :=
  [(.add r k, .add), (.sub r k, .sub), (.mul r k, .mul), (.and r k, .and), (.or r k, .or), (.shl r k, .shl), (.shr r k, .shr),
    (.min r k, .min), (.max r k, .max)]

theorem exec_scalarWord {r : Fin 16} {k : Fin 4} {c : Instr} {o : Op} (s : State) (h : (c, o) ∈ scalarWords r k) :
    ∃ f, exec c s = s.sregOp r k o f := by
  simp only [scalarWords, List.mem_cons, Prod.mk.injEq, List.not_mem_nil, or_false] at h
  rcases h with ⟨rfl, rfl⟩ | ⟨rfl, rfl⟩ | ⟨rfl, rfl⟩ | ⟨rfl, rfl⟩ | ⟨rfl, rfl⟩ | ⟨rfl, rfl⟩ | ⟨rfl, rfl⟩ | ⟨rfl, rfl⟩ | ⟨rfl, rfl⟩
  all_goals
    simp only [exec, execAdd, execSub, execMul, execAnd, execOr, execShl, execShr, execMin, execMax]
    exact ⟨_, rfl⟩

/-- Settles O47: decoding changes the slot's pc and counts, the tally and the log, and the operation then writes one scalar register. -/
theorem wordFrame : Obligations.WordFrame := by
  intro s t r k c o w fetched clean _ scalar answered
  obtain ⟨f, operation⟩ := exec_scalarWord s scalar
  have decodes : s.decodes r k = true := fetched.1
  rw [operation, sregOp_fetched fetched clean] at answered
  generalize f _ _ = v at answered
  obtain rfl := Host.Outcome.next.inj answered
  have frame := decoded_sameButLog s k.val w r.isLt
  have mem : (s.decoded r k w).mem = s.mem := decoded_mem s k w r.isLt
  have slot : ((s.decoded r k w).updSlot r k fun y => y.setSreg (bits w 115 5) v).slot r k =
      (s.afterWord w (s.slot r k)).setSreg (bits w 115 5) v := by
    rw [slot_updSlot_same, decoded_slot_same w r.isLt decodes]
    simp [decoded_slot_same w r.isLt decodes, State.afterWord, running_of_decodes decodes]
  obtain ⟨l, written⟩ := setSreg_eq (s.afterWord w (s.slot r k)) (bits w 115 5) v
  refine ⟨fun a => ?memory, decoded_clusters s k w r.isLt, mem, fun q l ne => ?others, fun n ne => ?registers, rfl, ?flags, ?desc, ?loops, frame⟩
  case memory => exact congrArg (fun m => cellAt a m.cells) mem
  case others => rw [slot_updSlot_apart _ _ ne, decoded_slot_apart s w r.isLt ne]
  case registers =>
    rw [slot, sreg_setSreg_apart _ _ ne]
    rfl
  case flags =>
    rw [slot, written]
    rfl
  case desc =>
    rw [slot, written]
    rfl
  case loops =>
    rw [slot, written]
    rfl

end Sys2Proof.Machine
end

section
/-! SUPPORT. The frame of the training events of a link (R295, R301). -/

namespace Sys2Proof.Machine

/-! ## States that agree but for registers -/

theorem sameBut_refl (s : State) (ks : List Nat) : s.sameBut s ks := ⟨rfl, fun _ _ => rfl⟩

theorem sameBut_trans {s t u : State} {ks : List Nat} (h : s.sameBut t ks) (g : t.sameBut u ks) : s.sameBut u ks := by
  obtain ⟨eq, keys⟩ := h
  obtain ⟨eq', keys'⟩ := g
  refine ⟨?_, fun k out => (keys' k out).trans (keys k out)⟩
  rw [eq']
  conv_lhs => rw [eq]

theorem setFld_sameBut (s : State) (d : Nat) (f : Fld) (v i : Nat) {ks : List Nat} (h : f.reg.key d i ∈ ks) :
    s.sameBut (s.setFld d f v i) ks := by
  refine ⟨rfl, fun k out => ?_⟩
  have apart : k ≠ f.reg.key d i := fun same => out (same ▸ h)
  simp [State.setFld, assocGet_csrPut, apart]

/-! ## The fields of `lnk.stat` -/

/-- What a training event may do to the registers of link `i` of die `d`: it writes `lnk.stat` alone, and there the state and the
lanes. -/
def State.trains (s t : State) (d i : Nat) : Prop := s.sameBut t [R.lnk_stat.key d i] ∧ s.sameLnkStat t d i

theorem trains_refl (s : State) (d i : Nat) : s.trains s d i := ⟨sameBut_refl _ _, fun _ _ _ _ _ _ _ => rfl⟩

theorem trains_trans {s t u : State} {d i : Nat} (h : s.trains t d i) (g : t.trains u d i) : s.trains u d i :=
  ⟨sameBut_trans h.1 g.1, fun f r st la bl bs fits => (g.2 f r st la bl bs fits).trans (h.2 f r st la bl bs fits)⟩

theorem trains_sameMemory {s t : State} {d i : Nat} (h : s.trains t d i) : s.sameMemory t := by
  intro a
  rw [h.1.1]
  rfl

theorem setLink_trains (s : State) (d i n : Nat) : s.trains (s.setLink d i n) d i :=
  ⟨setFld_sameBut _ _ _ _ _ (List.mem_singleton.2 rfl), fun f reg _ _ _ beside fits =>
    fld_setFld_beside s d F.lnk_stat_state n i f reg beside fits (by decide)⟩

theorem setLanes_trains (s : State) (d i n : Nat) : s.trains (s.setFld d F.lnk_stat_lanes n i) d i :=
  ⟨setFld_sameBut _ _ _ _ _ (List.mem_singleton.2 rfl), fun f reg _ _ beside _ fits =>
    fld_setFld_beside s d F.lnk_stat_lanes n i f reg beside fits (by decide)⟩

/-! ## The end of alignment -/

theorem lnk_peer_key_ne (d i : Nat) (hi : i < 18) : R.lnk_peer.key d i ≠ F.lnk_stat_state.reg.key d i := by
  simp [Reg.key, R.lnk_peer, F.lnk_stat_state, R.lnk_stat]
  omega

theorem boot_devid_key_ne (d i : Nat) : F.boot_devid_local.reg.key 0 0 ≠ F.lnk_stat_state.reg.key d i := by
  simp [Reg.key, F.boot_devid_local, R.boot_devid, F.lnk_stat_state, R.lnk_stat]
  omega

theorem ownNode_setLink (s : State) (d i n : Nat) : (s.setLink d i n).ownNode d = s.ownNode d := by
  simp only [State.ownNode, State.setLink, fld_setFld_apart _ _ _ _ _ _ _ _ (boot_devid_key_ne d i)]

/-- PEER latches the expected pair and sends this end's. -/
theorem enterPeer_eq (s : State) (d i : Nat) :
    s.enterPeer d i = { s with
      fab := (s.updLk d i fun l => { l with atPeer := s.linkState d i = 6, peer := s.reg d R.lnk_peer i }).fab
      out := .peer d i (s.ownNode d) :: s.out } := rfl

/-! ## A failed training -/

/-- A fold that no element changes ends where it began. -/
theorem foldl_eq_self {α β : Type} {f : β → α → β} {l : List α} {b : β} (h : ∀ x ∈ l, f b x = b) : l.foldl f b = b := by
  induction l with
  | nil => rfl
  | cons x l ih => rw [List.foldl_cons, h x (List.mem_cons_self ..), ih fun y hy => h y (List.mem_cons_of_mem x hy)]

/-- Nothing is settled of a link that nothing waits for. -/
theorem settle_of_idle {s : State} {d i : Nat} (n : Nat) (reqs : ∀ x ∈ (s.fb d).reqs, x.link = i → x.status.isSome = true)
    (sends : ∀ c ∈ (s.fb d).colls, ∀ x ∈ c.sends, x.begun = true → x.via = i → x.acked = true) : s.settle d i n [] [] = s := by
  have noSteps : s.settleColls d i [] = s := by
    refine foldl_eq_self fun c hc => ?_
    have none_ : (c.sends.zipIdx.filter fun x => x.1.begun && !x.1.acked && decide (x.1.via = i)) = [] := by
      refine List.filter_eq_nil_iff.2 fun x hx => ?_
      have acked := sends c hc x.1 (List.fst_mem_of_mem_zipIdx hx)
      simp only [Bool.and_eq_true, decide_eq_true_eq, Bool.not_eq_true', not_and]
      intro pending via
      simp [acked pending.1 via] at pending
    rw [none_]
    rfl
  have noReqs : ((s.fb d).reqs.filter fun x => decide (x.link = i) && x.status.isNone) = [] := by
    refine List.filter_eq_nil_iff.2 fun x hx => ?_
    simp only [Bool.and_eq_true, decide_eq_true_eq, not_and]
    intro link
    simp [Option.isSome_iff_ne_none.1 (reqs x hx link)]
  simp [State.settle, holdSplit, noSteps, noReqs]

theorem trainFails_of_idle {s : State} {d : Fin 2} {i : Nat} (h : s.linkIdle d i) :
    s.trainFails d i = ((s.setLink d i 0).setFld d F.lnk_stat_lanes 0 i).updLk d i fun _ => Lk.fresh := by
  obtain ⟨queue, back, reqs, sends⟩ := h
  unfold State.trainFails
  dsimp only
  rw [queue, back]
  refine settle_of_idle i (fun x hx => reqs x ?_) (fun c hc => sends c ?_)
  · simpa [State.fb, State.updLk, State.setLink, State.setFld] using hx
  · simpa [State.fb, State.updLk, State.setLink, State.setFld] using hc

/-- Settles O48: the events write `lnk.stat` and, in PEER and after a failed training, the link's own state. -/
theorem linkTrainingFrame : Obligations.LinkTrainingFrame := by
  refine ⟨fun s t d i answered => ?eq, fun s t d i answered => ?align, fun s t d i c event idle answered => ?timeout⟩
  case eq =>
    have frame : s.trains t d i := by
      change execLinkEqDone d i s = _ at answered
      unfold execLinkEqDone at answered
      split at answered <;> cases answered
      · exact trains_refl s d i
      · exact trains_trans (setLink_trains s d i 3) (setLanes_trains _ d i 0xFFF)
    exact ⟨trains_sameMemory frame, frame⟩
  case align =>
    change execLinkAlignDone d i s = _ at answered
    unfold execLinkAlignDone at answered
    split at answered
    case isTrue retrain =>
      cases answered
      have frame := trains_refl s d i
      exact ⟨fun _ => rfl, frame.1, frame.2, .inr ⟨_, rfl, rfl⟩⟩
    case isFalse =>
      split at answered <;> cases answered
      · have frame := trains_refl s d i
        exact ⟨fun _ => rfl, frame.1, frame.2, .inl ⟨rfl, rfl⟩⟩
      · have frame := setLink_trains s d i 4
        have pair : (s.setLink d i 4).reg d R.lnk_peer i = s.reg d R.lnk_peer i :=
          reg_setFld_apart _ _ _ _ _ _ _ _ (lnk_peer_key_ne d i i.isLt)
        have node : (s.setLink d i 4).ownNode d = s.ownNode d := ownNode_setLink s d i 4
        refine ⟨fun _ => rfl, frame.1, frame.2, .inr ⟨decide ((s.setLink d i 4).linkState d i = 6), ?_, ?_⟩⟩
        · rw [enterPeer_eq, pair]
          rfl
        · rw [enterPeer_eq, node]
          rfl
  case timeout =>
    have done : t = s ∨ t = s.trainFails d i := by
      simp only [List.mem_cons, List.not_mem_nil, or_false] at event
      rcases event with rfl | rfl
      all_goals
        simp only [exec, execLinkEqTimeout, execLinkAlignTimeout] at answered
        split at answered <;> cases answered
        · exact .inl rfl
        · exact .inr rfl
    rcases done with rfl | rfl
    · have frame := trains_refl t d i
      exact ⟨fun _ => rfl, frame.1, frame.2, .inl rfl⟩
    · have frame := trains_trans (setLink_trains s d i 0) (setLanes_trains _ d i 0)
      rw [trainFails_of_idle idle]
      exact ⟨fun _ => rfl, frame.1, frame.2, .inr rfl⟩

end Sys2Proof.Machine
end

section
/-! SUPPORT. Writes of stacked SRAM: what decides where the bytes of a write go is kept by every operation of a write, and a
write by pieces stores each byte at its address. -/

namespace Sys2Proof.Machine

/-! ## What decides where a write goes -/

/-- The keys of the registers that say whether the bridge is down and which slices are carved. -/
def sramKeys : List Nat := [R.brg_stat.key 0 0, R.pwr_stat.key 0 0, R.sram_carve.key 0 0, R.sram_carve.key 1 0]

/-- The bridge is down in `t` if it is in `s`, and the same slices are carved. -/
structure State.sramMap (s t : State) : Prop where
  regs : ∀ k ∈ sramKeys, assocGet k t.csr = assocGet k s.csr
  carve : ∀ d, (t.memd.get d).carve = (s.memd.get d).carve

/-- `t` carves and reaches what `s` does and holds the bytes of `s`. -/
def State.sramFrame (s t : State) : Prop := s.sramMap t ∧ s.sameMemory t

/-- `t` carves and reaches what `s` does, and holds `g` at the `n` addresses from `a` and the bytes of `s` elsewhere. -/
def State.stores (s t : State) (g : Nat → Byte) (a n : Nat) : Prop :=
  s.sramMap t ∧ ∀ x, t.byte x = if a ≤ x ∧ x < a + n then g x else s.byte x

theorem sramMap_refl (s : State) : s.sramMap s := ⟨fun _ _ => rfl, fun _ => rfl⟩

theorem sramMap_trans {s t u : State} (h : s.sramMap t) (g : t.sramMap u) : s.sramMap u :=
  ⟨fun k hk => (g.regs k hk).trans (h.regs k hk), fun d => (g.carve d).trans (h.carve d)⟩

theorem sramFrame_refl (s : State) : s.sramFrame s := ⟨sramMap_refl s, fun _ => rfl⟩

theorem sramFrame_trans {s t u : State} (h : s.sramFrame t) (g : t.sramFrame u) : s.sramFrame u :=
  ⟨sramMap_trans h.1 g.1, fun a => (g.2 a).trans (h.2 a)⟩

theorem sramFrame_ite {s t u : State} {c : Prop} [Decidable c] (h : s.sramFrame t) (g : s.sramFrame u) :
    s.sramFrame (if c then t else u) := by
  split
  · exact h
  · exact g

theorem stores_of_frame {s t u : State} {g : Nat → Byte} {a n : Nat} (h : s.sramFrame t) (k : t.stores u g a n) : s.stores u g a n :=
  ⟨sramMap_trans h.1 k.1, fun x => by rw [k.2 x, h.2 x]⟩

theorem sramMap_reg {s t : State} (h : s.sramMap t) {d : Nat} {r : Reg} (k : r.key d 0 ∈ sramKeys) : t.reg d r 0 = s.reg d r 0 := by
  simp only [State.reg, h.regs _ k]

theorem sramMap_bridgeDown {s t : State} (h : s.sramMap t) : t.bridgeDown = s.bridgeDown := by
  have stat : t.reg 0 R.brg_stat 0 = s.reg 0 R.brg_stat 0 := sramMap_reg h (by decide)
  have trip : t.reg 0 R.pwr_stat 0 = s.reg 0 R.pwr_stat 0 := sramMap_reg h (by decide)
  simp only [State.bridgeDown, State.tripped, State.flag, State.fld, F.brg_stat_up, F.brg_stat_tries, F.pwr_stat_trip, stat, trip]
  rfl

theorem isHbm_of_isSram {a : Nat} (h : isSram a = true) : isHbm a = false := by
  simp only [isSram, decide_eq_true_eq] at h
  have : ¬ a < 2 * hbmHalf := by unfold hbmHalf; omega
  simpa only [isHbm, decide_eq_false_iff_not] using this

/-- Carving is kept for an address of a die of this package, as every address of stacked SRAM is. -/
theorem ownerDie_lt_of_isSram {a : Nat} (h : isSram a = true) : ownerDie a < 2 := by
  have hbm := isHbm_of_isSram h
  simp only [ownerDie, h, hbm, if_true, Bool.false_eq_true, if_false]
  simp only [isSram, decide_eq_true_eq] at h
  omega

theorem sramMap_isCarved {s t : State} (h : s.sramMap t) (a : Nat) : t.isCarved a = s.isCarved a := by
  unfold State.isCarved
  cases sram : isSram a with
  | false => rfl
  | true =>
    have carve : ∀ d < 2, t.reg d R.sram_carve 0 = s.reg d R.sram_carve 0 := by
      intro d hd
      exact sramMap_reg h (by interval_cases d <;> decide)
    simp only [State.carved, State.flag, State.fld, F.sram_carve_busy, F.sram_carve_size, h.carve, carve _ (ownerDie_lt_of_isSram sram)]
    rfl

theorem isSram_of_isCarved {s : State} {a : Nat} (h : s.isCarved a = true) : isSram a = true := by
  simp only [State.isCarved, Bool.and_eq_true] at h; exact h.1

theorem isSram_of_isReserved {a : Nat} (h : isReserved a = true) : isSram a = true := by
  simp only [isReserved, Bool.and_eq_true] at h; exact h.1

/-! ## The operations of a write keep it -/

theorem sramFrame_of_sameButLog {s t : State} {ks : List Nat} (h : s.sameButLog t ks) (apart : ∀ k ∈ sramKeys, k ∉ ks) :
    s.sramFrame t := by
  refine ⟨⟨fun k hk => h.2 k (apart k hk) ?_ ?_, fun d => by rw [h.1]⟩, sameMemory_of_sameButLog h⟩
  · revert k; decide
  · revert k; decide

theorem tally_sramFrame (s : State) (d : Nat) (r : Reg) (n : Nat) (hd : d < 2)
    (apart : ∀ d < 2, ∀ k ∈ sramKeys, k ∉ r.key d 0 :: ((tallyUnit r.unit).map fun p => p.1.reg.key d 0).toList) :
    s.sramFrame (s.tally d r 0 n) :=
  sramFrame_of_sameButLog (tally_sameButLog s d r 0 n _ hd (by simp) fun f c e => by simp [e]) (apart d hd)

theorem count32_sramFrame (s : State) (d : Nat) (f : Fld) (n : Nat) (hd : d < 2)
    (apart : ∀ d < 2, ∀ k ∈ sramKeys, k ∉ [f.reg.key d 0]) : s.sramFrame (s.count32 d f n) :=
  sramFrame_of_sameButLog (count32_sameButLog s d f n 0 [f.reg.key d 0] (by simp)) (apart d hd)

theorem raise_sramFrame (s : State) (d u code det : Nat) (i : EvInfo) (hd : d < 2) : s.sramFrame (s.raise d u code det i) :=
  sramFrame_of_sameButLog (raise_sameButLog s d u code det i [] hd) (by simp)

theorem recordFirst_sramFrame (s : State) (d v : Nat) (hd : d < 2) :
    s.sramFrame (s.recordFirst d F.sram_ue_first_valid v) :=
  sramFrame_of_sameButLog (recordFirst_sameButLog s d _ v 0 [F.sram_ue_first_valid.reg.key d 0] (by simp))
    (by interval_cases d <;> decide)

theorem updRec_sramFrame (s : State) (d : Nat) (f : RecDie → RecDie) : s.sramFrame (s.updRec d f) :=
  ⟨⟨fun _ _ => rfl, fun _ => rfl⟩, fun _ => rfl⟩

/-- Marks of the memory are not its bytes. -/
theorem mem_sramFrame (s : State) {m : MemState} (h : m.cells = s.mem.cells) : s.sramFrame { s with mem := m } :=
  ⟨⟨fun _ _ => rfl, fun _ => rfl⟩, fun a => by simp only [State.byte, h]⟩

theorem updMem_sramFrame (s : State) (d : Nat) {f : MemDie → MemDie} (h : ∀ m, (f m).carve = m.carve) : s.sramFrame (s.updMem d f) := by
  refine ⟨⟨fun _ _ => rfl, fun e => ?_⟩, fun _ => rfl⟩
  show ((s.memd.upd d f).get e).carve = _
  unfold PerDie.get PerDie.upd
  split <;> split <;> simp only [h]

theorem warn_sramFrame (s : State) (d code : Nat) (hd : d < 2) : s.sramFrame (s.warn d code) := by
  unfold State.warn
  split
  · exact sramFrame_refl s
  · dsimp only
    have raised : s.sramFrame ((s.tally d R.rec_t_warn).raise
        (if s.fld d F.rec_stat_rc = 1 || s.fld d F.rec_stat_rc = 2 then d else 1 - d) 0x15 0x8001 (code + 256 * d)) :=
      sramFrame_trans (tally_sramFrame s d _ _ hd (by decide)) (raise_sramFrame _ _ _ _ _ _ (by split <;> omega))
    generalize (s.tally d R.rec_t_warn).raise _ _ _ _ = u at raised ⊢
    exact sramFrame_trans raised (sramFrame_ite ⟨⟨fun _ _ => rfl, fun _ => rfl⟩, fun _ => rfl⟩ (sramFrame_refl _))

theorem sramCe_sramFrame (s : State) {a : Nat} (h : isSram a = true) : s.sramFrame (s.sramCe a) := by
  have hd := ownerDie_lt_of_isSram h
  simp only [State.sramCe, h, if_true, State.warnSram]
  exact sramFrame_trans (count32_sramFrame s (ownerDie a) F.sram_ce_count 1 hd (by decide))
    (sramFrame_ite (sramFrame_trans (updRec_sramFrame _ _ _) (warn_sramFrame _ _ _ hd)) (updRec_sramFrame _ _ _))

theorem sramUe_sramFrame (s : State) {a : Nat} (h : isSram a = true) : s.sramFrame (s.sramUe a) := by
  have hd := ownerDie_lt_of_isSram h
  simp only [State.sramUe, h, if_true]
  exact sramFrame_trans (count32_sramFrame s _ _ _ hd (by decide))
    (sramFrame_trans (recordFirst_sramFrame _ _ _ hd) (raise_sramFrame _ _ _ _ _ _ hd))

theorem isSram_granule {a : Nat} (h : isSram a = true) : isSram (64 * (a / 64)) = true := by
  simp [isSram] at h ⊢; omega

theorem sramDecode_sramFrame (s : State) {a : Nat} (ecc : Ecc) (h : isSram a = true) : s.sramFrame (s.sramDecode a ecc).1 := by
  have line := isSram_granule h
  simp only [State.sramDecode]
  split
  · exact sramFrame_refl s
  · split
    · exact sramUe_sramFrame s line
    · cases ecc with
      | clean => exact sramFrame_refl s
      | corrected => exact sramCe_sramFrame s line
      | uncorrectable =>
        exact sramFrame_trans (mem_sramFrame s (m := { s.mem with ue := markSet true (a / 64) s.mem.ue }) rfl) (sramUe_sramFrame _ line)
      | asPoison => exact mem_sramFrame s rfl

theorem crossed_sramFrame (s : State) (d a n : Nat) (hd : d < 2) : s.sramFrame (s.crossed d a n) := by
  unfold State.crossed
  split <;> exact tally_sramFrame s d _ _ hd (by decide)

theorem bankWait_sramFrame (s : State) {a : Nat} (beside : List Nat) (h : isSram a = true) : s.sramFrame (s.bankWait a beside) := by
  simp only [State.bankWait]
  split
  · exact sramFrame_refl s
  · exact tally_sramFrame s _ _ _ (ownerDie_lt_of_isSram h) (by decide)

theorem carveHit_sramFrame (s : State) {a : Nat} (h : isSram a = true) : s.sramFrame (s.carveHit a) := by
  have hd := ownerDie_lt_of_isSram h
  simp only [State.carveHit]
  refine sramFrame_trans (count32_sramFrame s (ownerDie a) F.sram_carve_hit_count 1 hd (by decide)) ?_
  generalize s.count32 (ownerDie a) F.sram_carve_hit_count = u
  split
  · exact sramFrame_refl u
  · exact sramFrame_trans (updMem_sramFrame u _ (f := fun m => { m with carveSeen := true }) fun _ => rfl) (raise_sramFrame _ _ _ _ _ _ hd)

theorem carveNote_sramFrame (s : State) (d : Nat) (l : List (Nat × Nat)) : s.sramFrame (s.carveNote d l) := by
  unfold State.carveNote
  split
  · next b found =>
    have carved : s.isCarved b.1 = true := by
      have := List.find?_some found
      simp only [Bool.and_eq_true] at this; exact this.1
    exact carveHit_sramFrame s (isSram_of_isCarved carved)
  · exact sramFrame_refl s

theorem writeNote_sramFrame (s : State) (d : Nat) (l : List (Nat × Nat)) (org : Origin) : s.sramFrame (s.writeNote d l org) := by
  simp only [State.writeNote]
  split
  · next b found =>
    have reserved : isReserved b.1 = true := by
      have := List.find?_some found
      simp only [decide_eq_true_eq] at this; exact this.2.1
    have hd := ownerDie_lt_of_isSram (isSram_of_isReserved reserved)
    exact sramFrame_trans (carveNote_sramFrame s d l) (sramFrame_trans (count32_sramFrame _ _ _ _ hd (by decide))
      (raise_sramFrame _ _ _ _ _ _ hd))
  · exact carveNote_sramFrame s d l

/-! ## Writes by pieces -/

/-- A piece of a range lies in the range. -/
theorem blocksFuel_inside (fuel b a n : Nat) (hb : 0 < b) : ∀ p ∈ blocksFuel fuel b a n, a ≤ p.1 ∧ 0 < p.2 ∧ p.1 + p.2 ≤ a + n := by
  induction fuel generalizing a n with
  | zero => simp [blocksFuel]
  | succ fuel ih =>
    have hmod := Nat.mod_lt a hb
    intro p hp
    simp only [blocksFuel] at hp
    split at hp
    · simp at hp
    · rcases List.mem_cons.1 hp with rfl | hp
      · dsimp only; omega
      · have := ih _ _ p hp; omega

/-- The fuel of `blocks` is enough for its range. -/
theorem blocks_fuel_enough (b a n : Nat) (hb : 0 < b) : n + a % b ≤ (n / b + 2) * b := by
  have h1 := Nat.div_add_mod n b
  have h2 := Nat.mod_lt n hb
  have h3 := Nat.mod_lt a hb
  calc n + a % b ≤ b * (n / b) + b + b := by omega
    _ = (n / b + 2) * b := by ring

/-- Where the step over each piece of a range stores the piece, the steps over all pieces store the range. -/
theorem foldl_blocksFuel_stores {b a₀ n₀ : Nat} (hb : 0 < b) (s₀ : State) (g : Nat → Byte) (f : State → (Nat × Nat) × Nat → State)
    (step : ∀ s, s₀.sramMap s → ∀ a k i, 0 < k → a₀ ≤ a → a + k ≤ a₀ + n₀ → s.stores (f s ((a, k), i)) g a k) :
    ∀ fuel a n i s, s₀.sramMap s → a₀ ≤ a → a + n ≤ a₀ + n₀ → (n = 0 ∨ n + a % b ≤ fuel * b) →
      s.stores (((blocksFuel fuel b a n).zipIdx i).foldl f s) g a n := by
  have nothing (s : State) (a : Nat) : s.stores s g a 0 := ⟨sramMap_refl s, fun x => by rw [if_neg (by omega)]⟩
  intro fuel
  induction fuel with
  | zero =>
    intro a n i s hs h1 h2 h3
    obtain rfl : n = 0 := by omega
    exact nothing s a
  | succ fuel ih =>
    intro a n i s hs h1 h2 h3
    rcases Nat.eq_zero_or_pos n with rfl | hn
    · exact nothing s a
    · have hmod := Nat.mod_lt a hb
      rw [blocksFuel, if_neg (by omega), List.zipIdx_cons, List.foldl_cons]
      have first := step s hs a (min n (b - a % b)) i (by omega) h1 (by omega)
      have fuelLeft : n - min n (b - a % b) = 0 ∨
          n - min n (b - a % b) + (a + min n (b - a % b)) % b ≤ fuel * b := by
        rcases Nat.le_total n (b - a % b) with h | h
        · left; omega
        · right
          rw [Nat.min_eq_right h]
          have aligned : (a + (b - a % b)) % b = 0 := by
            have : a + (b - a % b) = b * (a / b + 1) := by have := Nat.div_add_mod a b; rw [Nat.mul_add]; omega
            rw [this]; exact Nat.mul_mod_right _ _
          rw [aligned]
          have : (fuel + 1) * b = fuel * b + b := by ring
          omega
      have rest := ih (a + min n (b - a % b)) (n - min n (b - a % b)) (i + 1) _ (sramMap_trans hs first.1) (by omega) (by omega) fuelLeft
      refine ⟨sramMap_trans first.1 rest.1, fun x => ?_⟩
      rw [rest.2 x, first.2 x]
      split_ifs <;> grind

theorem foldl_blocks_zipIdx_stores {b a n : Nat} (hb : 0 < b) (s : State) (g : Nat → Byte) (f : State → (Nat × Nat) × Nat → State)
    (step : ∀ t, s.sramMap t → ∀ x k i, 0 < k → a ≤ x → x + k ≤ a + n → t.stores (f t ((x, k), i)) g x k) :
    s.stores ((blocks b a n).zipIdx.foldl f s) g a n :=
  foldl_blocksFuel_stores hb s g f step _ a n 0 s (sramMap_refl s) le_rfl le_rfl (.inr (blocks_fuel_enough b a n hb))

theorem foldl_blocks_stores {b a n : Nat} (hb : 0 < b) (s : State) (g : Nat → Byte) (f : State → Nat × Nat → State)
    (step : ∀ t, s.sramMap t → ∀ x k, 0 < k → a ≤ x → x + k ≤ a + n → t.stores (f t (x, k)) g x k) :
    s.stores ((blocks b a n).foldl f s) g a n := by
  have h := foldl_blocks_zipIdx_stores hb s g (fun t p => f t p.1) fun t ht x k _ => step t ht x k
  rwa [← List.foldl_map (f := Prod.fst) (g := f), List.zipIdx_map_fst] at h

/-- The bytes of a piece are the bytes of the whole at the piece's addresses. -/
theorem getD_piece (bs : List Byte) {a x k y : Nat} (h1 : a ≤ x) (h2 : x ≤ y) (h3 : y < x + k) :
    ((bs.drop (x - a)).take k).getD (y - x) 0 = bs.getD (y - a) 0 := by
  rw [List.getD_eq_getElem?_getD, List.getD_eq_getElem?_getD, List.getElem?_take, if_pos (by omega), List.getElem?_drop,
    show x - a + (y - x) = y - a by omega]

theorem sramStore_stores (s : State) {a : Nat} (bs : List Byte) (poison : Bool) (ecc : Ecc) (h : isSram a = true) :
    s.stores (s.sramStore a bs poison ecc) (fun x => bs.getD (x - a) 0) a bs.length := by
  have poked (t : State) (p : Bool) : t.stores ((t.poke a bs).mark (a / 64) p) (fun x => bs.getD (x - a) 0) a bs.length :=
    ⟨⟨fun _ _ => rfl, fun _ => rfl⟩, fun x => byte_poke t a bs x⟩
  unfold State.sramStore
  split
  · exact poked s poison
  · exact stores_of_frame (sramDecode_sramFrame s ecc h) (poked _ _)

theorem stores_congr {s t : State} {g h : Nat → Byte} {a n : Nat} (e : ∀ x, a ≤ x → x < a + n → g x = h x) (k : s.stores t g a n) :
    s.stores t h a n := by
  refine ⟨k.1, fun x => ?_⟩
  rw [k.2 x]
  split
  · next r => exact e x r.1 r.2
  · rfl

theorem isSram_between {a n x : Nat} (first : isSram a = true) (last : isSram (a + n - 1) = true) (h1 : a ≤ x) (h2 : x < a + n) :
    isSram x = true := by
  simp [isSram] at *; omega

/-- A write of SRAM stores each byte at its address. -/
theorem sramWrite_stores (s : State) {a : Nat} (bs : List Byte) (poison : Nat) (ecc : EccList)
    (sram : ∀ x, a ≤ x → x < a + bs.length → isSram x = true) :
    s.stores (s.sramWrite a bs poison ecc) (fun x => bs.getD (x - a) 0) a bs.length := by
  unfold State.sramWrite
  refine foldl_blocks_zipIdx_stores (by norm_num) s _ _ fun t _ x k i hk h1 h2 => ?_
  have len : ((bs.drop (x - a)).take k).length = k := by rw [List.length_take, List.length_drop]; omega
  have stored := sramStore_stores t ((bs.drop (x - a)).take k) (bit poison (chunkOf x)) (ecc.at i) (sram x h1 (by omega))
  rw [len] at stored
  exact stores_congr (fun y hy hy' => getD_piece bs h1 hy hy') stored

/-! ## A piece of a write, by where it goes -/

theorem isClusterSram_of_isSram {a : Nat} (h : isSram a = true) : isClusterSram a = false := by
  simp [isSram, isClusterSram] at h ⊢; omega

theorem isMemory_of_isSram {a : Nat} (h : isSram a = true) : isMemory a = true := by simp [isMemory, h]

theorem crossedIf_sramFrame (s : State) (c : Prop) [Decidable c] (d a : Nat) (hd : d < 2) :
    s.sramFrame (if c then s.crossed d a 288 else s) := sramFrame_ite (crossed_sramFrame s d a 288 hd) (sramFrame_refl s)

/-- A piece that reaches SRAM that is not carved is stored. -/
theorem writePiece_stores {s : State} {d a : Nat} (bs : List Byte) (poison : Nat) (own : Option Nat) (ecc : EccList) (paid : Bool)
    (hd : d < 2) (sram : ∀ x, a ≤ x → x < a + bs.length → isSram x = true) (some : bs ≠ []) (up : s.bridgeDown = false)
    (free : s.isCarved a = false) :
    s.stores (s.writePiece d a bs poison own ecc paid) (fun x => bs.getD (x - a) 0) a bs.length := by
  have here : isSram a = true := sram a le_rfl (by have := List.length_pos_iff.2 some; omega)
  have frame := crossedIf_sramFrame s (s.crosses d a ∧ ¬ paid) d a hd
  have reach : s.reaches d a = true := by simp [State.reaches, up]
  simp only [State.writePiece, isMemory_of_isSram here, reach, isHbm_of_isSram here, sramMap_isCarved frame.1, free, State.holdsWrite,
    isClusterSram_of_isSram here, here]
  simp only [not_true_eq_false, and_false, if_false, if_true, Bool.false_and, Bool.false_eq_true]
  exact stores_of_frame (sramFrame_trans frame (tally_sramFrame _ _ R.sram_t_wr _ (ownerDie_lt_of_isSram here) (by decide)))
    (sramWrite_stores _ bs poison ecc sram)

/-- A piece of carved memory is dropped. -/
theorem writePiece_carved {s : State} {d a : Nat} (bs : List Byte) (poison : Nat) (own : Option Nat) (ecc : EccList) (paid : Bool)
    (hd : d < 2) (carved : s.isCarved a = true) : s.sramFrame (s.writePiece d a bs poison own ecc paid) := by
  have here := isSram_of_isCarved carved
  have frame := crossedIf_sramFrame s (s.crosses d a ∧ ¬ paid) d a hd
  simp only [State.writePiece, isMemory_of_isSram here, isHbm_of_isSram here, sramMap_isCarved frame.1, carved]
  simp only [not_true_eq_false, if_false, if_true, Bool.false_eq_true]
  split
  · exact count32_sramFrame s d _ _ hd (by decide)
  · exact frame

/-! ## Whole writes -/

theorem sramFrame_foldl {α : Type} (l : List α) (f : State → α → State) (s₀ : State)
    (step : ∀ s, s₀.sramMap s → ∀ x ∈ l, s.sramFrame (f s x)) : s₀.sramFrame (l.foldl f s₀) := by
  suffices ∀ s, s₀.sramMap s → s.sramFrame (l.foldl f s) from this s₀ (sramMap_refl s₀)
  induction l with
  | nil => exact fun s _ => sramFrame_refl s
  | cons x l ih =>
    intro s hs
    have first := step s hs x List.mem_cons_self
    exact sramFrame_trans first (ih (fun t ht y hy => step t ht y (List.mem_cons_of_mem _ hy)) _ (sramMap_trans hs first.1))

/-- The pieces of a range lie in it. -/
theorem blocks_inside {b a n : Nat} (hb : 0 < b) {p : Nat × Nat} (h : p ∈ blocks b a n) : a ≤ p.1 ∧ p.1 < a + n := by
  have := blocksFuel_inside _ b a n hb p h
  omega

theorem inMemory_of_isSram {a n : Nat} (h : ∀ x, a ≤ x → x < a + n → isSram x = true) : inMemory a n = true := by
  simp only [inMemory, List.all_eq_true]
  intro p hp
  have := blocks_inside (by norm_num) hp
  exact isMemory_of_isSram (h p.1 this.1 this.2)

/-- A write of SRAM that no carved byte lies in stores each byte at its address, while the bridge is not down. -/
theorem writeRaw_stores {s : State} {d a : Nat} (bs : List Byte) (poison : Bool) (ecc : EccList) (hd : d < 2)
    (sram : ∀ x, a ≤ x → x < a + bs.length → isSram x = true) (free : ∀ x, a ≤ x → x < a + bs.length → s.isCarved x = false)
    (up : s.bridgeDown = false) :
    s.stores (s.writeRaw d a bs poison .unit none ecc) (fun x => bs.getD (x - a) 0) a bs.length := by
  unfold State.writeRaw
  have noted := writeNote_sramFrame s d [(a, bs.length)] .unit
  refine stores_of_frame noted ?_
  unfold State.writeBody
  refine foldl_blocks_stores (by norm_num) _ _ _ fun t ht x k hk h1 h2 => ?_
  have map := sramMap_trans noted.1 ht
  have len : ((bs.drop (x - a)).take k).length = k := by rw [List.length_take, List.length_drop]; omega
  have stored := writePiece_stores (s := t) ((bs.drop (x - a)).take k) (if poison then 15 else 0) none (ecc.drop (x / 64 - a / 64)) false hd
    (by rw [len]; exact fun y h3 h4 => sram y (by omega) (by omega)) (by rw [← List.length_pos_iff, len]; exact hk)
    ((sramMap_bridgeDown map).trans up) ((sramMap_isCarved map x).trans (free x h1 (by omega)))
  rw [len] at stored
  simpa using stores_congr (fun y hy hy' => getD_piece bs h1 hy hy') stored

/-- A write keeps every byte where each of its pieces is dropped: of the reserved area, from outside, or of carved memory. -/
theorem writeRaw_dropped {s : State} {d a : Nat} (bs : List Byte) (poison : Bool) (org : Origin) (ecc : EccList) (hd : d < 2)
    (drop : ∀ x, a ≤ x → x < a + bs.length → (org = .outside ∧ isReserved x) ∨ s.isCarved x = true) :
    s.sramFrame (s.writeRaw d a bs poison org none ecc) := by
  unfold State.writeRaw
  have noted := writeNote_sramFrame s d [(a, bs.length)] org
  refine sramFrame_trans noted ?_
  unfold State.writeBody
  refine sramFrame_foldl _ _ _ fun t ht p hp => ?_
  have inside := blocks_inside (by norm_num) hp
  split
  · exact sramFrame_refl t
  · next kept =>
    have carved := (drop p.1 inside.1 inside.2).resolve_left kept
    exact writePiece_carved _ _ _ _ _ hd ((sramMap_isCarved (sramMap_trans noted.1 ht) p.1).trans carved)

/-- A write that keeps every byte when it is served keeps every byte when it waits. -/
theorem exec_memoryWrite_dropped {s : State} {d : Fin 2} {o : Bool} {pa : Nat} {data : List Byte} {poison : Bool} {e : EccList} {be : List Nat}
    (some : data ≠ []) (sram : ∀ x, pa ≤ x → x < pa + data.length → isSram x = true)
    (drop : ∀ x, pa ≤ x → x < pa + data.length → (o = true ∧ isReserved x) ∨ s.isCarved x = true) :
    ∃ t, exec (.memoryWrite d o pa data ⟨poison, e, be⟩) s = .next t ∧ s.sameMemory t := by
  have here : isSram pa = true := sram pa le_rfl (by have := List.length_pos_iff.2 some; omega)
  have waited := bankWait_sramFrame s be here
  refine ⟨_, by simp only [exec, execMemoryWrite, inMemory_of_isSram sram, if_true]; rfl, ?_⟩
  unfold State.memRequest
  split
  · exact fun x => waited.2 x
  · refine (sramFrame_trans waited (writeRaw_dropped data poison _ e d.isLt fun x h1 h2 => ?_)).2
    rw [sramMap_isCarved waited.1 x]
    exact (drop x h1 h2).imp_left fun h => ⟨by simp [h.1], h.2⟩

/-- Settles O45: the operations of a write keep the carving and the bridge, so each piece of the write is stored, or dropped, as the
state before says. -/
theorem sramWriteStores : Obligations.SramWriteStores := by
  unfold Obligations.SramWriteStores
  refine ⟨?stored, ?reserved, ?carved⟩
  case stored =>
    intro s u d pa data poison e be some first last free up hu served
    subst hu
    have sram : ∀ x, pa ≤ x → x < pa + data.length → isSram x = true := fun x => isSram_between first last
    have waited := bankWait_sramFrame s be first
    refine ⟨_, by simp only [exec, execMemoryWrite, inMemory_of_isSram sram, if_true, State.memRequest, served]; rfl, ?_⟩
    have stored := stores_of_frame waited (writeRaw_stores data poison e d.isLt sram
      (fun x h1 h2 => (sramMap_isCarved waited.1 x).trans (free x h1 h2)) ((sramMap_bridgeDown waited.1).trans up))
    exact ⟨fun x h1 h2 => (stored.2 x).trans (if_pos ⟨h1, h2⟩), fun x h => (stored.2 x).trans (if_neg (by omega))⟩
  case reserved =>
    intro s d pa data poison e be some reserved
    exact exec_memoryWrite_dropped some (fun x h1 h2 => isSram_of_isReserved (reserved x h1 h2))
      fun x h1 h2 => .inl ⟨rfl, reserved x h1 h2⟩
  case carved =>
    intro s d o pa data poison e be some carved
    exact exec_memoryWrite_dropped some (fun x h1 h2 => isSram_of_isCarved (carved x h1 h2)) fun x h1 h2 => .inr (carved x h1 h2)

end Sys2Proof.Machine
end

section
/-! SUPPORT. Matrix and vector engine commands, each evaluated in the state that its clause describes. -/

namespace Sys2Proof.Machine

/-- Settles O8: each command is evaluated in the state that its clause describes. -/
theorem matrixCommandsComplete : Obligations.MatrixCommandsComplete := by
  unfold Obligations.MatrixCommandsComplete
  refine ⟨?mma, ?mmaResultWrite, ?kSplitCombine, ?freezeLimitExceeded, ?thinRequest, ?batchWaitExpire, ?batchRun, ?handPoison,
    ?idleClusterFault⟩
  case mma =>
    intro s c e h i w on nextWord wordClass bit bits doneBefore drainFault
    simp [exec, execMma, on, nextWord, wordClass, bit, bits, doneBefore, drainFault, State.startMma]
  case mmaResultWrite =>
    intro s c e frz bub h f rest on flight run blocked
    simp [exec, execMmaResultWrite, on, flight, run, blocked]
  case kSplitCombine =>
    intro s c n y p ps on owner ksplits sorted
    simp [exec, execKSplitCombine, on, owner, ksplits, sorted]
  case freezeLimitExceeded =>
    intro s c e on
    simp [exec, execFreezeLimitExceeded, on]
  case thinRequest =>
    rintro s c h i w q u on nextWord isThin doneBefore queued drainFault rfl rfl
    simp only [exec, execThinRequest, on, nextWord, isThin, doneBefore, drainFault, Nat.not_le.2 queued]
    simp only [not_true_eq_false, Bool.false_eq_true, if_false, or_self]
    split <;> rfl
  case batchWaitExpire =>
    intro s c n on bqOpen
    simp [exec, execBatchWaitExpire, on, bqOpen]
  case batchRun =>
    intro s c b rest h e q qs on bqClosed run batchBank reqs
    simp [exec, execBatchRun, on, bqClosed, run, batchBank, reqs]
  case handPoison =>
    intro s c f e o h run
    simp [exec, execHandPoison, run]
  case idleClusterFault =>
    intro s c f on run
    simp [exec, execIdleClusterFault, on, run]

/-- Settles O9: each command is evaluated in the state that its clause describes. -/
theorem vectorCommandsComplete : Obligations.VectorCommandsComplete := by
  unfold Obligations.VectorCommandsComplete
  refine ⟨?chainSetLoad, ?drainRowAdmit, ?vrun, ?vrunRowAdmit, ?rowWrite, ?vectorPoison1, ?vectorPoison2⟩
  case chainSetLoad =>
    rintro s c h va pa t q on run cset loaded stopped rfl h2 rfl data
    simp [exec, execChainSetLoad, on, run, cset, loaded, stopped, h2, data, State.loadChain]
  case drainRowAdmit =>
    intro s c n q on stop drainOffer
    simp [exec, execDrainRowAdmit, on, stop, drainOffer]
  case vrun =>
    intro s c h i w on nextWord wordClass doneBefore chain
    simp [exec, execVrun, on, nextWord, wordClass, doneBefore, chain]
  case vrunRowAdmit =>
    intro s c h q rest on vruns run runHeld
    simp [exec, execVrunRowAdmit, on, vruns, run, runHeld]
  case rowWrite =>
    intro s c n q on pipe word
    simp [exec, execRowWrite, on, pipe, word]
  case vectorPoison1 =>
    rintro s c f u on masked cause rfl
    simp [exec, execVectorPoison, on, masked, cause]
  case vectorPoison2 =>
    rintro s c f u on masked rfl comb
    have poisons : ¬ (f.masked = true ∧ f.cause ≠ 2) := by rcases masked with h | h <;> simp [h]
    simp only [exec, execVectorPoison, on, Bool.false_eq_true, if_false, poisons]
    rw [if_pos comb]

end Sys2Proof.Machine
end

section
/-! SUPPORT. Words of a program, items and Hands. -/

namespace Sys2Proof.Machine

/-- Settles O10: each word is decoded where its slot has fetched it, and each release acts on the wait it names. -/
theorem controlWordsComplete : Obligations.ControlWordsComplete := by
  unfold Obligations.ControlWordsComplete
  refine ⟨?nop, ?endProgram, ?fence, ?fenceRelease, ?sync, ?syncRelease, ?waitf, ?waitfRelease, ?postf, ?flushq, ?trap,
    ?waitWatchdog, ?loopBegin, ?loopEnd1, ?loopEnd2, ?test⟩
  case nop =>
    rintro s r k w u nop rfl ctrlClean
    simp only [exec, execNop]
    rw [onWord_fetched nop]
    simp [ctrlClean]
  case endProgram =>
    rintro s r k w u x v hEnd rfl rfl ctrlClean sched rfl stopped
    simp only [exec, execEndProgram]
    rw [onWord_fetched hEnd]
    simp [ctrlClean, sched, stopped]
  case fence =>
    rintro s r k w u fence rfl ctrlClean
    simp only [exec, execFence]
    rw [onWord_fetched fence]
    simp [ctrlClean]
  case fenceRelease =>
    intro s r k on wait quiet
    simp [exec, execFenceRelease, on, wait, quiet]
  case sync =>
    rintro s r k w u sync rfl ctrlClean flagged
    simp only [exec, execSync]
    rw [onWord_fetched sync]
    simp [ctrlClean, flagged]
  case syncRelease =>
    intro s r k id mask on wait ctx
    simp [exec, execSyncRelease, on, wait, ctx]
  case waitf =>
    rintro s r k w u waitf rfl ctrlClean
    simp only [exec, execWaitf]
    rw [onWord_fetched waitf]
    simp [ctrlClean]
  case waitfRelease =>
    intro s r k f a on wait slot
    simp [exec, execWaitfRelease, on, wait, slot]
  case postf =>
    rintro s r k w u postf rfl ctrlClean
    simp only [exec, execPostf]
    rw [onWord_fetched postf]
    simp [ctrlClean]
  case flushq =>
    rintro s r k w u flushq rfl ctrlClean field
    simp only [exec, execFlushq]
    rw [onWord_fetched flushq]
    simp [ctrlClean, field]
  case trap =>
    rintro s r k w u trap rfl ctrlClean
    simp only [exec, execTrap]
    rw [onWord_fetched trap]
    simp [ctrlClean]
  case waitWatchdog =>
    rintro s r k x on rfl wait wdSeen wdLim
    rcases wait with ⟨f, a, h⟩ | ⟨id, mask, h⟩ | h | h | ⟨t, h⟩ <;>
      simp [exec, execWaitWatchdog, on, h, wdSeen, wdLim]
  case loopBegin =>
    rintro s r k w u x n skip fetched endToFetch rfl rfl outer inner level ends clean count
    simp only [exec, execLoopBegin, endToFetch]
    rw [onWord_fetched fetched]
    have legal : ¬ (bits w 120 3 = 0 ∨ bits w 120 3 = 7 ∨ bits w 120 3 ≠ ((s.decoded r k w).slot r k).loops.length + 1 ∨
        ¬ ((((s.decoded r k w).rg r).wordAt ((s.decoded r k w).slot r k).ctx (loopEndVa (s.slot r k).pc w)).any
          fun e => isLoopEnd e (bits w 120 3)) = true) := by
      rintro (h | h | h | h)
      · exact outer h
      · exact inner h
      · exact h level
      · exact h ends
    simp only [if_neg legal, clean, not_true_eq_false, if_false, count]
  case loopEnd1 =>
    rintro s r k w u x l loopEnd rfl rfl getLast field pc field2 n
    simp only [exec, execLoopEnd]
    rw [onWord_fetched loopEnd]
    simp [getLast, field, pc, field2, n]
  case loopEnd2 =>
    rintro s r k w u x l loopEnd rfl rfl getLast field pc field2 i
    simp only [exec, execLoopEnd]
    rw [onWord_fetched loopEnd]
    simp [getLast, field, pc, field2, i]
  case test =>
    rintro s r k w u x b dst test rfl rfl testClean sreg rfl targetOk
    simp only [exec, execTest]
    rw [onWord_fetched test]
    simp [testClean, sreg, targetOk]

/-- Settles O11: each command is evaluated in the state that its clause describes. -/
theorem itemCommandsComplete : Obligations.ItemCommandsComplete := by
  unfold Obligations.ItemCommandsComplete
  refine ⟨?itemTake, ?itemComplete, ?programFetch, ?pbinvDone, ?digestDone1, ?digestDone2, ?digestDone3, ?digestRecordWrite⟩
  case itemTake =>
    intro s r n c on inState takesItems candidates
    simp [exec, execItemTake, on, inState, takesItems, candidates]
  case itemComplete =>
    intro s r k x u on completes hx hu
    subst hx
    rw [hu]
    simp only [exec, execItemComplete, on, completes, not_true_eq_false, Bool.false_eq_true, if_false]
  case programFetch =>
    rintro s r k x a va pa t q on rfl wait pbRun rfl fetch rfl h rfl
    simp [exec, execProgramFetch, on, wait, pbRun, fetch, h]
  case pbinvDone =>
    rintro s d a b u on run rfl rfl
    simp only [exec, execPbinvDone, on, run, Option.isNone_some, Bool.false_eq_true, if_false]
    cases (s.ctxd.get d).pbHeld <;> rfl
  case digestDone1 =>
    intro s r k n q on digests input
    simp [exec, execDigestDone, on, digests, input]
  case digestDone2 =>
    intro s r k n q on digests input output digestsDue
    simp [exec, execDigestDone, on, digests, input, output, digestsDue]
  case digestDone3 =>
    rintro s r k n a on rfl progDig digestsDue
    simp [exec, execDigestDone, on, progDig, digestsDue]
  case digestRecordWrite =>
    rintro s r q rest a head u on digests digestRoom rfl rfl rfl
    simp [exec, execDigestRecordWrite, on, digests, digestRoom]

/-- A Meld word of region 0 or 8 whose unused bits are clear acts on the Meld engine. -/
theorem meldWord_fetched {s : State} {r k : Nat} {o : Op} {w : Nat} (h : s.fetched r k o w) (reg : Bool) (f : State → Nat → Nat → State)
    (first : r % 8 = 0) (clean : bits w 0 115 = 0) (noReg : reg = true ∨ bits w 115 5 = 0) :
    s.meldWord r k o reg f = .next (f (s.decoded r k w) (s.slot r k).pc (((s.decoded r k w).slot r k).sreg (bits w 115 5))) := by
  have legal : ¬ (r % 8 ≠ 0 ∨ bits w 0 115 ≠ 0 ∨ (¬ reg ∧ bits w 115 5 ≠ 0)) := by
    rcases noReg with h | h <;> simp [first, clean, h]
  rw [State.meldWord, onWord_fetched h, if_neg legal]

/-- The next trick of a job opens while the job is in phase LOCAL. -/
theorem trickNow_opens {s : State} {r j : Nat} (k va : Nat) (job : s.meldSlot (dieOfRegion r) (s.slot r k).ctx = some j)
    (phase : s.jobSt (dieOfRegion r) j = 3) (real : s.acc (dieOfRegion r) j ≠ 2 ^ 64 - 1) :
    s.trickNow r k va (s.acc (dieOfRegion r) j) = (s.openTrick (dieOfRegion r) j).resume r k := by
  have late : ¬ (3 = 8) := by decide
  simp only [State.trickNow, job, phase, if_neg late]
  rw [if_neg (by decide), if_neg (by decide), if_neg real, if_neg (by simp)]

theorem waitaNow_resumes {s : State} {r k j t : Nat} (va : Nat) (job : s.meldSlot (dieOfRegion r) (s.slot r k).ctx = some j)
    (started : s.jobSt (dieOfRegion r) j ≠ 1) (alive : s.jobSt (dieOfRegion r) j ≠ 15) (done : t ≤ s.applied (dieOfRegion r) j) :
    s.waitaNow r k va t = s.resume r k := by
  simp only [State.waitaNow, job]
  rw [if_neg alive, if_pos ⟨started, done⟩]

/-- The address of a scalar memory word is aligned where its value is. -/
theorem aligned_of_mod {a n : Nat} (clean : Bool) (h : clean = true) (aligned : a % n = 0) : ¬ (¬ clean = true ∨ a % n ≠ 0) := by
  simp [h, aligned]

/-- Settles O13: each command is evaluated in the state that its clause describes. -/
theorem memoryAndMeldWordsComplete : Obligations.MemoryAndMeldWordsComplete := by
  unfold Obligations.MemoryAndMeldWordsComplete
  refine ⟨?ld, ?ldComplete, ?st, ?ldd, ?lddComplete, ?rdt, ?trick, ?bound, ?waita, ?trickRelease, ?boundRelease, ?waitaRelease⟩
  case ld =>
    rintro s r k w u x a ld rfl rfl sregClean rfl h
    simp only [exec, execLd]
    rw [onWord_fetched ld]
    simp only [if_neg (aligned_of_mod _ sregClean h)]
  case ldComplete =>
    rintro s r k rd va pa t q on wait read rfl h rfl
    simp [exec, execLdComplete, on, wait, read, h]
  case st =>
    rintro s r k w u x a pa t inState stStalls rfl rfl sregClean rfl h rfl h2
    simp only [exec, execSt, stStalls, Bool.false_eq_true, if_false]
    rw [onWord_fetched inState]
    simp only [if_neg (aligned_of_mod _ sregClean h), h2]
  case ldd =>
    rintro s r k w u x a ldd rfl rfl sregClean flagged rfl h
    simp only [exec, execLdd]
    rw [onWord_fetched ldd]
    simp only [flagged, Bool.false_eq_true, false_or, if_neg (aligned_of_mod _ sregClean h)]
  case lddComplete =>
    rintro s r k ds va pa y t q on wait read rfl h rfl data
    simp [exec, execLddComplete, on, wait, read, h, data]
  case rdt =>
    rintro s r k w u x a rdt rfl rfl field field2 rdtSource replay
    simp only [exec, execRdt]
    rw [onWord_fetched rdt]
    have unused : ¬ (bits w 14 101 ≠ 0 ∨ (bits w 0 14 % 256 ≠ 5 ∧ bits (bits w 0 14) 8 6 ≠ 0)) := by
      rcases field2 with h | h <;> simp [field, h]
    simp only [rdtSource, if_neg unused, replay, Bool.false_eq_true, if_false]
  case trick =>
    rintro s r k w u x j fetched rfl rfl first clean job phase next real
    simp only [exec, execTrick]
    rw [meldWord_fetched fetched true _ first clean (.inl rfl), next, trickNow_opens _ _ job phase (next ▸ real)]
  case bound =>
    rintro s r k w u x j fetched rfl rfl first clean noReg job phase
    simp only [exec, execBound]
    rw [meldWord_fetched fetched false _ first clean (.inr noReg)]
    simp [State.boundNow, job, phase]
  case waita =>
    rintro s r k w u x j fetched rfl rfl first clean job started alive done
    simp only [exec, execWaita]
    rw [meldWord_fetched fetched true _ first clean (.inl rfl), waitaNow_resumes _ job started alive done]
  case trickRelease =>
    rintro s r k t j x on rfl wait job phase rfl real
    simp only [exec, execTrickRelease, on, wait, Bool.false_eq_true, if_false, trickNow_opens _ _ job phase real]
  case boundRelease =>
    rintro s r k j x on rfl wait job phase
    simp [exec, execBoundRelease, on, wait, State.boundNow, job, phase]
  case waitaRelease =>
    rintro s r k t j x on rfl wait job started alive done
    simp only [exec, execWaitaRelease, on, wait, Bool.false_eq_true, if_false, waitaNow_resumes _ job started alive done]

theorem fetched_hand {s : State} {r k : Nat} {o : Op} {w : Nat} (h : s.fetched r k o w) : (s.slot r k).hand = none := h.2.1

/-- A transfer of the named kind starts where it is the next word of the running Hand and is ready. -/
theorem dmaStart_starts {s : State} {c op : Nat} {h : Hand} {i : Nat} {w : HandWord} {q : DmaJob}
    (next : (s.cl c).nextWord = some (h, i, w)) (job : w.dma = some q) (kind : isDma w.w op = true) (ready : s.dmaReady c h i q = true) :
    s.dmaStart c op = s.setWord c i .started := by
  simp [State.dmaStart, next, job, kind, ready]

/-- Settles O14: each command is evaluated in the state that its clause describes. -/
theorem handCommandsComplete : Obligations.HandCommandsComplete := by
  unfold Obligations.HandCommandsComplete
  refine ⟨?hand, ?handDeal, ?handStart, ?handComplete, ?load, ?store, ?copyin, ?copyout, ?dmaComplete⟩
  case hand =>
    rintro s r k w u hand rfl handClean
    simp only [exec, execHand, fetched_hand hand, Option.isSome_none, Bool.false_eq_true, if_false]
    rw [onWord_fetched hand]
    simp [handClean]
  case handDeal =>
    rintro s r k h x on rfl opened collecting running wait
    have deals : ¬ ((s.slot r k).collecting = true ∨ (s.slot r k).st ≠ .running ∨
        ((s.slot r k).wait ≠ .none ∧ (s.slot r k).wait ≠ .handFull)) := by
      rcases wait with h | h <;> simp [collecting, running, h]
    simp only [exec, execHandDeal, on, opened, Bool.false_eq_true, if_false, if_neg deals]
  case handStart =>
    rintro s c h rest u on run queue rfl outOfService
    simp [exec, execHandStart, on, run, queue, outOfService]
  case handComplete =>
    rintro s c h u on run ended unheld rfl
    have completes : ¬ ((¬ h.stopped = true ∧ ¬ ((s.cl c).loaded = true ∧ h.words.all (fun w => w.st = .done) = true)) ∨
        s.writesHeld c = true) := by
      rw [unheld]
      rcases ended with h | h <;> simp [h]
    simp only [exec, execHandComplete, on, run, Bool.false_eq_true, if_false, if_neg completes]
  case load =>
    intro s c h i w q on next job kind ready
    simp only [exec, execLoad, on, Bool.false_eq_true, if_false, dmaStart_starts next job kind ready]
  case store =>
    intro s c h i w q on next job kind ready
    simp only [exec, execStore, on, Bool.false_eq_true, if_false, dmaStart_starts next job kind ready]
  case copyin =>
    intro s c h i w q on next job kind ready
    simp only [exec, execCopyin, on, Bool.false_eq_true, if_false, dmaStart_starts next job kind ready]
  case copyout =>
    intro s c h i w q on next job kind ready
    simp only [exec, execCopyout, on, Bool.false_eq_true, if_false, dmaStart_starts next job kind ready]
  case dmaComplete =>
    rintro s c n errs h w q x on run words dma stopped inState ctx rfl h2
    simp [exec, execDmaComplete, on, run, words, dma, stopped, inState, ctx, h2]

end Sys2Proof.Machine
end

section
/-! SUPPORT. Scalar words, collectives, on-chip memory, coherence, stacked DRAM and contexts. -/

namespace Sys2Proof.Machine



/-- Settles O12: each word writes what its operation makes of its two values. -/
theorem scalarWordsComplete : Obligations.ScalarWordsComplete := by
  unfold Obligations.ScalarWordsComplete
  refine ⟨?li, ?add, ?sub, ?mul, ?and, ?or, ?shl, ?shr, ?min, ?max⟩
  case li =>
    rintro s r k w u li rfl field
    simp only [exec, execLi]
    rw [onWord_fetched li]
    simp [field]
  case add =>
    rintro s r k w u x a b fetched rfl rfl clean rfl rfl
    simp only [exec, execAdd, sregOp_fetched fetched clean]
  case sub =>
    rintro s r k w u x a b fetched rfl rfl clean rfl rfl
    simp only [exec, execSub, sregOp_fetched fetched clean]
  case mul =>
    rintro s r k w u x a b fetched rfl rfl clean rfl rfl
    simp only [exec, execMul, sregOp_fetched fetched clean]
  case and =>
    rintro s r k w u x a b fetched rfl rfl clean rfl rfl
    simp only [exec, execAnd, sregOp_fetched fetched clean]
  case or =>
    rintro s r k w u x a b fetched rfl rfl clean rfl rfl
    simp only [exec, execOr, sregOp_fetched fetched clean]
  case shl =>
    rintro s r k w u x a b fetched rfl rfl clean rfl rfl
    simp only [exec, execShl, sregOp_fetched fetched clean]
  case shr =>
    rintro s r k w u x a b fetched rfl rfl clean rfl rfl
    simp only [exec, execShr, sregOp_fetched fetched clean]
  case min =>
    rintro s r k w u x a b fetched rfl rfl clean rfl rfl
    simp only [exec, execMin, sregOp_fetched fetched clean]
  case max =>
    rintro s r k w u x a b fetched rfl rfl clean rfl rfl
    simp only [exec, execMax, sregOp_fetched fetched clean]

/-- A collective word that is clean and whose tiles are good joins a queue that has room. -/
theorem collWord_queues {s : State} {r k : Nat} {o : Op} {w : Nat} {a b : Tile} (h : s.fetched r k o w)
    (room : (s.fb (dieOfRegion r)).queue.length < 256) (clean : collClean w = true)
    (source : collTile ((s.decoded r k w).slot r k) (bits w 107 4) = .ok a)
    (dest : collTile ((s.decoded r k w).slot r k) (bits w 103 4) = .ok b) (fitsA : a.exceeds (bits w 107 4) = none)
    (fitsB : b.exceeds (bits w 103 4) = none) :
    s.collWord r k o = .next ((s.decoded r k w).queueColl r k (s.slot r k).pc w a b false) := by
  have full : ¬ 256 ≤ (s.fb (dieOfRegion r)).queue.length := Nat.not_le.2 room
  simp only [State.collWord, full, and_false, if_false]
  rw [onWord_fetched h]
  simp only [clean, not_true_eq_false, if_false, source, dest, fitsA, fitsB, Option.orElse]

/-- Settles O15: each command is evaluated in the state that its clause describes. -/
theorem collectiveCommandsComplete : Obligations.CollectiveCommandsComplete := by
  unfold Obligations.CollectiveCommandsComplete
  refine ⟨?reduceScatter, ?allGather, ?allReduce, ?broadcast, ?permute, ?collStart, ?stepTimeout, ?collComplete⟩
  case reduceScatter =>
    rintro s r k w u x a b fetched rfl rfl room clean source dest fitsA fitsB
    exact collWord_queues fetched room clean source dest fitsA fitsB
  case allGather =>
    rintro s r k w u x a b fetched rfl rfl room clean source dest fitsA fitsB
    exact collWord_queues fetched room clean source dest fitsA fitsB
  case allReduce =>
    rintro s r k w u x a b fetched rfl rfl room clean source dest fitsA fitsB
    exact collWord_queues fetched room clean source dest fitsA fitsB
  case broadcast =>
    rintro s r k w u x a b fetched rfl rfl room clean source dest fitsA fitsB
    exact collWord_queues fetched room clean source dest fitsA fitsB
  case permute =>
    rintro s r k w u x a b fetched rfl rfl room clean source dest fitsA fitsB
    exact collWord_queues fetched room clean source dest fitsA fitsB
  case collStart =>
    intro s d n q ctlEn colls nextColl queue
    simp [exec, execCollStart, ctlEn, colls, nextColl, queue]
  case stepTimeout =>
    intro s d rt n a c coll step
    simp only [exec, execStepTimeout, coll, step]
  case collComplete =>
    rintro s d rt c u coll complete rfl
    simp only [exec, execCollComplete, coll, complete, not_true_eq_false, if_false]
    split <;> rfl

/-! ## Requests of memory -/

theorem memRequest_waits {s : State} {q : MemReq} (h : s.memBlocked q = true) :
    s.memRequest q = { s with mem := { s.mem with memWait := s.mem.memWait ++ [q] } } := if_pos h

theorem memRequest_served {s : State} {q : MemReq} (h : s.memBlocked q = false) : s.memRequest q = s.memServe q := by
  simp [State.memRequest, h]

theorem memServe_write (s : State) (d a n : Nat) (b po : Bool) (l : List Byte) (e : EccList) :
    s.memServe ⟨d, b, a, n, some l, po, e⟩ = s.writeRaw d a l po (if b then .outside else .unit) none e := rfl

theorem memServe_read (s : State) (d a n : Nat) (b po : Bool) (e : EccList) :
    s.memServe ⟨d, b, a, n, none, po, e⟩ =
      (s.read d a n e).st.emit (.memData a (s.read d a n e).data (s.read d a n e).poison) := rfl

/-- Settles O16: each command is evaluated in the state that its clause describes. -/
theorem onChipMemoryCommandsComplete : Obligations.OnChipMemoryCommandsComplete := by
  unfold Obligations.OnChipMemoryCommandsComplete
  refine ⟨?memoryWrite1, ?memoryRead1, ?externalSramWrite1, ?memoryWrite2, ?memoryRead2, ?externalSramWrite2, ?sramScrubPass,
    ?carveTransitionDone, ?bridgeBeatReceive1, ?bridgeBeatReceive2, ?bridgeNak1, ?bridgeNak2, ?bridgeRetrainDone1,
    ?bridgeRetrainDone2, ?bridgeRetrainDone3, ?cwinFlushDone⟩
  case memoryWrite1 =>
    rintro s d b a l po e be u inMemory rfl memBlocked
    simp only [exec, execMemoryWrite, inMemory, if_true, memRequest_served memBlocked, memServe_write]
  case memoryRead1 =>
    rintro s d a n e be u q inMemory rfl memBlocked rfl
    simp only [exec, execMemoryRead, inMemory, if_true, memRequest_served memBlocked, memServe_read]
  case externalSramWrite1 =>
    intro s a l po isClusterSram isClusterSram2 memBlocked
    simp only [exec, execExternalSramWrite, isClusterSram, isClusterSram2, and_self, if_true, memRequest_served memBlocked,
      memServe_write]
  case memoryWrite2 =>
    rintro s d b a l po e be u q inMemory rfl rfl memBlocked
    simp only [exec, execMemoryWrite, inMemory, if_true, memRequest_waits memBlocked]
  case memoryRead2 =>
    rintro s d a n e be u q inMemory rfl rfl memBlocked
    simp only [exec, execMemoryRead, inMemory, if_true, memRequest_waits memBlocked]
  case externalSramWrite2 =>
    rintro s a l po q isClusterSram isClusterSram2 rfl memBlocked
    simp only [exec, execExternalSramWrite, isClusterSram, isClusterSram2, and_self, if_true, memRequest_waits memBlocked]
  case sramScrubPass =>
    intro s d ce ue scrubEn
    simp [exec, execSramScrubPass, scrubEn]
  case carveTransitionDone =>
    intro s d carveBusy
    simp [exec, execCarveTransitionDone, carveBusy]
  case bridgeBeatReceive1 =>
    rintro s d n b st me u rfl statUp h rfl
    simp [exec, execBridgeBeatReceive, statUp, h]
  case bridgeBeatReceive2 =>
    rintro s d n b st me u rfl statUp h
    simp [exec, execBridgeBeatReceive, statUp, h]
  case bridgeNak1 =>
    rintro s d n a f x statUp rfl rfl h
    simp [exec, execBridgeNak, statUp, h]
  case bridgeNak2 =>
    rintro s d n a f x statUp rfl rfl h
    simp [exec, execBridgeNak, statUp, h]
  case bridgeRetrainDone1 =>
    intro s b statTrain h
    simp [exec, execBridgeRetrainDone, statTrain, h]
  case bridgeRetrainDone2 =>
    intro s b statTrain h statTries
    have early : s.fld 0 F.brg_stat_tries ≠ 3 ∧ s.fld 0 F.brg_stat_tries ≠ 2 := by omega
    simp [exec, execBridgeRetrainDone, statTrain, h, early]
  case bridgeRetrainDone3 =>
    intro s b statTrain h statTries
    simp [exec, execBridgeRetrainDone, statTrain, h, statTries]
  case cwinFlushDone =>
    intro s i c n
    simp [exec, execCwinFlushDone, n]

theorem atHome_eq {s : State} {m : CohMsg} {line : Nat} (seq ev : Nat) (up : s.flag 0 F.brg_stat_up = true)
    (room : s.homeFull m (s.coh line) = false) {y : State × CohLn}
    (arrives : y = State.homeArrive ((s.coh line).earlyH.length + 2) s
      { s.coh line with toHome := (s.coh line).toHome.filter fun y => ¬ (y.msg = m ∧ y.seq = seq % 16) } ⟨m, seq % 16, ev % 16⟩) :
    s.atHome m line seq ev = ((y.1.setCoh y.2).dirRetry line).cohResume := by
  have open_ : ¬ (¬ s.flag 0 F.brg_stat_up = true ∨ s.homeFull m (s.coh line) = true) := by simp [up, room]
  rw [State.atHome, if_neg open_, arrives]

theorem atRemote_eq {s : State} {m : CohMsg} {line : Nat} (seq : Nat) (up : s.flag 0 F.brg_stat_up = true) {y : State × CohLn}
    (arrives : y = State.remoteArrive ((s.coh line).earlyR.length + 2) s
      { s.coh line with toRemote := (s.coh line).toRemote.filter fun y => ¬ (y.msg = m ∧ y.seq = seq % 16) } ⟨m, seq % 16, 0⟩) :
    s.atRemote m line seq = (y.1.setCoh y.2).cohResume := by
  rw [State.atRemote, if_neg (by simp [up]), arrives]

/-- An access that need not wait starts where its address is coherent. -/
theorem cohAdmit_starts {s : State} {a : CohAccess} (free : s.cohBlocked a = false) (coherent : s.coherent a.pa = true) :
    s.cohAdmit a = s.cohStart a := by
  simp only [State.cohAdmit, free, coherent, Bool.false_eq_true, if_false, if_true]

/-- Settles O17: each command is evaluated in the state that its clause describes. -/
theorem coherenceCommandsComplete : Obligations.CoherenceCommandsComplete := by
  unfold Obligations.CoherenceCommandsComplete
  refine ⟨?rds, ?rdm, ?upg, ?evs, ?evm, ?rspi, ?rsps, ?rspd, ?rspev, ?snps, ?snpi, ?dats, ?datm, ?gntm, ?evack, ?coherentAccess1,
    ?coherentAccess2, ?coherentAccess3, ?coherentAccess4⟩
  case rds =>
    rintro s ln n l y up rfl room arrives
    exact congrArg _ (atHome_eq n 0 up room arrives)
  case rdm =>
    rintro s ln n l y up rfl room arrives
    exact congrArg _ (atHome_eq n 0 up room arrives)
  case upg =>
    rintro s ln n l y up rfl room arrives
    exact congrArg _ (atHome_eq n 0 up room arrives)
  case evs =>
    rintro s ln n l y up rfl room arrives
    exact congrArg _ (atHome_eq n 0 up room arrives)
  case evm =>
    rintro s ln n l y up rfl room arrives
    exact congrArg _ (atHome_eq n 0 up room arrives)
  case rspi =>
    rintro s ln n l y up rfl room arrives
    exact congrArg _ (atHome_eq n 0 up room arrives)
  case rsps =>
    rintro s ln n l y up rfl room arrives
    exact congrArg _ (atHome_eq n 0 up room arrives)
  case rspd =>
    rintro s ln n l y up rfl room arrives
    exact congrArg _ (atHome_eq n 0 up room arrives)
  case rspev =>
    rintro s ln n ev l y up rfl room arrives
    exact congrArg _ (atHome_eq n ev up room arrives)
  case snps =>
    rintro s ln n l y up rfl arrives
    exact congrArg _ (atRemote_eq n up arrives)
  case snpi =>
    rintro s ln n l y up rfl arrives
    exact congrArg _ (atRemote_eq n up arrives)
  case dats =>
    rintro s ln n l y up rfl arrives
    exact congrArg _ (atRemote_eq n up arrives)
  case datm =>
    rintro s ln n l y up rfl arrives
    exact congrArg _ (atRemote_eq n up arrives)
  case gntm =>
    rintro s ln n l y up rfl arrives
    exact congrArg _ (atRemote_eq n up arrives)
  case evack =>
    rintro s ln n l y up rfl arrives
    exact congrArg _ (atRemote_eq n up arrives)
  case coherentAccess1 =>
    rintro s d pa len wd tag a l y rfl free coherent home rfl rfl
    simp only [exec, execCoherentAccess, cohAdmit_starts free coherent, State.cohStart, home, if_true]
  case coherentAccess2 =>
    rintro s d pa len wd tag a l y rfl free coherent remote up rfl rfl
    simp only [exec, execCoherentAccess, cohAdmit_starts free coherent, State.cohStart, if_neg remote, up, Bool.false_eq_true, if_false]
  case coherentAccess3 =>
    rintro s d pa len wd tag a rfl free plain
    simp only [exec, execCoherentAccess, State.cohAdmit, free, plain, Bool.false_eq_true, if_false]
  case coherentAccess4 =>
    rintro s d pa len wd tag a rfl blocked
    simp only [exec, execCoherentAccess, State.cohAdmit, blocked, if_true]

/-- An access of one granule of stacked DRAM names an address of it. -/
theorem hbm_address_good {a n : Nat} (hbm : isHbm a = true) (some : n ≠ 0) (fits : a % 256 + n ≤ 256) :
    ¬ (¬ isHbm a = true ∨ n = 0 ∨ 256 < a % 256 + n) := by
  rintro (h | h | h)
  · exact h hbm
  · exact some h
  · omega

/-- Settles O18: each command is evaluated in the state that its clause describes. -/
theorem hbmCommandsComplete : Obligations.HbmCommandsComplete := by
  unfold Obligations.HbmCommandsComplete
  refine ⟨?hbmRequest1, ?hbmRequest2, ?refreshSlot, ?hbmTempReport, ?cewWindowEnd, ?hbmCacheRead1, ?hbmCacheRead2, ?hbmCacheWrite,
    ?wcAgeExpire, ?hcacheFlushDone, ?hbmTrainDone1, ?hbmTrainDone2, ?hbmOwnReady, ?tgenRunEnd, ?repairCmdDone, ?weightSlotRead⟩
  case hbmRequest1 =>
    rintro s d n ecc wt c i q b u on rfl rfl queued settled rfl picked taken
    have busy : ¬ ((s.pc d n).rq.isEmpty = true ∧ (s.pc d n).wq.isEmpty = true) := by
      rcases queued with h | h <;> simp [h]
    simp only [exec, execHbmRequest, on, settled, not_true_eq_false, Bool.false_eq_true, if_false, if_neg busy, picked, taken]
  case hbmRequest2 =>
    intro s d n ecc wt on rq wq stackSettled
    simp [exec, execHbmRequest, on, rq, wq, stackSettled]
  case refreshSlot =>
    rintro s d n a b ecc u statUp rfl
    simp [exec, execRefreshSlot, statUp]
  case hbmTempReport =>
    rintro s d i t u statHot h rfl
    simp [exec, execHbmTempReport, statHot, h, b2n]
  case cewWindowEnd =>
    intro s d
    rfl
  case hbmCacheRead1 =>
    rintro s a n tag d y q on rfl hbm some fits unowned still ahead line rfl
    simp only [exec, execHbmCacheRead, on, if_neg (hbm_address_good hbm some fits), unowned, still, Bool.false_eq_true, or_self, if_false,
      State.cacheRead, ahead, line]
  case hbmCacheRead2 =>
    rintro s a n tag d g q on rfl rfl hbm some fits unowned still miss room rfl
    have missed : (if (s.pc (ownerDie a) (hbmLoc (granuleOf a)).pc).rq.any (fun q => q.g = granuleOf a) = true then none
        else s.lineOf (ownerDie a) (granuleOf a)) = none := by
      rcases miss with h | h
      · rw [if_pos h]
      · rw [h, ite_self]
    simp only [exec, execHbmCacheRead, on, if_neg (hbm_address_good hbm some fits), unowned, still, Bool.false_eq_true, or_self, if_false,
      State.cacheRead, missed, if_neg (Nat.not_le.2 room)]
  case hbmCacheWrite =>
    intro s a l po on hbm some fits free
    have good : ¬ (¬ isHbm a = true ∨ l = [] ∨ 256 < a % 256 + l.length) := by
      rintro (h | h | h)
      · exact h hbm
      · exact some h
      · omega
    simp only [exec, execHbmCacheWrite, on, Bool.false_eq_true, if_false, if_neg good, memRequest_served free, memServe_write]
  case wcAgeExpire =>
    intro s d g y on wcOf
    simp [exec, execWcAgeExpire, on, wcOf]
  case hcacheFlushDone =>
    intro s d flushBusy
    simp [exec, execHcacheFlushDone, flushBusy]
  case hbmTrainDone1 =>
    intro s d i b statTrain h
    simp [exec, execHbmTrainDone, statTrain, h]
  case hbmTrainDone2 =>
    rintro s d i b n u statTrain h rfl h2 rfl
    simp [exec, execHbmTrainDone, statTrain, h, h2]
  case hbmOwnReady =>
    intro s d i flushOwn pcs
    simp only [exec, execHbmOwnReady, flushOwn, pcs, not_true_eq_false, Bool.false_eq_true, if_false]
  case tgenRunEnd =>
    intro s d errs t on tgen
    simp [exec, execTgenRunEnd, on, tgen]
  case repairCmdDone =>
    rintro s c u v q on rw rfl rfl op
    simp [exec, execRepairCmdDone, on, rw, op]
  case weightSlotRead =>
    rintro s d a n ecc q on isHbm isHbm2 rfl
    simp [exec, execWeightSlotRead, on, isHbm, isHbm2]

/-- Settles O19: each command is evaluated in the state that its clause describes. -/
theorem contextCommandsComplete : Obligations.ContextCommandsComplete := by
  unfold Obligations.ContextCommandsComplete
  refine ⟨?contextFill1, ?contextFill2, ?quotaPeriodEnd, ?translationMiss1, ?translationMiss2, ?walkReadReturn, ?mmuInvDone⟩
  case contextFill1 =>
    rintro s d c i rest u fillq ctlEn cached freeEntry rfl
    simp [exec, execContextFill, fillq, ctlEn, cached, freeEntry]
  case contextFill2 =>
    rintro s d c rest y u v fillq ctlEn cached freeEntry ctxVictim rfl rfl
    simp [exec, execContextFill, fillq, ctlEn, cached, freeEntry, ctxVictim]
  case quotaPeriodEnd =>
    rintro s f rfl
    rfl
  case translationMiss1 =>
    rintro s d c w n u miss walk rfl
    simp only [exec, execTranslationMiss, miss, Bool.false_eq_true, if_false, walk]
  case translationMiss2 =>
    rintro s d c w u miss walk room rfl
    simp only [exec, execTranslationMiss, miss, Bool.false_eq_true, if_false, walk, if_neg (Nat.not_le.2 room)]
  case walkReadReturn =>
    intro s d i ecc w walks
    simp [exec, execWalkReadReturn, walks]
  case mmuInvDone =>
    rintro s d q b u inv fill rfl rfl
    simp only [exec, execMmuInvDone, inv, fill, Option.isNone_some, Bool.false_eq_true, or_self, if_false]
    cases (s.ctxd.get d).invHeld <;> rfl

end Sys2Proof.Machine
end

section
/-! SUPPORT. Links, fabric messages, Meld and pair keys. -/

namespace Sys2Proof.Machine

/-- Settles O20: each command is evaluated in the state that its clause describes. -/
theorem linkCommandsComplete : Obligations.LinkCommandsComplete := by
  unfold Obligations.LinkCommandsComplete
  refine ⟨?linkRetryTimer, ?linkCalDone1, ?linkCalDone2, ?linkCalTimeout1, ?linkCalTimeout2, ?linkEqDone, ?linkEqTimeout,
    ?linkAlignDone1, ?linkAlignDone2, ?linkAlignTimeout, ?peerExchange1, ?peerExchange2, ?linkReceiveSilence, ?txPllLockLoss,
    ?retrainDone1, ?retrainDone2, ?retrainTimeout, ?flitReceive1, ?flitReceive2, ?flitReceive3⟩
  case linkRetryTimer =>
    intro s d i released linkState ctlEn ctlAuto
    simp [exec, execLinkRetryTimer, released, linkState, ctlEn, ctlAuto]
  case linkCalDone1 =>
    intro s d i linkState fromUp
    simp [exec, execLinkCalDone, linkState, fromUp]
  case linkCalDone2 =>
    intro s d i linkState fromUp
    simp [exec, execLinkCalDone, linkState, fromUp]
  case linkCalTimeout1 =>
    intro s d i linkState fromUp
    simp [exec, execLinkCalTimeout, linkState, fromUp]
  case linkCalTimeout2 =>
    intro s d i linkState fromUp
    simp [exec, execLinkCalTimeout, linkState, fromUp]
  case linkEqDone =>
    intro s d i linkState
    simp [exec, execLinkEqDone, linkState]
  case linkEqTimeout =>
    intro s d i linkState
    simp [exec, execLinkEqTimeout, linkState]
  case linkAlignDone1 =>
    intro s d i linkState
    simp [exec, execLinkAlignDone, linkState]
  case linkAlignDone2 =>
    intro s d i linkState
    simp [exec, execLinkAlignDone, linkState]
  case linkAlignTimeout =>
    intro s d i linkState
    simp [exec, execLinkAlignTimeout, linkState]
  case peerExchange1 =>
    rintro s d i a l p u inPeer rfl rfl expected
    have agrees : ¬ (bit (s.lk d i).peer 63 = true ∧ (bits (s.lk d i).peer 43 15 ≠ a.val ∨ bits (s.lk d i).peer 38 5 ≠ l.val)) := by
      rcases expected with h | ⟨h, k⟩
      · simp [h]
      · simp [h, k]
    simp only [exec, execPeerExchange, inPeer, not_true_eq_false, if_false, if_neg agrees]
  case peerExchange2 =>
    rintro s d i a l p u inPeer rfl rfl flagged field
    simp [exec, execPeerExchange, inPeer, flagged, field]
  case linkReceiveSilence =>
    intro s d i linkState
    simp [exec, execLinkReceiveSilence, linkState]
  case txPllLockLoss =>
    intro s d i linkState
    simp [exec, execTxPllLockLoss, linkState]
  case retrainDone1 =>
    intro s d i linkState atPeer
    simp [exec, execRetrainDone, linkState, atPeer]
  case retrainDone2 =>
    intro s d i linkState atPeer
    simp [exec, execRetrainDone, linkState, atPeer]
  case retrainTimeout =>
    intro s d i linkState
    simp [exec, execRetrainTimeout, linkState]
  case flitReceive1 =>
    intro s d i hd sl linkState flagged flitGood
    simp [exec, execFlitReceive, linkState, flagged, flitGood]
  case flitReceive2 =>
    intro s d i hd sl linkState flagged flitGood field
    simp [exec, execFlitReceive, linkState, flagged, flitGood, field]
  case flitReceive3 =>
    intro s d i hd sl linkState flagged flitGood
    simp [exec, execFlitReceive, linkState, flagged, flitGood]

/-- Settles O21: each command is evaluated in the state that its clause describes. -/
theorem fabricMessagesComplete : Obligations.FabricMessagesComplete := by
  unfold Obligations.FabricMessagesComplete
  refine ⟨?rd, ?wr, ?rsp, ?seg1, ?sack, ?frgOut1, ?frgIn1, ?frgCtl, ?seg2, ?frgOut2, ?frgIn2⟩
  case rd =>
    intro s d a m u arrives
    simp [exec, execRd, arrives]
  case wr =>
    intro s d a m u arrives
    simp [exec, execWr, arrives]
  case rsp =>
    intro s d a m u arrives
    simp [exec, execRsp, arrives]
  case seg1 =>
    intro s d a m u arrives segEarly
    simp [exec, execSeg, arrives, segEarly]
  case sack =>
    intro s d a m u arrives
    simp [exec, execSack, arrives]
  case frgOut1 =>
    intro s d a m u low outsFull arrives
    simp [exec, execFrgOut, low, outsFull, arrives]
  case frgIn1 =>
    intro s d a m u low intakeFull arrives
    simp [exec, execFrgIn, low, intakeFull, arrives]
  case frgCtl =>
    intro s d a m u low arrives
    simp [exec, execFrgCtl, low, arrives]
  case seg2 =>
    intro s d a m u arrives segEarly earlyFull
    simp [exec, execSeg, arrives, segEarly, earlyFull]
  case frgOut2 =>
    intro s d a m u low outsFull arrives
    simp [exec, execFrgOut, low, outsFull, arrives]
  case frgIn2 =>
    intro s d a m u low intakeFull arrives
    simp [exec, execFrgIn, low, intakeFull, arrives]

/-- A record that is there is taken out of the inbox. -/
theorem onRecord_taken {s : State} {typ a b : Nat} {l : List Byte} (h : s.nextRecord typ = some (a, b, l)) (f : State → Nat → JoinRec → State) :
    s.onRecord typ f = .next (f { s with master := { s.master with inbox := s.master.inbox.erase (a, b, l) } } b (JoinRec.ofBytes l)) := by
  simp only [State.onRecord, h]

/-- Settles O22: each command is evaluated in the state that its clause describes. -/
theorem meldCommandsComplete : Obligations.MeldCommandsComplete := by
  unfold Obligations.MeldCommandsComplete
  refine ⟨?initDone, ?snapDone, ?encDone, ?trickClose1, ?trickClose2, ?applyDone, ?joinReq, ?joinAck, ?joinRefuse, ?joinReady,
    ?joinDone, ?joinTimeout⟩
  case initDone =>
    intro s d j jobSt
    simp [exec, execInitDone, jobSt]
  case snapDone =>
    intro s d j jobSt
    simp [exec, execSnapDone, jobSt]
  case encDone =>
    intro s d j jobSt
    simp [exec, execEncDone, jobSt]
  case trickClose1 =>
    intro s d j jobSt tai
    simp [exec, execTrickClose, State.closeTest, jobSt, tai]
  case trickClose2 =>
    intro s d j closing early enabled loose merged
    simp [exec, execTrickClose, State.closeTest, closing, Nat.not_le.2 early, enabled, loose, merged]
  case applyDone =>
    intro s d j jobSt
    simp [exec, execApplyDone, jobSt]
  case joinReq =>
    rintro s a b l q u nextRecord rfl rfl
    simp only [exec, execJoinReq, onRecord_taken nextRecord]
  case joinAck =>
    rintro s a b l q u j nextRecord rfl rfl job
    simp only [exec, execJoinAck, onRecord_taken nextRecord, job]
  case joinRefuse =>
    rintro s a b l q u nextRecord rfl rfl
    simp only [exec, execJoinRefuse, onRecord_taken nextRecord]
  case joinReady =>
    rintro s a b l q u j nextRecord rfl rfl job
    simp only [exec, execJoinReady, onRecord_taken nextRecord, job]
  case joinDone =>
    rintro s a b l q u j y v nextRecord rfl rfl job site inState rfl
    simp only [exec, execJoinDone, onRecord_taken nextRecord, job, site, inState, if_true]
  case joinTimeout =>
    rintro s i q y j u find rfl rfl job
    simp [exec, execJoinTimeout, find, job]

/-- Settles O24: each command is evaluated in the state that its clause describes. -/
theorem pairAndControlCommandsComplete : Obligations.PairAndControlCommandsComplete := by
  unfold Obligations.PairAndControlCommandsComplete
  refine ⟨?pairSecretUnwrapDone1, ?pairSecretUnwrapDone2, ?keyDerivationDone, ?controlAckTimer, ?controlRetransmit1,
    ?controlRetransmit2, ?summarySend, ?summary, ?nackRepeat, ?nack⟩
  case pairSecretUnwrapDone1 =>
    rintro s d l u b key load rfl mixed kek wrapped
    simp [exec, execPairSecretUnwrapDone, load, mixed, kek, wrapped]
  case pairSecretUnwrapDone2 =>
    rintro s d l u load rfl refused
    have none_ : (if l.mixed = true then none else
        (((s.updCip d fun y => { y with load := none }).setFld d F.cip_ld_busy 0).setFld d F.cip_ld_go 0).boot.fuses.kek.bind
          fun k => keyUnwrap k l.wrapped) = none := by
      rcases refused with h | h
      · rw [if_pos h]
      · rw [h, ite_self]
    simp only [exec, execPairSecretUnwrapDone, load, none_]
  case keyDerivationDone =>
    intro s d i g a q prep secret
    simp only [exec, execKeyDerivationDone, State.keyDerived, prep, secret]
  case controlAckTimer =>
    intro s d i c conns ackDue pair
    simp [exec, execControlAckTimer, conns, ackDue, pair]
  case controlRetransmit1 =>
    rintro s d i a c m u conns cseq pair crtoCmax rfl
    simp [exec, execControlRetransmit, conns, cseq, pair, crtoCmax]
  case controlRetransmit2 =>
    rintro s d i a c m u conns cseq pair crtoCmax rfl
    simp [exec, execControlRetransmit, conns, cseq, pair, crtoCmax]
  case summarySend =>
    rintro s d a b t u job sent rfl
    simp [exec, execSummarySend, job, sent]
  case summary =>
    intro s d n a z b u takeRec
    simp [exec, execSummary, takeRec]
  case nackRepeat =>
    rintro s d n m x u nacks rfl h repMax wanted hUntil rfl
    simp [exec, execNackRepeat, nacks, h, repMax, wanted, hUntil]
  case nack =>
    intro s d n a z b u sends takeRec beAt
    simp [exec, execNack, sends, takeRec, beAt]

end Sys2Proof.Machine
end

section
/-! SUPPORT. Site time, determinism, checkpoints, recovery and the sealed meter. -/

namespace Sys2Proof.Machine

/-- The state after a pulse edge was taken, before the clock is measured against it (R483). -/
def State.pulseTaken (s : State) (interval : Nat) : State :=
  (s.updGnss fun g => { g with
    ppsGood := if 999999000 ≤ interval ∧ interval ≤ 1000001000 then g.ppsGood + 1 else 0
    edge := s.time.ns
    sec := match g.next with
      | some n => some n
      | none => g.sec.map (· + 1)
    next := none }).gnssTest

theorem exec_ppsEdge (s : State) (a : Nat) : exec (.ppsEdge a) s = .next (if (s.pulseTaken a).qualified 1 = true then
    ((s.pulseTaken a).tally 0 R.time_t_pps).time.gnss.sec.elim ((s.pulseTaken a).tally 0 R.time_t_pps) fun n =>
      ((s.pulseTaken a).tally 0 R.time_t_pps).measured 1 ((n * 4000000000 : Nat) - s.quarters)
    else s.pulseTaken a) := by
  have run : exec (.ppsEdge a) s = if ¬ (s.pulseTaken a).qualified 1 = true then .next (s.pulseTaken a) else
      match ((s.pulseTaken a).tally 0 R.time_t_pps).time.gnss.sec with
      | some n => .next (((s.pulseTaken a).tally 0 R.time_t_pps).measured 1 ((n * 4000000000 : Nat) - s.quarters))
      | none => .next ((s.pulseTaken a).tally 0 R.time_t_pps) := by
    simp only [exec, execPpsEdge, State.pulseTaken] <;> rfl
  rw [run]
  cases (s.pulseTaken a).qualified 1 with
  | false => simp
  | true => cases ((s.pulseTaken a).tally 0 R.time_t_pps).time.gnss.sec <;> simp

/-- Settles O25: each command is evaluated in the state that its clause describes. -/
theorem timeCommandsComplete : Obligations.TimeCommandsComplete := by
  unfold Obligations.TimeCommandsComplete
  refine ⟨?ppsEdge1, ?ppsEdge2, ?zdaSentence1, ?zdaSentence2, ?ptpSync, ?followUp, ?delayResp, ?announce, ?sourceLossTimeout1,
    ?sourceLossTimeout2, ?sourceLossTimeout3, ?sourceLossTimeout4, ?ref10mQualify, ?ref10mOutOfRange, ?holdoverLimit, ?timeMark⟩
  case ppsEdge1 =>
    intro s a u taken qualified
    obtain rfl : u = s.pulseTaken a := taken
    rw [exec_ppsEdge, qualified]
    rfl
  case ppsEdge2 =>
    intro s a u n taken qualified second
    obtain rfl : u = s.pulseTaken a := taken
    rw [exec_ppsEdge, qualified, if_pos rfl, second, Option.elim_some]
  case zdaSentence1 =>
    intro s l a b zdaParse h h2
    simp [exec, execZdaSentence, zdaParse, h, h2]
  case zdaSentence2 =>
    intro s l a zdaParse
    simp [exec, execZdaSentence, zdaParse]
  case ptpSync =>
    intro s i m ptpTakes
    simp [exec, execPtpSync, ptpTakes]
  case followUp =>
    rintro s i m a b u sync ptpTakes rfl rfl
    simp only [exec, execFollowUp, sync, ptpTakes, not_true_eq_false, ne_eq, or_self, if_false]
    split <;> rfl
  case delayResp =>
    rintro s i m a b y req pair ptpTakes rfl
    simp [exec, execDelayResp, req, pair, ptpTakes]
  case announce =>
    rintro s i a b l u ptpOn domain scale rfl rfl rfl other
    simp only [exec, execAnnounce, ptpOn, domain, scale, not_true_eq_false, ne_eq, or_self, if_false]
    rw [if_neg other]
  case sourceLossTimeout1 =>
    intro s statRef10
    change execSourceLossTimeout 0 s = _
    simp only [execSourceLossTimeout, Fin.val_zero, statRef10, if_true]
  case sourceLossTimeout2 =>
    intro s
    rfl
  case sourceLossTimeout3 =>
    intro s i h
    rcases h with rfl | rfl <;> rfl
  case sourceLossTimeout4 =>
    intro s
    rfl
  case ref10mQualify =>
    intro s
    rfl
  case ref10mOutOfRange =>
    intro s statRef10
    simp [exec, execRef10mOutOfRange, statRef10]
  case holdoverLimit =>
    intro s timeSt long
    simp [exec, execHoldoverLimit, timeSt, long]
  case timeMark =>
    intro s
    rfl

/-- Settles O26: each command is evaluated in the state that its clause describes. -/
theorem determinismAndCheckpointCommandsComplete : Obligations.DeterminismAndCheckpointCommandsComplete := by
  unfold Obligations.DeterminismAndCheckpointCommandsComplete
  refine ⟨?strictSettled, ?twinRecord, ?twinPeerTimeout, ?preqPoll, ?cutQuiesced, ?cutQuiesceTimeout, ?cutCopyDone,
    ?cutManifestDone, ?drainDone, ?restoreDone⟩
  case strictSettled =>
    intro s hands colls
    simp only [exec, execStrictSettled, hands, colls, Bool.false_eq_true, or_self, if_false]
  case twinRecord =>
    intro s r n y seq twMode
    have reaches : ¬ (s.fld 0 F.det_tw_mode = 1 ∧ s.bridgeDown = true) := by
      rcases twMode with h | h <;> simp [h]
    simp only [exec, execTwinRecord, seq, if_neg reaches]
  case twinPeerTimeout =>
    intro s statTw twinWaiting
    simp [exec, execTwinPeerTimeout, statTw, twinWaiting]
  case preqPoll =>
    rintro s a u released rfl rfl preq
    simp [exec, execPreqPoll, released, preq]
  case cutQuiesced =>
    intro s q i run statState ctx desc
    simp [exec, execCutQuiesced, run, statState, ctx, desc]
  case cutQuiesceTimeout =>
    intro s q run statState
    simp [exec, execCutQuiesceTimeout, run, statState]
  case cutCopyDone =>
    intro s q run statState ctx
    simp [exec, execCutCopyDone, run, statState, ctx]
  case cutManifestDone =>
    intro s q run statState
    simp [exec, execCutManifestDone, run, statState]
  case drainDone =>
    intro s l o q drain hostReady
    simp [exec, execDrainDone, drain, hostReady]
  case restoreDone =>
    intro s rstBusy
    simp [exec, execRestoreDone, rstBusy]

/-- Settles O27: each command is evaluated in the state that its clause describes. -/
theorem recoveryCommandsComplete : Obligations.RecoveryCommandsComplete := by
  unfold Obligations.RecoveryCommandsComplete
  refine ⟨?logRingWrite, ?warningWindowEnd, ?rcSelftestDone1, ?rcSelftestDone2, ?rcSelftestFail, ?rcTwinSignal1, ?rcTwinSignal2,
    ?rcTwinLost, ?failNAssert, ?heartbeatSend, ?hb, ?electionPeriod1, ?electionPeriod2, ?hbSilenceTimeout, ?failureNotice,
    ?takeoverRecord, ?wrReissue⟩
  case logRingWrite =>
    intro s d y rest fifo ctlStop
    have writes : ¬ (s.ringFull d = true ∧ s.flag d F.err_ctl_stop = true) := by
      rcases ctlStop with h | h <;> simp [h]
    simp only [exec, execLogRingWrite, fifo, if_neg writes]
  case warningWindowEnd =>
    intro s d i
    rfl
  case rcSelftestDone1 =>
    rintro s d b t u rc statPhase h rfl rfl
    simp [exec, execRcSelftestDone, rc, statPhase, h]
  case rcSelftestDone2 =>
    intro s d b rc statPhase h
    simp [exec, execRcSelftestDone, rc, statPhase, h]
  case rcSelftestFail =>
    intro s d a rcUp
    simp [exec, execRcSelftestFail, rcUp]
  case rcTwinSignal1 =>
    rintro s d a v u rfl rcUp h rc rfl
    simp [exec, execRcTwinSignal, rcUp, h, rc]
  case rcTwinSignal2 =>
    rintro s d a v u rfl rcUp h rc rfl
    simp only [exec, execRcTwinSignal, rcUp, h, not_true_eq_false, or_self, if_false, if_neg rc]
    exact (apply_ite Host.Outcome.next _ _ _).symm
  case rcTwinLost =>
    intro s d rcUp
    simp [exec, execRcTwinLost, rcUp]
  case failNAssert =>
    rintro s u statFail rfl
    simp [exec, execFailNAssert, statFail]
  case heartbeatSend =>
    rintro s d b statLoaded rfl
    simp [exec, execHeartbeatSend, statLoaded]
  case hb =>
    intro s d i m linkState kind
    simp [exec, execHb, linkState, kind]
  case electionPeriod1 =>
    intro s d statLoaded h
    simp [exec, execElectionPeriod, statLoaded, h]
  case electionPeriod2 =>
    intro s d statLoaded h
    simp [exec, execElectionPeriod, statLoaded, h]
  case hbSilenceTimeout =>
    intro s d i linkState
    simp [exec, execHbSilenceTimeout, linkState]
  case failureNotice =>
    intro s f a b t isMaster
    simp [exec, execFailureNotice, isMaster]
  case takeoverRecord =>
    intro s f
    rfl
  case wrReissue =>
    intro s d
    rfl

/-- An event of the running meter acts on its run. -/
theorem updRun_of_running {s : State} {y : AssayRun} (h : s.asy.run = some y) (f : AssayRun → AssayRun) :
    s.updRun f = s.updAsy fun x => { x with run := some (f y) } := by
  simp only [State.updRun, State.updAsy, h, Option.map_some]

theorem updAsy_updAsy (s : State) (f g : AssayState → AssayState) : (s.updAsy f).updAsy g = s.updAsy fun x => g (f x) := rfl

/-- Of two changes of the sealed meter, only what they make of its present state counts. -/
theorem updAsy_congr {s : State} {f g : AssayState → AssayState} (h : f s.asy = g s.asy) : s.updAsy f = s.updAsy g := by
  simp only [State.updAsy, h]

/-- A good time mark reaches the running meter. -/
theorem exec_timeMarkFrame {s : State} {a : Nat} {rest : List Nat} {y : AssayRun} (i : Fin 1000) (marks : s.asy.marks = a :: rest)
    (run : s.asy.run = some y) :
    exec (.timeMarkFrame true i) s = .next (s.updAsy fun x => { x with
      marks := rest
      run := some (if ¬ y.started then { y.begin_ (a * 1000000000) true with offset := some 0 }
        else { y with offset := some (((a * 1000000000 : Nat) : Int) - ((y.ns + i.val : Nat) : Int)) }) }) := by
  have here : (s.updAsy fun x => { x with marks := rest }).asy.run = some y := run
  simp only [exec, execTimeMarkFrame, marks, updRun_of_running here]
  rfl

/-- Settles O28: each command is evaluated in the state that its clause describes. -/
theorem assayCommandsComplete : Obligations.AssayCommandsComplete := by
  unfold Obligations.AssayCommandsComplete
  refine ⟨?assayReset, ?assayPowerLoss, ?assayTimeTimeout, ?energySample, ?engineTimeReport, ?intervalEnd, ?timeMarkFrame1,
    ?timeMarkFrame2, ?offsetInvalidTimeout, ?sealRow, ?setparam, ?tamperCheck1, ?tamperCheck2, ?mirrorFrame, ?mirrorFrameReceive1,
    ?mirrorFrameReceive2, ?mirrorLost, ?powerExport⟩
  case assayReset =>
    intro s
    rfl
  case assayPowerLoss =>
    rintro s b y o n run rfl rfl
    refine congrArg _ (updAsy_congr ?_)
    simp only [run, Option.isNone_some, Bool.false_eq_true, if_false]
  case assayTimeTimeout =>
    intro s y run started
    simp only [exec, execAssayTimeTimeout, updRun_of_running run, started, Bool.false_eq_true, if_false]
  case energySample =>
    intro s l y run
    simp only [exec, execEnergySample, updRun_of_running run]
  case engineTimeReport =>
    intro s b d n l rest reports
    simp [exec, execEngineTimeReport, reports]
  case intervalEnd =>
    intro s intervalDue
    simp [exec, execIntervalEnd, intervalDue]
  case timeMarkFrame1 =>
    intro s b i a rest y marks run h started
    subst h
    simp only [exec_timeMarkFrame i marks run, started, not_true_eq_false, if_false]
  case timeMarkFrame2 =>
    intro s b i a rest y marks run h started
    subst h
    simp only [exec_timeMarkFrame i marks run, started, Bool.false_eq_true, not_false_eq_true, if_true]
  case offsetInvalidTimeout =>
    intro s y run offset
    have valid : y.offset.isNone = false := by
      rw [← Option.not_isSome, offset]
      rfl
    simp only [exec, execOffsetInvalidTimeout, updRun_of_running run, valid, Bool.false_eq_true, if_false]
  case sealRow =>
    rintro s n y u run inState h loop rfl
    have open_ : ¬ (y.param.loop = 1 ∧ y.broken = true) := by
      rcases loop with h | h <;> simp [h]
    simp only [exec, execSeal, run, inState, h, ne_eq, not_true_eq_false, if_false, if_neg open_]
  case setparam =>
    rintro s i n y u rfl run inState paramLegal
    simp only [exec, execSetparam, run, if_neg inState, paramLegal, not_true_eq_false, if_false]
  case tamperCheck1 =>
    intro s b y run loop broken h
    simp [exec, execTamperCheck, run, loop, broken, h]
  case tamperCheck2 =>
    intro s b y run loop broken h okMs
    simp [exec, execTamperCheck, run, loop, broken, h, okMs]
  case mirrorFrame =>
    rintro s y f u run rfl rfl
    simp [exec, execMirrorFrame, run]
  case mirrorFrameReceive1 =>
    rintro s b f rest u frames h rfl
    subst h
    simp only [exec, execMirrorFrameReceive, frames, not_true_eq_false, if_false, updAsy_updAsy]
  case mirrorFrameReceive2 =>
    rintro s b f rest u frames h rfl
    subst h
    simp only [exec, execMirrorFrameReceive, frames, Bool.false_eq_true, not_false_eq_true, if_true, updAsy_updAsy]
  case mirrorLost =>
    intro s statMlive
    simp [exec, execMirrorLost, statMlive]
  case powerExport =>
    rintro s b y u run expN rfl
    simp [exec, execPowerExport, run, expN]

end Sys2Proof.Machine
end

section
/-! SUPPORT. Start-up, the host port, management, debug and power. -/

namespace Sys2Proof.Machine

/-- A record of its kind that is next is run. -/
theorem writeRec_runs {s : State} {op : Nat} (h : s.loads op = true) : s.writeRec op = s.runWrite s.nextRec := if_pos h

/-- Settles O29: each command is evaluated in the state that its clause describes. -/
theorem bootCommandsComplete : Obligations.BootCommandsComplete := by
  unfold Obligations.BootCommandsComplete
  refine ⟨?deviceReset, ?undervoltage1, ?undervoltage2, ?resetRelease, ?fuseDone, ?probeDone1, ?probeDone2, ?stageDone1,
    ?stageDone2, ?verifyDone1, ?verifyDone2, ?redoDone, ?runRelease, ?readyTimeout, ?pkhprog, ?write32, ?write64, ?fill,
    ?copyToHbm, ?waitBit, ?waitBitTimeout, ?recordEnd⟩
  case deviceReset =>
    intro s i a
    rfl
  case undervoltage1 =>
    intro s a h
    simp [exec, execUndervoltage, h]
  case undervoltage2 =>
    intro s
    rfl
  case resetRelease =>
    intro s a hold
    simp [exec, execResetRelease, hold]
  case fuseDone =>
    intro s running phase
    simp [exec, execFuseDone, running, phase]
  case probeDone1 =>
    rintro s i n u running phase h rfl
    simp [exec, execProbeDone, running, phase, h]
  case probeDone2 =>
    intro s i n running phase h
    simp [exec, execProbeDone, running, phase, h]
  case stageDone1 =>
    intro s l running phase h copyLen
    simp [exec, execStageDone, running, phase, h, copyLen]
  case stageDone2 =>
    intro s l running phase copyLen
    simp [exec, execStageDone, running, phase, copyLen]
  case verifyDone1 =>
    intro s running phase staged
    simp [exec, execVerifyDone, running, phase, staged]
  case verifyDone2 =>
    intro s a running phase staged
    simp [exec, execVerifyDone, running, phase, staged]
  case redoDone =>
    rintro s u running phase rfl
    simp [exec, execRedoDone, running, phase]
  case runRelease =>
    rintro s u v a running phase rfl rfl rfl
    simp [exec, execRunRelease, running, phase]
  case readyTimeout =>
    intro s released cfgTmo statReady late
    simp [exec, execReadyTimeout, released, cfgTmo, statReady, late]
  case pkhprog =>
    intro s q toNat pkh
    simp [exec, execPkhprog, toNat, pkh]
  case write32 =>
    intro s loads
    simp only [exec, execWrite32, writeRec_runs loads]
  case write64 =>
    intro s loads
    simp only [exec, execWrite64, writeRec_runs loads]
  case fill =>
    intro s loads
    simp only [exec, execFill, writeRec_runs loads]
  case copyToHbm =>
    intro s loads
    simp only [exec, execCopyToHbm, writeRec_runs loads]
  case waitBit =>
    intro s loads
    simp [exec, execWaitBit, loads]
  case waitBitTimeout =>
    rintro s q loads rfl recArea readable
    simp [exec, execWaitBitTimeout, loads, recArea, readable]
  case recordEnd =>
    rintro s l running phase recArea op recArea2 rfl
    simp [exec, execRecordEnd, running, phase, recArea, op, recArea2]

/-- Settles O30: each command is evaluated in the state that its clause describes. -/
theorem hostCommandsComplete : Obligations.HostCommandsComplete := by
  unfold Obligations.HostCommandsComplete
  refine ⟨?bar2Access1, ?bar2Access2, ?configRequest1, ?configRequest2, ?configRequest3, ?configRequest4, ?configRequest5,
    ?configRequest6, ?hostLinkL0, ?pciePerst, ?flr, ?resizableBarWrite, ?deviceRequestTimeout, ?msixHoldExpire, ?msixUnmask,
    ?clause1, ?clause2, ?clause3⟩
  case bar2Access1 =>
    rintro s o n b a u running h h2 bar2 rfl rfl inMemory hbmStops serves
    simp [exec, execBar2Access, running, h, h2, bar2, inMemory, hbmStops, serves]
  case bar2Access2 =>
    rintro s o n a running h h2 bar2 rfl inMemory hbmStops serves
    simp [exec, execBar2Access, running, h, h2, bar2, inMemory, hbmStops, serves]
  case configRequest1 =>
    intro s running phase
    simp [exec, execConfigRequest, running, phase]
  case configRequest2 =>
    intro s running phase
    simp [exec, execConfigRequest, running, phase]
  case configRequest3 =>
    intro s running phase
    simp [exec, execConfigRequest, running, phase]
  case configRequest4 =>
    intro s running phase
    simp [exec, execConfigRequest, running, phase]
  case configRequest5 =>
    intro s running phase
    simp [exec, execConfigRequest, running, phase]
  case configRequest6 =>
    intro s running phase
    simp [exec, execConfigRequest, running, phase]
  case hostLinkL0 =>
    rintro s a w b u running h h2 contains rfl
    simp only [exec, execHostLinkL0, running, Option.isSome_none, Bool.false_eq_true, h, h2, contains, not_true_eq_false, or_self,
      if_false]
  case pciePerst =>
    intro s running
    simp [exec, execPciePerst, running]
  case flr =>
    rintro s u running phase rfl
    simp [exec, execFlr, running, phase]
  case resizableBarWrite =>
    rintro s a u running phase h h2 rfl
    have legal : ¬ (s.boot.hold.isSome = true ∨ s.phase = 1 ∨ a < 34 ∨ 40 < a) := by
      rintro (h | h | h | h)
      · simp [running] at h
      · exact phase h
      · have : a.val < 34 := h
        omega
      · have : 40 < a.val := h
        omega
    simp only [exec, execResizableBarWrite, if_neg legal]
  case deviceRequestTimeout =>
    intro s a n q drain
    simp [exec, execDeviceRequestTimeout, drain]
  case msixHoldExpire =>
    rintro s a u holding rfl
    simp only [exec, execMsixHoldExpire, holding, not_true_eq_false, if_false]
  case msixUnmask =>
    rintro s a n m u rfl
    rfl
  case clause1 =>
    intro s a n b waits
    exact if_pos waits
  case clause2 =>
    intro s a b clear free
    have now : ¬ (s.behind .host = true ∨ s.memBlocked ⟨0, true, a, b.length, some b, false, []⟩ = true) := by simp [clear, free]
    exact if_neg now
  case clause3 =>
    rintro s a n q clear free rfl
    have now : ¬ (s.behind .host = true ∨ s.memBlocked ⟨0, false, a, n, none, false, []⟩ = true) := by simp [clear, free]
    exact if_neg now

theorem mgmtRead_delivers {s u : State} {cmd w a n : Nat} (h : s.busRead .mgmt a w = some (n, u)) :
    s.mgmtRead cmd w a none = u.emit (.i3c 0 (leBytes (w / 8) n)) := by
  simp only [State.mgmtRead, Option.filter_none, h]

theorem mgmtWrite_done {s u : State} {cmd w a n : Nat} (h : s.busWrite .mgmt a w n = some u) : s.mgmtWrite cmd w a n none = u := by
  simp only [State.mgmtWrite, Option.filter_none, h, Option.getD_some]

/-- An access of a debug port that is open and not busy ends with the data of the bus. -/
theorem dbgacc_done {s v : State} {cmd n : Nat} {f : State → Option (Nat × State)} (running : s.boot.hold = none)
    (ready : s.jtagOut.dbg.status ≠ 1) (open_ : s.jtagOut.flag 0 F.dbg_ctl_dis = false) (h : f s.jtagOut = some (n, v)) :
    s.dbgacc cmd f = v.dbgEnds 0 n := by
  simp only [State.dbgacc, running, Option.isSome_none, Bool.false_eq_true, if_false, if_neg ready, open_, h]

/-- Settles O31: each command is evaluated in the state that its clause describes. -/
theorem managementAndDebugCommandsComplete : Obligations.ManagementAndDebugCommandsComplete := by
  unfold Obligations.ManagementAndDebugCommandsComplete
  refine ⟨?mgmtRead32, ?mgmtRead64, ?mgmtWrite32, ?mgmtWrite64, ?dynamicAddressAssign, ?rstdaa, ?ibiHoldExpire1, ?ibiHoldExpire2,
    ?telemetryPeriod1, ?telemetryPeriod2, ?dbgRead32, ?dbgRead64, ?dbgWrite32, ?dbgWrite64⟩
  case mgmtRead32 =>
    intro s a n u running mgmt
    simp only [exec, execMgmtRead32, running, Option.isSome_none, Bool.false_eq_true, if_false, mgmtRead_delivers mgmt]
  case mgmtRead64 =>
    intro s a n u running mgmt
    simp only [exec, execMgmtRead64, running, Option.isSome_none, Bool.false_eq_true, if_false, mgmtRead_delivers mgmt]
  case mgmtWrite32 =>
    intro s a n u running mgmt
    simp only [exec, execMgmtWrite32, running, Option.isSome_none, Bool.false_eq_true, if_false, mgmtWrite_done mgmt]
  case mgmtWrite64 =>
    intro s a n u running mgmt
    simp only [exec, execMgmtWrite64, running, Option.isSome_none, Bool.false_eq_true, if_false, mgmtWrite_done mgmt]
  case dynamicAddressAssign =>
    rintro s a b u running statI3c rfl
    simp [exec, execDynamicAddressAssign, running, statI3c]
  case rstdaa =>
    rintro s u running rfl
    simp [exec, execRstdaa, running]
  case ibiHoldExpire1 =>
    rintro s a n u holding deferred rfl
    simp [exec, execIbiHoldExpire, holding, deferred]
  case ibiHoldExpire2 =>
    intro s holding deferred
    simp [exec, execIbiHoldExpire, holding, deferred]
  case telemetryPeriod1 =>
    intro s b running ctlEn h
    simp [exec, execTelemetryPeriod, running, ctlEn, h]
  case telemetryPeriod2 =>
    rintro s b u running ctlEn h rfl
    simp [exec, execTelemetryPeriod, running, ctlEn, h]
  case dbgRead32 =>
    rintro s a n u v running rfl status ctlDis dbg
    exact congrArg _ (dbgacc_done running status ctlDis dbg)
  case dbgRead64 =>
    rintro s a n u v running rfl status ctlDis dbg
    exact congrArg _ (dbgacc_done running status ctlDis dbg)
  case dbgWrite32 =>
    rintro s a n u v running rfl status ctlDis dbg
    exact congrArg _ (dbgacc_done running status ctlDis (by rw [dbg, Option.map_some]))
  case dbgWrite64 =>
    rintro s a n u v running rfl status ctlDis dbg
    exact congrArg _ (dbgacc_done running status ctlDis (by rw [dbg, Option.map_some]))

/-- Settles O32: each command is evaluated in the state that its clause describes. -/
theorem powerCommandsComplete : Obligations.PowerCommandsComplete := by
  unfold Obligations.PowerCommandsComplete
  refine ⟨?capSlowStep, ?brakeAssert, ?brakeRelease, ?dvfsDone, ?pmbusWriteRetry1, ?pmbusWriteRetry2, ?thermalTrip⟩
  case capSlowStep =>
    rintro s l u rfl h map rfl
    simp [exec, execCapSlowStep, h, map]
  case brakeAssert =>
    intro s
    rfl
  case brakeRelease =>
    intro s
    rfl
  case dvfsDone =>
    rintro s r q u v dvfs rfl rfl
    simp only [exec, execDvfsDone, dvfs]
    cases q.held <;> rfl
  case pmbusWriteRetry1 =>
    rintro s d b a n u retry rfl h
    simp [exec, execPmbusWriteRetry, retry, h]
  case pmbusWriteRetry2 =>
    rintro s d b a n u retry rfl h h2
    simp [exec, execPmbusWriteRetry, retry, h, h2]
  case thermalTrip =>
    rintro s a b u statTrip rfl
    simp [exec, execThermalTrip, statTrip]

end Sys2Proof.Machine
end

section
/-! SUPPORT. The WAN: a second packet of the same key waits in the key miss queue. -/

namespace Sys2Proof.Machine

/-- Two packets of one key wait for it in die 0. -/
def twoMisses : State := State.reset.updCip 0 fun x => { x with miss := [[], []] }

/-- The packets that still wait for a key in die 0 after a command. -/
def missesAfter : Host.Outcome State Fault Refusal → List (List Byte)
  | .next s => (s.cp 0).miss
  | _ => []

/-- The key that was derived serves every packet that waited for it. -/
theorem twoMisses_served : missesAfter (exec (.keyMissDerived 0) twoMisses) = [] := by decide +kernel

/-- Refutes O23: the clause of a derived key leaves the second of two packets of that key waiting, and the part serves both. -/
theorem not_wanCommandsComplete : ¬ Obligations.WanCommandsComplete := by
  unfold Obligations.WanCommandsComplete
  rintro ⟨-, -, -, -, -, -, -, -, -, -, -, -, -, -, -, derived, -⟩
  have left := congrArg missesAfter (derived twoMisses 0 [] [[]] _ rfl rfl)
  rw [twoMisses_served] at left
  exact absurd left (by decide +kernel)

end Sys2Proof.Machine
end

section
/-! SUPPORT. Writes of registers that a path takes: what they store, and what the register does beyond. -/

namespace Sys2Proof.Machine

/-! ## Bits of the values written -/

theorem putBits_lt {w lo n v k : Nat} (h : w < 2 ^ k) (inside : lo + n ≤ k) : putBits w lo n v < 2 ^ k := by
  refine Nat.lt_pow_two_of_testBit _ fun j hj => ?_
  rw [testBit_putBits, if_neg (by omega)]
  exact Nat.testBit_lt_two_pow (h.trans_le (Nat.pow_le_pow_right (by norm_num) hj))

/-- A bit of a field just written. -/
theorem bit_putBits {lo n j : Nat} (w v : Nat) (h1 : lo ≤ j) (h2 : j < lo + n) : bit (putBits w lo n v) j = v.testBit (j - lo) := by
  rw [bit_eq_testBit, testBit_putBits, if_pos ⟨h1, h2⟩]

theorem bit_or_two_pow (v k : Nat) : bit (v ||| 2 ^ k) k = true := by
  rw [bit_eq_testBit, Nat.testBit_or, Nat.testBit_two_pow_self, Bool.or_true]

/-! ## Register writes -/

/-- The address of the register answers with this register alone, which is no mirror of die 1, no first record and none of the
boot unit. -/
def Reg.answers (r : Reg) (d i : Nat) : Bool :=
  !ovfWord (r.pa d i) && decide (csrTouch (r.pa d i) r.w = some [(⟨regSpec r, d, i, 0⟩, 0, r.w)]) && decide ((regSpec r).reg = r) &&
    decide (r.unit ≠ 1) && decide (r.kind ≠ .mirror ∨ d ≠ 1) && !(regSpec r).first

/-- The register answers at its address, which is outside the repair window. -/
def Reg.reaches (r : Reg) (d i : Nat) : Bool := r.answers d i && !isRepair (r.pa d i)

section
variable {s : State} {p : Path} {d v i n : Nat} {r : Reg}

/-- A register write that is accepted and that no rule of the register replaces stores the fields and does the register's action. -/
theorem regIn_answers (taking : s.taking p (r.pa d i)) (answers : r.answers d i = true) (bytes : r.w / 8 = n)
    (open_ : isRepair (r.pa d i) = false ∨ (s.heard p n).unowned = false) (fits : v < 2 ^ r.w)
    (ok : (s.came p (r.pa d i) n).accepts d r v i = true) :
    s.regIn p d r v i = ((s.came p (r.pa d i) n).ownWrite d r i ((s.came p (r.pa d i) n).after d r v i)).getD
      (((s.came p (r.pa d i) n).stored d r v i).written p d r i ((s.came p (r.pa d i) n).reg d r i) v) := by
  simp only [Reg.answers, Bool.and_eq_true, Bool.not_eq_true', decide_eq_true_eq] at answers
  subst bytes
  obtain ⟨⟨⟨⟨⟨ovf, touch⟩, spec⟩, unit⟩, kind⟩, first⟩ := answers
  rw [regIn_eq s p d r v i taking ovf touch spec open_ unit kind fits, if_pos ok, first, Bool.false_and]
  rfl

theorem regIn_stored_of_owned (taking : s.taking p (r.pa d i)) (owned : (s.heard p n).unowned = false)
    (answers : r.answers d i = true) (bytes : r.w / 8 = n) (fits : v < 2 ^ r.w) (ok : (s.came p (r.pa d i) n).accepts d r v i = true)
    (plain : ∀ (t : State) (new : Nat), t.ownWrite d r i new = none) :
    s.regIn p d r v i =
      ((s.came p (r.pa d i) n).stored d r v i).written p d r i ((s.came p (r.pa d i) n).reg d r i) v := by
  rw [regIn_answers taking answers bytes (.inr owned) fits ok, plain, Option.getD_none]

theorem regIn_stored (taking : s.taking p (r.pa d i)) (reach : r.reaches d i = true) (bytes : r.w / 8 = n) (fits : v < 2 ^ r.w)
    (ok : (s.came p (r.pa d i) n).accepts d r v i = true) (plain : ∀ (t : State) (new : Nat), t.ownWrite d r i new = none) :
    s.regIn p d r v i =
      ((s.came p (r.pa d i) n).stored d r v i).written p d r i ((s.came p (r.pa d i) n).reg d r i) v := by
  simp only [Reg.reaches, Bool.and_eq_true, Bool.not_eq_true'] at reach
  rw [regIn_answers taking reach.1 bytes (.inl reach.2) fits ok, plain, Option.getD_none]

/-- A register write that is accepted, and that a rule of the register replaces, does what the rule says. -/
theorem regIn_own {t : State} (taking : s.taking p (r.pa d i)) (reach : r.reaches d i = true) (bytes : r.w / 8 = n) (fits : v < 2 ^ r.w)
    (ok : (s.came p (r.pa d i) n).accepts d r v i = true)
    (own : (s.came p (r.pa d i) n).ownWrite d r i ((s.came p (r.pa d i) n).after d r v i) = some t) :
    s.regIn p d r v i = t := by
  simp only [Reg.reaches, Bool.and_eq_true, Bool.not_eq_true'] at reach
  rw [regIn_answers taking reach.1 bytes (.inl reach.2) fits ok, own, Option.getD_some]

end

/-! ## Compute registers -/

theorem written_det_ctl (t : State) (p : Path) (d i old v : Nat) : t.written p d R.det_ctl i old v =
      if bit old 2 ∧ ¬ t.onDetStrict.flag 0 F.det_ctl_rp then t.onDetStrict.onReplayOff else t.onDetStrict := rfl
theorem plain_det_ctl (d i : Nat) (t : State) (new : Nat) : t.ownWrite d R.det_ctl i new = none := rfl
theorem written_det_tw_mm (t : State) (p : Path) (d i old : Nat) : t.written p d R.det_tw_mm i old (2 ^ 63) = t.onTwinRelease := rfl
theorem plain_det_tw_mm (d i : Nat) (t : State) (new : Nat) : t.ownWrite d R.det_tw_mm i new = none := rfl
theorem ownWrite_mxe_bq_ctl (t : State) (d i new : Nat) : t.ownWrite d R.mxe_bq_ctl i new = some (t.onBqCtl d i new) := rfl
theorem written_mxe_freeze_lim (t : State) (p : Path) (d i old v : Nat) : t.written p d R.mxe_freeze_lim i old v = t := rfl
theorem plain_mxe_freeze_lim (d i : Nat) (t : State) (new : Nat) : t.ownWrite d R.mxe_freeze_lim i new = none := rfl
theorem written_dlr_db (t : State) (p : Path) (d i old v : Nat) : t.written p d R.dlr_db i old v = t.onDoorbell d v := by
  simp [State.written, R.dlr_db]
theorem plain_dlr_db (d i : Nat) (t : State) (new : Nat) : t.ownWrite d R.dlr_db i new = none := rfl
theorem plain_dlr_kill (d i : Nat) (t : State) (new : Nat) : t.ownWrite d R.dlr_kill i new = none := rfl
theorem written_dlr_pbinv (t : State) (p : Path) (d i old : Nat) {v : Nat} (h : bit v 31 = true) :
    t.written p d R.dlr_pbinv i old v = t.onPbinv d (t.reg d R.dlr_pbinv) := if_pos h
theorem plain_dlr_pbinv (d i : Nat) (t : State) (new : Nat) : t.ownWrite d R.dlr_pbinv i new = none := rfl

/-- Settles O33: each served write stores the fields of its register and does the action of the register. -/
theorem computeRegisterWrites : Obligations.ComputeRegisterWrites := by
  unfold Obligations.ComputeRegisterWrites
  refine ⟨?detStrictWrite, ?replayRelease, ?twinRelease, ?bqCtlWrite, ?freezeLimWrite, ?doorbell, ?kill, ?pbinv⟩
  case detStrictWrite =>
    intro s p v u t taking fits hu ht
    have reach : R.det_ctl.reaches 0 0 = true := by decide +kernel
    simp only [exec, execDetStrictWrite]
    rw [ht, hu, regIn_stored (n := 4) taking reach rfl fits
      (accepts_of _ _ _ _ _ (by decide) fun _ _ => rfl) fun t new => plain_det_ctl 0 0 t new, written_det_ctl]
  case replayRelease =>
    intro s p v u t taking fits hu ht
    have reach : R.det_ctl.reaches 0 0 = true := by decide +kernel
    simp only [exec, execReplayRelease]
    rw [ht, hu, regIn_stored (n := 4) (v := putBits v 2 1 0) taking reach rfl (putBits_lt fits (by decide))
      (accepts_of _ _ _ _ _ (by decide) fun _ _ => rfl) fun t new => plain_det_ctl 0 0 t new, written_det_ctl]
  case twinRelease =>
    intro s p u t taking hu ht
    have reach : R.det_tw_mm.reaches 0 0 = true := by decide +kernel
    simp only [exec, execTwinRelease]
    rw [ht, hu, regIn_stored (n := 8) taking reach rfl (by decide)
      (accepts_of _ _ _ _ _ (by decide) fun _ _ => rfl) fun t new => plain_det_tw_mm 0 0 t new, written_det_tw_mm]
  case bqCtlWrite =>
    intro s p d j v u n' taking fits hu hn
    have reach : ∀ (d : Fin 2) (j : Fin 64), R.mxe_bq_ctl.reaches d j = true := by decide +kernel
    simp only [exec, execBqCtlWrite]
    rw [hn, hu, regIn_own (n := 4) taking (reach d j) rfl fits (accepts_of _ _ _ _ _ (by decide) fun _ _ => rfl) (ownWrite_mxe_bq_ctl ..)]
  case freezeLimWrite =>
    intro s p d v es u t taking fits hu ht
    have reach : ∀ (d : Fin 2), R.mxe_freeze_lim.reaches d 0 = true := by decide +kernel
    simp only [exec, execFreezeLimWrite]
    rw [ht, hu, regIn_stored (n := 4) taking (reach d) rfl fits
      (accepts_of _ _ _ _ _ (by decide) fun _ _ => rfl) fun t new => plain_mxe_freeze_lim d 0 t new, written_mxe_freeze_lim]
  case doorbell =>
    intro s p d v u t taking fits hu ht
    have reach : ∀ (d : Fin 2), R.dlr_db.reaches d 0 = true := by decide +kernel
    simp only [exec, execDoorbell]
    rw [ht, hu, regIn_stored (n := 4) taking (reach d) rfl fits
      (accepts_of _ _ _ _ _ (by decide) fun _ _ => rfl) fun t new => plain_dlr_db d 0 t new, written_dlr_db]
  case kill =>
    intro s p d v u t taking fits hu ht
    have reach : ∀ (d : Fin 2), R.dlr_kill.reaches d 0 = true := by decide +kernel
    simp only [exec, execKill]
    rw [ht, hu, regIn_stored (n := 4) taking (reach d) rfl fits
      (accepts_of _ _ _ _ _ (by decide) fun _ _ => rfl) fun t new => plain_dlr_kill d 0 t new, written_dlr_kill]
  case pbinv =>
    intro s p d v u t taking fits hu ht
    have reach : ∀ (d : Fin 2), R.dlr_pbinv.reaches d 0 = true := by decide +kernel
    simp only [exec, execPbinv]
    rw [ht, hu, regIn_stored (n := 4) (v := v ||| 2 ^ 31) taking (reach d) rfl (Nat.or_lt_two_pow fits (by decide))
      (accepts_of _ _ _ _ _ (by decide) fun _ _ => rfl) fun t new => plain_dlr_pbinv d 0 t new, written_dlr_pbinv _ _ _ _ _ (bit_or_two_pow v 31)]

end Sys2Proof.Machine
end

section
/-! SUPPORT. Writes of registers that a path takes: what they store, and what the register does beyond. -/

namespace Sys2Proof.Machine

theorem ownWrite_sram_carve (t : State) (d i new : Nat) : t.ownWrite d R.sram_carve i new = some (t.onCarve d (new % 8)) := rfl
theorem written_brg_ctl (t : State) (p : Path) (d i old : Nat) : t.written p d R.brg_ctl i old 1 = t.onRetrain d t.released := rfl
theorem plain_brg_ctl (d i : Nat) (t : State) (new : Nat) : t.ownWrite d R.brg_ctl i new = none := rfl
theorem ownWrite_brg_cwin (t : State) (d i new : Nat) : t.ownWrite d R.brg_cwin i new = some (t.onCwin i new) := rfl
theorem ownWrite_hbm_own (t : State) (d i new : Nat) : t.ownWrite d R.hbm_own i new = some (t.onOwn d new) := rfl
theorem written_hcache_flush (t : State) (p : Path) (d i old : Nat) : t.written p d R.hcache_flush i old 1 = t.onFlush d := rfl
theorem plain_hcache_flush (d i : Nat) (t : State) (new : Nat) : t.ownWrite d R.hcache_flush i new = none := rfl
theorem written_tgen_ctl (t : State) (p : Path) (d i old : Nat) {v : Nat} {go stop : Bool} (hgo : bit v 31 = go) (hstop : bit v 30 = stop) :
    t.written p d R.tgen_ctl i old v = ((t.setFld d F.tgen_ctl_go 0).setFld d F.tgen_ctl_stop 0).onTgenCtl d go stop := by
  rw [← hgo, ← hstop]
  rfl
theorem plain_tgen_ctl (d i : Nat) (t : State) (new : Nat) : t.ownWrite d R.tgen_ctl i new = none := rfl
theorem written_rw_cmd (t : State) (p : Path) (d i old v : Nat) : t.written p d R.rw_cmd i old v = t.onRwCmd v := by
  simp [State.written, R.rw_cmd]
theorem plain_rw_cmd (d i : Nat) (t : State) (new : Nat) : t.ownWrite d R.rw_cmd i new = none := rfl

/-- The commands 1 to 6 of rw.cmd are no reserved encodings. -/
theorem accepts_rw_cmd (t : State) {v : Nat} (low : 1 ≤ bits v 0 4) (high : bits v 0 4 ≤ 6) : t.accepts 0 R.rw_cmd v = true := by
  have spec : (regSpec R.rw_cmd).flds = [⟨F.rw_cmd_key, .wo, []⟩, ⟨F.rw_cmd_op, .wo, [(0, 0), (7, 15)]⟩] := by decide +kernel
  have ones : bits R.rw_cmd.ones 0 4 = 2 ^ 4 - 1 := by decide
  have masked : bits v 0 4 &&& (2 ^ 4 - 1) = bits v 0 4 := by
    rw [Nat.and_two_pow_sub_one_eq_mod, Nat.mod_eq_of_lt (bits_lt ..)]
  have refuses : ∀ o n, t.refuses 0 R.rw_cmd 0 o n = false := fun _ _ => rfl
  simp only [State.accepts, refuses, RegSpec.reserved, spec, F.rw_cmd_op, F.rw_cmd_key, List.any_cons, List.any_nil, ones, masked]
  simp
  omega

theorem bits_hardRepair (key : Nat) : bits (4 + key * 2 ^ 16) 0 4 = 4 := by
  simp only [bits, Nat.shiftRight_zero]
  omega

/-- Settles O34: each served write stores the fields of its register and does the action of the register. -/
theorem memoryRegisterWrites : Obligations.MemoryRegisterWrites := by
  unfold Obligations.MemoryRegisterWrites
  refine ⟨?carveWrite, ?bridgeRetrainCmd, ?cwinWrite, ?hbmOwnWrite, ?hcacheFlush, ?tgenGo, ?tgenStop, ?readRow, ?writeRow,
    ?softRepair, ?hardRepair, ?clearSoft, ?spareQuery⟩
  case carveWrite =>
    intro s p d n u n' taking hu accepted hn
    have reach : ∀ (d : Fin 2), R.sram_carve.reaches d 0 = true := by decide +kernel
    simp only [exec, execCarveWrite]
    rw [hn, hu, regIn_own (n := 4) taking (reach d) rfl (show n.val < 2 ^ 32 by omega) (hu ▸ accepted) (ownWrite_sram_carve ..)]
  case bridgeRetrainCmd =>
    intro s p d u t taking hu ht
    have reach : ∀ (d : Fin 2), R.brg_ctl.reaches d 0 = true := by decide +kernel
    simp only [exec, execBridgeRetrainCmd]
    rw [ht, hu, regIn_stored (n := 4) taking (reach d) rfl (by decide)
      (accepts_of _ _ _ _ _ (by decide) fun _ _ => rfl) fun t new => plain_brg_ctl d 0 t new, written_brg_ctl]
  case cwinWrite =>
    intro s p n v u n' taking fits hu accepted hn
    have reach : ∀ (n : Fin 8), R.brg_cwin.reaches 0 n = true := by decide +kernel
    simp only [exec, execCwinWrite]
    rw [hn, hu, regIn_own (n := 8) taking (reach n) rfl fits (hu ▸ accepted) (ownWrite_brg_cwin ..)]
  case hbmOwnWrite =>
    intro s p d own u n' taking hu hn
    have reach : ∀ (d : Fin 2), R.hbm_own.reaches d 0 = true := by decide +kernel
    simp only [exec, execHbmOwnWrite]
    rw [hn, hu, regIn_own (n := 4) taking (reach d) rfl (show own.val < 2 ^ 32 by omega)
      (accepts_of _ _ _ _ _ (by decide) fun _ _ => rfl) (ownWrite_hbm_own ..)]
  case hcacheFlush =>
    intro s p d u t taking hu ht
    have reach : ∀ (d : Fin 2), R.hcache_flush.reaches d 0 = true := by decide +kernel
    simp only [exec, execHcacheFlush]
    rw [ht, hu, regIn_stored (n := 4) taking (reach d) rfl (by decide)
      (accepts_of _ _ _ _ _ (by decide) fun _ _ => rfl) fun t new => plain_hcache_flush d 0 t new, written_hcache_flush]
  case tgenGo =>
    intro s p d v u t taking fits hu accepted ht
    have reach : ∀ (d : Fin 2), R.tgen_ctl.reaches d 0 = true := by decide +kernel
    simp only [exec, execTgenGo]
    rw [ht, hu, regIn_stored (n := 4) (v := putBits v 30 2 2) taking (reach d) rfl (putBits_lt fits (by decide))
      (hu ▸ accepted) fun t new => plain_tgen_ctl d 0 t new,
      written_tgen_ctl (go := true) (stop := false) _ _ _ _ _ (bit_putBits v 2 (by decide) (by decide)) (bit_putBits v 2 (by decide) (by decide))]
  case tgenStop =>
    intro s p d v u t taking fits hu accepted ht
    have reach : ∀ (d : Fin 2), R.tgen_ctl.reaches d 0 = true := by decide +kernel
    simp only [exec, execTgenStop]
    rw [ht, hu, regIn_stored (n := 4) (v := putBits v 30 2 1) taking (reach d) rfl (putBits_lt fits (by decide))
      (hu ▸ accepted) fun t new => plain_tgen_ctl d 0 t new,
      written_tgen_ctl (go := false) (stop := true) _ _ _ _ _ (bit_putBits v 1 (by decide) (by decide)) (bit_putBits v 1 (by decide) (by decide))]
  case readRow =>
    intro s p u t taking hu owned ht
    have reach : R.rw_cmd.answers 0 0 = true := by decide +kernel
    simp only [exec, execReadRow]
    rw [ht, hu, regIn_stored_of_owned (n := 4) taking owned reach rfl (by decide)
      (accepts_rw_cmd _ (by decide) (by decide)) fun t new => plain_rw_cmd 0 0 t new, written_rw_cmd]
  case writeRow =>
    intro s p u t taking hu owned ht
    have reach : R.rw_cmd.answers 0 0 = true := by decide +kernel
    simp only [exec, execWriteRow]
    rw [ht, hu, regIn_stored_of_owned (n := 4) taking owned reach rfl (by decide)
      (accepts_rw_cmd _ (by decide) (by decide)) fun t new => plain_rw_cmd 0 0 t new, written_rw_cmd]
  case softRepair =>
    intro s p u t taking hu owned ht
    have reach : R.rw_cmd.answers 0 0 = true := by decide +kernel
    simp only [exec, execSoftRepair]
    rw [ht, hu, regIn_stored_of_owned (n := 4) taking owned reach rfl (by decide)
      (accepts_rw_cmd _ (by decide) (by decide)) fun t new => plain_rw_cmd 0 0 t new, written_rw_cmd]
  case hardRepair =>
    intro s p key u t taking hu owned ht
    have reach : R.rw_cmd.answers 0 0 = true := by decide +kernel
    simp only [exec, execHardRepair]
    rw [ht, hu, regIn_stored_of_owned (n := 4) taking owned reach rfl (by show _ < 2 ^ 32; omega)
      (accepts_rw_cmd _ (by rw [bits_hardRepair]; decide) (by rw [bits_hardRepair]; decide)) fun t new => plain_rw_cmd 0 0 t new, written_rw_cmd]
  case clearSoft =>
    intro s p u t taking hu owned ht
    have reach : R.rw_cmd.answers 0 0 = true := by decide +kernel
    simp only [exec, execClearSoft]
    rw [ht, hu, regIn_stored_of_owned (n := 4) taking owned reach rfl (by decide)
      (accepts_rw_cmd _ (by decide) (by decide)) fun t new => plain_rw_cmd 0 0 t new, written_rw_cmd]
  case spareQuery =>
    intro s p u t taking hu owned ht
    have reach : R.rw_cmd.answers 0 0 = true := by decide +kernel
    simp only [exec, execSpareQuery]
    rw [ht, hu, regIn_stored_of_owned (n := 4) taking owned reach rfl (by decide)
      (accepts_rw_cmd _ (by decide) (by decide)) fun t new => plain_rw_cmd 0 0 t new, written_rw_cmd]

end Sys2Proof.Machine
end

section
/-! SUPPORT. Writes of registers that a path takes: what they store, and what the register does beyond. -/

namespace Sys2Proof.Machine

theorem written_ctx_refresh (t : State) (p : Path) (d i old v : Nat) : t.written p d R.ctx_refresh i old v =
      t.onRefresh (v % 4096) := rfl
theorem plain_ctx_refresh (d i : Nat) (t : State) (new : Nat) : t.ownWrite d R.ctx_refresh i new = none := rfl
theorem written_ctx_ctl (t : State) (p : Path) (d i old : Nat) {v : Nat} (h : bit v 1 = true) :
    t.written p d R.ctx_ctl i old v = (t.setFld 0 F.ctx_ctl_drop 0).onCtxDrop := if_pos h
theorem plain_ctx_ctl (d i : Nat) (t : State) (new : Nat) : t.ownWrite d R.ctx_ctl i new = none := rfl
theorem ownWrite_ctx_base (t : State) (d i new : Nat) : t.ownWrite d R.ctx_base i new = some (t.onCtxBase new) := rfl
theorem written_mmu_inv (t : State) (p : Path) (d i old : Nat) {v : Nat} (h : bit v 63 = true) :
    t.written p d R.mmu_inv i old v = (t.setFld d F.mmu_inv_go 0).onInv d := if_pos h
theorem plain_mmu_inv (d i : Nat) (t : State) (new : Nat) : t.ownWrite d R.mmu_inv i new = none := rfl
theorem written_lnk_ctl (t : State) (p : Path) (d i old v : Nat) : t.written p d R.lnk_ctl i old v =
      t.onLnkCtl d (bits old 0 18) := rfl
theorem plain_lnk_ctl (d i : Nat) (t : State) (new : Nat) : t.ownWrite d R.lnk_ctl i new = none := rfl
theorem written_meld_job_desc (t : State) (p : Path) (d i old v : Nat) : t.written p d R.meld_job_desc i old v =
      t.onMeldDesc i (bit old 63) := rfl
theorem plain_meld_job_desc (d i : Nat) (t : State) (new : Nat) : t.ownWrite d R.meld_job_desc i new = none := rfl
theorem ownWrite_codec_ww (t : State) (d i new : Nat) : t.ownWrite d R.codec_ww i new = some (t.onWw d i new) := rfl
theorem ownWrite_codec_wm (t : State) (d i new : Nat) : t.ownWrite d R.codec_wm i new = some (t.onWm d i new) := rfl
theorem written_codec_ctl (t : State) (p : Path) (d i old : Nat) : t.written p d R.codec_ctl i old 1 =
      (t.setFld d F.codec_ctl_inval 0).onInval d := rfl
theorem plain_codec_ctl (d i : Nat) (t : State) (new : Nat) : t.ownWrite d R.codec_ctl i new = none := rfl

/-- Settles O35: each served write stores the fields of its register and does the action of the register. -/
theorem contextAndFabricRegisterWrites : Obligations.ContextAndFabricRegisterWrites := by
  unfold Obligations.ContextAndFabricRegisterWrites
  refine ⟨?ctxRefresh, ?ctxDrop, ?ctxBaseWrite, ?mmuInv, ?lnkCtlWrite, ?meldEnable, ?meldDisable, ?codecWwWrite, ?codecWmWrite,
    ?codecInval⟩
  case ctxRefresh =>
    intro s p c u t taking hu ht
    have reach : R.ctx_refresh.reaches 0 0 = true := by decide +kernel
    simp only [exec, execCtxRefresh]
    rw [ht, hu, regIn_stored (n := 4) taking reach rfl (show c.val < 2 ^ 32 by omega)
      (accepts_of _ _ _ _ _ (by decide) fun _ _ => rfl) fun t new => plain_ctx_refresh 0 0 t new, written_ctx_refresh, Nat.mod_eq_of_lt c.isLt]
  case ctxDrop =>
    intro s p en u t taking hu ht
    have reach : R.ctx_ctl.reaches 0 0 = true := by decide +kernel
    simp only [exec, execCtxDrop]
    rw [ht, hu, regIn_stored (n := 4) taking reach rfl (by cases en <;> decide)
      (accepts_of _ _ _ _ _ (by decide) fun _ _ => rfl) fun t new => plain_ctx_ctl 0 0 t new, written_ctx_ctl _ _ _ _ _ (by cases en <;> decide)]
  case ctxBaseWrite =>
    intro s p v u n' taking fits hu accepted hn
    have reach : R.ctx_base.reaches 0 0 = true := by decide +kernel
    simp only [exec, execCtxBaseWrite]
    rw [hn, hu, regIn_own (n := 8) taking reach rfl fits (hu ▸ accepted) (ownWrite_ctx_base ..)]
  case mmuInv =>
    intro s p d v u t taking fits hu accepted ht
    have reach : ∀ (d : Fin 2), R.mmu_inv.reaches d 0 = true := by decide +kernel
    simp only [exec, execMmuInv]
    rw [ht, hu, regIn_stored (n := 8) (v := putBits v 63 1 1) taking (reach d) rfl (putBits_lt fits (by decide))
      (hu ▸ accepted) fun t new => plain_mmu_inv d 0 t new, written_mmu_inv _ _ _ _ _ (bit_putBits v 1 (by decide) (by decide))]
  case lnkCtlWrite =>
    intro s p d v u t taking fits hu ht
    have reach : ∀ (d : Fin 2), R.lnk_ctl.reaches d 0 = true := by decide +kernel
    simp only [exec, execLnkCtlWrite]
    rw [ht, hu, regIn_stored (n := 4) taking (reach d) rfl fits
      (accepts_of _ _ _ _ _ (by decide) fun _ _ => rfl) fun t new => plain_lnk_ctl d 0 t new, written_lnk_ctl]
  case meldEnable =>
    intro s p j v u t taking fits hu ht
    have reach : ∀ (j : Fin 4), R.meld_job_desc.reaches 0 j = true := by decide +kernel
    simp only [exec, execMeldEnable]
    rw [ht, hu, regIn_stored (n := 8) (v := putBits v 63 1 1) taking (reach j) rfl (putBits_lt fits (by decide))
      (accepts_of _ _ _ _ _ (by decide) fun _ _ => rfl) fun t new => plain_meld_job_desc 0 j t new, written_meld_job_desc]
  case meldDisable =>
    intro s p j v u t taking fits hu ht
    have reach : ∀ (j : Fin 4), R.meld_job_desc.reaches 0 j = true := by decide +kernel
    simp only [exec, execMeldDisable]
    rw [ht, hu, regIn_stored (n := 8) (v := putBits v 63 1 0) taking (reach j) rfl (putBits_lt fits (by decide))
      (accepts_of _ _ _ _ _ (by decide) fun _ _ => rfl) fun t new => plain_meld_job_desc 0 j t new, written_meld_job_desc]
  case codecWwWrite =>
    intro s p d n v u n' taking fits hu accepted hn
    have reach : ∀ (d : Fin 2) (n : Fin 8), R.codec_ww.reaches d n = true := by decide +kernel
    simp only [exec, execCodecWwWrite]
    rw [hn, hu, regIn_own (n := 8) taking (reach d n) rfl fits (hu ▸ accepted) (ownWrite_codec_ww ..)]
  case codecWmWrite =>
    intro s p d n v u n' taking fits hu accepted hn
    have reach : ∀ (d : Fin 2) (n : Fin 8), R.codec_wm.reaches d n = true := by decide +kernel
    simp only [exec, execCodecWmWrite]
    rw [hn, hu, regIn_own (n := 8) taking (reach d n) rfl fits (hu ▸ accepted) (ownWrite_codec_wm ..)]
  case codecInval =>
    intro s p d u t taking hu ht
    have reach : ∀ (d : Fin 2), R.codec_ctl.reaches d 0 = true := by decide +kernel
    simp only [exec, execCodecInval]
    rw [ht, hu, regIn_stored (n := 4) taking (reach d) rfl (by decide)
      (accepts_of _ _ _ _ _ (by decide) fun _ _ => rfl) fun t new => plain_codec_ctl d 0 t new, written_codec_ctl]

end Sys2Proof.Machine
end

section
/-! SUPPORT. Writes of registers that a path takes: what they store, and what the register does beyond. -/

namespace Sys2Proof.Machine

theorem written_wan_ctl (t : State) (p : Path) (d i old v : Nat) : t.written p d R.wan_ctl i old v =
      if bit old 0 = t.flag d F.wan_ctl_en then t else t.onWanCtl d := rfl
theorem plain_wan_ctl (d i : Nat) (t : State) (new : Nat) : t.ownWrite d R.wan_ctl i new = none := rfl
theorem written_wan_ip6_lo (t : State) (p : Path) (d i old v : Nat) : t.written p d R.wan_ip6_lo i old v = t.onIp6Lo d := by
  simp [State.written, R.wan_ip6_lo, R.wan_ctl]
theorem plain_wan_ip6_lo (d i : Nat) (t : State) (new : Nat) : t.ownWrite d R.wan_ip6_lo i new = none := rfl
theorem written_cip_ld (t : State) (p : Path) (d i old : Nat) {v : Nat} (h : bit v 63 = true) :
    t.written p d R.cip_ld i old v = ((t.stager d p).setFld d F.cip_ld_go 0).onLoad d := if_pos h
theorem plain_cip_ld (d i : Nat) (t : State) (new : Nat) : t.ownWrite d R.cip_ld i new = none := rfl
theorem written_cip_pair_ctl (t : State) (p : Path) (d i old v : Nat) : t.written p d R.cip_pair_ctl i old v =
      t.pairCtl d i v := rfl
theorem plain_cip_pair_ctl (d i : Nat) (t : State) (new : Nat) : t.ownWrite d R.cip_pair_ctl i new = none := rfl
theorem written_cip_pair_sess (t : State) (p : Path) (d i old v : Nat) : t.written p d R.cip_pair_sess i old v =
      t.onPairElim d i := rfl
theorem plain_cip_pair_sess (d i : Nat) (t : State) (new : Nat) : t.ownWrite d R.cip_pair_sess i new = none := rfl

theorem pairCtl_roll (t : State) (d n : Nat) (g : Fin 256) : t.pairCtl d n (2 ^ 31 + g.val * 2 ^ 8) = t.onPairRoll d n := by
  have cmd : ∀ g : Fin 256, bit (2 ^ 31 + g.val * 2 ^ 8) 31 = true ∧ bit (2 ^ 31 + g.val * 2 ^ 8) 30 = false ∧
    bit (2 ^ 31 + g.val * 2 ^ 8) 29 = false := by decide +kernel
  obtain ⟨h31, h30, h29⟩ := cmd g
  simp only [State.pairCtl, h31, h30, h29, Bool.false_eq_true, if_true, if_false]

theorem pairCtl_use (t : State) (d n : Nat) (g : Fin 256) : t.pairCtl d n (2 ^ 30 + g.val * 2 ^ 8) = t.onPairUse d n := by
  have cmd : ∀ g : Fin 256, bit (2 ^ 30 + g.val * 2 ^ 8) 31 = false ∧ bit (2 ^ 30 + g.val * 2 ^ 8) 30 = true ∧
    bit (2 ^ 30 + g.val * 2 ^ 8) 29 = false := by decide +kernel
  obtain ⟨h31, h30, h29⟩ := cmd g
  simp only [State.pairCtl, h31, h30, h29, Bool.false_eq_true, if_true, if_false]

theorem pairCtl_drop (t : State) (d n : Nat) (g : Fin 256) : t.pairCtl d n (2 ^ 29 + g.val * 2 ^ 8) = t.onPairDrop d n := by
  have cmd : ∀ g : Fin 256, bit (2 ^ 29 + g.val * 2 ^ 8) 31 = false ∧ bit (2 ^ 29 + g.val * 2 ^ 8) 30 = false ∧
    bit (2 ^ 29 + g.val * 2 ^ 8) 29 = true := by decide +kernel
  obtain ⟨h31, h30, h29⟩ := cmd g
  simp only [State.pairCtl, h31, h30, h29, Bool.false_eq_true, if_true, if_false]

/-- Settles O36: each served write stores the fields of its register and does the action of the register. -/
theorem wanRegisterWrites : Obligations.WanRegisterWrites := by
  unfold Obligations.WanRegisterWrites
  refine ⟨?wanCtlWrite, ?wanIp6LoWrite, ?pairSecretLoad, ?pairRoll, ?pairUse, ?pairDropold, ?pairElimWrite⟩
  case wanCtlWrite =>
    intro s p d v u t taking fits hu ht
    have reach : ∀ (d : Fin 2), R.wan_ctl.reaches d 0 = true := by decide +kernel
    simp only [exec, execWanCtlWrite]
    rw [ht, hu, regIn_stored (n := 4) taking (reach d) rfl fits
      (accepts_of _ _ _ _ _ (by decide) fun _ _ => rfl) fun t new => plain_wan_ctl d 0 t new, written_wan_ctl]
  case wanIp6LoWrite =>
    intro s p d v u t taking fits hu ht
    have reach : ∀ (d : Fin 2), R.wan_ip6_lo.reaches d 0 = true := by decide +kernel
    simp only [exec, execWanIp6LoWrite]
    rw [ht, hu, regIn_stored (n := 8) taking (reach d) rfl fits
      (accepts_of _ _ _ _ _ (by decide) fun _ _ => rfl) fun t new => plain_wan_ip6_lo d 0 t new, written_wan_ip6_lo]
  case pairSecretLoad =>
    intro s p d v u t taking fits hu accepted ht
    have reach : ∀ (d : Fin 2), R.cip_ld.reaches d 0 = true := by decide +kernel
    simp only [exec, execPairSecretLoad]
    rw [ht, hu, regIn_stored (n := 8) (v := putBits v 63 1 1) taking (reach d) rfl (putBits_lt fits (by decide))
      (hu ▸ accepted) fun t new => plain_cip_ld d 0 t new, written_cip_ld _ _ _ _ _ (bit_putBits v 1 (by decide) (by decide))]
  case pairRoll =>
    intro s p d n g u t taking hu ht
    have reach : ∀ (d : Fin 2) (n : Fin 64), R.cip_pair_ctl.reaches d n = true := by decide +kernel
    simp only [exec, execPairRoll]
    rw [ht, hu, regIn_stored (n := 4) (v := 2 ^ 31 + g.val * 2 ^ 8) taking (reach d n) rfl (by show _ < 2 ^ 32; omega)
      (accepts_of _ _ _ _ _ (by decide) fun _ _ => rfl) fun t new => plain_cip_pair_ctl d n t new, written_cip_pair_ctl, pairCtl_roll]
  case pairUse =>
    intro s p d n g u t taking hu ht
    have reach : ∀ (d : Fin 2) (n : Fin 64), R.cip_pair_ctl.reaches d n = true := by decide +kernel
    simp only [exec, execPairUse]
    rw [ht, hu, regIn_stored (n := 4) (v := 2 ^ 30 + g.val * 2 ^ 8) taking (reach d n) rfl (by show _ < 2 ^ 32; omega)
      (accepts_of _ _ _ _ _ (by decide) fun _ _ => rfl) fun t new => plain_cip_pair_ctl d n t new, written_cip_pair_ctl, pairCtl_use]
  case pairDropold =>
    intro s p d n g u t taking hu ht
    have reach : ∀ (d : Fin 2) (n : Fin 64), R.cip_pair_ctl.reaches d n = true := by decide +kernel
    simp only [exec, execPairDropold]
    rw [ht, hu, regIn_stored (n := 4) (v := 2 ^ 29 + g.val * 2 ^ 8) taking (reach d n) rfl (by show _ < 2 ^ 32; omega)
      (accepts_of _ _ _ _ _ (by decide) fun _ _ => rfl) fun t new => plain_cip_pair_ctl d n t new, written_cip_pair_ctl, pairCtl_drop]
  case pairElimWrite =>
    intro s p d n v u t taking fits hu ht
    have reach : ∀ (d : Fin 2) (n : Fin 64), R.cip_pair_sess.reaches d n = true := by decide +kernel
    simp only [exec, execPairElimWrite]
    rw [ht, hu, Nat.mod_eq_of_lt fits, regIn_stored (n := 8) taking (reach d n) rfl (fits.trans (by decide))
      (accepts_of _ _ _ _ _ (by decide) fun _ _ => rfl) fun t new => plain_cip_pair_sess d n t new, written_cip_pair_sess]

end Sys2Proof.Machine
end

section
/-! SUPPORT. Writes of registers that a path takes: what they store, and what the register does beyond. -/

namespace Sys2Proof.Machine

theorem written_time_step (t : State) (p : Path) (d i old v : Nat) : t.written p d R.time_step i old v = t.onTimeStep v := rfl
theorem plain_time_step (d i : Nat) (t : State) (new : Nat) : t.ownWrite d R.time_step i new = none := rfl
theorem written_time_ctl (t : State) (p : Path) (d i old v : Nat) : t.written p d R.time_ctl i old v = t.onTimeCtl := rfl
theorem plain_time_ctl (d i : Nat) (t : State) (new : Nat) : t.ownWrite d R.time_ctl i new = none := rfl
theorem written_ckp_cut (t : State) (p : Path) (d i old : Nat) {v : Nat} (h : bit v 63 = true) :
    t.written p d R.ckp_cut i old v = t.onCkpCut d := if_pos h
theorem plain_ckp_cut (d i : Nat) (t : State) (new : Nat) : t.ownWrite d R.ckp_cut i new = none := rfl
theorem written_ckp_dray (t : State) (p : Path) (d i old : Nat) {v : Nat} (h : bit v 31 = true) :
    t.written p d R.ckp_dray i old v = t.onDray d := if_pos h
theorem plain_ckp_dray (d i : Nat) (t : State) (new : Nat) : t.ownWrite d R.ckp_dray i new = none := rfl
theorem written_ckp_rst (t : State) (p : Path) (d i old : Nat) {v : Nat} (h : bit v 31 = true) :
    t.written p d R.ckp_rst i old v = t.onRst d := if_pos h
theorem plain_ckp_rst (d i : Nat) (t : State) (new : Nat) : t.ownWrite d R.ckp_rst i new = none := rfl
theorem written_dbg_ctl (t : State) (p : Path) (d i old v : Nat) : t.written p d R.dbg_ctl i old v = t := rfl
theorem plain_dbg_ctl (d i : Nat) (t : State) (new : Nat) : t.ownWrite d R.dbg_ctl i new = none := rfl
theorem written_dbg_tctl_go (t : State) (p : Path) (d i old : Nat) {v : Nat} (go : bit v 31 = true) (run : bit v 30 = false) :
    t.written p d R.dbg_tctl i old v = t.traceGo := by
  show (if bit v 30 = true then _ else _) = _
  rw [run, if_neg Bool.false_ne_true, if_pos go]

theorem written_dbg_tctl_stop (t : State) (p : Path) (d i old : Nat) {v : Nat} (go : bit v 31 = false) (stop : bit v 30 = true) :
    t.written p d R.dbg_tctl i old v = t.traceStop := by
  show (if bit v 30 = true then _ else _) = _
  rw [if_pos stop, go, if_neg Bool.false_ne_true]

theorem plain_dbg_tctl (d i : Nat) (t : State) (new : Nat) : t.ownWrite d R.dbg_tctl i new = none := rfl
theorem written_pwr_rclk (t : State) (p : Path) (d i old v : Nat) : t.written p d R.pwr_rclk i old v = t.onRclk i := rfl
theorem plain_pwr_rclk (d i : Nat) (t : State) (new : Nat) : t.ownWrite d R.pwr_rclk i new = none := rfl
theorem written_pwr_ctl (t : State) (p : Path) (d i old v : Nat) : t.written p d R.pwr_ctl i old v = t.onPwrCtl := rfl
theorem plain_pwr_ctl (d i : Nat) (t : State) (new : Nat) : t.ownWrite d R.pwr_ctl i new = none := rfl

/-- Settles O37: each served write stores the fields of its register and does the action of the register. -/
theorem systemRegisterWrites : Obligations.SystemRegisterWrites := by
  unfold Obligations.SystemRegisterWrites
  refine ⟨?timeStep, ?timeCtlWrite, ?ckpCut, ?drainStart, ?restore, ?dbgDisable, ?traceGo, ?traceStop, ?dvfsRequest,
    ?pwrCtlWrite⟩
  case timeStep =>
    intro s p v u t taking fits hu ht
    have reach : R.time_step.reaches 0 0 = true := by decide +kernel
    simp only [exec, execTimeStep]
    rw [ht, hu, regIn_stored (n := 8) taking reach rfl fits
      (accepts_of _ _ _ _ _ (by decide) fun _ _ => rfl) fun t new => plain_time_step 0 0 t new, written_time_step]
  case timeCtlWrite =>
    intro s p v u t taking fits hu accepted ht
    have reach : R.time_ctl.reaches 0 0 = true := by decide +kernel
    simp only [exec, execTimeCtlWrite]
    rw [ht, hu, regIn_stored (n := 4) taking reach rfl fits
      (hu ▸ accepted) fun t new => plain_time_ctl 0 0 t new, written_time_ctl]
  case ckpCut =>
    intro s p d v u t taking fits hu ht
    have reach : ∀ (d : Fin 2), R.ckp_cut.reaches d 0 = true := by decide +kernel
    simp only [exec, execCkpCut]
    rw [ht, hu, regIn_stored (n := 8) (v := putBits v 63 1 1) taking (reach d) rfl (putBits_lt fits (by decide))
      (accepts_of _ _ _ _ _ (by decide) fun _ _ => rfl) fun t new => plain_ckp_cut d 0 t new,
      written_ckp_cut _ _ _ _ _ (bit_putBits v 1 (by decide) (by decide))]
  case drainStart =>
    intro s p d v u t taking fits hu ht
    have reach : ∀ (d : Fin 2), R.ckp_dray.reaches d 0 = true := by decide +kernel
    simp only [exec, execDrainStart]
    rw [ht, hu, regIn_stored (n := 4) (v := putBits v 31 1 1) taking (reach d) rfl (putBits_lt fits (by decide))
      (accepts_of _ _ _ _ _ (by decide) fun _ _ => rfl) fun t new => plain_ckp_dray d 0 t new,
      written_ckp_dray _ _ _ _ _ (bit_putBits v 1 (by decide) (by decide))]
  case restore =>
    intro s p d v u t taking fits hu ht
    have reach : ∀ (d : Fin 2), R.ckp_rst.reaches d 0 = true := by decide +kernel
    simp only [exec, execRestore]
    rw [ht, hu, regIn_stored (n := 4) (v := putBits v 31 1 1) taking (reach d) rfl (putBits_lt fits (by decide))
      (accepts_of _ _ _ _ _ (by decide) fun _ _ => rfl) fun t new => plain_ckp_rst d 0 t new,
      written_ckp_rst _ _ _ _ _ (bit_putBits v 1 (by decide) (by decide))]
  case dbgDisable =>
    intro s p u t taking hu ht
    have reach : R.dbg_ctl.reaches 0 0 = true := by decide +kernel
    simp only [exec, execDbgDisable]
    rw [ht, hu, regIn_stored (n := 4) taking reach rfl (by decide)
      (accepts_of _ _ _ _ _ (by decide) fun _ _ => rfl) fun t new => plain_dbg_ctl 0 0 t new, written_dbg_ctl]
  case traceGo =>
    intro s p v u t taking fits hu accepted ht
    have reach : R.dbg_tctl.reaches 0 0 = true := by decide +kernel
    simp only [exec, execTraceGo]
    rw [ht, hu, regIn_stored (n := 4) (v := putBits v 30 2 2) taking reach rfl (putBits_lt fits (by decide))
      (hu ▸ accepted) fun t new => plain_dbg_tctl 0 0 t new,
      written_dbg_tctl_go _ _ _ _ _ (bit_putBits v 2 (by decide) (by decide)) (bit_putBits v 2 (by decide) (by decide))]
  case traceStop =>
    intro s p v u t taking fits hu accepted ht
    have reach : R.dbg_tctl.reaches 0 0 = true := by decide +kernel
    simp only [exec, execTraceStop]
    rw [ht, hu, regIn_stored (n := 4) (v := putBits v 30 2 1) taking reach rfl (putBits_lt fits (by decide))
      (hu ▸ accepted) fun t new => plain_dbg_tctl 0 0 t new,
      written_dbg_tctl_stop _ _ _ _ _ (bit_putBits v 1 (by decide) (by decide)) (bit_putBits v 1 (by decide) (by decide))]
  case dvfsRequest =>
    intro s p r n u t taking hu accepted ht
    have reach : ∀ (r : Fin 16), R.pwr_rclk.reaches 0 r = true := by decide +kernel
    simp only [exec, execDvfsRequest]
    rw [ht, hu, regIn_stored (n := 4) taking (reach r) rfl (show n.val < 2 ^ 32 by omega)
      (hu ▸ accepted) fun t new => plain_pwr_rclk 0 r t new, written_pwr_rclk]
  case pwrCtlWrite =>
    intro s p v u t taking fits hu ht
    have reach : R.pwr_ctl.reaches 0 0 = true := by decide +kernel
    simp only [exec, execPwrCtlWrite]
    rw [ht, hu, regIn_stored (n := 4) taking reach rfl fits
      (accepts_of _ _ _ _ _ (by decide) fun _ _ => rfl) fun t new => plain_pwr_ctl 0 0 t new, written_pwr_ctl]

end Sys2Proof.Machine
end

section
/-! SUPPORT. Register accesses over a path (R7 to R12), the latch of a path, and the tallies. -/

namespace Sys2Proof.Machine

/-! ## Tallies -/

/-- Settles O44: within the range a tally counts, beyond it the overflow bit decides. -/
theorem talliesSaturate : Obligations.TalliesSaturate := by
  unfold Obligations.TalliesSaturate
  intro s d r i n
  refine ⟨?counts, ?already, ?first⟩
  case counts =>
    intro le
    simp only [State.tally]
    rw [if_pos (show s.reg d r i + n ≤ max64 from le), satAt, if_pos (show s.reg d r i + n ≤ max64 from le)]
  case already =>
    intro f code gt unit isSet
    have past : ¬ s.reg d r i + n ≤ max64 := Nat.not_le.2 gt
    simp only [State.tally, satAt, if_neg past, unit]
    exact if_pos isSet
  case first =>
    intro f code gt unit clear
    have past : ¬ s.reg d r i + n ≤ max64 := Nat.not_le.2 gt
    simp only [State.tally, satAt, if_neg past, unit]
    exact if_neg (Bool.eq_false_iff.1 clear)

/-! ## Accesses over an open path and over a shut one -/

/-- A path that the loader does not use is shut only while the part is held in reset. -/
theorem shut_host {s : State} (hold : s.boot.hold = none) : s.shut .host = false := by
  simp [State.shut, hold]

/-- A read that does not wait delivers what the path reads, and the host port counts its bytes. -/
theorem readOut_delivers {s u : State} {p : Path} {pa w x : Nat} (open_ : s.shut p = false) (held : s.pathHeld p pa = false)
    (read : s.pathRead p pa w = (x, u)) :
    s.readOut p pa w = (u.emit (.readData p pa w x)).tally 0 R.pcie_t_inrd 0 (if p = .host then w / 8 else 0) := by
  rw [readOut_of_not_held s p pa w open_ held, State.readServe, read]

theorem readOut_of_shut {s : State} {p : Path} (shut : s.shut p = true) (pa w : Nat) : s.readOut p pa w = s := if_pos shut

theorem writeIn_of_shut {s : State} {p : Path} (shut : s.shut p = true) (pa w v : Nat) : s.writeIn p pa w v = s := if_pos shut

/-- A host read behind a posted write that waits joins the accesses that wait. -/
theorem readOut_behind {s : State} (open_ : s.shut .host = false) (behind : s.behind .host = true) (pa w : Nat) :
    s.readOut .host pa w = s.hostQueue (.dev pa w none) := by
  simp [State.readOut, open_, State.pathHeld, behind, State.pathQueue]

/-- A BAR0 read of `len` bytes delivers the register or the repair window's word. -/
theorem bar0_delivers {s u : State} {pa len x : Nat} (hold : s.boot.hold = none) (held : s.pathHeld .host pa = false)
    (read : s.pathRead .host pa (8 * len) = (x, u)) :
    s.readOut .host pa (8 * len) = (u.emit (.readData .host pa (8 * len) x)).tally 0 R.pcie_t_inrd 0 len := by
  rw [readOut_delivers (shut_host hold) held read, if_pos rfl, Nat.mul_div_cancel_left len (by decide)]

/-- Settles O38: an access that does not wait is served, one behind a posted write waits, and a shut path serves none. -/
theorem registerAccessesComplete : Obligations.RegisterAccessesComplete := by
  unfold Obligations.RegisterAccessesComplete
  refine ⟨?write, ?read, ?counter, ?clear, ?bar0, ?bar0Repair, ?behind, ?shut⟩
  case write =>
    intro s p pa w v open_ held
    simp only [exec, execCsrWrite, writeIn_of_not_held s p pa w v open_ held]
  case read =>
    intro s u p pa w x open_ held read
    simp only [exec, execRcRead, readOut_delivers open_ held read]
  case counter =>
    intro s u p pa x open_ held read
    simp only [exec, execCounterLowRead, readOut_delivers open_ held read, Nat.reduceDiv]
  case clear =>
    intro s p pa open_ held
    simp only [exec, execFirstRecordClear, writeIn_of_not_held s p pa 64 (2 ^ 63) open_ held]
    rfl
  case bar0 =>
    intro s u off len x hold low held read
    simp only [exec, execBar0Read, if_pos low, bar0_delivers hold held read]
  case bar0Repair =>
    intro s u off len x hold low high held read
    simp only [exec, execBar0Read, if_neg (Nat.not_lt.2 low), if_pos high, bar0_delivers hold held read]
  case behind =>
    intro s pa w open_ behind
    simp only [exec, execRcRead, readOut_behind open_ behind]
  case shut =>
    rintro s c p shut (⟨pa, w, v, rfl⟩ | ⟨pa, w, rfl⟩ | ⟨pa, rfl⟩ | ⟨pa, rfl⟩)
    · exact congrArg Host.Outcome.next (writeIn_of_shut shut pa w v)
    · exact congrArg Host.Outcome.next (readOut_of_shut shut pa w)
    · exact congrArg Host.Outcome.next (readOut_of_shut shut pa 32)
    · exact congrArg Host.Outcome.next (writeIn_of_shut shut pa 64 (2 ^ 63))

/-! ## Accesses that no register answers -/

/-- No register answers an access of another width, a misaligned one, or one at an address that no register occupies. -/
theorem csrTouch_of_misshaped {pa w : Nat} (h : (w ≠ 32 ∧ w ≠ 64) ∨ pa % (w / 8) ≠ 0 ∨ csrAt pa = none) : csrTouch pa w = none := by
  rcases h with ⟨h32, h64⟩ | misaligned | empty
  · simp [csrTouch, h32, h64]
  · have h32 : ¬ (w = 32 ∧ pa % 4 = 0) := by rintro ⟨rfl, aligned⟩; exact misaligned aligned
    have h64 : ¬ (w = 64 ∧ pa % 8 = 0) := by rintro ⟨rfl, aligned⟩; exact misaligned aligned
    rw [csrTouch, if_neg h32, if_neg h64]
  · exact csrTouch_of_csrAt_none empty w

/-- A write that touches no register and does not wait raises event 0x9001, with the count of its bytes before it or after it. -/
theorem writeIn_untouched {s : State} {p : Path} {pa w : Nat} (v : Nat) (listening : s.listening p) (held : s.pathHeld p pa = false)
    (touch : csrTouch pa w = none) :
    s.writeIn p pa w v = s.pathWritten p pa (w / 8) fun t => t.raise 0 p.unit 0x9001 pa := by
  rw [writeIn_of_not_held s p pa w v (listening_shut listening) held, State.pathWritten, State.pathWritten,
    pathWrite_untouched _ listening touch, pathWrite_untouched _ ((heard_listening s p p _).2 listening) touch]

/-- Settles O39: an access that touches no register raises its event. -/
theorem misshapedAccess : Obligations.MisshapedAccess := by
  unfold Obligations.MisshapedAccess
  refine ⟨fun pa w => csrTouch_of_misshaped, ?write, fun s p pa w => exec_rcRead_untouched, rfl, rfl, rfl⟩
  intro s p pa w v listening held touch
  simp only [exec, execCsrWrite, writeIn_untouched v listening held touch]

/-! ## Reserved encodings -/

/-- A write of one register that places a reserved encoding in a field of it raises event 0x9002 and writes nothing. -/
theorem touchWrite_reserved {u : State} (p : Path) (pa v : Nat) {a : CsrAt} {lo n : Nat} (own : ¬ (a.spec.reg.kind = .mirror ∧ a.d = 1))
    (reserved : a.spec.reserved (u.reg a.d a.spec.reg a.i) (v % 2 ^ n * 2 ^ lo) ((2 ^ n - 1) * 2 ^ lo) = true) :
    u.touchWrite p pa v [(a, lo, n)] = u.raise 0 p.unit 0x9002 pa := by
  simp only [State.touchWrite, State.partsWrite, State.regWrite, if_neg own, reserved, true_or, if_true, Option.bind_none]
  rfl

/-- A write of an open path that touches registers, and is not refused as one of the repair window, writes them. -/
theorem writeIn_touches {s : State} {p : Path} {pa w : Nat} (v : Nat) {l : List (CsrAt × Nat × Nat)} (open_ : s.shut p = false)
    (served : s.released = true ∨ (pa - csrBase) / 0x100000 = 1) (path : s.pathOpen p pa = true) (ovf : ovfWord pa = false)
    (owned : isRepair pa = false ∨ (s.heard p (w / 8)).unowned = false) (touch : csrTouch pa w = some l) :
    s.writeIn p pa w v = (s.came p pa (w / 8)).touchWrite p pa (v % 2 ^ w) l := by
  rw [writeIn_of_not_held s p pa w v open_ (pathOpen_held path), State.pathWritten, ovf, State.came]
  have far := pathOpen_far ((heard_pathOpen s p p (w / 8) pa).trans path)
  have shut : (s.heard p (w / 8)).shut p = false := by simpa [State.shut] using open_
  have early : ¬ (¬ (s.heard p (w / 8)).released = true ∧ (pa - csrBase) / 0x100000 ≠ 1) := by
    rw [heard_released]; tauto
  have denied : ¬ (isRepair pa = true ∧ (s.heard p (w / 8)).unowned = true) := by
    rcases owned with h | h <;> simp [h]
  simp only [State.pathWrite, shut, if_neg early, touch, if_neg denied, if_neg far, Bool.false_eq_true, if_false]

/-- Settles O40: the write stops at the reserved encoding, and its event changes the error log alone. -/
theorem reservedEncodingDiscardsWrite : Obligations.ReservedEncodingDiscardsWrite := by
  unfold Obligations.ReservedEncodingDiscardsWrite
  intro s u p pa w v a lo n open_ served path ovf hu owned touch own reserved
  refine ⟨_, ?_, rfl, fun d r i h0 h1 => sameButLog_reg (raise_sameButLog u 0 p.unit 0x9002 pa {} [] (by decide)) d r i (by simp) h0 h1⟩
  simp only [exec, execCsrWrite]
  rw [writeIn_touches v open_ served path ovf owned touch, ← hu, touchWrite_reserved p pa _ own reserved]

/-! ## Before run release -/

/-- What is served before run release lies outside the repair window. -/
theorem not_isRepair_of_servedEarly {pa : Nat} (early : servedEarly pa = true) : isRepair pa = false := by
  have inside : csrBase ≤ pa ∧ pa < csrBase + 0x4000000 := of_decide_eq_true (Bool.and_eq_true_iff.1 early).1
  exact decide_eq_false (by simp only [csrBase] at inside; simp only [rwBase]; omega)

theorem not_held_early {s : State} {p : Path} (early : s.released = false) (behind : s.behind p = false) (pa : Nat) : s.pathHeld p pa = false := by
  simp [State.pathHeld, behind, early]

theorem pathRead_served {s u : State} {p : Path} {pa w x : Nat} {l : List (CsrAt × Nat × Nat)} (open_ : s.shut p = false) (served : servedEarly pa = true)
    (touch : csrTouch pa w = some l) (near : s.csrFar pa = false ∨ s.bridgeDown = false)
    (read : (s.readCross pa).latchRead p pa w l = (x, u)) : s.pathRead p pa w = (x, u) := by
  have far : ¬ (s.csrFar pa = true ∧ s.bridgeDown = true) := by rcases near with h | h <;> simp [h]
  simp only [State.pathRead, open_, served, touch, not_isRepair_of_servedEarly served, if_neg far, read, Bool.false_eq_true,
    not_true_eq_false, and_false, false_and, if_false]

section
variable {s : State} {p : Path} (open_ : s.shut p = false) (early : s.released = false)
include open_ early

theorem pathRead_unserved {pa : Nat} (unserved : servedEarly pa = false) (w : Nat) : s.pathRead p pa w = (0, s) := by
  simp [State.pathRead, open_, early, unserved]

theorem pathWrite_unserved {pa : Nat} (outside : (pa - csrBase) / 0x100000 ≠ 1) (w v : Nat) : s.pathWrite p pa w v = s := by
  simp [State.pathWrite, open_, early, outside]

end

/-- Settles O42: before run release the units that are served answer, and nothing else does. -/
theorem accessesBeforeRelease : Obligations.AccessesBeforeRelease := by
  unfold Obligations.AccessesBeforeRelease
  refine ⟨?served, ?unserved, ?write⟩
  case served =>
    intro s u p pa w x l open_ early behind served touch near read
    simp only [exec, execRcRead]
    rw [readOut_delivers open_ (not_held_early early behind pa) (pathRead_served open_ served touch near read)]
  case unserved =>
    intro s p pa w open_ early behind unserved
    simp only [exec, execRcRead]
    rw [readOut_delivers open_ (not_held_early early behind pa) (pathRead_unserved open_ early unserved w)]
  case write =>
    intro s p pa w v open_ early behind outside
    have open' : (s.heard p (w / 8)).shut p = false := by simpa [State.shut] using open_
    have early' : (s.heard p (w / 8)).released = false := (heard_released ..).trans early
    simp only [exec, execCsrWrite]
    rw [writeIn_of_not_held s p pa w v open_ (not_held_early early behind pa), State.pathWritten,
      pathWrite_unserved open_ early outside, pathWrite_unserved open' early' outside, ite_self]

/-! ## The latch of a path (R12) -/

/-- The latches and the outputs of the two states are the same. -/
def State.sameSight (s t : State) : Prop := t.latch = s.latch ∧ t.out = s.out

theorem State.sameSight.trans {s t u : State} (h : s.sameSight t) (g : t.sameSight u) : s.sameSight u :=
  ⟨g.1.trans h.1, g.2.trans h.2⟩

theorem sameSight_of_sameButLog {s t : State} {ks : List Nat} (h : s.sameButLog t ks) : s.sameSight t := by
  rw [h.1]
  exact ⟨rfl, rfl⟩

theorem tally_sameSight (s : State) (d : Nat) (r : Reg) (i n : Nat) (hd : d < 2) : s.sameSight (s.tally d r i n) :=
  sameSight_of_sameButLog (tally_sameButLog s d r i n (r.key d i :: (tallyUnit r.unit).toList.map fun q => q.1.reg.key d 0) hd (by simp)
    fun f c unit => by simp [unit])

theorem readCross_sameSight (s : State) (pa : Nat) : s.sameSight (s.readCross pa) := by
  unfold State.readCross
  split
  · exact (tally_sameSight _ _ _ _ _ (by decide)).trans (tally_sameSight _ _ _ _ _ (by decide))
  · exact ⟨rfl, rfl⟩

theorem lossRead_sameSight (s : State) (d : Nat) (r : Reg) : s.sameSight (s.lossRead d r) := by
  unfold State.lossRead
  repeat' split
  all_goals exact ⟨rfl, rfl⟩

theorem clearRead_sameSight (s : State) (a : CsrAt) (lo n : Nat) : s.sameSight (s.clearRead a lo n) := by
  have fields (l : List FieldSpec) (s : State) : s.sameSight (l.foldl (fun s f => s.setFld a.d f.fld 0 a.i) s) := by
    induction l generalizing s with
    | nil => exact ⟨rfl, rfl⟩
    | cons f l ih => exact State.sameSight.trans ⟨rfl, rfl⟩ (ih (s.setFld a.d f.fld 0 a.i))
  unfold State.clearRead
  dsimp only
  split
  · exact ⟨rfl, rfl⟩
  · exact (fields _ s).trans (lossRead_sameSight ..)

theorem partsRead_sameSight (l : List (CsrAt × Nat × Nat)) (s : State) : s.sameSight (State.partsRead l s).2 := by
  induction l generalizing s with
  | nil => exact ⟨rfl, rfl⟩
  | cons x l ih => exact (clearRead_sameSight s x.1 x.2.1 x.2.2).trans (ih _)

/-- The read of the low half of a counter sets the latch of its path. -/
theorem latchRead_low (s : State) (p : Path) (pa : Nat) {a : CsrAt} (counter : a.spec.counter = true) :
    (s.latchRead p pa 32 [(a, 0, 32)]).2.latch = s.latch.set p (some (pa, s.partValue (a, 32, 32))) := by
  simp [State.latchRead, counter, (partsRead_sameSight [(a, 0, 32)] s).1]

/-- The read of the high half of the counter that the latch holds delivers the latch. -/
theorem latchRead_high {s : State} {p : Path} {pa v : Nat} {a : CsrAt} (counter : a.spec.counter = true)
    (held : s.latch.get p = some (pa, v)) :
    s.latchRead p (pa + 4) 32 [(a, 32, 32)] = (v, (State.partsRead [(a, 32, 32)] s).2) := by
  simp [State.latchRead, counter, held]

/-- A read of 64 bits reads the parts and leaves the latch. -/
theorem latchRead_wide (s : State) (p : Path) (pa : Nat) (l : List (CsrAt × Nat × Nat)) :
    s.latchRead p pa 64 l = State.partsRead l s := by
  unfold State.latchRead
  dsimp only
  split
  · rw [if_neg (by simp)]
  · rfl

/-- A read over a path that is taking accesses, outside the repair window. -/
theorem pathRead_taken {s : State} {p : Path} {pa w : Nat} {l : List (CsrAt × Nat × Nat)} (taking : s.taking p pa)
    (outside : isRepair pa = false) (touch : csrTouch pa w = some l) : s.pathRead p pa w = (s.readCross pa).latchRead p pa w l := by
  obtain ⟨listening, path⟩ := taking
  have far := pathOpen_far path
  obtain ⟨-, released, -⟩ := id listening
  simp only [State.pathRead, listening_shut listening, released, touch, outside, if_neg far, Bool.false_eq_true,
    not_true_eq_false, false_and, if_false]

theorem readOut_taken {s : State} {p : Path} {pa w : Nat} (taking : s.taking p pa) : s.readOut p pa w = s.readServe p pa w :=
  readOut_of_not_held s p pa w (listening_shut taking.1) (pathOpen_held taking.2)

theorem readServe_latch (s : State) (p : Path) (pa w : Nat) : (s.readServe p pa w).latch = (s.pathRead p pa w).2.latch :=
  (tally_sameSight _ _ _ _ _ (by decide)).1

theorem readServe_out (s : State) (p : Path) (pa w : Nat) :
    (s.readServe p pa w).out = .readData p pa w (s.pathRead p pa w).1 :: (s.pathRead p pa w).2.out :=
  (tally_sameSight _ _ _ _ _ (by decide)).2

theorem rwDenied_latch (s : State) (pa : Nat) : (s.rwDenied pa).latch = s.latch := by
  have stack : s.fld 0 F.rw_sel_stack < 2 ^ 3 := bits_lt ..
  exact (sameSight_of_sameButLog (raise_sameButLog s _ _ _ _ _ [] (by omega))).1

/-- A read of 64 bits leaves the latches. -/
theorem pathRead_wide_latch (s : State) (p : Path) (pa : Nat) : (s.pathRead p pa 64).2.latch = s.latch := by
  unfold State.pathRead
  split
  · rfl
  split
  · rfl
  split
  · exact (sameSight_of_sameButLog (raise_sameButLog s _ _ _ _ _ [] (by decide))).1
  split
  · exact rwDenied_latch s pa
  split
  · rfl
  · rw [latchRead_wide]
    exact ((readCross_sameSight s pa).trans (partsRead_sameSight _ _)).1

theorem pathQueue_latch (s : State) (q : PathReq) : (s.pathQueue q).latch = s.latch := by
  unfold State.pathQueue
  split <;> rfl

theorem readOut_wide_latch (s : State) (p : Path) (pa : Nat) : (s.readOut p pa 64).latch = s.latch := by
  unfold State.readOut
  split
  · rfl
  split
  · exact pathQueue_latch ..
  · rw [readServe_latch, pathRead_wide_latch]

/-- Setting the latch of one path leaves the latches of the others. -/
theorem Latches.get_set_of_ne (l : Latches) {p q : Path} (v : Option (Nat × Nat)) (ne : q ≠ p) : (l.set p v).get q = l.get q := by
  cases p <;> cases q <;> simp_all [Latches.set, Latches.get]

/-- Settles O43: only the read of a low half of 32 bits sets a latch, and it sets its own. -/
theorem counterLatch : Obligations.CounterLatch := by
  unfold Obligations.CounterLatch
  refine ⟨?low, ?high, ?wide, fun s p q v ne => Latches.get_set_of_ne _ v ne⟩
  case low =>
    intro s p pa a taking outside touch counter
    refine ⟨_, congrArg Host.Outcome.next (readOut_taken taking), ?_⟩
    rw [readServe_latch, pathRead_taken taking outside touch, latchRead_low _ _ _ counter, (readCross_sameSight s pa).1]
  case high =>
    intro s p pa v a taking outside touch counter held
    have cross := readCross_sameSight s (pa + 4)
    have sight := cross.trans (partsRead_sameSight [(a, 32, 32)] _)
    have read : s.pathRead p (pa + 4) 32 = (v, (State.partsRead [(a, 32, 32)] (s.readCross (pa + 4))).2) := by
      rw [pathRead_taken taking outside touch, latchRead_high counter (by rw [cross.1, held])]
    refine ⟨_, congrArg Host.Outcome.next (readOut_taken taking), ?_, ?_⟩
    · rw [readServe_out, read, sight.2]
    · rw [readServe_latch, read, sight.1]
  case wide =>
    intro s t p pa run
    obtain rfl : s.readOut p pa 64 = t := Host.Outcome.next.inj run
    exact readOut_wide_latch s p pa

end Sys2Proof.Machine
end

section
/-! SUPPORT. The periodic readings: sensors, power samples, regulators, temperatures, coolant and engine times. -/

namespace Sys2Proof.Machine

/-! ## What an event or a count leaves of the power registers -/

theorem fld_of_sameButLog {s t : State} {ks : List Nat} (h : s.sameButLog t ks) {d : Nat} {f : Fld} {i : Nat} (other : f.reg.key d i ∉ ks)
    (log0 : f.reg.key d i ∉ logKeys 0) (log1 : f.reg.key d i ∉ logKeys 1) : t.fld d f i = s.fld d f i := by
  rw [State.fld, State.fld, sameButLog_reg h d f.reg i other log0 log1]

/-- An event of the power unit changes its first record and the error log. -/
theorem pwrRaise_sameButLog (s : State) (code det : Nat) : s.sameButLog (s.pwrRaise code det) [R.pwr_ff.key 0 0] :=
  sameButLog_trans (recordFirst_sameButLog s 0 F.pwr_ff_valid _ 0 _ (.inl (by simp [F.pwr_ff_valid])))
    (raise_sameButLog _ _ _ _ _ _ _ (by decide))

theorem pwrTally_sameButLog (s : State) {r : Reg} (unit : r.unit = 0x18) :
    s.sameButLog (s.tally 0 r) [r.key 0 0, R.pwr_tally_ovf.key 0 0] := by
  refine tally_sameButLog s 0 r 0 1 _ (by decide) (by simp) fun f c ovf => ?_
  obtain ⟨rfl, rfl⟩ : F.pwr_tally_ovf_ovf = f ∧ 0xB007 = c := by
    rw [unit] at ovf
    exact Prod.mk.inj (Option.some.inj ovf)
  exact List.mem_cons_of_mem _ (List.mem_singleton_self _)

/-- The power and its source that `pwr.stat` shows are the same. -/
def State.sameStat (s t : State) : Prop :=
  t.fld 0 F.pwr_stat_p = s.fld 0 F.pwr_stat_p ∧ t.fld 0 F.pwr_stat_src = s.fld 0 F.pwr_stat_src

theorem State.sameStat.trans {s t u : State} (h : s.sameStat t) (g : t.sameStat u) : s.sameStat u :=
  ⟨g.1.trans h.1, g.2.trans h.2⟩

theorem sameStat_refl (s : State) : s.sameStat s := ⟨rfl, rfl⟩

theorem updPwr_sameStat (s : State) (f : PowerState → PowerState) : s.sameStat (s.updPwr f) := ⟨rfl, rfl⟩

theorem State.sameStat.ite {s t u : State} {c : Prop} [Decidable c] (h : s.sameStat t) (g : s.sameStat u) :
    s.sameStat (if c then t else u) := by
  split
  · exact h
  · exact g

theorem sameStat_of_sameButLog {s t : State} {ks : List Nat} (h : s.sameButLog t ks) (other : R.pwr_stat.key 0 0 ∉ ks) : s.sameStat t :=
  ⟨fld_of_sameButLog h other (by decide) (by decide), fld_of_sameButLog h other (by decide) (by decide)⟩

theorem pwrRaise_sameStat (s : State) (code det : Nat) : s.sameStat (s.pwrRaise code det) :=
  sameStat_of_sameButLog (pwrRaise_sameButLog s code det) (by decide)

theorem showRegions_sameStat (s : State) (l : List Nat) : s.sameStat (s.showRegions l) := by
  induction l generalizing s with
  | nil => exact ⟨rfl, rfl⟩
  | cons r l ih =>
    exact State.sameStat.trans ⟨fld_setFld_apart _ _ _ _ _ _ _ _ (pwr_stat_key_ne_rclk r), fld_setFld_apart _ _ _ _ _ _ _ _ (pwr_stat_key_ne_rclk r)⟩
      (ih _)

theorem showTheta_sameStat (s : State) : s.sameStat s.showTheta := by
  obtain ⟨v, eq⟩ := showTheta_eq s
  rw [eq]
  refine (showRegions_sameStat s (List.range 16)).trans ⟨?_, ?_⟩ <;>
    exact fld_setFld_beside _ _ _ _ _ _ rfl (by decide) (by decide) (by decide)

/-! ## Power samples -/

/-- The source of a sample is what `pwr.stat` shows of it. -/
theorem takeSource_src (s : State) (est : Nat) : (s.takeSource est).1.fld 0 F.pwr_stat_src = b2n (s.takeSource est).2.2 := by
  unfold State.takeSource
  cases s.pwr.source with
  | ok p => exact fld_setFld _ 0 F.pwr_stat_src 1 0 (by decide) (by decide)
  | error why =>
    exact (sameStat_of_sameButLog (pwrTally_sameButLog _ rfl) (by decide)).2.trans
      (fld_setFld _ 0 F.pwr_stat_src 0 0 (by decide) (by decide))

/-- What a sample leaves of the shown power and source after it stored them. -/
theorem powerSample_shows (s : State) (est : Nat) :
    ∃ t, exec (.powerSample est) s = .next t ∧ ((s.takeSource est).1.setFld 0 F.pwr_stat_p (s.takeSource est).2.1).sameStat t := by
  have raised (u : State) (c : Prop) [Decidable c] (code det : Nat) : u.sameStat (if c then u.pwrRaise code det else u) :=
    .ite (pwrRaise_sameStat u code det) (sameStat_refl u)
  have capped (u : State) (c : Prop) [Decidable c] : u.sameStat (if c then u else u.tally 0 R.pwr_t_cap) :=
    .ite (sameStat_refl u) (sameStat_of_sameButLog (pwrTally_sameButLog u rfl) (by decide))
  have braked (u : State) (c : Prop) [Decidable c] : u.sameStat (if c then u.tally 0 R.pwr_t_brake else u) :=
    .ite (sameStat_of_sameButLog (pwrTally_sameButLog u rfl) (by decide)) (sameStat_refl u)
  simp only [exec, execPowerSample]
  generalize s.takeSource est = q
  exact ⟨_, rfl, (((((updPwr_sameStat _ _).trans (raised _ _ _ _)).trans (updPwr_sameStat _ _)).trans (capped _ _)).trans
    (braked _ _)).trans (showTheta_sameStat _)⟩

/-! ## Sensor readings -/

/-- The temperatures into telemetry, once there are some. -/
def State.showTemps (s : State) : State :=
  if s.pwr.temps.isEmpty then s
  else
    let s := (List.range 16).foldl (fun s r => s.setReg 0 R.tele_tj (2 ^ 31 + tempBits (s.pwr.temps.getD r 0)) r) s
    [0, 1].foldl (fun s d => s.setReg 0 R.tele_tdie (2 ^ 31 + tempBits (s.dieTemp d)) d) s

/-- The readings of the rails into telemetry. -/
def State.showRails (s : State) (rails : List (Nat × Nat)) : State :=
  (List.range 16).foldl
    (fun s k =>
      match rails[k]? with
      | some (i, v) => (s.setFld 0 F.tele_rail_i i k).setFld 0 F.tele_rail_v v k
      | none => s) s

theorem exec_sensorRefresh {s : State} (hold : s.boot.hold = none) (rails : List (Nat × Nat)) :
    exec (.sensorRefresh rails) s =
      .next (((s.showTemps.setFld 0 F.tele_ppkg_src (s.showTemps.fld 0 F.pwr_stat_src)).setFld 0 F.tele_ppkg_p
        (s.showTemps.fld 0 F.pwr_stat_p)).showRails rails) := by
  have running : ¬ s.boot.hold.isSome = true := by simp [hold]
  exact if_neg running

theorem tele_tj_sameStat (s : State) (v r : Nat) : s.sameStat (s.setReg 0 R.tele_tj v r) := by
  have apart : R.pwr_stat.key 0 0 ≠ R.tele_tj.key 0 r := by
    simp [Reg.key, R.pwr_stat, R.tele_tj]
    omega
  exact ⟨fld_setReg_apart _ _ _ _ _ _ _ _ apart, fld_setReg_apart _ _ _ _ _ _ _ _ apart⟩

theorem tele_tdie_sameStat (s : State) (v d : Nat) : s.sameStat (s.setReg 0 R.tele_tdie v d) := by
  have apart : R.pwr_stat.key 0 0 ≠ R.tele_tdie.key 0 d := by
    simp [Reg.key, R.pwr_stat, R.tele_tdie]
    omega
  exact ⟨fld_setReg_apart _ _ _ _ _ _ _ _ apart, fld_setReg_apart _ _ _ _ _ _ _ _ apart⟩

theorem showTemps_sameStat (s : State) : s.sameStat s.showTemps ∧ s.showTemps.mem = s.mem := by
  unfold State.showTemps
  split
  · exact ⟨⟨rfl, rfl⟩, rfl⟩
  · refine List.foldlRecOn (motive := fun t => s.sameStat t ∧ t.mem = s.mem) _ _
      (List.foldlRecOn (motive := fun t => s.sameStat t ∧ t.mem = s.mem) _ _ ⟨⟨rfl, rfl⟩, rfl⟩ ?_) ?_
    · exact fun t kept r _ => ⟨kept.1.trans (tele_tj_sameStat t _ r), kept.2⟩
    · exact fun t kept d _ => ⟨kept.1.trans (tele_tdie_sameStat t _ d), kept.2⟩

/-- The rails' registers are apart from the one of the power. -/
theorem showRails_keeps (s : State) (rails : List (Nat × Nat)) :
    (s.showRails rails).reg 0 R.tele_ppkg = s.reg 0 R.tele_ppkg ∧ (s.showRails rails).mem = s.mem := by
  have apart (k : Nat) : R.tele_ppkg.key 0 0 ≠ R.tele_rail.key 0 k := by
    simp [Reg.key, R.tele_ppkg, R.tele_rail]
    omega
  refine List.foldlRecOn (motive := fun t : State => t.reg 0 R.tele_ppkg = s.reg 0 R.tele_ppkg ∧ t.mem = s.mem) _ _ ⟨rfl, rfl⟩
    fun t kept k _ => ?_
  split
  · exact ⟨((reg_setFld_apart _ _ _ _ _ _ _ _ (apart k)).trans (reg_setFld_apart _ _ _ _ _ _ _ _ (apart k))).trans kept.1, kept.2⟩
  · exact kept

/-! ## Regulators, temperatures, coolant -/

theorem assocGet_assocPut_same {α : Type} (k : Nat) (v : α) (l : List (Nat × α)) : assocGet k (assocPut k v l) = some v := by
  induction l with
  | nil => simp [assocPut, assocGet]
  | cons e r ih =>
    rcases Nat.lt_trichotomy k e.1 with lt | rfl | gt
    · simp [assocPut, assocGet, lt]
    · simp [assocPut, assocGet]
    · simp [assocPut, assocGet, Nat.not_lt.2 gt.le, gt.ne', gt.ne, ih]

theorem pwr_of_sameButLog {s t : State} {ks : List Nat} (h : s.sameButLog t ks) : t.pwr = s.pwr := by
  rw [h.1]

/-- A poll of the status word `st` of regulator `d`. -/
def State.pollOne (s : State) (d st : Nat) (addr : Fld) : State :=
  let old := (assocGet d s.pwr.faults).getD 0
  let s := if st - (st &&& old) = 0 then s else s.pwrRaise 0xB005 (s.fld 0 addr + st * 2 ^ 16)
  s.updPwr fun x => { x with faults := assocPut d st x.faults }

theorem pollOne_faults (s : State) (d st : Nat) (addr : Fld) : (s.pollOne d st addr).pwr.faults = assocPut d st s.pwr.faults := by
  have raised (c : Prop) [Decidable c] (code det : Nat) : (if c then s else s.pwrRaise code det).pwr = s.pwr := by
    split
    · rfl
    · exact pwr_of_sameButLog (pwrRaise_sameButLog s code det)
  simp only [State.pollOne, State.updPwr, raised]

theorem warn_pwr (s : State) {d : Nat} (code : Nat) (hd : d < 2) : (s.warn d code).pwr = s.pwr := by
  unfold State.warn
  split
  · rfl
  · dsimp only
    have counted : (s.tally d R.rec_t_warn).pwr = s.pwr :=
      pwr_of_sameButLog (tally_sameButLog s d R.rec_t_warn 0 1 [R.rec_t_warn.key d 0, F.rec_tally_ovf_ovf.reg.key d 0] hd (by simp)
        fun f c ovf => by
          obtain rfl : F.rec_tally_ovf_ovf = f := (Prod.mk.inj (Option.some.inj ovf)).1
          simp)
    have raised : ((s.tally d R.rec_t_warn).raise
        (if s.fld d F.rec_stat_rc = 1 || s.fld d F.rec_stat_rc = 2 then d else 1 - d) 0x15 0x8001 (code + 256 * d)).pwr = s.pwr :=
      (pwr_of_sameButLog (raise_sameButLog _ _ _ _ _ {} [] (by split <;> omega))).trans counted
    generalize (s.tally d R.rec_t_warn).raise _ _ _ _ = u at raised ⊢
    repeat' split
    all_goals exact raised

theorem warnThermal_pwr (s : State) {d : Nat} (old new : List Int) (hd : d < 2) : (s.warnThermal d old new).pwr = s.pwr := by
  unfold State.warnThermal
  dsimp only
  split
  · exact warn_pwr s 4 hd
  · rfl

/-- The sensors' temperatures and the thermal levels are the same. -/
def State.sameTemps (s t : State) : Prop := t.pwr.temps = s.pwr.temps ∧ t.pwr.therm = s.pwr.therm

theorem State.sameTemps.trans {s t u : State} (h : s.sameTemps t) (g : t.sameTemps u) : s.sameTemps u :=
  ⟨g.1.trans h.1, g.2.trans h.2⟩

theorem sameTemps_of_pwr {s t : State} (h : t.pwr = s.pwr) : s.sameTemps t := ⟨by rw [h], by rw [h]⟩

/-- What a thermal step tells of hot sensors. -/
def State.warnHot (s : State) (temps : List Int) : State :=
  match temps.zipIdx.find? fun t => (760 : Int) ≤ t.1 with
  | some t => if s.pwr.warned then s
    else (s.updPwr fun x => { x with warned := true }).pwrRaise 0xB002 (t.2 + degrees t.1 * 256)
  | none => if temps.all fun t => t ≤ (744 : Int) then s.updPwr fun x => { x with warned := false } else s

theorem warnHot_sameTemps (s : State) (temps : List Int) : s.sameTemps (s.warnHot temps) := by
  unfold State.warnHot
  split
  · split
    · exact ⟨rfl, rfl⟩
    · have marked : s.sameTemps (s.updPwr fun x => { x with warned := true }) := ⟨rfl, rfl⟩
      exact marked.trans (sameTemps_of_pwr (pwr_of_sameButLog (pwrRaise_sameButLog _ _ _)))
  · split <;> exact ⟨rfl, rfl⟩

/-- A thermal step sets the temperatures and moves the levels, and what it tells of them leaves both. -/
theorem thermalStep_sets (s : State) (temps : List Int) :
    ∃ t, exec (.thermalStep temps) s = .next t ∧
      (s.updPwr fun x => { x with
        temps := temps.take 32
        therm := (List.range 16).map fun r => match (temps.take 32)[r]? with
          | some t => thermStep (s.fld 0 F.pwr_therm_thr) t (x.therm.getD r 0)
          | none => x.therm.getD r 0 }).sameTemps t := by
  have counted (u : State) (c : Prop) [Decidable c] : u.sameTemps (if c then u.tally 0 R.pwr_t_therm else u) := by
    split
    · exact sameTemps_of_pwr (pwr_of_sameButLog (pwrTally_sameButLog u rfl))
    · exact ⟨rfl, rfl⟩
  have warned (u : State) (old new : List Int) : u.sameTemps ((u.warnThermal 0 old new).warnThermal 1 old new).showTheta :=
    sameTemps_of_pwr ((showTheta_sameThrottle _).1.trans
      ((warnThermal_pwr _ _ _ (by decide)).trans (warnThermal_pwr _ _ _ (by decide))))
  simp only [exec, execThermalStep]
  exact ⟨_, rfl, ((counted _ _).trans (warnHot_sameTemps _ (temps.take 32))).trans (warned _ _ _)⟩

theorem wrap_lt (n : Nat) (v : Int) : wrap n v < 2 ^ n := by
  have pos : (0 : Int) < 2 ^ n := by positivity
  have lt := Int.emod_lt_of_pos v pos
  have nonneg := Int.emod_nonneg v pos.ne'
  zify
  rwa [wrap, Int.toNat_of_nonneg nonneg]

/-- What a reading of the coolant stores in its register: the temperature above the flow. -/
def State.coolWord (s : State) (x : Int) (n : Nat) : Nat := wrap 16 x * 2 ^ 16 + min 0xFFFF (n * 6000 / s.fld 0 F.pwr_cool_kfac)

theorem reg_setReg_coolst (s : State) (x : Int) (n : Nat) : (s.setReg 0 R.pwr_coolst (s.coolWord x n)).reg 0 R.pwr_coolst = s.coolWord x n := by
  have temp := wrap_lt 16 x
  rw [reg_setReg _ _ _ _ _ (by decide), Nat.mod_eq_of_lt]
  show State.coolWord s x n < 2 ^ 32
  unfold State.coolWord
  omega

/-- While the coolant is watched, a reading leaves its register and marks a temperature outside the range. -/
theorem coolantRead_watched {s : State} (x : Int) (n : Nat)
    (cool : (s.setReg 0 R.pwr_coolst (s.coolWord x n)).flag 0 F.pwr_ctl_cool = true) :
    ∃ t, exec (.coolantRead x n) s = .next t ∧ t.reg 0 R.pwr_coolst = s.coolWord x n ∧
      (s.flag 0 F.pwr_ctl_cool = true → x < 120 ∨ 320 < x → t.flag 0 F.pwr_stat_cool_bad = true) := by
  have word := reg_setReg_coolst s x n
  have told (u : State) (code det : Nat) : (u.pwrRaise code det).reg 0 R.pwr_coolst = u.reg 0 R.pwr_coolst :=
    sameButLog_reg (pwrRaise_sameButLog u code det) 0 R.pwr_coolst 0 (by decide) (by decide) (by decide)
  have marked (u : State) (v : Nat) : (u.setFld 0 F.pwr_stat_cool_bad v).reg 0 R.pwr_coolst = u.reg 0 R.pwr_coolst :=
    reg_setFld_apart _ _ _ _ _ _ _ _ (by decide)
  simp only [exec, execCoolantRead]
  unfold State.coolWord at cool word
  rw [if_neg (not_not.2 cool)]
  split
  case isTrue =>
    refine ⟨_, rfl, (told _ _ _).trans ((marked _ _).trans word), fun _ _ => ?_⟩
    rw [State.flag, fld_of_sameButLog (pwrRaise_sameButLog _ _ _) (by decide) (by decide) (by decide),
      fld_setFld _ _ _ _ _ (by decide) (by decide)]
    rfl
  case isFalse good =>
    refine ⟨_, rfl, ?_, fun _ out => absurd (.inl ?_) good⟩
    · split
      · exact (marked _ _).trans word
      · exact word
    · simpa using out

/-- The units of 1024 ns of an engine's time that one record takes. -/
def engUnits (n : Nat) : Nat := min (n / 1024) (2 ^ 20 - 1)

/-- The records of a report: the first 128 engines whose time makes up a unit. -/
def engRecords (eng : List (Nat × Nat)) : List (Nat × Nat) :=
  ((eng.filter fun e => engUnits e.2 ≠ 0).take 128).map fun e => (e.1, engUnits e.2)

theorem engRecords_length (eng : List (Nat × Nat)) : (engRecords eng).length ≤ 128 := by
  rw [engRecords, List.length_map]
  exact List.length_take_le ..

theorem engRecords_times (eng : List (Nat × Nat)) : ∀ q ∈ engRecords eng, 0 < q.2 ∧ q.2 < 2 ^ 20 := by
  intro q inReport
  obtain ⟨e, taken, rfl⟩ := List.mem_map.1 inReport
  have nonzero : engUnits e.2 ≠ 0 := of_decide_eq_true (List.mem_filter.1 (List.mem_of_mem_take taken)).2
  have small : engUnits e.2 ≤ 2 ^ 20 - 1 := Nat.min_le_right ..
  exact ⟨Nat.pos_of_ne_zero nonzero, Nat.lt_of_le_sub_one (by decide) small⟩

/-- Settles O49: each reading is followed to the registers and the lists that show it. -/
theorem periodicReadingsComplete : Obligations.PeriodicReadingsComplete := by
  unfold Obligations.PeriodicReadingsComplete
  refine ⟨?sensors, ?sample, ?poll, ?thermal, ?coolant, ?engines⟩
  case sensors =>
    intro s l hold
    obtain ⟨⟨power, source⟩, mem⟩ := showTemps_sameStat s
    refine ⟨_, exec_sensorRefresh hold l, ?_, ?_, ?_⟩
    · rw [State.fld, show F.tele_ppkg_p.reg = R.tele_ppkg from rfl, (showRails_keeps _ l).1, ← power]
      exact fld_setFld _ 0 F.tele_ppkg_p _ 0 (by decide) (by decide)
    · rw [State.fld, show F.tele_ppkg_src.reg = R.tele_ppkg from rfl, (showRails_keeps _ l).1, ← source]
      exact (fld_setFld_beside _ 0 F.tele_ppkg_p _ 0 F.tele_ppkg_src rfl (by decide) (by decide) (by decide)).trans
        (fld_setFld _ 0 F.tele_ppkg_src _ 0 (by decide) (by decide))
    · intro a
      rw [State.byte, (showRails_keeps _ l).2]
      exact congrArg (fun m => cellAt a m.cells) mem
  case sample =>
    intro s est
    obtain ⟨t, run, power, source⟩ := powerSample_shows s est
    refine ⟨t, run, power.trans (fld_setFld _ 0 F.pwr_stat_p _ 0 (by decide) (by decide)), source.trans ?_⟩
    exact (fld_setFld_beside _ 0 F.pwr_stat_p _ 0 F.pwr_stat_src rfl (by decide) (by decide) (by decide)).trans (takeSource_src s est)
  case poll =>
    intro s a b
    refine ⟨(s.pollOne 0 a F.pwr_pmb_addr0).pollOne 1 b F.pwr_pmb_addr1, rfl, ?_, ?_⟩
    · rw [pollOne_faults, pollOne_faults, assocGet_assocPut_apart _ (by decide), assocGet_assocPut_same]
    · rw [pollOne_faults, assocGet_assocPut_same]
  case thermal =>
    intro s l
    obtain ⟨t, run, temps, therm⟩ := thermalStep_sets s l
    refine ⟨t, run, temps, fun r x lt at_ => ?_⟩
    have taken : (l.take 32)[r]? = some x := by rw [List.getElem?_take_of_lt (by omega), at_]
    rw [therm]
    simp [State.updPwr, lt, taken]
  case coolant =>
    intro s x n
    by_cases cool : (s.setReg 0 R.pwr_coolst (s.coolWord x n)).flag 0 F.pwr_ctl_cool = true
    · exact coolantRead_watched x n cool
    · refine ⟨_, if_pos cool, reg_setReg_coolst s x n, fun watched => absurd ?_ cool⟩
      rwa [State.flag, fld_setReg_apart _ _ _ _ _ _ _ _ (by decide)]
  case engines =>
    intro s d
    refine ⟨_, engRecords (s.ctxd.get d).eng, rfl, ?_, engRecords_length _, engRecords_times _⟩
    rcases Fin.exists_fin_two.1 ⟨d, rfl⟩ with rfl | rfl <;> rfl

end Sys2Proof.Machine
end
